-- ==== Sys2Proof/Word.lean ====
section
/-! DEFINITION. The word types of the part (R8: registers are 32 bits wide) and the address type. -/

namespace Sys2Proof

/-- A 32-bit register, parameter word or port word (R8). -/
abbrev Word := BitVec 32

/-- One byte of an addressed memory. -/
abbrev Byte := BitVec 8

/-- A local physical address, 40 bits wide (R32). -/
abbrev Addr := BitVec 40

/-- An offset from the register base 0x00_4000_0000 (R35). -/
abbrev Off := Nat

/-- An instant of time, in units of 2^-16 ns, the resolution R7 gives the time of day. -/
abbrev Instant := Nat

end Sys2Proof
end

