-- ==== Sys2Proof/CycImage.lean ====
section
/-! DEFINITION. What a cyclic image declares (chapter 10): the spec gives these contents and not their bytes, so an image
slot is read through `Config.cycImage`. -/

namespace Sys2Proof

/-- The source of an input (R281). -/
inductive CycSource
  | gpio | aux (n : Nat) | pos (n : Nat) | safe (w : Nat) | ep (g k : Nat) | ramp (c : Nat) | module (m off : Nat)
  | mirror (ident : Nat)
deriving DecidableEq, Repr

/-- The target of an output (R283, R287). -/
inductive CycTarget
  | pin (i : Fin 32) | module (m : Fin 64) (off : Nat) | spw (g : Fin 2) (k : Fin 16) | rampTgt (c : Fin 16) | rampCtl (c : Fin 16)
  | seqcmd (g : Fin 2)
deriving DecidableEq, Repr

/-- An input or an output of a task: its word in the task's image, the variable it is, and its source or target. -/
structure CycIn where
  word : Nat
  ident : Nat
  src : CycSource
deriving DecidableEq, Repr

/-- An output of a task. -/
structure CycOut where
  word : Nat
  ident : Nat
  dst : CycTarget
deriving DecidableEq, Repr

/-- A variable: its identity, type (R335), offset in the variable area and size in bytes, and whether it is marked
MIRROR. -/
structure CycVar where
  ident : Nat
  typ : Nat
  off : Nat
  size : Nat
  mirror : Bool
deriving DecidableEq, Repr

/-- The I/O map of the sequencing library (R76, R100), in the images of the task that carries it: word and bit of each
feedback in the input image and of each signal in the output image. -/
structure LibMap where
  kpcFb : Nat × Nat
  kmFb : Nat × Nat
  cb1Fb : Nat × Nat
  cb2Fb : Nat × Nat
  kpc : Nat × Nat
  km : Nat × Nat
  cb1 : Nat × Nat
  syncOk : Nat × Nat
deriving DecidableEq, Repr

/-- A task descriptor (Table 10.1); times in units of 2^-16 ns. -/
structure CycDesc where
  id : Nat
  cyclic : Bool
  prio : Nat
  slot : Nat
  period : Nat
  wdmult : Nat
  src : Nat
  minia : Nat
  deadline : Nat
  isize : Nat
  osize : Nat
  /-- Identity of the body: a changed body has another one. -/
  code : Nat
  ins : List CycIn
  outs : List CycOut
  /-- Identities of the variables that the task accesses. -/
  uses : List Nat
  /-- The library's I/O map, in the task whose body it is. -/
  lib : Option LibMap := none
deriving DecidableEq, Repr

/-- A remote module (R285, R286). -/
structure CycModule where
  num : Fin 64
  node : Nat
  addr : Nat
  size : Nat
  input : Bool
  period : Nat
  safe : List Byte
deriving DecidableEq, Repr

/-- An entry of the layout map of an on-line change (R295): identity, type, old and new offset. -/
structure CycMap where
  ident : Nat
  typ : Nat
  old : Nat
  new : Nat
  size : Nat
deriving DecidableEq, Repr

/-- A cyclic image. -/
structure CycImage where
  id : Nat := 0
  /-- Stepping that the image was built for (R2). -/
  step : Nat := 0
  tasks : List CycDesc := []
  vars : List CycVar := []
  map : List CycMap := []
  modules : List CycModule := []
  spwSafe : List (Fin 2 × Fin 16 × Word) := []
  rampSafe : List (Fin 16 × Word) := []
  pinSafe : List (Fin 32 × Bool) := []
  timers : List Nat := []
  edges : List Nat := []
  /-- Initial values of variables: offset and byte. -/
  init : List (Nat × Byte) := []
deriving DecidableEq, Repr, Inhabited

end Sys2Proof
end

