-- ==== Sys2Proof/Syntax.lean ====
section
/-! DEFINITION. The commands of the part: one constructor of `Instr` for each row of the table of operations and events,
with the operands that the rules of its step use. The operand types stand first. -/

namespace Sys2Proof

/-- A control group (R14, R36): A is lanes L0 to L2 at reset, B lanes L3 to L5. -/
inductive Grp | A | B
deriving DecidableEq, Repr, Inhabited

/-- Index of a group: 0 for A, 1 for B. -/
def Grp.ix : Grp → Nat
  | .A => 0
  | .B => 1

/-- An initiator of bus accesses (R10, R40, R42): a core pair, a DMA channel, the host port, the ring ports, the
Ethernet switch or the capture engine. -/
inductive Initiator
  | core (k : Fin 4) | dma (c : Fin 16) | host | ring | eth | cap
deriving DecidableEq, Repr

/-- A number of its own for each initiator. -/
def Initiator.ix : Initiator → Nat
  | .core k => k.val
  | .dma c => 4 + c.val
  | .host => 20
  | .ring => 21
  | .eth => 22
  | .cap => 23

/-- The initiator code of SYS_DECERR and SYS_OCC_i (R42). -/
def Initiator.code : Initiator → Nat
  | .core k => k.val
  | .dma _ => 4
  | .host => 5
  | .ring => 6
  | .eth => 7
  | .cap => 8

/-- A unit that commits as one (R25, R27): a group's CLE, SENSE or PWM set, or a block that commits immediately. -/
inductive CUnit
  | cle (g : Grp) | sense (g : Grp) | pwm (g : Grp)
  | pos | cap | gpio | auxadc | prot | gate | ramp | nvm | cyc | ring | pair | eth | time | spare | clk | pwr | mon
deriving DecidableEq, Repr

/-- The group whose boundary a unit moves at, if it is not an immediate block (R25). -/
def CUnit.grp? : CUnit → Option Grp
  | .cle g => some g
  | .sense g => some g
  | .pwm g => some g
  | _ => none

/-- A write to the GPIO output latches (Table 1.18): the whole latch, its set alias or its clear alias. -/
inductive LatchWrite | out | set | clr
deriving DecidableEq, Repr

/-- An operation of a figure as it issues (Table 5.1): the lane, the bundle it stands in, its operand fields, its
guard and its modifier. -/
structure VOp where
  lane : Fin 8
  bundle : BitVec 13
  d : BitVec 6
  s1 : BitVec 6
  s2 : BitVec 6
  p : BitVec 3
  mod : BitVec 5
deriving DecidableEq, Repr


/-- The monitors of Table 17.8, by the period on which they are sampled. -/
inductive MonKind | temp | volt | pm
deriving DecidableEq, Repr

/-! What a grid figure computes with (chapters 2 and 3). -/

/-- One pu in the units of the figure's quantities, chosen so that every FP32 word and every decimal constant of the spec
is a whole number of them (DESIGN CHOICE, log entry 21). -/
def pu : Int := 375 * 2 ^ 160

/-- What the line of a sigma-delta channel carries, as each way to read it gives it (R172): sampled at the rising and at the falling
edges of the clock pin, and recovered from Manchester data. -/
structure SdLine (α : Type) where
  rising : α
  falling : α
  manchester : α
deriving DecidableEq, Repr

/-- What one sample measures (Table 2.1, R45 to R47): vectors in the stationary frame, sequence components and
magnitudes. -/
structure GridMeas where
  ic : Int × Int := (0, 0)
  vc : Int × Int := (0, 0)
  ig : Int × Int := (0, 0)
  v1 : Int × Int := (0, 0)
  v2 : Int × Int := (0, 0)
  i1 : Int × Int := (0, 0)
  i2 : Int × Int := (0, 0)
  vt : Int × Int := (0, 0)
  v1m : Int := 0
  vb : Int := 0
  vu : Int := 0
  vdc : Int := 0
  vnp : Int := 0
  pe : Int := 0
  qe : Int := 0
  pset : Int := 0
  qset : Int := 0
  vset : Int := 0
  wset : Int := 0
  clamped : Bool := false
deriving DecidableEq, Repr

/-- An estimator of angle and frequency (R62): its angle, frequency and hold state, and the samples of the quarter-period
delay, newest first. DESIGN CHOICE (log entry 62): it starts in hold at 1 pu and angle 0, with a delay line that reads 0. -/
structure GridEst where
  th : Word := 0
  w : Int := pu
  hold : Bool := true
  hist : List (Int × Int) := []
deriving DecidableEq, Repr

/-- A profile episode (R95): its first sample, and since when the voltage has been beyond the boundary and at or inside
the last voltage. -/
structure GridEpisode where
  start : Instant
  beyond : Option Instant := none
  inside : Option Instant := none
deriving DecidableEq, Repr

/-- The state of a grid figure. -/
structure GridState where
  mode : Nat := 0
  seqAck : Nat := 0
  rej : Nat := 0
  cause : Nat := 0
  th : Word := 0
  w : Int := pu
  term : GridEst := {}
  bus : GridEst := {}
  main : GridEst := {}
  curHist : List (Int × Int) := []
  meas : GridMeas := {}
  qf : Int := 0
  xact : Int := 0
  iact : Int := 0
  xtr : Bool := false
  /-- The transient window: when it opened, whether a new one may open, since when the reference has been within the
  continuous limit, and the fall after it with the limit it falls from. -/
  winAt : Option Instant := none
  armed : Bool := true
  quietAt : Option Instant := none
  fall : Option (Instant × Int) := none
  /-- Words 7, 11, 12, 13, 14 and 15 in force (R64), and words 48 to 80 (R86). -/
  faultWords : List Word := []
  profile : List Word := []
  uv : Option GridEpisode := none
  ov : Option GridEpisode := none
  /-- In RIDE: since when neither trigger nor episode has been. -/
  freeAt : Option Instant := none
  /-- In FORM: whether pre-magnetisation runs, the start of it or of the ramp, and T_BS as latched. -/
  premag : Bool := false
  rampAt : Instant := 0
  tbs : Word := 0
  /-- States x1 and x2 of the resonant terms, and s1 and s2 of the extraction and notch sections, by term and axis. -/
  reson : List (Nat × (Int × Int)) := []
  biq : List (Nat × (Word × Word)) := []
  ilim : Bool := false
  ovmod : Bool := false
  guarded : Bool := false
  negLim : Bool := false
  npLim : Bool := false
  /-- Phase references of the sample. -/
  refs : Int × Int × Int := (0, 0, 0)
  i2ref : Int × Int := (0, 0)
  /-- A transition was made, or a command taken, in the present sample (R81, R84). -/
  acted : Bool := false
deriving DecidableEq, Repr

/-- What a grid figure marks as MIRROR (R72, R85), its instants in ring time. -/
structure GridMirror where
  mode : Nat
  seqAck : Nat
  th : Word
  w : Int
  termTh : Word
  termW : Int
  termHold : Bool
  qf : Int
  xact : Int
  xtr : Bool
  winAt : Option Instant
  armed : Bool
  quietAt : Option Instant
  fall : Option (Instant × Int)
  faultWords : List Word
  reson : List (Nat × (Int × Int))
  biq : List (Nat × (Word × Word))
  npLim : Bool
  uv : Option GridEpisode
  ov : Option GridEpisode
  freeAt : Option Instant
  premag : Bool
  rampAt : Instant
  tbs : Word
deriving DecidableEq, Repr

/-- The switchgear feedback that the library's I/O map gives it in a cycle (R76): K_PC, K_M, CB1 and CB2 closed. -/
structure SwitchIn where
  kpc : Bool := false
  km : Bool
  cb1 : Bool
  cb2 : Bool
deriving DecidableEq, Repr

/-- What the sequencing library is doing (chapter 3). -/
inductive LibPhase
  | idle | charge | sync | slot | recheck | closing | stopping | opening
deriving DecidableEq, Repr

/-- The sequencing library: its phase and when the phase began, whether START goes on from READY, the last command
number, the contactors and the breaker it commands, its parameters in force, and what it has watched. -/
structure SeqLib where
  phase : LibPhase := .idle
  since : Instant := 0
  startOn : Bool := false
  seq : Nat := 0
  kpc : Bool := false
  kmOn : Bool := false
  cb1 : Bool := false
  syncOk : Bool := false
  fb : SwitchIn := { km := false, cb1 := false, cb2 := false }
  /-- Words +0x40 to +0x7C in force, and the last SEQ_TCOMMIT acted on. -/
  words : List Word := []
  tcommit : Word := 0
  /-- V_DC of the cycles of the last 100 ms, newest first, with their instants. -/
  vdc : List (Nat × Int) := []
  /-- Since when the windows have held, the bus has been dead or in range, and V_DC has been out of its band. -/
  held : Option Instant := none
  dead : Option Instant := none
  inRange : Option Instant := none
  out : Option Instant := none
  /-- When CB1 was commanded to close, its feedback still missing. -/
  cbAt : Option Instant := none
  /-- When CB1's feedback came in a dead-bus closing. -/
  fbAt : Option Instant := none
  /-- When the STOP ramp ended. -/
  rampEnd : Option Instant := none
  lastCycle : Instant := 0
  /-- Dispatch targets of P and Q that the library's own targets replaced. -/
  dispatch : Option (Word × Word) := none
deriving DecidableEq, Repr

/-- What the error codes find at a memory word that a command reads (R271): its address, and whether the error is
uncorrectable. -/
structure EccFind where
  addr : Nat
  fatal : Bool
deriving DecidableEq, Repr

/-! Instructions of the supervisory cores as they issue (R250): what a word's fields give, read by the slot that runs. -/

/-- What every instruction of a service slot carries: the slot, whether a field that its format leaves unused is not 0,
what the error codes find at the words it reads, its own word among them, and the instant. -/
structure SHead where
  slot : Fin 3
  junk : Bool
  ecc : List EccFind
  t : Instant
deriving DecidableEq, Repr

/-- An integer operation: format A with a second register, or format B with IMM18; `setF` is FN bit 9 of format A. -/
structure SAlu where
  h : SHead
  rd : Fin 16
  rs1 : Fin 16
  src : Fin 16 ⊕ BitVec 18
  setF : Bool
deriving DecidableEq, Repr

/-- An FP32 operation: format A. -/
structure SFp where
  h : SHead
  rd : Fin 16
  rs1 : Fin 16
  rs2 : Fin 16
deriving DecidableEq, Repr

/-- A load, store or atomic: format C. -/
structure SMem where
  h : SHead
  rt : Fin 16
  rb : Fin 16
  size : BitVec 2
  off : BitVec 16
deriving DecidableEq, Repr

/-- LDGRP and STGRP: format C with a register mask. -/
structure SGrp where
  h : SHead
  rb : Fin 16
  mask : BitVec 16
deriving DecidableEq, Repr

/-- SRD and SWR: format E with a CSR number. -/
structure SCsr where
  h : SHead
  r : Fin 16
  csr : BitVec 12
deriving DecidableEq, Repr

/-- An XLINV: format E with its key register, and whether SFN bit 5 is set. -/
structure SInv where
  h : SHead
  rs : Fin 16
  shared : Bool
deriving DecidableEq, Repr

namespace Machine

/-- A ramp channel beyond its registers (R240): output, velocity and acceleration as binary64 values, in units of
2^-200. -/
structure RampCh where
  y : Int := 0
  v : Int := 0
  a : Int := 0
  /-- Target and limits in force. -/
  tgt : Word := 0
  vmax : Word := 0x3F800000
  amax : Word := 0x3F800000
  jmax : Word := 0x41200000
  newTgt : Bool := false
  set : Bool := false
  hold : Option Bool := none
  held : Bool := false
  /-- Where a held channel comes to rest. -/
  rest : Int := 0
  /-- Committed limits wait for DONE: LIMIT_DEFERRED (R242). -/
  deferred : Bool := false
  /-- The side from which an output that will pass its target comes: +1 or −1, 0 for none. -/
  overSide : Int := 0
deriving DecidableEq, Repr

end Machine

/-! Messages between parts (chapters 11 and 12). The spec gives what the frames of a pair, a barrier, a promenade and a
notice carry, and not their bytes. -/

/-- A member's heartbeat (R353): unique ID, role, grade, floor, ELIGIBLE, CUTREQ, the figure IDs, and the tick it was sent
for. -/
structure Heartbeat where
  uid : BitVec 64
  role : Nat
  grade : Nat
  floor : Bool
  eligible : Bool
  cutreq : Bool
  figA : Nat
  figB : Nat
  tick : Instant
deriving DecidableEq, Repr

/-- A caller's heartbeat (R352): pair index, level of the call line, GRADETHR, tick of an armed cut-in, and when it was
sent; and the node that sent it. -/
structure CallerBeat where
  node : Nat
  k : Nat
  level : Bool
  gradeThr : Nat
  tc : Option Instant
  sent : Instant
deriving DecidableEq, Repr

/-- A cut-in request (R354): the group, and where a sample without majority made it the tick of that sample and Ts. -/
structure CutRequest where
  grp : Grp
  t0 : Option Instant
  ts : Nat
deriving DecidableEq, Repr

/-- A decision frame (R356): the cut-in tick, its group, and the side that comes in. -/
structure CutDecision where
  tc : Instant
  grp : Grp
  side : Bool
deriving DecidableEq, Repr

/-- A mirror frame (R346): header, the part of the parameter file that tasks write, the ramps, the region and
fade state, the words of the mirror list in its order, and the state of a grid figure (R72, R85). -/
structure MirrorFrame where
  grp : Grp
  fig : Nat
  scnt : Word
  t0 : Instant
  spw : List Word
  seqcmd : Word
  ramps : List (Nat × Machine.RampCh)
  region : Word
  bands : List Nat
  fadeN : Nat
  fadeK : Nat
  words : List Word
  grid : Option GridMirror
deriving DecidableEq, Repr

/-- The MIRROR variables of a task at the end of a copy-out (R348): image, task, and value by variable identity. -/
structure CycMirror where
  image : Nat
  task : Nat
  vals : List (Nat × Nat)
  /-- The sequencing library's own state, from the task that carries it, in ring time (R85). -/
  lib : Option SeqLib := none
deriving DecidableEq, Repr

/-- What a PAIR frame carries (Table 11.2). -/
inductive PairMsg
  | heartbeat (k : Fin 4) (side : Bool) (h : Heartbeat)
  | caller (b : CallerBeat)
  | request (k : Fin 4) (r : CutRequest)
  | decision (d : CutDecision)
  | mirror (f : MirrorFrame) (crcOk : Bool)
  | cyclic (m : CycMirror)
deriving DecidableEq, Repr

/-- A received ring frame (R308): the port it came in by, header, payload and trailer. -/
structure RingFrame where
  port : Fin 2
  hdr : BitVec 128
  payload : List Byte
  crc : Word
deriving DecidableEq, Repr

/-- What a promenade frame carries (R313): the start with the new epoch; a reply with a unique ID and hop distances
eastward and westward; the assignment, by unique ID, with the switch time. -/
inductive PromMsg
  | start (epoch : Nat)
  | reply (uid : BitVec 64) (east west : Option Nat)
  | assign (epoch : Nat) (addrs : List (BitVec 64 × Nat)) (east : List (Nat × Nat)) (switchAt : Instant)
deriving DecidableEq, Repr

/-- What a LINK notice carries (R320, R325): a break or the heal of the link eastward of a node, the heal's time, a
ring reset, or that a node without an address has linked up (R313). -/
inductive LinkMsg
  | broken (node : Nat)
  | heal (node : Nat) (healAt : Instant)
  | reset
  | joined
deriving DecidableEq, Repr
/-- The commands. A doc comment gives what the table says of the step and the rule that governs it. -/
inductive Instr where
  /-- A write to a register that has no row of its own acts by its access code: RW sets, W1C clears, W1S sets, WO triggers, RO does nothing (R11) -/
  | registerWrite (ini : Initiator) (off : BitVec 24) (v hwSet : Word) (t : Instant)
  /-- A read of a _LO register returns the low half and latches the high half for the reading initiator (R10) -/
  | pairLoRead (ini : Initiator) (off : BitVec 24)
  /-- A read of a _HI register returns the latched half and releases the latch, or the present high half when no latch is held (R10) -/
  | pairHiRead (ini : Initiator) (off : BitVec 24)
  /-- A write of a _LO register of an RW or ST pair is held for that initiator and changes nothing yet (R10) -/
  | pairLoWrite (ini : Initiator) (off : BitVec 24) (v : Word)
  /-- A write of a _HI register makes the 64-bit value take effect, using any held low half and releasing it (R10) -/
  | pairHiWrite (ini : Initiator) (off : BitVec 24) (v : Word) (t : Instant)
  /-- A write to an ST register goes to its staged copy, readable at the alias +0x8000 (R24) -/
  | stagedWrite (ini : Initiator) (off : BitVec 24) (v : Word)
  /-- A write of GO to a block commit register checks the whole staged set and makes a snapshot of it pending, or refuses it with a reason code (R24) -/
  | commitGo (u : CUnit) (tag : BitVec 8) (t : Instant)
  /-- A pending staged set moves atomically at the block's boundary, or at once when the boundary source is stopped, and STATE shows moved (R25) -/
  | commitMove (u : CUnit) (t : Instant)
  /-- A write of GO to SYS_JCOMMIT checks the staged sets of all named units together and makes them pending as one set (R31) -/
  | sysJcommitGo (mask tag : BitVec 8) (t : Instant)
  /-- A pending joint commit moves all named units at the next tick of the named group that is also a PWM period boundary, or at once when the timebase is stopped (R31) -/
  | jointCommitMove (t : Instant)
  /-- An access to an unassigned or reserved address reads 0 or writes nothing, sets SYS_DECERR and records the address (R33) -/
  | decodeErrorAccess (ini : Initiator) (addr : Addr) (isWrite : Bool) (v : Word)
  /-- Two writes of 0x5357_5253 to SYS_SWRST within 1 ms reset the part with cause 0x05 (R42) -/
  | sysSwrst (v : Word) (t : Instant)
  /-- A read of SYS_OCC_i or SYS_POOL returns the occupancy and restarts the peak record from the present value (R42) -/
  | sysOccRead (reg : Fin 10)
  /-- A waiting interconnect transaction proceeds once a reserved or pool entry becomes free (R40) -/
  | transactionEntryGrant (ini : Option Initiator) (ends : List Initiator)
  /-- A filtered GPIO input edge of the kind EDGE selects sets its GPIO_EVT bit (R43) -/
  | gpioEdge (pin : Fin 32) (level : Bool)
  /-- A software write to a GPIO latch sets or clears latch bits, and a write to an owned pin is ignored and sets GPIO_REF (R43) -/
  | gpioLatchWrite (kind : LatchWrite) (v : Word)
  /-- At a group's tempo tick the part moves due staged sets, transfers PWM shadows, moves the floor for a due cut-in, delivers decimation outputs, selects the region, switches an exchange or joins a lane, and starts the lanes (R23) -/
  | tempoTick (g : Grp) (t : Instant) (edges : List (Nat × Nat))
  /-- When T_TR ends the current limit falls linearly to ILIM_CONT over 20 ms and TR_WIN clears (R59) -/
  | transientWindowEnd (g : Grp)
  /-- After the current reference has stayed at or below ILIM_CONT for 10 s a new transient window may open (R59) -/
  | transientRearm (g : Grp)
  /-- When |v1| lies beyond the ride-through boundary for one fundamental period the figure trips with cause 0x01 or 0x02, or logs it with RT_EN clear (R95) -/
  | profileViolation (g : Grp)
  /-- An episode ends after |v1| has stayed inside the last voltage of its curve for one fundamental period (R95) -/
  | profileEpisodeEnd (g : Grp)
  /-- RIDE ends after one fundamental period free of trigger and episode, returning to ONLINE or ISLAND (R96) -/
  | rideEnd (g : Grp)
  /-- With SOFTEN set, after T_PM of holding E_r at 0.05 pu the voltage ramp starts (R94) -/
  | premagnetisationEnd (g : Grp)
  /-- When τ reaches T_BS the FORM ramp is complete and the figure moves to ONLINE or ISLAND (R94) -/
  | formRampComplete (g : Grp)
  /-- Command CHARGE moves OFF to CHARGE in role 1 or 4, or is rejected (R82) -/
  | seqcmdCharge (g : Grp)
  /-- Command READY moves CHARGE, a switching mode or TRIP to READY, blocking the bridge (R82) -/
  | seqcmdReady (g : Grp)
  /-- Command FORM moves READY to FORM when CB1 is closed and |v1| is below V_HOLD (R82) -/
  | seqcmdForm (g : Grp)
  /-- Command SYNC moves READY to SYNC when CB1 is open and the bus is live (R82) -/
  | seqcmdSync (g : Grp)
  /-- Command ONLINE attaches from READY to ONLINE or ISLAND when its entry condition holds (R82) -/
  | seqcmdOnline (g : Grp)
  /-- Command ISLAND attaches from READY to ONLINE or ISLAND when its entry condition holds (R82) -/
  | seqcmdIsland (g : Grp)
  /-- Command TRIP with a valid cause moves any mode but OFF to TRIP and records the cause (R82) -/
  | seqcmdTrip (g : Grp)
  /-- Command OFF moves CHARGE, READY or TRIP to OFF (R82) -/
  | seqcmdOff (g : Grp)
  /-- Host command START runs the library's start sequence from OFF or READY (R88) -/
  | seqHostStart (t : Instant)
  /-- Host command STOP ramps setpoints to zero, writes READY and opens CB1 (R101) -/
  | seqHostStop (t : Instant)
  /-- Host command RESET from TRIP leads to READY or OFF when CB1 is open, latches are clear and no STO is requested (R102) -/
  | seqHostReset (t : Instant)
  /-- Host command CHARGE pre-charges the DC link and stops in READY (R88) -/
  | seqHostCharge (t : Instant)
  /-- Host command OFF commands the converter to OFF where Table 3.6 allows it (R88) -/
  | seqHostOff (t : Instant)
  /-- A new value in SEQ_TCOMMIT makes the library check its staged words at its next cycle and adopt them or report the first faulty word (R88) -/
  | seqTcommit (t : Instant)
  /-- If the DC link has not settled at PC_END within T_PC the library commands TRIP with cause 0x12 and opens K_PC (R89) -/
  | prechargeTimeout (t : Instant)
  /-- When the synchronising windows have held for one fundamental period in SYNC with STO released the library commands CB1 to close (R91) -/
  | syncWindowsHeld (t : Instant)
  /-- If CB1 feedback has not arrived within T_CB + 20 ms the library commands TRIP with cause 0x13 (R91) -/
  | cb1FeedbackTimeout (t : Instant)
  /-- If the windows are not met within T_SYNC the library commands READY and reports the timeout (R91) -/
  | syncTimeout (t : Instant)
  /-- When the first-mover slot wait ends the library closes CB1 on a dead bus or commands SYNC on a bus in range (R92) -/
  | firstMoverSlotExpiry (t : Instant)
  /-- 2 s after the STOP ramp ends the library writes READY even if power has not fallen below 0.05 pu (R101) -/
  | stopTimeout (t : Instant)
  /-- V_DC outside its band for 10 ms in a switching mode makes the library command TRIP with cause 0x14 (R102) -/
  | dcLinkOutOfBand (t : Instant)
  /-- Each export or PWMW word is voted against the other lanes' word at the same sequence position, passing on agreement and masking a disagreeing lane (R113) -/
  | voterWord (g : Grp)
  /-- At t0 + Ts − 200 ns the PWM write window closes (R18) -/
  | pwmWindowClose (g : Grp)
  /-- When every in-service lane has reached SAMPLE_END the CRC signatures are compared and the group stays, goes DUPLEX, or has no majority (R111) -/
  | signatureComparison (g : Grp) (t : Instant)
  /-- A lane that has not reached SAMPLE_END by t0 + 0.75·Ts is masked as late, a hard fault, and comparison proceeds without it (R111) -/
  | laneLate (lane : Fin 8) (t : Instant)
  /-- When the copier has finished copying the lane memories the register-file copy is scheduled for the next SAMPLE_END (R118) -/
  | reserveCopyComplete (g : Grp)
  /-- A lane that passes its 2 ms BIST becomes SPARE, and one that fails is retired (R115) -/
  | laneBistComplete (lane : Fin 8) (pass : Bool)
  /-- An uncorrectable ECC error or register-file parity error masks and retires the lane (R116) -/
  | laneHardFault (lane : Fin 8) (parity : Bool) (t : Instant)
  /-- 3600 s after its opening mismatch a lane's mismatch window closes (R116) -/
  | mismatchWindowClose (lane : Fin 8) (t : Instant)
  /-- A single-bit lane memory error is corrected in line, counted and written back in the gap (R103) -/
  | laneEccCorrected (lane : Fin 8)
  /-- At the end of sample n of a fade the new bank applies exactly and region changes are evaluated again (R126) -/
  | fadeEnd (g : Grp)
  /-- RUN = 1 starts the group's active figure at the next tick with initial data and safe exports (R137) -/
  | cleRunStart (g : Grp)
  /-- RUN = 0 stops the group at the next tick and its PWM channels take their safe state (R137) -/
  | cleRunStop (g : Grp)
  /-- CSTART restarts the generator index at the next tick and starts correlation over M windows (R132) -/
  | cstart (g : Grp)
  /-- After M windows the correlator stores the tone results and sets CORR_DONE (R132) -/
  | correlationDone (g : Grp)
  /-- CAPSTART starts capture of the eight channels at the next SAMPLE_END (R131) -/
  | capstart (g : Grp)
  /-- CAPSTOP stops a running capture (R131) -/
  | capstop (g : Grp)
  /-- In one-shot mode capture stops when entry 8191 is written (R131) -/
  | captureFull (g : Grp)
  /-- A write of GEN starts or stops the group's injection generator (R129) -/
  | generatorEnable (g : Grp) (on : Bool)
  /-- A read of CLE_CAPDATA returns the capture word at CAPADDR and increments CAPADDR (R131) -/
  | capdataRead (g : Grp)
  /-- With BG set the self-scan repeats every SCAN_PERIOD (R133) -/
  | scanPeriodExpiry (g : Grp) (t : Instant)
  /-- After a complete scan with RETUNE or RVTUNE set the notch centres and RV are retuned as one coefficient exchange and logged (R135) -/
  | scanComplete (g : Grp) (late : Bool) (t : Instant)
  /-- SCAN_CMD 0x01 reverts the last retune by coefficient exchange and logs it (R135) -/
  | scanRevertLast (g : Grp) (t : Instant)
  /-- SCAN_CMD 0x02 reverts to the set before the oldest logged retune (R135) -/
  | scanRevertAll (g : Grp) (t : Instant)
  /-- NOP does nothing (R154) -/
  | vNop (o : VOp)
  /-- FADD writes vs1 + vs2 after 3 cycles (R154) -/
  | vFadd (o : VOp)
  /-- FSUB writes vs1 − vs2 (R154) -/
  | vFsub (o : VOp)
  /-- FMUL writes vs1 × vs2 (R154) -/
  | vFmul (o : VOp)
  /-- FMA writes vd + vs1 × vs2 with one rounding (R154) -/
  | vFma (o : VOp)
  /-- FNMA writes vd − vs1 × vs2 with one rounding (R154) -/
  | vFnma (o : VOp)
  /-- FMIN writes the smaller operand, −0 below +0 (R149) -/
  | vFmin (o : VOp)
  /-- FMAX writes the larger operand, −0 below +0 (R149) -/
  | vFmax (o : VOp)
  /-- FABS writes |vs1| (R154) -/
  | vFabs (o : VOp)
  /-- FNEG flips the sign of vs1 (R154) -/
  | vFneg (o : VOp)
  /-- FMOV copies the bit pattern (R154) -/
  | vFmov (o : VOp)
  /-- FCMP writes the FP32 relation of vs1 to vs2 into a predicate, combined as MOD selects (R159) -/
  | vFcmp (o : VOp)
  /-- SEL writes vs1 or vs2 by a predicate, v or angle registers (R154) -/
  | vSel (o : VOp)
  /-- SAT clamps vs1 to its bounds and sets the named flag when it clips (R158) -/
  | vSat (o : VOp)
  /-- INTG adds vs1 × vs2 to vd only while the named previous-sample flag is clear (R127) -/
  | vIntg (o : VOp)
  /-- ACCD accumulates a product into a double-single pair, optionally gated by a flag (R158) -/
  | vAccd (o : VOp)
  /-- FTST copies a present or previous-sample flag or FIRST into a predicate (R159) -/
  | vFtst (o : VOp)
  /-- PLOG combines two predicates by AND, OR, XOR or AND-NOT, optionally inverted (R159) -/
  | vPlog (o : VOp)
  /-- IAND writes the bitwise AND (R151) -/
  | vIand (o : VOp)
  /-- IOR writes the bitwise OR (R151) -/
  | vIor (o : VOp)
  /-- IXOR writes the bitwise XOR (R151) -/
  | vIxor (o : VOp)
  /-- ISHL shifts vs1 left by n (R151) -/
  | vIshl (o : VOp)
  /-- ISHR shifts vs1 right by n with zero fill (R151) -/
  | vIshr (o : VOp)
  /-- ICMP writes an unsigned relation into a predicate (R159) -/
  | vIcmp (o : VOp)
  /-- PINS replaces bit b of vs1 by a predicate (R151) -/
  | vPins (o : VOp)
  /-- CVTI converts FP32 to a saturated signed integer, NaN to 0 (R151) -/
  | vCvti (o : VOp)
  /-- CVTF converts a signed integer to FP32 (R151) -/
  | vCvtf (o : VOp)
  /-- LD loads a data memory word into a v or angle register (R155) -/
  | vLd (o : VOp)
  /-- ST stores a register to data memory and enters the signature (R155) -/
  | vSt (o : VOp)
  /-- LDC loads a coefficient word from the region bank with fade, or from a named bank (R155) -/
  | vLdc (o : VOp)
  /-- LDP loads a word of the parameter file snapshot (R155) -/
  | vLdp (o : VOp)
  /-- IN copies an input port's 32-bit pattern into a register (R160) -/
  | vIn (o : VOp)
  /-- OUT writes a register to an export port through the voter (R160) -/
  | vOut (o : VOp)
  /-- PWMW writes an FP32 duty to a compare shadow through the voter (R160) -/
  | vPwmw (o : VOp)
  /-- SINCOS writes cos and sin of an angle register (R152) -/
  | vSincos (o : VOp)
  /-- SQRT writes the correctly rounded square root (R153) -/
  | vSqrt (o : VOp)
  /-- RECIP writes the correctly rounded reciprocal (R153) -/
  | vRecip (o : VOp)
  /-- ATAN2 writes the angle of (x, y) to an angle register (R152) -/
  | vAtan2 (o : VOp)
  /-- CLARKE writes α, β and γ of a phase triple (R153) -/
  | vClarke (o : VOp)
  /-- PARK rotates an αβ pair into dq by an angle (R153) -/
  | vPark (o : VOp)
  /-- IPARK rotates a dq pair into αβ by an angle (R153) -/
  | vIpark (o : VOp)
  /-- SEQ splits an αβ pair into positive and negative sequence using its delay line and advances the index (R156) -/
  | vSeq (o : VOp)
  /-- SWING computes the new rotor frequency and, unless SWING.F, advances the angle register (R157) -/
  | vSwing (o : VOp)
  /-- LIMV limits a pair to a circle keeping its angle and sets the flag when it clips (R158) -/
  | vLimv (o : VOp)
  /-- BIQ computes one transposed direct-form II section and updates its states (R128) -/
  | vBiq (o : VOp)
  /-- INJ adds the generator output to vs1 if its site is enabled (R129) -/
  | vInj (o : VOp)
  /-- AADD adds an FP32 value in turns to an angle register (R152) -/
  | vAadd (o : VOp)
  /-- ADIF writes the wrapped difference of two angles in turns (R152) -/
  | vAdif (o : VOp)
  /-- SAMPLE_END ends the lane's sample and flushes its signature (R164) -/
  | vSampleEnd (o : VOp)
  /-- No modulator clock edge for 1 µs freezes the channel's outputs and sets CLKLOSS (R173) -/
  | modulatorClkloss (n : Fin 28) (t : Instant)
  /-- A Manchester symbol without mid-bit transition repeats the previous bit and counts a violation (R173) -/
  | manchesterViolation (n : Fin 28) (t : Instant)
  /-- 4096 consecutive equal data bits raise the STUCK event (R173) -/
  | stuck (n : Fin 28)
  /-- A fine decimation output is produced, evaluated by windows 0 and 1, and delivered to the port if its window ends at E0 (R177) -/
  | fineOutput (n : Fin 28) (bs : SdLine (List Bool)) (t : Instant)
  /-- A fast-path output is produced and evaluated by windows 2 and 3, acting on legs where PROT is set (R179) -/
  | fastPathOutput (n : Fin 28) (window : SdLine (BitVec 15)) (t : Instant)
  /-- After the chain's settling time the fine output is no longer UNSETTLED and substitution ends (R177) -/
  | settlingEnd (n : Fin 28) (due : Bool × Instant)
  /-- An evidence swap not met within 64 ticks fails and the reserve stays SPARE (R184) -/
  | senseSwapTimeout (r : Fin 4)
  /-- An AUXADC conversion completes after 500 ns and the next queued slot starts (R186) -/
  | auxadcConversionDone (code : BitVec 16) (t : Instant)
  /-- Every AUXADC_FRPER the free-running slots convert in idle time (R186) -/
  | auxadcFreerun (t : Instant)
  /-- A comparator crossing its trip threshold is timestamped and trips unblanked legs at once, or is held for blanked legs (R189) -/
  | comparatorTripCrossing (k : Fin 14) (t : Instant)
  /-- A hard-threshold crossing is timestamped and trips every leg in its mask at once (R189) -/
  | comparatorHardCrossing (k : Fin 14) (t : Instant)
  /-- A fired comparator releases when the pin has returned HYST inside its threshold (R188) -/
  | comparatorRelease (k : Fin 14) (hard : Bool)
  /-- At the end of a leg's blanking window a standing held crossing trips the leg, otherwise it is discarded and counted (R189) -/
  | blankingEnd (leg : Fin 24) (t : Instant)
  /-- Writing PROT_FREARM closes the protection fault record (R191) -/
  | protFrearm (v : Word)
  /-- Writing PROT_RSVMAP with ACTIVE copies the target's set to a reserve comparator and arms it beside the target (R192) -/
  | protReserveMap (r : Fin 2) (v : Word) (t : Instant)
  /-- 10 µs after arming the reserve comparator the target is disarmed (R192) -/
  | protReserveArmEnd (r : Fin 2) (t : Instant)
  /-- RUN = 1 starts the timebase at the first aligned boundary at least 2 µs later, or withdraws a pending stop (R199) -/
  | timebaseStart (g : Grp) (t : Instant)
  /-- RUN = 0 requests a stop at the next boundary, ignored with STOPREF while the CLE runs (R199) -/
  | timebaseStop (g : Grp) (t : Instant)
  /-- At the next boundary the timebase stops and its pairs take their safe state without GATE_SOFT (R199) -/
  | timebaseStopBoundary (g : Grp) (t : Instant)
  /-- At least every 100 µs the tap table of each delay line is refreshed when no edge is due within 20 ns (R201) -/
  | delayLineRefresh (rangeOk : Bool) (t : Instant)
  /-- A requested switch edge from the active compare code falls, subject to short-pulse policy, dead time, handshake and leg order (R206) -/
  | pwmEdge (leg : Fin 24) (t : Instant)
  /-- When DT from the partner's off command has elapsed a pending turn-on issues if the partner's return shows off (R209) -/
  | deadTimeExpiry (leg : Fin 24) (t : Instant)
  /-- A filtered gate return changes, releasing a waiting turn-on or raising SPURIOUS or BOTH_ON (R210) -/
  | gsReturn (ch : Fin 56) (level : Bool) (t : Instant)
  /-- A return not showing the commanded state at TOUT after the edge raises TIMEOUT_ON or TIMEOUT_OFF and trips the leg (R210) -/
  | gateTimeout (ch : Fin 56) (t : Instant)
  /-- A GT pin readback disagreeing with its command for more than 20 ns raises a PAD gate fault (R210) -/
  | padFault (ch : Fin 56) (bad : Bool) (t : Instant)
  /-- After the MINPW dwell in O an NPC leg may continue to P or N (R213) -/
  | npcDwellEnd (leg : Fin 24) (t : Instant)
  /-- A software write of PWM_CMPA is held for the initiator until its CMPB write (R208) -/
  | pwmCmpaWrite (ini : Initiator) (q : Fin 24) (v : Word)
  /-- A software write of PWM_CMPB places A and B into the shadow together and records EFFSEQ, PEND and LATE (R208) -/
  | pwmCmpbWrite (ini : Initiator) (q : Fin 24) (v : Word) (t : Instant)
  /-- Writing GATE_TRIPCLR accepts a leg latch clear if no trip source stands, otherwise sets GATE_CLRREF (R217) -/
  | gateTripclr (v : Word) (t : Instant)
  /-- An accepted latch clear takes effect at the next period boundary, dropping GATE_SOFT (R217) -/
  | tripLatchClear (leg : Fin 24) (t : Instant)
  /-- Writing GATE_FREARM closes the gate-fault record (R210) -/
  | gateFrearm (v : Word)
  /-- After eight agreeing periods the select is asserted at an instant with no target edge within ±2 µs (R221) -/
  | gateReserveSelect (r : Fin 8) (t : Instant)
  /-- 1 µs after the select the target GT goes to its off level and is marked REPLACED (R221) -/
  | gateReserveTargetOff (r : Fin 8) (t : Instant)
  /-- A gate reserve swap not completed within 64 periods fails (R221) -/
  | gateSwapTimeout (r : Fin 8)
  /-- The part sends the next poll or post-trip FAULTREG request on a gate status bus (R222) -/
  | gbusPoll (n : Fin 2)
  /-- A driver response is checked by CRC-8 and its data stored (R222) -/
  | gbusResponse (n : Fin 2) (data : List Byte)
  /-- A response missing after RTO µs is counted as a timeout (R222) -/
  | gbusTimeout (n : Fin 2)
  /-- A filtered A, B or Z edge updates the count, detects illegal transitions and fires compare entries (R228) -/
  | quadratureEdge (n : Fin 4) (a b z : Bool) (t : Instant)
  /-- An index at ZSTATE is judged as match or mismatch and the count is realigned under IDXPOL (R233) -/
  | indexEvent (n : Fin 4) (t : Instant)
  /-- A sin/cos ADC pair result checks the quadrant, interpolates the count and checks the amplitude (R230) -/
  | sincosConversion (n : Fin 4) (sn cs : BitVec 14) (t : Instant)
  /-- At t0 − LEAD the serial clock's first falling edge makes the encoder latch its position (R232) -/
  | serialFrameStart (n : Fin 4) (t : Instant)
  /-- A received serial frame is decoded, checked against MAXJUMP and MONO, and accepted or rejected (R232) -/
  | serialFrameDone (n : Fin 4) (raw : Word) (datHigh : Bool) (t : Instant)
  /-- PW after the last firing the PCMP pulse ends (R238) -/
  | pcmpPulseEnd (n : Fin 4) (t : Instant)
  /-- Writing ARM = 1 arms every compare entry, refused with LISTREF if an entry is CPR or above (R238) -/
  | posArm (n : Fin 4) (v : Word)
  /-- A write of a compare list entry is accepted only while ARM is 0, otherwise ignored with LISTREF (R238) -/
  | posListWrite (n : Fin 4) (k : Fin 64) (v : Word)
  /-- A ramp target write takes effect at the channel's next tick, or is ignored with BADTGT if NaN or infinite (R241) -/
  | rampTgtWrite (c : Fin 16) (v : Word)
  /-- SET makes the output equal the target at rest at the next tick (R241) -/
  | rampSet (c : Fin 16)
  /-- HOLD brings the channel to rest within its limits and holds it (R241) -/
  | rampHold (c : Fin 16)
  /-- RELEASE resumes the ramp towards the target (R241) -/
  | rampRelease (c : Fin 16)
  /-- A core pair mismatch stops the pair and the reserve resumes the slot from the retirement file (R249) -/
  | lockstepMismatch (slot : Fin 3) (t : Instant)
  /-- A failed pair's 5 ms self-test ends; a pass makes it reserve, a fail retires it (R249) -/
  | corePairBistComplete (pair : Fin 4) (pass : Bool)
  /-- ADD adds integers and may set the flags (R251) -/
  | sAdd (o : SAlu)
  /-- SUB subtracts integers and may set the flags (R251) -/
  | sSub (o : SAlu)
  /-- AND writes the bitwise AND (R251) -/
  | sAnd (o : SAlu)
  /-- OR writes the bitwise OR (R251) -/
  | sOr (o : SAlu)
  /-- XOR writes the bitwise XOR (R251) -/
  | sXor (o : SAlu)
  /-- SHL shifts left (R251) -/
  | sShl (o : SAlu)
  /-- SHR shifts right logically (R251) -/
  | sShr (o : SAlu)
  /-- SAR shifts right arithmetically (R251) -/
  | sSar (o : SAlu)
  /-- ROR rotates right (R251) -/
  | sRor (o : SAlu)
  /-- MUL writes the low product (R251) -/
  | sMul (o : SAlu)
  /-- MULH writes the high product (R251) -/
  | sMulh (o : SAlu)
  /-- DIV divides, returning 0 and setting V on division by zero (R251) -/
  | sDiv (o : SAlu)
  /-- REM writes the remainder (R251) -/
  | sRem (o : SAlu)
  /-- CMP sets N, Z, C and V from a subtraction (R251) -/
  | sCmp (o : SAlu)
  /-- LDHI loads IMM18 into bits [31:14] and clears bits [13:0] (R251) -/
  | sLdhi (h : SHead) (rd : Fin 16) (imm : BitVec 18)
  /-- FADD adds FP32 values (R251) -/
  | sFadd (o : SFp)
  /-- FSUB subtracts FP32 values (R251) -/
  | sFsub (o : SFp)
  /-- FMUL multiplies FP32 values (R251) -/
  | sFmul (o : SFp)
  /-- FDIV divides FP32 values (R251) -/
  | sFdiv (o : SFp)
  /-- FMA forms a fused multiply-add (R251) -/
  | sFma (o : SFp)
  /-- FSQRT forms the square root (R251) -/
  | sFsqrt (o : SFp)
  /-- FMIN writes the smaller FP32 value (R251) -/
  | sFmin (o : SFp)
  /-- FMAX writes the larger FP32 value (R251) -/
  | sFmax (o : SFp)
  /-- FCMP sets Z, C and N from an FP32 comparison, or V alone when unordered (R251) -/
  | sFcmp (o : SFp)
  /-- An FP32 conversion converts between integer and FP32 (R251) -/
  | sFconvert (o : SFp) (toInt : Bool)
  /-- A move copies a value between w and s registers (R251) -/
  | sFmove (o : SFp) (toS : Bool)
  /-- LD loads 1, 2 or 4 bytes after passing all translation and permission checks (R256) -/
  | sLd (o : SMem)
  /-- ST stores 1, 2 or 4 bytes all-or-nothing (R256) -/
  | sSt (o : SMem)
  /-- FLD loads an FP32 register (R256) -/
  | sFld (o : SMem)
  /-- FST stores an FP32 register (R256) -/
  | sFst (o : SMem)
  /-- LDGRP loads a masked subset of w0–w15 all-or-nothing (R256) -/
  | sLdgrp (o : SGrp)
  /-- STGRP stores a masked subset of w0–w15 all-or-nothing (R256) -/
  | sStgrp (o : SGrp)
  /-- LDRV loads a word and sets a reservation (R251) -/
  | sLdrv (o : SMem)
  /-- STCV stores if the reservation stands and writes 1 or 0 to rt (R251) -/
  | sStcv (o : SMem)
  /-- ATADD atomically fetches and adds (R251) -/
  | sAtadd (o : SMem)
  /-- ATSWP atomically fetches and swaps (R251) -/
  | sAtswp (o : SMem)
  /-- ATCMP swaps if the word equals w0 and returns the old word (R251) -/
  | sAtcmp (o : SMem)
  /-- MCPY copies w3 bytes in all-or-nothing units of at most 64 bytes, interruptible between units (R256) -/
  | sMcpy (h : SHead) (units : Nat)
  /-- GO.t jumps PC-relative when its test holds (R251) -/
  | sGo (h : SHead) (test : BitVec 4) (off : BitVec 22)
  /-- GOL jumps PC-relative and writes the link to w15 (R251) -/
  | sGol (h : SHead) (off : BitVec 22)
  /-- TCALL enters MONITOR through cause 0x05 with its code (R252) -/
  | sTcall (h : SHead) (code : BitVec 12)
  /-- DBRK raises a debug break exception (R253) -/
  | sDbrk (h : SHead)
  /-- XRET restores the flags and PSTAT from ESAVE and continues at EPC (R253) -/
  | sXret (h : SHead)
  /-- SRD reads a control and status register (R252) -/
  | sSrd (o : SCsr)
  /-- SWR writes a control and status register in MONITOR (R252) -/
  | sSwr (o : SCsr)
  /-- DRAIN completes every earlier store before any later access (R251) -/
  | sDrain (h : SHead)
  /-- IRFS discards the instruction L1 and fetches again (R247) -/
  | sIrfs (h : SHead)
  /-- XLINV with SFN 0b00 invalidates every TLB entry, locally or shared (R260) -/
  | sXlinvAll (o : SInv)
  /-- XLINV with SFN 0b01 invalidates non-global entries of one ASID (R260) -/
  | sXlinvAsid (o : SInv)
  /-- XLINV with SFN 0b10 invalidates every entry translating one page (R260) -/
  | sXlinvVa (o : SInv)
  /-- XLINV with SFN 0b11 invalidates entries for one page and ASID and global entries for that page (R260) -/
  | sXlinvPageAsid (o : SInv)
  /-- IDLE waits for an enabled interrupt (R252) -/
  | sIdle (h : SHead)
  /-- An enabled pending interrupt is taken at an instruction boundary within 0.5 µs (R257) -/
  | interruptTaken (slot : Fin 3) (src : Fin 64) (t : Instant)
  /-- Writing MMU_CTX_k_HI changes TTB0 and ASID together, serialising (R262) -/
  | mmuCtxWrite (ini : Initiator) (k : Fin 3) (lo hi : Word)
  /-- A producer index write advances a queue, refused with ERR if the fill would exceed the size (R269) -/
  | queuePidxWrite (ini : Initiator) (q : Fin 32) (v : BitVec 16)
  /-- A consumer index write frees entries, refused with ERR if the fill would become negative (R269) -/
  | queueCidxWrite (ini : Initiator) (q : Fin 32) (v : BitVec 16)
  /-- A DMA channel reads a descriptor whose OWN is 1 and checks it (R264) -/
  | dmaDescriptorFetch (c : Fin 16) (ecc : List EccFind)
  /-- A granted DMA beat translates, reads and writes up to 64 bytes, halting before a faulting beat (R265) -/
  | dmaBeat (c : Fin 16) (ecc : List EccFind) (t : Instant)
  /-- RESUME retries the faulting beat of a halted channel (R266) -/
  | dmaResume (c : Fin 16)
  /-- SKIP writes the descriptor back with a fault status and goes on (R266) -/
  | dmaSkip (c : Fin 16)
  /-- ABORT writes the descriptor back with status 0x07 and disables the channel (R266) -/
  | dmaAbort (c : Fin 16)
  /-- Setting EN starts or continues a channel; clearing EN stops it at the next beat boundary (R267) -/
  | dmaEnWrite (c : Fin 16) (on : Bool)
  /-- A memory row with an uncorrectable word or too many corrected errors is copied to a spare and remapped (R272) -/
  | rowReplace (addr : Addr)
  /-- The background scrubber reads every word once per SCRUB_S or SCRUB_M hours (R273) -/
  | scrubPass (emram : Bool) (found : List EccFind)
  /-- Writing NVM_XCMD with GO sends an xSPI command with its address and data (R277) -/
  | xspiCommand (v : Word)
  /-- An xSPI command completes with XDONE or XERR (R277) -/
  | xspiCommandDone (ok : Bool) (status : Byte) (data : List Word)
  /-- A write to a protected eMRAM area is ignored, sets WPREF and records its address (R277) -/
  | emramProtectedWrite (addr : Addr)
  /-- A cyclic task is released at r0 + k·T, or skipped with OVR if its previous cycle runs, and copies in its inputs (R279) -/
  | taskRelease (task : Fin 32) (t start : Instant)
  /-- An event task is released when its source rises, at least MINIA after its last release, holding one further event (R279) -/
  | eventTaskRelease (task : Fin 32) (rise : Bool) (t start : Instant)
  /-- At the end of a task body the runtime copies the output image to its targets (R283) -/
  | taskBodyEnd (task : Fin 32) (out : List Byte) (timers : List (Nat × Option Instant)) (edges : List (Nat × Bool)) (lines : List (BitVec 12)) (t : Instant)
  /-- Each input module is read once per module period (R285) -/
  | remoteModuleRead (m : Fin 64) (ecc : List EccFind) (t : Instant)
  /-- A module whose latest good copy is older than AGEMULT periods becomes stale (R285) -/
  | remoteModuleStale (m : Fin 64) (t : Instant)
  /-- Each output module is sent at its period, retried with OUTERR if refused (R286) -/
  | remoteModuleSend (m : Fin 64) (t : Instant)
  /-- The retention buffer writes a dirty line back to eMRAM, freeing room for a waiting store (R288) -/
  | retentionWriteback
  /-- At each whole millisecond the MEM island writes a CLE snapshot into the older buffer (R290) -/
  | cleSnapshot (t : Instant)
  /-- A filtered PFAIL assertion stops dispatch, halts slots and DMA, sets outputs safe, puts the safety channels in STO and flushes retained state (R291) -/
  | pfailAssert (t : Instant)
  /-- The retained state flush after PFAIL completes and COMPLETE is recorded (R291) -/
  | pfailFlushComplete (t : Instant)
  /-- PFAIL released with supplies in range completes the flush and makes a warm start (R293) -/
  | pfailRelease (t : Instant)
  /-- Command FORCE_SET binds a value to a variable by identity (R335) -/
  | forceSet
  /-- Command FORCE_REL releases one force (R335) -/
  | forceRel
  /-- Command FORCE_RELALL releases every force (R335) -/
  | forceRelall
  /-- Command FORCE_LIST writes the force table to a physical address (R335) -/
  | forceList
  /-- When the on-line change pre-copy ends the 500 ms switch window opens and CHANGE_PEND is set (R295) -/
  | precopyDone (t : Instant)
  /-- At the first admissible instant the runtime pauses, recopies marked lines, rekeys forces, carries timers and switches image and area (R297) -/
  | onlineSwitch (t : Instant)
  /-- With no switch instant in the window the change aborts with error 0x14 (R300) -/
  | switchWindowExpiry (t : Instant)
  /-- An overrun beyond WDMULT × T or DL stops dispatch, sets outputs and CLE targets safe and may request cut-in (R302) -/
  | watchdogFire (task : Fin 32) (t : Instant)
  /-- CYC_CTL START starts the runtime with the active image (R279) -/
  | cycStart (t : Instant)
  /-- CYC_CTL STOP stops the runtime (R303) -/
  | cycStop (t : Instant)
  /-- CYC_CTL RESTART restarts the runtime from WDSTOP or STOP with cause 0x03 or 0x04 (R303) -/
  | cycRestart (t : Instant)
  /-- A lane losing block lock or with too many sync-header errors is announced as failed (R306) -/
  | ringLaneFail (port : Fin 2) (lane : Fin 3) (errs : Nat)
  /-- At the first alignment marker after a failure announcement both ends move the lane's traffic to the reserve (R306) -/
  | ringLaneSwap (port : Fin 2) (t : Instant)
  /-- On a negative acknowledgement or 2 µs without one the sender resends from the first unacknowledged frame (R307) -/
  | hopReplay (port : Fin 2) (n : Nat)
  /-- A received RD frame is executed in tag order and answered by a CPL with data (R309) -/
  | ringRd (f : RingFrame) (ecc : List EccFind) (t : Instant)
  /-- A received WR frame is executed in tag order and answered by a CPL (R309) -/
  | ringWr (f : RingFrame) (ecc : List EccFind) (t : Instant)
  /-- A received broadcast write is executed with no completion (R309) -/
  | ringWrb (f : RingFrame) (ecc : List EccFind) (t : Instant)
  /-- A received completion ends its outstanding request, or is discarded as late (R318) -/
  | ringCpl (f : RingFrame) (t : Instant)
  /-- A received MSG is placed in Q20 and completed (R309) -/
  | ringMsg (f : RingFrame) (ecc : List EccFind) (t : Instant)
  /-- A received TEMPO frame carries scheduled time events (R309) -/
  | ringTempo (f : RingFrame) (lo hi : Word) (t : Instant)
  /-- A received PAIR frame carries a heartbeat, caller decision or ring mirror frame (R309) -/
  | ringPair (f : RingFrame) (m : PairMsg) (t : Instant)
  /-- A received BAR frame records a barrier arrival or release (R324) -/
  | ringBar (f : RingFrame) (id : Byte) (release : Bool)
  /-- A received PROM frame carries a promenade start, reply or assignment (R313) -/
  | ringProm (f : RingFrame) (m : PromMsg) (last : Bool)
  /-- Node 1 writes a received STAT frame into the status mirror and sets HOST_SUMMARY (R331) -/
  | ringStat (f : RingFrame) (status : BitVec 64) (at_ : Instant)
  /-- A received LINK notice makes the node recompute routes for a break, heal or ring reset (R320) -/
  | ringLink (f : RingFrame) (m : LinkMsg)
  /-- A request with no completion within 50 µs ends with status 0x5 and frees its tag (R319) -/
  | requestTimeout (dst : BitVec 7) (tag : Byte) (t : Instant)
  /-- A request held behind a missing tag 40 µs after departure is executed and the gap counted (R318) -/
  | tagGapSkip (src : BitVec 7) (bcast : Bool) (ecc : List EccFind) (t : Instant)
  /-- A link with no lane locked or no valid block for 1 µs is down and both neighbours wrap (R320) -/
  | linkDown (port : Fin 2) (t : Instant)
  /-- After a link has worked again for 1 ms the neighbours schedule the heal and the ring unwraps (R320) -/
  | linkHeal (port : Fin 2) (t : Instant)
  /-- A host port becoming live makes the part node 1, or sets CONFLICT (R312) -/
  | hostPortLive (pcie : Option (Fin 8 × Fin 16)) (lowest : Bool) (t : Instant)
  /-- At the promenade switch time every node takes its new address and epoch and ends old requests (R313) -/
  | promenadeSwitch (t : Instant)
  /-- A received time ordered set updates the link delay and the node's ring time (R321) -/
  | timeOrderedSet (port : Fin 2) (dly : BitVec 24) (lanes : BitVec 3) (farm : Bool) (d : Int) (t : Instant)
  /-- No time ordered set for 10 µs clears TLOCK, sets TLOSS and makes tick generators hold over (R321) -/
  | timeLoss (t : Instant)
  /-- Writing RING_SNAPT_HI arms a snapshot, or sets SNAPLATE if the time has passed (R323) -/
  | snapshotArm (lo hi : Word) (t : Instant)
  /-- At the snapshot time each node captures its values, sets TAKEN and raises source 59 (R323) -/
  | snapshotTake (t : Instant)
  /-- Writing ARRIVE with an ID enters a barrier (R324) -/
  | barrierArrive (id : Byte)
  /-- RRESET on node 1 ends outstanding requests, retrains links and starts a promenade (R325) -/
  | ringReset (t : Instant)
  /-- A host PCIe read is carried as ring requests and returns 0 with HOST_ERR on failure (R328) -/
  | hostPcieRead (bar2 : Bool) (addr : BitVec 34) (n : Nat) (ecc : List EccFind) (t : Instant)
  /-- A host PCIe write is carried as ring requests and sets HOST_ERR on failure (R328) -/
  | hostPcieWrite (bar2 : Bool) (addr : BitVec 34) (data : List Byte) (t : Instant)
  /-- Host SPI WRITE issues a write of up to 64 words when chip select rises (R327) -/
  | hspiWrite (addr : BitVec 48) (ws : List Word) (t : Instant)
  /-- Host SPI READ issues a read of up to 64 words (R327) -/
  | hspiRead (addr : BitVec 48) (n : Fin 64) (ecc : List EccFind) (t : Instant)
  /-- Host SPI STATUS returns BUSY, ERR, status and words ready (R327) -/
  | hspiStatus (t : Instant)
  /-- Host SPI DATA returns the words of the last completed READ (R327) -/
  | hspiData (t : Instant)
  /-- Writing HOST_FLAGCLR clears sticky HOST_STATUS flags whose cause no longer stands (R330) -/
  | hostFlagclr (v : Word)
  /-- A change of HOST_STATUS increments SEQ and sends a STAT frame to node 1 (R331) -/
  | hostStatusChange (t : Instant)
  /-- OP_CTL RELEASE returns a long-operation slot to FREE (R332) -/
  | opRelease (k : Fin 8)
  /-- OP_CTL CANCEL ends a queued or running operation at its next safe point with GERR 0x4 (R332) -/
  | opCancel (k : Fin 8) (t : Instant)
  /-- A queued operation starts when its resource is freed by another slot (R332) -/
  | opDequeue (k : Fin 8) (t : Instant)
  /-- Operation 0x01 verifies the signature, stepping and task table of an image slot (R424) -/
  | imageVerify (k : Fin 8) (tag : Byte) (t : Instant)
  /-- Operation 0x02 activates an image, with ONLINE checking it and starting the pre-copy (R295) -/
  | imageActivate (k : Fin 8) (tag : Byte) (t : Instant)
  /-- Operation 0x03 verifies, checks and loads a figure image and arms the exchange (R138) -/
  | figureExchange (k : Fin 8) (tag : Byte) (t : Instant)
  /-- Operation 0x04 reads a record into the result buffer, holding it, and may delete it at DONE (R386) -/
  | recordRead (k : Fin 8) (tag : Byte) (t : Instant)
  /-- Operation 0x05 runs the admittance self-scan on the grid-figure group (R133) -/
  | admittanceScan (k : Fin 8) (tag : Byte) (t : Instant)
  /-- Operation 0x06 tests units not in service and retires those that fail (R416) -/
  | bist (k : Fin 8) (tag : Byte) (t : Instant)
  /-- Operation 0x07 runs one full scrub pass at once (R273) -/
  | scrub (k : Fin 8) (tag : Byte) (t : Instant)
  /-- Operation 0x08 checks and replaces the calibration page through a staging page (R421) -/
  | calWrite (k : Fin 8) (tag : Byte) (t : Instant)
  /-- Operation 0x09 produces the signed health report (R419) -/
  | healthReport (k : Fin 8) (tag : Byte) (t : Instant)
  /-- Operation 0x0A returns a signed attestation with the measurement log and health report (R428) -/
  | attest (k : Fin 8) (tag : Byte) (t : Instant)
  /-- Operation 0x0B brings a named reserve into service in place of a unit (R415) -/
  | reserveSwap (k : Fin 8) (tag : Byte) (t : Instant)
  /-- Operation 0x0C on node 1 starts a promenade with a new epoch (R313) -/
  | promenade (k : Fin 8) (tag : Byte) (t : Instant)
  /-- Operation 0x0D verifies and checks a safety table and awaits key acknowledgement (R406) -/
  | safetyConfig (k : Fin 8) (tag : Byte) (t : Instant)
  /-- A filtered CALL_IN change releases the floor where R341 allows it, otherwise counts CALLGLITCH (R341) -/
  | callInChange (level : Bool) (t : Instant)
  /-- A filtered FLOOR_IN rise releases an outgoing member whose call has moved (R341) -/
  | floorInChange (level : Bool) (t : Instant)
  /-- FLOOR_IN high for 400 ns while holding the floor releases it at once and sets FLOORERR (R341) -/
  | floorConflict (t : Instant)
  /-- An incoming member whose CALL_IN does not permit it by t_c + 300 ns releases and sets CUTFAIL (R341) -/
  | cutinPermitTimeout (t : Instant)
  /-- 300 ns after the open-floor tick a member not permitted by CALL_IN releases and reports the overlap (R344) -/
  | openFloorRelease (t : Instant)
  /-- PAIR_CTL OPEN arms open floor for the tick at PAIR_OPENT, or is ignored with OPENREF (R344) -/
  | pairOpen (t : Instant)
  /-- PAIR_CTL REQ sends a cut-in request to the caller (R354) -/
  | pairReq (t : Instant)
  /-- A standby checks a received mirror frame and applies it before its next tick or counts it late (R347) -/
  | mirrorFrame (f : MirrorFrame ⊕ CycMirror) (crcOk : Bool) (t : Instant)
  /-- A failed partner link lane halves the rate, and loss of both moves mirror frames to the ring (R345) -/
  | partnerLaneFail (lane : Fin 2) (t : Instant)
  /-- The caller receives a member heartbeat and resets its miss count (R353) -/
  | memberHeartbeat (k : Fin 4) (side : Bool) (h : Heartbeat) (t : Instant)
  /-- A heartbeat not arrived by t_k + max(Ts/2, 7 µs) counts a miss, and HBMISS misses trigger a decision (R353) -/
  | heartbeatMiss (k : Fin 4) (side : Bool) (tick t : Instant)
  /-- Every 1 ms the caller sends each member a caller heartbeat (R352) -/
  | callerHeartbeatSend (k : Fin 4) (t : Instant)
  /-- A member receives a caller heartbeat, takes GRADETHR and clears CALLER_LOST (R352) -/
  | callerHeartbeat (b : CallerBeat) (t : Instant)
  /-- No caller heartbeat for CALLTO sets CALLER_LOST (R358) -/
  | callerLost (t : Instant)
  /-- The caller decides on a received cut-in request within 1 µs under Table 12.3 (R355) -/
  | cutinRequest (k : Fin 4) (r : CutRequest) (t : Instant)
  /-- PAIR_CALLCTL SWAP makes the caller decide a planned cut-in (R355) -/
  | callerSwap (k : Fin 4) (t : Instant)
  /-- A member receiving a decision frame at least 0.5 µs before t_c arms for the cut-in (R356) -/
  | cutinDecision (d : CutDecision) (t : Instant)
  /-- At t_c the caller changes CALL_OUTk (R356) -/
  | cutinCallChange (k : Fin 4) (t : Instant)
  /-- A caller seeing the floor unmoved sets CUTFAIL and restores CALL_OUTk at the next tick (R356) -/
  | cutfailRestore (k : Fin 4) (t : Instant)
  /-- A standby runs the next self-test step round-robin and sets SELFTEST_FAIL on failure (R350) -/
  | standbySelftestStep (pass : Bool) (found : List EccFind) (t : Instant)
  /-- An Ethernet port's link comes up or goes down and LINKCHG is set (R361) -/
  | ethLinkChange (port : Fin 2) (up fault : Bool)
  /-- A received frame is timestamped, duplicate-discarded, forwarded or delivered to a receive queue (R366) -/
  | ethFrameReceive (port : Fin 2) (data : List Byte) (fcsOk : Bool) (t egress : Instant)
  /-- A transmit entry owned by the port is sent, with timestamp write-back or one-step insertion (R366) -/
  | ethTxEntry (port : Fin 2) (t : Instant)
  /-- A LAUNCH entry leaves at LTIME, or is sent late or dropped (R373) -/
  | ethLaunch (port : Fin 2) (t : Instant)
  /-- Every 2 s the part sends PRP supervision frames (R364) -/
  | prpSupervision (t : Instant)
  /-- A learned address not refreshed for 300 s is aged out (R362) -/
  | macAgeing (mac : BitVec 48) (t : Instant)
  /-- A write of TIME_SRVOFS runs one PI servo update and sets the frequency correction (R370) -/
  | servoUpdate (v : Word) (t : Instant)
  /-- No servo update for SRVTO enters HOLDOVER with y frozen (R370) -/
  | servoHoldover (t : Instant)
  /-- TIME_CTL STEP on node 1 with STEPOK moves ring time, otherwise sets STEPREF (R371) -/
  | timeStep (t : Instant)
  /-- When local tempo has slewed within 0.5 ns of ring time LTLOCK is set (R372) -/
  | localTempoLock (t : Instant)
  /-- When TLOCK returns local tempo snaps or slews towards ring time (R372) -/
  | tempoRestore (d : Int) (t : Instant)
  /-- A read of TIME_NOW_NS latches the other three words of TIME_NOW (R375) -/
  | timeNowRead (t : Instant)
  /-- A write of CAP_SWTRIG raises a software trigger event (R377) -/
  | capSwtrig (v : Word) (t : Instant)
  /-- At each TSMP instant an acquisition unit stores the latest value of each channel (R378) -/
  | acquisitionSample (u : Fin 2) (t : Instant)
  /-- A record closes when its last post-trigger sample is stored and the unit moves to the next buffer (R379) -/
  | recordClose (u : Fin 2) (t : Instant)
  /-- The measurement engine finishes a closed record and queues its Q28 or Q29 entry (R382) -/
  | measurementsDone (id : Word) (t : Instant)
  /-- The eMRAM copy of a protected record completes and its directory entry is written (R383) -/
  | recordCopyDone (id : Word)
  /-- CAP_CTL PROTECT protects the record named by CAP_RECSEL (R383) -/
  | capProtect
  /-- CAP_CTL DELETE removes the named record, or at RELEASE of a read holding it (R383) -/
  | capDelete
  /-- Every 100 µs each safety channel samples and filters its inputs and reads back its outputs (R396) -/
  | safetyInputSample (ch : Fin 2) (pins : BitVec 16) (cf : BitVec 8) (outs : BitVec 7) (t : Instant)
  /-- Each 1 ms each safety channel completes an evaluation cycle and sends a comparison frame (R392) -/
  | safetyCycle (ch : Fin 2) (selfOk : Bool) (t : Instant)
  /-- A received comparison frame is compared and the other channel's demands adopted (R392) -/
  | safetyComparisonFrame (ch : Fin 2) (t : Instant)
  /-- No comparison frame for 2.5 ms raises a channel fault (R393) -/
  | safetyFrameLost (ch : Fin 2) (t : Instant)
  /-- A test-pulse output emits its 200 µs low pulse every 50 ms and assigned inputs must show it (R397) -/
  | testPulse (o : Fin 4) (t : Instant)
  /-- Dual input pins disagreeing longer than DISC raise a discrepancy fault (R396) -/
  | inputDiscrepancy (ch : Fin 2) (inp : Fin 8) (t : Instant)
  /-- TSS1 elapsed without both READY applies STO and logs SS1FAIL (R400) -/
  | ss1Timeout (ch : Fin 2) (a : Fin 2) (t : Instant)
  /-- Lock feedback showing unlocked while commanded locked for longer than DISC raises LOCKFAULT and STO (R399) -/
  | lockfault (ch : Fin 2) (f : Fin 16) (t : Instant)
  /-- A RESET input held 100 ms to 3 s resets a function whose cause is gone (R401) -/
  | resetInput (ch : Fin 2) (inp : Fin 8) (t : Instant)
  /-- Feedback not following the command within FBT raises WELD or FBLATE (R402) -/
  | contactorFeedbackTimeout (ch : Fin 2) (n : Fin 4) (t : Instant)
  /-- A DEMAND bit of SYS_SAFEREQ demands its SWDEMAND function (R408) -/
  | safereqDemand (d : BitVec 16)
  /-- A rising RESET of SYS_SAFEREQ resets functions with SWRESET set (R408) -/
  | safereqReset (on : Bool)
  /-- A CLOSE bit of SYS_SAFEREQ requests a contactor closed (R402) -/
  | safereqClose (d : BitVec 4)
  /-- An UNLOCK bit of SYS_SAFEREQ or SYS_SAFEREQ_1 requests a DOOR lock release (R399) -/
  | safereqUnlock (d : BitVec 16)
  /-- Key switch held 1 s to 5 s in AWAITKEY writes both copies and switches the channels to the new table (R406) -/
  | keyAck (t : Instant)
  /-- No key acknowledgement within 300 s fails SAFETY_CONFIG with ERR 0x05 (R406) -/
  | keyTimeout (t : Instant)
  /-- The reserve manager samples monitors each second and judges each hour's drift and trends, swapping on evidence (R413) -/
  | driftEvaluation (t : Instant)
  /-- Two enrolment words within 1 s blow the owner key digest into fuses and set OWNER (R426) -/
  | ownerEnroll (t : Instant)
  /-- Two revocation words revoke V0 while V1 verifies the firmware (R426) -/
  | vendorKeyRevoke (t : Instant)
  /-- SEC_DBGCTL GO verifies a debug token, enabling debug or setting DBGREF (R429) -/
  | debugToken
  /-- Once every supply has been in range for 2 ms the internal reset is released (R446) -/
  | powerOnReset (banks : BitVec 3) (t : Instant)
  /-- REFCLK missing for 1 µs or off by more than 0.5 % holds the part in reset with REFERR (R432) -/
  | refclkError (t : Instant)
  /-- A supply outside its envelope resets the part naming the rail (R445) -/
  | supplyReset (rail : Fin 24) (t : Instant)
  /-- A PLL completes acquisition and its lock flag sets (R436) -/
  | pllLock (pll : Fin 2) (early : Nat) (t : Instant)
  /-- A PLL not locked within 60 µs fails acquisition, and three in a row retire it (R438) -/
  | pllAcquisitionFail (pll : Fin 2) (early : Nat) (t : Instant)
  /-- A PLL that has held lock for 100 µs becomes the hot reserve (R437) -/
  | pllReserveReady (t : Instant)
  /-- Loss of lock of the PLL in service moves islands to the reserve and restarts acquisition (R438) -/
  | pllLossOfLock (early : Nat) (t : Instant)
  /-- CLK_BANDCTL GO starts a 10 µs open-loop band measurement (R435) -/
  | bandMeasure (v : Word) (t : Instant)
  /-- A band measurement completes and CLK_BANDMEAS shows DONE and the centre (R435) -/
  | bandMeasureDone (mhz : BitVec 16) (t : Instant)
  /-- A rail crossing −3 % or −6 % slows the island clock within 2 ns and sets SLOWED (R448) -/
  | supplySag (island : Fin 13) (sram deep : Bool) (t : Instant)
  /-- A rail 5 mV above a threshold for 1 µs steps the island's slowing back (R448) -/
  | sagRecovery (island : Fin 13) (sram : Bool) (t : Instant)
  /-- Island I1 samples temperature, voltage and process monitors on their periods (R449) -/
  | monitorSample (kind : MonKind) (xs : List Word) (t : Instant)
  /-- 140 °C or more for 1 ms resets the part with cause TCRIT (R450) -/
  | tempCritical (t : Instant)
  /-- A read of MON_VMIN or MON_VMAX restarts its record from the present value (R453) -/
  | monVminmaxRead (j : Fin 24) (max : Bool)
  /-- VDD_ANA rising through 1.6 V switches the vault from VBAT back to the main supply (R447) -/
  | vaultWake (t : Instant)
  /-- VBAT below 1.8 V without main supplies, or a stopped crystal in RTC-hold, sets TAMPER and clears RTCVALID (R447) -/
  | tamper (crystal : Bool) (t : Instant)
  /-- While TLOCK is set the real-time clock is set from ring time at each whole second (R447) -/
  | rtcSync (t : Instant)
  /-- A running long operation reaches DONE or FAILED some time after OP_CMD and frees the resource that queued operations wait for (R332) -/
  | longOperationComplete (k : Fin 8) (fails : BitVec 32) (found : List EccFind) (t : Instant)
  /-- REFCLK comes back within 0.5 % of 100 MHz and the part leaves the reset that REFERR held (R432) -/
  | refclkReturn (t : Instant)
  /-- A failed partner-link lane or the whole link works again, clearing PLINK_DEG or MIRROR_RING so that mirror frames return to the partner link (R345) -/
  | partnerLinkReturn (lanes : BitVec 2) (t : Instant)
  /-- After a ring reset the links finish retraining within the time of Table 11.6 and node 1 starts the promenade that follows (R325) -/
  | ringRetrainComplete (east west : BitVec 3) (t : Instant)
deriving DecidableEq, Repr

end Sys2Proof
end

