-- ==== Sys2Proof/Decode.lean ====
section
/-! DEFINITION. The command that a word spells: by the bits of the table of operations, and by the slot words of Heloryx-V (R147,
R154). -/

namespace Sys2Proof

/-- The table of operations gives bits to no row, so no word spells a command by it. -/
def decodeTableWord (_nbits _w : Nat) : Option Instr := none

/-- The operations of Table 5.2 by their codes. -/
def slotOps : List (Nat × (VOp → Instr)) :=
  [(0x00, .vNop), (0x01, .vFadd), (0x02, .vFsub), (0x03, .vFmul), (0x04, .vFma), (0x05, .vFnma), (0x06, .vFmin), (0x07, .vFmax),
   (0x08, .vFabs), (0x09, .vFneg), (0x0A, .vFmov), (0x0B, .vFcmp), (0x0C, .vSel), (0x0D, .vSat), (0x0E, .vIntg), (0x0F, .vAccd),
   (0x10, .vFtst), (0x11, .vPlog), (0x12, .vIand), (0x13, .vIor), (0x14, .vIxor), (0x15, .vIshl), (0x16, .vIshr), (0x17, .vIcmp),
   (0x18, .vPins), (0x19, .vCvti), (0x1A, .vCvtf)]
  ++ [(0x20, .vLd), (0x21, .vSt), (0x22, .vLdc), (0x23, .vLdp), (0x24, .vIn), (0x25, .vOut), (0x26, .vPwmw)]
  ++ [(0x30, .vSincos), (0x31, .vSqrt), (0x32, .vRecip), (0x33, .vAtan2), (0x34, .vClarke), (0x35, .vPark), (0x36, .vIpark),
   (0x37, .vSeq), (0x38, .vSwing), (0x39, .vLimv), (0x3A, .vBiq), (0x3B, .vInj), (0x3C, .vAadd), (0x3D, .vAdif),
   (0x3F, .vSampleEnd)]

/-- The operation of a slot word (Table 5.1) of a lane's bundle: OP picks it, D, S1, S2, P and MOD are its fields; a code that is not
listed is reserved. -/
def decodeSlotWord (lane : Fin 8) (bundle : BitVec 13) (w : BitVec 32) : Option Instr :=
  let o : VOp :=
    { lane := lane, bundle := bundle, d := w.extractLsb' 20 6, s1 := w.extractLsb' 14 6, s2 := w.extractLsb' 8 6,
      p := w.extractLsb' 5 3, mod := w.extractLsb' 0 5 }
  (slotOps.find? (fun e => e.1 = (w.extractLsb' 26 6).toNat)).map (fun e => e.2 o)

end Sys2Proof
end

