-- ==== Sys2Proof/Machine/Bits.lean ====
section
/-! DEFINITION. Bit fields of words, two's-complement readings, saturating counters and the sparse keyed lists that
hold registers and memories. -/

namespace Sys2Proof.Machine

/-- Field of `w` bits of `v` from bit `lo` up, as a number. -/
def bits (v : Word) (lo w : Nat) : Nat := v.toNat >>> lo % 2 ^ w

/-- Bit `i` of `v`. -/
def bitAt (v : Word) (i : Nat) : Bool := v.getLsbD i

/-- `v` with its `w`-bit field from bit `lo` replaced by `n` modulo `2 ^ w`. -/
def setBits (v : Word) (lo w n : Nat) : Word :=
  BitVec.ofNat 32 (v.toNat - bits v lo w <<< lo + (n % 2 ^ w) <<< lo)

/-- `v` with bit `i` set to `b`. -/
def putBit (v : Word) (i : Nat) (b : Bool) : Word := setBits v i 1 b.toNat

/-- The word with bit `i` alone set. -/
def bitWord (i : Nat) : Word := BitVec.ofNat 32 (2 ^ i)

/-- A saturating increment within `w` bits. -/
def satInc (w n : Nat) : Nat := min (n + 1) (2 ^ w - 1)

/-- The word of a signed integer, modulo 2^32. -/
def wordOfInt (z : Int) : Word := BitVec.ofInt 32 z

/-- An integer limited to a range. -/
def clampInt (lo hi z : Int) : Int := max lo (min hi z)

/-- Bytes of a number, least significant first (R8: little-endian). -/
def bytesOf : Nat → Nat → List Byte
  | 0, _ => []
  | k + 1, n => BitVec.ofNat 8 n :: bytesOf k (n / 256)

/-- The number whose bytes, least significant first, are given. -/
def numOf : List Byte → Nat
  | [] => 0
  | b :: bs => b.toNat + 256 * numOf bs

/-- The positions below `n` at which the bit of `v` is set, in rising order. -/
def setPositions (n v : Nat) : List Nat := (List.range n).filter (fun i => v.testBit i)

/-! Sparse keyed lists: keys strictly rising, and no entry that holds what an unlisted key reads as. -/

/-- The entry of key `k`, if one is listed. -/
def sFind {α : Type} : List (Nat × α) → Nat → Option α
  | [], _ => none
  | (a, v) :: l, k => if k = a then some v else sFind l k

/-- Place `v` at key `k`. -/
def sPut {α : Type} : List (Nat × α) → Nat → α → List (Nat × α)
  | [], k, v => [(k, v)]
  | (a, w) :: l, k, v =>
    if k < a then (k, v) :: (a, w) :: l
    else if k = a then (k, v) :: l
    else (a, w) :: sPut l k v

/-- Remove key `k`. -/
def sErase {α : Type} : List (Nat × α) → Nat → List (Nat × α)
  | [], _ => []
  | (a, w) :: l, k => if k = a then sErase l k else (a, w) :: sErase l k

/-- Read key `k`; an unlisted key reads as `d k`. -/
def sGet {α : Type} (d : Nat → α) (l : List (Nat × α)) (k : Nat) : α := (sFind l k).getD (d k)

/-- Write `v` at key `k`, removing the entry where `v` is what an unlisted key reads as. -/
def sSet {α : Type} [DecidableEq α] (d : Nat → α) (l : List (Nat × α)) (k : Nat) (v : α) : List (Nat × α) :=
  if v = d k then sErase l k else sPut l k v

/-- Every key lies above `b` and the keys rise strictly. -/
def sRising {α : Type} : Option Nat → List (Nat × α) → Bool
  | _, [] => true
  | none, (a, _) :: l => sRising (some a) l
  | some b, (a, _) :: l => decide (b < a) && sRising (some a) l

/-- The canonical form of a sparse keyed list: keys strictly rising and no entry equal to its default. -/
def sCanon {α : Type} [DecidableEq α] (d : Nat → α) (l : List (Nat × α)) : Bool :=
  sRising none l && l.all (fun e => decide (e.2 ≠ d e.1))

end Sys2Proof.Machine
end

