-- ==== Sys2Proof/Machine/Float.lean ====
section
/-! DEFINITION. Binary32 arithmetic as the lanes and the supervisory cores compute it (R149 to R153): every result is
the exact value of its formula, rounded once to nearest, ties to even, with denormals read as zero and flushed. -/

namespace Sys2Proof.Machine

/-- What a 32-bit pattern is as an operand: a NaN, an infinity, or a finite value with its sign and its magnitude in
units of 2^-149; a denormal is read as zero of its sign (R149). -/
inductive Fp
  | nan
  | inf (neg : Bool)
  | fin (neg : Bool) (mag : Nat)
deriving DecidableEq, Repr

/-- Read a pattern as an operand (R149). -/
def fpOf (w : Word) : Fp :=
  let e := bits w 23 8
  let m := bits w 0 23
  if e = 255 then (if m = 0 then .inf (bitAt w 31) else .nan)
  else if e = 0 then .fin (bitAt w 31) 0
  else .fin (bitAt w 31) ((m + 2 ^ 23) * 2 ^ (e - 1))

/-- The canonical quiet NaN (R149). -/
def fpNan : Word := 0x7FC00000

/-- Infinity of a sign. -/
def fpInf (neg : Bool) : Word := if neg then 0xFF800000 else 0x7F800000

/-- Zero of a sign. -/
def fpZero (neg : Bool) : Word := if neg then 0x80000000 else 0

/-- The largest finite value of a sign (R150). -/
def fpMaxFinite (neg : Bool) : Word := if neg then 0xFF7FFFFF else 0x7F7FFFFF

/-- Whether a pattern is a NaN. -/
def fpIsNan (w : Word) : Bool := fpOf w = .nan

/-- The pattern with denormals read as zero of the same sign (R149). -/
def fpFlush (w : Word) : Word := if bits w 23 8 = 0 then fpZero (bitAt w 31) else w

/-- A number `q` of whole units rounded up by one when the remainder `r` of division by `d` calls for it: to nearest,
ties to even. -/
def roundUp (q r d : Nat) : Nat := if 2 * r > d || (2 * r = d && q % 2 = 1) then q + 1 else q

/-- The value `n / d`, with `d` positive, rounded to binary32 under R149: to nearest even at 24 bits with an unbounded
exponent, then to infinity above the range and to zero below 2^-126. -/
def fpRound (neg : Bool) (n d : Nat) : Word :=
  if n = 0 then fpZero neg else
  let e0 : Int := (n.log2 : Int) - (d.log2 : Int)
  let reaches := if 0 ≤ e0 then decide (d <<< e0.toNat ≤ n) else decide (d ≤ n <<< (-e0).toNat)
  let e := if reaches then e0 else e0 - 1
  let sh := 23 - e
  let n' := n <<< sh.toNat
  let d' := d <<< (-sh).toNat
  let q := roundUp (n' / d') (n' % d') d'
  let (q, e) := if q = 2 ^ 24 then (2 ^ 23, e + 1) else (q, e)
  if 127 < e then fpInf neg
  else if e < -126 then fpZero neg
  else BitVec.ofNat 32 ((if neg then 2 ^ 31 else 0) + (e + 127).toNat * 2 ^ 23 + (q - 2 ^ 23))

/-- The integer `z` in units of 2^-`k`, rounded; zero takes the sign given. -/
def fpRoundInt (zneg : Bool) (z : Int) (k : Nat) : Word :=
  if z = 0 then fpZero zneg else fpRound (z < 0) z.natAbs (2 ^ k)

/-- Newton steps towards the integer square root of `n`, from above. -/
def isqrtFrom : Nat → Nat → Nat → Nat
  | 0, _, g => g
  | k + 1, n, g =>
    let g' := (g + n / g) / 2
    if g' < g then isqrtFrom k n g' else g

/-- The integer square root: the largest `s` with `s * s ≤ n`. -/
def isqrt (n : Nat) : Nat := if n = 0 then 0 else isqrtFrom 64 n (2 ^ (n.log2 / 2 + 1))

/-- The square root of `n / d`, with `d` positive, rounded to binary32: the root is taken to 120 fractional bits
beyond the leading one and an inexact rest is kept as a last sticky bit, so the one rounding is that of the exact
root. -/
def fpRoundSqrt (neg : Bool) (n d : Nat) : Word :=
  if n = 0 then fpZero neg else
  let k := 200 + d.log2
  let m := n <<< (2 * k)
  let q := m / d
  let s := isqrt q
  let exact := s * s = q && q * d = m
  fpRound neg (2 * s + (if exact then 0 else 1)) (2 ^ (k + 1))

/-- The signed integer, in units of 2^-149, of a finite operand. -/
def fpSigned (neg : Bool) (m : Nat) : Int := if neg then -(m : Int) else m

/-- What a sum of products has met so far: a NaN or an invalid operation, the sign of an infinity, the exact total in
units of 2^-298, and whether every term was a zero of negative sign. -/
structure FpAcc where
  bad : Bool := false
  inf : Option Bool := none
  total : Int := 0
  negZeros : Bool := true
deriving DecidableEq, Repr

/-- Add the term `c · a · b` to a sum. An infinity times zero and infinities of both signs are invalid (R149). -/
def FpAcc.term (s : FpAcc) (c : Int) (a b : Word) : FpAcc :=
  match fpOf a, fpOf b with
  | .nan, _ => { s with bad := true }
  | _, .nan => { s with bad := true }
  | .fin na ma, .fin nb mb =>
    let p := c * fpSigned na ma * fpSigned nb mb
    let neg := xor (c < 0) (xor na nb)
    { s with total := s.total + p, negZeros := s.negZeros && p = 0 && neg }
  | x, y =>
    let zero := match x, y with
      | .fin _ 0, _ => true
      | _, .fin _ 0 => true
      | _, _ => c = 0
    let sgn : Fp → Bool := fun z => match z with
      | .nan => false
      | .inf n => n
      | .fin n _ => n
    let neg := xor (c < 0) (xor (sgn x) (sgn y))
    if zero || (s.inf = some !neg) then { s with bad := true }
    else { s with inf := some neg, negZeros := false }

/-- The binary32 pattern of one. -/
def fpOne : Word := 0x3F800000

/-- The rounded value of a sum of products divided by `den`. -/
def FpAcc.done (s : FpAcc) (den : Nat) : Word :=
  if s.bad then fpNan
  else match s.inf with
    | some n => fpInf n
    | none =>
      if s.total = 0 then fpZero s.negZeros
      else fpRound (s.total < 0) s.total.natAbs (den * 2 ^ 298)

/-- `a + b` (R154). -/
def fpAdd (a b : Word) : Word := (({} : FpAcc).term 1 a fpOne |>.term 1 b fpOne).done 1

/-- `a − b` (R154). -/
def fpSub (a b : Word) : Word := (({} : FpAcc).term 1 a fpOne |>.term (-1) b fpOne).done 1

/-- `a × b` (R154). -/
def fpMul (a b : Word) : Word := (({} : FpAcc).term 1 a b).done 1

/-- `c + a × b` with one rounding (R154). -/
def fpFma (c a b : Word) : Word := (({} : FpAcc).term 1 c fpOne |>.term 1 a b).done 1

/-- `c − a × b` with one rounding (R154). -/
def fpFnma (c a b : Word) : Word := (({} : FpAcc).term 1 c fpOne |>.term (-1) a b).done 1

/-- `a / b`, correctly rounded; 0/0 and ∞/∞ are invalid (R149). -/
def fpDiv (a b : Word) : Word :=
  match fpOf a, fpOf b with
  | .nan, _ => fpNan
  | _, .nan => fpNan
  | .inf _, .inf _ => fpNan
  | .inf n, .fin m _ => fpInf (xor n m)
  | .fin n _, .inf m => fpZero (xor n m)
  | .fin n ma, .fin m mb =>
    if mb = 0 then (if ma = 0 then fpNan else fpInf (xor n m)) else fpRound (xor n m) ma mb

/-- `1 / a`: ±∞ for ±0 and ±0 for ±∞ (R153). -/
def fpRecip (a : Word) : Word := fpDiv fpOne a

/-- `√a`: the canonical NaN for a negative non-zero operand (R153). -/
def fpSqrt (a : Word) : Word :=
  match fpOf a with
  | .nan => fpNan
  | .inf n => if n then fpNan else fpInf false
  | .fin n m => if m = 0 then fpZero n else if n then fpNan else fpRoundSqrt false m (2 ^ 149)

/-- `|a|` (R154), denormals read as zero and NaN made canonical (R149). -/
def fpAbs (a : Word) : Word := if fpIsNan a then fpNan else putBit (fpFlush a) 31 false

/-- `−a`: the sign flips, and a NaN is made canonical (R149, R154). -/
def fpNeg (a : Word) : Word := if fpIsNan a then fpNan else fpFlush a ^^^ 0x80000000

/-- Place of a value in the order of R149, in which −0 lies below +0: an integer that rises with the value. -/
def fpRank (a : Word) : Int :=
  match fpOf a with
  | .nan => 0
  | .inf n => if n then -(2 ^ 300) else 2 ^ 300
  | .fin n m => if n then -(m : Int) - 1 else m

/-- The smaller of two values, −0 below +0 (R149). -/
def fpMin (a b : Word) : Word :=
  if fpIsNan a || fpIsNan b then fpNan
  else if fpRank a ≤ fpRank b then fpFlush a else fpFlush b

/-- The larger of two values, −0 below +0 (R149). -/
def fpMax (a b : Word) : Word :=
  if fpIsNan a || fpIsNan b then fpNan
  else if fpRank b ≤ fpRank a then fpFlush a else fpFlush b

/-- The value of an operand for comparisons, in which the two zeros are equal (R150). -/
def fpCmpKey (a : Word) : Int :=
  match fpOf a with
  | .nan => 0
  | .inf n => if n then -(2 ^ 300) else 2 ^ 300
  | .fin n m => fpSigned n m

/-- `a < b`, false with a NaN (R150). -/
def fpLt (a b : Word) : Bool := !fpIsNan a && !fpIsNan b && fpCmpKey a < fpCmpKey b

/-- `a ≤ b`, false with a NaN (R150). -/
def fpLe (a b : Word) : Bool := !fpIsNan a && !fpIsNan b && fpCmpKey a ≤ fpCmpKey b

/-- `a = b` as values, false with a NaN (R150). -/
def fpEq (a b : Word) : Bool := !fpIsNan a && !fpIsNan b && fpCmpKey a = fpCmpKey b

/-- Whether a pattern is a finite value. -/
def fpFinite (a : Word) : Bool :=
  match fpOf a with
  | .fin _ _ => true
  | _ => false

/-- The value `n / d`, `d` positive, rounded to the nearest integer, ties to even. -/
def roundInt (n : Int) (d : Nat) : Int :=
  let q := roundUp (n.natAbs / d) (n.natAbs % d) d
  if n < 0 then -(q : Int) else q

/-- FP32 to a signed 32-bit integer: nearest even, saturating, 0 for a NaN (R151). -/
def fpToInt (a : Word) : Word :=
  match fpOf a with
  | .nan => 0
  | .inf n => if n then 0x80000000 else 0x7FFFFFFF
  | .fin n m => wordOfInt (clampInt (-(2 ^ 31)) (2 ^ 31 - 1) (roundInt (fpSigned n m) (2 ^ 149)))

/-- A signed integer to FP32, nearest even (R151). -/
def fpOfInt (z : Int) : Word := fpRoundInt false z 0

/-- A rational number `z / d` to FP32, nearest even. -/
def fpOfRat (z : Int) (d : Nat) : Word := if z = 0 then 0 else fpRound (z < 0) z.natAbs d

/-- The exact value of a finite operand times 2^149; 0 for a NaN or an infinity. -/
def fpScaled (a : Word) : Int :=
  match fpOf a with
  | .fin n m => fpSigned n m
  | _ => 0

/-- A finite operand times `k`, rounded to the nearest integer, ties to even. -/
def fpToUnits (a : Word) (k : Nat) : Int := roundInt (fpScaled a * k) (2 ^ 149)

/-- A finite operand times `k`, rounded down. -/
def fpFloorUnits (a : Word) (k : Nat) : Int := fpScaled a * k / 2 ^ 149

/-! Angles: unsigned 32-bit fractions of a turn (R6). -/

/-- Angle plus an FP32 value in turns (R152, AADD). -/
def angleAdd (a x : Word) : Word := a + wordOfInt (fpToUnits x (2 ^ 32))

/-- A difference of two angles mapped into (−½, +½] turn, in units of 2^-32 turn (R63, R152). -/
def angleDiffInt (a b : Word) : Int :=
  let d := (a - b).toNat
  if d > 2 ^ 31 then (d : Int) - 2 ^ 32 else d

/-- Wrapped difference of two angles in turns (R152, ADIF). -/
def angleDiff (a b : Word) : Word := fpOfRat (angleDiffInt a b) (2 ^ 32)

/-- Fractional bits of the fixed-point series. -/
def fixBits : Nat := 256

/-- π in units of 2^-256. -/
def piFix : Nat :=
  31415926535897932384626433832795028841971693993751058209749445923078164062862089986280348253421170679 * 2 ^ fixBits
    / 10 ^ 100

/-- Terms of the Taylor series of cosine and sine of `th`, in fixed point: the sums so far, the next term and its
index. -/
def cosSinSum : Nat → Nat → Nat → Nat → Int → Int → Int × Int
  | 0, _, _, _, c, s => (c, s)
  | k + 1, th, n, term, c, s =>
    let (c, s) := match n % 4 with
      | 0 => (c + term, s)
      | 1 => (c, s + term)
      | 2 => (c - term, s)
      | _ => (c, s - term)
    cosSinSum k th (n + 1) (term * th / ((n + 1) * 2 ^ fixBits)) c s

/-- Cosine and sine, in units of 2^-256, of the first-quadrant angle of `r` units of 2^-32 turn. -/
def cosSinQuarter (r : Nat) : Int × Int :=
  if r = 0 then (2 ^ fixBits, 0)
  else cosSinSum 80 (piFix * r / 2 ^ 31) 0 (2 ^ fixBits) 0 0

/-- Cosine and sine, in units of 2^-256, of `n / d` of a turn. -/
def cosSinTurn (n : Int) (d : Nat) : Int × Int :=
  let m := (n % d).toNat
  let r := 4 * m % d
  let (c, s) := if r = 0 then ((2 ^ fixBits : Int), (0 : Int))
    else cosSinSum 80 (piFix * r / (2 * d)) 0 (2 ^ fixBits) 0 0
  match 4 * m / d with
  | 0 => (c, s)
  | 1 => (-s, c)
  | 2 => (-c, -s)
  | _ => (s, -c)

/-- Cosine and sine of an angle, each the exact value rounded once (R152). -/
def fpCosSin (a : Word) : Word × Word :=
  let (c, s) := cosSinQuarter (bits a 0 30)
  let (c, s) := match bits a 30 2 with
    | 0 => (c, s)
    | 1 => (-s, c)
    | 2 => (-c, -s)
    | _ => (s, -c)
  (fpRoundInt false c fixBits, fpRoundInt false s fixBits)

/-- Terms of the arctangent series for a small `t`, in fixed point. -/
def atanSum : Nat → Nat → Nat → Nat → Int → Int
  | 0, _, _, _, acc => acc
  | k + 1, t2, n, pow, acc =>
    let term : Int := pow / (2 * n + 1)
    atanSum k t2 (n + 1) (pow * t2 / 2 ^ fixBits) (if n % 2 = 0 then acc + term else acc - term)

/-- `t / (1 + √(1 + t²))`, which halves the arctangent, in fixed point. -/
def atanHalve (t : Nat) : Nat :=
  let one := 2 ^ fixBits
  t * one / (one + isqrt (one * one + t * t))

/-- The arctangent of `t`, 0 to 1, in units of 2^-256. -/
def atanFix (t : Nat) : Nat :=
  let u := atanHalve (atanHalve (atanHalve t))
  (8 * atanSum 48 (u * u / 2 ^ fixBits) 0 u 0).toNat

/-- The angle of a point of the first quadrant, not the origin, in units of 2^-256 radian. -/
def angleQuarter (x y : Nat) : Nat :=
  if y ≤ x then atanFix (y * 2 ^ fixBits / x) else piFix / 2 - atanFix (x * 2 ^ fixBits / y)

/-- The angle of (x, y): the exact angle in turns times 2^32, rounded to the nearest integer; 0 for the origin or a
NaN (R152). An infinite operand takes the limit direction. -/
def fpAtan2 (y x : Word) : Word :=
  let mag : Fp → Option (Bool × Nat × Bool) := fun z => match z with
    | .nan => none
    | .inf n => some (n, 1, true)
    | .fin n m => some (n, m, false)
  match mag (fpOf x), mag (fpOf y) with
  | some (nx, mx, ix), some (ny, my, iy) =>
    let mx := if iy && !ix then 0 else mx
    let my := if ix && !iy then 0 else my
    if mx = 0 && my = 0 then 0 else
    let q := angleQuarter mx my
    let whole := 2 * piFix
    let r : Int := if nx then (if ny then (piFix : Int) + q else (piFix : Int) - q)
      else (if ny then (whole : Int) - q else q)
    wordOfInt (roundInt (r * 2 ^ 32) whole)
  | _, _ => 0

end Sys2Proof.Machine
end

