-- ==== Sys2Proof/Config.lean ====
section
/-! DEFINITION. What one part is built with and what the spec leaves open: constants without a body, so that no proof
can rest on a value of theirs. Each is named in a row of the assumption log. -/

namespace Sys2Proof.Config

/-- Whether the part is the -FB-M order code (R1, R2). -/
opaque gradeM : Bool

/-- SYS_ID as Table 0.2 gives it for the part's grade (R2). -/
def sysId : Word := if gradeM then 0x6400B102 else 0x6400B101

/-- The part's 64-bit unique ID (R313, R420), low half. -/
opaque uidLo : Word

/-- The part's 64-bit unique ID, high half. -/
opaque uidHi : Word

/-- The part's Ethernet MAC address, low half (R374). -/
opaque macLo : Word

/-- The part's Ethernet MAC address, bits [47:32]. -/
opaque macHi : Word

/-- The nonce for debug tokens that the boot draws (R429), low half. -/
opaque bootNonceLo : Word

/-- The nonce for debug tokens that the boot draws, high half. -/
opaque bootNonceHi : Word

/-- A free value of 64 bits: the `n`-th value that the spec leaves open in a run. -/
opaque free : Nat → BitVec 64

/-- The request that an entry of Q22 or Q23 asks for (R39), of whose bytes the spec gives no layout: type, destination node, address
in the node, length and payload. -/
opaque ringEntry : List Byte → Nat × Nat × Nat × Nat × List Byte

/-- The bytes of the entry of Q21 for a request of an entry of Q22 or Q23 that ended with a status and data (R39), of which the spec
gives no layout. -/
opaque ringCompletion : List Byte → Nat → List Byte → List Byte

/-- The density at the end of a compensated chain (R174, R175), of which the spec gives no coefficients: a function of
ORDER, OSR1, the compensator's decimation, its variant and the bits of its window, oldest first. -/
opaque firDensity : Nat → Nat → Nat → Bool → List Bool → Word

/-- The gain and the offset that an AUXADC trim word stands for (R186), of whose 16-bit halves the spec gives no
format. -/
opaque auxTrim : Word → Word × Word

/-- The whole number of units that a block's internal number format gives for `n / d` units, where the spec gives formulas
and no format: the position observers (R236, units of 2^-64 turn), the grid figure, its library and the self-scan
(chapters 2 to 4, units of 1/`pu`), and means of monitors (R419). A division by zero gives an open value too. -/
opaque round : Int → Nat → Int

/-- The sign of chip `k` of the maximal-length sequence of an order (R130), of which the spec gives no polynomial and
no start. -/
opaque prbs : Nat → Nat → Bool

/-- Whether the image of a FIG_ID is a build of the grid figure of the reference figure set (R44, R74), of which the spec
gives the behaviour and not the identifiers. -/
opaque isGridFigure : Nat → Bool

/-- The phase (0 to 2) that a pair carries in a grid figure image; another number: none (Table 2.3, step 14). -/
opaque gridPhase : Nat → Nat → Nat

/-- The next output of a first-order filter, from its output, its input and the ratio of sample period to time constant
as a fraction: the spec gives the time constants of the grid figure and not how they are stepped. -/
opaque lag : Int → Int → Int → Int → Int

/-- The BIQ sections through which a grid figure image passes a value in an axis, in order (R55, R73): FIG_ID; 0 for the
notches, h for the component at order h; the axis. -/
opaque gridSections : Nat → Nat → Nat → List Nat

/-- What the bytes of a cyclic image slot declare (R278, R284, R295): the listed bytes of the slot, by offset. -/
opaque cycImage : List (Nat × Byte) → CycImage

/-- The bytes of a cyclic image slot, or of the vendor firmware area, that are signed, and their signature: the listed bytes
of the area, by offset; the spec does not say where in them the signature stands. -/
opaque signedPart : List (Nat × Byte) → List Byte × List Byte

/-- Whether the bytes of a debug token are one that the owner key signed for a unique ID and a nonce (R429), of whose
layout the spec says nothing: owner key, token, ID, nonce. -/
opaque tokenOk : List Byte → List Byte → BitVec 64 → BitVec 64 → Bool

/-- The bytes of a debug token. -/
opaque tokenLen : Nat

/-- The byte of the boot ROM at an offset, of which the spec gives no contents. -/
opaque bootRom : Nat → Byte

/-- Whether an ML-DSA-87 signature verifies under a public key over a digest (R423, FIPS 204): key, digest, signature. -/
opaque verifies : List Byte → List Byte → List Byte → Bool

/-- The ML-DSA-87 signature of a digest made with the part's identity key, which no initiator reads (R423). -/
opaque sign : List Byte → List Byte

/-- The public keys V0 and V1, of which the boot ROM holds the digests (R423). -/
opaque vendorKey : Nat → List Byte

/-- The magnitude of the current vector that a safety channel forms from two fast paths (R400), of which the spec gives
no formula. -/
opaque vecMag : Word → Word → Word

/-- A process monitor's frequency corrected to 25 °C and 0.80 V (R413): the monitor, its frequency, the temperatures, the
voltages, and the coefficient word of the calibration page, whose format the spec does not give. -/
opaque pmCorrect : Nat → Word → List Word → List Word → Word → Word

/-- The level of a clock output that runs without a PLL, in a cell of its 10 ns grid (R443); the spec does not place its
edges on the grid. -/
opaque ckoOnGrid : Nat → Nat → Bool

/-- A monitor's reading with its trims applied (R449): gain, offset and reading; the spec does not say how the trims of
Table 16.6 apply to a temperature or a voltage. -/
opaque monTrim : Word → Word → Word → Word

end Sys2Proof.Config
end

