-- ==== Sys2Proof/Machine/RegMap.lean ====
section
/-! DEFINITION. The register map: one row per register or register array of the spec's register tables (R35 and the
table each block's docstring names), with the offset, the access masks of Table 0.4 and the reset value; and the
names of the registers' offsets. Bits in no mask are reserved (R9). -/

namespace Sys2Proof.Machine

/-- How a register takes part in a 64-bit value (R10): not at all, as its low half, its high half, or as the
fraction word that a timestamp triple latches with its high half (R193). -/
inductive PairKind | single | lo | hi | fr
deriving DecidableEq, Repr

/-- One row of a register table: an array of `n1` by `n2` registers from `base` with strides `s1` and `s2`.
`ro`, `rw`, `w1c`, `w1s`, `wo` and `st` are the bits of each access code of Table 0.4. -/
structure RegRow where
  base : Nat
  n1 : Nat := 1
  s1 : Nat := 4
  n2 : Nat := 1
  s2 : Nat := 4
  reset : Word := 0
  resets : List Nat := []
  ro : Nat := 0
  rw : Nat := 0
  w1c : Nat := 0
  w1s : Nat := 0
  wo : Nat := 0
  st : Nat := 0
  pair : PairKind := .single
deriving DecidableEq, Repr

/-- The bits of a register that read as they stand: every defined bit but those of WO fields (R9, R11). -/
def RegRow.readable (r : RegRow) : Nat := r.ro ||| r.rw ||| r.w1c ||| r.w1s ||| r.st

/-- Whether offset `off` of the register space is a register of row `r`. -/
def RegRow.has (r : RegRow) (off : Nat) : Bool :=
  let d := off - r.base
  if off < r.base then false
  else if r.n2 = 1 then d % r.s1 = 0 && d / r.s1 < r.n1
  else if r.n1 = 1 then d % r.s2 = 0 && d / r.s2 < r.n2
  else d / r.s1 < r.n1 && d % r.s1 % r.s2 = 0 && d % r.s1 / r.s2 < r.n2

/-- The reset value of the register of row `r` at offset `off`: the entry of the row's table of values where it has
one, indexed along its second dimension, and the row's common value otherwise. -/
def RegRow.resetAt (r : RegRow) (off : Nat) : Word :=
  match r.resets with
  | [] => r.reset
  | _ => BitVec.ofNat 32 (r.resets.getD ((off - r.base) % r.s1 / r.s2) 0)

/-- Reset values of the parameter words 0 to 82 of the grid figure: Tables 2.6, 2.7, 3.7, 3.8 and 3.9, encoded in
binary32 by rounding to nearest even (R66); the words above are reserved and reset to 0. -/
def pwResets : List Nat := [
  0x360C600, 0x40800000, 0x42200000, 0x3D23D70A, 0x3CF5C28F, 0x3CA3D70A, 0x3DCCCCCD, 0x3E99999A,
  0x3DCCCCCD, 0x3F59999A, 0x3F8CCCCD, 0x3FC00000, 0x3F800000, 0x2AAAAAAB, 0x3CA3D70A, 0x3DCCCCCD,
  0x3C23D70A, 0x40000000, 0x3ECCCCCD, 0x3CA3D70A, 0x36D1B717, 0x3E19999A, 0x3D4CCCCD, 0x3D4CCCCD,
  0x3F51EB85, 0x430C0000, 0x3D6147AE, 0x3FF33333, 0x3F000000, 0x0, 0x0, 0x0,
  0x3E4CCCCD, 0x3E4CCCCD, 0x3E4CCCCD, 0x3E4CCCCD, 0x3E4CCCCD, 0x3E4CCCCD, 0x3E4CCCCD, 0x3E4CCCCD,
  0x3E4CCCCD, 0x3E4CCCCD, 0x3E4CCCCD, 0x3E4CCCCD, 0x0, 0x0, 0x0, 0x0,
  0x10504, 0x0, 0x0, 0x0, 0x3F200000, 0x3E4CCCCD, 0x3F200000, 0x3F59999A,
  0x40400000, 0x3FA66666, 0x0, 0x3FA66666, 0x3DCCCCCD, 0x3F99999A, 0x3DCCCCCD, 0x3F99999A,
  0x3F800000, 0x3F8CCCCD, 0x3F800000, 0x0, 0x0, 0x0, 0x0, 0x0,
  0x0, 0x0, 0x0, 0x0, 0x0, 0x0, 0x0, 0x0,
  0x0, 0x40000000, 0x3D4CCCCD]

/-- Rows of the SYS block (R42, 01_islands_and_sample.md). -/
def sysRows : List RegRow := [
  { base := 0x0, reset := Config.sysId, ro := 0xFFFFFFFF },  -- SYS_ID
  { base := 0x4, ro := 0xFC000000 },  -- SYS_STATUS
  { base := 0x8, wo := 0xFFFFFFFF },  -- SYS_SWRST
  { base := 0x10, ro := 0xFFFF00F0, w1c := 0x1 },  -- SYS_DECERR
  { base := 0x14, ro := 0xFFFFFFFF, pair := .lo },  -- SYS_DECERR_ADDR_LO
  { base := 0x18, ro := 0xFF, pair := .hi },  -- SYS_DECERR_ADDR_HI
  { base := 0x40, wo := 0xFF01FF },  -- SYS_JCOMMIT
  { base := 0x44, ro := 0xFFFFFFFF },  -- SYS_JCSTAT
  { base := 0x80, rw := 0xFFFF8FFF },  -- SYS_SAFEREQ
  { base := 0x84, rw := 0xFF },  -- SYS_SAFEREQ_1
  { base := 0x100, n1 := 9, s1 := 0x4, ro := 0xFFFFFF },  -- SYS_OCC
  { base := 0x124, reset := 0x1818, ro := 0xFFFF }  -- SYS_POOL
  ]

/-- Rows of the CLK block (R451, 17_clocks_power_monitors.md). -/
def clkRows : List RegRow := [
  { base := 0x10000, reset := 0x2000000, ro := 0xFF800000 },  -- CLK_STAT
  { base := 0x10004, w1c := 0x3F },  -- CLK_EVT
  { base := 0x10008, ro := 0xFFFFFFFF },  -- CLK_MOVECNT
  { base := 0x1000C, ro := 0xFFFFFFFF },  -- CLK_GUARDCNT
  { base := 0x10010, ro := 0x1FFF1FFF },  -- CLK_SLOW
  { base := 0x10014, wo := 0xFF },  -- CLK_BANDCTL
  { base := 0x10018, ro := 0x8000FFFF },  -- CLK_BANDMEAS
  { base := 0x10100, n1 := 13, s1 := 0x4, ro := 0xFFFFFFFF },  -- CLK_ISLCNT
  { base := 0x10400, n1 := 2, s1 := 0x100, n2 := 64, s2 := 0x4, rw := 0xFFFFFFFF },  -- CLK_BAND
  { base := 0x12000, n1 := 2, s1 := 0x10, reset := 0x30, st := 0x800000FF },  -- CLK_PLLCFG
  { base := 0x12004, n1 := 2, s1 := 0x10, st := 0xFFFFFF },  -- CLK_PLLF
  { base := 0x12100, n1 := 4, s1 := 0x10, st := 0xF0000000 },  -- CLK_CKOCFG
  { base := 0x12104, n1 := 4, s1 := 0x10, reset := 0x271, st := 0xFFF },  -- CLK_CKOPER
  { base := 0x12108, n1 := 4, s1 := 0x10, reset := 0x10000, st := 0xFFFFFFFF },  -- CLK_CKOFR
  { base := 0x17F00, wo := 0xFF0001 },  -- CLK_COMMIT
  { base := 0x17F04, ro := 0xFFFFFFFF }  -- CLK_CSTAT
  ]

/-- Rows of the PWR block (R452, 17_clocks_power_monitors.md). -/
def pwrRows : List RegRow := [
  { base := 0x20000, reset := 0xFFF, ro := 0xFFF },  -- PWR_STAT
  { base := 0x20004, reset := 0x1000000, ro := 0xFF00001F },  -- PWR_RSTCAUSE
  { base := 0x20008, ro := 0xFFFFFFFF },  -- PWR_SAGCNT
  { base := 0x20010, ro := 0xE0000001 },  -- PWR_VAULT
  { base := 0x20014, rw := 0x1 },  -- PWR_VCFG
  { base := 0x20018, ro := 0xFFFFFFFF, pair := .lo },  -- PWR_RTC_SLO
  { base := 0x2001C, ro := 0xFFFFFFFF, pair := .hi },  -- PWR_RTC_SHI
  { base := 0x20020, ro := 0xFFFFFFFF },  -- PWR_RTC_NS
  { base := 0x22000, st := 0x1 },  -- PWR_DOMCTL
  { base := 0x27F00, wo := 0xFF0001 },  -- PWR_COMMIT
  { base := 0x27F04, ro := 0xFFFFFFFF }  -- PWR_CSTAT
  ]

/-- Rows of the MON block (R453, 17_clocks_power_monitors.md). -/
def monRows : List RegRow := [
  { base := 0x30000, ro := 0x800003FF },  -- MON_STAT
  { base := 0x30004, w1c := 0x3 },  -- MON_EVT
  { base := 0x30100, n1 := 10, s1 := 0x4, ro := 0xFFFFFFFF },  -- MON_TEMP
  { base := 0x30140, n1 := 10, s1 := 0x4, ro := 0xFFFFFFFF },  -- MON_TMAX
  { base := 0x30200, n1 := 24, s1 := 0x4, ro := 0xFFFFFFFF },  -- MON_VOLT
  { base := 0x30280, n1 := 24, s1 := 0x4, ro := 0xFFFFFFFF },  -- MON_VMIN
  { base := 0x30300, n1 := 24, s1 := 0x4, ro := 0xFFFFFFFF },  -- MON_VMAX
  { base := 0x30400, n1 := 16, s1 := 0x4, ro := 0xFFFFFFFF },  -- MON_PMFREQ
  { base := 0x32000, reset := 0x42E60000, st := 0xFFFFFFFF },  -- MON_TWARN
  { base := 0x37F00, wo := 0xFF0001 },  -- MON_COMMIT
  { base := 0x37F04, ro := 0xFFFFFFFF }  -- MON_CSTAT
  ]

/-- Rows of the SPARE block (R430, 16_reserves_health_trust.md). -/
def spareRows : List RegRow := [
  { base := 0x40000, reset := 0xFF00FFFF, ro := 0xFF00FFFF },  -- SPARE_HEALTH
  { base := 0x40004, w1c := 0x1F },  -- SPARE_EVT
  { base := 0x40008, ro := 0xFFFFFFFF },  -- SPARE_LAST
  { base := 0x40014, reset := 0x2020000, ro := 0xFFFFFFFF },  -- SPARE_INV1
  { base := 0x40018, reset := 0x1010000, ro := 0xFFFFFFFF },  -- SPARE_INV2
  { base := 0x4001C, reset := 0x1010000, ro := 0xFFFFFFFF },  -- SPARE_INV3
  { base := 0x40020, reset := 0x2020000, ro := 0xFFFFFFFF },  -- SPARE_INV4
  { base := 0x40024, reset := 0x4040000, ro := 0xFFFFFFFF },  -- SPARE_INV5
  { base := 0x40028, reset := 0x8080000, ro := 0xFFFFFFFF },  -- SPARE_INV6
  { base := 0x4002C, reset := 0x2020000, ro := 0xFFFFFFFF },  -- SPARE_INV7
  { base := 0x40040, n1 := 16, s1 := 0x4, ro := 0xFFFFFFFF },  -- SPARE_PMDRIFT
  { base := 0x40080, n1 := 16, s1 := 0x4, reset := 0xFFFF, ro := 0xFFFF },  -- SPARE_PMLIFE
  { base := 0x42000, reset := 0xFE, st := 0xFE },  -- SPARE_CFG
  { base := 0x42004, reset := 0x2580190, st := 0xFFFFFFFF },  -- SPARE_DRIFT
  { base := 0x42008, reset := 0x310, st := 0xFFFF },  -- SPARE_ECCTHR
  { base := 0x47F00, wo := 0xFF0001 },  -- SPARE_COMMIT
  { base := 0x47F04, ro := 0xFFFFFFFF }  -- SPARE_CSTAT
  ]

/-- Rows of the SEC block (R431, 16_reserves_health_trust.md). -/
def secRows : List RegRow := [
  { base := 0x50000, ro := 0xF8000000 },  -- SEC_STAT
  { base := 0x50004, w1c := 0xFFFFFFFF },  -- SEC_EVT
  { base := 0x50008, wo := 0xFFFFFFFF },  -- SEC_ENROLL
  { base := 0x50010, reset := Config.bootNonceLo, ro := 0xFFFFFFFF, pair := .lo },  -- SEC_DBGNONCE_LO
  { base := 0x50014, reset := Config.bootNonceHi, ro := 0xFFFFFFFF, pair := .hi },  -- SEC_DBGNONCE_HI
  { base := 0x50018, wo := 0x1 },  -- SEC_DBGCTL
  { base := 0x5001C, rw := 0xFFFFFFFF, pair := .lo },  -- SEC_DBGADDR_LO
  { base := 0x50020, rw := 0xFF, pair := .hi },  -- SEC_DBGADDR_HI
  { base := 0x50040, n1 := 16, s1 := 0x4, ro := 0xFFFFFFFF },  -- SEC_MEAS
  { base := 0x50080, ro := 0x1FF }  -- SEC_MEASCNT
  ]

/-- Rows of the NVM block (R277, 09_heloryx_s_memory.md). -/
def nvmRows : List RegRow := [
  { base := 0x60000, ro := 0xF0FF1FFF },  -- NVM_STAT
  { base := 0x60004, w1c := 0xFFFFFFFF },  -- NVM_EVT
  { base := 0x60008, ro := 0xFFFFFFFF, pair := .lo },  -- NVM_WPADDR_LO
  { base := 0x6000C, ro := 0xFF, pair := .hi },  -- NVM_WPADDR_HI
  { base := 0x60010, ro := 0xFFFFFFFF },  -- NVM_WEARMAX
  { base := 0x60014, ro := 0x7FFFFF },  -- NVM_WEARADDR
  { base := 0x60100, wo := 0xFF3FFFFF },  -- NVM_XCMD
  { base := 0x60104, rw := 0xFFFFFFFF },  -- NVM_XADDR
  { base := 0x60108, ro := 0xC00000FF },  -- NVM_XSTAT
  { base := 0x60200, n1 := 16, s1 := 0x4, rw := 0xFFFFFFFF },  -- NVM_XDATA
  { base := 0x62000, reset := 0xF0, st := 0xFF },  -- NVM_WPROT
  { base := 0x62004, st := 0xFFFFFFFF },  -- NVM_XCFG
  { base := 0x67F00, wo := 0xFF0001 },  -- NVM_COMMIT
  { base := 0x67F04, ro := 0xFFFFFFFF }  -- NVM_CSTAT
  ]

/-- Rows of the HOST block (R338, 11_ring_and_host.md). -/
def hostRows : List RegRow := [
  { base := 0x80000, ro := 0xFFFFFFFF, pair := .lo },  -- HOST_STATUS_LO
  { base := 0x80004, ro := 0xFFFFFFFF, pair := .hi },  -- HOST_STATUS_HI
  { base := 0x80008, wo := 0xF0 },  -- HOST_FLAGCLR
  { base := 0x8000C, ro := 0x7F000F, w1c := 0xF0000000 },  -- HOST_ERR
  { base := 0x80010, ro := 0xFFFFFFFF, pair := .lo },  -- HOST_ERRADDR_LO
  { base := 0x80014, ro := 0xFFFF, pair := .hi },  -- HOST_ERRADDR_HI
  { base := 0x80018, w1c := 0xFFFFFFFF, pair := .lo },  -- HOST_SUMMARY_LO
  { base := 0x8001C, w1c := 0xFFFFFFFF, pair := .hi },  -- HOST_SUMMARY_HI
  { base := 0x80020, ro := 0xFFC00000 },  -- HOST_LINK
  { base := 0x80100, n1 := 8, s1 := 0x40, wo := 0xFF0000FF },  -- OP_CMD
  { base := 0x80104, n1 := 8, s1 := 0x40, wo := 0x3 },  -- OP_CTL
  { base := 0x80108, n1 := 8, s1 := 0x40, n2 := 4, s2 := 0x4, rw := 0xFFFFFFFF },  -- OP_ARG
  { base := 0x80118, n1 := 8, s1 := 0x40, rw := 0xFFFFFFFF, pair := .lo },  -- OP_RBUF_LO
  { base := 0x8011C, n1 := 8, s1 := 0x40, rw := 0xFF, pair := .hi },  -- OP_RBUF_HI
  { base := 0x80120, n1 := 8, s1 := 0x40, rw := 0xFFFFFF },  -- OP_RLEN
  { base := 0x80124, n1 := 8, s1 := 0x40, ro := 0xFFFFFFFF, pair := .lo },  -- OP_STATUS_LO
  { base := 0x80128, n1 := 8, s1 := 0x40, ro := 0xFFFFFFFF, pair := .hi }  -- OP_STATUS_HI
  ]

/-- Rows of the QUE block (R276, 09_heloryx_s_memory.md). -/
def queRows : List RegRow := [
  { base := 0x90000, n1 := 32, s1 := 0x20, rw := 0xFFFFFFFF, pair := .lo },  -- QUE_BASE_LO
  { base := 0x90004, n1 := 32, s1 := 0x20, rw := 0xFF, pair := .hi },  -- QUE_BASE_HI
  { base := 0x90008, n1 := 16, s1 := 0x20, reset := 0x20000, ro := 0xFF0000, rw := 0x8F00FFFF, w1c := 0x40000000 },  -- QUE_CFG
  { base := 0x90208, n1 := 4, s1 := 0x20, reset := 0x40000, ro := 0xFF0000, rw := 0x8F00FFFF, w1c := 0x40000000 },  -- QUE_CFG_HOST
  { base := 0x90288, n1 := 12, s1 := 0x20, reset := 0x20000, ro := 0xFF0000, rw := 0x8F00FFFF, w1c := 0x40000000 },  -- QUE_CFG_REST
  { base := 0x9000C, n1 := 32, s1 := 0x20, ro := 0xFFFF0000, rw := 0xFFFF },  -- QUE_PIDX
  { base := 0x90010, n1 := 32, s1 := 0x20, rw := 0xFFFF }  -- QUE_CIDX
  ]

/-- Rows of the DMA block (R275, 09_heloryx_s_memory.md). -/
def dmaRows : List RegRow := [
  { base := 0xA0000, n1 := 16, s1 := 0x40, rw := 0x1, wo := 0xE },  -- DMA_CTL
  { base := 0xA0004, n1 := 16, s1 := 0x40, ro := 0xE000FFFF },  -- DMA_STAT
  { base := 0xA0008, n1 := 16, s1 := 0x40, rw := 0x103 },  -- DMA_CFG
  { base := 0xA000C, n1 := 16, s1 := 0x40, rw := 0xFFFFC0FF, pair := .lo },  -- DMA_TTB_LO
  { base := 0xA0010, n1 := 16, s1 := 0x40, rw := 0xFF, pair := .hi },  -- DMA_TTB_HI
  { base := 0xA0014, n1 := 16, s1 := 0x40, ro := 0xFFFFFFFF, pair := .lo },  -- DMA_CSRC_LO
  { base := 0xA0018, n1 := 16, s1 := 0x40, ro := 0xFFFFFFFF, pair := .hi },  -- DMA_CSRC_HI
  { base := 0xA001C, n1 := 16, s1 := 0x40, ro := 0xFFFFFFFF, pair := .lo },  -- DMA_CDST_LO
  { base := 0xA0020, n1 := 16, s1 := 0x40, ro := 0xFFFFFFFF, pair := .hi },  -- DMA_CDST_HI
  { base := 0xA0024, n1 := 16, s1 := 0x40, ro := 0x1FFFFFF },  -- DMA_CREM
  { base := 0xA0028, n1 := 16, s1 := 0x40, ro := 0xFFFFFFFF },  -- DMA_FVA
  { base := 0xA002C, n1 := 16, s1 := 0x40, ro := 0xFFFFFFFF },  -- DMA_FINFO
  { base := 0xA0030, n1 := 16, s1 := 0x40, ro := 0xFFFFFFFF },  -- DMA_NDONE
  { base := 0xA0034, n1 := 16, s1 := 0x40, ro := 0xFFFFFFFF },  -- DMA_NFAULT
  { base := 0xA0038, n1 := 16, s1 := 0x40, ro := 0xFFFFFFFF },  -- DMA_NBEAT
  { base := 0xA003C, n1 := 16, s1 := 0x40, ro := 0xFFFFFFFF }  -- DMA_NPRE
  ]

/-- Rows of the MMU block (R274, 09_heloryx_s_memory.md). -/
def mmuRows : List RegRow := [
  { base := 0xB0000, n1 := 3, s1 := 0x20, rw := 0xFFFFC0FF, pair := .lo },  -- MMU_CTX_LO
  { base := 0xB0004, n1 := 3, s1 := 0x20, rw := 0xFF, pair := .hi },  -- MMU_CTX_HI
  { base := 0xB0008, n1 := 3, s1 := 0x20, rw := 0xFFFFC000, pair := .lo },  -- MMU_TTB1_LO
  { base := 0xB000C, n1 := 3, s1 := 0x20, rw := 0xFF, pair := .hi },  -- MMU_TTB1_HI
  { base := 0xB0010, n1 := 3, s1 := 0x20, ro := 0xFFFFFFFF },  -- MMU_FVA
  { base := 0xB0014, n1 := 3, s1 := 0x20, ro := 0xFFFFFFFF },  -- MMU_FINFO
  { base := 0xB0018, n1 := 3, s1 := 0x20, ro := 0xFFFFFFFF },  -- MMU_TLBHIT
  { base := 0xB001C, n1 := 3, s1 := 0x20, ro := 0xFFFFFFFF },  -- MMU_TLBMISS
  { base := 0xB0100, reset := 0x3210, ro := 0xFFFF },  -- MMU_SLOTMAP
  { base := 0xB0104, reset := 0x1, rw := 0x1 },  -- MMU_IOCTL
  { base := 0xB0108, ro := 0xFF },  -- MMU_IOSTAT
  { base := 0xB010C, ro := 0xFFFFFFFF },  -- MMU_IOHIT
  { base := 0xB0110, ro := 0xFFFFFFFF },  -- MMU_IOMISS
  { base := 0xB0114, ro := 0xFFFFFFFF },  -- MMU_SHOOT
  { base := 0xB0118, ro := 0xFFFFFFFF },  -- MMU_WALKERR
  { base := 0xB011C, ro := 0xFFFFFFFF },  -- MMU_IOFVA
  { base := 0xB0120, ro := 0xFFFFFFFF },  -- MMU_SECE
  { base := 0xB0124, ro := 0xFFFFFFFF },  -- MMU_SEUE
  { base := 0xB0128, ro := 0xFFFFFFFF, pair := .lo },  -- MMU_SEADDR_LO
  { base := 0xB012C, ro := 0xFF, pair := .hi },  -- MMU_SEADDR_HI
  { base := 0xB0130, ro := 0xFFFFFFFF },  -- MMU_MECE
  { base := 0xB0134, ro := 0xFFFFFFFF },  -- MMU_MEUE
  { base := 0xB0138, ro := 0xFFFFFFFF, pair := .lo },  -- MMU_MEADDR_LO
  { base := 0xB013C, ro := 0xFF, pair := .hi },  -- MMU_MEADDR_HI
  { base := 0xB0140, reset := 0x520000, ro := 0xFF00FF },  -- MMU_SROWS
  { base := 0xB0144, reset := 0x28F0000, ro := 0xFFFFFFFF },  -- MMU_MROWS
  { base := 0xB0148, reset := 0x180006, rw := 0xFFFFFFFF },  -- MMU_SCRUBCFG
  { base := 0xB014C, ro := 0xFFFFFFFF },  -- MMU_SCRUBSTAT
  { base := 0xB0150, reset := 0x2, rw := 0xF },  -- MMU_SPTHR
  { base := 0xB0154, ro := 0xFFFFFFFF },  -- MMU_LSCNT
  { base := 0xB0158, ro := 0xFFFFFFFF },  -- MMU_SWAPCNT
  { base := 0xB015C, ro := 0xFFFFFF }  -- MMU_DBLFLT
  ]

/-- Rows of the CYC block (R304, 10_cyclic_runtime.md). -/
def cycRows : List RegRow := [
  { base := 0xC0000, ro := 0xFEFF003F },  -- CYC_STAT
  { base := 0xC0004, w1c := 0x3FF },  -- CYC_EVT
  { base := 0xC0008, wo := 0x7 },  -- CYC_CTL
  { base := 0xC000C, ro := 0xFFFFFFFF },  -- CYC_IMGID
  { base := 0xC0010, ro := 0xFF00FFFF },  -- CYC_CHGSTAT
  { base := 0xC0014, ro := 0xFFFFFFFF },  -- CYC_PAUSE
  { base := 0xC0018, ro := 0x1FFF1FFF },  -- CYC_DIRTY
  { base := 0xC001C, ro := 0xFFFFFFFF },  -- CYC_STALLS
  { base := 0xC0020, ro := 0xC000FFFF },  -- CYC_PFSTAT
  { base := 0xC0024, ro := 0xFFFFFFFF, pair := .lo },  -- CYC_PFTIME_LO
  { base := 0xC0028, ro := 0xFFFFFFFF, pair := .hi },  -- CYC_PFTIME_HI
  { base := 0xC002C, ro := 0xFFFFFFFF },  -- CYC_SNAPSEQ
  { base := 0xC0100, n1 := 32, s1 := 0x10, ro := 0xF31FFFFF },  -- CYC_TSTAT
  { base := 0xC0104, n1 := 32, s1 := 0x10, ro := 0xFFFFFFFF },  -- CYC_TCYC
  { base := 0xC0108, n1 := 32, s1 := 0x10, ro := 0xFFFFFFFF },  -- CYC_TLAST
  { base := 0xC010C, n1 := 32, s1 := 0x10, ro := 0xFFFFFFFF },  -- CYC_TMAX
  { base := 0xC0400, n1 := 64, s1 := 0x4, ro := 0xE0FFFFFF },  -- CYC_RMSTAT
  { base := 0xC2000, reset := 0x1, st := 0x1 },  -- CYC_WDCFG
  { base := 0xC2004, reset := 0x3, st := 0xFF },  -- CYC_RIOCFG
  { base := 0xC7F00, wo := 0xFF0001 },  -- CYC_COMMIT
  { base := 0xC7F04, ro := 0xFFFFFFFF }  -- CYC_CSTAT
  ]

/-- Rows of the CLE block (R144, 04_control_law_engine.md). -/
def cleRows0 : List RegRow := [
  { base := 0x100000, n1 := 2, s1 := 0x4000, ro := 0xFFFFFF0 },  -- CLE_GSTAT
  { base := 0x100004, n1 := 2, s1 := 0x4000, w1c := 0xFFF },  -- CLE_GEVT
  { base := 0x100008, n1 := 2, s1 := 0x4000, ro := 0xFFFFFFFF, pair := .lo },  -- CLE_SCNT_LO
  { base := 0x10000C, n1 := 2, s1 := 0x4000, ro := 0xFFFFFFFF, pair := .hi },  -- CLE_SCNT_HI
  { base := 0x100010, n1 := 2, s1 := 0x4000, ro := 0xFFFF0001 },  -- CLE_FIG
  { base := 0x100014, n1 := 2, s1 := 0x4000, ro := 0x3FFF },  -- CLE_FIGBND
  { base := 0x100018, n1 := 2, s1 := 0x4000, ro := 0xFFFFFFFF },  -- CLE_TEND
  { base := 0x10001C, n1 := 2, s1 := 0x4000, ro := 0xFFFFFFFF },  -- CLE_DUPCNT
  { base := 0x100020, n1 := 2, s1 := 0x4000, w1c := 0xFFFFFFFF, pair := .lo },  -- CLE_NANF_LO
  { base := 0x100024, n1 := 2, s1 := 0x4000, w1c := 0xFFFFFFFF, pair := .hi },  -- CLE_NANF_HI
  { base := 0x100030, n1 := 2, s1 := 0x4000, ro := 0x1FF0FFF },  -- CLE_REGION
  { base := 0x100040, n1 := 2, s1 := 0x4000, ro := 0xFFFF0300, rw := 0x8, wo := 0x7 },  -- CLE_CAPCTL
  { base := 0x100044, n1 := 2, s1 := 0x4000, rw := 0x1FFFF },  -- CLE_CAPADDR
  { base := 0x100048, n1 := 2, s1 := 0x4000, ro := 0xFFFFFFFF },  -- CLE_CAPDATA
  { base := 0x100060, n1 := 2, s1 := 0x4000, rw := 0x131 },  -- CLE_XSRC
  { base := 0x100064, n1 := 2, s1 := 0x4000, rw := 0xFFFFFFFF, pair := .lo },  -- CLE_XTIME_LO
  { base := 0x100068, n1 := 2, s1 := 0x4000, rw := 0xFFFFFFFF, pair := .hi },  -- CLE_XTIME_HI
  { base := 0x10006C, n1 := 2, s1 := 0x4000, ro := 0xFFFFFF0F },  -- CLE_XSTAT
  { base := 0x100070, n1 := 2, s1 := 0x4000, reset := 0x103, rw := 0x103 },  -- CLE_RSVPOL
  { base := 0x100074, n1 := 2, s1 := 0x4000, rw := 0x1 },  -- CLE_GCTL
  { base := 0x100400, n1 := 2, s1 := 0x4000, n2 := 64, s2 := 0x4, ro := 0xFFFFFFFF },  -- CLE_EP
  { base := 0x101000, n1 := 2, s1 := 0x4000, n2 := 16, s2 := 0x4, rw := 0xFFFFFFFF },  -- CLE_SPW
  { base := 0x101800, n1 := 2, s1 := 0x4000, rw := 0xFFFF03FF },  -- CLE_SEQCMD
  { base := 0x101F00, n1 := 2, s1 := 0x4000, wo := 0xFF0001 },  -- CLE_COMMIT
  { base := 0x101F04, n1 := 2, s1 := 0x4000, ro := 0xFFFFFFFF },  -- CLE_CSTAT
  { base := 0x102000, n1 := 2, s1 := 0x4000, st := 0xFFFFFFFF },  -- CLE_SVSEL
  { base := 0x102010, n1 := 2, s1 := 0x4000, n2 := 12, s2 := 0x4, st := 0xFFFFFFFF },  -- CLE_THR
  { base := 0x102040, n1 := 2, s1 := 0x4000, n2 := 12, s2 := 0x4, st := 0xFFFFFFFF },  -- CLE_HYS
  { base := 0x102080, n1 := 2, s1 := 0x4000, reset := 0x8000FFFF, st := 0x8FFFFFFF },  -- CLE_RGN0
  { base := 0x102084, n1 := 2, s1 := 0x4000, n2 := 15, s2 := 0x4, st := 0x8FFFFFFF },  -- CLE_RGN_REST
  { base := 0x102100, n1 := 2, s1 := 0x4000, st := 0xFFFF1F03 },  -- CLE_INJCFG
  { base := 0x102104, n1 := 2, s1 := 0x4000, st := 0xFFFFFFFF },  -- CLE_INJAMAX
  { base := 0x102108, n1 := 2, s1 := 0x4000, reset := 0xD, st := 0xFF1F },  -- CLE_CORRCFG
  { base := 0x102110, n1 := 2, s1 := 0x4000, n2 := 2, s2 := 0x4, reset := 0x7F7F7F7F, st := 0x7F7F7F7F },  -- CLE_CAPSEL
  { base := 0x102118, n1 := 2, s1 := 0x4000, st := 0xFF01 },  -- CLE_CAPCFG
  { base := 0x102200, n1 := 2, s1 := 0x4000, n2 := 32, s2 := 0x4, st := 0xFFFFFFFF },  -- CLE_TONE
  { base := 0x102600, n1 := 2, s1 := 0x4000, n2 := 64, s2 := 0x4, st := 0xFFF },  -- CLE_IPSRC
  { base := 0x102800, n1 := 2, s1 := 0x4000, reset := 0x360C600, st := 0xFFFFFF80 },  -- CLE_PW_RFS
  { base := 0x102804, n1 := 2, s1 := 0x4000, n2 := 47, s2 := 0x4, resets := pwResets.drop 1, st := 0xFFFFFFFF },  -- CLE_PW_LOW
  { base := 0x1028C0, n1 := 2, s1 := 0x4000, reset := 0x10504, st := 0x11F1F }  -- CLE_PW_RT
  ]

/-- Rows of the CLE block (R144, 04_control_law_engine.md). -/
def cleRows1 : List RegRow := [
  { base := 0x1028C4, n1 := 2, s1 := 0x4000, n2 := 207, s2 := 0x4, resets := pwResets.drop 49, st := 0xFFFFFFFF },  -- CLE_PW_HIGH
  { base := 0x108000, n1 := 6, s1 := 0x400, ro := 0xFFF10F },  -- CLE_LSTAT
  { base := 0x109800, n1 := 2, s1 := 0x400, reset := 0x4, ro := 0xFFF10F },  -- CLE_LSTAT_RES
  { base := 0x108004, n1 := 8, s1 := 0x400, ro := 0xFFFFFFFF },  -- CLE_LECC
  { base := 0x108008, n1 := 8, s1 := 0x400, ro := 0xFFFFFFFF, pair := .lo },  -- CLE_LWIN_LO
  { base := 0x10800C, n1 := 8, s1 := 0x400, ro := 0xFFFFFFFF, pair := .hi },  -- CLE_LWIN_HI
  { base := 0x108010, n1 := 8, s1 := 0x400, ro := 0xFFFFFFFF }  -- CLE_LSIG
  ]

/-- All rows of the CLE block. -/
def cleRows : List RegRow := cleRows0 ++ cleRows1

/-- Rows of the SENSE block (R193, 06_sensing_chain.md). -/
def senseRows : List RegRow := [
  { base := 0x120010, n1 := 4, s1 := 0x4, ro := 0xFF1F07 },  -- SENSE_RSVSTAT
  { base := 0x121000, n1 := 28, s1 := 0x40, ro := 0xFE00000F },  -- SENSE_STAT
  { base := 0x121004, n1 := 28, s1 := 0x40, w1c := 0x1FF },  -- SENSE_EVT
  { base := 0x121008, n1 := 28, s1 := 0x40, ro := 0xFFFFFFFF },  -- SENSE_MFREQ
  { base := 0x12100C, n1 := 28, s1 := 0x40, reset := 0x80030, ro := 0xFFFFFFFF },  -- SENSE_DLY
  { base := 0x121010, n1 := 28, s1 := 0x40, ro := 0xFFFFFFFF },  -- SENSE_VAL
  { base := 0x121014, n1 := 28, s1 := 0x40, ro := 0xFFFFFFFF },  -- SENSE_FAST
  { base := 0x121018, n1 := 28, s1 := 0x40, reset := 0x3F800000, ro := 0xFFFFFFFF },  -- SENSE_TGAIN
  { base := 0x12101C, n1 := 28, s1 := 0x40, ro := 0xFFFFFFFF },  -- SENSE_TOFF
  { base := 0x121020, n1 := 28, s1 := 0x40, ro := 0xFFFFFFFF },  -- SENSE_MVCNT
  { base := 0x122000, n1 := 28, s1 := 0x80, st := 0xFC0EFF00 },  -- SENSE_CFG
  { base := 0x122004, n1 := 28, s1 := 0x80, reset := 0x1312D00, st := 0xFFFFFFFF },  -- SENSE_FMOD
  { base := 0x122008, n1 := 28, s1 := 0x80, reset := 0x3F800000, st := 0xFFFFFFFF },  -- SENSE_SCALE
  { base := 0x12200C, n1 := 28, s1 := 0x80, st := 0xFFFFFFFF },  -- SENSE_UOFF
  { base := 0x122010, n1 := 28, s1 := 0x80, n2 := 4, s2 := 0x4, st := 0x7FF7 },  -- SENSE_WCFG
  { base := 0x122020, n1 := 28, s1 := 0x80, n2 := 4, s2 := 0x4, st := 0xFFFFFFFF },  -- SENSE_WLO
  { base := 0x122030, n1 := 28, s1 := 0x80, n2 := 4, s2 := 0x4, st := 0xFFFFFFFF },  -- SENSE_WHI
  { base := 0x122040, n1 := 28, s1 := 0x80, n2 := 2, s2 := 0x4, st := 0xFFFFFF },  -- SENSE_FLEGS
  { base := 0x124000, n1 := 4, s1 := 0x4, reset := 0x1F, st := 0xC000001F },  -- SENSE_RSVMAP
  { base := 0x124010, n1 := 4, s1 := 0x4, reset := 0x3C23D70A, st := 0xFFFFFFFF },  -- SENSE_RSVTOL
  { base := 0x124020, reset := 0x1, st := 0x1 },  -- SENSE_RSVCTL
  { base := 0x127F00, n1 := 2, s1 := 0x8, wo := 0xFF0001 },  -- SENSE_COMMIT
  { base := 0x127F04, n1 := 2, s1 := 0x8, ro := 0xFFFFFFFF }  -- SENSE_CSTAT
  ]

/-- Rows of the AUXADC block (R195, 06_sensing_chain.md). -/
def auxadcRows : List RegRow := [
  { base := 0x130000, ro := 0x800FFFFF },  -- AUXADC_STAT
  { base := 0x130100, n1 := 16, s1 := 0x4, ro := 0xFFFFFFFF },  -- AUXADC_RES
  { base := 0x130140, n1 := 16, s1 := 0x4, ro := 0xFFFFFFFF },  -- AUXADC_TRIM
  { base := 0x132000, n1 := 16, s1 := 0x4, st := 0x8003000F },  -- AUXADC_SEQ
  { base := 0x132100, n1 := 16, s1 := 0x8, reset := 0x3F800000, st := 0xFFFFFFFF },  -- AUXADC_SCALE
  { base := 0x132104, n1 := 16, s1 := 0x8, st := 0xFFFFFFFF },  -- AUXADC_UOFF
  { base := 0x132200, reset := 0x3E8, st := 0xFFFFFFFF },  -- AUXADC_FRPER
  { base := 0x137F00, wo := 0xFF0001 },  -- AUXADC_COMMIT
  { base := 0x137F04, ro := 0xFFFFFFFF }  -- AUXADC_CSTAT
  ]

/-- Rows of the PROT block (R196, 06_sensing_chain.md). -/
def protRows : List RegRow := [
  { base := 0x140000, ro := 0x3FFF3FFF },  -- PROT_STAT
  { base := 0x140040, ro := 0xFFFFFF },  -- PROT_FLEGS
  { base := 0x140044, ro := 0x801F03FF },  -- PROT_FFIRST
  { base := 0x140048, wo := 0x1 },  -- PROT_FREARM
  { base := 0x140100, n1 := 14, s1 := 0x20, ro := 0x3FFFFFFF, pair := .lo },  -- PROT_TS_LO
  { base := 0x140104, n1 := 14, s1 := 0x20, ro := 0xFFFFFFFF, pair := .hi },  -- PROT_TS_HI
  { base := 0x140108, n1 := 14, s1 := 0x20, ro := 0xFFFF, pair := .fr },  -- PROT_TS_FR
  { base := 0x14010C, n1 := 14, s1 := 0x20, ro := 0xFFFFFFFF },  -- PROT_BLKCNT
  { base := 0x140110, n1 := 14, s1 := 0x20, ro := 0x3FFFFFFF, pair := .lo },  -- PROT_HTS_LO
  { base := 0x140114, n1 := 14, s1 := 0x20, ro := 0xFFFFFFFF, pair := .hi },  -- PROT_HTS_HI
  { base := 0x140118, n1 := 14, s1 := 0x20, ro := 0xFFFF, pair := .fr },  -- PROT_HTS_FR
  { base := 0x140400, n1 := 24, s1 := 0x10, ro := 0x3FFFFFFF, pair := .lo },  -- PROT_FTS_LO
  { base := 0x140404, n1 := 24, s1 := 0x10, ro := 0xFFFFFFFF, pair := .hi },  -- PROT_FTS_HI
  { base := 0x140408, n1 := 24, s1 := 0x10, ro := 0xFFFF, pair := .fr },  -- PROT_FTS_FR
  { base := 0x14040C, n1 := 24, s1 := 0x10, ro := 0xC00003FF },  -- PROT_FSRC
  { base := 0x142000, n1 := 14, s1 := 0x10, st := 0xB3000000 },  -- PROT_CFG
  { base := 0x142004, n1 := 14, s1 := 0x10, reset := 0x3FF, st := 0x3FF },  -- PROT_TRIP
  { base := 0x142008, n1 := 14, s1 := 0x10, reset := 0x3FF, st := 0x3FF },  -- PROT_HARD
  { base := 0x14200C, n1 := 14, s1 := 0x10, st := 0xFFFFFF },  -- PROT_LEGS
  { base := 0x142200, n1 := 24, s1 := 0x4, reset := 0x64, st := 0x1FF },  -- PROT_BLANK
  { base := 0x142300, n1 := 2, s1 := 0x4, rw := 0x8000000F },  -- PROT_RSVMAP
  { base := 0x147F00, wo := 0xFF0001 },  -- PROT_COMMIT
  { base := 0x147F04, ro := 0xFFFFFFFF }  -- PROT_CSTAT
  ]

/-- Rows of the PWM block (R223, 07_pwm_and_gates.md). -/
def pwmRows : List RegRow := [
  { base := 0x150000, n1 := 2, s1 := 0x40, ro := 0xE000FFFF },  -- PWM_TBSTAT
  { base := 0x150004, n1 := 2, s1 := 0x40, rw := 0x1 },  -- PWM_TBCTL
  { base := 0x150008, n1 := 2, s1 := 0x40, ro := 0xFFFFFFFF },  -- PWM_USEQ
  { base := 0x15000C, ro := 0x8000FFFF },  -- PWM_DLSTAT
  { base := 0x151000, n1 := 24, s1 := 0x20, rw := 0xFFFFFFFF, pair := .lo },  -- PWM_CMPA
  { base := 0x151004, n1 := 24, s1 := 0x20, rw := 0xFFFFFFFF, pair := .hi },  -- PWM_CMPB
  { base := 0x151008, n1 := 24, s1 := 0x20, ro := 0xFFFFFFFF },  -- PWM_ACMPA
  { base := 0x15100C, n1 := 24, s1 := 0x20, ro := 0xFFFFFFFF },  -- PWM_ACMPB
  { base := 0x151010, n1 := 24, s1 := 0x20, ro := 0xFFFF0007 },  -- PWM_WSTAT
  { base := 0x151014, n1 := 24, s1 := 0x20, ro := 0xFFFFFFFF },  -- PWM_CARRYA
  { base := 0x151018, n1 := 24, s1 := 0x20, ro := 0xFFFFFFFF },  -- PWM_CARRYB
  { base := 0x15101C, n1 := 24, s1 := 0x20, ro := 0xFFFFFFFF },  -- PWM_PSTAT
  { base := 0x151400, n1 := 24, s1 := 0x4, ro := 0xFFFF000F },  -- PWM_LSTAT
  { base := 0x152000, n1 := 2, s1 := 0x40, reset := 0x80000000, st := 0xF0000000 },  -- PWM_TBCFG
  { base := 0x152004, n1 := 2, s1 := 0x40, reset := 0x186A0, st := 0xFFFFFF },  -- PWM_PERIOD
  { base := 0x152008, n1 := 2, s1 := 0x40, reset := 0x10000, st := 0xFFFFFFFF },  -- PWM_PERFR
  { base := 0x15200C, n1 := 2, s1 := 0x40, st := 0x1FFFFFFF },  -- PWM_PHASE
  { base := 0x152010, n1 := 2, s1 := 0x40, st := 0xFFFFFFFF, pair := .lo },  -- PWM_ANCHOR_LO
  { base := 0x152014, n1 := 2, s1 := 0x40, st := 0xFFFFFFFF, pair := .hi },  -- PWM_ANCHOR_HI
  { base := 0x153000, n1 := 24, s1 := 0x10, st := 0xFC000000 },  -- PWM_PCFG
  { base := 0x153004, n1 := 24, s1 := 0x10, reset := 0x6400, st := 0x1FFFF },  -- PWM_DT
  { base := 0x153008, n1 := 24, s1 := 0x10, reset := 0x3200, st := 0xFFFF },  -- PWM_MINPW
  { base := 0x153400, n1 := 24, s1 := 0x4, st := 0xC0001F1F },  -- PWM_LEGCFG
  { base := 0x157F00, n1 := 2, s1 := 0x8, wo := 0xFF0001 },  -- PWM_COMMIT
  { base := 0x157F04, n1 := 2, s1 := 0x8, ro := 0xFFFFFFFF }  -- PWM_CSTAT
  ]

/-- Rows of the GATE block (R225, 07_pwm_and_gates.md). -/
def gateRows : List RegRow := [
  { base := 0x160000, ro := 0xE0000000 },  -- GATE_STAT
  { base := 0x160004, ro := 0xFFFFFF },  -- GATE_LATCH
  { base := 0x160008, wo := 0xFFFFFF },  -- GATE_TRIPCLR
  { base := 0x16000C, ro := 0xFFFFFF },  -- GATE_CLRREF
  { base := 0x160010, ro := 0xFFFFFF },  -- GATE_SOFTOUT
  { base := 0x160018, ro := 0xFFFFFFFF, pair := .lo },  -- GATE_GS_LO
  { base := 0x16001C, ro := 0xFFFFFF, pair := .hi },  -- GATE_GS_HI
  { base := 0x160020, ro := 0xFFFFFFFF, pair := .lo },  -- GATE_GT_LO
  { base := 0x160024, ro := 0xFFFFFF, pair := .hi },  -- GATE_GT_HI
  { base := 0x160040, ro := 0x803F000F },  -- GATE_FFIRST
  { base := 0x160044, wo := 0x1 },  -- GATE_FREARM
  { base := 0x160100, n1 := 56, s1 := 0x10, ro := 0xC00FFFFF },  -- GATE_CHSTAT
  { base := 0x160104, n1 := 56, s1 := 0x10, ro := 0x3FFFFFFF, pair := .lo },  -- GATE_FTS_LO
  { base := 0x160108, n1 := 56, s1 := 0x10, ro := 0xFFFFFFFF, pair := .hi },  -- GATE_FTS_HI
  { base := 0x16010C, n1 := 56, s1 := 0x10, ro := 0xFFFF, pair := .fr },  -- GATE_FTS_FR
  { base := 0x160500, n1 := 56, s1 := 0x4, ro := 0xFFFFFFFF },  -- GATE_GBFLT
  { base := 0x162000, n1 := 56, s1 := 0x4, reset := 0xA000190, st := 0xFF0003FF },  -- GATE_CCFG
  { base := 0x162100, n1 := 24, s1 := 0x4, st := 0x80000003 },  -- GATE_LCFG
  { base := 0x162200, n1 := 8, s1 := 0x4, reset := 0x3F, st := 0x9F00003F },  -- GATE_RSVMAP
  { base := 0x162300, n1 := 2, s1 := 0x4, reset := 0x10004, st := 0x80FF00FF },  -- GATE_GBCFG
  { base := 0x162400, n1 := 2, s1 := 0x80, n2 := 32, s2 := 0x4, st := 0x80001FFF },  -- GATE_GBPOLL
  { base := 0x162600, n1 := 56, s1 := 0x4, st := 0x8000011F },  -- GATE_GADDR
  { base := 0x164000, n1 := 2, s1 := 0x100, n2 := 32, s2 := 0x4, ro := 0xFFFFFFFF },  -- GATE_GBRES
  { base := 0x164200, n1 := 2, s1 := 0x4, ro := 0xFFFFFFFF },  -- GATE_GBSTAT
  { base := 0x167F00, wo := 0xFF0001 },  -- GATE_COMMIT
  { base := 0x167F04, ro := 0xFFFFFFFF }  -- GATE_CSTAT
  ]

/-- Rows of the POS block (R244, 08_generator_feedback.md). -/
def posRows : List RegRow := [
  { base := 0x170000, n1 := 4, s1 := 0x100, ro := 0xFF800003 },  -- POS_STAT
  { base := 0x170004, n1 := 4, s1 := 0x100, w1c := 0xFF },  -- POS_EVT
  { base := 0x170008, n1 := 4, s1 := 0x100, ro := 0xFFFFFFFF },  -- POS_COUNT
  { base := 0x17000C, n1 := 4, s1 := 0x100, ro := 0xFFFFFFFF },  -- POS_TURNS
  { base := 0x170010, n1 := 4, s1 := 0x100, ro := 0xFFFFFFFF },  -- POS_ANGLE
  { base := 0x170014, n1 := 4, s1 := 0x100, ro := 0xFFFFFFFF },  -- POS_SPEED
  { base := 0x170018, n1 := 4, s1 := 0x100, ro := 0xFFFFFFFF },  -- POS_ILLCNT
  { base := 0x17001C, n1 := 4, s1 := 0x100, ro := 0xFFFFFFFF },  -- POS_IDXDEV
  { base := 0x170020, n1 := 4, s1 := 0x100, ro := 0xFFFF00FF },  -- POS_IDXMIS
  { base := 0x170024, n1 := 4, s1 := 0x100, ro := 0xFFFF },  -- POS_DLY
  { base := 0x170028, n1 := 4, s1 := 0x100, ro := 0xFFFFFFFF },  -- POS_AMP
  { base := 0x17002C, n1 := 4, s1 := 0x100, ro := 0xFFFFFFFF },  -- POS_SERRAW
  { base := 0x170030, n1 := 4, s1 := 0x100, rw := 0x1 },  -- POS_CMPCTL
  { base := 0x170034, n1 := 4, s1 := 0x100, ro := 0xFFFF003F },  -- POS_CMPSTAT
  { base := 0x172000, n1 := 4, s1 := 0x40, reset := 0x4CC3005, st := 0xFFEFF03F },  -- POS_CFG
  { base := 0x172004, n1 := 4, s1 := 0x40, st := 0xFFFFFFFF },  -- POS_CPR
  { base := 0x172008, n1 := 4, s1 := 0x40, st := 0xFFFFFFFF },  -- POS_IDXPOS
  { base := 0x17200C, n1 := 4, s1 := 0x40, reset := 0x2000400, st := 0xFFFFFFFF },  -- POS_IDXWIN
  { base := 0x172010, n1 := 4, s1 := 0x40, reset := 0x1, st := 0xFF },  -- POS_PP
  { base := 0x172014, n1 := 4, s1 := 0x40, st := 0xFFFFFFFF },  -- POS_OFFSET
  { base := 0x172018, n1 := 4, s1 := 0x40, reset := 0x42480000, st := 0xFFFFFFFF },  -- POS_OBSBW
  { base := 0x17201C, n1 := 4, s1 := 0x40, reset := 0x3F800000, st := 0xFFFFFFFF },  -- POS_SPDSCALE
  { base := 0x172020, n1 := 4, s1 := 0x40, reset := 0x138D0D, st := 0x3FFBF3F },  -- POS_SER
  { base := 0x172024, n1 := 4, s1 := 0x40, reset := 0x7D001F4, st := 0xFFFFFFFF },  -- POS_SERT
  { base := 0x172028, n1 := 4, s1 := 0x40, reset := 0x1000, st := 0xFFFFFFFF },  -- POS_MAXJUMP
  { base := 0x17202C, n1 := 4, s1 := 0x40, reset := 0xE6664000, st := 0xFFFFFFFF },  -- POS_AMPWIN
  { base := 0x172030, n1 := 4, s1 := 0x40, reset := 0x64, st := 0xB07F03FF },  -- POS_CMPCFG
  { base := 0x172034, n1 := 4, s1 := 0x40, reset := 0x10, st := 0xFFFFFFFF },  -- POS_CMPHYS
  { base := 0x174000, n1 := 4, s1 := 0x100, n2 := 64, s2 := 0x4, rw := 0xFFFFFFFF },  -- POS_LIST
  { base := 0x177F00, wo := 0xFF0001 },  -- POS_COMMIT
  { base := 0x177F04, ro := 0xFFFFFFFF }  -- POS_CSTAT
  ]

/-- Rows of the RAMP block (R246, 08_generator_feedback.md). -/
def rampRows : List RegRow := [
  { base := 0x180000, n1 := 16, s1 := 0x20, rw := 0xFFFFFFFF },  -- RAMP_TGT
  { base := 0x180004, n1 := 16, s1 := 0x20, wo := 0x7 },  -- RAMP_CTL
  { base := 0x180008, n1 := 16, s1 := 0x20, ro := 0xFFFFFFFF },  -- RAMP_OUT
  { base := 0x18000C, n1 := 16, s1 := 0x20, ro := 0xFFFFFFFF },  -- RAMP_VEL
  { base := 0x180010, n1 := 16, s1 := 0x20, reset := 0x40000000, ro := 0xFE000000 },  -- RAMP_STAT
  { base := 0x180400, w1c := 0xFFFFFFFF },  -- RAMP_EVT
  { base := 0x182000, n1 := 16, s1 := 0x20, reset := 0x40000000, st := 0xC0000000 },  -- RAMP_CFG
  { base := 0x182004, n1 := 16, s1 := 0x20, reset := 0x3F800000, st := 0xFFFFFFFF },  -- RAMP_VMAX
  { base := 0x182008, n1 := 16, s1 := 0x20, reset := 0x3F800000, st := 0xFFFFFFFF },  -- RAMP_AMAX
  { base := 0x18200C, n1 := 16, s1 := 0x20, reset := 0x41200000, st := 0xFFFFFFFF },  -- RAMP_JMAX
  { base := 0x187F00, wo := 0xFF0001 },  -- RAMP_COMMIT
  { base := 0x187F04, ro := 0xFFFFFFFF }  -- RAMP_CSTAT
  ]

/-- Rows of the CAP block (R389, 14_disturbance_recorder.md). -/
def capRows : List RegRow := [
  { base := 0x190000, ro := 0xFFFFF },  -- CAP_RATE
  { base := 0x190008, wo := 0x1 },  -- CAP_SWTRIG
  { base := 0x19000C, wo := 0x3 },  -- CAP_CTL
  { base := 0x190010, rw := 0xFFFFFFFF },  -- CAP_RECSEL
  { base := 0x190014, ro := 0xFFFFFFFF },  -- CAP_EMSTAT
  { base := 0x190100, n1 := 8, s1 := 0x40, ro := 0xE0FFFFFF },  -- CAP_USTAT
  { base := 0x190104, n1 := 8, s1 := 0x40, w1c := 0xFFFFFFFF },  -- CAP_UEVT
  { base := 0x190108, n1 := 8, s1 := 0x40, ro := 0xFFFFFFFF },  -- CAP_UMISS
  { base := 0x19010C, n1 := 8, s1 := 0x40, ro := 0xFFFFFFFF },  -- CAP_ULAST
  { base := 0x190400, n1 := 16, s1 := 0x10, ro := 0x8000FFFF },  -- CAP_TSTAT
  { base := 0x190404, n1 := 16, s1 := 0x10, ro := 0x3FFFFFFF, pair := .lo },  -- CAP_TTIME_LO
  { base := 0x190408, n1 := 16, s1 := 0x10, ro := 0xFFFFFFFF, pair := .hi },  -- CAP_TTIME_HI
  { base := 0x19040C, n1 := 16, s1 := 0x10, ro := 0xFFFF, pair := .fr },  -- CAP_TTIME_FR
  { base := 0x192000, n1 := 8, s1 := 0x100, st := 0xE03FFFFF },  -- CAP_UCFG
  { base := 0x192004, n1 := 8, s1 := 0x100, reset := 0x3E8, st := 0xFFFFFFFF },  -- CAP_TSMP
  { base := 0x192008, n1 := 8, s1 := 0x100, reset := 0x3E8, st := 0xFFFFFF },  -- CAP_PRE
  { base := 0x19200C, n1 := 8, s1 := 0x100, reset := 0x2710, st := 0xFFFFFF },  -- CAP_POST
  { base := 0x192010, n1 := 8, s1 := 0x100, reset := 0x2710, st := 0xFFFFFF },  -- CAP_PMAX
  { base := 0x192014, n1 := 8, s1 := 0x100, st := 0x7F00FF },  -- CAP_UBASE
  { base := 0x192018, n1 := 8, s1 := 0x100, st := 0x3F },  -- CAP_REF
  { base := 0x192040, n1 := 8, s1 := 0x100, n2 := 48, s2 := 0x4, st := 0xFFF },  -- CAP_USRC
  { base := 0x193000, n1 := 16, s1 := 0x10, st := 0xF0000FFF },  -- CAP_TCFG
  { base := 0x193004, n1 := 16, s1 := 0x10, st := 0xFFFFFFFF },  -- CAP_TLVL
  { base := 0x193008, n1 := 16, s1 := 0x10, st := 0xFFFFFFFF },  -- CAP_THYS
  { base := 0x197F00, wo := 0xFF0001 },  -- CAP_COMMIT
  { base := 0x197F04, ro := 0xFFFFFFFF }  -- CAP_CSTAT
  ]

/-- Rows of the SAFE block (R410, 15_safety_functions.md). -/
def safeRows : List RegRow := [
  { base := 0x1A0000, ro := 0xFB00FFFF },  -- SAFE_STAT
  { base := 0x1A0004, ro := 0xFFC00000 },  -- SAFE_FAULT
  { base := 0x1A0008, ro := 0x3FF },  -- SAFE_OUT
  { base := 0x1A000C, ro := 0xFFFFFFFF },  -- SAFE_INSTAT
  { base := 0x1A0010, ro := 0xFFFF },  -- SAFE_CFSTAT
  { base := 0x1A0014, ro := 0xFFFFFFFF },  -- SAFE_CFGID
  { base := 0x1A0018, ro := 0xFFFFFFFF },  -- SAFE_CRC1
  { base := 0x1A001C, ro := 0xFFFFFFFF },  -- SAFE_CRC2
  { base := 0x1A0020, ro := 0xFFFFFFFF },  -- SAFE_CMPCNT
  { base := 0x1A0024, ro := 0xFFFFFFFF },  -- SAFE_RTMAX
  { base := 0x1A0040, n1 := 16, s1 := 0x4, ro := 0xE00000FF },  -- SAFE_FNSTAT
  { base := 0x1A0080, n1 := 2, s1 := 0x10, ro := 0xF0000000 },  -- SAFE_AXSTAT
  { base := 0x1A0084, n1 := 2, s1 := 0x10, ro := 0xFFFFFFFF },  -- SAFE_AXM1
  { base := 0x1A0088, n1 := 2, s1 := 0x10, ro := 0xFFFFFFFF }  -- SAFE_AXM2
  ]

/-- Rows of the RING block (R337, 11_ring_and_host.md). -/
def ringRows : List RegRow := [
  { base := 0x200000, ro := 0xF87FF07F },  -- RING_STAT
  { base := 0x200004, w1c := 0x3FF },  -- RING_EVT
  { base := 0x200008, reset := Config.uidLo, ro := 0xFFFFFFFF, pair := .lo },  -- RING_UID_LO
  { base := 0x20000C, reset := Config.uidHi, ro := 0xFFFFFFFF, pair := .hi },  -- RING_UID_HI
  { base := 0x200010, wo := 0x1 },  -- RING_CTL
  { base := 0x200014, wo := 0x1FF },  -- RING_BARCTL
  { base := 0x200018, ro := 0x80FFFFFF },  -- RING_BARSTAT
  { base := 0x200020, rw := 0xFFFFFFFF, pair := .lo },  -- RING_SNAPT_LO
  { base := 0x200024, rw := 0xFFFFFFFF, pair := .hi },  -- RING_SNAPT_HI
  { base := 0x200028, ro := 0xE000FFFF },  -- RING_SNAPSTAT
  { base := 0x200040, ro := 0xFFFFFFFF },  -- RING_STALECNT
  { base := 0x200044, ro := 0xFFFFFFFF },  -- RING_LATECNT
  { base := 0x200048, ro := 0xFFFFFFFF },  -- RING_AGEDROP
  { base := 0x20004C, ro := 0xFFFFFFFF },  -- RING_DUPCNT
  { base := 0x200050, ro := 0xFFFFFFFF },  -- RING_GAPSKIP
  { base := 0x200054, ro := 0xFFFFFFFF },  -- RING_ADDRERR
  { base := 0x200058, ro := 0xFFFFFFFF },  -- RING_FMTERR
  { base := 0x200100, n1 := 2, s1 := 0x40, ro := 0xE7380000 },  -- RING_PSTAT
  { base := 0x200104, n1 := 2, s1 := 0x40, ro := 0xFFFFFF },  -- RING_DLY
  { base := 0x200108, n1 := 2, s1 := 0x40, ro := 0xFFFFFFFF },  -- RING_CRCERR
  { base := 0x20010C, n1 := 2, s1 := 0x40, ro := 0xFFFFFFFF },  -- RING_REPLAY
  { base := 0x200110, n1 := 2, s1 := 0x40, ro := 0xFFFFFFFF },  -- RING_SHERR
  { base := 0x202000, reset := 0xC0000000, st := 0xC0000000 },  -- RING_CFG
  { base := 0x207F00, wo := 0xFF0001 },  -- RING_COMMIT
  { base := 0x207F04, ro := 0xFFFFFFFF }  -- RING_CSTAT
  ]

/-- Rows of the PAIR block (R359, 12_pairs_and_callers.md). -/
def pairRows : List RegRow := [
  { base := 0x210000, ro := 0xFFE0000F },  -- PAIR_STAT
  { base := 0x210004, w1c := 0x7FF },  -- PAIR_EVT
  { base := 0x210008, wo := 0x3 },  -- PAIR_CTL
  { base := 0x21000C, rw := 0xFFFFFFFF, pair := .lo },  -- PAIR_OPENT_LO
  { base := 0x210010, rw := 0xFFFFFFFF, pair := .hi },  -- PAIR_OPENT_HI
  { base := 0x210014, ro := 0xFFFFFFFF },  -- PAIR_OVLP
  { base := 0x210018, ro := 0xFFFFFFFF, pair := .lo },  -- PAIR_LASTCUT_LO
  { base := 0x21001C, ro := 0xFFFFFFFF, pair := .hi },  -- PAIR_LASTCUT_HI
  { base := 0x210020, ro := 0xFFFFFFFF },  -- PAIR_MCNT
  { base := 0x210024, ro := 0xFFFFFFFF },  -- PAIR_MLATE
  { base := 0x210028, ro := 0xFFFFFFFF },  -- PAIR_MDIFF
  { base := 0x21002C, ro := 0xFFFFFFFF },  -- PAIR_MIDERR
  { base := 0x210030, ro := 0xFF00FFFF },  -- PAIR_STSTAT
  { base := 0x210040, n1 := 4, s1 := 0x10, ro := 0x80FFFFFF },  -- PAIR_CALLSTAT
  { base := 0x210044, n1 := 4, s1 := 0x10, wo := 0x1 },  -- PAIR_CALLCTL
  { base := 0x210048, n1 := 4, s1 := 0x10, w1c := 0xFFFFFFFF },  -- PAIR_CALLEVT
  { base := 0x212000, st := 0xF },  -- PAIR_ROLE
  { base := 0x212004, reset := 0xA03, st := 0xC000FF1F },  -- PAIR_CFG
  { base := 0x212010, n1 := 4, s1 := 0x4, reset := 0x80, st := 0xC07F7FFF },  -- PAIR_CALLCFG
  { base := 0x217F00, wo := 0xFF0001 },  -- PAIR_COMMIT
  { base := 0x217F04, ro := 0xFFFFFFFF }  -- PAIR_CSTAT
  ]

/-- Rows of the ETH block (R374, 13_time_and_ethernet.md). -/
def ethRows : List RegRow := [
  { base := 0x220000, n1 := 2, s1 := 0x100, ro := 0xF0000000 },  -- ETH_PSTAT
  { base := 0x220004, n1 := 2, s1 := 0x100, w1c := 0xFFFFFFFF },  -- ETH_PEVT
  { base := 0x220010, n1 := 2, s1 := 0x100, ro := 0xFFFFFFFF },  -- ETH_RXOK
  { base := 0x220014, n1 := 2, s1 := 0x100, ro := 0xFFFFFFFF },  -- ETH_RXCRC
  { base := 0x220018, n1 := 2, s1 := 0x100, ro := 0xFFFFFFFF },  -- ETH_RXDROP
  { base := 0x22001C, n1 := 2, s1 := 0x100, ro := 0xFFFFFFFF },  -- ETH_TXOK
  { base := 0x220020, n1 := 2, s1 := 0x100, ro := 0xFFFFFFFF },  -- ETH_TXLATE
  { base := 0x220024, n1 := 2, s1 := 0x100, ro := 0xFFFFFFFF },  -- ETH_DUPDISC
  { base := 0x220028, n1 := 2, s1 := 0x100, ro := 0xFFFFFFFF },  -- ETH_WRONGLAN
  { base := 0x22002C, n1 := 2, s1 := 0x100, ro := 0xFFFFFFFF },  -- ETH_HSRFWD
  { base := 0x220080, n1 := 2, s1 := 0x100, rw := 0xFFFFFFFF },  -- ETH_LNKDLY
  { base := 0x220200, reset := Config.macLo, ro := 0xFFFFFFFF, pair := .lo },  -- ETH_MAC_LO
  { base := 0x220204, reset := Config.macHi, ro := 0xFFFF, pair := .hi },  -- ETH_MAC_HI
  { base := 0x220208, n1 := 2, s1 := 0x8, rw := 0xFFFFFFFF, pair := .lo },  -- ETH_RXBUF_LO
  { base := 0x22020C, n1 := 2, s1 := 0x8, rw := 0xFF, pair := .hi },  -- ETH_RXBUF_HI
  { base := 0x222000, n1 := 2, s1 := 0x100, reset := 0x20000000, st := 0xFC000000 },  -- ETH_PCFG
  { base := 0x222004, n1 := 2, s1 := 0x100, st := 0xFFFFFFFF },  -- ETH_PDLYTX
  { base := 0x222008, n1 := 2, s1 := 0x100, st := 0xFFFFFFFF },  -- ETH_PDLYRX
  { base := 0x222200, st := 0xC0000000 },  -- ETH_SWCFG
  { base := 0x222204, reset := 0x190, st := 0xFFFFFFFF },  -- ETH_DUPWIN
  { base := 0x227F00, wo := 0xFF0001 },  -- ETH_COMMIT
  { base := 0x227F04, ro := 0xFFFFFFFF }  -- ETH_CSTAT
  ]

/-- Rows of the TIME block (R375, 13_time_and_ethernet.md). -/
def timeRows : List RegRow := [
  { base := 0x230000, ro := 0xFC000000 },  -- TIME_STAT
  { base := 0x230004, w1c := 0x1F },  -- TIME_EVT
  { base := 0x230008, ro := 0xFFFFFFFF },  -- TIME_NOW_NS
  { base := 0x23000C, ro := 0xFFFFFFFF },  -- TIME_NOW_SLO
  { base := 0x230010, ro := 0xFFFFFFFF },  -- TIME_NOW_SHI
  { base := 0x230014, ro := 0xFFFF },  -- TIME_NOW_FR
  { base := 0x230020, rw := 0xFFFFFFFF },  -- TIME_SRVOFS
  { base := 0x230024, ro := 0xFFFFFFFF },  -- TIME_FADJ
  { base := 0x230028, ro := 0xFFFFFFFF },  -- TIME_LTDIFF
  { base := 0x23002C, ro := 0xFFFFFFFF },  -- TIME_SRVCNT
  { base := 0x230030, rw := 0xFFFFFFFF },  -- TIME_UTCOFS
  { base := 0x230034, wo := 0x1 },  -- TIME_CTL
  { base := 0x230038, rw := 0xFFFFFFFF },  -- TIME_STEP_NS
  { base := 0x23003C, rw := 0xFFFFFFFF },  -- TIME_STEP_S
  { base := 0x232000, reset := 0x80000414, st := 0xC000FFFF },  -- TIME_CFG
  { base := 0x232004, reset := 0x3E99999A, st := 0xFFFFFFFF },  -- TIME_KP
  { base := 0x232008, reset := 0x3CF5C28F, st := 0xFFFFFFFF },  -- TIME_KI
  { base := 0x23200C, reset := 0x186A0, st := 0xFFFFFFFF },  -- TIME_FMAX
  { base := 0x232010, reset := 0x64, st := 0xFFFFFFFF },  -- TIME_LOCKTHR
  { base := 0x232014, reset := 0x3E8, st := 0xFFFFFFFF },  -- TIME_TSNAP
  { base := 0x237F00, wo := 0xFF0001 },  -- TIME_COMMIT
  { base := 0x237F04, ro := 0xFFFFFFFF }  -- TIME_CSTAT
  ]

/-- Rows of the GPIO block (R43, 01_islands_and_sample.md). -/
def gpioRows : List RegRow := [
  { base := 0x240000, ro := 0xFFFFFFFF },  -- GPIO_IN
  { base := 0x240004, rw := 0xFFFFFFFF },  -- GPIO_OUT
  { base := 0x240008, w1s := 0xFFFFFFFF },  -- GPIO_OUTSET
  { base := 0x24000C, w1c := 0xFFFFFFFF },  -- GPIO_OUTCLR
  { base := 0x240010, w1c := 0xFFFFFFFF },  -- GPIO_EVT
  { base := 0x240014, ro := 0xFFFFFFFF },  -- GPIO_OWN
  { base := 0x240018, w1c := 0xFFFFFFFF },  -- GPIO_REF
  { base := 0x242000, n1 := 32, s1 := 0x4, st := 0xFE0000FF },  -- GPIO_CFG
  { base := 0x247F00, wo := 0xFF0001 },  -- GPIO_COMMIT
  { base := 0x247F04, ro := 0xFFFFFFFF }  -- GPIO_CSTAT
  ]

/-- The rows of the block whose registers lie in the 64 KiB at `off` (Table 1.12). Where
Table 1.12 counts other numbers than the register tables hold (SYS, GPIO, CLK, HOST and more), the rows are those of the
register tables (DESIGN CHOICE, log entry 60). -/
def blockRows (off : Nat) : List RegRow :=
  match off / 0x10000 with
  | 0x0 => sysRows
  | 0x1 => clkRows
  | 0x2 => pwrRows
  | 0x3 => monRows
  | 0x4 => spareRows
  | 0x5 => secRows
  | 0x6 => nvmRows
  | 0x8 => hostRows
  | 0x9 => queRows
  | 0xA => dmaRows
  | 0xB => mmuRows
  | 0xC => cycRows
  | 0x10 => cleRows
  | 0x12 => senseRows
  | 0x13 => auxadcRows
  | 0x14 => protRows
  | 0x15 => pwmRows
  | 0x16 => gateRows
  | 0x17 => posRows
  | 0x18 => rampRows
  | 0x19 => capRows
  | 0x1A => safeRows
  | 0x20 => ringRows
  | 0x21 => pairRows
  | 0x22 => ethRows
  | 0x23 => timeRows
  | 0x24 => gpioRows
  | _ => []

/-- The row that holds the register at `off`, a committed register's or a plain register's own offset. -/
def rowAt (off : Nat) : Option RegRow := (blockRows off).find? (·.has off)

/-- The offset whose staged copy `off` is the alias of: `off` lies in the upper 32 KiB of its block, and an ST
register stands 0x8000 below it (R24, R36). -/
def aliasOf (off : Nat) : Option Nat :=
  if off % 0x10000 < 0x8000 then none
  else match rowAt (off - 0x8000) with
    | some r => if r.st = 0 then none else some (off - 0x8000)
    | none => none

/-- The reset value of the word stored for offset `off`: the register's own, or for a staged copy its committed
register's (R24). -/
def regReset (off : Nat) : Word :=
  match rowAt off with
  | some r => r.resetAt off
  | none => match rowAt (off - 0x8000) with
    | some r => r.resetAt (off - 0x8000)
    | none => 0

/-- The offset of the staged copy of the ST register at `off` (R24). -/
def stagedOff (off : Nat) : Nat := off + 0x8000

/-! Names of the registers' offsets, as the spec's tables name them. -/

namespace Reg
def SYS_ID : Nat := 0x0
def SYS_STATUS : Nat := 0x4
def SYS_SWRST : Nat := 0x8
def SYS_DECERR : Nat := 0x10
def SYS_DECERR_ADDR_LO : Nat := 0x14
def SYS_DECERR_ADDR_HI : Nat := 0x18
def SYS_JCOMMIT : Nat := 0x40
def SYS_JCSTAT : Nat := 0x44
def SYS_SAFEREQ : Nat := 0x80
def SYS_SAFEREQ_1 : Nat := 0x84
def SYS_OCC (i : Nat) : Nat := 0x100 + 0x4 * i
def SYS_POOL : Nat := 0x124
def CLK_STAT : Nat := 0x10000
def CLK_EVT : Nat := 0x10004
def CLK_MOVECNT : Nat := 0x10008
def CLK_GUARDCNT : Nat := 0x1000C
def CLK_SLOW : Nat := 0x10010
def CLK_BANDCTL : Nat := 0x10014
def CLK_BANDMEAS : Nat := 0x10018
def CLK_ISLCNT (i : Nat) : Nat := 0x10100 + 0x4 * i
def CLK_BAND (p : Nat) (b : Nat) : Nat := 0x10400 + 0x100 * p + 0x4 * b
def CLK_PLLCFG (p : Nat) : Nat := 0x12000 + 0x10 * p
def CLK_PLLF (p : Nat) : Nat := 0x12004 + 0x10 * p
def CLK_CKOCFG (k : Nat) : Nat := 0x12100 + 0x10 * k
def CLK_CKOPER (k : Nat) : Nat := 0x12104 + 0x10 * k
def CLK_CKOFR (k : Nat) : Nat := 0x12108 + 0x10 * k
def CLK_COMMIT : Nat := 0x17F00
def CLK_CSTAT : Nat := 0x17F04
def PWR_STAT : Nat := 0x20000
def PWR_RSTCAUSE : Nat := 0x20004
def PWR_SAGCNT : Nat := 0x20008
def PWR_VAULT : Nat := 0x20010
def PWR_VCFG : Nat := 0x20014
def PWR_RTC_SLO : Nat := 0x20018
def PWR_RTC_SHI : Nat := 0x2001C
def PWR_RTC_NS : Nat := 0x20020
def PWR_DOMCTL : Nat := 0x22000
def PWR_COMMIT : Nat := 0x27F00
def PWR_CSTAT : Nat := 0x27F04
def MON_STAT : Nat := 0x30000
def MON_EVT : Nat := 0x30004
def MON_TEMP (i : Nat) : Nat := 0x30100 + 0x4 * i
def MON_TMAX (i : Nat) : Nat := 0x30140 + 0x4 * i
def MON_VOLT (j : Nat) : Nat := 0x30200 + 0x4 * j
def MON_VMIN (j : Nat) : Nat := 0x30280 + 0x4 * j
def MON_VMAX (j : Nat) : Nat := 0x30300 + 0x4 * j
def MON_PMFREQ (m : Nat) : Nat := 0x30400 + 0x4 * m
def MON_TWARN : Nat := 0x32000
def MON_COMMIT : Nat := 0x37F00
def MON_CSTAT : Nat := 0x37F04
def SPARE_HEALTH : Nat := 0x40000
def SPARE_EVT : Nat := 0x40004
def SPARE_LAST : Nat := 0x40008
def SPARE_PMDRIFT (m : Nat) : Nat := 0x40040 + 0x4 * m
def SPARE_PMLIFE (m : Nat) : Nat := 0x40080 + 0x4 * m
def SPARE_CFG : Nat := 0x42000
def SPARE_DRIFT : Nat := 0x42004
def SPARE_ECCTHR : Nat := 0x42008
def SPARE_COMMIT : Nat := 0x47F00
def SPARE_CSTAT : Nat := 0x47F04
def SEC_STAT : Nat := 0x50000
def SEC_EVT : Nat := 0x50004
def SEC_ENROLL : Nat := 0x50008
def SEC_DBGNONCE_LO : Nat := 0x50010
def SEC_DBGNONCE_HI : Nat := 0x50014
def SEC_DBGCTL : Nat := 0x50018
def SEC_DBGADDR_LO : Nat := 0x5001C
def SEC_DBGADDR_HI : Nat := 0x50020
def SEC_MEAS (i : Nat) : Nat := 0x50040 + 0x4 * i
def SEC_MEASCNT : Nat := 0x50080
def NVM_STAT : Nat := 0x60000
def NVM_EVT : Nat := 0x60004
def NVM_WPADDR_LO : Nat := 0x60008
def NVM_WPADDR_HI : Nat := 0x6000C
def NVM_WEARMAX : Nat := 0x60010
def NVM_WEARADDR : Nat := 0x60014
def NVM_XCMD : Nat := 0x60100
def NVM_XADDR : Nat := 0x60104
def NVM_XSTAT : Nat := 0x60108
def NVM_XDATA (k : Nat) : Nat := 0x60200 + 0x4 * k
def NVM_WPROT : Nat := 0x62000
def NVM_XCFG : Nat := 0x62004
def NVM_COMMIT : Nat := 0x67F00
def NVM_CSTAT : Nat := 0x67F04
def HOST_STATUS_LO : Nat := 0x80000
def HOST_STATUS_HI : Nat := 0x80004
def HOST_FLAGCLR : Nat := 0x80008
def HOST_ERR : Nat := 0x8000C
def HOST_ERRADDR_LO : Nat := 0x80010
def HOST_ERRADDR_HI : Nat := 0x80014
def HOST_SUMMARY_LO : Nat := 0x80018
def HOST_SUMMARY_HI : Nat := 0x8001C
def HOST_LINK : Nat := 0x80020
def OP_CMD (s : Nat) : Nat := 0x80100 + 0x40 * s
def OP_CTL (s : Nat) : Nat := 0x80104 + 0x40 * s
def OP_ARG (s : Nat) (i : Nat) : Nat := 0x80108 + 0x40 * s + 0x4 * i
def OP_RBUF_LO (s : Nat) : Nat := 0x80118 + 0x40 * s
def OP_RBUF_HI (s : Nat) : Nat := 0x8011C + 0x40 * s
def OP_RLEN (s : Nat) : Nat := 0x80120 + 0x40 * s
def OP_STATUS_LO (s : Nat) : Nat := 0x80124 + 0x40 * s
def OP_STATUS_HI (s : Nat) : Nat := 0x80128 + 0x40 * s
def QUE_BASE_LO (q : Nat) : Nat := 0x90000 + 0x20 * q
def QUE_BASE_HI (q : Nat) : Nat := 0x90004 + 0x20 * q
def QUE_CFG (q : Nat) : Nat := 0x90008 + 0x20 * q
def QUE_PIDX (q : Nat) : Nat := 0x9000C + 0x20 * q
def QUE_CIDX (q : Nat) : Nat := 0x90010 + 0x20 * q
def DMA_CTL (c : Nat) : Nat := 0xA0000 + 0x40 * c
def DMA_STAT (c : Nat) : Nat := 0xA0004 + 0x40 * c
def DMA_CFG (c : Nat) : Nat := 0xA0008 + 0x40 * c
def DMA_TTB_LO (c : Nat) : Nat := 0xA000C + 0x40 * c
def DMA_TTB_HI (c : Nat) : Nat := 0xA0010 + 0x40 * c
def DMA_CSRC_LO (c : Nat) : Nat := 0xA0014 + 0x40 * c
def DMA_CSRC_HI (c : Nat) : Nat := 0xA0018 + 0x40 * c
def DMA_CDST_LO (c : Nat) : Nat := 0xA001C + 0x40 * c
def DMA_CDST_HI (c : Nat) : Nat := 0xA0020 + 0x40 * c
def DMA_CREM (c : Nat) : Nat := 0xA0024 + 0x40 * c
def DMA_FVA (c : Nat) : Nat := 0xA0028 + 0x40 * c
def DMA_FINFO (c : Nat) : Nat := 0xA002C + 0x40 * c
def DMA_NDONE (c : Nat) : Nat := 0xA0030 + 0x40 * c
def DMA_NFAULT (c : Nat) : Nat := 0xA0034 + 0x40 * c
def DMA_NBEAT (c : Nat) : Nat := 0xA0038 + 0x40 * c
def DMA_NPRE (c : Nat) : Nat := 0xA003C + 0x40 * c
def MMU_CTX_LO (k : Nat) : Nat := 0xB0000 + 0x20 * k
def MMU_CTX_HI (k : Nat) : Nat := 0xB0004 + 0x20 * k
def MMU_TTB1_LO (k : Nat) : Nat := 0xB0008 + 0x20 * k
def MMU_TTB1_HI (k : Nat) : Nat := 0xB000C + 0x20 * k
def MMU_FVA (k : Nat) : Nat := 0xB0010 + 0x20 * k
def MMU_FINFO (k : Nat) : Nat := 0xB0014 + 0x20 * k
def MMU_TLBHIT (k : Nat) : Nat := 0xB0018 + 0x20 * k
def MMU_TLBMISS (k : Nat) : Nat := 0xB001C + 0x20 * k
def MMU_SLOTMAP : Nat := 0xB0100
def MMU_IOCTL : Nat := 0xB0104
def MMU_IOSTAT : Nat := 0xB0108
def MMU_IOHIT : Nat := 0xB010C
def MMU_IOMISS : Nat := 0xB0110
def MMU_SHOOT : Nat := 0xB0114
def MMU_WALKERR : Nat := 0xB0118
def MMU_IOFVA : Nat := 0xB011C
def MMU_SECE : Nat := 0xB0120
def MMU_SEUE : Nat := 0xB0124
def MMU_SEADDR_LO : Nat := 0xB0128
def MMU_SEADDR_HI : Nat := 0xB012C
def MMU_MECE : Nat := 0xB0130
def MMU_MEUE : Nat := 0xB0134
def MMU_MEADDR_LO : Nat := 0xB0138
def MMU_MEADDR_HI : Nat := 0xB013C
def MMU_SROWS : Nat := 0xB0140
def MMU_MROWS : Nat := 0xB0144
def MMU_SCRUBCFG : Nat := 0xB0148
def MMU_SCRUBSTAT : Nat := 0xB014C
def MMU_SPTHR : Nat := 0xB0150
def MMU_LSCNT : Nat := 0xB0154
def MMU_SWAPCNT : Nat := 0xB0158
def MMU_DBLFLT : Nat := 0xB015C
def CYC_STAT : Nat := 0xC0000
def CYC_EVT : Nat := 0xC0004
def CYC_CTL : Nat := 0xC0008
def CYC_IMGID : Nat := 0xC000C
def CYC_CHGSTAT : Nat := 0xC0010
def CYC_PAUSE : Nat := 0xC0014
def CYC_DIRTY : Nat := 0xC0018
def CYC_STALLS : Nat := 0xC001C
def CYC_PFSTAT : Nat := 0xC0020
def CYC_PFTIME_LO : Nat := 0xC0024
def CYC_PFTIME_HI : Nat := 0xC0028
def CYC_SNAPSEQ : Nat := 0xC002C
def CYC_TSTAT (t : Nat) : Nat := 0xC0100 + 0x10 * t
def CYC_TCYC (t : Nat) : Nat := 0xC0104 + 0x10 * t
def CYC_TLAST (t : Nat) : Nat := 0xC0108 + 0x10 * t
def CYC_TMAX (t : Nat) : Nat := 0xC010C + 0x10 * t
def CYC_RMSTAT (m : Nat) : Nat := 0xC0400 + 0x4 * m
def CYC_WDCFG : Nat := 0xC2000
def CYC_RIOCFG : Nat := 0xC2004
def CYC_COMMIT : Nat := 0xC7F00
def CYC_CSTAT : Nat := 0xC7F04
def CLE_GSTAT (g : Nat) : Nat := 0x100000 + 0x4000 * g
def CLE_GEVT (g : Nat) : Nat := 0x100004 + 0x4000 * g
def CLE_SCNT_LO (g : Nat) : Nat := 0x100008 + 0x4000 * g
def CLE_SCNT_HI (g : Nat) : Nat := 0x10000C + 0x4000 * g
def CLE_FIG (g : Nat) : Nat := 0x100010 + 0x4000 * g
def CLE_FIGBND (g : Nat) : Nat := 0x100014 + 0x4000 * g
def CLE_TEND (g : Nat) : Nat := 0x100018 + 0x4000 * g
def CLE_DUPCNT (g : Nat) : Nat := 0x10001C + 0x4000 * g
def CLE_NANF_LO (g : Nat) : Nat := 0x100020 + 0x4000 * g
def CLE_NANF_HI (g : Nat) : Nat := 0x100024 + 0x4000 * g
def CLE_REGION (g : Nat) : Nat := 0x100030 + 0x4000 * g
def CLE_CAPCTL (g : Nat) : Nat := 0x100040 + 0x4000 * g
def CLE_CAPADDR (g : Nat) : Nat := 0x100044 + 0x4000 * g
def CLE_CAPDATA (g : Nat) : Nat := 0x100048 + 0x4000 * g
def CLE_XSRC (g : Nat) : Nat := 0x100060 + 0x4000 * g
def CLE_XTIME_LO (g : Nat) : Nat := 0x100064 + 0x4000 * g
def CLE_XTIME_HI (g : Nat) : Nat := 0x100068 + 0x4000 * g
def CLE_XSTAT (g : Nat) : Nat := 0x10006C + 0x4000 * g
def CLE_RSVPOL (g : Nat) : Nat := 0x100070 + 0x4000 * g
def CLE_GCTL (g : Nat) : Nat := 0x100074 + 0x4000 * g
def CLE_EP (g : Nat) (k : Nat) : Nat := 0x100400 + 0x4000 * g + 0x4 * k
def CLE_SPW (g : Nat) (k : Nat) : Nat := 0x101000 + 0x4000 * g + 0x4 * k
def CLE_SEQCMD (g : Nat) : Nat := 0x101800 + 0x4000 * g
def CLE_COMMIT (g : Nat) : Nat := 0x101F00 + 0x4000 * g
def CLE_CSTAT (g : Nat) : Nat := 0x101F04 + 0x4000 * g
def CLE_SVSEL (g : Nat) : Nat := 0x102000 + 0x4000 * g
def CLE_THR (g : Nat) (j : Nat) : Nat := 0x102010 + 0x4000 * g + 0x4 * j
def CLE_HYS (g : Nat) (j : Nat) : Nat := 0x102040 + 0x4000 * g + 0x4 * j
def CLE_INJCFG (g : Nat) : Nat := 0x102100 + 0x4000 * g
def CLE_INJAMAX (g : Nat) : Nat := 0x102104 + 0x4000 * g
def CLE_CORRCFG (g : Nat) : Nat := 0x102108 + 0x4000 * g
def CLE_CAPSEL (g : Nat) (i : Nat) : Nat := 0x102110 + 0x4000 * g + 0x4 * i
def CLE_CAPCFG (g : Nat) : Nat := 0x102118 + 0x4000 * g
def CLE_TONE (g : Nat) (k : Nat) : Nat := 0x102200 + 0x4000 * g + 0x4 * k
def CLE_IPSRC (g : Nat) (k : Nat) : Nat := 0x102600 + 0x4000 * g + 0x4 * k
def CLE_LSTAT (n : Nat) : Nat := 0x108000 + 0x400 * n
def CLE_LECC (n : Nat) : Nat := 0x108004 + 0x400 * n
def CLE_LWIN_LO (n : Nat) : Nat := 0x108008 + 0x400 * n
def CLE_LWIN_HI (n : Nat) : Nat := 0x10800C + 0x400 * n
def CLE_LSIG (n : Nat) : Nat := 0x108010 + 0x400 * n
def SENSE_RSVSTAT (r : Nat) : Nat := 0x120010 + 0x4 * r
def SENSE_STAT (n : Nat) : Nat := 0x121000 + 0x40 * n
def SENSE_EVT (n : Nat) : Nat := 0x121004 + 0x40 * n
def SENSE_MFREQ (n : Nat) : Nat := 0x121008 + 0x40 * n
def SENSE_DLY (n : Nat) : Nat := 0x12100C + 0x40 * n
def SENSE_VAL (n : Nat) : Nat := 0x121010 + 0x40 * n
def SENSE_FAST (n : Nat) : Nat := 0x121014 + 0x40 * n
def SENSE_TGAIN (n : Nat) : Nat := 0x121018 + 0x40 * n
def SENSE_TOFF (n : Nat) : Nat := 0x12101C + 0x40 * n
def SENSE_MVCNT (n : Nat) : Nat := 0x121020 + 0x40 * n
def SENSE_CFG (n : Nat) : Nat := 0x122000 + 0x80 * n
def SENSE_FMOD (n : Nat) : Nat := 0x122004 + 0x80 * n
def SENSE_SCALE (n : Nat) : Nat := 0x122008 + 0x80 * n
def SENSE_UOFF (n : Nat) : Nat := 0x12200C + 0x80 * n
def SENSE_WCFG (n : Nat) (w : Nat) : Nat := 0x122010 + 0x80 * n + 0x4 * w
def SENSE_WLO (n : Nat) (w : Nat) : Nat := 0x122020 + 0x80 * n + 0x4 * w
def SENSE_WHI (n : Nat) (w : Nat) : Nat := 0x122030 + 0x80 * n + 0x4 * w
def SENSE_FLEGS (n : Nat) (w : Nat) : Nat := 0x122040 + 0x80 * n + 0x4 * w
def SENSE_RSVMAP (r : Nat) : Nat := 0x124000 + 0x4 * r
def SENSE_RSVTOL (r : Nat) : Nat := 0x124010 + 0x4 * r
def SENSE_RSVCTL : Nat := 0x124020
def SENSE_COMMIT (g : Nat) : Nat := 0x127F00 + 0x8 * g
def SENSE_CSTAT (g : Nat) : Nat := 0x127F04 + 0x8 * g
def AUXADC_STAT : Nat := 0x130000
def AUXADC_RES (i : Nat) : Nat := 0x130100 + 0x4 * i
def AUXADC_TRIM (i : Nat) : Nat := 0x130140 + 0x4 * i
def AUXADC_SEQ (k : Nat) : Nat := 0x132000 + 0x4 * k
def AUXADC_SCALE (i : Nat) : Nat := 0x132100 + 0x8 * i
def AUXADC_UOFF (i : Nat) : Nat := 0x132104 + 0x8 * i
def AUXADC_FRPER : Nat := 0x132200
def AUXADC_COMMIT : Nat := 0x137F00
def AUXADC_CSTAT : Nat := 0x137F04
def PROT_STAT : Nat := 0x140000
def PROT_FLEGS : Nat := 0x140040
def PROT_FFIRST : Nat := 0x140044
def PROT_FREARM : Nat := 0x140048
def PROT_TS_LO (k : Nat) : Nat := 0x140100 + 0x20 * k
def PROT_TS_HI (k : Nat) : Nat := 0x140104 + 0x20 * k
def PROT_TS_FR (k : Nat) : Nat := 0x140108 + 0x20 * k
def PROT_BLKCNT (k : Nat) : Nat := 0x14010C + 0x20 * k
def PROT_HTS_LO (k : Nat) : Nat := 0x140110 + 0x20 * k
def PROT_HTS_HI (k : Nat) : Nat := 0x140114 + 0x20 * k
def PROT_HTS_FR (k : Nat) : Nat := 0x140118 + 0x20 * k
def PROT_FTS_LO (l : Nat) : Nat := 0x140400 + 0x10 * l
def PROT_FTS_HI (l : Nat) : Nat := 0x140404 + 0x10 * l
def PROT_FTS_FR (l : Nat) : Nat := 0x140408 + 0x10 * l
def PROT_FSRC (l : Nat) : Nat := 0x14040C + 0x10 * l
def PROT_CFG (k : Nat) : Nat := 0x142000 + 0x10 * k
def PROT_TRIP (k : Nat) : Nat := 0x142004 + 0x10 * k
def PROT_HARD (k : Nat) : Nat := 0x142008 + 0x10 * k
def PROT_LEGS (k : Nat) : Nat := 0x14200C + 0x10 * k
def PROT_BLANK (l : Nat) : Nat := 0x142200 + 0x4 * l
def PROT_RSVMAP (r : Nat) : Nat := 0x142300 + 0x4 * r
def PROT_COMMIT : Nat := 0x147F00
def PROT_CSTAT : Nat := 0x147F04
def PWM_TBSTAT (g : Nat) : Nat := 0x150000 + 0x40 * g
def PWM_TBCTL (g : Nat) : Nat := 0x150004 + 0x40 * g
def PWM_USEQ (g : Nat) : Nat := 0x150008 + 0x40 * g
def PWM_DLSTAT : Nat := 0x15000C
def PWM_CMPA (p : Nat) : Nat := 0x151000 + 0x20 * p
def PWM_CMPB (p : Nat) : Nat := 0x151004 + 0x20 * p
def PWM_ACMPA (p : Nat) : Nat := 0x151008 + 0x20 * p
def PWM_ACMPB (p : Nat) : Nat := 0x15100C + 0x20 * p
def PWM_WSTAT (p : Nat) : Nat := 0x151010 + 0x20 * p
def PWM_CARRYA (p : Nat) : Nat := 0x151014 + 0x20 * p
def PWM_CARRYB (p : Nat) : Nat := 0x151018 + 0x20 * p
def PWM_PSTAT (p : Nat) : Nat := 0x15101C + 0x20 * p
def PWM_LSTAT (l : Nat) : Nat := 0x151400 + 0x4 * l
def PWM_TBCFG (g : Nat) : Nat := 0x152000 + 0x40 * g
def PWM_PERIOD (g : Nat) : Nat := 0x152004 + 0x40 * g
def PWM_PERFR (g : Nat) : Nat := 0x152008 + 0x40 * g
def PWM_PHASE (g : Nat) : Nat := 0x15200C + 0x40 * g
def PWM_ANCHOR_LO (g : Nat) : Nat := 0x152010 + 0x40 * g
def PWM_ANCHOR_HI (g : Nat) : Nat := 0x152014 + 0x40 * g
def PWM_PCFG (p : Nat) : Nat := 0x153000 + 0x10 * p
def PWM_DT (p : Nat) : Nat := 0x153004 + 0x10 * p
def PWM_MINPW (p : Nat) : Nat := 0x153008 + 0x10 * p
def PWM_LEGCFG (l : Nat) : Nat := 0x153400 + 0x4 * l
def PWM_COMMIT (g : Nat) : Nat := 0x157F00 + 0x8 * g
def PWM_CSTAT (g : Nat) : Nat := 0x157F04 + 0x8 * g
def GATE_STAT : Nat := 0x160000
def GATE_LATCH : Nat := 0x160004
def GATE_TRIPCLR : Nat := 0x160008
def GATE_CLRREF : Nat := 0x16000C
def GATE_SOFTOUT : Nat := 0x160010
def GATE_GS_LO : Nat := 0x160018
def GATE_GS_HI : Nat := 0x16001C
def GATE_GT_LO : Nat := 0x160020
def GATE_GT_HI : Nat := 0x160024
def GATE_FFIRST : Nat := 0x160040
def GATE_FREARM : Nat := 0x160044
def GATE_CHSTAT (c : Nat) : Nat := 0x160100 + 0x10 * c
def GATE_FTS_LO (c : Nat) : Nat := 0x160104 + 0x10 * c
def GATE_FTS_HI (c : Nat) : Nat := 0x160108 + 0x10 * c
def GATE_FTS_FR (c : Nat) : Nat := 0x16010C + 0x10 * c
def GATE_GBFLT (c : Nat) : Nat := 0x160500 + 0x4 * c
def GATE_CCFG (c : Nat) : Nat := 0x162000 + 0x4 * c
def GATE_LCFG (l : Nat) : Nat := 0x162100 + 0x4 * l
def GATE_RSVMAP (r : Nat) : Nat := 0x162200 + 0x4 * r
def GATE_GBCFG (n : Nat) : Nat := 0x162300 + 0x4 * n
def GATE_GBPOLL (n : Nat) (k : Nat) : Nat := 0x162400 + 0x80 * n + 0x4 * k
def GATE_GADDR (c : Nat) : Nat := 0x162600 + 0x4 * c
def GATE_GBRES (n : Nat) (k : Nat) : Nat := 0x164000 + 0x100 * n + 0x4 * k
def GATE_GBSTAT (n : Nat) : Nat := 0x164200 + 0x4 * n
def GATE_COMMIT : Nat := 0x167F00
def GATE_CSTAT : Nat := 0x167F04
def POS_STAT (n : Nat) : Nat := 0x170000 + 0x100 * n
def POS_EVT (n : Nat) : Nat := 0x170004 + 0x100 * n
def POS_COUNT (n : Nat) : Nat := 0x170008 + 0x100 * n
def POS_TURNS (n : Nat) : Nat := 0x17000C + 0x100 * n
def POS_ANGLE (n : Nat) : Nat := 0x170010 + 0x100 * n
def POS_SPEED (n : Nat) : Nat := 0x170014 + 0x100 * n
def POS_ILLCNT (n : Nat) : Nat := 0x170018 + 0x100 * n
def POS_IDXDEV (n : Nat) : Nat := 0x17001C + 0x100 * n
def POS_IDXMIS (n : Nat) : Nat := 0x170020 + 0x100 * n
def POS_DLY (n : Nat) : Nat := 0x170024 + 0x100 * n
def POS_AMP (n : Nat) : Nat := 0x170028 + 0x100 * n
def POS_SERRAW (n : Nat) : Nat := 0x17002C + 0x100 * n
def POS_CMPCTL (n : Nat) : Nat := 0x170030 + 0x100 * n
def POS_CMPSTAT (n : Nat) : Nat := 0x170034 + 0x100 * n
def POS_CFG (n : Nat) : Nat := 0x172000 + 0x40 * n
def POS_CPR (n : Nat) : Nat := 0x172004 + 0x40 * n
def POS_IDXPOS (n : Nat) : Nat := 0x172008 + 0x40 * n
def POS_IDXWIN (n : Nat) : Nat := 0x17200C + 0x40 * n
def POS_PP (n : Nat) : Nat := 0x172010 + 0x40 * n
def POS_OFFSET (n : Nat) : Nat := 0x172014 + 0x40 * n
def POS_OBSBW (n : Nat) : Nat := 0x172018 + 0x40 * n
def POS_SPDSCALE (n : Nat) : Nat := 0x17201C + 0x40 * n
def POS_SER (n : Nat) : Nat := 0x172020 + 0x40 * n
def POS_SERT (n : Nat) : Nat := 0x172024 + 0x40 * n
def POS_MAXJUMP (n : Nat) : Nat := 0x172028 + 0x40 * n
def POS_AMPWIN (n : Nat) : Nat := 0x17202C + 0x40 * n
def POS_CMPCFG (n : Nat) : Nat := 0x172030 + 0x40 * n
def POS_CMPHYS (n : Nat) : Nat := 0x172034 + 0x40 * n
def POS_LIST (n : Nat) (k : Nat) : Nat := 0x174000 + 0x100 * n + 0x4 * k
def POS_COMMIT : Nat := 0x177F00
def POS_CSTAT : Nat := 0x177F04
def RAMP_TGT (c : Nat) : Nat := 0x180000 + 0x20 * c
def RAMP_CTL (c : Nat) : Nat := 0x180004 + 0x20 * c
def RAMP_OUT (c : Nat) : Nat := 0x180008 + 0x20 * c
def RAMP_VEL (c : Nat) : Nat := 0x18000C + 0x20 * c
def RAMP_STAT (c : Nat) : Nat := 0x180010 + 0x20 * c
def RAMP_EVT : Nat := 0x180400
def RAMP_CFG (c : Nat) : Nat := 0x182000 + 0x20 * c
def RAMP_VMAX (c : Nat) : Nat := 0x182004 + 0x20 * c
def RAMP_AMAX (c : Nat) : Nat := 0x182008 + 0x20 * c
def RAMP_JMAX (c : Nat) : Nat := 0x18200C + 0x20 * c
def RAMP_COMMIT : Nat := 0x187F00
def RAMP_CSTAT : Nat := 0x187F04
def CAP_RATE : Nat := 0x190000
def CAP_SWTRIG : Nat := 0x190008
def CAP_CTL : Nat := 0x19000C
def CAP_RECSEL : Nat := 0x190010
def CAP_EMSTAT : Nat := 0x190014
def CAP_USTAT (u : Nat) : Nat := 0x190100 + 0x40 * u
def CAP_UEVT (u : Nat) : Nat := 0x190104 + 0x40 * u
def CAP_UMISS (u : Nat) : Nat := 0x190108 + 0x40 * u
def CAP_ULAST (u : Nat) : Nat := 0x19010C + 0x40 * u
def CAP_TSTAT (t : Nat) : Nat := 0x190400 + 0x10 * t
def CAP_TTIME_LO (t : Nat) : Nat := 0x190404 + 0x10 * t
def CAP_TTIME_HI (t : Nat) : Nat := 0x190408 + 0x10 * t
def CAP_TTIME_FR (t : Nat) : Nat := 0x19040C + 0x10 * t
def CAP_UCFG (u : Nat) : Nat := 0x192000 + 0x100 * u
def CAP_TSMP (u : Nat) : Nat := 0x192004 + 0x100 * u
def CAP_PRE (u : Nat) : Nat := 0x192008 + 0x100 * u
def CAP_POST (u : Nat) : Nat := 0x19200C + 0x100 * u
def CAP_PMAX (u : Nat) : Nat := 0x192010 + 0x100 * u
def CAP_UBASE (u : Nat) : Nat := 0x192014 + 0x100 * u
def CAP_REF (u : Nat) : Nat := 0x192018 + 0x100 * u
def CAP_USRC (u : Nat) (k : Nat) : Nat := 0x192040 + 0x100 * u + 0x4 * k
def CAP_TCFG (t : Nat) : Nat := 0x193000 + 0x10 * t
def CAP_TLVL (t : Nat) : Nat := 0x193004 + 0x10 * t
def CAP_THYS (t : Nat) : Nat := 0x193008 + 0x10 * t
def CAP_COMMIT : Nat := 0x197F00
def CAP_CSTAT : Nat := 0x197F04
def SAFE_STAT : Nat := 0x1A0000
def SAFE_FAULT : Nat := 0x1A0004
def SAFE_OUT : Nat := 0x1A0008
def SAFE_INSTAT : Nat := 0x1A000C
def SAFE_CFSTAT : Nat := 0x1A0010
def SAFE_CFGID : Nat := 0x1A0014
def SAFE_CRC1 : Nat := 0x1A0018
def SAFE_CRC2 : Nat := 0x1A001C
def SAFE_CMPCNT : Nat := 0x1A0020
def SAFE_RTMAX : Nat := 0x1A0024
def SAFE_FNSTAT (f : Nat) : Nat := 0x1A0040 + 0x4 * f
def SAFE_AXSTAT (a : Nat) : Nat := 0x1A0080 + 0x10 * a
def SAFE_AXM1 (a : Nat) : Nat := 0x1A0084 + 0x10 * a
def SAFE_AXM2 (a : Nat) : Nat := 0x1A0088 + 0x10 * a
def RING_STAT : Nat := 0x200000
def RING_EVT : Nat := 0x200004
def RING_UID_LO : Nat := 0x200008
def RING_UID_HI : Nat := 0x20000C
def RING_CTL : Nat := 0x200010
def RING_BARCTL : Nat := 0x200014
def RING_BARSTAT : Nat := 0x200018
def RING_SNAPT_LO : Nat := 0x200020
def RING_SNAPT_HI : Nat := 0x200024
def RING_SNAPSTAT : Nat := 0x200028
def RING_STALECNT : Nat := 0x200040
def RING_LATECNT : Nat := 0x200044
def RING_AGEDROP : Nat := 0x200048
def RING_DUPCNT : Nat := 0x20004C
def RING_GAPSKIP : Nat := 0x200050
def RING_ADDRERR : Nat := 0x200054
def RING_FMTERR : Nat := 0x200058
def RING_PSTAT (p : Nat) : Nat := 0x200100 + 0x40 * p
def RING_DLY (p : Nat) : Nat := 0x200104 + 0x40 * p
def RING_CRCERR (p : Nat) : Nat := 0x200108 + 0x40 * p
def RING_REPLAY (p : Nat) : Nat := 0x20010C + 0x40 * p
def RING_SHERR (p : Nat) : Nat := 0x200110 + 0x40 * p
def RING_CFG : Nat := 0x202000
def RING_COMMIT : Nat := 0x207F00
def RING_CSTAT : Nat := 0x207F04
def PAIR_STAT : Nat := 0x210000
def PAIR_EVT : Nat := 0x210004
def PAIR_CTL : Nat := 0x210008
def PAIR_OPENT_LO : Nat := 0x21000C
def PAIR_OPENT_HI : Nat := 0x210010
def PAIR_OVLP : Nat := 0x210014
def PAIR_LASTCUT_LO : Nat := 0x210018
def PAIR_LASTCUT_HI : Nat := 0x21001C
def PAIR_MCNT : Nat := 0x210020
def PAIR_MLATE : Nat := 0x210024
def PAIR_MDIFF : Nat := 0x210028
def PAIR_MIDERR : Nat := 0x21002C
def PAIR_STSTAT : Nat := 0x210030
def PAIR_CALLSTAT (k : Nat) : Nat := 0x210040 + 0x10 * k
def PAIR_CALLCTL (k : Nat) : Nat := 0x210044 + 0x10 * k
def PAIR_CALLEVT (k : Nat) : Nat := 0x210048 + 0x10 * k
def PAIR_ROLE : Nat := 0x212000
def PAIR_CFG : Nat := 0x212004
def PAIR_CALLCFG (k : Nat) : Nat := 0x212010 + 0x4 * k
def PAIR_COMMIT : Nat := 0x217F00
def PAIR_CSTAT : Nat := 0x217F04
def ETH_PSTAT (p : Nat) : Nat := 0x220000 + 0x100 * p
def ETH_PEVT (p : Nat) : Nat := 0x220004 + 0x100 * p
def ETH_RXOK (p : Nat) : Nat := 0x220010 + 0x100 * p
def ETH_RXCRC (p : Nat) : Nat := 0x220014 + 0x100 * p
def ETH_RXDROP (p : Nat) : Nat := 0x220018 + 0x100 * p
def ETH_TXOK (p : Nat) : Nat := 0x22001C + 0x100 * p
def ETH_TXLATE (p : Nat) : Nat := 0x220020 + 0x100 * p
def ETH_DUPDISC (p : Nat) : Nat := 0x220024 + 0x100 * p
def ETH_WRONGLAN (p : Nat) : Nat := 0x220028 + 0x100 * p
def ETH_HSRFWD (p : Nat) : Nat := 0x22002C + 0x100 * p
def ETH_LNKDLY (p : Nat) : Nat := 0x220080 + 0x100 * p
def ETH_MAC_LO : Nat := 0x220200
def ETH_MAC_HI : Nat := 0x220204
def ETH_RXBUF_LO (p : Nat) : Nat := 0x220208 + 0x8 * p
def ETH_RXBUF_HI (p : Nat) : Nat := 0x22020C + 0x8 * p
def ETH_PCFG (p : Nat) : Nat := 0x222000 + 0x100 * p
def ETH_PDLYTX (p : Nat) : Nat := 0x222004 + 0x100 * p
def ETH_PDLYRX (p : Nat) : Nat := 0x222008 + 0x100 * p
def ETH_SWCFG : Nat := 0x222200
def ETH_DUPWIN : Nat := 0x222204
def ETH_COMMIT : Nat := 0x227F00
def ETH_CSTAT : Nat := 0x227F04
def TIME_STAT : Nat := 0x230000
def TIME_EVT : Nat := 0x230004
def TIME_NOW_NS : Nat := 0x230008
def TIME_NOW_SLO : Nat := 0x23000C
def TIME_NOW_SHI : Nat := 0x230010
def TIME_NOW_FR : Nat := 0x230014
def TIME_SRVOFS : Nat := 0x230020
def TIME_FADJ : Nat := 0x230024
def TIME_LTDIFF : Nat := 0x230028
def TIME_SRVCNT : Nat := 0x23002C
def TIME_UTCOFS : Nat := 0x230030
def TIME_CTL : Nat := 0x230034
def TIME_STEP_NS : Nat := 0x230038
def TIME_STEP_S : Nat := 0x23003C
def TIME_CFG : Nat := 0x232000
def TIME_KP : Nat := 0x232004
def TIME_KI : Nat := 0x232008
def TIME_FMAX : Nat := 0x23200C
def TIME_LOCKTHR : Nat := 0x232010
def TIME_TSNAP : Nat := 0x232014
def TIME_COMMIT : Nat := 0x237F00
def TIME_CSTAT : Nat := 0x237F04
def GPIO_IN : Nat := 0x240000
def GPIO_OUT : Nat := 0x240004
def GPIO_OUTSET : Nat := 0x240008
def GPIO_OUTCLR : Nat := 0x24000C
def GPIO_EVT : Nat := 0x240010
def GPIO_OWN : Nat := 0x240014
def GPIO_REF : Nat := 0x240018
def GPIO_CFG (i : Nat) : Nat := 0x242000 + 0x4 * i
def GPIO_COMMIT : Nat := 0x247F00
def GPIO_CSTAT : Nat := 0x247F04
def CLE_RGN (g : Nat) (r : Nat) : Nat := 0x102080 + 0x4000 * g + 4 * r
def CLE_PW (g : Nat) (n : Nat) : Nat := 0x102800 + 0x4000 * g + 0x4 * n
def SPARE_INV (c : Nat) : Nat := 0x40010 + 4 * c
end Reg

end Sys2Proof.Machine
end

