-- ==== Sys2Proof/Machine/State.lean ====
section
/-! DEFINITION. The state of the part as plain data: the registers in one sparse file (a register not listed holds its
reset value), what the spec's prose gives each block beyond its registers, the addressed memories, and the queue of
commands that wait. -/

namespace Sys2Proof.Machine

/-- A sparse file of words by key: what an unlisted key reads as stands with the file's reader. -/
abbrev WordFile := List (Nat × Word)

/-! Chapter 1: bus, commits and transactions. -/

/-- The bus side of the register blocks. Latches and held writes are keyed by initiator and offset (R10). -/
structure BusState where
  /-- Data returned by the last read command. -/
  rdata : Word := 0
  /-- Whether the last access completed (an access to an unmapped page, a faulting word and the like do not). -/
  rok : Bool := true
  /-- Halves latched by a read of a _LO register (R10). -/
  latch : WordFile := []
  /-- Halves held by a write of a _LO register (R10). -/
  held : WordFile := []
  /-- Reserved transaction entries held by each requester (R40). -/
  resv : List (Nat × Nat) := []
  /-- Pool entries held by each requester (R40). -/
  pool : List (Nat × Nat) := []
  /-- Transactions of each requester that wait for an entry (R40). -/
  waiting : List (Nat × Nat) := []
  /-- Instant of a first write of the reset key to SYS_SWRST (R42). -/
  swrst : Option Instant := none
deriving DecidableEq, Repr

/-- A pending commit: its unit, its tag and the snapshot of the staged set, by committed offset (R24). -/
structure PendCommit where
  unit : CUnit
  tag : Nat
  snap : WordFile
deriving DecidableEq, Repr

/-- A pending joint commit: its tag, the group whose tick moves it, and one snapshot per named unit (R31). -/
structure JointCommit where
  tag : Nat
  grp : Option Grp
  parts : List PendCommit
deriving DecidableEq, Repr

/-- What an entry of the event log records. -/
inductive LogCode
  | regionChange | windowEvent | indexMismatch | rampOvershoot | doubleFault | forceReleased | watchdog
  | profileViolation | driftWarn | evidence | retune | swap | cutin | grid | lockstep | decodeError
deriving DecidableEq, Repr

/-- An entry of the event log Q30 (R39): the ring time, what happened and its details. -/
structure LogEntry where
  time : Instant
  code : LogCode
  args : List Nat
deriving DecidableEq, Repr

/-! Chapter 9: the addressed memories. -/

/-- The byte memories of Table 1.10 and what their error codes have found (R271): bytes by physical address, an
unlisted byte reads as `memBlank` says; and the 64-bit words, by address, that hold an uncorrectable error. -/
structure MemState where
  bytes : List Host.Cell := []
  poison : List Nat := []
  /-- Writes counted per 64-bit eMRAM word, by word address (R277). -/
  wear : List (Nat × Nat) := []
  /-- Corrected errors (R272): the row, the word, and the instant. -/
  rowEcc : List (Nat × Nat × Nat) := []
deriving DecidableEq, Repr

/-! Chapters 4 and 5: the control-law engine. -/

/-- A word a lane gives the voter: its address in the signature's numbering (R114), and the datum, or none for a
"no write" entry of a guarded-off operation (R113). -/
structure VoteWord where
  addr : Nat
  val : Option Word
deriving DecidableEq, Repr

/-- What lands in a lane when an operation's latency has passed (R162). -/
inductive LandEffect
  | v (r : Nat) (x : Word)
  | a (r : Nat) (x : Word)
  | p (r : Nat) (b : Bool)
  | flag (f : Nat)
  | store (addr : Nat) (x : Word)
  | vote (w : VoteWord)
deriving DecidableEq, Repr

/-- A result in flight: the cycle it lands in, whether it comes from the X slot, and what it does. -/
structure Landing where
  due : Nat
  isX : Bool
  eff : LandEffect
deriving DecidableEq, Repr

/-- One lane (Table 4.1): registers, flags and memories; and its place in the sample it runs. Memories are sparse,
an unlisted word reads 0. -/
structure Lane where
  v : WordFile := []
  a : WordFile := []
  /-- Bit n: predicate pn, n from 1 to 7; p0 reads true (R148). -/
  p : Nat := 0
  /-- Present saturation flags (R127). -/
  f : Nat := 0
  /-- Previous-sample saturation flags (R127). -/
  fprev : Nat := 0
  data : WordFile := []
  /-- Coefficient words, key 1024 × bank + word. -/
  coef : WordFile := []
  /-- Bundle words, key 65536 × bank + 4 × bundle + slot. -/
  code : WordFile := []
  cycle : Nat := 0
  inflight : List Landing := []
  crc : Word := 0xFFFFFFFF
  out : List VoteWord := []
  /-- SAMPLE_END reached in this sample. -/
  ended : Bool := false
  /-- Outvoted on a word of this sample (R113). -/
  outvoted : Bool := false
  /-- Instant of the mismatch that opened the window that stands (R116). -/
  win : Option Instant := none
deriving DecidableEq, Repr

/-- A replacement lane being loaded (R118, R120). -/
structure Loading where
  lane : Nat
  copied : Bool := false
  joinNext : Bool := false
  /-- The lane that is replaced, and why: a cause code of Table 16.5. -/
  unit : Nat
  cause : Nat
  /-- Whether that lane still serves and leaves at the join, and then whether it retires (R120). -/
  leaving : Option Bool := none
  /-- That lane then runs its BIST: a step of the standby self-test (R350). -/
  bist : Bool := false
  /-- Long-operation slot that asked for the swap. -/
  slot : Option Nat := none
deriving DecidableEq, Repr

/-- A figure exchange that is armed or deferred (R139, R140). -/
structure Exchange where
  img : WordFile
  coefOnly : Bool
  /-- The switching time; none for the first tick after arming. -/
  at? : Option Instant
  /-- WITH_COMMIT: the staged CLE set as it was checked at arming. -/
  commit : Option WordFile := none
  deferred : Bool := false
  /-- The gap's writes are done for the coming tick. -/
  ready : Bool := false
  /-- Long-operation slot that asked for it, and the figure slot of the image. -/
  op : Option Nat := none
  fig : Nat := 0
deriving DecidableEq, Repr

/-- The voter of one group within a sample (R113): the next position, the words decided (none where no two lanes
agreed), and whether a word or the signatures had no majority. -/
structure Voter where
  decided : List (Option VoteWord) := []
  noMaj : Bool := false
deriving DecidableEq, Repr

/-- Injection generator, capture and correlator of a group (R129 to R132). -/
structure Probe where
  /-- The generator's index and the value it gives in the present sample. -/
  n : Nat := 0
  g : Word := 0
  /-- Site at which the self-scan injects in the present sample, in place of those enabled (R133). -/
  site : Option Nat := none
  /-- The index restarts at the next tick (R132). -/
  restart : Bool := false
  /-- Entries written since CAPSTART, and samples since the last entry. -/
  capEntry : Nat := 0
  capDiv : Nat := 0
  /-- Capture words, by capture word index. -/
  words : WordFile := []
  /-- Samples of the running correlation taken so far. -/
  corrSample : Nat := 0
  /-- The sums of the running correlation in double-single form (R158), key 2 × (9k + c) for the cosine and one more for
  the sine. -/
  acc : List (Nat × (Word × Word)) := []
deriving DecidableEq, Repr

/-- A retune of the admittance self-scan (R135): ring time, the notch sections with their old and new centres in Hz
(FP32), RV before and after, the coefficient words before it; whether it is itself a revert, and whether it was
reverted. -/
structure Retune where
  time : Instant
  moves : List (Nat × Word × Word) := []
  rvOld : Word
  rvNew : Word
  coefOld : WordFile := []
  revert : Bool := false
  undone : Bool := false
deriving DecidableEq, Repr

/-- A scan that runs (R133, R134): its settings, the operation that asked for it, the window N, the bins of its points, and
the samples injected so far. -/
structure ScanRun where
  ws : List Word
  op : Option Nat
  n : Nat
  bins : List Nat
  k : Nat := 0
  /-- The sums of the points in double-single form: key 8 × point + 4 × site, V_t (site 0) or V_t + U_1 (site 1), then
  I_g, each real and imaginary. -/
  acc : List (Nat × (Word × Word)) := []
deriving DecidableEq, Repr

/-- The admittance self-scan of a group: the scan that runs, whether it repeats, when it last started, and the retune log,
newest first. -/
structure SelfScan where
  run : Option ScanRun := none
  bg : Bool := false
  startAt : Instant := 0
  log : List Retune := []
deriving DecidableEq, Repr

/-- What the CLE holds for one group beyond its registers and lanes. -/
structure CleGroup where
  /-- Words of the image in force, by word index within the figure slot; empty where no figure is loaded. -/
  img : WordFile := []
  loaded : Bool := false
  /-- The image is a build of the grid figure (R44): `Config.isGridFigure` of its FIG_ID. -/
  isGrid : Bool := false
  /-- Figure slot the image came from. -/
  slot : Nat := 0
  /-- The tick that began the present sample. -/
  t0 : Instant := 0
  /-- A sample runs: begun at a tick and not yet compared. -/
  open_ : Bool := false
  /-- A write of RUN that the next tick acts on. -/
  runReq : Option Bool := none
  /-- The previous sample had no majority. -/
  prevNoMaj : Bool := false
  /-- The group halts at the next tick. -/
  haltNext : Bool := false
  /-- A lane was masked since the last decision and its replacement is to be chosen (R117). -/
  want : Option (Nat × Nat) := none
  voter : Voter := {}
  /-- Export ports as the voted writes of the present sample leave them. -/
  ep : WordFile := []
  /-- Input ports as filled at the tick (R106). -/
  ip : WordFile := []
  /-- The parameter file snapshot (R107): 0 to 255 parameter words, 256 SEQCMD, 257 to 272 shared words. -/
  pfile : WordFile := []
  /-- Present band of each scheduling variable (R124). -/
  bands : List Nat := [0, 0, 0, 0]
  /-- A commit of the scheduling set or a start asks for bands without hysteresis (R124). -/
  bandsFresh : Bool := true
  /-- Fade length n and the present sample's k; k = 0 where no fade runs (R126). -/
  fadeN : Nat := 1
  fadeK : Nat := 0
  /-- A fade ended at the last tick (R126). -/
  fadeJustEnded : Bool := false
  first : Bool := false
  probe : Probe := {}
  exch : Option Exchange := none
  load : Option Loading := none
  /-- The PWM write window of the present sample is closed (R18). -/
  winClosed : Bool := false
  /-- A halt whose safe state waits for the release of the floor (R123). -/
  deferSafe : Bool := false
  scan : SelfScan := {}
  /-- State of the grid figure, where the group runs one. -/
  grid : GridState := {}
deriving DecidableEq, Repr


/-! Chapters 11 to 13: what leaves the part. -/

/-- Something the part has sent. -/
inductive OutMsg
  /-- A ring frame: output port, header and payload. -/
  | ring (port : Nat) (hdr : BitVec 128) (payload : List Byte)
  /-- A PAIR frame to a node. -/
  | pair (node : Nat) (m : PairMsg)
  /-- A mirror frame on the partner link. -/
  | link (f : MirrorFrame)
  | cyclic (m : CycMirror)
  | prom (m : PromMsg)
  | notice (m : LinkMsg)
  | barrier (id : Nat) (release : Bool)
  | stat (status : BitVec 64)
  /-- An Ethernet frame: port, instant of its start, bytes. -/
  | eth (port : Nat) (t : Instant) (bytes : List Byte)
  /-- A TEMPO frame with scheduled time events. -/
  | tempo (at_ : Instant)
  /-- The completion of a host read over PCIe, and the answer of the host SPI port. -/
  | host (bytes : List Byte)
  | hspi (words : List Word)
deriving DecidableEq, Repr

/-! Chapter 6: sigma-delta channels, the AUXADC and the protection comparators. -/

/-- What a sigma-delta channel holds beyond its registers. -/
structure SenseCh where
  /-- Latest fine and fast density and value. -/
  fineX : Word := 0
  fineY : Word := 0
  fastX : Word := 0
  fastY : Word := 0
  /-- The fast path is in its 16 clocks of settling. -/
  fastUns : Bool := false
  /-- The instant of the last marking as unsettled (R177). -/
  unsAt : Instant := 0
  /-- Consecutive outputs at which the condition of windows 0 to 3 held. -/
  runs : List Nat := [0, 0, 0, 0]
  /-- Manchester violations within the present sample. -/
  mviol : Nat := 0
  /-- The clock was lost within the present sample. -/
  lossFresh : Bool := false
  /-- Trims loaded and not yet in effect: TGAIN and TOFF. -/
  trim : Option (Word × Word) := none
deriving DecidableEq, Repr

/-- A sigma-delta reserve (R183, R184): consecutive disagreements, and the ticks an evidence request has waited with
the long-operation slot that asked for it. -/
structure SenseRsv where
  disagree : Nat := 0
  req : Option (Nat × Option Nat) := none
deriving DecidableEq, Repr

/-- A crossing held for a blanked leg (R189): the leg, the source code, and its instant. -/
structure HeldTrip where
  leg : Nat
  src : Nat
  t : Instant
deriving DecidableEq, Repr

/-- A crossing or condition that stands (R191): its source code, its class and the instant it began. -/
structure Standing where
  src : Nat
  cls : Nat
  t : Instant
deriving DecidableEq, Repr

/-- A conversion of the AUXADC: its slot, the input that the slot named at its start, and that instant. -/
structure AuxConv where
  slot : Nat
  input : Nat
  start : Instant
deriving DecidableEq, Repr

/-- The AUXADC: the conversion that runs, the slots that queue, the free-running ones that wait for idle time, and the instant of
the last free-running period. -/
structure AuxState where
  busy : Option AuxConv := none
  queue : List Nat := []
  idle : List Nat := []
  lastFree : Option Instant := none
deriving DecidableEq, Repr

/-- What sensing and protection hold beyond their registers. -/
structure SenseState where
  ch : Vector SenseCh 28 := Vector.replicate 28 {}
  rsv : Vector SenseRsv 4 := Vector.replicate 4 {}
  held : List HeldTrip := []
  standing : List Standing := []
  /-- Earliest stamp of the open protection record. -/
  ffTime : Instant := 0
  /-- Reserve comparators that run beside their target until an instant, and those that stand in for it. -/
  armUntil : List (Nat × Instant) := []
  /-- Comparators disarmed by a reserve map. -/
  disarmed : List Nat := []
  aux : AuxState := {}
deriving DecidableEq, Repr

/-! Chapter 7: timebases, legs and gates. -/

/-- One timebase while it runs (R197 to R199). An update instant is the boundary `k`, or the apex after it. -/
structure Timebase where
  /-- The instant of boundary 0: the anchor and the phase, or the start of a free-running carrier. -/
  base : Int := 0
  /-- The next update instant: its period, and whether it is the apex. -/
  k : Int := 0
  apex : Bool := false
  /-- The first tick after the start is still to come (R177). -/
  first : Bool := true
  /-- A stop waits for the next boundary. -/
  stopReq : Bool := false
  /-- The instant and the period of the last update. -/
  last : Instant := 0
  /-- Software writes that completed in the transfer clock, taken at the transfer after: pair, A and B. -/
  deferred : List (Nat × (Word × Word)) := []
deriving DecidableEq, Repr

/-- The request of one compare signal (R206, R211): key 2 × pair + 0 for compare A, + 1 for compare B of an INDEP
pair. Places in time count 78.125 ps steps. -/
structure Sig where
  /-- Requests are made: the leg runs and a code has been taken since it does. -/
  live : Bool := false
  lvl : Bool := false
  /-- Requested edges to come, soonest first. -/
  edges : List (Nat × Bool) := []
  /-- The on-edge of the present upper pulse and of the present lower pulse. -/
  onAt : Nat := 0
  lowAt : Nat := 0
  /-- The present upper pulse was dropped; the present lower pulse was dropped. -/
  omitted : Bool := false
  lowDropped : Bool := false
  /-- The code in force from the valley, in steps. -/
  cv : Nat := 0
  /-- How much later than its code an edge falls, by the carry. -/
  offExtra : Int := 0
  onExtra : Nat := 0
  lowHalf : Int := 0
deriving DecidableEq, Repr

/-- What a leg's state machine holds beyond its commands (R213). -/
structure Leg where
  fromZ : Bool := false
  /-- When the state O was entered. -/
  oAt : Instant := 0
  /-- The state wanted at the last evaluation in RUN, a code of PWM_LSTAT. -/
  want : Nat := 0
  /-- Switches whose wanted edge the order or the dwell holds back. -/
  held : Nat := 0
  /-- A direct request between P and N that is under way: 3 to P, 5 to N, 0 none. -/
  direct : Nat := 0
  /-- The leg ran from its codes at the last evaluation. -/
  ran : Bool := false
  /-- An accepted latch clear waits for this period boundary (R217). -/
  clearing : Option Instant := none
  /-- End of the blanking window (R189). -/
  blankEnd : Instant := 0
deriving DecidableEq, Repr

/-- A gate reserve's swap (R221). -/
inductive GatePhase | idle | compare | selected | inService
deriving DecidableEq, Repr

/-- The swap of one gate reserve channel. -/
structure GateSwap where
  phase : GatePhase := .idle
  /-- Periods since the request, and consecutive periods in agreement. -/
  periods : Nat := 0
  agree : Nat := 0
  /-- Since when the two returns differ; and whether they did so, for longer than their filter, in the present period. The period
  in which the request falls does not count. -/
  diffAt : Option Instant := none
  bad : Bool := true
  /-- Long-operation slot that asked for the swap. -/
  slot : Option Nat := none
  /-- Why: a cause code of Table 16.5. -/
  cause : Nat := 5
  selAt : Instant := 0
deriving DecidableEq, Repr

/-- What a status bus asked last (R222): a poll entry, or the fault register of a channel's driver. -/
inductive GbusReq
  | poll (k : Nat)
  | fault (c : Nat)
deriving DecidableEq, Repr

/-- One gate status bus: the request without an answer, with its address and register; the poll entry that comes next;
and the channels whose fault register is to be read. -/
structure Gbus where
  req : Option (GbusReq × Nat × Nat) := none
  next : Nat := 0
  faults : List Nat := []
  /-- The bytes of the last request sent. -/
  sent : List Byte := []
deriving DecidableEq, Repr

/-- What the PWM and GATE blocks hold beyond their registers. -/
structure PwmState where
  tb : Vector Timebase 2 := Vector.replicate 2 {}
  sigs : Vector Sig 48 := Vector.replicate 48 {}
  /-- Hold copies of R109, key 2 × pair + 0 for A and + 1 for B. -/
  hold : WordFile := []
  legs : Vector Leg 24 := Vector.replicate 24 {}
  /-- Instant of the last command edge of each channel. -/
  edgeAt : List (Nat × Nat) := []
  /-- Channels whose return has shown the command since its last edge (R210). -/
  shown : List Nat := []
  swaps : Vector GateSwap 8 := Vector.replicate 8 {}
  bus : Vector Gbus 2 := Vector.replicate 2 {}
  /-- Instant of the earliest fault of the open gate-fault record (R210). -/
  ffTime : Instant := 0
  /-- Channels whose pin readback disagrees with the command. -/
  padBad : List Nat := []
  /-- Trips made and not yet reported to the sequencing library: their cause codes. -/
  reports : List Nat := []
  /-- Delay lines that had an edge due at the last refresh and take the tap table later (R201). -/
  dlWait : List Nat := []
deriving DecidableEq, Repr

/-! Chapter 8: position interfaces and ramps. -/

/-- Class of a rejected serial frame (R232). -/
inductive SerClass where
  | line
  | jump
deriving DecidableEq, Repr

/-- A position interface beyond its registers. Observer values are in units of 2^-64 turn and of 2^-64 turn per
second. -/
structure PosIf where
  /-- Filtered inputs. -/
  a : Bool := false
  b : Bool := false
  z : Bool := false
  /-- The quarter count of sin/cos mode. -/
  q : Int := 0
  /-- Count at which quarter 0 lies: what realignments have moved beyond whole quarters. -/
  off : Int := 0
  /-- The last conversion found the quadrant two apart from the quarter count (R230). -/
  apart : Bool := false
  /-- Consecutive conversions outside and inside the amplitude window. -/
  ampOut : Nat := 0
  ampIn : Nat := 0
  /-- Sample instant of a serial frame that has started. -/
  frame : Option Instant := none
  /-- Consecutive rejected frames. -/
  rejects : Nat := 0
  /-- Class of the last frame that was rejected (R232). -/
  serClass : Option SerClass := none
  /-- The status word latched at the last tick (R237). -/
  status : Word := 0
  th : Int := 0
  w : Int := 0
  /-- The prediction of the last tick. -/
  pred : Int := 0
  /-- The observer takes its first measured count at the next tick. -/
  first : Bool := true
  /-- A compare pulse stands until this instant. -/
  pulse : Option Instant := none
  /-- List entries that have fired and are not re-armed. -/
  fired : List Nat := []
  /-- Trims of the ADC pair: sine gain and offset, cosine gain and offset (Table 16.6). -/
  trims : List Word := [0x3F800000, 0, 0x3F800000, 0]
  pendTrims : Option (List Word) := none
deriving DecidableEq, Repr

/-! Chapter 9: service slots, translation, DMA. -/

/-- A cached leaf of the translation tables (R260): the page by its number, its size, its ASID, whether it is global,
and the entry. -/
structure TlbEntry where
  page : Nat
  big : Bool
  asid : Nat
  glob : Bool
  leaf : Nat
deriving DecidableEq, Repr

/-- Whether a slot executes: it runs, it waits for an interrupt (IDLE), it stopped at a double fault (R255), or the
runtime halted it (R291, R302). -/
inductive SlotRun
  | running | idle | doubleFault | halted
  /-- It stands at an XLINV.S that has not completed (R260). -/
  | shoot
deriving DecidableEq, Repr

/-- An XLINV.S that has not completed: its slot, SFN[1:0] and key, and once it has reached every TLB the DMA channels whose beats in
flight it waits for. -/
structure Shoot where
  slot : Nat
  sfn : Nat
  key : Word
  users : Option (List Nat) := none
deriving DecidableEq, Repr

/-- The architectural state of a service slot (R251, Table 9.3). -/
structure CoreSlot where
  w : Vector Word 16 := Vector.replicate 16 0
  s : Vector Word 16 := Vector.replicate 16 0
  n : Bool := false
  z : Bool := false
  c : Bool := false
  v : Bool := false
  pstat : Word := 1
  epc : Word := 0
  esr : Word := 0
  eva : Word := 0
  esave : Word := 0
  evbar : Word := 0
  ien : BitVec 64 := 0
  /-- Sources that have risen and were not taken. -/
  pend : BitVec 64 := 0
  pc : Word := 0
  /-- Reservation of LDRV: a physical address. -/
  resv : Option Nat := none
  tlb : List TlbEntry := []
  /-- The instruction words that the instruction L1 holds, by physical address (R247). -/
  il1 : List Nat := []
  run : SlotRun := .running
deriving DecidableEq, Repr

/-- A core pair (R249): the slot whose work its self-test holds up, whether the test runs, the last mismatch, and
retirement. -/
structure CorePair where
  testing : Bool := false
  last : Option Instant := none
  retired : Bool := false
deriving DecidableEq, Repr

/-- A beat that waits for the ring: its length, what of it lies in this part to be written (address and length), the IOTLB entries
that its destination used, and the ring address where the destination is in another node. -/
structure DmaBeat where
  n : Nat
  dst : List (Nat × Nat) := []
  uses : List TlbEntry := []
  remote : Option Nat := none
deriving DecidableEq, Repr

/-- A DMA channel beyond its registers: the descriptor in progress, the CRC so far, a beat that waits for the ring, and
whether it halted at a descriptor read. -/
structure DmaCh where
  desc : Option (List Byte) := none
  crc : Word := 0xFFFFFFFF
  descErr : Bool := false
  beat : Option DmaBeat := none
deriving DecidableEq, Repr

/-- What chapter 9 gives the part beyond registers and bytes. -/
structure CoreState where
  slots : Vector CoreSlot 3 := Vector.replicate 3 {}
  pairs : Vector CorePair 4 := Vector.replicate 4 {}
  /-- Slots whose failed pair is in its self-test with no reserve free: slot and pair. -/
  waits : List (Nat × Nat) := []
  iotlb : List TlbEntry := []
  /-- Shared invalidations that have not completed, the one in progress first. -/
  shoots : List Shoot := []
  dma : Vector DmaCh 16 := Vector.replicate 16 {}
  /-- Channel of the last beat and its instant. -/
  lastBeat : Option (Nat × Instant) := none
  /-- Instant from which the slots' cycles are counted. -/
  cyc0 : Instant := 0
  /-- Words written to the xSPI device and not yet completed: the command as it was given. -/
  xcmd : Option (Word × Word × List Word) := none
deriving DecidableEq, Repr

/-! Chapter 10: the cyclic runtime. -/

/-- A task of the running image (R278 to R283): its descriptor, its next release, its last release, one further event
held, cycles since its start, what the next header reports, its images, and the release that its cycle answers. -/
structure CycTask where
  desc : CycDesc
  next : Instant := 0
  last : Option Instant := none
  held : Bool := false
  cycles : Nat := 0
  ovr : Bool := false
  /-- Releases skipped, as recorded when the runtime stopped. -/
  ovrs : Nat := 0
  intr : Bool := false
  cause : Nat := 0
  first : Bool := true
  inImg : List Byte := []
  outImg : List Byte := []
  relAt : Instant := 0
deriving DecidableEq, Repr

/-- A force (R294): a variable's identity, its type and the value. -/
structure CycForce where
  ident : Nat
  typ : Nat
  value : Nat
deriving DecidableEq, Repr

/-- A remote module at run time: the latest good copy and its instant, or the values of the latest copy-out. -/
structure CycRemote where
  num : Nat
  data : List Byte := []
  good : Option Instant := none
  /-- When its last transfer was begun. -/
  last : Option Instant := none
  /-- An output module holds values that this part may send: after a cut-in only those of a copy-out since (R357). -/
  ready : Bool := true
deriving DecidableEq, Repr

/-- An on-line change in progress (R295, R296): the new image and its slot, the long-operation slot, the lines marked
since their pre-copy, and the end of the switch window once the pre-copy has ended. -/
structure CycChange where
  img : CycImage
  slot : Nat
  op : Nat
  marked : List Nat := []
  window : Option Instant := none
  /-- When the pre-copy began. -/
  since : Instant := 0
deriving DecidableEq, Repr

/-- What a CLE snapshot holds of a running group (R290). -/
structure CycSnapGroup where
  group : Nat
  scnt : Nat
  fig : Nat
  pfile : WordFile
  exports : List Word
  region : Word
  data : WordFile
  grid : GridState
deriving DecidableEq, Repr

/-- A CLE snapshot (R290): sequence number, ring time, the running groups and the ramps. -/
structure CycSnap where
  seq : Nat
  time : Instant
  groups : List CycSnapGroup
  ramps : List RampCh
deriving DecidableEq, Repr

/-- The runtime beyond its registers. -/
structure CycState where
  img : CycImage := {}
  tasks : List CycTask := []
  forces : List CycForce := []
  /-- Runtime timers: identity, and the ring time at which a running one started (R299). -/
  timers : List (Nat × Option Instant) := []
  /-- Edge detectors: identity and previous input; none before the first evaluation. -/
  edges : List (Nat × Option Bool) := []
  remote : List CycRemote := []
  change : Option CycChange := none
  /-- Image slots whose image is verified (R424). -/
  verified : List Nat := []
  /-- Dirty lines of the retention buffer, oldest first. -/
  dirty : List Nat := []
  snaps : List CycSnap := []
  /-- Image whose variables are retained, and the tasks that a power failure cut short (R292). -/
  retained : Option Nat := none
  cut : List Nat := []
  /-- The runtime ran when the part was last reset or its power failed. -/
  wasOn : Bool := false
  /-- PFAIL stands since an instant, and the STATE it found. -/
  pfail : Option Instant := none
  pfPrev : Nat := 0
  /-- When the last running task ended its cycle. -/
  lastEnd : Instant := 0
  /-- MIRROR variables as the latest mirror frame of the active part carried them (R281, R283). -/
  mirrored : List (Nat × Nat) := []
deriving DecidableEq, Repr

/-! Chapter 11: the long-operation slots; chapter 16: the reserve manager. -/

/-- What a long-operation slot holds beyond its registers (R332): the operation's code, its arguments as they stood when
OP_CMD was written, the resource it names, and its place in the order of the writes. -/
structure OpSlot where
  code : Nat := 0
  args : List Word := []
  /-- How the work ends that is under way: GERR and ERR; empty where it ends by a step of its own. -/
  facts : List Nat := []
  res : Option Nat := none
  order : Nat := 0
deriving DecidableEq, Repr

/-- An entry of the reserve log (Table 16.5): instant, class, unit, reserve, cause and outcome. -/
structure RsvEntry where
  time : Instant
  cls : Nat
  unit : Nat
  rsv : Nat
  cause : Nat
  outcome : Nat
deriving DecidableEq, Repr

/-! Chapter 12: pairs and callers. -/

/-- Why a caller judges (Table 12.3). -/
inductive CallTrigger
  | request (r : CutRequest) | missed | grade | swap
deriving DecidableEq, Repr

/-- One side of a pair as its caller sees it: the latest heartbeat, the tick distance of the last two, consecutive
misses, and the last tick that was judged. -/
structure CallSide where
  hb : Option Heartbeat := none
  ts : Nat := 0
  misses : Nat := 0
  judged : Instant := 0
deriving DecidableEq, Repr

/-- A pair as its caller keeps it (R352, R355, R356). -/
structure CallPair where
  sides : Vector CallSide 2 := Vector.replicate 2 {}
  /-- A cut-in decided and not yet called: tick, group, side that comes in, and the trigger. -/
  armed : Option (Instant × Grp × Bool × CallTrigger) := none
  /-- A cut-in called: no trigger counts until the new active part reports role 1. -/
  moved : Option (Instant × Grp × Bool × CallTrigger) := none
  /-- A trigger that found no eligible standby. -/
  again : Option CallTrigger := none
  /-- Ticks before this instant are not counted as missed (R353). -/
  resume : Instant := 0
  /-- When the last heartbeat of the caller left (R352). -/
  sent : Option Instant := none
deriving DecidableEq, Repr

/-- An armed cut-in of a member: tick, group, and whether this part comes in. -/
structure ArmedCut where
  tc : Instant
  grp : Grp
  incoming : Bool
deriving DecidableEq, Repr

/-- What a pair member keeps. -/
structure PairState where
  armed : Option ArmedCut := none
  /-- The cut-in tick at which this part took the floor, while its permission is awaited. -/
  taken : Option Instant := none
  openAt : Option Instant := none
  /-- The open-floor tick at which this part took the floor. -/
  openTick : Option Instant := none
  /-- Since when both floor lines have been high. -/
  both : Option Instant := none
  gradeThr : Nat := 128
  /-- When the last caller heartbeat came, or this part became a member. -/
  lastCaller : Instant := 0
  /-- Node of the caller and its index of this pair, from its heartbeats. -/
  callerNode : Nat := 0
  callerPair : Fin 4 := 0
  /-- Role 4 was committed, and no tick of the group has come since (R340). -/
  take4 : Bool := false
  cutReq : Bool := false
  /-- A mirror frame that waits for the end of this part's own sample, by group. -/
  wait : Vector (Option MirrorFrame) 2 := Vector.replicate 2 none
  /-- This part's own mirror set at its last comparison, by group. -/
  own : Vector (Option MirrorFrame) 2 := Vector.replicate 2 none
  /-- Samples since a mirror frame was applied, by group. -/
  age : Vector (Option Nat) 2 := Vector.replicate 2 none
  /-- Arrival of the last cyclic mirror frame of each task. -/
  cyclicAt : List (Nat × Instant) := []
  /-- Working lanes of the partner link, by bit. -/
  lanesUp : Nat := 0
  /-- The self-test's next step and unit, and a lane that it holds. -/
  step : Nat := 1
  unit : Nat := 0
  heldLane : Option Nat := none
  callers : Vector CallPair 4 := Vector.replicate 4 {}
deriving DecidableEq, Repr

/-- What an outstanding ring request is for: a beat of a DMA channel, a remote module, a piece of a host access, or an entry of Q22 or
Q23 with its bytes. -/
inductive ReqUse
  | dma (c : Nat) | module (m : Nat) | host (acc at_ : Nat)
  | hspi (at_ : Nat)
  | queue (entry : List Byte)
deriving DecidableEq, Repr

/-- A ring request of this node (R318, R319): type and class, destination, address, length and payload; once it has left,
its tag, its epoch and when it left. -/
structure RingReq where
  typ : Nat
  cls : Nat
  dst : Nat
  addr : Nat
  len : Nat
  data : List Byte
  use : ReqUse
  tag : Nat := 0
  epoch : Nat := 0
  left : Instant := 0
deriving DecidableEq, Repr

/-- What a destination keeps of one source, node 127 as a destination of its own (R318): the tag that is next, tags and
epochs received with their instants, and requests that wait for a missing tag. -/
structure RingSource where
  src : Nat
  bcast : Bool
  next : Option Nat := none
  seen : List (Nat × Nat × Instant) := []
  held : List RingFrame := []
deriving DecidableEq, Repr

/-- A reply to a promenade (R313). -/
structure PromReply where
  uid : BitVec 64
  east : Option Nat
  west : Option Nat
deriving DecidableEq, Repr

/-- The switch at the end of a promenade: this node's new address, the epoch, the nodes of the ring and the time. -/
structure PromSwitch where
  addr : Nat
  epoch : Nat
  nodes : Nat
  east : List (Nat × Nat)
  at_ : Instant
deriving DecidableEq, Repr

/-- A host access that is being carried (R327, R328): its ring address, whether it writes, its bytes so far, the pieces to
come, and the status. -/
structure HostAcc where
  id : Nat := 0
  addr : Nat
  write : Bool
  data : List Byte := []
  left : Nat := 0
  status : Nat := 0
deriving DecidableEq, Repr

/-- The ring and the host port beyond their registers. -/
structure RingState where
  /-- Next tag by destination. -/
  tags : List (Nat × Nat) := []
  reqs : List RingReq := []
  /-- Requests that wait to leave: for a tag, or for the end of a promenade (R315). -/
  waits : List RingReq := []
  /-- Tags of broadcast writes, with the instant they left. -/
  bcasts : List (Nat × Instant) := []
  srcs : List RingSource := []
  prom : Bool := false
  /-- Epoch of the last promenade this node started, and its replies. -/
  promEpoch : Nat := 0
  replies : List PromReply := []
  switch : Option PromSwitch := none
  /-- Hops eastward from node 1 of every node with an address, in the intact ring (R311). -/
  east : List (Nat × Nat) := []
  nodes : Nat := 0
  /-- Nodes whose eastward link is down. -/
  cuts : List Nat := []
  /-- Lanes announced as failed whose traffic has not moved: port and lane. -/
  swapDue : List (Nat × Nat) := []
  /-- Since when a port's link has worked again. -/
  upAt : List (Nat × Instant) := []
  /-- The last time ordered set of each port. -/
  tos : List (Nat × Instant) := []
  /-- Barrier at which this node waits, and arrivals at node 1: barrier and node. -/
  bar : Option Nat := none
  arrived : List (Nat × Nat) := []
  retrain : Bool := false
  /-- PCIe accesses that are carried, oldest first; an access of the host SPI port, and the words of its last READ. -/
  pcie : List HostAcc := []
  hspi : Option HostAcc := none
  hspiWords : List Word := []
  hspiErr : Bool := false
  hspiStatus : Nat := 0
  hostCount : Nat := 0
  /-- HOST_STATUS below SEQ as it was last sent, and when. -/
  status : Nat := 0
  statusAt : Instant := 0
deriving DecidableEq, Repr

/-! Chapter 13: time. -/

/-- The time unit: ring time minus local tempo, the servo's I, its last update, consecutive updates below LOCKTHR, and
since when local tempo has slewed. -/
structure TimeState where
  off : Int := 0
  int : Int := 0
  last : Option Instant := none
  below : Nat := 0
  slewAt : Option Instant := none
deriving DecidableEq, Repr

/-! Chapter 14: the disturbance recorder. -/

/-- A trigger unit: armed for a rising and a falling crossing, and the last instant and value of its source. -/
structure TrigUnit where
  rise : Bool := false
  fall : Bool := false
  prev : Option (Nat × Word) := none
deriving DecidableEq, Repr

/-- A stored sample: its instant counted in TSMP, and per channel the value and its flags (Table 14.2, +216). -/
structure Sample where
  idx : Nat
  vals : List (Word × Nat)
deriving DecidableEq, Repr

/-- A record in progress (R379). -/
structure OpenRec where
  unit : Nat
  trig : Nat
  t : Instant
  /-- The trigger sample and the last sample, counted in TSMP. -/
  trigIdx : Nat
  lastIdx : Nat
  xtrg : List (Nat × Instant) := []
  more : Bool := false
  prot : Bool := false
  retrig : Bool := false
  tlock : Bool := true
  tfarm : Bool := false
deriving DecidableEq, Repr

/-- An acquisition unit. -/
structure CapUnit where
  /-- Samples kept, newest first. -/
  ring : List Sample := []
  rcd : Option OpenRec := none
  /-- Buffer in use; none while every buffer is protected or read (R381). -/
  buf : Option Nat := some 0
  /-- Sequence number of the next record. -/
  seq : Nat := 0
  /-- First sample that a new record may hold. -/
  minIdx : Nat := 0
  /-- Firings whose trigger sample lies after the record in progress. -/
  later : List (Nat × Instant) := []
deriving DecidableEq, Repr

/-- A closed record (R381 to R386). -/
structure CapRecord where
  id : Word
  unit : Nat
  /-- Buffer of capture SRAM that holds it, its address and its size in bytes. -/
  buf : Option Nat
  addr : Nat
  size : Nat
  prot : Bool
  measured : Bool := false
  /-- Address in eMRAM once copied. -/
  emram : Option Nat := none
  /-- Long-operation slots that hold it. -/
  holds : List Nat := []
  /-- A DELETE waits for the slot's RELEASE. -/
  deleting : Bool := false
  /-- Read in full by RECORD_READ. -/
  read : Bool := false
deriving DecidableEq, Repr

/-- The recorder. -/
structure CapState where
  trig : Vector TrigUnit 16 := Vector.replicate 16 {}
  units : Vector CapUnit 2 := Vector.replicate 2 {}
  /-- What the ring's time source last said of node 1's servo: LOCKED (Table 14.2, TFARM). -/
  farm : Bool := false
  /-- Closed records, oldest first. -/
  records : List CapRecord := []
deriving DecidableEq, Repr

/-! Chapter 15: the safety channels. -/

/-- A safety input pin as one channel sees it (R396, R397): the filtered level, the level that stands at the pin and
since when, a low pulse of an OSSD device, whether its test pulse was seen, and the press that stands or ended last. -/
structure SafePin where
  lvl : Bool := false
  /-- A level has been stable once since power-on. -/
  known : Bool := false
  raw : Bool := false
  since : Instant := 0
  low : Option Instant := none
  seen : Bool := true
  test : Bool := false
  rose : Option Instant := none
  press : Option (Instant × Instant) := none
deriving DecidableEq, Repr

/-- A dual input as one channel sees it: since when its pins disagree, and its discrepancy fault (0 none, 1 standing,
2 standing with both pins having shown demand). -/
structure SafeInput where
  apart : Option Instant := none
  disc : Nat := 0
deriving DecidableEq, Repr

/-- An axis as one channel monitors it (R400): the start of SS1 and the measurement then, READY, SS1FAIL, the end of
SS1, and the last measurement. -/
structure SafeAxis where
  ss1 : Option (Instant × Word) := none
  ready : Bool := false
  fail : Bool := false
  m : Word := 0
deriving DecidableEq, Repr

/-- A contactor as one channel drives it (R402): command, its last change, feedback (none before the first agreement of
its pins), and the faults of Table 15.2. -/
structure SafeCont where
  cmd : Bool := false
  since : Instant := 0
  fb : Option Bool := none
  weld : Bool := false
  late : Bool := false
  spur : Bool := false
deriving DecidableEq, Repr

/-- A comparison frame (R392). -/
structure SafeFrame where
  pins : Nat
  demand : Nat
  rst : Nat
  ready : List Bool
  axes : List Word
  outs : Nat
  crc : Word
  cycles : Nat
deriving DecidableEq, Repr

/-- A safety channel. -/
structure SafeCh where
  pins : Vector SafePin 16 := Vector.replicate 16 {}
  inputs : Vector SafeInput 8 := Vector.replicate 8 {}
  axes : Vector SafeAxis 2 := Vector.replicate 2 {}
  conts : Vector SafeCont 4 := Vector.replicate 4 {}
  /-- Functions in demand, by bit; resets accepted and not yet made by both channels; demands new in this cycle. -/
  demand : Nat := 0
  rst : Nat := 0
  fresh : Nat := 0
  /-- Functions whose lock feedback shows unlocked while locked, and since when; and their LOCKFAULTs. -/
  unlocked : List (Nat × Instant) := []
  lockFault : Nat := 0
  /-- STO in force, its last change, STO due at the end of the cycle, and a reset that lets it go. -/
  sto : Bool := true
  stoAt : Instant := 0
  stoDue : Bool := false
  clear : Bool := false
  /-- Outputs commanded: STO in bit 0, SO0 to SO3 above it. -/
  outs : Nat := 0
  cycles : Nat := 0
  frame : Option SafeFrame := none
  /-- Arrival of the last frame, consecutive differing comparisons, and of the axes. -/
  got : Instant := 0
  diffs : Nat := 0
  axDiffs : Nat := 0
  /-- Frames and own cycles of the present count of 100 frames. -/
  frames : Nat := 0
  frameCycles : Nat := 0
  /-- Since when an output pin disagrees with its command. -/
  bad : Option Instant := none
  req : Word := 0
  req1 : Word := 0
deriving DecidableEq, Repr

/-- Both channels, the table in force, the start of each output's last test pulse, a channel fault, PFAIL as filtered,
and a table that awaits its acknowledgement: its bytes, its slot and since when. -/
structure SafeState where
  ch : Vector SafeCh 2 := Vector.replicate 2 {}
  cfg : Option (List Word) := none
  pulses : List (Nat × Instant) := []
  fault : Bool := false
  pfail : Bool := false
  load : Option (List Byte × Nat × Instant) := none
deriving DecidableEq, Repr

/-! Chapters 16 and 17: trust, health, clocks and supplies. -/

/-- An entry of the measurement log (R427). -/
structure MeasEntry where
  kind : Nat
  time : Instant
  digest : List Byte
deriving DecidableEq, Repr

/-- Minimum, sum and maximum of a monitor over a day or a month (R419), in units of 2^-64, and the values taken. -/
structure MonAcc where
  lo : Int := 0
  sum : Int := 0
  hi : Int := 0
  n : Nat := 0
deriving DecidableEq, Repr

/-- What the reserve manager keeps (chapter 16). -/
structure HealthState where
  /-- The calibration page failed its CRC with no complete staging page (R422). -/
  calBad : Bool := false
  /-- The staging page holds a calibration page marked complete (R421). -/
  calStaged : Bool := false
  /-- Self-test steps whose last run failed (R350). -/
  stFail : List Nat := []
  /-- Units retired beyond those that a register shows: class and unit. -/
  retired : List (Nat × Nat) := []
  /-- Class and instant of evidence swaps of the last 60 s (R414). -/
  swaps : List (Nat × Instant) := []
  /-- Corrected errors of lanes, and PAD faults of channels, of the last 24 h: unit and instant (R413). -/
  laneEcc : List (Nat × Instant) := []
  padAt : List (Nat × Instant) := []
  /-- Evidence that stands and was reported: class, unit and cause (R413). -/
  evidence : List (Nat × Nat × Nat) := []
  /-- The last second that was sampled, and since it the accumulators of the process monitors' drift over the hour, and
  of the 50 monitors over the day and the month, with the second at which each began. -/
  sampled : Option Nat := none
  hourAcc : List MonAcc := []
  dayAcc : List MonAcc := []
  monthAcc : List MonAcc := []
  dayAt : Nat := 0
  monthAt : Nat := 0
  daySamples : Nat := 0
  monthSamples : Nat := 0
  /-- Daily means of the drifts, newest first, in units of 2^-64 (R418); records written of a day and of a month. -/
  days : List (List (Option Int)) := []
  dayRecs : Nat := 0
  monthRecs : Nat := 0
deriving DecidableEq, Repr

/-- Fuses and keys (R423 to R429). -/
structure TrustState where
  /-- Digest of the owner key in the fuses; the owner key matches it in this boot. -/
  ownerFuse : Option (List Byte) := none
  ownerOk : Bool := false
  v0Revoked : Bool := false
  /-- A first enrolment or revocation word, and its instant. -/
  first : Option (Word × Instant) := none
deriving DecidableEq, Repr

/-- A PLL beyond its registers: instant of the last start of an acquisition or of its lock, failures in a row, and the
last loss of lock. -/
structure PllState where
  acq : Option Instant := none
  /-- The band chosen at the start of the acquisition (R435). -/
  band : Option Nat := none
  lockAt : Instant := 0
  fails : Nat := 0
  lost : Option Instant := none
deriving DecidableEq, Repr

/-- Clocks, supplies and monitors: the PLLs, a band measurement (PLL, band, start), and the droop of each island's rails,
key 2 × island + rail (0 VDD_CORE, 1 VDD_SRAM): 1 below −3 %, 2 below −6 % (R448). -/
structure ClkState where
  plls : Vector PllState 2 := Vector.replicate 2 {}
  band : Option (Nat × Nat × Instant) := none
  sag : List (Nat × Nat) := []
  /-- Since when a sensor has been at or above 140 °C (R450). -/
  hot : Option Instant := none
  /-- Temperatures and voltages have been sampled since reset: the records of their extremes stand. -/
  tempUp : Bool := false
  voltUp : Bool := false
  /-- The vault runs from VBAT; and has done so since the last reset (R447). -/
  onVbat : Bool := false
  ranVbat : Bool := false
  /-- The real-time clock as it was last set, and when: seconds, and the instant of local tempo. -/
  rtc : Option (Nat × Instant) := none
  /-- The part is held in reset with this cause. -/
  held : Option Nat := none
  /-- The firmware failed verification and the part remains in the boot ROM (R425). -/
  romOnly : Bool := false
  /-- Banks of VDDIO that stood at 3.3 V at the release of reset (R459). -/
  banks : BitVec 3 := 0
deriving DecidableEq, Repr

/-- A learned source address (R362): address, port and when it was last seen. -/
structure MacEntry where
  mac : Nat
  port : Nat
  seen : Instant
deriving DecidableEq, Repr

/-- An entry of the duplicate table (R364, R365): source, sequence number, when it was received, and the ports to which
the frame has been forwarded. -/
structure DupEntry where
  src : Nat
  seq : Nat
  at_ : Instant
  port : Nat
deriving DecidableEq, Repr

/-- The Ethernet switch beyond its registers: both tables, newest entries first; the next sequence numbers; when
supervision frames last left; and the ingress time of the last Pdelay_Req of each port. -/
structure EthState where
  macs : List MacEntry := []
  dups : List DupEntry := []
  seq : Nat := 0
  supSeq : Nat := 0
  supAt : Option Instant := none
  pdReq : List (Nat × Instant) := []
deriving DecidableEq, Repr
/-- Everything the part holds but the queue of waiting commands. -/
structure Part where
  /-- The instant the part has reached (R7). -/
  now : Instant := 0
  /-- How many free values have been taken: the model's own field. -/
  freeCount : Nat := 0
  /-- Registers and staged copies, by offset from 0x00_4000_0000; unlisted offsets hold their reset value. -/
  regs : WordFile := []
  bus : BusState := {}
  commits : List PendCommit := []
  joint : Option JointCommit := none
  log : List LogEntry := []
  lanes : Vector Lane 8 := Vector.replicate 8 {}
  cle : Vector CleGroup 2 := Vector.replicate 2 {}
  /-- GPIO pins that the active cyclic image owns as outputs (R284). -/
  gpioTask : Word := 0
  mem : MemState := {}
  lib : SeqLib := {}
  /-- What the part has sent, newest first. -/
  out : List OutMsg := []
  sense : SenseState := {}
  pwm : PwmState := {}
  pos : Vector PosIf 4 := Vector.replicate 4 {}
  ramps : Vector RampCh 16 := Vector.replicate 16 {}
  core : CoreState := {}
  cyc : CycState := {}
  ops : Vector OpSlot 8 := Vector.replicate 8 {}
  /-- Writes of OP_CMD accepted so far. -/
  opCount : Nat := 0
  rsvLog : List RsvEntry := []
  pair_ : PairState := {}
  ring : RingState := {}
  time : TimeState := {}
  cap : CapState := {}
  safe : SafeState := {}
  measLog : List MeasEntry := []
  health : HealthState := {}
  trust : TrustState := {}
  clk : ClkState := {}
  eth : EthState := {}
deriving DecidableEq, Repr

/-- The state: the part, and the commands that wait, first in, first out. -/
structure State where
  part : Part := {}
  pending : List Instr := []
deriving DecidableEq, Repr

/-- The state right after reset: every register at its reset value, memories with nothing listed, an empty queue. -/
def State.reset : State := {}

/-- Why a step stops with a fault: the type has no constructor, since no command of the part stops so; the spec gives
every step an effect, or an access that is answered and recorded (R33). -/
inductive Fault
deriving DecidableEq, Repr

/-- Why a step has no meaning. -/
inductive Refusal
  /-- Raised by `exec` for a command that has no meaning in the model yet, by its mnemonic: safe. -/
  | notModelled (mnemonic : String)
deriving DecidableEq, Repr

end Sys2Proof.Machine
end

