-- ==== Sys2Proof/Machine/Ops.lean ====
section
/-! DEFINITION. The named operations over the part's registers, memories, time, free values, event log and queues, that
every family of commands uses. -/

namespace Sys2Proof.Machine

/-- Whether a command changes the part at all: not while it is held in reset (R432, R446, R450), and not while it remains in
the boot ROM because its firmware failed verification (R425). -/
def Part.alive (p : Part) : Bool := p.clk.held.isNone && !p.clk.romOnly

/-- A meaning: the part changes, the queue stands, and the command completes. -/
def State.run (s : State) (f : Part → Part) : Host.Outcome State Fault Refusal :=
  .next { s with part := if s.part.alive then f s.part else s.part }

/-- A meaning of the host SPI port, which the boot ROM serves too (R425). -/
def State.runRom (s : State) (f : Part → Part) : Host.Outcome State Fault Refusal :=
  .next { s with part := if s.part.clk.held.isNone then f s.part else s.part }

/-- A meaning of the reset logic and the vault, which act while the part is held in reset too. -/
def State.runAlways (s : State) (f : Part → Part) : Host.Outcome State Fault Refusal :=
  .next { s with part := f s.part }

/-! Registers. -/

/-- The form of the register file that every operation keeps: offsets strictly rising, no entry at its reset value. -/
def Part.regsWf (p : Part) : Bool := sCanon regReset p.regs

/-- The word stored for offset `off`. -/
def Part.reg (p : Part) (off : Nat) : Word := sGet regReset p.regs off

/-- Store a word for offset `off`. -/
def Part.setReg (p : Part) (off : Nat) (v : Word) : Part := { p with regs := sSet regReset p.regs off v }

/-- Field of the register at `off`. -/
def Part.fld (p : Part) (off lo w : Nat) : Nat := bits (p.reg off) lo w

/-- Set a field of the register at `off`. -/
def Part.setFld (p : Part) (off lo w n : Nat) : Part := p.setReg off (setBits (p.reg off) lo w n)

/-- Bit of the register at `off`. -/
def Part.bit (p : Part) (off i : Nat) : Bool := bitAt (p.reg off) i

/-- Set a bit of the register at `off`. -/
def Part.setBit (p : Part) (off i : Nat) (b : Bool) : Part := p.setFld off i 1 b.toNat

/-- Set bits of an event register (R11: hardware sets a W1C bit). -/
def Part.raise (p : Part) (off i : Nat) : Part := p.setBit off i true

/-- Set bits of an event register when a condition holds. -/
def Part.raiseIf (p : Part) (c : Bool) (off i : Nat) : Part := if c then p.raise off i else p

/-- A saturating count in a field. -/
def Part.countSat (p : Part) (off lo w : Nat) : Part := p.setFld off lo w (satInc w (p.fld off lo w))

/-- A wrapping count in a field. -/
def Part.countWrap (p : Part) (off lo w : Nat) : Part := p.setFld off lo w (p.fld off lo w + 1)

/-- The staged copy of the ST register at `off` (R24). -/
def Part.staged (p : Part) (off : Nat) : Word := p.reg (stagedOff off)

/-- The 64-bit value of a _LO/_HI pair (R10). -/
def Part.pair (p : Part) (lo : Nat) : Nat := (p.reg lo).toNat + (p.reg (lo + 4)).toNat * 2 ^ 32

/-- Store a 64-bit value in a _LO/_HI pair. -/
def Part.setPair (p : Part) (lo n : Nat) : Part :=
  (p.setReg lo (BitVec.ofNat 32 n)).setReg (lo + 4) (BitVec.ofNat 32 (n / 2 ^ 32))

/-- Apply a change when a condition holds. -/
def Part.when (p : Part) (c : Bool) (f : Part → Part) : Part := if c then f p else p

/-- Apply a change for each element of a list, in order. -/
def Part.each {α : Type} (p : Part) (l : List α) (f : Part → α → Part) : Part := l.foldl f p

/-! Time: instants count 2^-16 ns (R7). -/

/-- The length of `n` nanoseconds. -/
def nsec (n : Nat) : Nat := n * 65536

/-- The length of `n` microseconds. -/
def usec (n : Nat) : Nat := nsec (1000 * n)

/-- The length of `n` milliseconds. -/
def msec (n : Nat) : Nat := usec (1000 * n)

/-- The length of `n` seconds. -/
def sec (n : Nat) : Nat := msec (1000 * n)

/-- One step of the delay line and the time-to-digital converter: 78.125 ps. -/
def tdcStep : Nat := 5120

/-- The nanoseconds word of an instant. -/
def instNs (t : Instant) : Nat := t / 65536 % 1000000000

/-- The seconds of an instant. -/
def instSec (t : Instant) : Nat := t / 65536 / 1000000000

/-- The fraction word of an instant. -/
def instFr (t : Instant) : Nat := t % 65536

/-- The instant of the low 32 bits of seconds and nanoseconds, as the time registers hold them. -/
def instOf (secs ns : Nat) : Instant := sec secs + nsec ns

/-- Whether a nanoseconds word is one that a block takes (R7): a time of day with 1 000 000 000 or more is refused. -/
def nsValid (ns : Word) : Bool := ns.toNat < 1000000000

/-- A length of time given as an FP32 number of seconds. -/
def fpSeconds (w : Word) : Nat := (fpToUnits w (sec 1)).toNat

/-- Reach an instant; time does not run back. -/
def Part.at (p : Part) (t : Instant) : Part := { p with now := max p.now t }

/-- The ring time of an instant of local tempo (R372). -/
def Part.ringOf (p : Part) (t : Instant) : Instant := ((t : Int) + p.time.off).toNat

/-- The present ring time. -/
def Part.ringNow (p : Part) : Instant := p.ringOf p.now

/-- The ring time of low seconds and nanoseconds, in the 2^32 s of the present (R7). -/
def Part.ringFull (p : Part) (secs ns : Nat) : Instant := instOf (instSec p.ringNow / 2 ^ 32 * 2 ^ 32 + secs) ns

/-- Reach an instant given in ring time. -/
def Part.atRing (p : Part) (t : Instant) : Part := p.at ((t : Int) - p.time.off).toNat

/-- Store an instant in a nanoseconds word and a word of the low 32 bits of seconds. -/
def Part.setTime (p : Part) (lo : Nat) (t : Instant) : Part :=
  (p.setReg lo (BitVec.ofNat 32 (instNs t))).setReg (lo + 4) (BitVec.ofNat 32 (instSec t))

/-- Store an instant in a timestamp triple (R196): the fraction in multiples of 0x1400. -/
def Part.setStamp (p : Part) (lo : Nat) (t : Instant) : Part :=
  (p.setTime lo t).setReg (lo + 8) (BitVec.ofNat 32 (instFr t / 0x1400 * 0x1400))

/-! Free values. -/

/-- Take the next free value: a value the spec leaves open. -/
def Part.fresh (p : Part) : BitVec 64 := Config.free p.freeCount

/-- The part after a free value has been taken. -/
def Part.taken (p : Part) : Part := { p with freeCount := p.freeCount + 1 }

/-- The next free value as a word. -/
def Part.freshWord (p : Part) : Word := p.fresh.setWidth 32

/-- The next free value as a truth value. -/
def Part.freshBool (p : Part) : Bool := p.fresh.getLsbD 0

/-- The next free value as a number below `n`. -/
def Part.freshBelow (p : Part) (n : Nat) : Nat := p.fresh.toNat % n

/-! Vectors by number. -/

/-- Element `i`, or the first reset value where `i` is beyond the end. -/
def vget {α : Type} {n : Nat} (d : α) (v : Vector α n) (i : Nat) : α := v.toList.getD i d

/-- The vector with element `i` replaced. -/
def vset {α : Type} {n : Nat} (v : Vector α n) (i : Nat) (x : α) : Vector α n := v.setIfInBounds i x

/-- Lane `n`. -/
def Part.lane (p : Part) (n : Nat) : Lane := vget {} p.lanes n

/-- Replace lane `n`. -/
def Part.setLane (p : Part) (n : Nat) (l : Lane) : Part := { p with lanes := vset p.lanes n l }

/-- Change lane `n`. -/
def Part.onLane (p : Part) (n : Nat) (f : Lane → Lane) : Part := p.setLane n (f (p.lane n))

/-- What the CLE holds for a group. -/
def Part.cg (p : Part) (g : Grp) : CleGroup := vget {} p.cle g.ix

/-- Replace what the CLE holds for a group. -/
def Part.setCg (p : Part) (g : Grp) (c : CleGroup) : Part := { p with cle := vset p.cle g.ix c }

/-- Change what the CLE holds for a group. -/
def Part.onCg (p : Part) (g : Grp) (f : CleGroup → CleGroup) : Part := p.setCg g (f (p.cg g))

/-! Memory: bytes by physical address. -/

/-- The defaults of the sequencing library's words +0x40 to +0x7C (Table 3.10). -/
def libDefaults : List Word :=
  [0x400CCCCD, 0x3F666666, 0x41200000, 0x3DCCCCCD, 0x3CA3D70A, 0x3D75C28F, 0x3D4CCCCD, 0x3B03126F, 0x071C71C7,
   0x42700000, 0x3C23D70A, 0x3B83126F, 0x3F800000, 0, 0, 4]

/-- The defaults of the self-scan settings +0x00 to +0x20 (Table 4.7). -/
def scanDefaults : List Word :=
  [0, 0x42700000, 0x3C23D70A, 0x40A00000, 0x459C4000, 0x3CA3D70A, 0x3CA3D70A, 0x3D4CCCCD, 0]

/-- The defaults of one tracked notch (Table 4.7). -/
def notchDefaults : List Word := [0xFF, 0x40A00000, 0x459C4000, 0x41200000]

/-- The word that an unlisted word of memory reads as: the defaults of Tables 3.10 and 4.7 in retained data, 0 elsewhere. -/
def blankWord (a : Nat) : Word :=
  if a / 64 = 0x21FF0040 / 64 then libDefaults.getD (a % 64 / 4) 0
  else if a / 512 = 0x21FE0000 / 512 then
    let o := a % 256
    if o < 0x24 then scanDefaults.getD (o / 4) 0
    else if 0x30 ≤ o && o < 0x70 then notchDefaults.getD ((o - 0x30) % 16 / 4) 0
    else 0
  else 0

/-- What an unlisted byte reads as. -/
def memBlank (a : Nat) : Byte := BitVec.ofNat 8 ((blankWord a).toNat >>> (8 * (a % 4)))

/-- The byte at a physical address. -/
def Part.byte (p : Part) (a : Nat) : Byte := sGet memBlank p.mem.bytes a

/-- Store a byte. -/
def Part.setByte (p : Part) (a : Nat) (b : Byte) : Part :=
  { p with mem := { p.mem with bytes := sSet memBlank p.mem.bytes a b } }

/-- The `k` bytes from address `a`, as a little-endian number (R8). -/
def Part.load (p : Part) (a : Nat) : Nat → Nat
  | 0 => 0
  | k + 1 => (p.byte a).toNat + 256 * p.load (a + 1) k

/-- Place bytes from address `a` up. -/
def Part.placeBytes (p : Part) (a : Nat) : List Byte → Part
  | [] => p
  | b :: bs => (p.setByte a b).placeBytes (a + 1) bs

/-- Whether a slot's reservation is for a word that `n` bytes from `a` touch. -/
def CoreSlot.reserves (x : CoreSlot) (a n : Nat) : Bool := x.resv.any (fun r => decide (a < r + 4 ∧ r < a + n))

/-- A store to a reserved word ends the reservation (R251). -/
def Part.breakResv (p : Part) (a n : Nat) : Part :=
  let c := p.core
  if c.slots.toList.any (·.reserves a n) then
    { p with core := { c with slots := c.slots.map (fun x => if x.reserves a n then { x with resv := none } else x) } }
  else p

/-- A write of a whole 64-bit word clears its poison (R271). -/
def Part.clearPoison (p : Part) (a n : Nat) : Part :=
  if p.mem.poison.isEmpty then p
  else { p with mem := { p.mem with poison := p.mem.poison.filter (fun w => !(a ≤ w && w + 8 ≤ a + n)) } }

/-- Store bytes from address `a` up. -/
def Part.storeBytes (p : Part) (a : Nat) (bs : List Byte) : Part :=
  ((p.placeBytes a bs).clearPoison a bs.length).breakResv a bs.length

/-- Store a little-endian number of `k` bytes. -/
def Part.store (p : Part) (a k n : Nat) : Part := p.storeBytes a (bytesOf k n)

/-- The bytes from address `a`. -/
def Part.loadBytes (p : Part) (a : Nat) : Nat → List Byte
  | 0 => []
  | k + 1 => p.byte a :: p.loadBytes (a + 1) k

/-- The word at address `a`. -/
def Part.loadWord (p : Part) (a : Nat) : Word := BitVec.ofNat 32 (p.load a 4)

/-- Store a word. -/
def Part.storeWord (p : Part) (a : Nat) (w : Word) : Part := p.store a 4 w.toNat

/-- The form of memory that every operation keeps: addresses strictly rising, no entry equal to what an unlisted address
reads as. -/
def MemState.wf (m : MemState) : Bool := sCanon memBlank m.bytes

/-! Queues (R268, R269). -/

/-- Entries of queue `q` in use. -/
def Part.queueFill (p : Part) (q : Nat) : Nat :=
  (p.fld (Reg.QUE_PIDX q) 0 16 + 65536 - p.fld (Reg.QUE_CIDX q) 0 16) % 65536

/-- The size of the ring of queue `q`. -/
def Part.queueSize (p : Part) (q : Nat) : Nat := 2 ^ p.fld (Reg.QUE_CFG q) 24 4

/-- Address of the entry of queue `q` with free-running index `i` (R268). -/
def Part.queueEntry (p : Part) (q i : Nat) : Nat :=
  p.pair (Reg.QUE_BASE_LO q) % 2 ^ 40 + i % p.queueSize q * (p.fld (Reg.QUE_CFG q) 16 8 * 16)

/-- A hardware producer places an entry: with the queue off nothing happens; with the queue full the entry is dropped
and counted in OVF (R269); otherwise the entry is stored and the producer index advances. -/
def Part.produce (p : Part) (q : Nat) (entry : List Byte) : Part :=
  if !p.bit (Reg.QUE_CFG q) 31 then p
  else if p.queueSize q ≤ p.queueFill q then p.countSat (Reg.QUE_PIDX q) 16 16
  else
    let i := p.fld (Reg.QUE_PIDX q) 0 16
    (p.storeBytes (p.queueEntry q i) (entry.take (p.fld (Reg.QUE_CFG q) 16 8 * 16))).setFld (Reg.QUE_PIDX q) 0 16 (i + 1)

/-! The event log and HOST_STATUS. -/

/-- Write an entry of the event log, queue Q30 (R39); the spec gives no layout of its bytes, which are free. -/
def Part.logEvent (p : Part) (code : LogCode) (args : List Nat) : Part :=
  let p := { p with log := { time := p.ringNow, code := code, args := args } :: p.log }
  let e := bytesOf 8 p.fresh.toNat
  (p.taken).produce 30 (e ++ e ++ e ++ e)

/-- Sticky flag FAULT of HOST_STATUS: a trip, gate fault, halt, watchdog stop or double fault (Table 11.10). -/
def Part.hostFault (p : Part) : Part := p.setBit Reg.HOST_STATUS_LO 7 true

/-- Sticky flag WARNING of HOST_STATUS: an event logged at warning level. -/
def Part.hostWarning (p : Part) : Part := p.setBit Reg.HOST_STATUS_LO 6 true

/-- Sticky flag CUTIN of HOST_STATUS. -/
def Part.hostCutin (p : Part) : Part := p.setBit Reg.HOST_STATUS_LO 5 true

/-- Sticky flag RESERVE of HOST_STATUS: a reserve came into service. -/
def Part.hostReserve (p : Part) : Part := p.setBit Reg.HOST_STATUS_LO 4 true

/-- The role in force (Table 1.16), in PAIR_STAT. -/
def Part.role (p : Part) : Nat := p.fld Reg.PAIR_STAT 0 4

/-- Whether the part holds the floor, in PAIR_STAT. -/
def Part.floor (p : Part) : Bool := p.bit Reg.PAIR_STAT 31

/-! CRCs. -/

/-- One bit of a reflected CRC of 32 bits with the reflected polynomial `poly`. -/
def crcBit (poly : Nat) (c : Nat) : Nat := if c % 2 = 1 then (c / 2) ^^^ poly else c / 2

/-- `k` bits of a reflected CRC. -/
def crcBits (poly : Nat) : Nat → Nat → Nat
  | 0, c => c
  | k + 1, c => crcBits poly k (crcBit poly c)

/-- The reflected CRC state after bytes. -/
def crcBytes (poly : Nat) (c : Nat) (bs : List Byte) : Nat :=
  bs.foldl (fun c b => crcBits poly 8 (c ^^^ b.toNat)) c

/-- Reflected polynomial of CRC-32C, 0x1EDC_6F41 (R114). -/
def crc32cPoly : Nat := 0x82F63B78

/-- CRC-32C of bytes: initial value all ones, final inversion (R114). -/
def crc32c (bs : List Byte) : Nat := crcBytes crc32cPoly 0xFFFFFFFF bs ^^^ 0xFFFFFFFF

end Sys2Proof.Machine
end

