-- ==== Sys2Proof/Machine/Status.lean ====
section
/-! DEFINITION. Commit and status registers (R27 to R29), and the move of a CLE set whose group stops (R25). -/

namespace Sys2Proof.Machine

/-- Offset of the block of a unit. -/
def unitBlock : CUnit → Nat
  | .cle _ => 0x100000
  | .sense _ => 0x120000
  | .pwm _ => 0x150000
  | .pos => 0x170000
  | .cap => 0x190000
  | .gpio => 0x240000
  | .auxadc => 0x130000
  | .prot => 0x140000
  | .gate => 0x160000
  | .ramp => 0x180000
  | .nvm => 0x60000
  | .cyc => 0xC0000
  | .ring => 0x200000
  | .pair => 0x210000
  | .eth => 0x220000
  | .time => 0x230000
  | .spare => 0x40000
  | .clk => 0x10000
  | .pwr => 0x20000
  | .mon => 0x30000

/-- The commit status register of a unit (Table 1.5); its commit register stands 4 below. -/
def unitStat : CUnit → Nat
  | .cle g => Reg.CLE_CSTAT g.ix
  | .sense g => Reg.SENSE_CSTAT g.ix
  | .pwm g => Reg.PWM_CSTAT g.ix
  | u => unitBlock u + 0x7F04

/-- A status word of Table 1.7; OFFSET comes from a byte offset. -/
def cstatWord (tag reason off state : Nat) : Word :=
  BitVec.ofNat 32 (tag % 256 * 2 ^ 24 + reason % 256 * 2 ^ 16 + off % 65536 / 4 * 4 + state)

/-- STATE shows moved; OFFSET holds PWM_USEQ [13:0] of the group's timebase where a group is named (R26). -/
def Part.showMoved (p : Part) (e : Nat × Option Grp) : Part :=
  let q := match e.2 with
    | some g => p.fld (Reg.PWM_USEQ g.ix) 0 14
    | none => 0
  p.setReg e.1 (cstatWord (p.fld e.1 24 8) 0 (4 * q) 2)

/-- The words of a snapshot become the committed ones. -/
def Part.placeSnap (p : Part) (snap : WordFile) : Part := p.each snap (fun p e => p.setReg e.1 e.2)

/-- A moved CLE set: the bands are computed without hysteresis where the scheduling set changed (R124). -/
def Part.cleMoved (p : Part) (g : Grp) (old : Nat → Word) : Part :=
  let i := g.ix
  let regs := Reg.CLE_SVSEL i :: (List.range 12).map (Reg.CLE_THR i) ++ (List.range 12).map (Reg.CLE_HYS i)
    ++ (List.range 16).map (Reg.CLE_RGN i)
  if regs.any (fun o => old o ≠ p.reg o) then p.onCg g (fun c => { c with bandsFresh := true }) else p

/-- A CLE set that waits for the ticks of a group moves at the instant the group stops (R25). -/
def Part.cleStopMove (p : Part) (g : Grp) : Part :=
  let u := CUnit.cle g
  match p.commits.find? (fun c => c.unit = u) with
  | none => p
  | some c =>
    let q := { p with commits := p.commits.filter (fun x => x.unit ≠ u) }
    ((q.placeSnap c.snap).cleMoved g q.reg).showMoved (unitStat u, some g)

end Sys2Proof.Machine
end

