-- ==== Sys2Proof/Machine/Image.lean ====
section
/-! DEFINITION. What the figure image in force declares (Table 5.9, Table 5.10, R165 to R170), read from its words. -/

namespace Sys2Proof.Machine

/-- Bytes of a figure image (Table 5.9). -/
def imageBytes : Nat := 0x7A000

/-- Word at byte offset `off` of an image. -/
def imgWord (img : WordFile) (off : Nat) : Word := sGet (fun _ => 0) img (off / 4)

/-- Word of the image in force of a group. -/
def Part.img (p : Part) (g : Grp) (off : Nat) : Word := imgWord (p.cg g).img off

/-- Type of export port `k` (R167): 0 FP32, 1 integer, 2 angle, 3 unused; ports of a group without a figure are unused. -/
def Part.epType (p : Part) (g : Grp) (k : Nat) : Nat :=
  if (p.cg g).loaded then bits (p.img g (0x100 + 8 * k)) 0 2 else 3

/-- Safe value of export port `k` (R108, R167). -/
def Part.epSafe (p : Part) (g : Grp) (k : Nat) : Word := p.img g (0x104 + 8 * k)

/-- Safe duty of compare `sel` of pair `q` (R109). -/
def Part.safeDuty (p : Part) (g : Grp) (q : Nat) (sel : Bool) : Word := p.img g (0xC00 + 8 * q + 4 * sel.toNat)

/-- NBUNDLE of the image in force. -/
def Part.figBundles (p : Part) (g : Grp) : Nat := (p.img g 0x14).toNat

/-- FIG_ID of the image in force. -/
def Part.figId (p : Part) (g : Grp) : Nat := bits (p.img g 0x08) 0 16

/-- An image comes into force in a group. -/
def CleGroup.withImage (c : CleGroup) (img : WordFile) : CleGroup :=
  { c with img := img, loaded := true, isGrid := Config.isGridFigure (bits (imgWord img 0x08) 0 16) }

/-- The words of an image in memory, from the address of its slot. -/
def Part.readImage (p : Part) (a : Nat) : WordFile :=
  (p.mem.bytes.filter (fun c => a ≤ c.1 && c.1 < a + imageBytes)).foldl (fun f c =>
    let k := (c.1 - a) / 4
    if (sFind f k).isSome then f else sSet (fun _ => 0) f k (p.loadWord (a + 4 * k))) []

end Sys2Proof.Machine
end

