-- ==== Sys2Proof/Machine/Sys.lean ====
section
/-! DEFINITION. Decode errors, transaction entries and the general-purpose pins (chapter 1). -/

namespace Sys2Proof.Machine

/-! Decode errors (R33, R42). -/

/-- An access to an unassigned or reserved address, or one that a rule answers so: SYS_DECERR is set, the error is
counted with the initiator's code, and its address is recorded. -/
def Part.decodeError (p : Part) (ini : Initiator) (addr : Nat) : Part :=
  ((p.countSat Reg.SYS_DECERR 16 16).setFld Reg.SYS_DECERR 4 4 ini.code).setBit Reg.SYS_DECERR 0 true
    |>.setReg Reg.SYS_DECERR_ADDR_LO (BitVec.ofNat 32 addr)
    |>.setReg Reg.SYS_DECERR_ADDR_HI (BitVec.ofNat 32 (addr / 2 ^ 32 % 256))

/-- The base of the register blocks in the local address space (Table 1.10). -/
def regBase : Nat := 0x40000000

/-- What a read returns, and whether it completed. -/
def Part.answer (p : Part) (w : Word) (ok : Bool) : Part := { p with bus := { p.bus with rdata := w, rok := ok } }

/-- DECODE_ERROR_ACCESS: a read returns 0 and a write has no effect; the error is recorded (R33). -/
def execDecodeErrorAccess (ini : Initiator) (addr : Addr) (isWrite : Bool) (_v : Word) (s : State) :=
  s.run (fun p => (p.decodeError ini addr.toNat).when (!isWrite) (·.answer 0 true))

/-! Transaction entries (R40, Table 1.15). -/

/-- Entries reserved to a requester: 8 to each core pair, 2 to each DMA channel, 8 to the host port, 16 to the ring
ports, 8 each to the Ethernet switch and the capture engine. -/
def reservedEntries : Initiator → Nat
  | .core _ => 8
  | .dma _ => 2
  | .host => 8
  | .ring => 16
  | .eth => 8
  | .cap => 8

/-- Count kept under a requester's number. -/
def countOf (l : List (Nat × Nat)) (i : Nat) : Nat := sGet (fun _ => 0) l i

/-- Entries of an initiator code's requesters summed over a count. -/
def codeSum (l : List (Nat × Nat)) (code : Nat) : Nat :=
  if code = 4 then ((List.range 16).map (fun c => countOf l (4 + c))).sum
  else if code < 4 then countOf l code
  else countOf l (code + 15)

/-- Show the present counts of an initiator code in SYS_OCC_i and of the pool in SYS_POOL, keeping their peak records
(Table 1.17). -/
def Part.showOcc (p : Part) (code : Nat) : Part :=
  let pool := codeSum p.bus.pool code
  let held := codeSum p.bus.resv code + pool
  let free := p.fld Reg.SYS_POOL 0 8
  (((p.setFld (Reg.SYS_OCC code) 0 8 held).setFld (Reg.SYS_OCC code) 8 8 pool).setFld (Reg.SYS_OCC code) 16 8
      (max held (p.fld (Reg.SYS_OCC code) 16 8))).setFld Reg.SYS_POOL 8 8 (min free (p.fld Reg.SYS_POOL 8 8))

/-- A transaction of `ini` ends: its pool entry goes back first, else its reserved one. -/
def Part.endTransaction (p : Part) (ini : Initiator) : Part :=
  let i := ini.ix
  let z : Nat → Nat := fun _ => 0
  let b := p.bus
  if 0 < countOf b.pool i then
    ({ p with bus := { b with pool := sSet z b.pool i (countOf b.pool i - 1) } }.setFld Reg.SYS_POOL 0 8
      (p.fld Reg.SYS_POOL 0 8 + 1)).showOcc ini.code
  else { p with bus := { b with resv := sSet z b.resv i (countOf b.resv i - 1) } }.showOcc ini.code

/-- A transaction of `ini` asks for an entry: it takes a reserved one, else one of the pool, else it waits; none is
refused (R40). A grant to a requester with a waiting transaction serves that transaction. -/
def Part.askEntry (p : Part) (ini : Initiator) : Part :=
  let i := ini.ix
  let z : Nat → Nat := fun _ => 0
  let b := p.bus
  let served := { b with waiting := sSet z b.waiting i (countOf b.waiting i - 1) }
  if countOf b.resv i < reservedEntries ini then
    { p with bus := { served with resv := sSet z b.resv i (countOf b.resv i + 1) } }.showOcc ini.code
  else if 0 < p.fld Reg.SYS_POOL 0 8 then
    ({ p with bus := { served with pool := sSet z b.pool i (countOf b.pool i + 1) } }.setFld Reg.SYS_POOL 0 8
      (p.fld Reg.SYS_POOL 0 8 - 1)).showOcc ini.code
  else if 0 < countOf b.waiting i then p
  else { p with bus := { b with waiting := sSet z b.waiting i 1 } }

/-- TRANSACTION_ENTRY_GRANT: transactions of the requesters in `ends` end and give back their entries, and then the transaction of
`ini`, where one is named, takes an entry or waits (R40). Without it the step only frees entries. -/
def execTransactionEntryGrant (ini : Option Initiator) (ends : List Initiator) (s : State) :=
  s.run (fun p =>
    let p := p.each ends (·.endTransaction)
    match ini with
    | some q => p.askEntry q
    | none => p)

/-- SYS_OCC_READ: register 0 to 8 is SYS_OCC_i, 9 is SYS_POOL; the value is returned and the peak record restarts from
the present value (R42). -/
def Part.occRead (p : Part) (i : Nat) : Part :=
  if i = 9 then (p.answer (p.reg Reg.SYS_POOL) true).setFld Reg.SYS_POOL 8 8 (p.fld Reg.SYS_POOL 0 8)
  else (p.answer (p.reg (Reg.SYS_OCC i)) true).setFld (Reg.SYS_OCC i) 16 8 (p.fld (Reg.SYS_OCC i) 0 8)

/-- SYS_OCC_READ. -/
def execSysOccRead (reg : Fin 10) (s : State) := s.run (·.occRead reg.val)

/-! General-purpose pins (R43). -/

/-- GPIO_EDGE: the pin's filtered level, inverted where INV is set, is shown in GPIO_IN, and an edge that EDGE selects
sets its event bit (R43). -/
def Part.gpioLevel (p : Part) (pin : Nat) (level : Bool) : Part :=
  let cfg := Reg.GPIO_CFG pin
  let new := xor level (p.bit cfg 25)
  let old := p.bit Reg.GPIO_IN pin
  let edge := p.fld cfg 26 2
  (p.setBit Reg.GPIO_IN pin new).raiseIf
    ((new && !old && edge % 2 = 1) || (!new && old && edge / 2 = 1)) Reg.GPIO_EVT pin

/-- A committed INV shows in GPIO_IN at once. The polarity change itself is no edge of the pin and sets no event (DESIGN CHOICE,
log entry 61). -/
def Part.gpioMoved (p : Part) (old : Nat → Word) : Part :=
  p.each (List.range 32) (fun p i =>
    p.when (bitAt (old (Reg.GPIO_CFG i)) 25 ≠ p.bit (Reg.GPIO_CFG i) 25) (fun p =>
      p.setBit Reg.GPIO_IN i (!p.bit Reg.GPIO_IN i)))

/-- GPIO_EDGE. -/
def execGpioEdge (pin : Fin 32) (level : Bool) (s : State) := s.run (·.gpioLevel pin.val level)

/-- A software write to the latches: bits of owned pins are ignored and set GPIO_REF (R43). A whole write addresses
every latch, a set or clear write the bits written 1. -/
def Part.gpioLatch (p : Part) (kind : LatchWrite) (v : Word) : Part :=
  let own := p.reg Reg.GPIO_OWN
  let old := p.reg Reg.GPIO_OUT
  let (new, hit) := match kind with
    | .out => (v, own)
    | .set => (old ||| v, own &&& v)
    | .clr => (old &&& ~~~v, own &&& v)
  (p.setReg Reg.GPIO_OUT ((old &&& own) ||| (new &&& ~~~own))).setReg Reg.GPIO_REF (p.reg Reg.GPIO_REF ||| hit)

/-- GPIO_LATCH_WRITE. -/
def execGpioLatchWrite (kind : LatchWrite) (v : Word) (s : State) := s.run (·.gpioLatch kind v)

/-- Commit check of GPIO: PULL = 0b11 is refused with 0x01 (R43). The fault is the reason and the register. -/
def gpioCheck (val : Nat → Word) : Option (Nat × Nat) :=
  (List.range 32).findSome? (fun i => if bits (val (Reg.GPIO_CFG i)) 28 2 = 3 then some (1, Reg.GPIO_CFG i) else none)

end Sys2Proof.Machine
end

