-- ==== Sys2Proof/Machine/Mmu.lean ====
section
/-! DEFINITION. Address translation, TLBs and interrupts of the service slots (chapter 9, R257 to R263), and the
regions of the local address space (Table 1.10). -/

namespace Sys2Proof.Machine

/-! Regions. -/

/-- System SRAM. -/
def inSram (a : Nat) : Bool := 0x10000000 ≤ a && a < 0x10800000

/-- eMRAM. -/
def inEmram (a : Nat) : Bool := 0x20000000 ≤ a && a < 0x24000000

/-- Capture SRAM. -/
def inCapSram (a : Nat) : Bool := 0x30000000 ≤ a && a < 0x30800000

/-- A memory that the state holds byte by byte. -/
def inMem (a : Nat) : Bool := inSram a || inEmram a || inCapSram a

/-- The register blocks. -/
def inRegs (a : Nat) : Bool := 0x40000000 ≤ a && a < 0x40250000

/-- Whether the 64-bit word of an address holds an uncorrectable error (R271). -/
def Part.poisoned (p : Part) (a : Nat) : Bool := p.mem.poison.contains (a / 8 * 8)

/-- The words that the bytes of an access touch: for each its address, the first byte used and how many. -/
def touched (a n : Nat) : List (Nat × Nat × Nat) :=
  (List.range ((a + n + 3) / 4 - a / 4)).map (fun i =>
    let w := 4 * (a / 4 + i)
    let lo := max a w
    (w, lo - w, min (a + n) (w + 4) - lo))

/-! Error codes of the memories (R271, R272). The codes of R271 are those of system SRAM and eMRAM. -/

/-- A memory with error codes of its own. -/
def inEcc (a : Nat) : Bool := inSram a || inEmram a

/-- A write of a 64-bit word of eMRAM is counted; the largest count and its word are shown, and WEARWARN set once a word
passes 8·10^9 writes (R277). -/
def Part.wearWord (p : Part) (a : Nat) : Part :=
  let z : Nat → Nat := fun _ => 0
  let n := sGet z p.mem.wear a + 1
  let p := { p with mem := { p.mem with wear := sSet z p.mem.wear a n } }
  let top := (p.mem.wear.map (·.2)).foldl max 0
  let p := if n = top then
      (p.setReg Reg.NVM_WEARMAX (BitVec.ofNat 32 (min (n / 2 ^ 20) (2 ^ 32 - 1)))).setReg Reg.NVM_WEARADDR
        (BitVec.ofNat 32 ((a - 0x20000000) / 8 % 2 ^ 23))
    else p
  p.raiseIf (8 * 10 ^ 9 < n) Reg.NVM_EVT 1

/-- The words of eMRAM that a range touches are each counted once. -/
def Part.wearRange (p : Part) (a n : Nat) : Part :=
  p.each (List.range ((a + n + 7) / 8 - a / 8)) (fun p i => p.wearWord (8 * (a / 8 + i)))

/-- A corrected error at an address: counted with its address, noted for its row, and the word written back. -/
def Part.eccCorrected (p : Part) (a : Nat) : Part :=
  let p :=
    if inEmram a then ((p.countSat Reg.MMU_MECE 0 32).setPair Reg.MMU_MEADDR_LO a).wearWord (a / 8 * 8)
    else (p.countSat Reg.MMU_SECE 0 32).setPair Reg.MMU_SEADDR_LO a
  let row := if inEmram a then a / 2048 * 2048 else a / 1024 * 1024
  let l := p.mem.rowEcc
  let l := l.filter (fun e => !(e.1 = row && e.2.1 = a / 8 * 8))
  { p with mem := { p.mem with rowEcc := (row, a / 8 * 8, p.now) :: l } }

/-- The word of an address holds an uncorrectable error. -/
def Part.eccMark (p : Part) (a : Nat) : Part :=
  if p.poisoned a then p else { p with mem := { p.mem with poison := a / 8 * 8 :: p.mem.poison } }

/-- A read meets an uncorrectable error at an address: it is counted with its address, and the word is poisoned. -/
def Part.eccFatal (p : Part) (a : Nat) : Part :=
  (if inEmram a then (p.countSat Reg.MMU_MEUE 0 32).setPair Reg.MMU_MEADDR_LO a
    else (p.countSat Reg.MMU_SEUE 0 32).setPair Reg.MMU_SEADDR_LO a).eccMark a

/-- What has happened to words that a command reads: errors that the codes correct, and errors that they cannot, which the read
itself then meets. -/
def Part.eccFind (p : Part) (l : List EccFind) : Part :=
  p.each l (fun p e => if !inEcc e.addr then p else if e.fatal then p.eccMark e.addr else p.eccCorrected e.addr)

/-- The first poisoned word that the bytes of an access touch. -/
def Part.firstPoison (p : Part) (a n : Nat) : Option (Nat × Nat × Nat) :=
  if inEcc a then (touched a n).find? (fun e => p.poisoned e.1) else none

/-! Interrupts (R257, Table 9.3). -/

/-- Slot `k`. -/
def Part.slot (p : Part) (k : Nat) : CoreSlot := vget {} p.core.slots k

/-- Replace slot `k`. -/
def Part.setSlot (p : Part) (k : Nat) (x : CoreSlot) : Part :=
  { p with core := { p.core with slots := vset p.core.slots k x } }

/-- Change slot `k`. -/
def Part.onSlot (p : Part) (k : Nat) (f : CoreSlot → CoreSlot) : Part := p.setSlot k (f (p.slot k))

/-- An interrupt source rises: it is pending in every slot until that slot takes it. -/
def Part.irq (p : Part) (i : Nat) : Part :=
  p.each [0, 1, 2] (fun p k => p.onSlot k (fun x => { x with pend := x.pend ||| BitVec.ofNat 64 (2 ^ i) }))

/-- A queue's source condition (R270): fill for a hardware producer, free space otherwise. -/
def Part.queueReady (p : Part) (q : Nat) : Bool :=
  let thr := p.fld (Reg.QUE_CFG q) 0 16
  let hw := [20, 21, 25, 27, 28, 29, 30, 31].contains q
  let n := p.queueFill q
  thr ≠ 0 && (if hw then thr ≤ n else thr ≤ p.queueSize q - n)

/-- IPEND of a slot: the sources that rose, and the queues at their threshold (16 to 47). -/
def Part.ipend (p : Part) (k : Nat) : BitVec 64 :=
  (p.slot k).pend ||| BitVec.ofNat 64 ((List.range 32).map (fun q => if p.queueReady q then 2 ^ (16 + q) else 0)).sum

/-! Tables and TLBs. -/

/-- What an access does. -/
inductive Acc | fetch | read | write
deriving DecidableEq, Repr

/-- What translation can answer (R254): an error of the walk, no valid translation, a right not granted. -/
inductive XErr | walk | trans | perm
deriving DecidableEq, Repr

/-- Reserved bits [63:49] are 0, and so is the reserved ATTR where the entry is a leaf (R261). -/
def entryOk (e : Nat) (leaf : Bool) : Bool := e / 2 ^ 49 = 0 && !(leaf && e / 2 ^ 47 % 4 = 3)

/-- What a walk ends with: a leaf and whether it is a 1 MiB page, or an error with its level; and the table word that could not be
read, if that ended it. -/
structure WalkEnd where
  leaf : Except (XErr × Nat) (Nat × Bool)
  bad : Option Nat := none

/-- A table word is read: the walk goes on with it, or ends with an error. -/
def Part.walkWord (p : Part) (a level : Nat) (go : Nat → WalkEnd) : WalkEnd :=
  if !inEcc a then { leaf := .error (.walk, level) }
  else if p.poisoned a then { leaf := .error (.walk, level), bad := some a }
  else go (p.load a 8)

/-- The two-level walk (R258, R261). What makes an entry a walk error is judged before its V bit (R254). -/
def Part.walk (p : Part) (ttb va : Nat) : WalkEnd :=
  p.walkWord (ttb + 8 * (va / 2 ^ 20 % 2048)) 1 (fun e1 =>
    if !entryOk e1 (e1.testBit 41) then { leaf := .error (.walk, 1) }
    else if !e1.testBit 40 then { leaf := .error (.trans, 1) }
    else if e1.testBit 41 then { leaf := .ok (e1, true) }
    else p.walkWord (e1 % 2 ^ 40 / 2048 * 2048 + 8 * (va / 2 ^ 12 % 256)) 2 (fun e2 =>
      if !entryOk e2 true || !e2.testBit 41 then { leaf := .error (.walk, 2) }
      else if !e2.testBit 40 then { leaf := .error (.trans, 2) }
      else { leaf := .ok (e2, false) }))

/-- A walk with what it counts: walk errors, and a table word that could not be read (R261, R271). -/
def Part.walked (p : Part) (ttb va : Nat) : Part × Except (XErr × Nat) (Nat × Bool) :=
  let w := p.walk ttb va
  let p := w.bad.elim p p.eccFatal
  match w.leaf with
  | .error (.walk, l) => (p.countSat Reg.MMU_WALKERR 0 32, .error (.walk, l))
  | r => (p, r)

/-- Whether a cached leaf translates an address for an ASID (R260). -/
def TlbEntry.hits (e : TlbEntry) (va asid : Nat) : Bool :=
  e.page = va / (if e.big then 2 ^ 20 else 2 ^ 12) && (e.glob || e.asid = asid)

/-- The physical address of an address on a leaf's page. -/
def leafAddr (leaf : Nat) (big : Bool) (va : Nat) : Nat :=
  let n := if big then 2 ^ 20 else 2 ^ 12
  leaf % 2 ^ 40 / n * n + va % n

/-- The level that a leaf of a size stands at. -/
def leafLevel (big : Bool) : Nat := if big then 1 else 2

/-- Rights (R259): MONITOR reads every valid page, writes where W and fetches where X is set; TASK needs U besides; a
DMA access needs DMA, W to write, and U where the channel runs as TASK. -/
def allows (leaf : Nat) (acc : Acc) (task dma : Bool) : Bool :=
  (!task || leaf.testBit 42) && (!dma || leaf.testBit 46) && match acc with
    | .fetch => leaf.testBit 44
    | .read => true
    | .write => leaf.testBit 43

/-- What a leaf makes of an address: the physical address, ATTR (0 cached, 1 uncached, 2 a device), the level, and whether the access
is allowed. -/
structure Xlat where
  pa : Nat
  attr : Nat
  level : Nat
  ok : Bool
deriving DecidableEq, Repr

/-- A new entry among at most `cap`; a full TLB gives up one, of which the spec says nothing. -/
def Part.tlbPut (p : Part) (l : List TlbEntry) (cap : Nat) (e : TlbEntry) : Part × List TlbEntry :=
  if l.length < cap then (p, e :: l)
  else
    let i := p.freshBelow l.length
    (p.taken, e :: l.eraseIdx i)

/-- A table base and its ASID of a _LO/_HI pair (Table 9.10). -/
def Part.ttbOf (p : Part) (lo : Nat) : Nat × Nat :=
  ((p.reg lo).toNat / 2 ^ 14 * 2 ^ 14 + p.fld (lo + 4) 0 8 * 2 ^ 32, p.fld lo 0 8)

/-- The entry that caches a leaf. -/
def tlbEntryOf (va asid leaf : Nat) (big : Bool) : TlbEntry :=
  { page := va / (if big then 2 ^ 20 else 2 ^ 12), big := big, asid := asid, glob := leaf.testBit 45, leaf := leaf }

/-- An address of slot `k` translated, or the error and its level; hits, misses and walk errors are counted, and a leaf that is read
is cached. -/
def Part.slotXlate (p : Part) (k va : Nat) (acc : Acc) (task : Bool) : Part × Except (XErr × Nat) Xlat :=
  let (ttb0, asid) := p.ttbOf (Reg.MMU_CTX_LO k)
  let judge := fun (p : Part) (leaf : Nat) (big : Bool) =>
    let x : Xlat := { pa := leafAddr leaf big va, attr := leaf / 2 ^ 47 % 4, level := leafLevel big, ok := allows leaf acc task false }
    (p, (Except.ok x : Except (XErr × Nat) Xlat))
  match (p.slot k).tlb.find? (fun e => e.hits va asid) with
  | some e => judge (p.countWrap (Reg.MMU_TLBHIT k) 0 32) e.leaf e.big
  | none =>
    let p := p.countWrap (Reg.MMU_TLBMISS k) 0 32
    match p.walked (if va < 2 ^ 31 then ttb0 else (p.ttbOf (Reg.MMU_TTB1_LO k)).1) va with
    | (p, .error e) => (p, .error e)
    | (p, .ok (leaf, big)) =>
      let (p, l) := p.tlbPut (p.slot k).tlb 64 (tlbEntryOf va asid leaf big)
      judge (p.onSlot k (fun x => { x with tlb := l })) leaf big

/-- Show how many IOTLB entries are valid. -/
def Part.setIotlb (p : Part) (l : List TlbEntry) : Part :=
  ({ p with core := { p.core with iotlb := l } }).setFld Reg.MMU_IOSTAT 0 8 l.length

/-- An address of DMA channel `c` translated by the IOMMU (R263); with the IOMMU off every beat is refused. -/
def Part.ioXlate (p : Part) (c va : Nat) (acc : Acc) (task : Bool) : Part × Except (XErr × Nat) Nat :=
  let (ttb0, asid) := p.ttbOf (Reg.DMA_TTB_LO c)
  let judge := fun (p : Part) (leaf : Nat) (big : Bool) =>
    (p, if allows leaf acc task true then Except.ok (leafAddr leaf big va) else .error (XErr.perm, leafLevel big))
  if !p.bit Reg.MMU_IOCTL 0 then (p, .error (.trans, 0))
  else match p.core.iotlb.find? (fun e => e.hits va asid) with
    | some e => judge (p.countWrap Reg.MMU_IOHIT 0 32) e.leaf e.big
    | none =>
      let p := p.countWrap Reg.MMU_IOMISS 0 32
      match p.walked (if va < 2 ^ 31 then ttb0 else (p.ttbOf (Reg.MMU_TTB1_LO 0)).1) va with
      | (p, .error e) => (p, .error e)
      | (p, .ok (leaf, big)) =>
        let (p, l) := p.tlbPut p.core.iotlb 128 (tlbEntryOf va asid leaf big)
        judge (p.setIotlb l) leaf big

/-- What XLINV invalidates (R260), of a key word: every entry, an ASID's, a page's, or a page's for an ASID. -/
def invalidates (sfn : Nat) (key : Word) (e : TlbEntry) : Bool :=
  let asid := bits key 0 8
  let page := e.page = key.toNat / (if e.big then 2 ^ 20 else 2 ^ 12)
  match sfn with
  | 0 => true
  | 1 => !e.glob && e.asid = asid
  | 2 => page
  | _ => page && (e.glob || e.asid = asid)

/-- The entries that an XLINV leaves. -/
def keepTlb (sfn : Nat) (key : Word) (l : List TlbEntry) : List TlbEntry := l.filter (fun e => !invalidates sfn key e)

/-- The TLB of slot `j` is invalidated. -/
def Part.invSlot (p : Part) (j sfn : Nat) (key : Word) : Part := p.onSlot j (fun x => { x with tlb := keepTlb sfn key x.tlb })

/-- DMA channel `c`. -/
def Part.dmaCh (p : Part) (c : Nat) : DmaCh := vget {} p.core.dma c

/-- Replace channel `c`. -/
def Part.setDma (p : Part) (c : Nat) (x : DmaCh) : Part := { p with core := { p.core with dma := vset p.core.dma c x } }

/-- The channels with a beat in flight that used an entry which is invalidated. -/
def Part.shootUsers (p : Part) (sfn : Nat) (key : Word) : List Nat :=
  (List.range 16).filter (fun c => (p.dmaCh c).beat.any (fun b => b.uses.any (invalidates sfn key)))

/-- An instruction of slot `k` retires that changes its pc alone. -/
def Part.passOver (p : Part) (k : Nat) : Part := p.onSlot k (fun x => { x with pc := x.pc + 4 })

/-- The slot whose XLINV.S has completed goes on: the instruction retires and is counted. -/
def Part.shootDone (p : Part) (k : Nat) : Part :=
  if (p.slot k).run = .shoot then
    (p.onSlot k (fun x => { x with run := .running, pc := x.pc + 4 })).countWrap Reg.MMU_SHOOT 0 16
  else p

/-- XLINV.S of the slot at the front reaches every TLB and the IOTLB; it completes once no beat in flight uses an entry that was
invalidated, and then the next one that waits begins (R260, R267). -/
def Part.shootFront (p : Part) : Nat → Part
  | 0 => p
  | n + 1 =>
    match p.core.shoots with
    | [] => p
    | x :: l =>
      let (p, users) := match x.users with
        | some u => (p, u.filter (fun c => (p.dmaCh c).beat.isSome))
        | none =>
          (((p.each [0, 1, 2] (fun p j => p.invSlot j x.sfn x.key)).setIotlb (keepTlb x.sfn x.key p.core.iotlb)),
            p.shootUsers x.sfn x.key)
      if users.isEmpty then (({ p with core := { p.core with shoots := l } }).shootDone x.slot).shootFront n
      else { p with core := { p.core with shoots := { x with users := some users } :: l } }

/-- A beat is no longer in flight: an XLINV.S that waits for it may complete. -/
def Part.beatGone (p : Part) (c : Nat) : Part :=
  let p := p.setDma c { p.dmaCh c with beat := none }
  if p.core.shoots.isEmpty then p else p.shootFront 3

/-- XLINV (R260): on the issuing slot alone it completes at once. XLINV.S waits while another is in progress, which is counted, and
then until every access in flight that used an entry has completed; its slot stands at the instruction until then. -/
def Part.invalidate (p : Part) (k sfn : Nat) (key : Word) (shared : Bool) : Part :=
  if shared then
    let p := p.when (!p.core.shoots.isEmpty) (·.countWrap Reg.MMU_SHOOT 16 16)
    let p := p.onSlot k (fun x => { x with run := .shoot })
    let x : Shoot := { slot := k, sfn := sfn, key := key }
    ({ p with core := { p.core with shoots := p.core.shoots ++ [x] } }).shootFront 3
  else (p.invSlot k sfn key).passOver k

/-- Whether an initiator is the pair of a slot that runs in MONITOR. -/
def Part.monitorOf (p : Part) (ini : Initiator) (k : Nat) : Bool :=
  let pair := p.fld Reg.MMU_SLOTMAP (4 * k) 4
  ini = .core (Fin.ofNat 4 pair) && pair < 4 && bitAt (p.slot k).pstat 0

/-- MMU_CTX_WRITE: TTB0 and ASID of slot `k` change together; only slot `k` in MONITOR may write them, and a write by
another is ignored and sets SYS_DECERR (R262). -/
def Part.ctxWrite (p : Part) (ini : Initiator) (k : Nat) (lo hi : Word) : Part :=
  if p.monitorOf ini k then
    (p.setReg (Reg.MMU_CTX_LO k) (lo &&& 0xFFFFC0FF)).setReg (Reg.MMU_CTX_HI k) (hi &&& 0xFF)
  else p.decodeError ini (regBase + Reg.MMU_CTX_HI k)

/-- MMU_CTX_WRITE. -/
def execMmuCtxWrite (ini : Initiator) (k : Fin 3) (lo hi : Word) (s : State) := s.run (·.ctxWrite ini k.val lo hi)

/-- TTB1 is written by any slot in MONITOR (R262). -/
def Part.ttb1Write (p : Part) (ini : Initiator) (k : Nat) (lo hi : Word) : Part :=
  if [0, 1, 2].any (p.monitorOf ini) then
    (p.setReg (Reg.MMU_TTB1_LO k) (lo &&& 0xFFFFC000)).setReg (Reg.MMU_TTB1_HI k) (hi &&& 0xFF)
  else p.decodeError ini (regBase + Reg.MMU_TTB1_HI k)

/-! Spare rows and scrubbing (R272, R273). -/

/-- The part itself stores bytes in eMRAM, whatever protection is in force; the words are counted (R277). -/
def Part.emStore (p : Part) (a : Nat) (bs : List Byte) : Part := (p.storeBytes a bs).wearRange a bs.length

/-- The base and size of the row of an address. -/
def rowOf (a : Nat) : Nat × Nat := if inEmram a then (a / 2048 * 2048, 2048) else (a / 1024 * 1024, 1024)

/-- ROW_REPLACE (R272): a row that holds an uncorrectable word, or has reached MMU_SPTHR corrected errors at distinct
words within 24 h, is copied to a spare with its poison marks; with no spare left it stays in service. -/
def Part.rowReplace (p : Part) (a : Nat) : Part :=
  let (row, n) := rowOf a
  let hits := (p.mem.rowEcc.filter (fun e => e.1 = row && p.now ≤ e.2.2 + sec 86400)).length
  let due := p.mem.poison.any (fun w => row ≤ w && w < row + n) || p.fld Reg.MMU_SPTHR 0 4 ≤ hits
  if !due || !(inSram a || inEmram a) then p
  else
    let p := { p with mem := { p.mem with rowEcc := p.mem.rowEcc.filter (fun e => e.1 ≠ row) } }
    if inSram a then
      if p.fld Reg.MMU_SROWS 0 8 < p.fld Reg.MMU_SROWS 16 8 then p.setFld Reg.MMU_SROWS 0 8 (p.fld Reg.MMU_SROWS 0 8 + 1) else p
    else if p.fld Reg.MMU_MROWS 0 16 < p.fld Reg.MMU_MROWS 16 16 then
      p.setFld Reg.MMU_MROWS 0 16 (p.fld Reg.MMU_MROWS 0 16 + 1)
    else p

/-- ROW_REPLACE. -/
def execRowReplace (addr : Addr) (s : State) := s.run (·.rowReplace addr.toNat)

/-- A pass of the scrubber over system SRAM or eMRAM (R273): the errors it finds, and the pass counted. -/
def Part.scrubPass (p : Part) (emram : Bool) (found : List EccFind) : Part :=
  let inside := fun (e : EccFind) => if emram then inEmram e.addr else inSram e.addr
  (p.each (found.filter inside) (fun p e => if e.fatal then p.eccFatal e.addr else p.eccCorrected e.addr)).countWrap
    Reg.MMU_SCRUBSTAT (if emram then 16 else 0) 16

/-- SCRUB_PASS. -/
def execScrubPass (emram : Bool) (found : List EccFind) (s : State) := s.run (·.scrubPass emram found)

end Sys2Proof.Machine
end

