-- ==== Sys2Proof/Machine/Cap.lean ====
section
/-! DEFINITION. The disturbance recorder: trigger units, acquisition units, records and their measurements
(chapter 14). -/

namespace Sys2Proof.Machine

/-! Records and buffers. -/

/-- Acquisition unit `u`. -/
def Part.capUnit (p : Part) (u : Nat) : CapUnit := vget {} p.cap.units u

/-- Replace acquisition unit `u`. -/
def Part.setCapUnit (p : Part) (u : Nat) (x : CapUnit) : Part :=
  { p with cap := { p.cap with units := vset p.cap.units u x } }

/-- Whether a unit is enabled. -/
def Part.capOn (p : Part) (u : Nat) : Bool := p.bit (Reg.CAP_UCFG u) 31

/-- NCH of a unit. -/
def Part.capNch (p : Part) (u : Nat) : Nat := p.fld (Reg.CAP_UCFG u) 16 6 + 1

/-- TSMP of a unit in units of time. -/
def Part.capTsmp (p : Part) (u : Nat) : Nat := max 1 (nsec (p.reg (Reg.CAP_TSMP u)).toNat)

/-- Bytes of a buffer for given NCH, PRE and PMAX, rounded up to 4 KiB. -/
def bufBytes (nch pre pmax : Nat) : Nat := (256 + nch * 224 + nch * (pre + pmax) * 4 + 4095) / 4096 * 4096

/-- PRE, POST and PMAX of a unit. -/
def Part.capPre (p : Part) (u : Nat) : Nat := p.fld (Reg.CAP_PRE u) 0 24

/-- POST of a unit. -/
def Part.capPost (p : Part) (u : Nat) : Nat := p.fld (Reg.CAP_POST u) 0 24

/-- PMAX of a unit. -/
def Part.capPmax (p : Part) (u : Nat) : Nat := p.fld (Reg.CAP_PMAX u) 0 24

/-- NBUF of a unit. -/
def Part.capNbuf (p : Part) (u : Nat) : Nat := p.fld (Reg.CAP_UBASE u) 0 8

/-- Physical address of buffer `b` of a unit. -/
def Part.bufAddr (p : Part) (u b : Nat) : Nat :=
  0x30000000 + p.fld (Reg.CAP_UBASE u) 16 7 * 65536 + b * bufBytes (p.capNch u) (p.capPre u) (p.capPmax u)

/-- Buffers of a unit that hold a record in capture SRAM. -/
def Part.usedBufs (p : Part) (u : Nat) : List Nat :=
  (p.cap.records.filter (fun r => r.unit = u)).filterMap (·.buf)

/-- Show the state of a unit in CAP_USTAT, and the record area in CAP_EMSTAT. -/
def Part.capShow (p : Part) (u : Nat) : Part :=
  let x := p.capUnit u
  let used := p.usedBufs u
  let free := ((List.range (p.capNbuf u)).filter (fun b => !used.contains b && x.buf ≠ some b)).length
  let post := match x.rcd with
    | some r => x.ring.any (fun s => r.trigIdx ≤ s.idx)
    | none => false
  let v := p.reg (Reg.CAP_USTAT u)
  p.setReg (Reg.CAP_USTAT u) (setBits (setBits (setBits (setBits v 31 1 (p.capOn u).toNat) 30 1 post.toNat)
    29 1 (decide (p.capPre u ≤ x.ring.length)).toNat) 16 8 (min 255 free))

/-- The bytes of the record area of eMRAM after its directory. -/
def recordArea : Nat := 24 * 2 ^ 20 - 65536

/-- Bytes of eMRAM that a record of a size takes. -/
def extentBytes (n : Nat) : Nat := (n + 4095) / 4096 * 4096

/-- Show the record area in CAP_EMSTAT: records held and KiB free. -/
def Part.emShow (p : Part) : Part :=
  let rs := p.cap.records.filter (fun r => r.emram.isSome)
  let used := (rs.map (fun r => extentBytes r.size)).sum
  p.setReg Reg.CAP_EMSTAT (BitVec.ofNat 32 (min 65535 rs.length * 65536 + (recordArea - used) / 1024))

/-- The next buffer of a unit (R381): one without a record, else that of its oldest record that is not protected (a
copied one counts so) and that no RECORD_READ holds. -/
def Part.nextBuf (p : Part) (u : Nat) : Option Nat :=
  let used := p.usedBufs u
  match (List.range (p.capNbuf u)).find? (fun b => !used.contains b) with
  | some b => some b
  | none => (p.cap.records.find? (fun r =>
      r.unit = u && r.buf.isSome && (!r.prot || r.emram.isSome) && r.holds.isEmpty)).bind (·.buf)

/-- A unit takes a buffer: a record that lay there is overwritten, or lives on in eMRAM alone. -/
def Part.takeBuf (p : Part) (u : Nat) : Part :=
  match p.nextBuf u with
  | none => p.setCapUnit u { p.capUnit u with buf := none }
  | some b =>
    let rs := p.cap.records.filterMap (fun r =>
      if r.unit = u && r.buf = some b then
        match r.emram with
        | some a => some { r with buf := none, addr := a }
        | none => none
      else some r)
    { p with cap := { p.cap with records := rs } }.setCapUnit u { p.capUnit u with buf := some b }

/-! Trigger units (R376, R377). -/

/-- The first sample instant at or after an instant, counted in TSMP. -/
def Part.sampleIdx (p : Part) (u : Nat) (t : Instant) : Nat := (t + p.capTsmp u - 1) / p.capTsmp u

/-- A firing of trigger unit `tr` at ring time `t` reaches acquisition unit `u` (R379, R381, R388). -/
def Part.capFire (p : Part) (tr : Nat) (t : Instant) (u : Nat) : Part :=
  if !p.capOn u || !p.bit (Reg.CAP_UCFG u) tr then p
  else
    let p := p.when (p.capUnit u).buf.isNone (·.takeBuf u)
    let x := p.capUnit u
    let idx := p.sampleIdx u t
    let prot := p.bit (Reg.CAP_TCFG tr) 30
    match x.rcd with
    | some r =>
      if r.lastIdx < idx then p.setCapUnit u { x with later := x.later ++ [(tr, t)] }
      else
        let room := r.xtrg.length < 8
        let r := if room then { r with xtrg := r.xtrg ++ [(tr, t)] } else { r with more := true }
        let r := { r with prot := r.prot || prot }
        let r := if p.bit (Reg.CAP_UCFG u) 29 then
          let last := min (r.trigIdx + p.capPmax u - 1) (idx + p.capPost u - 1)
          if r.lastIdx < last then { r with lastIdx := last, retrig := true } else r
          else r
        p.setCapUnit u { x with rcd := some r }
    | none =>
      if x.buf.isNone then
        (p.setReg (Reg.CAP_UMISS u) (BitVec.ofNat 32 (satInc 32 (p.reg (Reg.CAP_UMISS u)).toNat))).raise (Reg.CAP_UEVT u) 3
      else if idx < x.minIdx then p
      else
        let node1 := p.bit Reg.RING_STAT 30
        let farm := if node1 then p.fld Reg.TIME_STAT 29 3 = 2 else p.cap.farm
        let r : OpenRec := { unit := u, trig := tr, t := t, trigIdx := idx, lastIdx := idx + p.capPost u - 1, prot := prot,
                             tlock := p.bit Reg.RING_STAT 28, tfarm := farm }
        p.setCapUnit u { x with rcd := some r }

/-- Trigger unit `tr` fires at ring time `t`: the firing is counted, its time is stored, and every acquisition unit
sees it. -/
def Part.trigFire (p : Part) (tr : Nat) (t : Instant) : Part :=
  let p := (p.countWrap (Reg.CAP_TSTAT tr) 0 16).setStamp (Reg.CAP_TTIME_LO tr) t
  let p := (p.capFire tr t 0).capFire tr t 1
  (p.capShow 0).capShow 1

/-- Trigger unit `tr`. -/
def Part.trigUnit (p : Part) (tr : Nat) : TrigUnit := vget {} p.cap.trig tr

/-- Replace trigger unit `tr`; ARMED shows whether it is armed. -/
def Part.setTrig (p : Part) (tr : Nat) (x : TrigUnit) : Part :=
  { p with cap := { p.cap with trig := vset p.cap.trig tr x } }.setBit (Reg.CAP_TSTAT tr) 31 (x.rise || x.fall)

/-- The interpolated crossing of LEVEL between two values (R377), rounded to the nearest 78.125 ps, ties to the
later. -/
def crossing (t0 : Instant) (x0 : Int) (t1 : Instant) (x1 lvl : Int) : Instant :=
  let d := (x1 - x0).natAbs
  if d = 0 then t1
  else
    let n : Int := (t0 : Int) * d + (lvl - x0) * (if x1 < x0 then -1 else 1) * ((t1 : Int) - t0)
    ((2 * n + d * tdcStep) / (2 * d * tdcStep) * tdcStep).toNat

/-- One output of a level source, `x` representing the instant `t`, seen by trigger unit `tr`: the new unit and the
time of a firing, if it fires. A NaN neither arms nor fires, and nothing lies above or below a level that is none. -/
def trigStep (cfg lvl hys : Word) (x : TrigUnit) (t : Instant) (v : Word) : TrigUnit × Option Instant :=
  if fpIsNan v || fpIsNan lvl then (x, none)
  else
    let a := fpCmpKey v
    let l := fpCmpKey lvl
    let h := fpCmpKey hys
    let edge := bits cfg 28 2
    let up := x.rise && l < a && edge ≠ 1
    let dn := x.fall && a < l && edge ≠ 0
    let rise := (x.rise && !(l < a)) || a < l - h
    let fall := (x.fall && !(a < l)) || l + h < a
    let at_ := match x.prev with
      | some (t0, v0) => crossing t0 (fpCmpKey v0) t a l
      | none => t
    ({ rise := rise && edge ≠ 1, fall := fall && edge ≠ 0, prev := some (t, v) }, if up || dn then some at_ else none)

/-- Insert a firing in order of time, the lower unit first among equals. -/
def insertFiring (f : Nat × Instant) : List (Nat × Instant) → List (Nat × Instant)
  | [] => [f]
  | g :: l => if f.2 < g.2 || (f.2 = g.2 && f.1 < g.1) then f :: g :: l else g :: insertFiring f l

/-- Every trigger unit that watches source `src` sees an output of it; those that fire at one output fire in order of
their times (R376, R388). -/
def Part.capLevel (p : Part) (src : Nat) (t : Instant) (v : Word) : Part :=
  let t := p.ringOf t
  let on := (List.range 16).filter (fun k => p.bit (Reg.CAP_TCFG k) 31 && p.fld (Reg.CAP_TCFG k) 0 12 = src)
  let r := on.foldl (fun (s : Part × List (Nat × Instant)) k =>
    let o := trigStep (s.1.reg (Reg.CAP_TCFG k)) (s.1.reg (Reg.CAP_TLVL k)) (s.1.reg (Reg.CAP_THYS k)) (s.1.trigUnit k) t v
    (s.1.setTrig k o.1, match o.2 with
      | some f => insertFiring (k, f) s.2
      | none => s.2)) (p, [])
  r.1.each r.2 (fun p f => p.trigFire f.1 f.2)

/-- An event source fires every trigger unit that watches it, at the time the event carries (R376). -/
def Part.capEvent (p : Part) (src : Nat) (t : Instant) : Part :=
  p.each ((List.range 16).filter (fun k => p.bit (Reg.CAP_TCFG k) 31 && p.fld (Reg.CAP_TCFG k) 0 12 = src))
    (fun p k => p.trigFire k (p.ringOf t))

/-- CAP_SWTRIG: bit 0 of a write raises the software trigger event at the instant it reaches the block. -/
def Part.swTrig (p : Part) (v : Word) (t : Instant) : Part := (p.at t).when (bitAt v 0) (·.capEvent 0x420 t)

/-- CAP_SWTRIG. -/
def execCapSwtrig (v : Word) (t : Instant) (s : State) := s.run (·.swTrig v t)

/-! Acquisition (R378, R379). -/

/-- The reserve channel that stands in for a sigma-delta channel, or the channel itself (R185). -/
def Part.sdUse (p : Part) (n : Nat) : Nat :=
  match (List.range 4).find? (fun r => p.fld (Reg.SENSE_RSVSTAT r) 0 3 = 2 && p.fld (Reg.SENSE_RSVSTAT r) 8 5 = n) with
  | some r => 24 + r
  | none => n

/-- Sigma-delta channel `n`. -/
def Part.sdCh (p : Part) (n : Nat) : SenseCh := vget {} p.sense.ch n

/-- The latest value of a capture source, and its flags of Table 14.2. -/
def Part.capValue (p : Part) (src : Nat) : Word × Nat :=
  let sd : Nat → Bool → Nat := fun n fast =>
    let m := p.sdUse n
    let st := p.reg (Reg.SENSE_STAT m)
    let uns := if fast then (p.sdCh m).fastUns else bitAt st 28
    (if m = n then 0 else 8) + (if !fast && bitAt st 26 then 4 else 0) + (if bitAt st 30 then 2 else 0) + uns.toNat
  if src < 0x11C then
    let n := src - 0x100
    ((p.sdCh (p.sdUse n)).fineY, sd n false)
  else if src < 0x15C then
    let n := src - 0x140
    ((p.sdCh (p.sdUse n)).fastY, sd n true)
  else if src < 0x190 then (p.reg (Reg.AUXADC_RES (src - 0x180)), 0)
  else if src < 0x340 then (p.reg (Reg.CLE_EP 0 (src - 0x300)), 0)
  else (p.reg (Reg.CLE_EP 1 (src - 0x340)), 0)

/-- Samples kept beyond PRE, for triggers whose time lies before the latest samples. -/
def ringSlack : Nat := 1024

/-- A unit stores the latest value of each of its channels at a sample instant; without a record in progress it keeps
the latest of them. -/
def Part.capSample (p : Part) (u : Nat) (t : Instant) : Part :=
  let p := p.atRing t
  if !p.capOn u || t % p.capTsmp u ≠ 0 then p
  else
    let vals := (List.range (p.capNch u)).map (fun k => p.capValue (p.fld (Reg.CAP_USRC u k) 0 12))
    let vals := vals.map (fun v => (v.1, v.2 + if fpIsNan v.1 then 16 else 0))
    let x := p.capUnit u
    let ring := { idx := t / p.capTsmp u, vals := vals } :: x.ring
    let ring := if x.rcd.isSome then ring else ring.take (p.capPre u + ringSlack)
    let x := { x with ring := ring }
    let x := match x.rcd with
      | some r => { x with rcd := some { r with tlock := r.tlock && p.bit Reg.RING_STAT 28 } }
      | none => x
    (p.setCapUnit u x).capShow u

/-- ACQUISITION_SAMPLE. -/
def execAcquisitionSample (u : Fin 2) (t : Instant) (s : State) := s.run (·.capSample u.val t)

/-! Closing a record (R379, R381, R384). -/

/-- The header of a record without its CRC, as words (Table 14.2): the measurements are 0 until they are done. -/
def recHeader (id : Word) (node nch tsmp : Nat) (long : Bool) (npre npost : Nat) (r : OpenRec) (s0 : Instant)
    (flags : Nat) (freq period : Word) (srcs : List Nat) : List Byte :=
  let w : Nat → List Byte := bytesOf 4
  let x : List Byte := (List.range 8).flatMap (fun j =>
    match r.xtrg[j]? with
    | some (k, t) => bytesOf 8 (k * 2 ^ 60 + (((t : Int) - r.t) / tdcStep % 2 ^ 60).toNat)
    | none => bytesOf 8 0)
  w 0x54565243 ++ w id.toNat ++ w (node * 256 + (if long then 64 else 0) + (nch - 1)) ++ w tsmp ++ w npre ++ w npost
    ++ bytesOf 8 (instSec r.t) ++ w (instNs r.t) ++ w (r.trig * 65536 + instFr r.t)
    ++ bytesOf 8 (instSec s0) ++ w (instNs s0) ++ w flags ++ w freq.toNat ++ w period.toNat
    ++ w r.xtrg.length ++ w 0 ++ x
    ++ (List.range 48).flatMap (fun c => bytesOf 2 (srcs.getD c 0)) ++ (List.replicate 20 0)

/-- Store a record's header at an address, with its CRC. -/
def Part.putHeader (p : Part) (a : Nat) (h : List Byte) : Part :=
  (p.storeBytes a h).store (a + 0xFC) 4 (crc32c (h.take 0xFC))

/-- The samples of a record, oldest first: at most PRE before its trigger sample, and those to its last. -/
def Part.recSamples (p : Part) (u : Nat) (r : OpenRec) : List Sample × List Sample :=
  let ring := (p.capUnit u).ring
  (((ring.filter (fun s => s.idx < r.trigIdx)).take (p.capPre u)).reverse,
   (ring.filter (fun s => r.trigIdx ≤ s.idx && s.idx ≤ r.lastIdx)).reverse)

/-- Flags seen in any sample of channel `c`. -/
def chanFlags (ss : List Sample) (c : Nat) : Nat := ss.foldl (fun f s => f ||| (s.vals.getD c (0, 0)).2) 0

/-- A record closes when its last sample is stored: it is laid out in its buffer, and the unit moves on. -/
def Part.closeRecord (p : Part) (u : Nat) (t : Instant) : Part :=
  let p := p.atRing t
  let x := p.capUnit u
  match x.rcd, x.buf with
  | some r, some b =>
    if !x.ring.any (fun s => s.idx = r.lastIdx) then p
    else
      let (pre, post) := p.recSamples u r
      let ss := pre ++ post
      let nch := p.capNch u
      let id := BitVec.ofNat 32 (u * 2 ^ 31 + x.seq % 2 ^ 24)
      let a := p.bufAddr u b
      let preshort := pre.length < p.capPre u
      let flags := (if r.tfarm then 128 else 0) + (if r.tlock then 64 else 0) + (if r.retrig then 16 else 0)
        + (if r.prot then 8 else 0) + (if preshort then 4 else 0) + (if r.more then 2 else 0)
      let srcs := (List.range nch).map (fun k => p.fld (Reg.CAP_USRC u k) 0 12)
      let s0 := ((ss.map (·.idx)).head?.getD r.trigIdx) * p.capTsmp u
      let h := recHeader id (p.fld Reg.RING_STAT 0 7) nch (p.reg (Reg.CAP_TSMP u)).toNat (p.bit (Reg.CAP_UCFG u) 30)
        pre.length post.length r s0 flags 0 0 srcs
      let blocks := (List.range nch).flatMap (fun c =>
        List.replicate 216 (0 : Byte) ++ bytesOf 4 (chanFlags ss c) ++ bytesOf 4 0)
      let data := ss.flatMap (fun s => s.vals.flatMap (fun v => bytesOf 4 v.1.toNat))
      let p := (p.putHeader a h).storeBytes (a + 256) (blocks ++ data)
      let rcd : CapRecord := { id := id, unit := u, buf := some b, addr := a, prot := r.prot,
                               size := 256 + nch * 224 + 4 * nch * ss.length }
      let p := { p with cap := { p.cap with records := p.cap.records ++ [rcd] } }
      let later := x.later
      let x := { x with rcd := none, seq := x.seq + 1, minIdx := r.lastIdx + 1, later := [],
                        ring := x.ring.filter (fun s => r.lastIdx < s.idx) }
      let p := ((p.setCapUnit u x).takeBuf u).setReg (Reg.CAP_ULAST u) id
      let p := ((p.countWrap (Reg.CAP_USTAT u) 0 16).raise (Reg.CAP_UEVT u) 0).raiseIf preshort (Reg.CAP_UEVT u) 2
      -- firings that lie after the last sample start the next record
      (p.each later (fun p f => p.capFire f.1 f.2 u)).capShow u
  | _, _ => p

/-- RECORD_CLOSE. -/
def execRecordClose (u : Fin 2) (t : Instant) (s : State) := s.run (·.closeRecord u.val t)

/-! Measurements (R382, R385). -/

/-- The closed record with an ID. -/
def Part.record? (p : Part) (id : Word) : Option CapRecord := p.cap.records.find? (fun r => r.id = id)

/-- Change the closed record with an ID. -/
def Part.onRecord (p : Part) (id : Word) (f : CapRecord → CapRecord) : Part :=
  { p with cap := { p.cap with records := p.cap.records.map (fun r => if r.id = id then f r else r) } }

/-- The samples of channel `c` of a record at an address. -/
def Part.recChannel (p : Part) (a nch n c : Nat) : List Word :=
  (List.range n).map (fun i => p.loadWord (a + 256 + nch * 224 + 4 * (i * nch + c)))

/-- The largest of |x|, the least and the greatest of samples, and their RMS rounded to the nearest FP32. -/
def sampleStats (xs : List Word) : Word × Word × Word × Word :=
  let ks := xs.map fpCmpKey
  let sq : Nat := (ks.map (fun k => k.natAbs * k.natAbs)).sum
  let rms := fpRoundSqrt false sq (max 1 xs.length * 2 ^ 298)
  let x0 := xs.headD 0
  (rms, xs.foldl (fun m x => fpMax m (fpAbs x)) 0, xs.foldl fpMin x0, xs.foldl fpMax x0)

/-- Rising crossings of the mean with a hysteresis of 1 % of the peak-to-peak value (R382), found as R376 finds rising
crossings: the count. -/
def meanCrossings (xs : List Word) : Nat :=
  let ks := xs.map fpCmpKey
  let n : Int := xs.length
  let sum := ks.foldl (· + ·) 0
  let hi := ks.foldl max (ks.headD 0)
  let lo := ks.foldl min (ks.headD 0)
  (ks.foldl (fun (s : Bool × Nat) k =>
    if s.1 && sum < k * n then (false, s.2 + 1)
    else if 100 * (k * n) < 100 * sum - n * (hi - lo) then (true, s.2)
    else s) (false, 0)).2

/-- One channel's block of measurements: the harmonics that the spec states no rounding for are free values; those at
or above half the sample rate read 0.0 and set NYQ. -/
def Part.measureChannel (p : Part) (a nch n tsmp : Nat) (freq : Word) (valid : Bool) (c : Nat) : Part :=
  let xs := p.recChannel a nch n c
  let fin := xs.all fpFinite
  let (rms, peak, lo, hi) := sampleStats xs
  let blk := a + 256 + 224 * c
  let put : Part → Nat → Word → Part := fun p off w =>
    if fin then p.storeWord (blk + off) w else (p.storeWord (blk + off) p.freshWord).taken
  let p := put (put (put (put p 0 rms) 4 peak) 8 lo) 12 hi
  let nyq : Nat → Bool := fun h => 10 ^ 9 * 2 ^ 149 ≤ (fpScaled freq).natAbs * h * 2 * tsmp
  let p := p.each (List.range 50) (fun p k =>
    if !valid || nyq (k + 1) then p.storeWord (blk + 16 + 4 * k) 0
    else (p.storeWord (blk + 16 + 4 * k) p.freshWord).taken)
  let fl := p.loadWord (blk + 216)
  p.storeWord (blk + 216) (putBit fl 5 (valid && nyq 50))

/-- Measurements of a closed record are done: its blocks and header are written, and its entry enters Q28 or Q29. With
fewer than two crossings FREQ and PERIOD are 0.0; otherwise PERIOD, for which the spec gives no interpolation, is a
free value. -/
def Part.measured (p : Part) (id : Word) (t : Instant) : Part :=
  let p := p.atRing t
  match p.record? id with
  | none => p
  | some r =>
    if r.measured then p
    else
      let a := r.addr
      let nch := bits (p.loadWord (a + 8)) 0 6 + 1
      let tsmp := (p.loadWord (a + 12)).toNat
      let n := (p.loadWord (a + 0x10)).toNat + (p.loadWord (a + 0x14)).toNat
      let valid := 2 ≤ meanCrossings (p.recChannel a nch n (p.fld (Reg.CAP_REF r.unit) 0 6))
      let period := if valid then p.freshWord else 0
      let p := p.when valid (·.taken)
      let freq := if valid then fpRecip period else 0
      let p := p.each (List.range nch) (fun p c => p.measureChannel a nch n tsmp freq valid c)
      let h := p.loadBytes a 0xFC
      let flags := putBit (p.loadWord (a + 0x34)) 5 valid
      let h := h.take 0x34 ++ bytesOf 4 flags.toNat ++ bytesOf 4 freq.toNat ++ bytesOf 4 period.toNat ++ h.drop 0x40
      let p := (p.putHeader a h).onRecord id (fun r => { r with measured := true })
      let e := bytesOf 4 id.toNat ++ bytesOf 4 ((if r.prot then 2 ^ 31 else 0) + r.size % 2 ^ 24)
        ++ (p.loadBytes (a + 0x20) 4) ++ (p.loadBytes (a + 0x18) 4) ++ bytesOf 8 a ++ bytesOf 8 0
      p.produce (if bitAt (p.loadWord (a + 8)) 6 then 29 else 28) e

/-- MEASUREMENTS_DONE. -/
def execMeasurementsDone (id : Word) (t : Instant) (s : State) := s.run (·.measured id t)

/-! Protection, eMRAM and deletion (R383). -/

/-- Whether an extent of `n` bytes at an offset of the record area is free of every copied record. -/
def Part.extentFree (p : Part) (a n : Nat) : Bool :=
  p.cap.records.all (fun r => match r.emram with
    | some b => a + n ≤ b || b + extentBytes r.size ≤ a
    | none => true)

/-- A 4 KiB-aligned place in the record area for `n` bytes, past the directory of 64 KiB: at its start or behind a
copied record. -/
def Part.findExtent (p : Part) (n : Nat) : Option Nat :=
  let base := 0x22010000
  let cands := base :: p.cap.records.filterMap (fun r => r.emram.map (· + extentBytes r.size))
  cands.find? (fun a => a + extentBytes n ≤ 0x22000000 + 24 * 2 ^ 20 && p.extentFree a (extentBytes n))

/-- The record whose copy is next: protected records are copied in order of closing. -/
def Part.nextCopy (p : Part) : Option Word := (p.cap.records.find? (fun r => r.prot && r.emram.isNone)).map (·.id)

/-- The copy of the protected record that is next completes, and its directory entry is written after the last byte; a record
that does not fit waits, and EMFULL is set. The spec gives no layout of a directory entry: its bytes are free. -/
def Part.copyRecord (p : Part) (id : Word) : Part :=
  match p.record? id with
  | none => p
  | some r =>
    if !r.prot || r.emram.isSome || !r.measured || p.nextCopy ≠ some id then p
    else match p.findExtent r.size with
      | none => p.raise (Reg.CAP_UEVT r.unit) 1
      | some a =>
        let flag : Part → Nat → Part := fun p b =>
          let h := p.loadBytes b 0xFC
          p.putHeader b (h.take 0x34 ++ bytesOf 4 (putBit (p.loadWord (b + 0x34)) 0 true).toNat ++ h.drop 0x38)
        let p := flag (p.emStore a (p.loadBytes r.addr r.size)) a
        let p := flag p r.addr
        let slot := (p.cap.records.filter (fun r => r.emram.isSome)).length
        let p := (p.emStore (0x22000000 + 8 * (slot % 8192)) (bytesOf 8 p.fresh.toNat)).taken
        ((p.onRecord id (fun r => { r with emram := some a })).emShow).capShow r.unit

/-- RECORD_COPY_DONE. -/
def execRecordCopyDone (id : Word) (s : State) := s.run (·.copyRecord id)

/-- CAP_CTL.PROTECT: the record that CAP_RECSEL names becomes protected while it lies in capture SRAM. -/
def Part.capProtect (p : Part) : Part :=
  let id := p.reg Reg.CAP_RECSEL
  match p.record? id with
  | none => p
  | some r =>
    if r.buf.isNone then p
    else
      let h := p.loadBytes r.addr 0xFC
      let p := p.putHeader r.addr
        (h.take 0x34 ++ bytesOf 4 (putBit (p.loadWord (r.addr + 0x34)) 3 true).toNat ++ h.drop 0x38)
      p.onRecord id (fun r => { r with prot := true })

/-- CAP_PROTECT. -/
def execCapProtect (s : State) := s.run (·.capProtect)

/-- Remove a record wherever it lies; one that a RECORD_READ holds goes at the slot's RELEASE. -/
def Part.deleteRecord (p : Part) (id : Word) : Part :=
  match p.record? id with
  | none => p
  | some r =>
    if !r.holds.isEmpty then p.onRecord id (fun r => { r with deleting := true })
    else
      let rs := p.cap.records.filter (fun r => r.id ≠ id)
      ({ p with cap := { p.cap with records := rs } }.emShow).capShow r.unit

/-- CAP_DELETE. -/
def execCapDelete (s : State) := s.run (fun p => p.deleteRecord (p.reg Reg.CAP_RECSEL))

/-- A long-operation slot lets go of the records it held. -/
def Part.releaseRecords (p : Part) (slot : Nat) : Part :=
  let mine := p.cap.records.filter (fun r => r.holds.contains slot)
  p.each mine (fun p r =>
    let p := p.onRecord r.id (fun r => { r with holds := r.holds.filter (· ≠ slot) })
    p.when r.deleting (·.deleteRecord r.id))

/-! Commit (R380, R389, R390). -/

/-- Whether a source may be a trigger's, or a burst or long channel's (Table 14.1). -/
def Part.capSrcOk (p : Part) (val : Nat → Word) (use src : Nat) : Bool :=
  if 0x100 ≤ src && src < 0x11C then use ≠ 1 || bits (val (Reg.SENSE_CFG (src - 0x100))) 18 2 = 0
  else if 0x140 ≤ src && src < 0x15C then use ≠ 2
  else if 0x180 ≤ src && src < 0x190 then use ≠ 1
  else if 0x300 ≤ src && src < 0x340 then use ≠ 1 && p.epType .A (src - 0x300) = 0
  else if 0x340 ≤ src && src < 0x380 then use ≠ 1 && p.epType .B (src - 0x340) = 0
  else use = 0 && ((0x400 ≤ src && src ≤ 0x403) || (0x410 ≤ src && src ≤ 0x414) || src = 0x420)

/-- The offsets of a unit's staged set. -/
def capUnitRegs (u : Nat) : List Nat :=
  [Reg.CAP_UCFG u, Reg.CAP_TSMP u, Reg.CAP_PRE u, Reg.CAP_POST u, Reg.CAP_PMAX u, Reg.CAP_UBASE u, Reg.CAP_REF u]
    ++ (List.range 48).map (Reg.CAP_USRC u)

/-- The region of a unit in a view: its base and its end, in bytes of capture SRAM. -/
def capRegion (val : Nat → Word) (u : Nat) : Nat × Nat :=
  let b := val (Reg.CAP_UBASE u)
  let nch := bits (val (Reg.CAP_UCFG u)) 16 6 + 1
  let base := bits b 16 7 * 65536
  (base, base + bits b 0 8 * bufBytes nch (bits (val (Reg.CAP_PRE u)) 0 24) (bits (val (Reg.CAP_PMAX u)) 0 24))

/-- Commit check of an acquisition unit; `val` reads the set to be committed. -/
def Part.capUnitCheck (p : Part) (val : Nat → Word) (u : Nat) : Option (Nat × Nat) :=
  let cfg := val (Reg.CAP_UCFG u)
  let on := bitAt cfg 31
  let long := bitAt cfg 30
  let nch := bits cfg 16 6 + 1
  let tsmp := (val (Reg.CAP_TSMP u)).toNat
  let post := bits (val (Reg.CAP_POST u)) 0 24
  let nbuf := bits (val (Reg.CAP_UBASE u)) 0 8
  let changed := (capUnitRegs u).find? (fun o => val o ≠ p.reg o)
  if p.capOn u && on && changed.isSome then some (0x11, changed.getD 0)
  else if !on then none
  else if (if long then 48 else 24) < nch then some (5, Reg.CAP_UCFG u)
  else if tsmp < (if long then 20000 else 1000) then some (5, Reg.CAP_TSMP u)
  else if 10000000 < tsmp then some (1, Reg.CAP_TSMP u)
  else if post = 0 then some (1, Reg.CAP_POST u)
  else if bits (val (Reg.CAP_PMAX u)) 0 24 < post then some (1, Reg.CAP_PMAX u)
  else if nbuf = 0 then some (1, Reg.CAP_UBASE u)
  else if nch ≤ bits (val (Reg.CAP_REF u)) 0 6 then some (1, Reg.CAP_REF u)
  else
    let bad := (List.range nch).find? (fun k => !p.capSrcOk val (if long then 2 else 1) (bits (val (Reg.CAP_USRC u k)) 0 12))
    match bad with
    | some k => some (0x10, Reg.CAP_USRC u k)
    | none =>
      let (a, b) := capRegion val u
      let (a', b') := capRegion val (1 - u)
      let other := bitAt (val (Reg.CAP_UCFG (1 - u))) 31
      if 8 * 2 ^ 20 < b || (other && a < b' && a' < b) then some (0x12, Reg.CAP_UBASE u) else none

/-- Commit check of a trigger unit. -/
def Part.capTrigCheck (p : Part) (val : Nat → Word) (k : Nat) : Option (Nat × Nat) :=
  let cfg := val (Reg.CAP_TCFG k)
  if bits cfg 28 2 = 3 then some (1, Reg.CAP_TCFG k)
  else if bitAt cfg 31 && !p.capSrcOk val 0 (bits cfg 0 12) then some (0x10, Reg.CAP_TCFG k)
  else if bitAt cfg 31 && !fpLe 0 (val (Reg.CAP_THYS k)) then some (1, Reg.CAP_THYS k)
  else none

/-- Commit check of CAP (R380, R388, R390). -/
def Part.capCheck (p : Part) (val : Nat → Word) : Option (Nat × Nat) :=
  match (List.range 2).findSome? (p.capUnitCheck val) with
  | some e => some e
  | none => (List.range 16).findSome? (p.capTrigCheck val)

/-- What follows the move of a CAP set, given the words that stood before: a unit just disabled discards its open
record, one just enabled begins, a trigger unit just enabled starts disarmed, as does one that watches another source or is
disabled (DEDUCED, log entry 66), and CAP_RATE shows the rate. -/
def Part.capMoved (p : Part) (old : Nat → Word) : Part :=
  let p := p.each (List.range 2) (fun p u =>
    let was := bitAt (old (Reg.CAP_UCFG u)) 31
    let p := if p.capOn u && !was then
        (p.setCapUnit u { seq := (p.capUnit u).seq }).takeBuf u
      else if !p.capOn u && was then p.setCapUnit u { p.capUnit u with ring := [], rcd := none, later := [] }
      else p
    p.capShow u)
  let p := p.each (List.range 16) (fun p k =>
    let was := old (Reg.CAP_TCFG k)
    if !p.bit (Reg.CAP_TCFG k) 31 || !bitAt was 31 || p.fld (Reg.CAP_TCFG k) 0 12 ≠ bits was 0 12 then p.setTrig k {} else p)
  let rate := (List.range 2).map (fun u =>
    if p.capOn u then p.capNch u * 4000000 / max 1 (p.reg (Reg.CAP_TSMP u)).toNat else 0)
  p.setReg Reg.CAP_RATE (BitVec.ofNat 32 (rate.sum % 2 ^ 20))

end Sys2Proof.Machine
end

