-- ==== Sys2Proof/Machine/Pwm.lean ====
section
/-! DEFINITION. Timebases, compare codes, shadows and the requested edges (chapter 7, R197 to R208 and R211). -/

namespace Sys2Proof.Machine

/-! Timebases. -/

/-- Timebase of a group. -/
def Part.tb (p : Part) (g : Grp) : Timebase := vget {} p.pwm.tb g.ix

/-- Replace the timebase of a group. -/
def Part.setTb (p : Part) (g : Grp) (x : Timebase) : Part := { p with pwm := { p.pwm with tb := vset p.pwm.tb g.ix x } }

/-- Whether a timebase runs: PWM_TBSTAT.RUN. -/
def Part.tbRuns (p : Part) (g : Grp) : Bool := p.bit (Reg.PWM_TBSTAT g.ix) 31

/-- The carrier period as numerator and denominator, in counts of 2.5 ns, of given PERIOD and PERFR words (R197). -/
def periodOf (per fr : Word) : Nat × Nat := (bits per 0 24 * bits fr 16 16 + bits fr 0 16, bits fr 16 16)

/-- The committed carrier period of a group, in counts. -/
def Part.period (p : Part) (g : Grp) : Nat × Nat := periodOf (p.reg (Reg.PWM_PERIOD g.ix)) (p.reg (Reg.PWM_PERFR g.ix))

/-- One count of the 400 MHz clock. -/
def countUnits : Nat := 163840

/-- Whether the carrier updates at the apex too. -/
def Part.dbl (p : Part) (g : Grp) : Bool := p.bit (Reg.PWM_TBCFG g.ix) 30

/-- CARRIER: 0 up, 1 down, 2 up-down. -/
def Part.carrier (p : Part) (g : Grp) : Nat := p.fld (Reg.PWM_TBCFG g.ix) 28 2

/-- The sample period Ts (R197), as numerator and denominator in units of 2^-16 ns. -/
def Part.tsUnits (p : Part) (g : Grp) : Nat × Nat :=
  let (n, d) := p.period g
  (n * countUnits, if p.dbl g then 2 * d else d)

/-- The sample period rounded down to whole units of 2^-16 ns. -/
def Part.tsFloor (p : Part) (g : Grp) : Nat := (p.tsUnits g).1 / (p.tsUnits g).2

/-- A place `n / d` in units of 2^-16 ns, placed on the nearest step of 78.125 ps, ties to the later (R198). -/
def stepRound (n : Int) (d : Nat) : Int := (2 * n + d * tdcStep) / (2 * d * tdcStep) * tdcStep

/-- The instant of boundary `k` of a carrier from `base`, or of the apex after it (R198). -/
def boundaryAt (per : Nat × Nat) (base k : Int) (apex : Bool) : Instant :=
  (stepRound (2 * base * per.2 + (2 * k + apex.toNat) * (per.1 * countUnits)) (2 * per.2)).toNat

/-- The instant of boundary `k` of a group's running carrier, or of the apex after it. -/
def Part.updateAt (p : Part) (g : Grp) (k : Int) (apex : Bool) : Instant := boundaryAt (p.period g) (p.tb g).base k apex

/-- The next update instant of a timebase. -/
def Part.nextUpdate (p : Part) (g : Grp) : Instant := p.updateAt g (p.tb g).k (p.tb g).apex

/-- The next period boundary of a timebase. -/
def Part.nextBoundary (p : Part) (g : Grp) : Instant :=
  let tb := p.tb g
  if tb.apex then p.updateAt g (tb.k + 1) false else p.updateAt g tb.k false

/-- The first boundary of a carrier at or after an instant. -/
def firstBoundary (per : Nat × Nat) (base : Int) (t : Instant) : Int :=
  let k0 := ((t : Int) - base) * per.2 / (per.1 * countUnits) - 1
  let ks := [k0, k0 + 1, k0 + 2]
  (ks.find? (fun k => t ≤ boundaryAt per base k false)).getD (k0 + 3)

/-- Whether a group of the CLE runs its figure: MODE is TMR, DUPLEX or HOLD (Table 4.12). -/
def Part.groupRuns (p : Part) (g : Grp) : Bool :=
  let m := p.fld (Reg.CLE_GSTAT g.ix) 24 4
  m = 1 || m = 2 || m = 3

/-- RUN = 1 (R199): a stopped timebase starts at its first boundary at least 2 µs later; a running one withdraws a
stop that waits. -/
def Part.tbStart (p : Part) (g : Grp) (t : Instant) : Part :=
  let p := ((p.at t).setBit (Reg.PWM_TBCTL g.ix) 0 true).setBit (Reg.PWM_TBSTAT g.ix) 29 false
  if p.tbRuns g then p.setTb g { p.tb g with stopReq := false }
  else
    let t := t + usec 2
    let align := p.bit (Reg.PWM_TBCFG g.ix) 31
    let base : Int := if align then
      sec (p.pair (Reg.PWM_ANCHOR_LO g.ix)) + p.fld (Reg.PWM_PHASE g.ix) 0 29 * tdcStep else t
    let k := if align then firstBoundary (p.period g) base t else 0
    ((p.setTb g { base := base, k := k, last := t }).setBit (Reg.PWM_TBSTAT g.ix) 31 true).setBit
      (Reg.PWM_TBSTAT g.ix) 30 align

/-- TIMEBASE_START. -/
def execTimebaseStart (g : Grp) (t : Instant) (s : State) := s.run (·.tbStart g t)

/-- RUN = 0 (R199): a running timebase stops at its next boundary; while the group's CLE runs the write is ignored and
STOPREF is set. -/
def Part.tbStopReq (p : Part) (g : Grp) (t : Instant) : Part :=
  let p := p.at t
  if !p.tbRuns g then p.setBit (Reg.PWM_TBCTL g.ix) 0 false
  else if p.groupRuns g then p.setBit (Reg.PWM_TBSTAT g.ix) 29 true
  else ((p.setTb g { p.tb g with stopReq := true }).setBit (Reg.PWM_TBCTL g.ix) 0 false).setBit
    (Reg.PWM_TBSTAT g.ix) 29 false

/-- TIMEBASE_STOP. -/
def execTimebaseStop (g : Grp) (t : Instant) (s : State) := s.run (·.tbStopReq g t)

/-! Pairs, legs and codes. -/

/-- Timebase of a pair. -/
def Part.pairGrp (p : Part) (q : Nat) : Grp := if p.bit (Reg.PWM_PCFG q) 30 then .B else .A

/-- An enabled pair. -/
def Part.pairOn (p : Part) (q : Nat) : Bool := p.bit (Reg.PWM_PCFG q) 31

/-- MODE = INDEP. -/
def Part.pairIndep (p : Part) (q : Nat) : Bool := p.fld (Reg.PWM_PCFG q) 26 2 = 1

/-- An enabled leg. -/
def Part.legOn (p : Part) (l : Nat) : Bool := p.bit (Reg.PWM_LEGCFG l) 31

/-- A 3-level NPC leg. -/
def Part.legNpc (p : Part) (l : Nat) : Bool := p.bit (Reg.PWM_LEGCFG l) 30

/-- P0 of a leg. -/
def Part.legP0 (p : Part) (l : Nat) : Nat := p.fld (Reg.PWM_LEGCFG l) 0 5

/-- P1 of a leg. -/
def Part.legP1 (p : Part) (l : Nat) : Nat := p.fld (Reg.PWM_LEGCFG l) 8 5

/-- The group of a leg: that of its P0. -/
def Part.legGrp (p : Part) (l : Nat) : Grp := p.pairGrp (p.legP0 l)

/-- The channels of a leg: upper and lower, or T1, T3, T2 and T4 (R203). -/
def Part.legChans (p : Part) (l : Nat) : List Nat :=
  let a := p.legP0 l
  let b := p.legP1 l
  if p.legNpc l then [2 * a, 2 * a + 1, 2 * b, 2 * b + 1] else [2 * a, 2 * a + 1]

/-- The enabled leg that names a pair. -/
def Part.legOfPair (p : Part) (q : Nat) : Option Nat :=
  (List.range 24).find? (fun l => p.legOn l && (p.legP0 l = q || (p.legNpc l && p.legP1 l = q)))

/-- Whether a pair is P0 of an enabled NPC leg. -/
def Part.isNpcP0 (p : Part) (q : Nat) : Bool :=
  (List.range 24).any (fun l => p.legOn l && p.legNpc l && p.legP0 l = q)

/-- The span S of R204, in steps. -/
def Part.span (p : Part) (g : Grp) : Nat :=
  let (n, d) := p.period g
  (if p.carrier g = 2 then 16 * n else 32 * n) / d

/-- Exact 100 %. -/
def codeFull : Nat := 0xFFFFFF

/-- The compare code of a duty (R204); an NPC leg's compare A records the sign and converts the magnitude. -/
def dutyCode (npc : Bool) (span : Nat) (x : Word) : Word :=
  let neg := npc && fpLt x 0
  let v := if neg then fpNeg x else x
  let sgn := if neg then 2 ^ 31 else 0
  if fpLe v 0 then BitVec.ofNat 32 sgn
  else if fpLe fpOne v then BitVec.ofNat 32 (sgn + codeFull)
  else
    let c := (clampInt 32 ((span : Int) - 32) (fpToUnits v span)).toNat
    BitVec.ofNat 32 (sgn + c % 32 * 2 ^ 24 + c / 32 % 2 ^ 24)

/-- The binary32 pattern of one half. -/
def fpHalf : Word := 0x3F000000

/-- The binary32 pattern of three halves. -/
def fpThreeHalves : Word := 0x3FC00000

/-- The stored leg command of a written value (R205). -/
def commandCode (x : Word) : Word :=
  if fpLt x fpHalf then 1 else if fpLt x fpThreeHalves then 0 else 2

/-- A voted PWMW word for compare `sel` (false A, true B) of pair `q` (R160, R202, R204, R205): it enters the shadow,
or is discarded and counted where the pair is disabled, is software's, or belongs to the other group. -/
def Part.votedDuty (p : Part) (g : Grp) (q : Nat) (sel : Bool) (x : Word) : Part :=
  if 24 ≤ q || !p.pairOn q || p.bit (Reg.PWM_PCFG q) 29 || p.pairGrp q ≠ g then p.countSat (Reg.PWM_TBSTAT g.ix) 0 16
  else if sel && !p.pairIndep q then p.setReg (Reg.PWM_CMPB q) (commandCode x)
  else p.setReg (if sel then Reg.PWM_CMPB q else Reg.PWM_CMPA q) (dutyCode (!sel && p.isNpcP0 q) (p.span g) x)

/-- Restore the PWM shadows of a group from its hold copies (R122). -/
def Part.restoreHold (p : Part) (g : Grp) : Part :=
  p.each ((List.range 24).filter (fun q => p.pairGrp q = g)) (fun p q =>
    (p.setReg (Reg.PWM_CMPA q) (sGet (fun _ => 0) p.pwm.hold (2 * q))).setReg (Reg.PWM_CMPB q)
      (sGet (fun _ => 0) p.pwm.hold (2 * q + 1)))

/-! Software writes (R208). -/

/-- The key of an initiator's held half of a pair. -/
def heldKey (ini : Initiator) (off : Nat) : Nat := ini.ix * 2 ^ 24 + off

/-- Drop an initiator's held half. -/
def Part.dropHeld (p : Part) (ini : Initiator) (off : Nat) : Part :=
  { p with bus := { p.bus with held := sErase p.bus.held (heldKey ini off) } }

/-- Hold a low half for an initiator. -/
def Part.putHeld (p : Part) (ini : Initiator) (off : Nat) (v : Word) : Part :=
  { p with bus := { p.bus with held := sPut p.bus.held (heldKey ini off) v } }

/-- An initiator's held half. -/
def Part.held (p : Part) (ini : Initiator) (off : Nat) : Option Word := sFind p.bus.held (heldKey ini off)

/-- A software write of CMPA: held for the initiator; with SRC = 0 it has no effect and sets REJ. -/
def Part.cmpaWrite (p : Part) (ini : Initiator) (q : Nat) (v : Word) : Part :=
  if !p.bit (Reg.PWM_PCFG q) 29 then p.setBit (Reg.PWM_WSTAT q) 2 true
  else p.putHeld ini (Reg.PWM_CMPA q) v

/-- PWM_CMPA_WRITE. -/
def execPwmCmpaWrite (ini : Initiator) (q : Fin 24) (v : Word) (s : State) := s.run (·.cmpaWrite ini q.val v)

/-- Place both values of a software write into the shadow. -/
def Part.placeShadow (p : Part) (q : Nat) (a b : Word) : Part :=
  (p.setReg (Reg.PWM_CMPA q) a).setReg (Reg.PWM_CMPB q) b

/-- A software write of CMPB: it places A and B together; one that completes in the transfer clock or after the update
instant takes effect at the transfer after it. -/
def Part.cmpbWrite (p : Part) (ini : Initiator) (q : Nat) (v : Word) (t : Instant) : Part :=
  let p := p.at t
  if !p.bit (Reg.PWM_PCFG q) 29 then p.setBit (Reg.PWM_WSTAT q) 2 true
  else
    let g := p.pairGrp q
    let a := (p.held ini (Reg.PWM_CMPA q)).getD (p.reg (Reg.PWM_CMPA q))
    let p := p.dropHeld ini (Reg.PWM_CMPA q)
    let runs := p.tbRuns g
    let next := p.nextUpdate g
    let ended := runs && next ≤ t
    let late := runs && next < t + nsec 200
    let eff := (p.reg (Reg.PWM_USEQ g.ix)).toNat + (if ended then 2 else 1)
    let p := p.setReg (Reg.PWM_WSTAT q) (BitVec.ofNat 32 (eff % 65536 * 65536 + 2 + late.toNat))
    if ended then
      let tb := p.tb g
      p.setTb g { tb with deferred := (tb.deferred.filter (fun e => e.1 ≠ q)) ++ [(q, (a, v))] }
    else p.placeShadow q a v

/-- PWM_CMPB_WRITE. -/
def execPwmCmpbWrite (ini : Initiator) (q : Fin 24) (v : Word) (t : Instant) (s : State) :=
  s.run (·.cmpbWrite ini q.val v t)

/-- The shadow transfer of a timebase (R207): the shadows of its pairs move to the active compares, the hold copies
take the values moved, USEQ increments, and the writes that completed in the transfer clock enter the shadows. -/
def Part.transfer (p : Part) (g : Grp) : Part :=
  let pairs := (List.range 24).filter (fun q => p.pairGrp q = g)
  let tb := p.tb g
  let p := p.each pairs (fun p q =>
    let a := p.reg (Reg.PWM_CMPA q)
    let b := p.reg (Reg.PWM_CMPB q)
    let p := (p.setReg (Reg.PWM_ACMPA q) a).setReg (Reg.PWM_ACMPB q) b
    let h := sSet (fun _ => 0) (sSet (fun _ => 0) p.pwm.hold (2 * q) a) (2 * q + 1) b
    let p := { p with pwm := { p.pwm with hold := h } }
    p.when (!tb.deferred.any (fun e => e.1 = q)) (·.setBit (Reg.PWM_WSTAT q) 1 false))
  let p := p.each tb.deferred (fun p e => p.placeShadow e.1 e.2.1 e.2.2)
  (p.setTb g { tb with deferred := [] }).setReg (Reg.PWM_USEQ g.ix) (p.reg (Reg.PWM_USEQ g.ix) + 1)

/-! Requested edges (R206, R211). Places count steps of 78.125 ps. -/

/-- What a signal's schedule is made from at an update instant. -/
structure SchedCtx where
  /-- 0 up, 1 down, 2 up-down. -/
  car : Nat
  dbl : Bool
  /-- The update is an apex. -/
  atApex : Bool
  /-- The update instant, the apex of its period and the next boundary. -/
  u : Int
  a : Int
  b2 : Int
  /-- DT + MINPW. -/
  lim : Int
  extend : Bool
  /-- The complement drives the lower switch and is judged too. -/
  comp : Bool
deriving DecidableEq, Repr

/-- A signal's new schedule, its carry, and how many pulses were dropped and lengthened. -/
structure SchedOut where
  sig : Sig
  carry : Int
  drops : Nat := 0
  exts : Nat := 0
deriving DecidableEq, Repr

/-- A pulse of the up carrier, from the boundary. One that follows on a pulse that ran to the boundary goes on; a new one and
the lower pulse behind it are judged (R206, R211). -/
def schedUp (x : SchedCtx) (s : Sig) (c carry : Int) : SchedOut :=
  let u := x.u.toNat
  let w := if x.extend then c else c + carry
  let base := { s with live := true }
  if w ≤ 0 then
    { sig := { base with edges := [(u, false)], lowAt := if s.lvl then u else s.lowAt }, carry := w }
  else if !s.lvl && !x.extend && w < x.lim then { sig := { base with edges := [] }, carry := w, drops := 1 }
  else
    let onAt : Int := if s.lvl then s.onAt else x.u
    let off := max (x.u + w) (onAt + x.lim)
    let exts := (!s.lvl && x.extend && decide (w < x.lim)).toNat
    let on : Sig := { base with edges := [(u, true)], onAt := onAt.toNat }
    let lw := x.b2 - off
    if lw ≤ 0 then { sig := on, carry := if x.extend then 0 else x.u + w - x.b2, exts := exts }
    else if x.comp && lw < x.lim then
      if x.extend then
        let off := max (onAt + x.lim) (x.b2 - x.lim)
        { sig := { on with edges := [(u, true), (off.toNat, false)], lowAt := off.toNat }, carry := 0, exts := exts + 1 }
      else { sig := on, carry := x.u + w - x.b2, drops := 1 }
    else
      { sig := { on with edges := [(u, true), (off.toNat, false)], lowAt := off.toNat },
        carry := if x.extend then 0 else x.u + w - off, exts := exts }

/-- A pulse of the down carrier, to the next boundary. The pulse before ends at the boundary, and the lower pulse from there
is judged; one that stood before goes on (R206, R211). -/
def schedDown (x : SchedCtx) (s : Sig) (c carry : Int) : SchedOut :=
  let u := x.u.toNat
  let period := x.b2 - x.u
  let w := if x.extend then c else c + carry
  let base := { s with live := true, lowAt := if s.lvl then u else s.lowAt }
  let lw := period - w
  if w ≤ 0 then { sig := { base with edges := [(u, false)] }, carry := w }
  else if !x.extend && w < x.lim && (x.lim ≤ lw || !x.comp || !s.lvl) then
    { sig := { base with edges := [(u, false)] }, carry := w, drops := 1 }
  else
    let w1 := max w x.lim
    let exts := (x.extend && decide (w < x.lim)).toNat
    if lw ≤ 0 then { sig := { s with live := true, edges := [(u, true)], onAt := if s.lvl then s.onAt else u },
                     carry := if x.extend then 0 else w - period, exts := exts }
    else if x.comp && s.lvl && lw < x.lim then
      if x.extend then
        { sig := { base with edges := [(u, false), ((x.u + x.lim).toNat, true)], onAt := (x.u + x.lim).toNat }, carry := 0,
          exts := exts + 1 }
      else { sig := { s with live := true, edges := [] }, carry := w - period, drops := 1 }
    else
      let on := x.b2 - w1
      let on := if x.comp && s.live && !s.lvl && on < s.lowAt + x.lim then s.lowAt + x.lim else on
      { sig := { base with edges := [(u, false), (on.toNat, true)], onAt := on.toNat },
        carry := if x.extend then 0 else w - (x.b2 - on), exts := exts }

/-- The on-edge of an up-down pulse, at the valley, where the code `c` takes effect. -/
def schedValley (x : SchedCtx) (s : Sig) (c carry : Int) : SchedOut :=
  let u := x.u.toNat
  let cv := c.toNat
  if s.lvl && s.lowDropped then
    { sig := { s with live := true, cv := cv, edges := [], omitted := false, offExtra := 0 },
      carry := if x.extend then 0 else carry - ((x.a - x.u - c) - s.lowHalf) }
  else if s.lvl then
    -- on from a 100 % code: a lower pulse stands from the valley to the on-edge
    let lw := x.a - x.u - c
    if x.comp && 0 < lw && lw < x.lim then
      if x.extend then
        { sig := { s with live := true, cv := cv, edges := [(u, false), ((x.u + x.lim).toNat, true)],
                          lowAt := u, onAt := (x.u + x.lim).toNat, omitted := false, offExtra := 0, onExtra := 0 },
          carry := 0, exts := 1 }
      else
        { sig := { s with live := true, cv := cv, edges := [], omitted := false, offExtra := 0, onExtra := 0 },
          carry := carry - lw, drops := 1 }
    else
      { sig := { s with live := true, cv := cv, edges := [(u, false), ((x.a - c).toNat, true)], lowAt := u,
                        onAt := (x.a - c).toNat, omitted := false, offExtra := 0, onExtra := 0 },
        carry := carry }
  else
    let w := if x.extend then 2 * c else 2 * c + carry
    if !x.extend && w ≤ 0 then
      { sig := { s with live := true, cv := cv, edges := [], omitted := true, onExtra := 0 }, carry := w }
    else if !x.extend && w < x.lim then
      { sig := { s with live := true, cv := cv, edges := [], omitted := true, onExtra := 0 }, carry := w, drops := 1 }
    else
      let ext := x.extend && w < x.lim
      let w := if ext then x.lim else w
      let half := w / 2
      let on0 := x.a - half + s.onExtra
      let on := max x.u on0
      let on := if x.comp && s.live && on < s.lowAt + x.lim && s.lowAt ≤ u then s.lowAt + x.lim else on
      { sig := { s with live := true, cv := cv, edges := [(on.toNat, true)], onAt := on.toNat, omitted := false,
                        lowDropped := false, offExtra := if x.extend then 0 else (w - half) - c, onExtra := 0 },
        -- what the pulse loses at its on-edge stays requested (R211)
        carry := if x.extend then 0 else on - on0, exts := ext.toNat }

/-- The off-edge of an up-down pulse, at the apex, where the code `c` takes effect. -/
def schedApex (x : SchedCtx) (s : Sig) (on : Bool) (c carry : Int) : SchedOut :=
  if s.omitted then
    { sig := { s with omitted := true }, carry := carry + (c - s.cv) }
  else
    -- a pulse that stands, or one that begins at the apex
    let w := if x.extend then c else c + carry
    if !on && !x.extend && w < x.lim then
      { sig := { s with live := true, omitted := true }, carry := w, drops := if 0 < w then 1 else 0 }
    else
      let onAt : Int := if on then s.onAt else x.a
      let off0 := if on then x.a + c + s.offExtra else x.a + w
      let short := off0 - onAt < x.lim
      let off := if short then onAt + x.lim else off0
      -- requested minus delivered, where the off-edge is moved (R211)
      let carry := if x.extend then 0 else (if on then carry else 0) - (off - off0)
      let exts := (x.extend && short && !on).toNat
      let start : List (Nat × Bool) := if on then s.edges else s.edges ++ [(x.a.toNat, true)]
      let lw := 2 * (x.b2 - off)
      let more := if carry < 0 then -carry else 0
      if x.b2 ≤ off then
        { sig := { s with live := true, edges := start, onAt := onAt.toNat, lowDropped := true, lowHalf := 0 },
          carry := if x.extend then 0 else carry + (off - x.b2), exts := exts }
      else if x.comp && x.extend && lw < x.lim then
        let off := x.b2 - x.lim / 2
        { sig := { s with live := true, edges := start ++ [(off.toNat, false)], onAt := onAt.toNat,
                          lowAt := off.toNat, lowDropped := false },
          carry := 0, exts := exts + 1 }
      else if x.comp && !x.extend && lw + more < x.lim then
        { sig := { s with live := true, edges := start, onAt := onAt.toNat, lowDropped := true, lowHalf := x.b2 - off },
          carry := carry - lw, drops := 1 }
      else
        let x1 := if x.comp then more / 2 else 0
        let x2 := if x.comp then more - more / 2 else 0
        { sig := { s with live := true, edges := start ++ [((off - x1).toNat, false)], onAt := onAt.toNat,
                          lowAt := (off - x1).toNat, lowDropped := false, onExtra := x2.toNat },
          carry := if x.comp then max carry 0 else carry, exts := exts }

/-- The level a signal's requests have reached, or will have reached at a place. -/
def Sig.levelAt (s : Sig) (t : Int) : Bool :=
  s.edges.foldl (fun l e => if (e.1 : Int) ≤ t then e.2 else l) s.lvl

/-- A signal's schedule from an update instant on, from the code taken there (R204, R206, R211). -/
def sched (x : SchedCtx) (s : Sig) (code : Word) (carry : Int) : SchedOut :=
  let s := { s with lvl := s.levelAt x.u, edges := s.edges.filter (fun e => x.u < (e.1 : Int)) }
  let coarse := bits code 0 24
  let c : Int := coarse * 32 + bits code 24 5
  let special : Bool → SchedOut := fun on =>
    { sig := { s with live := true, edges := [(x.u.toNat, on)], omitted := false, lowDropped := false, cv := 0,
                      offExtra := 0, onExtra := 0, onAt := if s.lvl then s.onAt else x.u.toNat,
                      lowAt := if s.lvl then x.u.toNat else s.lowAt },
      carry := 0 }
  if coarse = 0 then special false
  else if coarse = codeFull then special true
  else if x.car = 0 then schedUp x s c carry
  else if x.car = 1 then schedDown x s c carry
  else if x.atApex then schedApex x { s with edges := s.edges.filter (fun e => e.2) } (s.levelAt x.a) c carry
  else
    let o := schedValley x s c carry
    if x.dbl then o
    else
      let r := schedApex x o.sig (o.sig.levelAt x.a) c o.carry
      { r with drops := o.drops + r.drops, exts := o.exts + r.exts }

/-- Signal `k` of the compares. -/
def Part.sig (p : Part) (k : Nat) : Sig := vget {} p.pwm.sigs k

/-- Replace signal `k`. -/
def Part.setSig (p : Part) (k : Nat) (x : Sig) : Part := { p with pwm := { p.pwm with sigs := vset p.pwm.sigs k x } }

/-- The signed carry of a register. -/
def Part.carry (p : Part) (off : Nat) : Int := (p.reg off).toInt

/-- Clear the carries and requests of a pair (R211). -/
def Part.clearPair (p : Part) (q : Nat) : Part :=
  (((p.setReg (Reg.PWM_CARRYA q) 0).setReg (Reg.PWM_CARRYB q) 0).setSig (2 * q) {}).setSig (2 * q + 1) {}

/-- The schedule context of a pair at an update instant. -/
def Part.schedCtx (p : Part) (g : Grp) (q : Nat) (k : Int) (apex : Bool) (u : Instant) (comp : Bool) : SchedCtx :=
  { car := p.carrier g, dbl := p.dbl g, atApex := apex, u := u / tdcStep, a := p.updateAt g k true / tdcStep,
    b2 := p.updateAt g (k + 1) false / tdcStep,
    lim := p.fld (Reg.PWM_DT q) 0 17 + p.fld (Reg.PWM_MINPW q) 0 16,
    extend := p.bit (Reg.PWM_PCFG q) 28, comp := comp }

/-- Schedule one compare of a pair. -/
def Part.schedSig (p : Part) (g : Grp) (q : Nat) (sel : Bool) (k : Int) (apex : Bool) (u : Instant) (comp : Bool) : Part :=
  let off := if sel then Reg.PWM_CARRYB q else Reg.PWM_CARRYA q
  let code := p.reg (if sel then Reg.PWM_ACMPB q else Reg.PWM_ACMPA q)
  let r := sched (p.schedCtx g q k apex u comp) (p.sig (2 * q + sel.toNat)) code (p.carry off)
  let cnt := p.reg (Reg.PWM_PSTAT q)
  let p := (p.setSig (2 * q + sel.toNat) r.sig).setReg off (wordOfInt r.carry)
  p.setReg (Reg.PWM_PSTAT q)
    (setBits (setBits cnt 16 16 (min 65535 (bits cnt 16 16 + r.drops))) 0 16 (min 65535 (bits cnt 0 16 + r.exts)))

/-- Apply the requested edges of a signal that are due. -/
def Sig.due (s : Sig) (t : Instant) : Sig :=
  { s with lvl := s.levelAt (t / tdcStep), edges := s.edges.filter (fun e => t / tdcStep < e.1) }

end Sys2Proof.Machine
end

