-- ==== Sys2Proof/Machine/Leg.lean ====
section
/-! DEFINITION. Legs: which condition governs one, and the gate commands that its state machine issues under dead time,
the handshake and the order of states (chapter 7, R209, R212 to R216). -/

namespace Sys2Proof.Machine

/-- The state machine of leg `l`. -/
def Part.leg (p : Part) (l : Nat) : Leg := vget {} p.pwm.legs l

/-- Replace a leg's state machine. -/
def Part.setLeg (p : Part) (l : Nat) (x : Leg) : Part := { p with pwm := { p.pwm with legs := vset p.pwm.legs l x } }

/-- Offset of the word that holds channel `c`, of a pair of registers. -/
def chanReg (lo c : Nat) : Nat := lo + 4 * (c / 32)

/-- The command of a channel: GATE_GT. -/
def Part.gt (p : Part) (c : Nat) : Bool := p.bit (chanReg Reg.GATE_GT_LO c) (c % 32)

/-- The filtered return of a channel: GATE_GS. -/
def Part.gs (p : Part) (c : Nat) : Bool := p.bit (chanReg Reg.GATE_GS_LO c) (c % 32)

/-- Instant of a channel's last command edge. -/
def Part.edgeAt (p : Part) (c : Nat) : Instant := sGet (fun _ => 0) p.pwm.edgeAt c

/-- The reserve gate channels that carry a target's command (R221). -/
def Part.gateCopies (p : Part) (c : Nat) : List Nat :=
  (List.range 8).filter (fun r =>
    (vget {} p.pwm.swaps r).phase ≠ .idle && p.fld (Reg.GATE_RSVMAP r) 0 6 = c)

/-- The return that speaks for a channel: its own, or that of the reserve that replaces it (R221). -/
def Part.ret (p : Part) (c : Nat) : Bool :=
  match (p.gateCopies c).find? (fun r => (vget {} p.pwm.swaps r).phase = .inService) with
  | some r => p.gs (48 + r)
  | none => p.gs c

/-- Note, after a command edge or a change of return, whether the return of a channel shows the command (R210). -/
def Part.noteShown (p : Part) (c : Nat) (edge : Bool) : Part :=
  let l := p.pwm.shown
  let l := if edge then l.filter (· ≠ c) else l
  { p with pwm := { p.pwm with shown := if p.gs c = p.gt c && !l.contains c then c :: l else l } }

/-- A command edge of one channel. -/
def Part.setGt (p : Part) (c : Nat) (lvl : Bool) (t : Instant) : Part :=
  let p := p.setBit (chanReg Reg.GATE_GT_LO c) (c % 32) lvl
  { p with pwm := { p.pwm with edgeAt := sSet (fun _ => 0) p.pwm.edgeAt c t } }.noteShown c true

/-- Issue a gate command of leg `l`: the channel, and the reserves that carry its command, change; the leg's blanking
window restarts (R189, R203). -/
def Part.command (p : Part) (l c : Nat) (lvl : Bool) (t : Instant) : Part :=
  let p := (p.setGt c lvl t).each (p.gateCopies c) (fun p r => p.setGt (48 + r) lvl t)
  p.setLeg l { p.leg l with blankEnd := t + nsec (10 * p.fld (Reg.PROT_BLANK l) 0 9) }

/-- What governs a leg (Table 7.7): the all-off state, the active short circuit, or its compare codes. -/
inductive LegMode | off | asc | run
deriving DecidableEq, Repr

/-- The safe state SAFE of a leg (Table 7.13). -/
def Part.legSafe (p : Part) (l : Nat) : LegMode := if p.fld (Reg.GATE_LCFG l) 0 2 = 1 then .asc else .off

/-- Rank 1: STO_A or STO_B removes driver supply. -/
def Part.stoHold (p : Part) : Bool := p.bit Reg.GATE_STAT 29

/-- A latched leg. -/
def Part.latched (p : Part) (l : Nat) : Bool := p.bit Reg.GATE_LATCH l

/-- Rank 3: group stopped or halted, timebase stopped, or a pair disabled. -/
def Part.legIdle (p : Part) (l : Nat) : Bool :=
  let g := p.legGrp l
  !(p.groupRuns g || (p.cg g).deferSafe) || !p.tbRuns g || !p.pairOn (p.legP0 l)
    || (p.legNpc l && !p.pairOn (p.legP1 l))

/-- The leg command (R205): compare B of P0, or RUN on an INDEP pair. -/
def Part.legCommand (p : Part) (l : Nat) : LegMode :=
  let q := p.legP0 l
  if !p.legNpc l && p.pairIndep q then .run
  else if p.reg (Reg.PWM_ACMPB q) = 1 then .run
  else if p.reg (Reg.PWM_ACMPB q) = 2 then .asc
  else .off

/-- The first row of Table 7.7 that applies. -/
def Part.legMode (p : Part) (l : Nat) : LegMode :=
  if p.stoHold then .off
  else if p.latched l || p.legIdle l then p.legSafe l
  else p.legCommand l

/-- The levels wanted of a leg's channels (R206, Table 7.5), in the order of its channels. -/
def Part.legWant (p : Part) (l : Nat) : List Bool :=
  let q := p.legP0 l
  let a := p.sig (2 * q)
  let b := p.sig (2 * q + 1)
  if p.legNpc l then
    match p.legMode l with
    | .off => [false, false, false, false]
    | .asc => [false, true, false, true]
    | .run =>
      if !a.live then [false, false, false, false]
      else if p.bit (Reg.PWM_ACMPA q) 31 then [false, true, !a.lvl, a.lvl]
      else [a.lvl, !a.lvl, true, false]
  else
    match p.legMode l with
    | .off => [false, false]
    | .asc => [false, true]
    | .run => if !a.live then [false, false] else [a.lvl, if p.pairIndep q then b.lvl else !a.lvl]

/-- What a leg's conditions are judged on. -/
structure LegView where
  npc : Bool
  chans : List Nat
  mode : LegMode
  /-- DT of each switch's pair, in units of time. -/
  dt : List Nat
  /-- The least dwell in O. -/
  dwell : Nat
deriving DecidableEq, Repr

/-- The view of a leg. -/
def Part.legView (p : Part) (l : Nat) : LegView :=
  let a := p.legP0 l
  let b := p.legP1 l
  let d : Nat → Nat := fun q => p.fld (Reg.PWM_DT q) 0 17 * tdcStep
  let m : Nat → Nat := fun q => p.fld (Reg.PWM_MINPW q) 0 16 * tdcStep
  { npc := p.legNpc l, chans := p.legChans l, mode := p.legMode l,
    dt := if p.legNpc l then [d a, d a, d b, d b] else [d a, d a],
    dwell := max (m a) (m b) }

/-- Channel of switch `i` of a view. -/
def LegView.ch (v : LegView) (i : Nat) : Nat := v.chans.getD i 0

/-- The partner switch: U and L; T1 and T3, T2 and T4. -/
def partnerOf (i : Nat) : Nat := if i % 2 = 0 then i + 1 else i - 1

/-- The inner switch that an outer one needs: T2 for T1, T3 for T4. -/
def innerOf (i : Nat) : Nat := if i = 0 then 2 else 1

/-- The outer switch that rests on an inner one: T1 for T2, T4 for T3. -/
def outerOf (i : Nat) : Nat := if i = 2 then 0 else 3

/-- Whether a switch of an NPC leg is an outer one: T1 or T4. -/
def isOuter (i : Nat) : Bool := i = 0 || i = 3

/-- R209: the partner's off command lies DT back and its filtered return shows off. -/
def Part.handshake (p : Part) (v : LegView) (i : Nat) (t : Instant) : Bool :=
  let c := v.ch (partnerOf i)
  !p.gt c && !p.ret c && p.edgeAt c + v.dt.getD i 0 ≤ t

/-- R213: the order of an NPC leg lets switch `i` take the level: an outer switch turns on only over a proven inner
one; an inner switch turns off only after its outer one is proven off and DT of the outer pair has passed, not before its
fellow inner switch, where that is wanted, is proven on, and on a direct request in RUN not before the dwell in O has passed. -/
def Part.orderOk (p : Part) (v : LegView) (lg : Leg) (want : List Bool) (i : Nat) (lvl : Bool) (t : Instant) : Bool :=
  if !v.npc then true
  else if isOuter i then
    let c := v.ch (innerOf i)
    !lvl || (p.gt c && p.ret c)
  else if lvl then true
  else
    let o := v.ch (outerOf i)
    let fellow := if i = 2 then 1 else 2
    !p.gt o && !p.ret o && p.edgeAt o + v.dt.getD 0 0 ≤ t
      && (!want.getD fellow false || (p.gt (v.ch fellow) && p.ret (v.ch fellow)))
      && (v.mode ≠ .run || lg.direct = 0 || lg.oAt + v.dwell ≤ t)

/-- Whether switch `i` may take its wanted level now: a turn-off of a two-level leg or of an outer switch is never
delayed. -/
def Part.mayIssue (p : Part) (v : LegView) (lg : Leg) (want : List Bool) (t : Instant) (i : Nat) : Bool :=
  let lvl := want.getD i false
  p.gt (v.ch i) ≠ lvl && p.orderOk v lg want i lvl t && (!lvl || p.handshake v i t)

/-- The commands of a leg's channels. -/
def Part.legCmds (p : Part) (v : LegView) : List Bool := v.chans.map p.gt

/-- State code of PWM_LSTAT from the commands (Table 7.9). -/
def legCode : List Bool → Nat
  | [false, false] => 0
  | [true, false] => 1
  | [false, true] => 2
  | [false, false, false, false] => 0
  | [true, false, true, false] => 3
  | [false, true, true, false] => 4
  | [false, true, false, true] => 5
  | _ => 6

/-- The levels wanted under the rule that an NPC leg leaves Z through O (R213). -/
def legGoal (v : LegView) (lg : Leg) (want : List Bool) : List Bool :=
  if v.npc && lg.fromZ then [false, true, true, false] else want

/-- Note the state after a command, and when O was entered. -/
def Part.noteLeg (p : Part) (l : Nat) (v : LegView) (before : Nat) (t : Instant) : Part :=
  let code := legCode (p.legCmds v)
  let lg := p.leg l
  let lg := if v.npc && code = 4 && before ≠ 4 then { lg with oAt := t } else lg
  (p.setLeg l lg).setFld (Reg.PWM_LSTAT l) 0 4 code

/-- Issue, one after another, every command of a leg whose conditions stand; off commands first. -/
def Part.issueLeg (p : Part) (l : Nat) (v : LegView) (want : List Bool) (t : Instant) : Nat → Part
  | 0 => p
  | k + 1 =>
    let before := legCode (p.legCmds v)
    let lg := p.leg l
    -- Z is left through O
    let lg := if v.npc && before = 0 && want.any id then { lg with fromZ := true }
      else if v.npc && !want.any id then { lg with fromZ := false } else lg
    let lg := if lg.fromZ && before = 4 then { lg with fromZ := false } else lg
    let p := p.setLeg l lg
    let goal := legGoal v lg want
    let idx := List.range v.chans.length
    let ready := (idx.filter (fun i => !goal.getD i false) ++ idx.filter (fun i => goal.getD i false)).find?
      (p.mayIssue v lg goal t)
    match ready with
    | none => p
    | some i =>
      ((p.command l (v.ch i) (goal.getD i false) t).noteLeg l v before t).issueLeg l v want t k

/-- The direct request between P and N that is under way (R213): 3 to P, 5 to N, 0 none. In RUN the wanted state went straight
from one to the other, and the leg has not reached it. -/
def Part.directTo (p : Part) (v : LegView) (lg : Leg) (want : List Bool) : Nat :=
  let goal := legCode want
  if !v.npc || v.mode ≠ .run then 0
  else if (goal = 3 && lg.want = 5) || (goal = 5 && lg.want = 3) then goal
  else if (goal = 3 || goal = 5) && lg.direct = goal && legCode (p.legCmds v) ≠ goal then goal
  else 0

/-- Edges that the order of R213 or the dwell in O holds back from their requested instants, each counted once in LEGSEQ. The
steps of the way to all-off are the sequence's own (R216), and so is, on the way out of Z, the inner switch that only the passage
through O turns on (DEDUCED, log entry 63). -/
def Part.countHeld (p : Part) (l : Nat) (v : LegView) (want : List Bool) (t : Instant) : Part :=
  if !v.npc then p
  else
    let lg := { p.leg l with direct := p.directTo v (p.leg l) want, want := if v.mode = .run then legCode want else 0 }
    let ix := if legCode want = 0 then [] else List.range 4
    let waits : Nat → Bool := fun i => p.gt (v.ch i) ≠ want.getD i false
    let out := lg.fromZ || (legCode (p.legCmds v) = 0 && want.any id)
    let own := ix.filter (fun i => out && !isOuter i && !want.getD i false)
    let sw := ix.filter (fun i => waits i && !p.orderOk v lg want i (want.getD i false) t)
    let fresh := sw.filter (fun i => !lg.held.testBit i && !own.contains i)
    let kept := ix.filter (fun i => lg.held.testBit i && (waits i || out))
    let mask := (sw ++ kept ++ own).foldl (fun m i => m ||| 2 ^ i) 0
    (p.setLeg l { lg with held := mask }).setFld (Reg.PWM_LSTAT l) 16 16
      (min 65535 (p.fld (Reg.PWM_LSTAT l) 16 16 + fresh.length))

/-- Evaluate a leg at an instant: the row of Table 7.7 that governs it gives the wanted levels, and every command whose
conditions stand is issued. A leg that leaves RUN clears its carries (R211). -/
def Part.evalLeg (p : Part) (t : Instant) (l : Nat) : Part :=
  if !p.legOn l then p
  else
    let run := p.legMode l = .run
    let p := p.when ((p.leg l).ran && !run) (·.clearPair (p.legP0 l))
    let p := p.setLeg l { p.leg l with ran := run }
    let v := p.legView l
    let want := p.legWant l
    let p := p.countHeld l v want t
    p.issueLeg l v want t 10

/-- Evaluate every leg. -/
def Part.evalLegs (p : Part) (t : Instant) : Part := p.each (List.range 24) (fun p l => p.evalLeg t l)

/-- A leg latches (R190, R215): GATE_SOFT rises, a clear that waits is dropped (R218), and the leg takes its safe
state. -/
def Part.latchLeg (p : Part) (t : Instant) (l : Nat) : Part :=
  let p := ((p.setBit Reg.GATE_LATCH l true).setBit Reg.GATE_SOFTOUT l true).hostFault
  (p.setLeg l { p.leg l with clearing := none }).evalLeg t l

/-- The leg latch falls: GATE_SOFT falls and the leg follows Table 7.7 from rank 3 down (R217). -/
def Part.unlatchLeg (p : Part) (t : Instant) (l : Nat) : Part :=
  ((p.setBit Reg.GATE_LATCH l false).setBit Reg.GATE_SOFTOUT l false).evalLeg t l

/-- Schedule the requested edges of a leg that runs, from an update instant (R206). -/
def Part.scheduleLeg (p : Part) (g : Grp) (k : Int) (apex : Bool) (u : Instant) (l : Nat) : Part :=
  let q := p.legP0 l
  if p.legMode l ≠ .run then p.clearPair q
  else if !p.legNpc l && p.pairIndep q then
    (p.schedSig g q false k apex u false).schedSig g q true k apex u false
  else p.schedSig g q false k apex u true

/-- The enabled legs of a group. -/
def Part.legsOf (p : Part) (g : Grp) : List Nat := (List.range 24).filter (fun l => p.legOn l && p.legGrp l = g)

/-- The edges that follow from a transfer: every leg of the group is scheduled, the edges at the update instant fall,
and the legs are evaluated. -/
def Part.scheduleGroup (p : Part) (g : Grp) (k : Int) (apex : Bool) (u : Instant) : Part :=
  let p := p.each (p.legsOf g) (fun p l => p.scheduleLeg g k apex u l)
  p.each (p.legsOf g) (fun p l =>
    let q := p.legP0 l
    let p := (p.setSig (2 * q) ((p.sig (2 * q)).due u)).setSig (2 * q + 1) ((p.sig (2 * q + 1)).due u)
    p.evalLeg u l)

/-- The requested edges of a leg that are due fall (R206), and the leg is evaluated. -/
def Part.pwmEdge (p : Part) (l : Nat) (t : Instant) : Part :=
  let q := p.legP0 l
  let p := p.at t
  let p := (p.setSig (2 * q) ((p.sig (2 * q)).due t)).setSig (2 * q + 1) ((p.sig (2 * q + 1)).due t)
  p.evalLeg t l

/-- PWM_EDGE. -/
def execPwmEdge (leg : Fin 24) (t : Instant) (s : State) := s.run (·.pwmEdge leg.val t)

/-- DEAD_TIME_EXPIRY: a turn-on that waited for DT is issued if the partner's return shows off (R209). -/
def execDeadTimeExpiry (leg : Fin 24) (t : Instant) (s : State) := s.run (fun p => (p.at t).evalLeg t leg.val)

/-- NPC_DWELL_END: a leg that dwelt in O goes on (R213). -/
def execNpcDwellEnd (leg : Fin 24) (t : Instant) (s : State) := s.run (fun p => (p.at t).evalLeg t leg.val)

/-- The timebase stops (R199): its pairs take their legs' safe state, without GATE_SOFT. -/
def Part.tbStopped (p : Part) (g : Grp) (t : Instant) : Part :=
  let p := (p.setTb g {}).setFld (Reg.PWM_TBSTAT g.ix) 29 3 0
  let p := p.each ((List.range 24).filter (fun q => p.pairGrp q = g)) (fun p q => p.clearPair q)
  p.each (p.legsOf g) (fun p l => p.evalLeg t l)

/-- The level of a GT pin (R219): high-impedance until the part first holds the floor; then the command while the part
holds the floor and the off level otherwise, under POL. A replaced target stays at its off level (R221). -/
def Part.gtPin (p : Part) (c : Nat) : Option Bool :=
  let pol := p.bit (Reg.GATE_CCFG c) 31
  if !p.bit Reg.GATE_STAT 30 then none
  else some (xor pol (p.floor && p.gt c && !p.bit (Reg.GATE_CHSTAT c) 30))

/-- The level of a GATE_SOFT output, under SOFTPOL. -/
def Part.softPin (p : Part) (l : Nat) : Bool := xor (p.bit (Reg.GATE_LCFG l) 31) (p.bit Reg.GATE_SOFTOUT l)

end Sys2Proof.Machine
end

