-- ==== Sys2Proof/Machine/OpSlot.lean ====
section
/-! DEFINITION. The states of the long-operation slots (R332) and the notes of the reserve manager (R412, R413), which
the blocks that own the units use. -/

namespace Sys2Proof.Machine

/-- Slot `k`. -/
def Part.op (p : Part) (k : Nat) : OpSlot := vget {} p.ops k

/-- Replace slot `k`. -/
def Part.setOp (p : Part) (k : Nat) (x : OpSlot) : Part := { p with ops := vset p.ops k x }

/-- STATE of a slot: 0 FREE, 1 QUEUED, 2 RUNNING, 3 DONE, 4 FAILED (Table 11.11). -/
def Part.opState (p : Part) (k : Nat) : Nat := p.fld (Reg.OP_STATUS_LO k) 28 4

/-- Set STATE of a slot. -/
def Part.setOpState (p : Part) (k n : Nat) : Part := p.setFld (Reg.OP_STATUS_LO k) 28 4 n

/-- Argument `i` of a slot as it stood when OP_CMD was written. -/
def Part.opArg (p : Part) (k i : Nat) : Word := (p.op k).args.getD i 0

/-- The operation of a slot ends DONE: PROGRESS reads 65 535. -/
def Part.opDone (p : Part) (k : Nat) : Part := (p.setOpState k 3).setFld (Reg.OP_STATUS_HI k) 0 16 65535

/-- The operation of a slot ends FAILED with GERR, and with ERR where GERR is 0x7. -/
def Part.opFail (p : Part) (k gerr err : Nat) : Part :=
  ((p.setOpState k 4).setFld (Reg.OP_STATUS_LO k) 24 4 gerr).setFld (Reg.OP_STATUS_HI k) 16 8
    (if gerr = 7 then err else 0)

/-- PLEN of a slot. -/
def Part.opPlen (p : Part) (k : Nat) : Nat := p.fld (Reg.OP_STATUS_LO k) 0 24

/-- Whether the result buffer of a slot lies in system SRAM or capture SRAM and is 8-byte aligned (R334). -/
def Part.opBufOk (p : Part) (k len : Nat) : Bool :=
  let a := p.pair (Reg.OP_RBUF_LO k)
  a % 8 = 0 && ((0x10000000 ≤ a && a + len ≤ 0x10000000 + 8 * 2 ^ 20)
    || (0x30000000 ≤ a && a + len ≤ 0x30000000 + 8 * 2 ^ 20))

/-- Append partial results (R334): the bytes that fit are written, PLEN counts them, and results beyond OP_RLEN fail the
operation with GERR 0x6. -/
def Part.opResult (p : Part) (k : Nat) (bs : List Byte) : Part :=
  let n := p.opPlen k
  let room := p.fld (Reg.OP_RLEN k) 0 24 - n
  let w := bs.take room
  let p := (p.storeBytes (p.pair (Reg.OP_RBUF_LO k) + n) w).setFld (Reg.OP_STATUS_LO k) 0 24 (n + w.length)
  if room < bs.length then p.opFail k 6 0 else p

/-- The long-operation slot, if one is given, ends DONE. -/
def Part.opDone? (p : Part) : Option Nat → Part
  | some k => p.opDone k
  | none => p

/-- The long-operation slot, if one is given, ends FAILED with an ERR code. -/
def Part.opErr? (p : Part) (err : Nat) : Option Nat → Part
  | some k => p.opFail k 7 err
  | none => p

/-- A swap is recorded: SPARE_LAST, the reserve log, the event log, SWAP, and the sticky flag RESERVE. -/
def Part.noteSwap (p : Part) (cls unit rsv cause : Nat) : Part :=
  let p := p.setReg Reg.SPARE_LAST
    (BitVec.ofNat 32 (cls * 2 ^ 24 + unit % 256 * 65536 + rsv % 256 * 256 + cause))
  let e : RsvEntry := { time := p.ringNow, cls := cls, unit := unit, rsv := rsv, cause := cause, outcome := 0 }
  let p := { p with rsvLog := (e :: p.rsvLog).take 64 }
  ((p.raise Reg.SPARE_EVT 1).hostReserve).logEvent .swap [cls, unit, rsv, cause]

/-- A unit is retired: RETIRE of SPARE_EVT, and an entry of the reserve log. -/
def Part.noteRetire (p : Part) (cls unit cause : Nat) : Part :=
  let e : RsvEntry := { time := p.ringNow, cls := cls, unit := unit, rsv := 255, cause := cause, outcome := 1 }
  { p with rsvLog := (e :: p.rsvLog).take 64 }.raise Reg.SPARE_EVT 0

/-- A unit of a class that no register shows as retired is retired (R416, R417). -/
def Part.retireUnit (p : Part) (cls unit cause : Nat) : Part :=
  if p.health.retired.contains (cls, unit) then p
  else { p with health := { p.health with retired := (cls, unit) :: p.health.retired } }.noteRetire cls unit cause

/-- A resource of Table 11.12 by its kind and number. -/
def resOf (kind n : Nat) : Nat := kind * 2 ^ 40 + n

/-- The resource of a reserve, named by class and number. -/
def resRsv (cls rsv : Nat) : Nat := resOf 0x0B (cls * 256 + rsv)

/-- The slot whose running operation holds a resource. -/
def Part.opHolding (p : Part) (res : Nat) : Option Nat :=
  (List.range 8).find? (fun k => p.opState k = 2 && (p.op k).res = some res)

/-- A swap that a RESERVE_SWAP asked for is complete: with RETIRE the outgoing unit is retired (R415). -/
def Part.swapDone (p : Part) (cls unit : Nat) : Option Nat → Part
  | some k => (p.when (bitAt (p.opArg k 1) 0) (·.retireUnit cls unit 5)).opDone k
  | none => p

end Sys2Proof.Machine
end

