-- ==== Sys2Proof/Machine/Prot.lean ====
section
/-! DEFINITION. Protection: trips of legs, the fault record, the comparators with blanking, and the reserve comparators
(chapter 6, R188 to R192). -/

namespace Sys2Proof.Machine

/-! Sources: 0x00 to 0x0D comparators, 0x40 + 2n + (w − 2) fast-path windows, 0x80 + n clock loss (Table 6.11). -/

/-- Legs acted on by fast-path window `w` (2 or 3) of SDn. -/
def Part.windowLegs (p : Part) (n w : Nat) : Nat := p.fld (Reg.SENSE_FLEGS n (w - 2)) 0 24

/-- The mask of legs a source acts on. -/
def Part.sourceLegs (p : Part) (src : Nat) : Nat :=
  if src < 0x40 then p.fld (Reg.PROT_LEGS src) 0 24
  else if src < 0x80 then p.windowLegs ((src - 0x40) / 2) ((src - 0x40) % 2 + 2)
  else p.windowLegs (src - 0x80) 2 ||| p.windowLegs (src - 0x80) 3

/-- A crossing or condition begins to stand. -/
def Part.stand (p : Part) (src cls : Nat) (t : Instant) : Part :=
  { p with sense := { p.sense with standing := p.sense.standing ++ [{ src := src, cls := cls, t := t }] } }

/-- A crossing or condition of a class no longer stands. -/
def Part.unstand (p : Part) (src cls : Nat) : Part :=
  { p with sense := { p.sense with standing := p.sense.standing.filter (fun x => !(x.src = src && x.cls = cls)) } }

/-- Whether a crossing of a source stands. -/
def Part.stands (p : Part) (src : Nat) : Bool := p.sense.standing.any (fun x => x.src = src)

/-- The earliest crossing still standing on a leg (R191), at most `t`. -/
def Part.earliest (p : Part) (l : Nat) (t : Instant) : Instant :=
  p.sense.standing.foldl (fun m x => if (p.sourceLegs x.src).testBit l then min m x.t else m) t

/-- After a trip the drivers of the leg's channels are asked for FAULTREG (R222). -/
def Part.askDrivers (p : Part) (l : Nat) : Part :=
  p.each ((p.legChans l).filter (fun c => p.bit (Reg.GATE_GADDR c) 31)) (fun p c =>
    let b := p.fld (Reg.GATE_GADDR c) 8 1
    let x := vget {} p.pwm.bus b
    { p with pwm := { p.pwm with bus := vset p.pwm.bus b { x with faults := x.faults.filter (· ≠ c) ++ [c] } } })

/-- A trip is reported to the sequencing library with its cause. -/
def Part.report (p : Part) (cause : Nat) : Part := { p with pwm := { p.pwm with reports := p.pwm.reports ++ [cause] } }

/-- FFIRST names the leg with the earliest stamp, the lower leg on a tie (R191). -/
def Part.protFirst (p : Part) (l cls src : Nat) (stamp : Instant) : Part :=
  let v := p.bit Reg.PROT_FFIRST 31
  let ff := p.sense.ffTime
  if !v || stamp < ff || (stamp = ff && l < p.fld Reg.PROT_FFIRST 16 5) then
    { p with sense := { p.sense with ffTime := stamp } }.setReg Reg.PROT_FFIRST
      (BitVec.ofNat 32 (2 ^ 31 + l * 65536 + cls * 256 + src))
  else p

/-- A clear that waits is dropped where its leg trips again: the latch stays set (R218). -/
def Part.keepLatch (p : Part) (l : Nat) : Part := p.setLeg l { p.leg l with clearing := none }

/-- A source trips a leg (R190, R191): the leg latches and takes its safe state, and the record takes it in. The first
leg of a record opens it. -/
def Part.tripLeg (p : Part) (l src cls : Nat) (held : Bool) (t : Instant) : Part :=
  let new := !p.latched l
  let p := p.keepLatch l
  let p := p.when new (fun p => ((p.latchLeg t l).askDrivers l).report 0x10)
  if p.bit Reg.PROT_FLEGS l then p
  else
    let opens := p.reg Reg.PROT_FLEGS = 0
    let stamp := p.earliest l t
    let p := (p.setBit Reg.PROT_FLEGS l true).setStamp (Reg.PROT_FTS_LO l) (p.ringOf stamp)
    let p := p.setReg (Reg.PROT_FSRC l)
      (BitVec.ofNat 32 (2 ^ 31 + (if held then 2 ^ 30 else 0) + cls * 256 + src))
    let p := p.protFirst l cls src stamp
    p.when opens (·.capEvent 0x411 stamp)

/-- Every leg of a mask trips at once. -/
def Part.tripLegs (p : Part) (mask src cls : Nat) (t : Instant) : Part :=
  p.each ((setPositions 24 mask).filter p.legOn) (fun p l => p.tripLeg l src cls false t)

/-- A blanked source acts on a mask of legs: at once outside blanking, held inside it (R189). -/
def Part.tripBlanked (p : Part) (mask src : Nat) (t : Instant) : Part :=
  p.each ((setPositions 24 mask).filter p.legOn) (fun p l =>
    if t < (p.leg l).blankEnd then
      { p with sense := { p.sense with held := p.sense.held ++ [{ leg := l, src := src, t := t }] } }
    else p.tripLeg l src 0 false t)

/-! Comparators. -/

/-- A comparator that acts: enabled, and not disarmed by a reserve map. -/
def Part.pcOn (p : Part) (k : Nat) : Bool := p.bit (Reg.PROT_CFG k) 31 && !p.sense.disarmed.contains k

/-- A trip-threshold crossing: a firing is stamped, and each leg of the mask trips or holds it (R188, R189). -/
def Part.pcTrip (p : Part) (k : Nat) (t : Instant) : Part :=
  let p := p.at t
  if !p.pcOn k || p.bit Reg.PROT_STAT k then p
  else
    let p := ((p.setBit Reg.PROT_STAT k true).setStamp (Reg.PROT_TS_LO k) (p.ringOf t)).stand k 0 t
    p.tripBlanked (p.sourceLegs k) k t

/-- COMPARATOR_TRIP_CROSSING. -/
def execComparatorTripCrossing (k : Fin 14) (t : Instant) (s : State) := s.run (·.pcTrip k.val t)

/-- A hard-threshold crossing: a firing is stamped and trips every leg of the mask at once (R189). -/
def Part.pcHard (p : Part) (k : Nat) (t : Instant) : Part :=
  let p := p.at t
  if !p.pcOn k || p.bit Reg.PROT_STAT (16 + k) then p
  else
    let p := ((p.setBit Reg.PROT_STAT (16 + k) true).setStamp (Reg.PROT_HTS_LO k) (p.ringOf t)).stand k 1 t
    p.tripLegs (p.sourceLegs k) k 1 t

/-- COMPARATOR_HARD_CROSSING. -/
def execComparatorHardCrossing (k : Fin 14) (t : Instant) (s : State) := s.run (·.pcHard k.val t)

/-- HYST in µV. -/
def hystUv (cfg : Word) : Nat :=
  match bits cfg 24 2 with
  | 0 => 0
  | 1 => 4000
  | 2 => 8000
  | _ => 16000

/-- Whether a fired comparator can release: in magnitude mode only with a band wider than HYST (R188). The half-band
is code × 0.78125 mV. -/
def Part.pcReleases (p : Part) (k : Nat) (hard : Bool) : Bool :=
  let cfg := p.reg (Reg.PROT_CFG k)
  let code := p.fld (if hard then Reg.PROT_HARD k else Reg.PROT_TRIP k) 0 10
  !(bits cfg 28 2 = 2 && 4 * code * 78125 ≤ 400 * hystUv cfg)

/-- A fired comparator releases: a release is not stamped. -/
def Part.pcRelease (p : Part) (k : Nat) (hard : Bool) : Part :=
  if !p.pcReleases k hard then p
  else (p.setBit Reg.PROT_STAT (if hard then 16 + k else k) false).unstand k hard.toNat

/-- COMPARATOR_RELEASE. -/
def execComparatorRelease (k : Fin 14) (hard : Bool) (s : State) := s.run (·.pcRelease k.val hard)

/-- The end of a leg's blanking window (R189): a held crossing that still stands trips the leg, one that has fallen
back is discarded, and counted for its comparator. -/
def Part.blankingEnd (p : Part) (l : Nat) (t : Instant) : Part :=
  let p := p.at t
  if t < (p.leg l).blankEnd then p
  else
    let mine := p.sense.held.filter (fun h => h.leg = l)
    let p := { p with sense := { p.sense with held := p.sense.held.filter (fun h => h.leg ≠ l) } }
    p.each mine (fun p h =>
      if p.stands h.src then p.tripLeg l h.src 0 true t
      else if h.src < 0x40 then
        p.setReg (Reg.PROT_BLKCNT h.src) (BitVec.ofNat 32 (satInc 32 (p.reg (Reg.PROT_BLKCNT h.src)).toNat))
      else p)

/-- BLANKING_END. -/
def execBlankingEnd (leg : Fin 24) (t : Instant) (s : State) := s.run (·.blankingEnd leg.val t)

/-- PROT_FREARM: bit 0 closes the record; no leg latch is cleared. -/
def Part.protRearm (p : Part) : Part :=
  let p := (p.setReg Reg.PROT_FLEGS 0).setReg Reg.PROT_FFIRST 0
  p.each (List.range 24) (fun p l => p.setReg (Reg.PROT_FSRC l) 0)

/-- PROT_FREARM. -/
def execProtFrearm (v : Word) (s : State) := s.run (fun p => p.when (bitAt v 0) (·.protRearm))

/-! Reserve comparators (R192). -/

/-- A write of PROT_RSVMAP_r: with ACTIVE and a target, the target's committed set is copied to the reserve, which is
armed beside it for 10 µs; with ACTIVE clear the reserve is disarmed and its target armed again. -/
def Part.protMap (p : Part) (r : Nat) (v : Word) (t : Instant) : Part :=
  let p := p.at t
  let was := p.reg (Reg.PROT_RSVMAP r)
  let k := bits v 0 4
  let res := 12 + r
  let p := p.setReg (Reg.PROT_RSVMAP r) (v &&& 0x8000000F)
  if bitAt v 31 && k < 14 && k ≠ res then
    let copy : Part → (Nat → Nat) → Part := fun p f =>
      (p.setReg (f res) (p.reg (f k))).setReg (stagedOff (f res)) (p.reg (f k))
    let p := copy (copy (copy (copy p Reg.PROT_TRIP) Reg.PROT_HARD) Reg.PROT_LEGS) Reg.PROT_CFG
    { p with sense := { p.sense with
        armUntil := p.sense.armUntil.filter (fun e => e.1 ≠ r) ++ [(r, t + usec 10)],
        disarmed := p.sense.disarmed.filter (fun x => x ≠ res) } }
  else if !bitAt v 31 && bitAt was 31 then
    let p := { p with sense := { p.sense with
        armUntil := p.sense.armUntil.filter (fun e => e.1 ≠ r),
        disarmed := res :: p.sense.disarmed.filter (fun x => x ≠ bits was 0 4 && x ≠ res) } }
    ((p.setBit Reg.PROT_STAT res false).setBit Reg.PROT_STAT (16 + res) false).unstand res 0 |>.unstand res 1
  else p

/-- PROT_RESERVE_MAP. -/
def execProtReserveMap (r : Fin 2) (v : Word) (t : Instant) (s : State) := s.run (·.protMap r.val v t)

/-- 10 µs after arming the target is disarmed (R192): its states fall with it. -/
def Part.protArmEnd (p : Part) (r : Nat) (t : Instant) : Part :=
  let p := p.at t
  if p.sense.armUntil.any (fun e => e.1 = r && e.2 ≤ t) then
    let k := p.fld (Reg.PROT_RSVMAP r) 0 4
    let p := { p with sense := { p.sense with
        armUntil := p.sense.armUntil.filter (fun e => e.1 ≠ r), disarmed := k :: p.sense.disarmed } }
    let p := ((p.setBit Reg.PROT_STAT k false).setBit Reg.PROT_STAT (16 + k) false).unstand k 0 |>.unstand k 1
    (p.noteSwap 7 k (12 + r) 5).swapDone 7 k (p.opHolding (resRsv 7 (12 + r)))
  else p

/-- PROT_RESERVE_ARM_END. -/
def execProtReserveArmEnd (r : Fin 2) (t : Instant) (s : State) := s.run (·.protArmEnd r.val t)

/-! Commit (R188). -/

/-- Commit check of PROT. -/
def protCheck (val : Nat → Word) : Option (Nat × Nat) :=
  match (List.range 14).findSome? (fun k =>
    let m := bits (val (Reg.PROT_CFG k)) 28 2
    let trip := bits (val (Reg.PROT_TRIP k)) 0 10
    let hard := bits (val (Reg.PROT_HARD k)) 0 10
    if m = 3 then some (1, Reg.PROT_CFG k)
    else if (if m = 1 then trip < hard else hard < trip) then some (2, Reg.PROT_HARD k)
    else none) with
  | some e => some e
  | none => (List.range 24).findSome? (fun l =>
      if 500 < bits (val (Reg.PROT_BLANK l)) 0 9 then some (1, Reg.PROT_BLANK l) else none)

/-- What follows the move of a PROT set: a threshold that HYST held fired is freed, and so is a comparator that the set disables;
any other that has fired stays fired until its pin returns (R188). -/
def Part.protMoved (p : Part) (old : Nat → Word) : Part :=
  p.each (List.range 14) (fun p k =>
    let off := !p.bit (Reg.PROT_CFG k) 31
    let stuck := fun (code : Word) => bits (old (Reg.PROT_CFG k)) 28 2 = 2 && 78125 * 4 * bits code 0 10
      ≤ 400 * hystUv (old (Reg.PROT_CFG k))
    let free := fun (p : Part) (hard : Bool) => (p.setBit Reg.PROT_STAT (if hard then 16 + k else k) false).unstand k hard.toNat
    let p := if off || stuck (old (Reg.PROT_TRIP k)) then free p false else p
    if off || stuck (old (Reg.PROT_HARD k)) then free p true else p)

end Sys2Proof.Machine
end

