-- ==== Sys2Proof/Machine/Sense.lean ====
section
/-! DEFINITION. Sigma-delta channels, filters, windows, reserve channels and the AUXADC (chapter 6, R172 to R187). -/

namespace Sys2Proof.Machine

/-! Chains (R174, R175). -/

/-- A filter chain: sinc order, first-stage ratio, compensator decimation (0 for none) and its variant. -/
structure Chain where
  order : Nat
  osr1 : Nat
  fir : Nat
  minPhase : Bool
deriving DecidableEq, Repr

/-- The chain that a SENSE_CFG word selects; PHASE selects the compensator's variant, and has no effect where there is none. -/
def chainOf (cfg : Word) : Chain :=
  let mp := bitAt cfg 17
  match bits cfg 18 2 with
  | 0 => { order := 3, osr1 := 32, fir := 0, minPhase := false }
  | 1 => { order := 4, osr1 := 64, fir := 2, minPhase := mp }
  | 2 => { order := 5, osr1 := 128, fir := 2, minPhase := mp }
  | _ => { order := bits cfg 13 3, osr1 := 8 * 2 ^ bits cfg 10 3, fir := bits cfg 8 2, minPhase := mp && bits cfg 8 2 ≠ 0 }

/-- Total OSR of a chain. -/
def Chain.osr (c : Chain) : Nat := c.osr1 * max 1 c.fir

/-- Fine delay in modulator clocks (Table 6.12), to the nearest clock, ties upward. -/
def Chain.delay (c : Chain) : Nat :=
  if c.fir = 0 then (c.order * c.osr1 + 1) / 2
  else if c.minPhase then (39 * c.osr1 + 16) / 32
  else if c.order = 4 then 2 * c.osr1
  else (65 * c.osr1 + 16) / 32

/-- Settling time in modulator clocks (R175). -/
def Chain.settling (c : Chain) : Nat :=
  c.order * c.osr1 + (if c.fir = 0 then 0 else if c.order = 4 then 16 * c.osr1 else 15 * c.osr1)

/-- Whether the filter ROM holds the chain of a SENSE_CFG word (R175). -/
def chainInRom (cfg : Word) : Bool :=
  if bits cfg 18 2 ≠ 3 then true
  else
    let o := bits cfg 13 3
    1 ≤ o && o ≤ 5 && bits cfg 10 3 ≤ 5 && bits cfg 8 2 ≤ 2 && (bits cfg 8 2 = 0 || 4 ≤ o)

/-- Sums of `k` neighbours, given the list from which elements leave, the list from which they enter and the present
sum. -/
def slideSums : List Int → List Int → Int → List Int
  | a :: l, b :: r, s => s :: slideSums l r (s + b - a)
  | _, [], s => [s]
  | [], _, s => [s]

/-- The sums of `k` neighbours of a list: one sinc stage. -/
def boxcar (k : Nat) (l : List Int) : List Int :=
  if l.length < k then [] else slideSums l (l.drop k) (l.take k).sum

/-- A sinc filter of an order over ±1 bits, oldest first. -/
def sincSum (osr : Nat) : Nat → List Int → List Int
  | 0, l => l
  | o + 1, l => sincSum osr o (boxcar osr l)

/-- Bits as densities +1 and −1 (R182). -/
def bitInts (bs : List Bool) : List Int := bs.map (fun b => if b then 1 else -1)

/-- The density at the end of a sinc chain, as the nearest FP32 value. -/
def sincDensity (order osr : Nat) (bs : List Bool) : Word :=
  let need := order * (osr - 1) + 1
  fpOfRat ((sincSum osr order (bitInts (bs.drop (bs.length - need)))).headD 0) (osr ^ order)

/-- The density of a fine output. -/
def Chain.density (c : Chain) (bs : List Bool) : Word :=
  if c.fir = 0 then sincDensity c.order c.osr1 bs else Config.firDensity c.order c.osr1 c.fir c.minPhase bs

/-- The scaling of R182, each operation rounded in order. -/
def scaleY (scale tgain toff uoff x : Word) : Word := fpAdd (fpMul scale (fpMul tgain (fpSub x toff))) uoff

/-! Channels. -/

/-- Replace channel `n`. -/
def Part.setSd (p : Part) (n : Nat) (x : SenseCh) : Part := { p with sense := { p.sense with ch := vset p.sense.ch n x } }

/-- Reserve `r`. -/
def Part.sdRsv (p : Part) (r : Nat) : SenseRsv := vget {} p.sense.rsv r

/-- Replace reserve `r`. -/
def Part.setSdRsv (p : Part) (r : Nat) (x : SenseRsv) : Part :=
  { p with sense := { p.sense with rsv := vset p.sense.rsv r x } }

/-- State of reserve `r`: 0 off, 1 spare hot, 2 in service, 3 failed request. -/
def Part.rsvState (p : Part) (r : Nat) : Nat := p.fld (Reg.SENSE_RSVSTAT r) 0 3

/-- Target that the committed map of reserve `r` names. -/
def Part.rsvTarget (p : Part) (r : Nat) : Nat := p.fld (Reg.SENSE_RSVMAP r) 0 5

/-- The channel whose committed chain, group and scaling channel `n` runs with: its target's for a reserve that runs
(R183). -/
def Part.sdCfg (p : Part) (n : Nat) : Nat :=
  if 24 ≤ n && p.rsvState (n - 24) ≠ 0 then p.rsvTarget (n - 24) else n

/-- The channel that channel `n` delivers as: its target once it is in service, itself for a channel in use, none for a
replaced channel, a reserve that runs hot and a disabled one. -/
def Part.sdAs (p : Part) (n : Nat) : Option Nat :=
  if 24 ≤ n && p.rsvState (n - 24) ≠ 0 then (if p.rsvState (n - 24) = 2 then some (p.rsvTarget (n - 24)) else none)
  else if p.bit (Reg.SENSE_STAT n) 25 then none
  else if p.bit (Reg.SENSE_CFG n) 31 then some n else none

/-- Whether channel `n` runs. -/
def Part.sdRuns (p : Part) (n : Nat) : Bool :=
  (24 ≤ n && p.rsvState (n - 24) ≠ 0) || (p.bit (Reg.SENSE_CFG n) 31 && !p.bit (Reg.SENSE_STAT n) 25)

/-- Group of a channel. -/
def Part.sdGrp (p : Part) (n : Nat) : Grp := if p.bit (Reg.SENSE_CFG (p.sdCfg n)) 30 then .B else .A

/-- The value of a density on channel `n`: the scaling of the channel it runs for, its own trims. -/
def Part.sdScale (p : Part) (n : Nat) (x : Word) : Word :=
  let c := p.sdCfg n
  scaleY (p.reg (Reg.SENSE_SCALE c)) (p.reg (Reg.SENSE_TGAIN n)) (p.reg (Reg.SENSE_TOFF n)) (p.reg (Reg.SENSE_UOFF c)) x

/-- The length of modulator clocks of a channel. -/
def Part.modClocks (p : Part) (n k : Nat) : Nat := k * sec 1 / max 1 (p.reg (Reg.SENSE_FMOD (p.sdCfg n))).toNat

/-! Windows (R180, R181). -/

/-- Whether a window's condition holds for a value. -/
def windowHolds (cfg lo hi y : Word) : Bool :=
  match bits cfg 1 2 with
  | 0 => fpLt y lo || fpLt hi y
  | 1 => fpLe lo y && fpLe y hi
  | 2 => fpLt hi y
  | _ => fpLt y lo

/-- Evaluate window `w` of channel `m` at an output of its path: the live condition, the run of outputs, the event and
its log entry at the N-th, and for a PROT window the action on its legs at the first output at which it holds under PROT. -/
def Part.window (p : Part) (m w : Nat) (y : Word) (t : Instant) : Part :=
  let cfg := p.reg (Reg.SENSE_WCFG m w)
  let on := bitAt cfg 0 && windowHolds cfg (p.reg (Reg.SENSE_WLO m w)) (p.reg (Reg.SENSE_WHI m w)) y
  let ch := p.sdCh m
  let run := if on then ch.runs.getD w 0 + 1 else 0
  let p := (p.setSd m { ch with runs := ch.runs.set w run }).setBit (Reg.SENSE_STAT m) w on
  let hit := on && run = bits cfg 4 8 + 1
  let p := p.raiseIf hit (Reg.SENSE_EVT m) w
  let p := p.when (hit && bitAt cfg 12) (·.logEvent .windowEvent [m, w])
  if w < 2 || !bitAt cfg 13 then p
  else
    let src := 0x40 + 2 * m + (w - 2)
    let cls := (bitAt cfg 14).toNat
    if !on then (p.unstand src 0).unstand src 1
    else if p.sense.standing.any (fun x => x.src = src && x.cls = cls) then p
    else
      let p := p.stand src cls t
      if cls = 1 then p.tripLegs (p.sourceLegs src) src 1 t else p.tripBlanked (p.sourceLegs src) src t

/-- FAST_PATH_OUTPUT: the sinc2 output over the last 15 bits, the newest in bit 0 (R174, R179). A frozen or replaced
channel delivers nothing (R173, R185). -/
def Part.fastOutput (p : Part) (n : Nat) (bs : List Bool) (t : Instant) : Part :=
  let p := p.at t
  if !p.sdRuns n || p.bit (Reg.SENSE_STAT n) 30 then p
  else
    let x := sincDensity 2 8 bs
    let y := p.sdScale n x
    let p := (p.setSd n { p.sdCh n with fastX := x, fastY := y }).setReg (Reg.SENSE_FAST n) y
    let p := p.when (bs.any id && bs.any (!·)) (·.setBit (Reg.SENSE_STAT n) 27 false)
    match p.sdAs n with
    | none => p
    | some m =>
      ((p.window m 2 y t).window m 3 y t).capLevel (0x140 + m) (t - p.modClocks n 8) y

/-- Bits of a vector, the highest first. -/
def bitList {w : Nat} (v : BitVec w) : List Bool := ((List.range w).map v.getLsbD).reverse

/-- What a channel reads of its line (R172): with CLKMODE 0 the data at the edges of the clock pin that EDGE selects, with CLKMODE
1 the recovered data. A reserve that runs has its target's clock mode (R183). -/
def Part.sdLine {α : Type} (p : Part) (n : Nat) (x : SdLine α) : α :=
  let cfg := p.reg (Reg.SENSE_CFG (p.sdCfg n))
  if bitAt cfg 29 then x.manchester else if bitAt cfg 28 then x.falling else x.rising

/-- FAST_PATH_OUTPUT. -/
def execFastPathOutput (n : Fin 28) (window : SdLine (BitVec 15)) (t : Instant) (s : State) :=
  s.run (fun p => p.fastOutput n.val (bitList (p.sdLine n.val window)) t)

/-- FINE_OUTPUT: the output of the fine chain over the bits of its window, oldest first. -/
def Part.fineOutput (p : Part) (n : Nat) (bs : List Bool) (t : Instant) : Part :=
  let p := p.at t
  if !p.sdRuns n || p.bit (Reg.SENSE_STAT n) 30 then p
  else
    let c := chainOf (p.reg (Reg.SENSE_CFG (p.sdCfg n)))
    let x := c.density bs
    let y := p.sdScale n x
    let p := p.setSd n { p.sdCh n with fineX := x, fineY := y }
    match p.sdAs n with
    | none => p
    | some m =>
      ((p.window m 0 y t).window m 1 y t).capLevel (0x100 + m) (t - p.modClocks n c.delay) y

/-- FINE_OUTPUT. -/
def execFineOutput (n : Fin 28) (bs : SdLine (List Bool)) (t : Instant) (s : State) :=
  s.run (fun p => p.fineOutput n.val (p.sdLine n.val bs) t)

/-- SUBSTD: the fast value stands in at the ports while the fine output is unsettled and SUBST is set (R178). -/
def Part.showSubst (p : Part) (n : Nat) : Part :=
  p.setBit (Reg.SENSE_STAT n) 26 (p.bit (Reg.SENSE_STAT n) 28 && p.bit (Reg.SENSE_CFG (p.sdCfg n)) 27)

/-- Mark a channel's outputs unsettled from now on (R177). -/
def Part.unsettle (p : Part) (n : Nat) : Part :=
  ((p.setBit (Reg.SENSE_STAT n) 28 true).showSubst n).setSd n { p.sdCh n with fastUns := true, unsAt := p.now }

/-- The end of a channel's settling: of the fine path after the chain's settling time, of the fast path after 16 clocks. The
boundary from which it counts is the last modulator edge at or before the marking (R177), so the end lies up to one clock
earlier than the whole time after it. -/
def Part.settled (p : Part) (n : Nat) (fast : Bool) : Part :=
  let clocks := if fast then 16 else (chainOf (p.reg (Reg.SENSE_CFG (p.sdCfg n)))).settling
  if p.now < (p.sdCh n).unsAt + p.modClocks n (clocks - 1) then p
  else if fast then p.setSd n { p.sdCh n with fastUns := false }
  else (p.setBit (Reg.SENSE_STAT n) 28 false).showSubst n

/-- SETTLING_END, of the fast path or the fine path, at an instant: settling that is not over goes on. -/
def execSettlingEnd (n : Fin 28) (due : Bool × Instant) (s : State) := s.run (fun p => (p.at due.2).settled n.val due.1)

/-! Faults of the input (R173). -/

/-- CLKLOSS: the outputs freeze, and with LOSSTRIP the legs of both masks trip (R181). While it stands, a further loss keeps the
present sample from ending it (R173). -/
def Part.clkLoss (p : Part) (n : Nat) (t : Instant) : Part :=
  let p := p.at t
  if !p.sdRuns n then p
  else if p.bit (Reg.SENSE_STAT n) 30 then p.setSd n { p.sdCh n with lossFresh := true }
  else
    let p := (p.setBit (Reg.SENSE_STAT n) 30 true).raise (Reg.SENSE_EVT n) 7
    let p := p.setSd n { p.sdCh n with lossFresh := true }
    match p.sdAs n with
    | none => p
    | some m =>
      if !p.bit (Reg.SENSE_CFG m) 26 then p
      else (p.stand (0x80 + m) 2 t).tripLegs (p.sourceLegs (0x80 + m)) (0x80 + m) 2 t

/-- MODULATOR_CLKLOSS. -/
def execModulatorClkloss (n : Fin 28) (t : Instant) (s : State) := s.run (·.clkLoss n.val t)

/-- MANCHESTER_VIOLATION: it is counted; more than 16 within one sample act as CLKLOSS. A channel in clock-pin mode reads no
Manchester symbols (R172). -/
def Part.mviolation (p : Part) (n : Nat) (t : Instant) : Part :=
  let p := p.at t
  if !p.sdRuns n || !p.bit (Reg.SENSE_CFG (p.sdCfg n)) 29 then p
  else
    let ch := p.sdCh n
    let p := (p.setReg (Reg.SENSE_MVCNT n) (BitVec.ofNat 32 (satInc 32 (p.reg (Reg.SENSE_MVCNT n)).toNat))).raise
      (Reg.SENSE_EVT n) 4
    let p := p.setSd n { ch with mviol := ch.mviol + 1 }
    p.when (16 < ch.mviol + 1) (·.clkLoss n t)

/-- MANCHESTER_VIOLATION. -/
def execManchesterViolation (n : Fin 28) (t : Instant) (s : State) := s.run (·.mviolation n.val t)

/-- STUCK: an event only; the output continues. -/
def execStuck (n : Fin 28) (s : State) :=
  s.run (fun p => p.when (p.sdRuns n.val) (fun p =>
    (p.setBit (Reg.SENSE_STAT n.val) 27 true).raise (Reg.SENSE_EVT n.val) 5))

/-! Reserves (R183 to R185). -/

/-- A reserve takes over its target: from here every use of the target takes the reserve's outputs. -/
def Part.sdSwap (p : Part) (r cause : Nat) : Part :=
  let m := p.rsvTarget r
  let slot := ((p.sdRsv r).req.bind (·.2))
  let p := (p.setFld (Reg.SENSE_RSVSTAT r) 0 3 2).setFld (Reg.SENSE_RSVSTAT r) 8 5 m
  let p := (p.setBit (Reg.SENSE_STAT m) 25 true).setSdRsv r { p.sdRsv r with req := none }
  let p := ((p.unstand (0x80 + m) 2).noteSwap 5 m (24 + r) cause)
  p.swapDone 5 m slot

/-- Comparison of a hot reserve with its target at a tick (R183): bit for bit of the density with FANOUT, within the
tolerance with TWIN. -/
def Part.sdAgree (p : Part) (r : Nat) : Bool :=
  let a := p.sdCh (24 + r)
  let b := p.sdCh (p.rsvTarget r)
  if p.bit (Reg.SENSE_RSVMAP r) 30 then fpLe (fpAbs (fpSub a.fineY b.fineY)) (p.reg (Reg.SENSE_RSVTOL r))
  else a.fineX = b.fineX

/-- A hot reserve at a tick of its target's group: the comparison is counted, and the swap of R184 is made when it is
due; an evidence request counts its ticks. -/
def Part.rsvTick (p : Part) (r : Nat) : Part :=
  let m := p.rsvTarget r
  let x := p.sdRsv r
  let ok := p.sdAgree r
  let n := if ok then min 255 (p.fld (Reg.SENSE_RSVSTAT r) 16 8 + 1) else 0
  let bad := if ok then 0 else x.disagree + 1
  let p := (p.setFld (Reg.SENSE_RSVSTAT r) 16 8 n).raiseIf (bad = 8) (Reg.SENSE_EVT (24 + r)) 8
  let p := p.setSdRsv r { x with disagree := bad, req := x.req.map (fun q => (q.1 + 1, q.2)) }
  let lost := p.bit (Reg.SENSE_STAT m) 30
  if p.bit Reg.SENSE_RSVCTL 0 && lost && !p.bit (Reg.SENSE_STAT (24 + r)) 30 then p.sdSwap r 1
  else if x.req.isSome && 8 ≤ n then p.sdSwap r 5
  else p

/-- A request that has not been met within 64 ticks fails; the reserve stays a spare (R184). -/
def Part.sdSwapTimeout (p : Part) (r : Nat) : Part :=
  match (p.sdRsv r).req with
  | some (n, slot) =>
    if n < 64 then p
    else ((p.setSdRsv r { p.sdRsv r with req := none }).setFld (Reg.SENSE_RSVSTAT r) 0 3 3).opErr? 4 slot
  | none => p

/-- SENSE_SWAP_TIMEOUT. -/
def execSenseSwapTimeout (r : Fin 4) (s : State) := s.run (·.sdSwapTimeout r.val)

/-! The tick (R177, R182 to R185). -/

/-- N_s of a channel: modulator clocks per sample of its group, as a numerator and a denominator. -/
def nsOf (fmod : Nat) (per : Nat × Nat) (dbl : Bool) : Nat × Nat :=
  (fmod * per.1, 400000000 * per.2 * (if dbl then 2 else 1))

/-- N_s of channel `n` as committed. -/
def Part.sdNs (p : Part) (n : Nat) : Nat :=
  let g := p.sdGrp n
  let (a, b) := nsOf (p.reg (Reg.SENSE_FMOD (p.sdCfg n))).toNat (p.period g) (p.dbl g)
  a / max 1 b

/-- One channel at a tick of its group: pending trims take effect, the edge count since the last tick is judged, and
the latest fine value is shown. `count` is the count of modulator edges, and `q` the part before the tick: the sample that ends
ran under the set committed then (Table 1.4, order 4). -/
def Part.sdTick (p q : Part) (n count : Nat) (first : Bool) : Part :=
  let ch := p.sdCh n
  let st := Reg.SENSE_STAT n
  let p := match ch.trim with
    | some (a, b) => (p.setReg (Reg.SENSE_TGAIN n) a).setReg (Reg.SENSE_TOFF n) b
    | none => p
  let ok := count = q.sdNs n
  let lost := p.bit st 30
  let p := (p.settled n false).settled n true
  let p :=
    if first then (p.setBit st 29 false).unsettle n
    else
      let p := (p.setBit st 29 (!ok)).raiseIf (!ok) (Reg.SENSE_EVT n) 6
      let p := p.when (!ok) (·.unsettle n)
      if lost && ok && !ch.lossFresh then
        ((p.setBit st 30 false).unstand (0x80 + (q.sdAs n).getD n) 2).unsettle n
      else p
  let (tn, td) := q.tsUnits (q.sdGrp n)
  let hz := if ok then (q.reg (Reg.SENSE_FMOD (q.sdCfg n))).toNat else count * sec 1 * td / max 1 tn
  let p := p.setReg (Reg.SENSE_MFREQ n) (BitVec.ofNat 32 hz)
  let p := p.setReg (Reg.SENSE_VAL n) ch.fineY
  p.setSd n { p.sdCh n with trim := none, mviol := 0, lossFresh := false }

/-- The channels that run for a group. -/
def Part.sdsOf (p : Part) (g : Grp) : List Nat := (List.range 28).filter (fun n => p.sdRuns n && p.sdGrp n = g)

/-- The reserves that run hot for a group. -/
def Part.hotOf (p : Part) (g : Grp) : List Nat :=
  (List.range 4).filter (fun r => (p.rsvState r = 1 || p.rsvState r = 3) && p.sdGrp (24 + r) = g)

/-- Sensing at a tick of a group: `edges` lists the channels whose edge count differs from N_s, with the count. The outputs
delivered are those of the set committed before the tick, in the part `q` (Table 1.4, order 4), so a channel that the tick disables
delivers its last one; a reserve whose map moves at the tick compares under the new one from the next. -/
def Part.senseTick (p q : Part) (g : Grp) (edges : List (Nat × Nat)) (first : Bool) : Part :=
  let p := p.each (q.sdsOf g) (fun p n =>
    p.sdTick q n (((edges.find? (fun e => e.1 = n)).map (·.2)).getD (q.sdNs n)) first)
  p.each ((q.hotOf g).filter (fun r => p.reg (Reg.SENSE_RSVMAP r) = q.reg (Reg.SENSE_RSVMAP r))) (fun p r => p.rsvTick r)

/-! Commit (R175, R176, R180, R183). -/

/-- Whether N_s is an integer multiple of the chain's total OSR. -/
def lockOk (cfg fmod : Word) (per : Nat × Nat) (dbl : Bool) : Bool :=
  let (a, b) := nsOf fmod.toNat per dbl
  let m := b * (chainOf cfg).osr
  m ≠ 0 && a % m = 0

/-- The lock rule for channel `n` in a view. -/
def sdLockOk (val : Nat → Word) (n : Nat) : Bool :=
  let cfg := val (Reg.SENSE_CFG n)
  let g := (bitAt cfg 30).toNat
  !bitAt cfg 31 || lockOk cfg (val (Reg.SENSE_FMOD n)) (periodOf (val (Reg.PWM_PERIOD g)) (val (Reg.PWM_PERFR g)))
    (bitAt (val (Reg.PWM_TBCFG g)) 30)

/-- Commit check of one channel that moves with group `g`. -/
def Part.sdCheck (p : Part) (val : Nat → Word) (g : Grp) (n : Nat) : Option (Nat × Nat) :=
  let cfg := val (Reg.SENSE_CFG n)
  let f := (val (Reg.SENSE_FMOD n)).toNat
  let leaves := bitAt cfg 31 && bitAt cfg 30 ≠ p.bit (Reg.SENSE_CFG n) 30
    && (List.range 64).any (fun k =>
      let src := bits (val (Reg.CLE_IPSRC (1 - g.ix) k)) 0 12
      src = 0x100 + n || src = 0x140 + n)
  let win := (List.range 4).findSome? (fun w =>
    let c := val (Reg.SENSE_WCFG n w)
    if w < 2 && bits c 13 2 ≠ 0 then some (1, Reg.SENSE_WCFG n w)
    else if fpLt (val (Reg.SENSE_WHI n w)) (val (Reg.SENSE_WLO n w)) then some (2, Reg.SENSE_WLO n w)
    else none)
  if !chainInRom cfg then some (0x10, Reg.SENSE_CFG n)
  else if f < 5000000 || 40000000 < f then some (1, Reg.SENSE_FMOD n)
  else if !sdLockOk val n then some (3, Reg.SENSE_CFG n)
  else if leaves then some (3, Reg.SENSE_CFG n)
  else win

/-- Commit check of the reserve map (R183): every map that names a target is judged, whether its ALLOW is set or not; with ALLOW
set, target 0x1F (none) names no enabled channel. -/
def rsvMapCheck (val : Nat → Word) : Option (Nat × Nat) :=
  (List.range 4).findSome? (fun r =>
    let v := val (Reg.SENSE_RSVMAP r)
    let m := bits v 0 5
    let twice := (List.range r).any (fun q =>
      m ≠ 0x1F && bits (val (Reg.SENSE_RSVMAP q)) 0 5 = m)
    if (bitAt v 31 || m ≠ 0x1F) && (m = 24 + r || 28 ≤ m || twice || !bitAt (val (Reg.SENSE_CFG m)) 31) then
      some (0x11, Reg.SENSE_RSVMAP r) else none)

/-- Commit check of SENSE for a group, whose channels are given. -/
def Part.senseCheck (p : Part) (val : Nat → Word) (g : Grp) (chs : List Nat) : Option (Nat × Nat) :=
  match chs.findSome? (p.sdCheck val g) with
  | some e => some e
  | none => rsvMapCheck val

/-- SENSE_DLY_n shows the delays of the committed chain that a channel runs with (R175). -/
def Part.showDelay (p : Part) (n : Nat) : Part :=
  p.setReg (Reg.SENSE_DLY n) (BitVec.ofNat 32 (8 * 65536 + (chainOf (p.reg (Reg.SENSE_CFG (p.sdCfg n)))).delay))

/-- The reserves that run with a target's committed set (R183, R185). -/
def Part.rsvsOf (p : Part) (n : Nat) : List Nat :=
  (List.range 4).filter (fun r => p.rsvState r ≠ 0 && p.rsvTarget r = n)

/-- What follows the move of a SENSE set: ACTIVE and the delays show the committed chain, a changed chain unsettles its
channel and the reserve that runs with it, SUBST acts at once, and each reserve runs hot while its map allows it. -/
def Part.senseMoved (p : Part) (old : Nat → Word) : Part :=
  let p := p.each (List.range 28) (fun p n =>
    let p := p.each [2, 3] (fun p w =>
      let src := 0x40 + 2 * n + (w - 2)
      let c := p.reg (Reg.SENSE_WCFG n w)
      if bitAt c 0 && bitAt c 13 then p.unstand src (!bitAt c 14).toNat else (p.unstand src 0).unstand src 1)
    let cfg := p.reg (Reg.SENSE_CFG n)
    let was := old (Reg.SENSE_CFG n)
    if cfg = was then p
    else
      let p := (p.setBit (Reg.SENSE_STAT n) 31 (bitAt cfg 31)).showDelay n
      let new := chainOf cfg ≠ chainOf was || bitAt cfg 31 ≠ bitAt was 31
      let p := if new then p.unsettle n else p.showSubst n
      p.each (p.rsvsOf n) (fun p r =>
        let p := p.showDelay (24 + r)
        if new then p.unsettle (24 + r) else p.showSubst (24 + r)))
  p.each (List.range 4) (fun p r =>
    let v := p.reg (Reg.SENSE_RSVMAP r)
    if v = old (Reg.SENSE_RSVMAP r) then p
    else
      let m := bits (old (Reg.SENSE_RSVMAP r)) 0 5
      let p := p.when (p.rsvState r = 2) (·.setBit (Reg.SENSE_STAT m) 25 false)
      let p := p.setReg (Reg.SENSE_RSVSTAT r) (if bitAt v 31 then 1 else 0)
      ((p.setSdRsv r {}).unsettle (24 + r)).showDelay (24 + r))

/-! The AUXADC (R186, R187). -/

/-- Replace the AUXADC's state; BUSY and the slot show it. -/
def Part.setAux (p : Part) (x : AuxState) : Part :=
  let p := { p with sense := { p.sense with aux := x } }
  match x.busy with
  | some c => (p.setBit Reg.AUXADC_STAT 31 true).setFld Reg.AUXADC_STAT 16 4 c.slot
  | none => p.setBit Reg.AUXADC_STAT 31 false

/-- The conversion of a slot that starts now: of the input that the slot names (R186). -/
def Part.auxConv (p : Part) (k : Nat) : AuxConv := { slot := k, input := p.fld (Reg.AUXADC_SEQ k) 0 4, start := p.now }

/-- The converter takes its next slot if it is idle: a queued one before a free-running one. -/
def Part.auxKick (p : Part) (x : AuxState) : AuxState :=
  if x.busy.isSome then x
  else match x.queue, x.idle with
    | k :: q, _ => { x with busy := some (p.auxConv k), queue := q }
    | [], k :: q => { x with busy := some (p.auxConv k), idle := q }
    | [], [] => x

/-- The enabled slots of a trigger: 0 and 1 the ticks of groups A and B, 2 free-running. -/
def Part.auxSlots (p : Part) (trig : Nat) : List Nat :=
  (List.range 16).filter (fun k => p.bit (Reg.AUXADC_SEQ k) 31 && p.fld (Reg.AUXADC_SEQ k) 16 2 = trig)

/-- A tick's slots queue in slot order behind what converts. -/
def Part.auxTick (p : Part) (g : Grp) : Part :=
  let x := p.sense.aux
  p.setAux (p.auxKick { x with queue := x.queue ++ p.auxSlots g.ix })

/-- Whether a free-running period of AUXADC_FRPER has passed since the last one. -/
def Part.freeDue (p : Part) (t : Instant) : Bool :=
  p.sense.aux.lastFree.all (fun a => decide (a + usec (p.reg Reg.AUXADC_FRPER).toNat ≤ t))

/-- AUXADC_FREERUN: every AUXADC_FRPER the free-running slots wait for idle time. -/
def execAuxadcFreerun (t : Instant) (s : State) :=
  s.run (fun p =>
    let p := p.at t
    let x := p.sense.aux
    if p.freeDue t then
      p.setAux (p.auxKick { x with
        idle := x.idle ++ (p.auxSlots 2).filter (fun k => !x.idle.contains k), lastFree := some t })
    else p)

/-- AUXADC_CONVERSION_DONE, 500 ns after its start: the code of the slot that converts is scaled and shown, trigger units see it,
and the next slot starts. -/
def Part.auxDone (p : Part) (code : BitVec 16) (t : Instant) : Part :=
  let p := p.at t
  let x := p.sense.aux
  match x.busy with
  | none => p
  | some c =>
    if t < c.start + nsec 500 then p
    else
      let i := c.input
      let tr := Config.auxTrim (p.reg (Reg.AUXADC_TRIM i))
      let y := scaleY (p.reg (Reg.AUXADC_SCALE i)) tr.1 tr.2 (p.reg (Reg.AUXADC_UOFF i)) (fpOfRat code.toNat 65536)
      let p := (p.setReg (Reg.AUXADC_RES i) y).countWrap Reg.AUXADC_STAT 0 16
      (p.setAux (p.auxKick { x with busy := none })).capLevel (0x180 + i) t y

/-- AUXADC_CONVERSION_DONE. -/
def execAuxadcConversionDone (code : BitVec 16) (t : Instant) (s : State) := s.run (·.auxDone code t)

/-- Commit check of AUXADC (R187), exact: the conversions of the running groups' ticks fit in their shortest sample less
0.2 µs, and the long-run rate, at the committed Ts of both groups, is at most 2 MSa/s. -/
def Part.auxCheck (p : Part) (val : Nat → Word) : Option (Nat × Nat) :=
  let on : Nat → List Nat := fun tr =>
    (List.range 16).filter (fun k => bitAt (val (Reg.AUXADC_SEQ k)) 31 && bits (val (Reg.AUXADC_SEQ k)) 16 2 = tr)
  let frper := (val Reg.AUXADC_FRPER).toNat
  let bad := (List.range 16).find? (fun k => bits (val (Reg.AUXADC_SEQ k)) 16 2 = 3)
  let run := [Grp.A, Grp.B].filter p.tbRuns
  let ticked := (run.map (fun g => (on g.ix).length)).sum
  let long := run.any (fun g => decide ((p.tsUnits g).1 < (ticked * nsec 500 + nsec 200) * (p.tsUnits g).2))
  -- the rate in conversions a second, as a fraction
  let add : Nat × Nat → Nat × Nat → Nat × Nat := fun x y => (x.1 * y.2 + y.1 * x.2, x.2 * y.2)
  let one : Grp → Nat × Nat := fun g => ((on g.ix).length * sec 1 * (p.tsUnits g).2, max 1 (p.tsUnits g).1)
  let rate := add (add (one .A) (one .B)) ((on 2).length * sec 1, max 1 (usec frper))
  let first := Reg.AUXADC_SEQ (((on 0) ++ (on 1) ++ (on 2)).headD 0)
  match bad with
  | some k => some (1, Reg.AUXADC_SEQ k)
  | none =>
    if frper = 0 || 65535 < frper then some (1, Reg.AUXADC_FRPER)
    else if long || 2000000 * rate.2 < rate.1 then some (5, first)
    else none

end Sys2Proof.Machine
end

