-- ==== Sys2Proof/Machine/Gate.lean ====
section
/-! DEFINITION. Gate returns and faults, latch clears, reserve gate channels and the gate status buses (chapter 7,
R210, R217 to R222, R225, R226). -/

namespace Sys2Proof.Machine

/-- GSFILT of a channel. -/
def Part.gsFilter (p : Part) (c : Nat) : Nat := nsec (10 * p.fld (Reg.GATE_CCFG c) 24 6)

/-- Whether the two returns have differed for longer than a filter time. -/
def GateSwap.differed (x : GateSwap) (filter : Nat) (t : Instant) : Bool := x.diffAt.any (fun a => decide (a + filter < t))

/-- The swap of gate reserve `r`. -/
def Part.gateSwap (p : Part) (r : Nat) : GateSwap := vget {} p.pwm.swaps r

/-- Replace the swap of gate reserve `r`. -/
def Part.setGateSwap (p : Part) (r : Nat) (x : GateSwap) : Part :=
  { p with pwm := { p.pwm with swaps := vset p.pwm.swaps r x } }

/-- The channel whose pair and leg a channel belongs to: a reserve's target. -/
def Part.chanHome (p : Part) (c : Nat) : Nat := if c < 48 then c else p.fld (Reg.GATE_RSVMAP (c - 48)) 0 6

/-- Whether a channel is checked (R210): that of an enabled pair; a reserve while it runs beside or in place of its target. -/
def Part.chanChecked (p : Part) (c : Nat) : Bool :=
  if c < 48 then p.pairOn (c / 2) else (p.gateSwap (c - 48)).phase ≠ .idle

/-- A replaced target: its pin stands at its off level and no longer carries the command (R221), so its pad is not judged against
it (DEDUCED, log entry 63). -/
def Part.replaced (p : Part) (c : Nat) : Bool := c < 48 && p.bit (Reg.GATE_CHSTAT c) 30

/-- The partner, in its pair, of the channel that a channel is or stands beside. -/
def Part.chanPartner (p : Part) (c : Nat) : Nat := 2 * (p.chanHome c / 2) + 1 - p.chanHome c % 2

/-- TOUT of a channel. -/
def Part.tout (p : Part) (c : Nat) : Nat := nsec (10 * p.fld (Reg.GATE_CCFG c) 0 10)

/-- GATE_FFIRST names the earliest fault of the open record, the lower channel on a tie. -/
def Part.gateFirst (p : Part) (c kind : Nat) (t : Instant) : Part :=
  let ff := p.pwm.ffTime
  if !p.bit Reg.GATE_FFIRST 31 || t < ff || (t = ff && c < p.fld Reg.GATE_FFIRST 16 6) then
    { p with pwm := { p.pwm with ffTime := t } }.setReg Reg.GATE_FFIRST
      (BitVec.ofNat 32 (2 ^ 31 + c * 65536 + kind))
  else p

/-- A gate fault is found on a channel (R210, R219): without the floor it is counted only; with it, it is entered, and
the leg that names the channel latches, takes its safe state and opens or joins the record. -/
def Part.gateFault (p : Part) (c kind : Nat) (t : Instant) : Part :=
  let p := p.countSat (Reg.GATE_CHSTAT c) 0 16
  if !p.floor then p
  else
    let p := ((p.setBit (Reg.GATE_CHSTAT c) 31 true).setFld (Reg.GATE_CHSTAT c) 16 4 kind).setStamp (Reg.GATE_FTS_LO c) (p.ringOf t)
    match p.legOfPair (p.chanHome c / 2) with
    | none => p
    | some l =>
      let opens := !p.bit Reg.GATE_FFIRST 31
      let p := p.gateFirst c kind t
      let new := !p.latched l
      let p := (p.keepLatch l).when new (fun p => (p.latchLeg t l).report 0x11)
      let p := p.askDrivers l
      p.hostFault.when opens (·.capEvent 0x412 t)

/-- The leg of a channel is evaluated. -/
def Part.evalChan (p : Part) (c : Nat) (t : Instant) : Part :=
  match p.legOfPair (p.chanHome c / 2) with
  | some l => p.evalLeg t l
  | none => p

/-- The comparison of a reserve's return with its target's, after one of them has changed (R221). Both pins take one driver's
return, so a difference counts once it has lasted longer than the filter of the target (DESIGN CHOICE, log entry 63). -/
def Part.compareReturns (p : Part) (c : Nat) (t : Instant) : Part :=
  p.each (List.range 8) (fun p r =>
    let x := p.gateSwap r
    let m := p.fld (Reg.GATE_RSVMAP r) 0 6
    if x.phase ≠ .compare || (c ≠ m && c ≠ 48 + r) then p
    else if p.gs m ≠ p.gs (48 + r) then p.setGateSwap r { x with diffAt := some (x.diffAt.getD t) }
    else p.setGateSwap r { x with diffAt := none, bad := x.bad || x.differed (p.gsFilter m) t })

/-- GS_RETURN: the filtered return of a channel changes to a pin level (R210): a waiting turn-on may issue; a change
under a steady command is SPURIOUS, and both returns of a pair on are BOTH_ON. While rank 1 of Table 7.7 holds,
handshake faults are not evaluated (R214). -/
def Part.gsReturn (p : Part) (c : Nat) (level : Bool) (t : Instant) : Part :=
  let p := p.at t
  let on := xor level (p.bit (Reg.GATE_CCFG c) 30)
  if p.gs c = on then p
  else
    let p := ((p.setBit (chanReg Reg.GATE_GS_LO c) (c % 32) on).noteShown c false).compareReturns c t
    let judged := p.chanChecked c && !p.stoHold
    let p := p.when (judged && p.edgeAt c + p.tout c < t) (·.gateFault c 3 t)
    let p := p.when (judged && on && p.ret (p.chanPartner c)) (·.gateFault c 4 t)
    p.evalChan c t

/-- GS_RETURN. -/
def execGsReturn (ch : Fin 56) (level : Bool) (t : Instant) (s : State) := s.run (·.gsReturn ch.val level t)

/-- GATE_TIMEOUT: by TOUT after a command edge the return has not shown the commanded state (R210). -/
def Part.gateTimeout (p : Part) (c : Nat) (t : Instant) : Part :=
  let p := p.at t
  if !p.chanChecked c || p.stoHold || t < p.edgeAt c + p.tout c || p.gs c = p.gt c || p.pwm.shown.contains c then p
  else p.gateFault c (if p.gt c then 1 else 2) t

/-- GATE_TIMEOUT. -/
def execGateTimeout (ch : Fin 56) (t : Instant) (s : State) := s.run (·.gateTimeout ch.val t)

/-- PAD_FAULT: the pin's readback has disagreed with its command for more than 20 ns, or agrees again. -/
def Part.padFault (p : Part) (c : Nat) (bad : Bool) (t : Instant) : Part :=
  let p := p.at t
  let others := p.pwm.padBad.filter (fun x => x ≠ c)
  let p := { p with pwm := { p.pwm with padBad := if bad then c :: others else others } }
  if bad && p.chanChecked c && !p.replaced c then
    { p.gateFault c 5 t with health := { p.health with padAt := (c, t) :: p.health.padAt } }
  else p

/-- PAD_FAULT. -/
def execPadFault (ch : Fin 56) (bad : Bool) (t : Instant) (s : State) := s.run (·.padFault ch.val bad t)

/-! Latch clears (R217). -/

/-- A gate-fault condition stands on a channel. -/
def Part.gateBad (p : Part) (c : Nat) (t : Instant) : Bool :=
  (p.pwm.padBad.contains c && !p.replaced c) || (p.gs c ≠ p.gt c && p.edgeAt c + p.tout c ≤ t)
    || (p.gs c && p.ret (p.chanPartner c))

/-- A source of a trip on a leg still stands: on its channels, and on the reserves that run beside or in place of them. -/
def Part.tripStands (p : Part) (l : Nat) (t : Instant) : Bool :=
  let chans := (p.legChans l).flatMap (fun c => c :: (p.gateCopies c).map (48 + ·))
  p.sense.standing.any (fun x => (p.sourceLegs x.src).testBit l) || chans.any (fun c => p.gateBad c t)

/-- One bit of a write of GATE_TRIPCLR: refused where a source stands; else it takes effect at the next period boundary
of the leg's timebase, or at once when that does not run. -/
def Part.tripClear (p : Part) (t : Instant) (l : Nat) : Part :=
  if !p.latched l then p
  else if p.tripStands l t then p.setBit Reg.GATE_CLRREF l true
  else
    let p := p.setBit Reg.GATE_CLRREF l false
    let g := p.legGrp l
    if p.tbRuns g then p.setLeg l { p.leg l with clearing := some (p.nextBoundary g) } else p.unlatchLeg t l

/-- GATE_TRIPCLR. -/
def Part.gateTripClr (p : Part) (v : Word) (t : Instant) : Part :=
  (p.at t).each (setPositions 24 v.toNat) (fun p l => p.tripClear t l)

/-- GATE_TRIPCLR. -/
def execGateTripclr (v : Word) (t : Instant) (s : State) := s.run (·.gateTripClr v t)

/-- TRIP_LATCH_CLEAR: an accepted clear takes effect at the boundary. -/
def Part.latchClear (p : Part) (l : Nat) (t : Instant) : Part :=
  let p := p.at t
  match (p.leg l).clearing with
  | some b => if b ≤ t then (p.setLeg l { p.leg l with clearing := none }).unlatchLeg t l else p
  | none => p

/-- TRIP_LATCH_CLEAR. -/
def execTripLatchClear (leg : Fin 24) (t : Instant) (s : State) := s.run (·.latchClear leg.val t)

/-- GATE_FREARM: bit 0 closes the gate-fault record; no leg latch is cleared. -/
def Part.gateRearm (p : Part) (v : Word) : Part := p.when (bitAt v 0) (·.setReg Reg.GATE_FFIRST 0)

/-- GATE_FREARM. -/
def execGateFrearm (v : Word) (s : State) := s.run (·.gateRearm v)

/-! Reserve gate channels (R220, R221). -/

/-- A request brings a gate reserve beside its target: it carries the target's command from now on. -/
def Part.gateSwapStart (p : Part) (r cause : Nat) (slot : Option Nat) (t : Instant) : Part :=
  let c := p.fld (Reg.GATE_RSVMAP r) 0 6
  let diff := if p.gs c = p.gs (48 + r) then none else some t
  (p.setGateSwap r { phase := .compare, slot := slot, cause := cause, diffAt := diff }).setGt (48 + r) (p.gt c) t

/-- A period of the target's timebase ends: it agreed where the returns did not differ in it. -/
def Part.gateSwapPeriod (p : Part) (g : Grp) : Part :=
  p.each (List.range 8) (fun p r =>
    let x := p.gateSwap r
    let c := p.fld (Reg.GATE_RSVMAP r) 0 6
    if x.phase ≠ .compare || p.pairGrp (c / 2) ≠ g then p
    else
      let agree := if x.bad || x.differed (p.gsFilter c) p.now then 0 else x.agree + 1
      p.setGateSwap r { x with periods := x.periods + 1, agree := agree, bad := false })

/-- The compares from whose signals the command of a channel follows (R202, R206): of an NPC leg compare A of P0 drives all
four switches. -/
def Part.chanSigs (p : Part) (c : Nat) : List Nat :=
  match p.legOfPair (c / 2) with
  | none => []
  | some l =>
    let q := p.legP0 l
    if !p.legNpc l && p.pairIndep q then [2 * q + c % 2] else [2 * q]

/-- Whether a channel's wanted level waits, by `hi`, for nothing but a return: the dead time of its pair is over by then. The
order of an NPC leg may let it issue at any return. -/
def Part.edgeWaits (p : Part) (c : Nat) (hi : Instant) : Bool :=
  match p.legOfPair (c / 2) with
  | none => false
  | some l =>
    let v := p.legView l
    match (List.range v.chans.length).find? (fun i => v.ch i = c) with
    | some i => p.gt c ≠ (p.legWant l).getD i false && (v.npc || p.edgeAt (v.ch (partnerOf i)) + v.dt.getD i 0 ≤ hi)
    | none => false

/-- Whether a channel has, or may have, a command edge from `lo` to `hi`, as the present instant shows it: one that was issued, one
that its signals request, one that waits, or one that an update instant of its timebase may bring. A reserve that carries its
target's command has its target's edges. -/
def Part.edgeNear (p : Part) (c : Nat) (lo hi : Instant) : Bool :=
  let within : Instant → Bool := fun a => lo ≤ a && a ≤ hi
  let h := p.chanHome c
  let g := p.pairGrp (h / 2)
  let carries := c < 48 || (p.gateSwap (c - 48)).phase ≠ .idle
  within (p.edgeAt c) || (carries && ((p.chanSigs h).any (fun k => (p.sig k).edges.any (fun e => within (e.1 * tdcStep)))
    || p.edgeWaits h hi || (p.tbRuns g && (p.legOfPair (h / 2)).isSome && within (p.nextUpdate g))))

/-- Whether a channel has no edge within 2 µs of an instant. -/
def Part.quiet (p : Part) (c : Nat) (t : Instant) : Bool := !p.edgeNear c (t - usec 2) (t + usec 2)

/-- The delay lines: one for each gate output. -/
def dlLines : Nat := 56

/-- A refresh of the tap tables (R201): with the reserve chain in range the new table is applied to every line that has
no edge due within 20 ns, and the others await the next refresh; otherwise the last good tables stay and DLSTALE is
set. -/
def Part.dlRefresh (p : Part) (rangeOk : Bool) (t : Instant) : Part :=
  let p := p.at t
  if !rangeOk then p.setBit Reg.PWM_DLSTAT 31 true
  else
    let wait := (List.range dlLines).filter (fun c => p.edgeNear c t (t + nsec 20))
    ({ p with pwm := { p.pwm with dlWait := wait } }.setBit Reg.PWM_DLSTAT 31 false).countWrap Reg.PWM_DLSTAT 0 16

/-- DELAY_LINE_REFRESH. -/
def execDelayLineRefresh (rangeOk : Bool) (t : Instant) (s : State) := s.run (·.dlRefresh rangeOk t)

/-- GATE_RESERVE_SELECT: after eight agreeing periods the select is asserted at a quiet instant. -/
def Part.gateSelect (p : Part) (r : Nat) (t : Instant) : Part :=
  let p := p.at t
  let x := p.gateSwap r
  if x.phase = .compare && 8 ≤ x.agree && p.quiet (p.fld (Reg.GATE_RSVMAP r) 0 6) t then
    p.setGateSwap r { x with phase := .selected, selAt := t }
  else p

/-- GATE_RESERVE_SELECT. -/
def execGateReserveSelect (r : Fin 8) (t : Instant) (s : State) := s.run (·.gateSelect r.val t)

/-- GATE_RESERVE_TARGET_OFF: 1 µs after the select the target goes to its off level and is marked REPLACED. -/
def Part.gateTargetOff (p : Part) (r : Nat) (t : Instant) : Part :=
  let p := p.at t
  let x := p.gateSwap r
  if x.phase = .selected && x.selAt + usec 1 ≤ t then
    let c := p.fld (Reg.GATE_RSVMAP r) 0 6
    let p := (p.setGateSwap r { x with phase := .inService, slot := none }).setBit (Reg.GATE_CHSTAT c) 30 true
    (p.noteSwap 6 c (48 + r) x.cause).swapDone 6 c x.slot
  else p

/-- GATE_RESERVE_TARGET_OFF. -/
def execGateReserveTargetOff (r : Fin 8) (t : Instant) (s : State) := s.run (·.gateTargetOff r.val t)

/-- A reserve no longer carries a command: its output goes off. -/
def Part.gateRsvOff (p : Part) (r : Nat) : Part := (p.setGateSwap r {}).when (p.gt (48 + r)) (·.setGt (48 + r) false p.now)

/-- GATE_SWAP_TIMEOUT: a request not completed within 64 periods fails, and the reserve stays unused. -/
def Part.gateSwapTimeout (p : Part) (r : Nat) : Part :=
  let x := p.gateSwap r
  if x.phase = .compare && 64 ≤ x.periods then (p.gateRsvOff r).opErr? 4 x.slot else p

/-- GATE_SWAP_TIMEOUT. -/
def execGateSwapTimeout (r : Fin 8) (s : State) := s.run (·.gateSwapTimeout r.val)

/-- The reserve map that names a pin as SELGPIO, with ALLOW set. -/
def Part.selMap (p : Part) (pin : Nat) : Option Nat :=
  (List.range 8).find? (fun r => p.bit (Reg.GATE_RSVMAP r) 31 && p.fld (Reg.GATE_RSVMAP r) 24 5 = pin)

/-- The level a GPIO pin drives, if it drives one (R43): a select pin low until its swap and high from it on; else with
OUTEN its latch, open drain pulling low only. -/
def Part.gpioDrive (p : Part) (pin : Nat) : Option Bool :=
  match p.selMap pin with
  | some r => some ((p.gateSwap r).phase = .selected || (p.gateSwap r).phase = .inService)
  | none =>
    let cfg := Reg.GPIO_CFG pin
    if !p.bit cfg 31 then none
    else if p.bit cfg 30 && p.bit Reg.GPIO_OUT pin then none
    else some (p.bit Reg.GPIO_OUT pin)

/-- GPIO_OWN: the pins that the active image owns as outputs, and those that a reserve map names. -/
def Part.showOwn (p : Part) : Part :=
  let sel := ((List.range 32).filter (fun i => (p.selMap i).isSome)).map (fun i => 2 ^ i)
  p.setReg Reg.GPIO_OWN (p.gpioTask ||| BitVec.ofNat 32 sel.sum)

/-! Gate status buses (R222). -/

/-- One byte into a CRC-8 of polynomial 0x07. -/
def crc8Byte (c : Nat) (b : Byte) : Nat :=
  (List.range 8).foldl (fun c _ => if 128 ≤ c then (2 * c) % 256 ^^^ 7 else 2 * c % 256) (c ^^^ b.toNat)

/-- CRC-8, initial value 0. -/
def crc8 (bs : List Byte) : Nat := bs.foldl crc8Byte 0

/-- Gate status bus `n`. -/
def Part.gbus (p : Part) (n : Nat) : Gbus := vget {} p.pwm.bus n

/-- Replace gate status bus `n`. -/
def Part.setGbus (p : Part) (n : Nat) (x : Gbus) : Part := { p with pwm := { p.pwm with bus := vset p.pwm.bus n x } }

/-- The bytes of a request: address, register and CRC-8. -/
def gbusRequest (addr reg : Nat) : List Byte :=
  let b : List Byte := [BitVec.ofNat 8 addr, BitVec.ofNat 8 reg]
  b ++ [BitVec.ofNat 8 (crc8 b)]

/-- A request goes out on a bus, and its response is awaited. -/
def Part.gbusAsk (p : Part) (n : Nat) (x : Gbus) (k : GbusReq) (addr reg : Nat) : Part :=
  p.setGbus n { x with req := some (k, addr, reg), sent := gbusRequest addr reg }

/-- GBUS_POLL: the fault registers asked for after a trip go first, then the enabled poll entries in turn. -/
def Part.gbusPoll (p : Part) (n : Nat) : Part :=
  let x := p.gbus n
  if !p.bit (Reg.GATE_GBCFG n) 31 || x.req.isSome then p
  else match x.faults with
    | c :: rest =>
      p.gbusAsk n { x with faults := rest } (.fault c) (p.fld (Reg.GATE_GADDR c) 0 5) (p.fld (Reg.GATE_GBCFG n) 16 8)
    | [] =>
      let order := (List.range 32).map (fun i => (x.next + i) % 32)
      match order.find? (fun k => p.bit (Reg.GATE_GBPOLL n k) 31) with
      | none => p
      | some k =>
        p.gbusAsk n { x with next := (k + 1) % 32 } (.poll k) (p.fld (Reg.GATE_GBPOLL n k) 8 5) (p.fld (Reg.GATE_GBPOLL n k) 0 8)

/-- GBUS_POLL. -/
def execGbusPoll (n : Fin 2) (s : State) := s.run (·.gbusPoll n.val)

/-- GBUS_RESPONSE: address + 0x80, register, four data bytes most significant first, and CRC-8. A bad CRC is counted;
the data of a good response to the request is stored; one from another address or of another register is no response to it, and
the request waits on. -/
def Part.gbusResponse (p : Part) (n : Nat) (data : List Byte) : Part :=
  let x := p.gbus n
  match x.req with
  | none => p
  | some (k, addr, reg) =>
    let q := p.setGbus n { x with req := none }
    let body := data.take 6
    if data.length ≠ 7 || crc8 body ≠ (data.getD 6 0).toNat then q.countSat (Reg.GATE_GBSTAT n) 16 16
    else if (data.getD 0 0).toNat ≠ addr + 0x80 || (data.getD 1 0).toNat ≠ reg then p
    else
      let p := q
      let v := BitVec.ofNat 32 (numOf (body.drop 2).reverse)
      match k with
      | .poll e => p.setReg (Reg.GATE_GBRES n e) v
      | .fault c => p.setReg (Reg.GATE_GBFLT c) v

/-- GBUS_RESPONSE. -/
def execGbusResponse (n : Fin 2) (data : List Byte) (s : State) := s.run (·.gbusResponse n.val data)

/-- GBUS_TIMEOUT: a response missing after RTO is counted. -/
def execGbusTimeout (n : Fin 2) (s : State) :=
  s.run (fun p =>
    let x := p.gbus n.val
    if x.req.isSome then (p.setGbus n.val { x with req := none }).countSat (Reg.GATE_GBSTAT n.val) 0 16 else p)

/-! Commits. -/

/-- Commit check of GATE (R220, R225, R226). -/
def Part.gateCheck (p : Part) (val : Nat → Word) : Option (Nat × Nat) :=
  let chan := (List.range 56).findSome? (fun c =>
    let o := Reg.GATE_CCFG c
    let v := val o
    let w := p.reg o
    let tout := bits v 0 10
    if tout < 20 || 1000 < tout then some (1, o)
    else if p.floor && (bits v 30 2 ≠ bits w 30 2 || tout ≠ bits w 0 10) then some (6, o) else none)
  let leg := (List.range 24).findSome? (fun l =>
    let o := Reg.GATE_LCFG l
    if 1 < bits (val o) 0 2 then some (1, o)
    else if p.floor && bits (val o) 0 2 ≠ p.fld o 0 2 then some (6, o) else none)
  let map := (List.range 8).findSome? (fun r =>
    let o := Reg.GATE_RSVMAP r
    let v := val o
    let c := bits v 0 6
    let sel := bits v 24 5
    let clash := (List.range r).any (fun q =>
      let u := val (Reg.GATE_RSVMAP q)
      bitAt u 31 && (bits u 0 6 = c || bits u 24 5 = sel))
    if bitAt v 31 && (48 ≤ c || !p.pairOn (c / 2) || clash || p.gpioTask.getLsbD sel) then some (0x10, o) else none)
  let bus := (List.range 2).findSome? (fun n =>
    let rto := bits (val (Reg.GATE_GBCFG n)) 0 8
    if rto < 1 || 20 < rto then some (1, Reg.GATE_GBCFG n)
    else (List.range 32).findSome? (fun k =>
      let v := val (Reg.GATE_GBPOLL n k)
      if bitAt v 31 && (bits v 8 5 < 1 || 30 < bits v 8 5) then some (1, Reg.GATE_GBPOLL n k) else none))
  chan.orElse (fun _ => leg.orElse (fun _ => map.orElse (fun _ => bus)))

/-- What follows the move of a GATE set: pins named by a map are owned, a map that changed starts anew, and the legs
follow their safe states. -/
def Part.gateMoved (p : Part) (old : Nat → Word) : Part :=
  let p := p.each (List.range 8) (fun p r =>
    let o := Reg.GATE_RSVMAP r
    if old o = p.reg o then p
    else
      let x := p.gateSwap r
      let p := p.when (x.phase = .inService) (·.setBit (Reg.GATE_CHSTAT (bits (old o) 0 6)) 30 false)
      p.gateRsvOff r)
  (p.showOwn).evalLegs p.now

/-- Commit check of a PWM set for a group (R197, R198, R200, R203, R211, R224): `pairs` move with it, and every leg is judged as
it would stand, those of the other group too. The lock rule of R176 and the budget of R19 are checked beside it. -/
def Part.pwmCheck (p : Part) (val : Nat → Word) (g : Grp) (pairs : List Nat) : Option (Nat × Nat) :=
  let i := g.ix
  let cfg := val (Reg.PWM_TBCFG i)
  let fr := val (Reg.PWM_PERFR i)
  let per := periodOf (val (Reg.PWM_PERIOD i)) fr
  let dbl := bitAt cfg 30
  let car := bits cfg 28 2
  -- 5 µs to 500 µs are 2 000 to 200 000 counts
  let ts := (if dbl then 2 else 1) * per.2
  let tb := [Reg.PWM_TBCFG i, Reg.PWM_PERIOD i, Reg.PWM_PERFR i, Reg.PWM_PHASE i, Reg.PWM_ANCHOR_LO i, Reg.PWM_ANCHOR_HI i]
  let changed := tb.find? (fun o => val o ≠ p.reg o)
  let tbErr : Option (Nat × Nat) :=
    if car = 3 then some (1, Reg.PWM_TBCFG i)
    else if bits fr 16 16 ≤ bits fr 0 16 then some (1, Reg.PWM_PERFR i)
    else if per.1 < 2000 * ts || 200000 * ts < per.1 then some (1, Reg.PWM_PERIOD i)
    else if dbl && car ≠ 2 then some (0x10, Reg.PWM_TBCFG i)
    else if 32 * per.1 ≤ bits (val (Reg.PWM_PHASE i)) 0 29 * per.2 then some (0x12, Reg.PWM_PHASE i)
    else if p.tbRuns g then changed.map (fun o => (6, o)) else none
  let pairErr := pairs.findSome? (fun q =>
    let c := val (Reg.PWM_PCFG q)
    let dt := bits (val (Reg.PWM_DT q)) 0 17
    let mp := bits (val (Reg.PWM_MINPW q)) 0 16
    if 1 < bits c 26 2 then some (1, Reg.PWM_PCFG q)
    else if 102400 < dt then some (1, Reg.PWM_DT q)
    else if 64000 < mp then some (1, Reg.PWM_MINPW q)
    -- DT + MINPW > T/8, in steps: T counts are 32 T steps
    else if bitAt c 31 && 4 * per.1 < (dt + mp) * per.2 then some (0x12, Reg.PWM_DT q)
    else none)
  let names : Nat → List Nat := fun l =>
    let c := val (Reg.PWM_LEGCFG l)
    if !bitAt c 31 then [] else if bitAt c 30 then [bits c 0 5, bits c 8 5] else [bits c 0 5]
  let legErr := (List.range 24).findSome? (fun l =>
    let c := val (Reg.PWM_LEGCFG l)
    let qs := names l
    let npc := bitAt c 30
    let bad := qs.any (fun q => 24 ≤ q || !bitAt (val (Reg.PWM_PCFG q)) 31)
      || (npc && bits c 0 5 = bits c 8 5)
      || qs.any (fun q => bitAt (val (Reg.PWM_PCFG q)) 30 ≠ bitAt (val (Reg.PWM_PCFG (qs.headD 0))) 30)
      || (npc && qs.any (fun q => bits (val (Reg.PWM_PCFG q)) 26 2 ≠ 0))
      || (List.range 24).any (fun k => k ≠ l && (names k).any qs.contains)
    if bitAt c 31 && bad then some (0x11, Reg.PWM_LEGCFG l) else none)
  tbErr.orElse (fun _ => pairErr.orElse (fun _ => legErr))

/-- What follows the move of a PWM set: the carries of its pairs are cleared (R211), channels of no enabled leg are
commanded off, and the legs of a stopped timebase are evaluated; those of a running one follow their new schedule. -/
def Part.pwmMoved (p : Part) (g : Grp) : Part :=
  let t := p.now
  let p := p.each ((List.range 24).filter (fun q => p.pairGrp q = g)) (fun p q =>
    (p.setReg (Reg.PWM_CARRYA q) 0).setReg (Reg.PWM_CARRYB q) 0)
  let p := p.each ((List.range 48).filter (fun c => (p.legOfPair (c / 2)).isNone && p.gt c)) (fun p c => p.setGt c false t)
  if p.tbRuns g then p else p.evalLegs t

end Sys2Proof.Machine
end

