-- ==== Sys2Proof/Machine/Pos.lean ====
section
/-! DEFINITION. Position interfaces: counting, index, serial frames, the observer and the compare lists (chapter 8,
R227 to R238, R244, R245). -/

namespace Sys2Proof.Machine

/-- Interface `n`. -/
def Part.pif (p : Part) (n : Nat) : PosIf := vget {} p.pos n

/-- Replace interface `n`. -/
def Part.setPif (p : Part) (n : Nat) (x : PosIf) : Part := { p with pos := vset p.pos n x }

/-- CPR; 0 means 2^32. -/
def cprOf (w : Word) : Nat := if w = 0 then 2 ^ 32 else w.toNat

/-- CPR of an interface. -/
def Part.cpr (p : Part) (n : Nat) : Nat := cprOf (p.reg (Reg.POS_CPR n))

/-- MODE: 0 quadrature, 1 sin/cos, 2 serial. -/
def Part.posMode (p : Part) (n : Nat) : Nat := p.fld (Reg.POS_CFG n) 28 2

/-- An enabled interface. -/
def Part.posOn (p : Part) (n : Nat) : Bool := p.bit (Reg.POS_CFG n) 31

/-- The present count. -/
def Part.posCount (p : Part) (n : Nat) : Nat := (p.reg (Reg.POS_COUNT n)).toNat

/-- A difference of counts wrapped into (−CPR/2, +CPR/2]. -/
def wrapCount (cpr : Nat) (d : Int) : Int :=
  let r := d % cpr
  if (cpr : Int) < 2 * r then r - cpr else r

/-- Mark the position uncertain, or certain again: UNCERT of POS_STAT. -/
def Part.uncert (p : Part) (n : Nat) (b : Bool) : Part := p.setBit (Reg.POS_STAT n) 30 b

/-- POS_FAULT stands until it is cleared in POS_EVT (R233). -/
def Part.posFault (p : Part) (n : Nat) : Part := p.raise (Reg.POS_EVT n) 7

/-! Compare lists (R238). -/

/-- ARM of an interface. -/
def Part.posArmed (p : Part) (n : Nat) : Bool := p.bit (Reg.POS_CMPCTL n) 0

/-- LEN of an interface's list. -/
def Part.posLen (p : Part) (n : Nat) : Nat := min 64 (p.fld (Reg.POS_CMPCFG n) 16 7)

/-- Whether a move of the count by `d` from `c` passes `v`, taken modulo CPR. -/
def passes (cpr c v : Nat) (d : Int) : Bool :=
  if d = 0 then false
  else if 0 < d then
    -- the distance forward to the value, from 1 to CPR
    let k := ((v : Int) - c - 1) % cpr + 1
    k ≤ d
  else
    let k := ((c : Int) - v - 1) % cpr + 1
    k ≤ -d

/-- Circular distance of two counts. -/
def countDist (cpr c v : Nat) : Nat := (wrapCount cpr ((c : Int) - v)).natAbs

/-- One entry fires: the firing is counted, the pulse starts or is extended, and the event is raised at the update's
sample instant `ts`. -/
def Part.fireEntry (p : Part) (n k : Nat) (t ts : Instant) : Part :=
  let x := p.pif n
  let pw := nsec (10 * p.fld (Reg.POS_CMPCFG n) 0 10)
  let p := (p.setPif n { x with pulse := some (t + pw), fired := k :: x.fired }).raise (Reg.POS_EVT n) 0
  let p := ((p.countSat (Reg.POS_CMPSTAT n) 16 16).setFld (Reg.POS_CMPSTAT n) 0 6 k).setBit (Reg.POS_STAT n) 24 true
  p.capEvent (0x400 + n) ts

/-- A count update has moved the count by `d` from `c`: the entries that the path passes in an allowed direction fire,
and entries far enough away are armed again (R238). -/
def Part.compareMove (p : Part) (n c : Nat) (d : Int) (t ts : Instant) : Part :=
  if !p.posArmed n then p
  else
    let cpr := p.cpr n
    let cfg := p.reg (Reg.POS_CMPCFG n)
    let dirOk := match bits cfg 28 2 with
      | 0 => true
      | 1 => decide (0 < d)
      | _ => decide (d < 0)
    let entries := List.range (p.posLen n)
    let v : Nat → Nat := fun k => (p.reg (Reg.POS_LIST n k)).toNat
    let hits := entries.filter (fun k => dirOk && !(p.pif n).fired.contains k && passes cpr c (v k) d)
    let p := p.each hits (fun p k => p.fireEntry n k t ts)
    let now := ((c : Int) + d) % cpr
    let x := p.pif n
    if bitAt cfg 31 then
      if entries.all x.fired.contains && !entries.isEmpty then p.setBit (Reg.POS_CMPCTL n) 0 false else p
    else
      p.setPif n { x with fired := x.fired.filter (fun k =>
        countDist cpr now.toNat (v k) < (p.reg (Reg.POS_CMPHYS n)).toNat) }

/-- The count moves by `d` (R228): it wraps at CPR, each wrap moves the turn counter, and the compare list sees the
path. -/
def Part.moveCount (p : Part) (n : Nat) (d : Int) (t ts : Instant) : Part :=
  if d = 0 then p
  else
    let cpr : Int := p.cpr n
    let c := p.posCount n
    let s := (c : Int) + d
    let p := p.setReg (Reg.POS_COUNT n) (wordOfInt (s % cpr))
    let p := p.setReg (Reg.POS_TURNS n) (p.reg (Reg.POS_TURNS n) + wordOfInt (s / cpr))
    let p := p.setBit (Reg.POS_STAT n) 26 (d < 0)
    p.compareMove n c d t ts

/-- PCMP_PULSE_END. -/
def execPcmpPulseEnd (n : Fin 4) (t : Instant) (s : State) :=
  s.run (fun p =>
    let p := p.at t
    let x := p.pif n.val
    match x.pulse with
    | some e => if e ≤ t then p.setPif n.val { x with pulse := none } else p
    | none => p)

/-- POS_ARM: a write of POS_CMPCTL. ARM = 1 arms every entry, or is refused with LISTREF if one of the first LEN
entries is CPR or above. -/
def Part.posArm (p : Part) (n : Nat) (v : Word) : Part :=
  if !bitAt v 0 then p.setBit (Reg.POS_CMPCTL n) 0 false
  else if (List.range (p.posLen n)).any (fun k => p.cpr n ≤ (p.reg (Reg.POS_LIST n k)).toNat) then p.raise (Reg.POS_EVT n) 1
  else (p.setPif n { p.pif n with fired := [] }).setBit (Reg.POS_CMPCTL n) 0 true

/-- POS_ARM. -/
def execPosArm (n : Fin 4) (v : Word) (s : State) := s.run (·.posArm n.val v)

/-- POS_LIST_WRITE: accepted only while ARM is 0. -/
def Part.posListWrite (p : Part) (n k : Nat) (v : Word) : Part :=
  if p.posArmed n then p.raise (Reg.POS_EVT n) 1 else p.setReg (Reg.POS_LIST n k) v

/-- POS_LIST_WRITE. -/
def execPosListWrite (n : Fin 4) (k : Fin 64) (v : Word) (s : State) := s.run (·.posListWrite n.val k.val v)

/-! Quadrature (R228, R229). -/

/-- Place of a quadrature state in the order in which A leads B: 00, 10, 11, 01. -/
def quadPhase (a b : Bool) : Nat := if a then (if b then 2 else 1) else (if b then 3 else 0)

/-- QUADRATURE_EDGE: the filtered levels of A, B and Z. A change of one of A and B moves the count; of both is
illegal. In sin/cos mode the tracks are counted as quarter-lines. -/
def Part.quadEdge (p : Part) (n : Nat) (a b z : Bool) (t : Instant) : Part :=
  let p := p.at t
  let x := p.pif n
  let step := (quadPhase a b + 4 - quadPhase x.a x.b) % 4
  let p := p.setPif n { x with a := a, b := b, z := z }
  let mode := p.posMode n
  if !p.posOn n || 2 ≤ mode then p
  else if step = 2 then
    ((p.setReg (Reg.POS_ILLCNT n) (BitVec.ofNat 32 (satInc 32 (p.reg (Reg.POS_ILLCNT n)).toNat))).raise
      (Reg.POS_EVT n) 5).uncert n true
  else
    let up : Int := if step = 1 then 1 else if step = 3 then -1 else 0
    let d := if p.bit (Reg.POS_CFG n) 27 then -up else up
    if mode = 0 then p.moveCount n d t (t - nsec (10 * p.fld (Reg.POS_CFG n) 0 6))
    else p.setPif n { p.pif n with q := x.q + d }

/-- QUADRATURE_EDGE. -/
def execQuadratureEdge (n : Fin 4) (a b z : Bool) (t : Instant) (s : State) := s.run (·.quadEdge n.val a b z t)

/-! Index (R233, R234). -/

/-- An index is accepted: UNCERT clears and IDXOK is set (R231). -/
def Part.indexAccepted (p : Part) (n : Nat) : Part := (p.uncert n false).setBit (Reg.POS_STAT n) 25 true

/-- Counts of a quarter-line in sin/cos mode. -/
def Part.quarterLine (p : Part) (n : Nat) : Int := 2 ^ (p.fld (Reg.POS_CFG n) 16 4 - 2)

/-- The quarter-lines by which a realignment moves the quarter count: those nearest to −d that leave it in the quadrant the last
conversion saw, so that the next one confirms it: a multiple of 4, and 2 more where the two were 2 apart (R230; DEDUCED, log
entry 64). What is left of −d moves the count at which quarter 0 lies. -/
def Part.quarterShift (p : Part) (n : Nat) (d : Int) : Int :=
  let r : Int := if (p.pif n).apart then 2 else 0
  if p.posMode n = 1 then (-d + (2 - r) * p.quarterLine n) / (4 * p.quarterLine n) * 4 + r else 0

/-- A realignment moves the count by −d, and the observer's estimate with it; turns and lists ignore it (R234). -/
def Part.realign (p : Part) (n : Nat) (d : Int) : Part :=
  let cpr : Int := p.cpr n
  let c : Int := p.posCount n
  let x := p.pif n
  let dt := d * 2 ^ 64 / cpr
  let k := p.quarterShift n d
  (p.setReg (Reg.POS_COUNT n) (wordOfInt ((c - d) % cpr))).setPif n
    { x with q := x.q + k, off := x.off - d - k * p.quarterLine n, apart := false, th := x.th - dt, pred := x.pred - dt }

/-- INDEX_EVENT: filtered Z is high in ZSTATE; the index is judged as a match or a mismatch. -/
def Part.indexEvent (p : Part) (n : Nat) (t : Instant) : Part :=
  let p := p.at t
  let x := p.pif n
  let cfg := p.reg (Reg.POS_CFG n)
  if !p.posOn n || !bitAt cfg 21 || !x.z || x.a ≠ bitAt cfg 23 || x.b ≠ bitAt cfg 22 then p
  else
    let d := wrapCount (p.cpr n) ((p.posCount n : Int) - (p.reg (Reg.POS_IDXPOS n)).toNat)
    let win := p.reg (Reg.POS_IDXWIN n)
    if d.natAbs ≤ bits win 24 8 then
      (p.setFld (Reg.POS_IDXMIS n) 0 8 0).indexAccepted n
    else
      let fix := match bits cfg 24 2 with
        | 0 => false
        | 1 => true
        | _ => decide (d.natAbs ≤ bits win 0 24)
      let p := p.logEvent .indexMismatch [n, (wordOfInt d).toNat, fix.toNat]
      let p := (p.setReg (Reg.POS_IDXDEV n) (wordOfInt d)).raise (Reg.POS_EVT n) 6
      let k := min 255 (p.fld (Reg.POS_IDXMIS n) 0 8 + 1)
      let p := (p.countSat (Reg.POS_IDXMIS n) 16 16).setFld (Reg.POS_IDXMIS n) 0 8 k
      let p := p.when (bits cfg 12 4 ≤ k) (·.posFault n)
      if fix then (p.realign n d).indexAccepted n else p

/-- INDEX_EVENT. -/
def execIndexEvent (n : Fin 4) (t : Instant) (s : State) := s.run (·.indexEvent n.val t)

/-! Sin/cos (R230, R231). -/

/-- An ADC result as a fraction of full scale, with its gain and offset trims. -/
def adcValue (raw : BitVec 14) (gain off : Word) : Word := fpMul gain (fpSub (fpOfRat raw.toInt 8192) off)

/-- The amplitude √(sin² + cos²), rounded to the nearest FP32. -/
def amplitude (sn cs : Word) : Word :=
  let a := (fpScaled sn).natAbs
  let b := (fpScaled cs).natAbs
  fpRoundSqrt false (a * a + b * b) (2 ^ 298)

/-- The amplitude window: 4 conversions outside set SIGLOSS and UNCERT, 4 inside clear SIGLOSS. -/
def Part.ampCheck (p : Part) (n : Nat) (amp : Word) : Part :=
  let win := p.reg (Reg.POS_AMPWIN n)
  let u := fpScaled amp * 65536
  let inside := decide ((bits win 0 16 : Int) * 2 ^ 149 ≤ u ∧ u ≤ (bits win 16 16 : Int) * 2 ^ 149)
  let x := p.pif n
  let x := { x with ampOut := if inside then 0 else x.ampOut + 1, ampIn := if inside then x.ampIn + 1 else 0 }
  let p := (p.setPif n x).setReg (Reg.POS_AMP n) amp
  if x.ampOut = 4 then ((p.setBit (Reg.POS_STAT n) 28 true).raise (Reg.POS_EVT n) 3).uncert n true
  else if 4 ≤ x.ampIn then p.setBit (Reg.POS_STAT n) 28 false
  else p

/-- SINCOS_CONVERSION: the quadrant of φ is checked against the quarter count, the count is interpolated, and the
amplitude is checked. `t` is the sample instant. -/
def Part.sincos (p : Part) (n : Nat) (sn cs : BitVec 14) (t : Instant) : Part :=
  let p := p.at t
  if !p.posOn n || p.posMode n ≠ 1 then p
  else
    let x := p.pif n
    let tr : Nat → Word := fun k => x.trims.getD k 0
    let sv := adcValue sn (tr 0) (tr 1)
    let cv := adcValue cs (tr 2) (tr 3)
    let phi := fpAtan2 sv cv
    let phi := if p.bit (Reg.POS_CFG n) 27 then ~~~phi else phi
    let sub := p.fld (Reg.POS_CFG n) 16 4
    let diff := ((bits phi 30 2 : Int) - x.q) % 4
    let q := if diff = 1 then x.q + 1 else if diff = 3 then x.q - 1 else x.q
    let p := p.when (diff = 2) (fun p => (p.raise (Reg.POS_EVT n) 4).uncert n true)
    let cnt := q * p.quarterLine n + (bits phi 0 30) / 2 ^ (32 - sub) + x.off
    let d := wrapCount (p.cpr n) (cnt - p.posCount n)
    let p := (p.setPif n { p.pif n with q := q, apart := diff = 2 }).moveCount n d t t
    let p := (p.ampCheck n (amplitude sv cv)).setBit (Reg.POS_STAT n) 31 true
    if diff = 0 && !p.bit (Reg.POS_STAT n) 28 then p.uncert n false else p

/-- SINCOS_CONVERSION. -/
def execSincosConversion (n : Fin 4) (sn cs : BitVec 14) (t : Instant) (s : State) := s.run (·.sincos n.val sn cs t)

/-! Serial (R232). -/

/-- The observer's prediction for the next tick, in units of 2^-64 turn: th_hat + ts*w_hat (R236). -/
def predict (ts : Nat × Nat) (th w : Int) : Int := th + Config.round (w * ts.1) (ts.2 * sec 1)

/-- SERIAL_FRAME_START: the clock's first falling edge makes the encoder latch its position. -/
def execSerialFrameStart (n : Fin 4) (t : Instant) (s : State) :=
  s.run (fun p =>
    let p := p.at t
    if p.posOn n.val && p.posMode n.val = 2 then p.setPif n.val { p.pif n.val with frame := some t } else p)

/-- Binary of a Gray code of `w` bits. -/
def grayDecode (w g : Nat) : Nat := (List.range w).foldl (fun b i => b ^^^ (g >>> i)) 0

/-- A frame is rejected, with its class, or missing: SERERR, UNCERT, and POS_FAULT after FLTN in a row (R232, R233). -/
def Part.serialReject (p : Part) (n : Nat) (cl : Option SerClass) : Part :=
  let x := p.pif n
  let p := (p.setPif n { x with rejects := x.rejects + 1, frame := none, serClass := cl }).setBit (Reg.POS_STAT n) 27 true
  let p := (p.raise (Reg.POS_EVT n) 2).uncert n true
  p.when (p.fld (Reg.POS_CFG n) 12 4 ≤ x.rejects + 1) (·.posFault n)

/-- SERIAL_FRAME_DONE: the frame's bits, right-aligned, and whether Pn_DAT was high within MONO after it. -/
def Part.serialDone (p : Part) (n : Nat) (raw : Word) (datHigh : Bool) (t : Instant) : Part :=
  let p := p.at t
  let x := p.pif n
  match x.frame with
  | none => p
  | some ts =>
    let cfg := p.reg (Reg.POS_SER n)
    let nb := bits cfg 0 6
    let pb := bits cfg 8 6
    let p := p.setReg (Reg.POS_SERRAW n) (BitVec.ofNat 32 (raw.toNat % 2 ^ nb))
    let g := raw.toNat % 2 ^ nb / 2 ^ (nb - pb)
    let v := if bitAt cfg 15 then grayDecode pb g else g
    let cpr := p.cpr n
    let c := v % cpr
    let per := p.tsUnits (if p.bit (Reg.POS_CFG n) 30 then .B else .A)
    -- the observer's prediction (R236) in counts
    let pred := predict per x.th x.w * cpr / 2 ^ 64
    let jump := (wrapCount cpr ((c : Int) - pred)).natAbs
    if !datHigh then p.serialReject n (some .line)
    else if !x.first && (p.reg (Reg.POS_MAXJUMP n)).toNat < jump then p.serialReject n (some .jump)
    else
      let d := wrapCount cpr ((c : Int) - p.posCount n)
      let p := p.setPif n { x with frame := none, rejects := 0 }
      let p := (p.moveCount n d t ts).setBit (Reg.POS_STAT n) 27 false
      (p.uncert n false).setBit (Reg.POS_STAT n) 31 true

/-- SERIAL_FRAME_DONE. -/
def execSerialFrameDone (n : Fin 4) (raw : Word) (datHigh : Bool) (t : Instant) (s : State) :=
  s.run (·.serialDone n.val raw datHigh t)

/-! The tick (R235 to R237). -/

/-- t0 − t_s in nanoseconds (R235). -/
def Part.posDelay (p : Part) (n : Nat) : Nat :=
  match p.posMode n with
  | 0 => 10 * p.fld (Reg.POS_CFG n) 0 6
  | 1 => 100
  | _ => 10 * p.fld (Reg.POS_SERT n) 0 16

/-- An angle in units of 2^-64 turn wrapped into (−½, +½]. -/
def wrapTurn (d : Int) : Int :=
  let r := d % 2 ^ 64
  if 2 ^ 63 < r then r - 2 ^ 64 else r

/-- π as numerator and denominator. -/
def piNum : Nat := piFix

/-- The observer's update (R236): prediction, estimate and speed from the measured angle, in units of 2^-64. The
results are brought into the observer's number format, which the spec does not give. -/
def observe (bw : Word) (ts : Nat × Nat) (th w m : Int) (uncert : Bool) : Int × Int × Int :=
  let s := sec 1
  let pred := predict ts th w
  let e := if uncert then 0 else wrapTurn (m - pred)
  -- wo = 2 π OBSBW
  let woN := 2 * fpScaled bw * piNum
  let woD := 2 ^ 149 * 2 ^ fixBits
  let w' := w + Config.round (woN * woN * ts.1 * e) (woD * woD * (ts.2 * s))
  let th' := pred + Config.round (2 * woN * ts.1 * e) (woD * (ts.2 * s))
  (pred % 2 ^ 64, th' % 2 ^ 64, w')

/-- The status word of Table 8.2 as it stands. -/
def Part.posStatus (p : Part) (n : Nat) : Word :=
  let v := p.reg (Reg.POS_STAT n)
  setBits (putBit (BitVec.ofNat 32 (bits v 24 8 * 2 ^ 24)) 29 (p.bit (Reg.POS_EVT n) 7)) 0 16
    (bits (p.reg (Reg.POS_ILLCNT n)) 0 16)

/-- POS_STAT as it reads (Table 8.5): [31:24] as Table 8.2, ARM and MODE in force. -/
def Part.posStat (p : Part) (n : Nat) : Word :=
  setBits (putBit (setBits 0 24 8 (bits (p.posStatus n) 24 8)) 23 (p.posArmed n)) 0 2 (p.posMode n)

/-- The status is latched for the ports (R237). -/
def Part.latchStatus (p : Part) (n : Nat) : Part := p.setPif n { p.pif n with status := p.posStatus n }

/-- The position of one interface at a tick of its group (R235 to R237): the measured count is latched, the observer updates, and
the angle and the speed are what the ports deliver. -/
def Part.posUpdate (p : Part) (n : Nat) : Part :=
  if !p.posOn n then p
  else
    let st := Reg.POS_STAT n
    -- a frame that has not arrived is missing
    let p := p.when (p.posMode n = 2 && (p.pif n).frame.isSome) (·.serialReject n none)
    let p := p.when (p.posMode n = 0) (·.setBit st 31 true)
    let x := p.pif n
    let x := match x.pendTrims with
      | some l => { x with trims := l, pendTrims := none }
      | none => x
    let cpr : Int := p.cpr n
    let c : Int := p.posCount n
    let m := c * 2 ^ 64 / cpr
    let ts := p.tsUnits (if p.bit (Reg.POS_CFG n) 30 then .B else .A)
    let unc := p.bit st 30
    let valid := p.bit st 31
    let (pred, th, w) :=
      if x.first then (m, m, (0 : Int)) else observe (p.reg (Reg.POS_OBSBW n)) ts x.th x.w m unc
    let p := p.setPif n { x with pred := pred, th := th, w := w, first := x.first && !valid }
    let dly := p.posDelay n
    -- the angle's count as a fraction of the circle, numerator over denominator
    let (num, den) : Int × Nat :=
      if unc then (pred, 2 ^ 64)
      else if p.bit (Reg.POS_CFG n) 26 then (c * (2 ^ 64 * 10 ^ 9) + w * dly * cpr, (cpr.toNat * (2 ^ 64 * 10 ^ 9)))
      else (c, cpr.toNat)
    let pp := p.fld (Reg.POS_PP n) 0 8
    let ang := wordOfInt (roundInt (num * pp * 2 ^ 32) den) + p.reg (Reg.POS_OFFSET n)
    let p := (p.setReg (Reg.POS_DLY n) (BitVec.ofNat 32 dly)).setReg (Reg.POS_ANGLE n) ang
    p.setReg (Reg.POS_SPEED n) (fpMul (p.reg (Reg.POS_SPDSCALE n)) (fpOfRat w (2 ^ 64)))

/-- One interface at a tick of its group: position and status are latched, and CMP counts anew from this tick. -/
def Part.posTick (p : Part) (n : Nat) : Part := ((p.posUpdate n).latchStatus n).setBit (Reg.POS_STAT n) 24 false

/-- Every interface of a group at its tick. -/
def Part.posTicks (p : Part) (g : Grp) : Part :=
  p.each ((List.range 4).filter (fun n => p.bit (Reg.POS_CFG n) 30 = (g = .B))) (fun p n => p.posTick n)

/-! Commit (R232, R236, R238, R245). -/

/-- Commit check of one interface. -/
def posIfCheck (val : Nat → Word) (n : Nat) : Option (Nat × Nat) :=
  let cfg := val (Reg.POS_CFG n)
  let cpr := cprOf (val (Reg.POS_CPR n))
  let ser := val (Reg.POS_SER n)
  let sert := val (Reg.POS_SERT n)
  let cmp := val (Reg.POS_CMPCFG n)
  let bw := val (Reg.POS_OBSBW n)
  let g := (bitAt cfg 30).toNat
  let per := periodOf (val (Reg.PWM_PERIOD g)) (val (Reg.PWM_PERFR g))
  let dbl := if bitAt (val (Reg.PWM_TBCFG g)) 30 then 2 else 1
  -- Ts in units of 2^-16 ns
  let tn := per.1 * countUnits
  let td := per.2 * dbl
  let nb := bits ser 0 6
  let pb := bits ser 8 6
  let div := bits ser 16 10
  let lead := bits sert 0 16
  let mono := bits sert 16 16
  let sub := bits cfg 16 4
  if bits cfg 28 2 = 3 || bits cfg 24 2 = 3 || sub < 2 || 12 < sub || bits cfg 12 4 = 0 then some (1, Reg.POS_CFG n)
  else if cpr ≤ (val (Reg.POS_IDXPOS n)).toNat then some (1, Reg.POS_IDXPOS n)
  else if cpr ≤ 2 * bits (val (Reg.POS_IDXWIN n)) 0 24 then some (1, Reg.POS_IDXWIN n)
  else if bits (val (Reg.POS_PP n)) 0 8 = 0 then some (1, Reg.POS_PP n)
  else if !fpLe 0x3DCCCCCD bw then some (1, Reg.POS_OBSBW n)
  else if div < 9 || 999 < div || pb < 1 || 32 < pb || nb < 13 || 32 < nb then some (1, Reg.POS_SER n)
  else if mono < 100 || 5000 < mono then some (1, Reg.POS_SERT n)
  else if bits cmp 28 2 = 3 || 64 < bits cmp 16 7 || bits cmp 0 10 < 2 || 1000 < bits cmp 0 10 then some (1, Reg.POS_CMPCFG n)
  else if bits cfg 28 2 = 2 && (lead < (nb + 1) * (div + 1) + 20 || tn < nsec (10 * (lead + mono)) * td) then
    some (0x10, Reg.POS_SERT n)
  else if bits cfg 28 2 = 2 && (nb < pb || 2 ^ pb < cpr) then some (0x12, Reg.POS_SER n)
  -- 2 ωo Ts > 0.5
  else if (2 ^ 149 * 2 ^ fixBits * sec 1 * td : Int) < 8 * piNum * fpScaled bw * tn then
    some (0x11, Reg.POS_OBSBW n)
  else none

/-- Commit check of POS. -/
def posCheck (val : Nat → Word) : Option (Nat × Nat) := (List.range 4).findSome? (posIfCheck val)

/-- The offsets of an interface's staged set. -/
def posRegs (n : Nat) : List Nat := (List.range 14).map (fun k => Reg.POS_CFG n + 4 * k)

/-- What follows the move of a POS set: every observer starts anew (R236; a commit of the block is one of each of its interfaces,
DEDUCED, log entry 64). An interface whose own words changed drops a frame in progress, and one just enabled has no position
yet. -/
def Part.posMoved (p : Part) (old : Nat → Word) : Part :=
  p.each (List.range 4) (fun p n =>
    let p := p.setPif n { p.pif n with w := 0, first := true }
    if (posRegs n).all (fun o => old o = p.reg o) then p
    else
      let x := p.pif n
      let fresh := !bitAt (old (Reg.POS_CFG n)) 31
      let p := p.setPif n { x with frame := none, q := if fresh then 0 else x.q,
                                   off := if fresh then 0 else x.off, apart := x.apart && !fresh }
      let p := p.when fresh (·.setFld (Reg.POS_STAT n) 24 8 0)
      let p := p.when (!p.posOn n) (·.setBit (Reg.POS_STAT n) 31 false)
      p.setReg (Reg.POS_COUNT n) (wordOfInt ((p.posCount n : Int) % p.cpr n)))

end Sys2Proof.Machine
end

