-- ==== Sys2Proof/Machine/Quantity.lean ====
section
/-! DEFINITION. The quantities the grid figure, its library and the self-scan compute with: whole numbers of units of
1/`pu`. FP32 words, the constants of the spec and comparisons between them are exact; a value that no whole number of
units gives passes through `Config.round` once. -/

namespace Sys2Proof.Machine

/-- An FP32 word as a quantity, exactly; a pattern that is no number gives an open value. -/
def ofFp (w : Word) : Int := if fpFinite w then fpScaled w * (375 * 2 ^ 11) else Config.round w.toNat 0

/-- A quantity as an FP32 word. -/
def toFp (x : Int) : Word := fpOfRat x (375 * 2 ^ 160)

/-- Product of two quantities. -/
def qMul (a b : Int) : Int := Config.round (a * b) pu.toNat

/-- Quotient of two quantities; a division by zero gives an open value. -/
def qDiv (a b : Int) : Int := Config.round ((if b < 0 then -a else a) * pu) b.natAbs

/-- Length of a vector. -/
def qLen (v : Int × Int) : Int := Config.round (isqrt ((v.1 * v.1 + v.2 * v.2).natAbs <<< 128)) (2 ^ 64)

/-- Square root of a quantity. -/
def qSqrt (x : Int) : Int := Config.round (isqrt ((x * pu).toNat <<< 128)) (2 ^ 64)

end Sys2Proof.Machine
end

