-- ==== Sys2Proof/Machine/HelV.lean ====
section
/-! DEFINITION. The Heloryx-V operations (chapter 5): what each operation of a figure does to the lane it issues on.
Results land when their latency has passed (R162); a guarded-off operation writes nothing (R161). -/

namespace Sys2Proof.Machine

/-! Landing of results, and the signature of R114. -/

/-- The address and datum of a signature pair as bytes, least significant first. -/
def sigPair (addr : Nat) (x : Word) : List Byte := bytesOf 4 addr ++ bytesOf 4 x.toNat

/-- What a landing does to a lane; stores and voted writes enter the signature in landing order (R114). -/
def Lane.land (l : Lane) : LandEffect → Lane
  | .v r x => { l with v := sSet (fun _ => 0) l.v r x }
  | .a r x => { l with a := sSet (fun _ => 0) l.a r x }
  | .p r b => if r = 0 then l else { l with p := if b then l.p ||| 2 ^ r else l.p - (l.p &&& 2 ^ r) }
  | .flag f => { l with f := l.f ||| 2 ^ f }
  | .store addr x =>
    { l with data := sSet (fun _ => 0) l.data addr x,
             crc := BitVec.ofNat 32 (crcBytes crc32cPoly l.crc.toNat (sigPair addr x)) }
  | .vote w =>
    { l with out := l.out ++ [w],
             crc := match w.val with
               | some x => BitVec.ofNat 32 (crcBytes crc32cPoly l.crc.toNat (sigPair w.addr x))
               | none => l.crc }

/-- Whether landing `x` comes before landing `y`: by cycle, and within a cycle the other slots before X (R114). -/
def landsBefore (x y : Landing) : Bool := x.due < y.due || (x.due = y.due && !x.isX && y.isX)

/-- Place a landing among those in flight, after those it does not come before. -/
def insertLanding : List Landing → Landing → List Landing
  | [], x => [x]
  | y :: ys, x => if landsBefore x y then x :: y :: ys else y :: insertLanding ys x

/-- Let everything due by cycle `c` land, in order. -/
def landUpTo (c : Nat) : List Landing → Lane → Lane
  | [], l => { l with inflight := [] }
  | x :: xs, l => if x.due ≤ c then landUpTo c xs (l.land x.eff) else { l with inflight := x :: xs }

/-- The lane as an operation issued in cycle `c` finds it. -/
def Lane.upTo (l : Lane) (c : Nat) : Lane :=
  let l := landUpTo c l.inflight l
  { l with cycle := max l.cycle c }

/-- Put results in flight. -/
def Lane.launch (l : Lane) (due : Nat) (isX : Bool) (es : List LandEffect) : Lane :=
  { l with inflight := es.foldl (fun q e => insertLanding q { due := due, isX := isX, eff := e }) l.inflight }

/-! Reading operands. -/

/-- Register vn. -/
def Lane.vreg (l : Lane) (n : Nat) : Word := sGet (fun _ => 0) l.v n

/-- Angle register an, numbered modulo 8. -/
def Lane.areg (l : Lane) (n : Nat) : Word := sGet (fun _ => 0) l.a (n % 8)

/-- Predicate pn; p0 reads true (R148). -/
def Lane.preg (l : Lane) (n : Nat) : Bool := n % 8 = 0 || l.p.testBit (n % 8)

/-- Data memory word. -/
def Lane.dword (l : Lane) (a : Nat) : Word := sGet (fun _ => 0) l.data a

/-- Coefficient word `w` of bank `b`. -/
def Lane.cword (l : Lane) (b w : Nat) : Word := sGet (fun _ => 0) l.coef (1024 * b + w)

/-- The address field of L operations (R155). -/
def vAddr (o : VOp) : Nat := o.s1.toNat * 1024 + o.s2.toNat * 16 + o.mod.toNat % 16

/-- What an operation needs of the group it runs in. -/
structure VCtx where
  ip : WordFile
  pfile : WordFile
  g : Word
  sites : Nat
  bank : Nat
  oldBank : Nat
  fadeK : Nat
  fadeN : Nat
  first : Bool

/-- The group a lane serves or loads for: CLE_LSTAT_n.GROUP. -/
def Part.laneGrp (p : Part) (n : Nat) : Grp := if p.bit (Reg.CLE_LSTAT n) 8 then .B else .A

/-- The context of a group. -/
def Part.vctx (p : Part) (g : Grp) : VCtx :=
  let c := p.cg g
  { ip := c.ip, pfile := c.pfile, g := c.probe.g,
    sites := match c.probe.site with
      | some k => 2 ^ k
      | none => p.fld (Reg.CLE_INJCFG g.ix) 24 8
    bank := p.fld (Reg.CLE_REGION g.ix) 4 4, oldBank := p.fld (Reg.CLE_REGION g.ix) 8 4,
    fadeK := c.fadeK, fadeN := c.fadeN, first := c.first }

/-- A coefficient load with the fade of R126: c_old + r·d in samples k = 1 to n − 1, c_new otherwise. -/
def VCtx.coef (x : VCtx) (l : Lane) (w : Nat) : Word :=
  let new := l.cword x.bank w
  if x.fadeK = 0 || x.fadeN ≤ x.fadeK then new
  else
    let old := l.cword x.oldBank w
    fpFma old (fpOfRat x.fadeK x.fadeN) (fpSub new old)

/-! The operations. Each is given the lane at issue and answers the latency, the slot and what lands. -/

/-- What an operation does: its latency and what lands when it has passed. -/
structure VResult where
  lat : Nat
  effs : List LandEffect

/-- A result for one v register. -/
def vOne (lat : Nat) (o : VOp) (x : Word) : VResult := { lat := lat, effs := [.v o.d.toNat x] }

/-- An M operation on two v registers. -/
def vBin (f : Word → Word → Word) (o : VOp) (l : Lane) : VResult := vOne 3 o (f (l.vreg o.s1.toNat) (l.vreg o.s2.toNat))

/-- An M operation on one v register. -/
def vUn (f : Word → Word) (o : VOp) (l : Lane) : VResult := vOne 3 o (f (l.vreg o.s1.toNat))

/-- An M operation that also reads its destination. -/
def vTern (f : Word → Word → Word → Word) (o : VOp) (l : Lane) : VResult :=
  vOne 3 o (f (l.vreg o.d.toNat) (l.vreg o.s1.toNat) (l.vreg o.s2.toNat))

/-- The relation that a condition code names (R150, R159); the reserved code holds never. -/
def fpRel (cond : Nat) (a b : Word) : Bool :=
  match cond with
  | 0 => fpEq a b
  | 1 => !fpEq a b
  | 2 => fpLt a b
  | 3 => fpLe a b
  | 4 => fpLt b a
  | 5 => fpLe b a
  | 6 => fpIsNan a || fpIsNan b
  | _ => false

/-- The unsigned relation that a condition code names (R159). -/
def uRel (cond : Nat) (a b : Word) : Bool :=
  match cond with
  | 0 => a = b
  | 1 => a ≠ b
  | 2 => a.toNat < b.toNat
  | 3 => a.toNat ≤ b.toNat
  | 4 => b.toNat < a.toNat
  | 5 => b.toNat ≤ a.toNat
  | _ => false

/-- How a comparison result enters its predicate: MOD[4:3] (R159). -/
def combine (comb : Nat) (old c : Bool) : Bool :=
  match comb with
  | 1 => old && c
  | 2 => old || c
  | _ => c

/-- A comparison into a predicate. -/
def vCompare (rel : Nat → Word → Word → Bool) (o : VOp) (l : Lane) : VResult :=
  let c := rel (o.mod.toNat % 8) (l.vreg o.s1.toNat) (l.vreg o.s2.toNat)
  { lat := 3, effs := [.p (o.d.toNat % 8) (combine (o.mod.toNat / 8) (l.preg o.d.toNat) c)] }

/-- SEL: vs1 or vs2 by predicate ps, v or angle registers (R154). -/
def vSelect (o : VOp) (l : Lane) : VResult :=
  let b := l.preg (o.mod.toNat % 8)
  if o.mod.toNat / 16 = 1 then
    { lat := 3, effs := [.a (o.d.toNat % 8) (if b then l.areg o.s1.toNat else l.areg o.s2.toNat)] }
  else vOne 3 o (if b then l.vreg o.s1.toNat else l.vreg o.s2.toNat)

/-- SAT: clamp to ±|vs2| or to [v(S2), v(S2+1)], setting the flag when it clips (R158). Where the lower bound lies above the upper
one the spec gives no result: the upper bound is tested first (DESIGN CHOICE, log entry 62). -/
def vSaturate (o : VOp) (l : Lane) : VResult :=
  let x := l.vreg o.s1.toNat
  let asym := o.mod.toNat / 16 = 1
  let hi := if asym then l.vreg (o.s2.toNat + 1) else fpAbs (l.vreg o.s2.toNat)
  let lo := if asym then l.vreg o.s2.toNat else fpNeg hi
  if fpIsNan x || fpIsNan lo || fpIsNan hi then vOne 3 o fpNan
  else
    let flag := LandEffect.flag (o.mod.toNat % 16)
    if fpLt hi x then { lat := 3, effs := [.v o.d.toNat (fpFlush hi), flag] }
    else if fpLt x lo then { lat := 3, effs := [.v o.d.toNat (fpFlush lo), flag] }
    else vOne 3 o (fpFlush x)

/-- INTG: vd + vs1 × vs2 only while the named previous-sample flag is clear (R127). -/
def vIntegrate (o : VOp) (l : Lane) : VResult :=
  if l.fprev.testBit (o.mod.toNat % 16) then { lat := 3, effs := [] }
  else vTern fpFma o l

/-- The two-sum of `a` and `b`: their rounded sum and its error. -/
def twoSum (a b : Word) : Word × Word :=
  let s := fpAdd a b
  let bb := fpSub s a
  (s, fpAdd (fpSub a (fpSub s bb)) (fpSub b bb))

/-- The fast two-sum of `a` and `b`, `a` the larger. -/
def fastTwoSum (a b : Word) : Word × Word :=
  let s := fpAdd a b
  (s, fpSub b (fpSub s a))

/-- A double-single accumulation of the product p (R158). -/
def accumulate (hi lo p : Word) : Word × Word :=
  let (h, e) := twoSum hi p
  fastTwoSum h (fpAdd e lo)

/-- ACCD: accumulate vs1 × vs2 in the pair vd, gated by MOD[4] (R158). -/
def vAccumulate (o : VOp) (l : Lane) : VResult :=
  if o.mod.toNat / 16 = 1 && l.fprev.testBit (o.mod.toNat % 16) then { lat := 3, effs := [] }
  else
    let p := fpMul (l.vreg o.s1.toNat) (l.vreg o.s2.toNat)
    let (h, e) := accumulate (l.vreg o.d.toNat) (l.vreg (o.d.toNat + 1)) p
    { lat := 3, effs := [.v o.d.toNat h, .v (o.d.toNat + 1) e] }

/-- FTST: a present flag, a previous-sample flag or FIRST to a predicate (R159). -/
def vFlagTest (x : VCtx) (o : VOp) (l : Lane) : VResult :=
  let b := match o.s1.toNat with
    | 0 => l.f.testBit (o.mod.toNat % 16)
    | 1 => l.fprev.testBit (o.mod.toNat % 16)
    | _ => x.first
  { lat := 3, effs := [.p (o.d.toNat % 8) b] }

/-- PLOG: predicate logic with optional inversion (R159). -/
def vPredLogic (o : VOp) (l : Lane) : VResult :=
  let a := l.preg o.s1.toNat
  let b := l.preg o.s2.toNat
  let c := match o.mod.toNat % 4 with
    | 0 => a && b
    | 1 => a || b
    | 2 => xor a b
    | _ => a && !b
  { lat := 3, effs := [.p (o.d.toNat % 8) (xor c (o.mod.toNat / 4 % 2 = 1))] }

/-- A load of a v or an angle register (R155, R160): MOD[4] names an angle register. -/
def vLoad (o : VOp) (x : Word) : VResult :=
  if o.mod.toNat / 16 = 1 then { lat := 2, effs := [.a (o.d.toNat % 8) x] } else vOne 2 o x

/-- The register an L operation stores or sends. -/
def vSource (o : VOp) (l : Lane) : Word :=
  if o.mod.toNat / 16 = 1 then l.areg o.d.toNat else l.vreg o.d.toNat

/-- LDC: with MOD[4] clear the region's bank with its fade, with MOD[4] set the bank that A[13:10] names (R155). -/
def vLoadCoef (x : VCtx) (o : VOp) (l : Lane) : VResult :=
  if o.mod.toNat / 16 = 1 then vOne 2 o (l.cword (vAddr o / 1024 % 16) (vAddr o % 1024))
  else vOne 2 o (x.coef l (vAddr o % 1024))

/-- CLARKE: α = (2a − b − c)/3, β = (b − c)/√3, γ = (a + b + c)/3, each rounded once (R153, R154); a NaN in any of the three
gives three NaNs (R149). -/
def fpClarke (a b c : Word) : Word × Word × Word :=
  let acc : FpAcc := {}
  let al := (acc.term 2 a fpOne |>.term (-1) b fpOne |>.term (-1) c fpOne).done 3
  let ga := (acc.term 1 a fpOne |>.term 1 b fpOne |>.term 1 c fpOne).done 3
  let d := acc.term 1 b fpOne |>.term (-1) c fpOne
  let be := if fpIsNan a then fpNan
    else if d.bad || d.inf.isSome || d.total = 0 then d.done 1
    else fpRoundSqrt (d.total < 0) (d.total.natAbs * d.total.natAbs) (3 * 2 ^ 596)
  (al, be, ga)

/-- PARK: d = α·cos θ + β·sin θ, q = −α·sin θ + β·cos θ, each rounded once (R153). -/
def fpPark (al be th : Word) : Word × Word :=
  let (c, s) := fpCosSin th
  let acc : FpAcc := {}
  ((acc.term 1 al c |>.term 1 be s).done 1, (acc.term (-1) al s |>.term 1 be c).done 1)

/-- IPARK: α = d·cos θ − q·sin θ, β = d·sin θ + q·cos θ, each rounded once (R153). -/
def fpIpark (d q th : Word) : Word × Word :=
  let (c, s) := fpCosSin th
  let acc : FpAcc := {}
  ((acc.term 1 d c |>.term (-1) q s).done 1, (acc.term 1 d s |>.term 1 q c).done 1)

/-- The four outputs of the sequence split (R156). Any NaN among its operands gives the canonical NaN in all four, as in every
transform (R149). -/
def fpSeqSplit (al be ald bed : Word) : Word × Word × Word × Word :=
  let acc : FpAcc := {}
  if fpIsNan al || fpIsNan be || fpIsNan ald || fpIsNan bed then (fpNan, fpNan, fpNan, fpNan)
  else
    ((acc.term 1 al fpOne |>.term (-1) bed fpOne).done 2, (acc.term 1 be fpOne |>.term 1 ald fpOne).done 2,
     (acc.term 1 al fpOne |>.term 1 bed fpOne).done 2, (acc.term 1 be fpOne |>.term (-1) ald fpOne).done 2)

/-- SEQ on instance j: split the pair against the pair stored L samples earlier, store it and advance the index
(R156). -/
def vSequence (o : VOp) (l : Lane) : VResult :=
  let base := 0xC000 + 2048 * (o.s2.toNat % 4)
  let len := min (max (l.dword base).toNat 2) 1023
  let w := (l.dword (base + 1)).toNat
  let ix := if len ≤ w then 0 else w
  let al := l.vreg o.s1.toNat
  let be := l.vreg (o.s1.toNat + 1)
  let slot := base + 2 + 2 * ix
  let (p1, q1, p2, q2) := fpSeqSplit al be (l.dword slot) (l.dword (slot + 1))
  let d := o.d.toNat
  { lat := 4, effs := [.v d p1, .v (d + 1) q1, .v (d + 2) p2, .v (d + 3) q2, .store slot al, .store (slot + 1) be,
      .store (base + 1) (BitVec.ofNat 32 ((ix + 1) % len))] }

/-- The new rotor frequency of the block from register b (R157), each step rounded once. -/
def fpSwing (dP wSet w wt cH kp dmp : Word) : Word :=
  let t1 := fpSub wSet w
  let t2 := fpSub w wt
  let s := fpFma dP kp t1
  let s := fpFnma s dmp t2
  fpFma w cH s

/-- SWING: write ω' to v[b+2] and, with MOD[0] clear, advance the angle by k_θ·ω' (R157). -/
def vSwing (o : VOp) (l : Lane) : VResult :=
  let b := o.s1.toNat
  let r := fun k => l.vreg (b + k)
  let w := fpSwing (r 0) (r 1) (r 2) (r 3) (r 4) (r 5) (r 6)
  let eff := LandEffect.v (b + 2) w
  if o.mod.toNat % 2 = 1 then { lat := 4, effs := [eff] }
  else { lat := 4, effs := [eff, .a (o.d.toNat % 8) (angleAdd (l.areg o.d.toNat) (fpMul (r 7) w))] }

/-- The circular limit of a pair to a length, and whether it clipped (R158). -/
def fpLimit (x y lim : Word) : Word × Word × Bool :=
  match fpOf x, fpOf y, fpOf lim with
  | .nan, _, _ => (fpNan, fpNan, false)
  | _, .nan, _ => (fpNan, fpNan, false)
  | _, _, .nan => (fpNan, fpNan, false)
  | _, _, .inf false => (fpFlush x, fpFlush y, false)
  | fx, fy, fl =>
    let len := match fl with
      | .fin false m => m
      | _ => 0
    let one : Bool → Word := fun n => fpRound n len (2 ^ 149)
    match fx, fy with
    | .inf nx, .inf ny =>
      let d : Bool → Word := fun n => fpRoundSqrt n (len * len) (2 ^ 299)
      (d nx, d ny, true)
    | .inf nx, .fin ny _ => (one nx, fpZero ny, true)
    | .fin nx _, .inf ny => (fpZero nx, one ny, true)
    | .fin nx mx, .fin ny my =>
      let m2 := mx * mx + my * my
      if m2 ≤ len * len then (fpFlush x, fpFlush y, false)
      else
        let part : Bool → Nat → Word := fun n m => fpRoundSqrt n (m * m * len * len) (m2 * 2 ^ 298)
        (part nx mx, part ny my, true)
    | _, _ => (fpNan, fpNan, false)

/-- LIMV: limit the pair and set the flag when it clips (R158). -/
def vLimit (o : VOp) (l : Lane) : VResult :=
  let (x, y, clip) := fpLimit (l.vreg o.s1.toNat) (l.vreg (o.s1.toNat + 1)) (l.vreg o.s2.toNat)
  let effs := [LandEffect.v o.d.toNat x, .v (o.d.toNat + 1) y]
  { lat := 6, effs := if clip then effs ++ [.flag (o.mod.toNat % 16)] else effs }

/-- One section of transposed direct form II: output and the two new states, each formula rounded once (R128). -/
def fpBiquad (b0 b1 b2 a1 a2 s1 s2 x : Word) : Word × Word × Word :=
  let y := fpFma s1 b0 x
  let acc : FpAcc := {}
  let s1' := (acc.term 1 b1 x |>.term (-1) a1 y |>.term 1 s2 fpOne).done 1
  let s2' := (acc.term 1 b2 x |>.term (-1) a2 y).done 1
  (y, s1', s2')

/-- BIQ on section k: coefficients are coefficient loads of the selected bank, states are data words (R128, R155). -/
def vBiquad (x : VCtx) (o : VOp) (l : Lane) : VResult :=
  let k := o.s2.toNat
  let c := fun i => x.coef l (5 * k + i)
  let st := 0xFF80 + 2 * k
  let (y, s1, s2) := fpBiquad (c 0) (c 1) (c 2) (c 3) (c 4) (l.dword st) (l.dword (st + 1)) (l.vreg o.s1.toNat)
  { lat := 4, effs := [.v o.d.toNat y, .store st s1, .store (st + 1) s2] }

/-- INJ: add g[n] where site s is enabled, else pass the source (R129). -/
def vInject (x : VCtx) (o : VOp) (l : Lane) : VResult :=
  let v := l.vreg o.s1.toNat
  vOne 3 o (if x.sites.testBit (o.s2.toNat % 8) then fpAdd v x.g else v)

/-! Issue. -/

/-- Lanes whose outputs count run the figure: in service, or a lane masked in this sample that runs on. -/
def Part.laneRuns (p : Part) (n : Nat) : Bool :=
  let st := p.fld (Reg.CLE_LSTAT n) 0 4
  (st = 1 || st = 2) && (p.cg (p.laneGrp n)).open_ && !(p.lane n).ended

/-- STATE of a lane: 0 OFF, 1 IN_SERVICE, 2 MASKED, 3 BIST, 4 SPARE, 5 LOADING, 6 RETIRED (Table 4.2). -/
def Part.laneState (p : Part) (n : Nat) : Nat := p.fld (Reg.CLE_LSTAT n) 0 4

/-- The lanes in service of a group, lowest first. -/
def Part.members (p : Part) (g : Grp) : List Nat := (List.range 8).filter (fun n => p.laneState n = 1 && p.laneGrp n = g)

/-- The words that differ between `old` and `new`, written into `dst`. -/
def followWords (old new dst : WordFile) : WordFile :=
  let z : Nat → Word := fun _ => 0
  let gone := old.filter (fun e => new.all (fun f => f.1 ≠ e.1))
  let d := (new.filter (fun e => !old.contains e)).foldl (fun f e => sSet z f e.1 e.2) dst
  gone.foldl (fun f e => sSet z f e.1 0) d

/-- A lane as an operation left it. The stores of the lane from which a replacement loads, the lowest-numbered good lane of its
group, reach the replacement too (R118). -/
def Part.ranLane (p : Part) (n : Nat) (l : Lane) : Part :=
  let g := p.laneGrp n
  let old := (p.lane n).data
  let q := p.setLane n l
  match (p.cg g).load with
  | some x =>
    if x.lane ≠ n && (p.members g).head? = some n then
      q.onLane x.lane (fun r => { r with data := followWords old l.data r.data })
    else q
  | none => q

/-- Issue an operation on a lane in the cycle of its bundle: everything due lands first; an operation whose guard is
false writes nothing (R161, R162). A lane that runs no sample is unchanged. -/
def Part.issue (p : Part) (o : VOp) (isX : Bool) (f : VCtx → Lane → VResult) : Part :=
  let n := o.lane.val
  if p.laneRuns n then
    let l := (p.lane n).upTo o.bundle.toNat
    if l.preg o.p.toNat then
      let r := f (p.vctx (p.laneGrp n)) l
      p.ranLane n (l.launch (o.bundle.toNat + r.lat) isX r.effs)
    else p.ranLane n l
  else p

/-- Issue a voted write: a guarded-off one enters the voter's sequence as a "no write" entry (R113, R161). -/
def Part.issueVote (p : Part) (o : VOp) (addr : Nat) : Part :=
  let n := o.lane.val
  if p.laneRuns n then
    let l := (p.lane n).upTo o.bundle.toNat
    let w : VoteWord := { addr := addr, val := if l.preg o.p.toNat then some (vSource o l) else none }
    p.ranLane n (l.launch (o.bundle.toNat + 1) false [.vote w])
  else p

/-- NOP. -/
def execVNop (o : VOp) (s : State) := s.run (·.issue o false (fun _ _ => { lat := 1, effs := [] }))

/-- FADD. -/
def execVFadd (o : VOp) (s : State) := s.run (·.issue o false (fun _ => vBin fpAdd o))

/-- FSUB. -/
def execVFsub (o : VOp) (s : State) := s.run (·.issue o false (fun _ => vBin fpSub o))

/-- FMUL. -/
def execVFmul (o : VOp) (s : State) := s.run (·.issue o false (fun _ => vBin fpMul o))

/-- FMA. -/
def execVFma (o : VOp) (s : State) := s.run (·.issue o false (fun _ => vTern fpFma o))

/-- FNMA. -/
def execVFnma (o : VOp) (s : State) := s.run (·.issue o false (fun _ => vTern fpFnma o))

/-- FMIN. -/
def execVFmin (o : VOp) (s : State) := s.run (·.issue o false (fun _ => vBin fpMin o))

/-- FMAX. -/
def execVFmax (o : VOp) (s : State) := s.run (·.issue o false (fun _ => vBin fpMax o))

/-- FABS. -/
def execVFabs (o : VOp) (s : State) := s.run (·.issue o false (fun _ => vUn fpAbs o))

/-- FNEG. -/
def execVFneg (o : VOp) (s : State) := s.run (·.issue o false (fun _ => vUn fpNeg o))

/-- FMOV. -/
def execVFmov (o : VOp) (s : State) := s.run (·.issue o false (fun _ => vUn id o))

/-- FCMP. -/
def execVFcmp (o : VOp) (s : State) := s.run (·.issue o false (fun _ => vCompare fpRel o))

/-- SEL. -/
def execVSel (o : VOp) (s : State) := s.run (·.issue o false (fun _ => vSelect o))

/-- SAT. -/
def execVSat (o : VOp) (s : State) := s.run (·.issue o false (fun _ => vSaturate o))

/-- INTG. -/
def execVIntg (o : VOp) (s : State) := s.run (·.issue o false (fun _ => vIntegrate o))

/-- ACCD. -/
def execVAccd (o : VOp) (s : State) := s.run (·.issue o false (fun _ => vAccumulate o))

/-- FTST. -/
def execVFtst (o : VOp) (s : State) := s.run (·.issue o false (fun x => vFlagTest x o))

/-- PLOG. -/
def execVPlog (o : VOp) (s : State) := s.run (·.issue o false (fun _ => vPredLogic o))

/-- IAND. -/
def execVIand (o : VOp) (s : State) := s.run (·.issue o false (fun _ => vBin (· &&& ·) o))

/-- IOR. -/
def execVIor (o : VOp) (s : State) := s.run (·.issue o false (fun _ => vBin (· ||| ·) o))

/-- IXOR. -/
def execVIxor (o : VOp) (s : State) := s.run (·.issue o false (fun _ => vBin (· ^^^ ·) o))

/-- ISHL. -/
def execVIshl (o : VOp) (s : State) := s.run (·.issue o false (fun _ => vUn (· <<< o.mod.toNat) o))

/-- ISHR. -/
def execVIshr (o : VOp) (s : State) := s.run (·.issue o false (fun _ => vUn (· >>> o.mod.toNat) o))

/-- ICMP. -/
def execVIcmp (o : VOp) (s : State) := s.run (·.issue o false (fun _ => vCompare uRel o))

/-- PINS. -/
def execVPins (o : VOp) (s : State) :=
  s.run (·.issue o false (fun _ l => vUn (fun x => putBit x o.mod.toNat (l.preg o.s2.toNat)) o l))

/-- CVTI. -/
def execVCvti (o : VOp) (s : State) := s.run (·.issue o false (fun _ => vUn fpToInt o))

/-- CVTF. -/
def execVCvtf (o : VOp) (s : State) := s.run (·.issue o false (fun _ => vUn (fun x => fpOfInt x.toInt) o))

/-- LD. -/
def execVLd (o : VOp) (s : State) := s.run (·.issue o false (fun _ l => vLoad o (l.dword (vAddr o))))

/-- ST: visible from the next cycle (R162). -/
def execVSt (o : VOp) (s : State) :=
  s.run (·.issue o false (fun _ l => { lat := 1, effs := [.store (vAddr o) (vSource o l)] }))

/-- LDC. -/
def execVLdc (o : VOp) (s : State) := s.run (·.issue o false (fun x => vLoadCoef x o))

/-- LDP. -/
def execVLdp (o : VOp) (s : State) := s.run (·.issue o false (fun x _ => vOne 2 o (sGet (fun _ => 0) x.pfile (vAddr o))))

/-- IN. -/
def execVIn (o : VOp) (s : State) := s.run (·.issue o false (fun x _ => vLoad o (sGet (fun _ => 0) x.ip (vAddr o % 64))))

/-- OUT: address 0x1_0000 + k in the signature (R114). -/
def execVOut (o : VOp) (s : State) := s.run (·.issueVote o (0x10000 + vAddr o % 64))

/-- PWMW: address 0x1_0100 + (2 × pair + sel) in the signature (R114). -/
def execVPwmw (o : VOp) (s : State) := s.run (·.issueVote { o with mod := o.mod &&& 0xF } (0x10100 + vAddr o % 64))

/-- SINCOS: vd ← cos, vd+1 ← sin. -/
def execVSincos (o : VOp) (s : State) :=
  s.run (·.issue o true (fun _ l =>
    let r := fpCosSin (l.areg o.s1.toNat)
    { lat := 6, effs := [.v o.d.toNat r.1, .v (o.d.toNat + 1) r.2] }))

/-- SQRT. -/
def execVSqrt (o : VOp) (s : State) := s.run (·.issue o true (fun _ l => vOne 8 o (fpSqrt (l.vreg o.s1.toNat))))

/-- RECIP. -/
def execVRecip (o : VOp) (s : State) := s.run (·.issue o true (fun _ l => vOne 6 o (fpRecip (l.vreg o.s1.toNat))))

/-- ATAN2: vs1 is y and vs2 is x. -/
def execVAtan2 (o : VOp) (s : State) :=
  s.run (·.issue o true (fun _ l =>
    { lat := 10, effs := [.a (o.d.toNat % 8) (fpAtan2 (l.vreg o.s1.toNat) (l.vreg o.s2.toNat))] }))

/-- CLARKE. -/
def execVClarke (o : VOp) (s : State) :=
  s.run (·.issue o true (fun _ l =>
    let n := o.s1.toNat
    let r := fpClarke (l.vreg n) (l.vreg (n + 1)) (l.vreg (n + 2))
    let d := o.d.toNat
    { lat := 4, effs := [.v d r.1, .v (d + 1) r.2.1, .v (d + 2) r.2.2] }))

/-- PARK. -/
def execVPark (o : VOp) (s : State) :=
  s.run (·.issue o true (fun _ l =>
    let r := fpPark (l.vreg o.s1.toNat) (l.vreg (o.s1.toNat + 1)) (l.areg o.s2.toNat)
    { lat := 7, effs := [.v o.d.toNat r.1, .v (o.d.toNat + 1) r.2] }))

/-- IPARK. -/
def execVIpark (o : VOp) (s : State) :=
  s.run (·.issue o true (fun _ l =>
    let r := fpIpark (l.vreg o.s1.toNat) (l.vreg (o.s1.toNat + 1)) (l.areg o.s2.toNat)
    { lat := 7, effs := [.v o.d.toNat r.1, .v (o.d.toNat + 1) r.2] }))

/-- SEQ. -/
def execVSeq (o : VOp) (s : State) := s.run (·.issue o true (fun _ => vSequence o))

/-- SWING. -/
def execVSwing (o : VOp) (s : State) := s.run (·.issue o true (fun _ => vSwing o))

/-- LIMV. -/
def execVLimv (o : VOp) (s : State) := s.run (·.issue o true (fun _ => vLimit o))

/-- BIQ. -/
def execVBiq (o : VOp) (s : State) := s.run (·.issue o true (fun x => vBiquad x o))

/-- INJ. -/
def execVInj (o : VOp) (s : State) := s.run (·.issue o true (fun x => vInject x o))

/-- AADD. -/
def execVAadd (o : VOp) (s : State) :=
  s.run (·.issue o true (fun _ l =>
    { lat := 3, effs := [.a (o.d.toNat % 8) (angleAdd (l.areg o.s1.toNat) (l.vreg o.s2.toNat))] }))

/-- ADIF. -/
def execVAdif (o : VOp) (s : State) :=
  s.run (·.issue o true (fun _ l => vOne 3 o (angleDiff (l.areg o.s1.toNat) (l.areg o.s2.toNat))))

/-- The bytes the signature runs over at SAMPLE_END: v0 to v63, a0 to a7, p1 to p7 and the present flags (R114). -/
def Lane.sigTail (l : Lane) : List Byte :=
  (List.range 64).flatMap (fun n => bytesOf 4 (l.vreg n).toNat)
    ++ (List.range 8).flatMap (fun n => bytesOf 4 (l.areg n).toNat)
    ++ (List.range 7).map (fun n => if l.preg (n + 1) then 1 else 0)
    ++ bytesOf 2 l.f

/-- SAMPLE_END: everything lands, and the signature is complete (R110, R114, R164). -/
def Lane.sampleEnd (l : Lane) (b : Nat) : Lane :=
  let l := l.upTo (b + 16)
  { l with ended := true, cycle := b + 1,
           crc := BitVec.ofNat 32 (crcBytes crc32cPoly l.crc.toNat l.sigTail) ^^^ 0xFFFFFFFF }

/-- SAMPLE_END of a lane; the signature is shown in CLE_LSIG_n. -/
def Part.sampleEnd (p : Part) (o : VOp) : Part :=
  let n := o.lane.val
  if p.laneRuns n then
    let l := (p.lane n).sampleEnd o.bundle.toNat
    (p.ranLane n l).setReg (Reg.CLE_LSIG n) l.crc
  else p

/-- SAMPLE_END. -/
def execVSampleEnd (o : VOp) (s : State) := s.run (·.sampleEnd o)

end Sys2Proof.Machine
end

