-- ==== Sys2Proof/Machine/Cle.lean ====
section
/-! DEFINITION. The control-law engine around its lanes (chapter 4): the voter, masking, lane states, loading and
joining, input ports and the parameter file, gain scheduling, injection, capture and correlation, group start and stop,
and the writes and the switch of a figure exchange. -/

namespace Sys2Proof.Machine

/-! Groups and lanes (R104, R105). -/

/-- MODE of a group: 0 STOP, 1 TMR, 2 DUPLEX, 3 HOLD, 4 HALT (Table 4.12). -/
def Part.gmode (p : Part) (g : Grp) : Nat := p.fld (Reg.CLE_GSTAT g.ix) 24 4

/-- Set MODE of a group. -/
def Part.setGmode (p : Part) (g : Grp) (m : Nat) : Part := p.setFld (Reg.CLE_GSTAT g.ix) 24 4 m

/-- Set STATE of a lane. -/
def Part.setLaneState (p : Part) (n st : Nat) : Part := p.setFld (Reg.CLE_LSTAT n) 0 4 st

/-- The lanes that serve a group or load for it. -/
def Part.serving (p : Part) (g : Grp) : List Nat :=
  (List.range 8).filter (fun n => (p.laneState n = 1 || p.laneState n = 2 || p.laneState n = 5) && p.laneGrp n = g)

/-- Show MEMBERS, LOADING, XPEND, FADE and FIRST in CLE_GSTAT. -/
def Part.showGroup (p : Part) (g : Grp) : Part :=
  let c := p.cg g
  let r := Reg.CLE_GSTAT g.ix
  let p := p.setFld r 16 8 ((p.members g).map (fun n => 2 ^ n)).sum
  let p := p.setFld r 8 8 (match c.load with
    | some x => 2 ^ x.lane
    | none => 0)
  ((p.setBit r 6 c.exch.isSome).setBit r 5 (c.fadeK ≠ 0 && 1 < c.fadeN)).setBit r 4 c.first

/-- The mode of a group with a majority: TMR with three lanes in service, DUPLEX otherwise. -/
def Part.showMode (p : Part) (g : Grp) : Part := p.setGmode g (if 3 ≤ (p.members g).length then 1 else 2)

/-- Retire a lane for the life of the part (R116); RETIRE is set where it served its group. -/
def Part.retireLane (p : Part) (n cause : Nat) : Part :=
  let served := p.laneState n = 1 || p.laneState n = 2
  let g := p.laneGrp n
  let p := p.raiseIf served (Reg.CLE_GEVT g.ix) 7
  (p.setLaneState n 6).noteRetire 1 n cause

/-! Loading, joining and leaving (R117 to R120). -/

/-- Abandon a loading: the replacement returns to SPARE, and a RESERVE_SWAP that asked for it fails (R122). -/
def Part.abandonLoad (p : Part) (g : Grp) : Part :=
  match (p.cg g).load with
  | none => p
  | some x =>
    let p := p.when (p.laneState x.lane = 5) (·.setLaneState x.lane 4)
    (((p.onCg g (fun c => { c with load := none })).opErr? 4 x.slot)).showGroup g

/-- The first free reserve lane for a group: L6 or L7 that is SPARE and allowed, else a native SPARE (R117). -/
def Part.freeLane (p : Part) (g : Grp) : Option Nat :=
  let pol := Reg.CLE_RSVPOL g.ix
  ([6, 7].filter (fun n => p.bit pol (n - 6)) ++ [3 * g.ix, 3 * g.ix + 1, 3 * g.ix + 2]).find? (fun n => p.laneState n = 4)

/-- Start to load a lane for a group in place of `unit` (R118). -/
def Part.startLoad (p : Part) (g : Grp) (x : Loading) : Part :=
  ((p.setLaneState x.lane 5).setBit (Reg.CLE_LSTAT x.lane) 8 (g = .B)).onCg g (fun c => { c with load := some x })
    |>.showGroup g

/-- Choose the replacement of a masked lane at a decision (R117). A group loads one lane at a time: while a loading runs the
choice waits for a decision after it. -/
def Part.chooseSpare (p : Part) (g : Grp) : Part :=
  let c := p.cg g
  if c.load.isSome then p
  else
    let p := p.onCg g (fun c => { c with want := none })
    match c.want, p.freeLane g with
    | some (n, cause), some r =>
      if p.bit (Reg.CLE_RSVPOL g.ix) 8 && (p.members g).length < 3 then
        p.startLoad g { lane := r, unit := n, cause := cause }
      else p
    | _, _ => p

/-- Memories of one lane copied into another (R118). -/
def Lane.copyMem (l src : Lane) : Lane := { l with data := src.data, coef := src.coef, code := src.code }

/-- Registers and flags of one lane copied into another (Table 4.4, order 3). -/
def Lane.copyRegs (l src : Lane) : Lane := { l with v := src.v, a := src.a, p := src.p, f := src.f, fprev := src.fprev }

/-- RESERVE_COPY_COMPLETE: the memories of the lowest-numbered good lane stand in the replacement. -/
def Part.copyComplete (p : Part) (g : Grp) : Part :=
  match (p.cg g).load, (p.members g).head? with
  | some x, some src =>
    (p.onLane x.lane (·.copyMem (p.lane src))).onCg g (fun c => { c with load := some { x with copied := true } })
  | _, _ => p

/-- RESERVE_COPY_COMPLETE. -/
def execReserveCopyComplete (g : Grp) (s : State) := s.run (·.copyComplete g)

/-- The register-file copy at the first SAMPLE_END after the copy completes; the stores made meanwhile have followed
(R118). The join is set for the next tick. -/
def Part.copyRegisters (p : Part) (g : Grp) : Part :=
  match (p.cg g).load, (p.members g).head? with
  | some x, some src =>
    if x.copied then
      (p.onLane x.lane (fun l => (l.copyMem (p.lane src)).copyRegs (p.lane src))).onCg g
        (fun c => { c with load := some { x with joinNext := true } })
    else p
  | _, _ => p

/-- The loaded lane joins at a tick, and a named lane leaves (R118, R120); a named lane that was masked meanwhile has left
already, into its BIST or retired (R115, R116). -/
def Part.joinLane (p : Part) (g : Grp) : Part :=
  match (p.cg g).load with
  | none => p
  | some x =>
    let p := p.setLaneState x.lane 1
    let p := match x.leaving with
      | some true => p.when (p.laneState x.unit ≠ 6) (·.retireLane x.unit x.cause)
      | some false => p.when (p.laneState x.unit = 1) (·.setLaneState x.unit (if x.bist then 3 else 4))
      | none => p
    let p := p.onCg g (fun c => { c with load := none })
    let p := (p.showMode g).raise (Reg.CLE_GEVT g.ix) 8
    ((p.when (x.cause ≠ 0) (·.noteSwap 1 x.unit x.lane x.cause)).opDone? x.slot).showGroup g

/-! Masking (R113 to R116). -/

/-- A lane is outvoted: it is masked, MISMATCH is set, and its mismatches are counted. -/
def Part.outvote (p : Part) (g : Grp) (n : Nat) : Part :=
  let p := (p.setLaneState n 2).raise (Reg.CLE_GEVT g.ix) 9
  let p := (p.countSat (Reg.CLE_LSTAT n) 16 8).onLane n (fun l => { l with outvoted := true })
  (p.onCg g (fun c => { c with want := some (n, 1) })).showGroup g

/-- A hard fault of a lane (R103, R111, R116): within a sample of its group the lane is masked, to be retired at the
decision; otherwise it is retired at once. -/
def Part.laneFault (p : Part) (n code : Nat) : Part :=
  let st := p.laneState n
  if st = 6 then p
  else
    let g := p.laneGrp n
    let p := p.setFld (Reg.CLE_LSTAT n) 12 4 code
    if st = 1 || st = 2 then
      let p := p.onCg g (fun c => { c with want := some (n, 1) })
      if (p.cg g).open_ then ((p.setLaneState n 2).onLane n (fun l => { l with outvoted := false })).showGroup g
      else
        let p := p.retireLane n 1
        (p.when (p.gmode g = 1) (·.showMode g)).showGroup g
    else if st = 5 then ((p.abandonLoad g).retireLane n 1).showGroup g
    else p.retireLane n 1

/-- LANE_HARD_FAULT: an uncorrectable ECC error or a register parity error. -/
def execLaneHardFault (lane : Fin 8) (parity : Bool) (t : Instant) (s : State) :=
  s.run (fun p => (p.at t).laneFault lane.val (if parity then 2 else 1))

/-- The instant 0.75·Ts after the tick of the present sample (R111). -/
def Part.lateAt (p : Part) (g : Grp) : Instant :=
  let (n, d) := p.tsUnits g
  (p.cg g).t0 + 3 * n / (4 * d)

/-- A lane of a running sample that has not reached SAMPLE_END by t0 + 0.75·Ts is late: a hard fault (R111). -/
def Part.laneLate (p : Part) (n : Nat) (t : Instant) : Part :=
  let g := p.laneGrp n
  if p.laneState n = 1 && (p.cg g).open_ && !(p.lane n).ended && p.lateAt g ≤ t then
    (p.laneFault n 3).raise (Reg.CLE_GEVT g.ix) 6
  else p

/-- LANE_LATE. -/
def execLaneLate (lane : Fin 8) (t : Instant) (s : State) := s.run (fun p => (p.at t).laneLate lane.val t)

/-- LANE_ECC_CORRECTED: counted, and corrected in line (R103). -/
def execLaneEccCorrected (lane : Fin 8) (s : State) :=
  s.run (fun p =>
    let p := p.countSat (Reg.CLE_LECC lane.val) 0 32
    { p with health := { p.health with laneEcc := (lane.val, p.now) :: p.health.laneEcc } })

/-- A lane leaves its BIST: SPARE, or retired with BIST failed (R115, R116). -/
def Part.bistEnd (p : Part) (n : Nat) (pass : Bool) : Part :=
  if p.laneState n ≠ 3 then p
  else if pass then p.setLaneState n 4
  else
    let p := ((p.setFld (Reg.CLE_LSTAT n) 12 4 4).raise (Reg.CLE_GEVT (p.laneGrp n).ix) 7).retireLane n 1
    -- step 1 of the standby's self-test (R350)
    if p.pair_.heldLane = some n then
      ({ p with health := { p.health with stFail := (64 + n) :: p.health.stFail } }.raise Reg.PAIR_EVT 0).setFld
        Reg.PAIR_STSTAT 24 4 1
    else p

/-- LANE_BIST_COMPLETE. -/
def execLaneBistComplete (lane : Fin 8) (pass : Bool) (s : State) := s.run (·.bistEnd lane.val pass)

/-- MISMATCH_WINDOW_CLOSE: 3600 s after the mismatch that opened it (R116). -/
def execMismatchWindowClose (lane : Fin 8) (t : Instant) (s : State) :=
  s.run (fun p =>
    let p := p.at t
    p.onLane lane.val (fun l => match l.win with
      | some w => if w + sec 3600 ≤ t then { l with win := none } else l
      | none => l))

/-- A masked lane at the decision: retired by a hard fault or a second mismatch within its window, else its window opens
and it enters BIST (R115, R116). -/
def Part.settleMasked (p : Part) (n : Nat) : Part :=
  let l := p.lane n
  if !l.outvoted then p.retireLane n 1
  else
    match l.win with
    | some w =>
      if p.now ≤ w + sec 3600 then p.retireLane n 1
      else ((p.setLane n { l with win := some p.now }).setTime (Reg.CLE_LWIN_LO n) p.ringNow).setLaneState n 3
    | none => ((p.setLane n { l with win := some p.now }).setTime (Reg.CLE_LWIN_LO n) p.ringNow).setLaneState n 3

/-! The voter (R113, R121). -/

/-- The word on which two lanes agree. -/
def agreed : List VoteWord → Option VoteWord
  | [] => none
  | w :: ws => if ws.contains w then some w else agreed ws

/-- A decided word takes effect: an export write into its port, converted (R108, R150), or a duty into its shadow
(R109); a "no write" entry changes nothing. -/
def Part.applyWord (p : Part) (g : Grp) (w : VoteWord) : Part :=
  match w.val with
  | none => p
  | some x =>
    if w.addr < 0x10100 then
      let k := w.addr - 0x10000
      let fp := p.epType g k = 0
      let nan := fp && fpIsNan x
      let p := p.when nan (fun p => if k < 32 then p.raise (Reg.CLE_NANF_LO g.ix) k else p.raise (Reg.CLE_NANF_HI g.ix) (k - 32))
      let x := if nan then p.epSafe g k
        else if fp && !fpFinite x then fpMaxFinite (bitAt x 31) else x
      p.onCg g (fun c => { c with ep := sSet (fun _ => 0) c.ep k x })
    else if (p.cg g).winClosed then p
    else
      let q := (w.addr - 0x10100) / 2
      let sel := w.addr % 2 = 1
      let p := p.raiseIf (fpIsNan x) (Reg.CLE_GEVT g.ix) 5
      p.votedDuty g q sel (if fpIsNan x then p.safeDuty g q sel else x)

/-- Whether a lane's words differ from decided ones. -/
def Lane.differs (l : Lane) (decided : List (Option VoteWord)) : Bool :=
  (l.out.zip decided).any (fun e => match e.2 with
    | some d => e.1 ≠ d
    | none => false)

/-- Mask every lane in service whose words differ from the decided ones. -/
def Part.maskDiffering (p : Part) (g : Grp) : Part :=
  p.each (p.members g) (fun p n => if (p.lane n).differs (p.cg g).voter.decided then p.outvote g n else p)

/-- Vote the next word of the sequence. A word passes as soon as two lanes agree; with every lane's word there, or at
the comparison, and no two in agreement, it has no majority and changes nothing. -/
def Part.voteWord (p : Part) (g : Grp) (final : Bool) : Part :=
  if !(p.cg g).open_ then p
  else
    let p := p.maskDiffering g
    let c := p.cg g
    let ms := p.members g
    let ws := ms.filterMap (fun n => (p.lane n).out[c.voter.decided.length]?)
    let decide (d : Option VoteWord) (bad : Bool) : Part :=
      p.onCg g (fun c => { c with voter := { decided := c.voter.decided ++ [d], noMaj := c.voter.noMaj || bad } })
    match agreed ws with
    | some w => ((decide (some w) false).applyWord g w).maskDiffering g
    | none =>
      if final && !ws.isEmpty || (2 ≤ ms.length && ws.length = ms.length) then decide none true else p

/-- VOTER_WORD. -/
def execVoterWord (g : Grp) (s : State) := s.run (·.voteWord g false)

/-- Vote every word that is left, at the comparison (R111). -/
def Part.voteRest (p : Part) (g : Grp) : Part :=
  let most := ((p.members g).map (fun n => (p.lane n).out.length)).foldl max 0
  p.each (List.range (most - (p.cg g).voter.decided.length)) (fun p _ => p.voteWord g true)

/-- PWM_WINDOW_CLOSE: from t0 + Ts − 200 ns a voted duty finds its shadow closed (R18). -/
def execPwmWindowClose (g : Grp) (s : State) :=
  s.run (fun p => p.when (p.groupRuns g) (·.onCg g (fun c => { c with winClosed := true })))

/-! Input ports and the parameter file (R106, R107). -/

/-- What an input port with source `src` takes (Table 4.3). -/
def Part.portValue (p : Part) (g : Grp) (src : Nat) : Word :=
  if 0x100 ≤ src && src ≤ 0x11B then
    let m := p.sdUse (src - 0x100)
    if p.bit (Reg.SENSE_STAT m) 26 then p.reg (Reg.SENSE_FAST m) else p.reg (Reg.SENSE_VAL m)
  else if 0x140 ≤ src && src ≤ 0x15B then p.reg (Reg.SENSE_FAST (p.sdUse (src - 0x140)))
  else if 0x180 ≤ src && src ≤ 0x18F then p.reg (Reg.AUXADC_RES (src - 0x180))
  else if 0x1C0 ≤ src && src ≤ 0x1C3 then p.reg (Reg.POS_ANGLE (src - 0x1C0))
  else if 0x1C4 ≤ src && src ≤ 0x1C7 then p.reg (Reg.POS_SPEED (src - 0x1C4))
  else if 0x1C8 ≤ src && src ≤ 0x1CB then (p.pif (src - 0x1C8)).status
  else if 0x200 ≤ src && src ≤ 0x20F then p.reg (Reg.RAMP_OUT (src - 0x200))
  else if 0x280 ≤ src && src ≤ 0x2BF then p.reg (Reg.CLE_EP (1 - g.ix) (src - 0x280))
  else 0

/-- The input ports are filled, and the parameter file is taken, at a tick. -/
def Part.fillPorts (p : Part) (g : Grp) : Part :=
  let z : Nat → Word := fun _ => 0
  let ip := (List.range 64).foldl (fun f k => sSet z f k (p.portValue g (p.fld (Reg.CLE_IPSRC g.ix k) 0 12))) []
  let pw := (List.range 256).foldl (fun f n => sSet z f n (p.reg (Reg.CLE_PW g.ix n))) []
  let pf := sSet z pw 256 (p.reg (Reg.CLE_SEQCMD g.ix))
  let pf := (List.range 16).foldl (fun f k => sSet z f (257 + k) (p.reg (Reg.CLE_SPW g.ix k))) pf
  p.onCg g (fun c => { c with ip := ip, pfile := pf })

/-! Gain scheduling (R124 to R126). -/

/-- `x > T + H` in the type of a port: FP32, or unsigned for integers and angles. -/
def aboveThr (isInt : Bool) (x t h : Word) : Bool :=
  if isInt then t.toNat + h.toNat < x.toNat else fpLt (fpAdd t h) x

/-- `x < T − H` in the type of a port; a NaN lies below every threshold. -/
def belowThr (isInt : Bool) (x t h : Word) : Bool :=
  if isInt then x.toNat + h.toNat < t.toNat else fpIsNan x || fpLt x (fpSub t h)

/-- Raise a band past thresholds, `k` at most. -/
def bandUp (ab : Nat → Bool) (nthr : Nat) : Nat → Nat → Nat
  | 0, b => b
  | k + 1, b => if b < nthr && ab b then bandUp ab nthr k (b + 1) else b

/-- Lower a band past thresholds. -/
def bandDown (be : Nat → Bool) : Nat → Nat
  | 0 => 0
  | b + 1 => if be b then bandDown be b else b + 1

/-- The band of scheduling variable `v` (R124). -/
def Part.bandOf (p : Part) (g : Grp) (v : Nat) : Nat :=
  let sel := Reg.CLE_SVSEL g.ix
  let nthr := p.fld sel (8 * v + 6) 2
  let port := p.fld sel (8 * v) 6
  let isInt := p.epType g port = 1 || p.epType g port = 2
  let x := p.reg (Reg.CLE_EP g.ix port)
  let fresh := (p.cg g).bandsFresh
  let hys : Nat → Word := fun j => if fresh then 0 else p.reg (Reg.CLE_HYS g.ix (3 * v + j))
  let thr : Nat → Word := fun j => p.reg (Reg.CLE_THR g.ix (3 * v + j))
  let b := if fresh then 0 else min nthr ((p.cg g).bands.getD v 0)
  bandDown (fun j => belowThr isInt x (thr j) (hys j)) (bandUp (fun j => aboveThr isInt x (thr j) (hys j)) nthr 3 b)

/-- The first region entry whose masks hold the present bands: entry, bank and FADE (R125). -/
def Part.pickRegion (p : Part) (g : Grp) : Option (Nat × Nat × Nat) :=
  let bands := (p.cg g).bands
  ((List.range 16).find? (fun r =>
    let e := p.reg (Reg.CLE_RGN g.ix r)
    bitAt e 31 && (List.range 4).all (fun v =>
      p.fld (Reg.CLE_SVSEL g.ix) (8 * v + 6) 2 = 0 || bitAt e (4 * v + bands.getD v 0)))).map (fun r =>
    (r, p.fld (Reg.CLE_RGN g.ix r) 16 4, p.fld (Reg.CLE_RGN g.ix r) 20 8))

/-- Show the samples left of a fade. -/
def Part.showFade (p : Part) (g : Grp) : Part :=
  let c := p.cg g
  (p.setFld (Reg.CLE_REGION g.ix) 16 9 (if c.fadeK = 0 then 0 else c.fadeN - c.fadeK)).showGroup g

/-- A region change takes effect (R126). -/
def Part.changeRegion (p : Part) (g : Grp) (r bank fade : Nat) (deferred : Bool) : Part :=
  let reg := Reg.CLE_REGION g.ix
  let r0 := p.fld reg 0 4
  let b0 := p.fld reg 4 4
  let p := ((p.setFld reg 0 4 r).setFld reg 4 4 bank).setFld reg 8 4 b0
  let p := (p.raise (Reg.CLE_GEVT g.ix) 4).raiseIf deferred (Reg.CLE_GEVT g.ix) 2
  (p.onCg g (fun c => { c with fadeN := fade + 1, fadeK := 1 })).logEvent .regionChange [g.ix, r0, r, b0, bank]

/-- The fade goes on, and with none running the region is selected (R125, R126). -/
def Part.regionTick (p : Part) (g : Grp) : Part :=
  let c := p.cg g
  let past := c.fadeK ≠ 0 && c.fadeN ≤ c.fadeK
  let ended := c.fadeJustEnded || (past && 1 < c.fadeN)
  let k := if c.fadeK = 0 || past then 0 else c.fadeK + 1
  let bands := (List.range 4).map (p.bandOf g)
  let p := p.onCg g (fun c => { c with fadeK := k, fadeJustEnded := false, bands := bands, bandsFresh := false })
  let p :=
    if k ≠ 0 then p
    else match p.pickRegion g with
      | none => p.raise (Reg.CLE_GEVT g.ix) 3
      | some (r, bank, fade) =>
        if r = p.fld (Reg.CLE_REGION g.ix) 0 4 && bank = p.fld (Reg.CLE_REGION g.ix) 4 4 then p
        else p.changeRegion g r bank fade ended
  p.showFade g

/-- FADE_END: at the end of sample n the fade ends; region changes are evaluated again at the next tick (R126). -/
def execFadeEnd (g : Grp) (s : State) :=
  s.run (fun p =>
    let c := p.cg g
    if c.fadeK = 0 || c.fadeK < c.fadeN || c.open_ then p
    else (p.onCg g (fun c => { c with fadeK := 0, fadeJustEnded := 1 < c.fadeN })).showFade g)

/-! Injection, capture and correlation (R129 to R132). -/

/-- The window length N = 2^E of a group. -/
def Part.corrN (p : Part) (g : Grp) : Nat := 2 ^ p.fld (Reg.CLE_CORRCFG g.ix) 0 5

/-- The number of tones K. -/
def Part.tones (p : Part) (g : Grp) : Nat := p.fld (Reg.CLE_INJCFG g.ix) 8 5 + 1

/-- The sum of AMP_k times the tone functions at index `n`, in units of 2^-256 (R130). -/
def Part.genSum (p : Part) (g : Grp) (n : Nat) : Int :=
  let i := g.ix
  let cfg := Reg.CLE_INJCFG i
  let nn := p.corrN g
  let amp : Nat → Int := fun k => p.fld (Reg.CLE_TONE i k) 16 16
  let bin : Nat → Nat := fun k => p.fld (Reg.CLE_TONE i k) 0 16
  match p.fld cfg 0 2 with
  | 0 => 0
  | 1 => amp 0 * (cosSinTurn (bin 0 * n) nn).2
  | 2 =>
    let kk := p.tones g
    ((List.range kk).map (fun k =>
      amp k * (cosSinTurn ((bin k * n * (2 * kk) : Int) - (k * (k - 1) * nn : Nat)) (2 * kk * nn)).2)).sum
  | _ => (if Config.prbs (p.fld cfg 20 4) (n / (p.fld cfg 16 4 + 1)) then 1 else -1) * amp 0 * 2 ^ fixBits

/-- g[n] and whether the clamp acts (R130); the spec gives the formula and not its rounding. -/
def Part.genValue (p : Part) (g : Grp) (n : Nat) : Word × Bool :=
  let amax := p.reg (Reg.CLE_INJAMAX g.ix)
  let s := p.genSum g n
  if 2 ^ (fixBits + 16) < s.natAbs then (if s < 0 then fpNeg amax else amax, true)
  else if s = 0 then (0, false)
  else (toFp (Config.round (ofFp amax * s) (2 ^ (16 + fixBits))), false)

/-- The tones of pass `q` of a scan: three passes of up to 32 for each of two sites (R134). -/
def ScanRun.tones (r : ScanRun) (q : Nat) : List Nat := (r.bins.drop (32 * (q % 3))).take 32

/-- What the self-scan injects at its sample `k`: the multisine of its pass, SCAN_AMAX/8 for each tone with Schroeder phases,
under the clamp of R130; the value and whether the clamp acts. -/
def ScanRun.value (r : ScanRun) (amax : Word) : Word × Bool :=
  let ms := r.tones (r.k / (5 * r.n))
  let kk := ms.length
  let n := r.k % (5 * r.n)
  let s := (ms.zipIdx.map (fun e =>
    (cosSinTurn ((e.1 * n * (2 * kk) : Int) - (e.2 * (e.2 - 1) * r.n : Nat)) (2 * kk * r.n)).2)).sum
  let v := fpScaled (r.ws.getD 2 0) * s
  if fpScaled amax * 2 ^ (3 + fixBits) < v.natAbs then (if v < 0 then fpNeg amax else amax, true)
  else if v = 0 then (0, false)
  else (toFp (Config.round (ofFp (r.ws.getD 2 0) * s) (2 ^ (3 + fixBits))), false)

/-- The self-scan at a tick: it injects in ONLINE and ISLAND only, and another mode sends it back to the start of its pass
(R133); beyond its last pass it waits for its results. -/
def Part.scanTick (p : Part) (g : Grp) (r : ScanRun) : Part :=
  let c := p.cg g
  let put : Part → ScanRun → Part := fun p r => p.onCg g (fun c => { c with scan := { c.scan with run := some r } })
  let off : Part → Part := fun p => p.onCg g (fun c => { c with probe := { c.probe with g := 0, site := some 8 } })
  if c.grid.mode ≠ 5 && c.grid.mode ≠ 7 then put (off p) { r with k := min (r.k / (5 * r.n)) 6 * (5 * r.n) }
  else if 30 * r.n ≤ r.k then off p
  else
    let (v, clip) := r.value (p.reg (Reg.CLE_INJAMAX g.ix))
    let p := p.onCg g (fun c => { c with probe := { c.probe with g := v, site := some (r.k / (15 * r.n)) } })
    (put p { r with k := r.k + 1 }).raiseIf clip (Reg.CLE_GEVT g.ix) 1

/-- The generator at a tick (R129, R132); a self-scan that runs has it. -/
def Part.genTick (p : Part) (g : Grp) : Part :=
  let b := (p.cg g).probe
  let n := if b.restart then 0 else b.n
  match (p.cg g).scan.run with
  | some r => p.scanTick g r
  | none =>
    let b := { b with site := none, restart := false }
    if p.bit (Reg.CLE_CAPCTL g.ix) 3 then
      let (v, clip) := p.genValue g n
      (p.onCg g (fun c => { c with probe := { b with n := (n + 1) % p.corrN g, g := v } })).raiseIf clip
        (Reg.CLE_GEVT g.ix) 1
    else p.onCg g (fun c => { c with probe := { b with n := n, g := 0 } })

/-- The value of capture channel `c`: an export port, the generator output, or 0 for a channel that is off. -/
def Part.capChannel (p : Part) (g : Grp) (c : Nat) : Word :=
  let sel := p.fld (Reg.CLE_CAPSEL g.ix (c / 4)) (8 * (c % 4)) 7
  if sel < 0x40 then p.reg (Reg.CLE_EP g.ix sel) else if sel = 0x40 then (p.cg g).probe.g else 0

/-- Capture after a SAMPLE_END (R131). -/
def Part.captureSample (p : Part) (g : Grp) : Part :=
  let ctl := Reg.CLE_CAPCTL g.ix
  let cfg := Reg.CLE_CAPCFG g.ix
  let b := (p.cg g).probe
  if !p.bit ctl 9 then p
  else if b.capDiv ≠ 0 then p.onCg g (fun c => { c with probe := { b with capDiv := b.capDiv - 1 } })
  else if !p.bit cfg 0 && 8192 ≤ b.capEntry then p
  else
    let ws := (List.range 8).foldl (fun f c => sSet (fun _ => 0) f (b.capEntry % 8192 * 8 + c) (p.capChannel g c)) b.words
    (p.onCg g (fun c => { c with probe := { b with words := ws, capEntry := b.capEntry + 1, capDiv := p.fld cfg 8 8 } })).setFld
      ctl 16 16 (min 8192 (b.capEntry + 1))

/-- Add the product `x · f` to a double-single sum, as ACCD does (R132, R158). -/
def corrAdd (acc : List (Nat × (Word × Word))) (key : Nat) (x f : Word) : List (Nat × (Word × Word)) :=
  let old := sGet (fun _ => (0, 0)) acc key
  sSet (fun _ => (0, 0)) acc key (accumulate old.1 old.2 (fpMul x f))

/-- A double-single sum times 2 / n, rounded once (R132). -/
def corrValue (s : Word × Word) (n : Nat) : Word :=
  if fpFinite s.1 && fpFinite s.2 then fpOfRat (2 * (fpScaled s.1 + fpScaled s.2)) (n * 2 ^ 149) else fpAdd s.1 s.2

/-- The cosine and sine factors of bin `m` at index `n` of a window of `nn`, in FP32. -/
def corrPhase (m n nn : Nat) : Word × Word := fpCosSin (BitVec.ofNat 32 (m * n * 2 ^ 32 / nn))

/-- The correlator after a SAMPLE_END (R132). -/
def Part.correlateSample (p : Part) (g : Grp) : Part :=
  let b := (p.cg g).probe
  let nn := p.corrN g
  if !p.bit (Reg.CLE_CAPCTL g.ix) 8 || b.restart || nn * (p.fld (Reg.CLE_CORRCFG g.ix) 8 8 + 1) ≤ b.corrSample then p
  else
    let acc := (List.range (p.tones g)).foldl (fun acc k =>
      let (co, si) := corrPhase (p.fld (Reg.CLE_TONE g.ix k) 0 16) b.corrSample nn
      (List.range 9).foldl (fun acc c =>
        let x := if c = 8 then b.g else p.capChannel g c
        corrAdd (corrAdd acc (2 * (9 * k + c)) x co) (2 * (9 * k + c) + 1) x (fpNeg si)) acc) b.acc
    p.onCg g (fun c => { c with probe := { b with acc := acc, corrSample := b.corrSample + 1 } })

/-- CSTART: the index restarts at the next tick, and the correlation runs from there. -/
def Part.cstart (p : Part) (g : Grp) : Part :=
  (p.setBit (Reg.CLE_CAPCTL g.ix) 8 true).onCg g (fun c =>
    { c with probe := { c.probe with restart := true, corrSample := 0, acc := [] } })

/-- CSTART. -/
def execCstart (g : Grp) (s : State) := s.run (·.cstart g)

/-- The correlation is complete: its results stand in the capture words and CORR_DONE is set. -/
def Part.correlationDone (p : Part) (g : Grp) : Part :=
  let b := (p.cg g).probe
  let total := p.corrN g * (p.fld (Reg.CLE_CORRCFG g.ix) 8 8 + 1)
  if !p.bit (Reg.CLE_CAPCTL g.ix) 8 || b.corrSample < total then p
  else
    let ws := (List.range (18 * p.tones g)).foldl (fun f i =>
      sSet (fun _ => 0) f (0x10000 + i) (corrValue (sGet (fun _ => (0, 0)) b.acc i) total)) b.words
    ((p.onCg g (fun c => { c with probe := { b with words := ws } })).setBit (Reg.CLE_CAPCTL g.ix) 8 false).raise
      (Reg.CLE_GEVT g.ix) 0

/-- CORRELATION_DONE. -/
def execCorrelationDone (g : Grp) (s : State) := s.run (·.correlationDone g)

/-- CAPSTART: capture runs from the next SAMPLE_END. -/
def Part.capStart (p : Part) (g : Grp) : Part :=
  ((p.setBit (Reg.CLE_CAPCTL g.ix) 9 true).setFld (Reg.CLE_CAPCTL g.ix) 16 16 0).onCg g (fun c =>
    { c with probe := { c.probe with capEntry := 0, capDiv := 0 } })

/-- CAPSTART. -/
def execCapstart (g : Grp) (s : State) := s.run (·.capStart g)

/-- CAPSTOP: capture stops. -/
def Part.capStop (p : Part) (g : Grp) : Part := p.setBit (Reg.CLE_CAPCTL g.ix) 9 false

/-- CAPSTOP. -/
def execCapstop (g : Grp) (s : State) := s.run (·.capStop g)

/-- CAPTURE_FULL: a one-shot capture whose entry 8191 is written stops. -/
def execCaptureFull (g : Grp) (s : State) :=
  s.run (fun p => p.when (!p.bit (Reg.CLE_CAPCFG g.ix) 0 && 8192 ≤ (p.cg g).probe.capEntry)
    (·.setBit (Reg.CLE_CAPCTL g.ix) 9 false))

/-- GENERATOR_ENABLE: the index runs from 0 at generator start (R130). -/
def Part.genEnable (p : Part) (g : Grp) (on : Bool) : Part :=
  let was := p.bit (Reg.CLE_CAPCTL g.ix) 3
  (p.setBit (Reg.CLE_CAPCTL g.ix) 3 on).when (on && !was) (·.onCg g (fun c => { c with probe := { c.probe with n := 0 } }))

/-- GENERATOR_ENABLE. -/
def execGeneratorEnable (g : Grp) (on : Bool) (s : State) := s.run (·.genEnable g on)

/-- CAPDATA_READ: the word at CAPADDR, which increments. -/
def Part.capDataRead (p : Part) (g : Grp) : Part :=
  let a := p.fld (Reg.CLE_CAPADDR g.ix) 0 17
  (p.answer (sGet (fun _ => 0) (p.cg g).probe.words a) true).setFld (Reg.CLE_CAPADDR g.ix) 0 17 (a + 1)

/-- CAPDATA_READ. -/
def execCapdataRead (g : Grp) (s : State) := s.run (·.capDataRead g)

/-! Start, stop and halt (R123, R137). -/

/-- RUN = 1: a stopped or halted group starts at the next tick; with no figure loaded or armed it stays stopped and
reports 0x09. -/
def Part.runStart (p : Part) (g : Grp) : Part :=
  let p := p.setBit (Reg.CLE_GCTL g.ix) 0 true
  if p.groupRuns g then p.onCg g (fun c => { c with runReq := none })
  else if (p.cg g).loaded || (p.cg g).exch.isSome then p.onCg g (fun c => { c with runReq := some true })
  else p.setFld (Reg.CLE_XSTAT g.ix) 8 8 9

/-- CLE_RUN_START. -/
def execCleRunStart (g : Grp) (s : State) := s.run (·.runStart g)

/-- RUN = 0: the group stops at the next tick. -/
def Part.runStop (p : Part) (g : Grp) : Part :=
  (p.setBit (Reg.CLE_GCTL g.ix) 0 false).onCg g (fun c =>
    { c with runReq := if p.gmode g = 0 then none else some false })

/-- CLE_RUN_STOP. -/
def execCleRunStop (g : Grp) (s : State) := s.run (·.runStop g)

/-- Words of an image from byte offset `lo`, `n` words, placed from key `k` up. -/
def imgRange (img : WordFile) (lo n k : Nat) : WordFile :=
  (img.filter (fun e => lo / 4 ≤ e.1 && e.1 < lo / 4 + n)).map (fun e => (e.1 - lo / 4 + k, e.2))

/-- The instruction bank of an image written into bank `b` of a lane. -/
def Lane.loadCode (l : Lane) (img : WordFile) (b : Nat) : Lane :=
  { l with code := l.code.filter (fun e => e.1 < 65536 * b) ++ imgRange img 0x8000 32768 (65536 * b)
      ++ l.code.filter (fun e => 65536 * (b + 1) ≤ e.1) }

/-- The coefficient banks of an image. -/
def imgCoef (img : WordFile) : WordFile := imgRange img 0x68000 16384 0

/-- The initial data memory of an image. -/
def imgData (img : WordFile) : WordFile := imgRange img 0x28000 65536 0

/-- The active instruction bank of a group. -/
def Part.activeBank (p : Part) (g : Grp) : Nat := p.fld (Reg.CLE_FIG g.ix) 0 1

/-- The lanes leave a group that stops: native ones are OFF, L6 and L7 SPARE. -/
def Part.releaseLanes (p : Part) (g : Grp) : Part :=
  let ns := (p.serving g) ++ [3 * g.ix, 3 * g.ix + 1, 3 * g.ix + 2].filter (fun n => p.laneState n = 4)
  p.each ns (fun p n => p.setLaneState n (if 6 ≤ n then 4 else 0))

/-- The group stops with MODE `m` at a tick, and its legs take their safe state (R123, R137). With `hold` set the safe
state waits for the release of the floor. A CLE set that waits for the group's ticks moves (R25). -/
def Part.stopGroup (p : Part) (g : Grp) (m : Nat) (hold : Bool) (t : Instant) : Part :=
  let p := (p.abandonLoad g).releaseLanes g
  let p := p.onCg g (fun c =>
    { c with open_ := false, first := false, runReq := none, prevNoMaj := false, haltNext := false, want := none,
             deferSafe := hold })
  let p := ((p.setGmode g m).setBit (Reg.CLE_GSTAT g.ix) 7 false).showGroup g
  (p.each (p.legsOf g) (fun p l => p.evalLeg t l)).cleStopMove g

/-- The group halts (R123). -/
def Part.haltGroup (p : Part) (g : Grp) (hold : Bool) (t : Instant) : Part :=
  ((p.stopGroup g 4 hold t).raise (Reg.CLE_GEVT g.ix) 11).hostFault

/-- The lanes that a group starts with: native ones first, then L6 and L7 as allowed, three at most (R104). -/
def Part.startLanes (p : Part) (g : Grp) : List Nat :=
  ([3 * g.ix, 3 * g.ix + 1, 3 * g.ix + 2].filter (fun n => p.laneState n = 0 || p.laneState n = 4)
    ++ [6, 7].filter (fun n => p.laneState n = 4 && p.bit (Reg.CLE_RSVPOL g.ix) (n - 6))).take 3

/-- The group starts at a tick: initial data, safe exports, registers at 0 (R108, R137, R148). The region and the bank in force
are those of its last run, or of reset: a first selection that differs is a region change, with a fade from that bank (DESIGN
CHOICE, log entry 59: R126 does not say). -/
def Part.startGroup (p : Part) (g : Grp) : Part :=
  let c := p.cg g
  let ns := p.startLanes g
  let p := p.onCg g (fun c => { c with runReq := none })
  if !c.loaded then p.setFld (Reg.CLE_XSTAT g.ix) 8 8 9
  else if ns.isEmpty || p.role = 3 then p
  else
    let b := p.activeBank g
    let p := p.each ns (fun p n =>
      let l := (p.lane n).loadCode c.img b
      let l := { l with
        v := [], a := [], p := 0, f := 0, fprev := 0, data := imgData c.img, coef := imgCoef c.img }
      ((p.setLane n l).setLaneState n 1).setBit (Reg.CLE_LSTAT n) 8 (g = .B))
    let p := p.each (List.range 64) (fun p k => p.setReg (Reg.CLE_EP g.ix k) (p.epSafe g k))
    let p := p.onCg g (fun c =>
      { c with first := true, bandsFresh := true, fadeK := 0, fadeJustEnded := false, prevNoMaj := false, haltNext := false,
               want := none, deferSafe := false })
    let p := ((p.setPair (Reg.CLE_SCNT_LO g.ix) 0).setFld (Reg.CLE_FIG g.ix) 16 16 (p.figId g)).setReg (Reg.CLE_FIGBND g.ix)
      (BitVec.ofNat 32 (p.figBundles g))
    (p.showMode g).showFade g

/-- A lane begins a sample: the flags of the sample just ended become the previous-sample flags (R127). -/
def Lane.begin (l : Lane) : Lane :=
  { l with cycle := 0, inflight := [], crc := 0xFFFFFFFF, out := [], ended := false, outvoted := false,
           fprev := l.f, f := 0 }

/-- The lanes start the figure (Table 1.4, order 7). CLE_SCNT counts the sample as it begins, so it reads 1 during the first one
(DESIGN CHOICE, log entry 59: R144 does not say). -/
def Part.beginSample (p : Part) (g : Grp) (t : Instant) : Part :=
  let z : Nat → Word := fun _ => 0
  let ep := (List.range 64).foldl (fun f k => sSet z f k (p.reg (Reg.CLE_EP g.ix k))) []
  let p := p.each (p.members g) (fun p n => p.onLane n (·.begin))
  let p := p.onCg g (fun c => { c with t0 := t, open_ := true, winClosed := false, voter := {}, ep := ep })
  (p.setPair (Reg.CLE_SCNT_LO g.ix) (p.pair (Reg.CLE_SCNT_LO g.ix) + 1)).showGroup g

/-! Figure exchange: the gap work and the switch (R112, R139 to R142). -/

/-- One entry of a state-transfer table applied to the new data memory (R141, R170). -/
def transferEntry (img old : WordFile) (i : Nat) (new : WordFile) : WordFile :=
  let w : Nat → Word := fun k => imgWord img (0x2000 + 16 * i + 4 * k)
  let z : Nat → Word := fun _ => 0
  let count := bits (w 0) 0 17
  let dst := bits (w 1) 0 16
  match bits (w 0) 30 2 with
  | 1 => (List.range count).foldl (fun f k => sSet z f (dst + k) (sGet z old (bits (w 2) 0 16 + k))) new
  | 2 => (List.range count).foldl (fun f k => sSet z f (dst + k) (w 2)) new
  | _ => new

/-- The exchange writes of the gap, into every lane that serves or loads (R112, R118). -/
def Part.gapWrites (p : Part) (g : Grp) (x : Exchange) : Part :=
  p.each (p.serving g) (fun p n =>
    let l := p.lane n
    let l := { l with coef := imgCoef x.img }
    p.setLane n (if x.coefOnly then l
      else { l with data := (List.range (imgWord x.img 0x1C).toNat).foldl (fun f i => transferEntry x.img l.data i f)
                      (imgData x.img) }))

/-- What the coming tick does with an exchange that is due at it (R140): a join that is scheduled and a sample without majority
defer it; otherwise its writes of the gap are made. -/
def Part.gapDecide (p : Part) (g : Grp) : Part :=
  let c := p.cg g
  match c.exch with
  | none => p
  | some x =>
    if x.ready || !x.at?.all (fun a => decide ((a : Int) ≤ (p.nextUpdate g : Int) + p.time.off)) then p
    else if c.prevNoMaj || c.load.any (fun y => y.joinNext) then
      (p.onCg g (fun c => { c with exch := some { x with deferred := true } })).setFld (Reg.CLE_XSTAT g.ix) 0 4 5
    else (p.gapWrites g x).onCg g (fun c => { c with exch := some { x with ready := true } })

/-- An exchange that is armed between a SAMPLE_END and the tick after it is decided on at once. -/
def Part.gapArm (p : Part) (g : Grp) : Part := p.when (p.groupRuns g && !(p.cg g).open_) (·.gapDecide g)

/-- The committed word of an ST register takes a value, in the bits that the register has (R9). -/
def Part.setCommitted (p : Part) (off : Nat) (w : Word) : Part :=
  match rowAt off with
  | some r => p.setReg off (w &&& BitVec.ofNat 32 r.st)
  | none => p

/-- The parameter words of a COEF exchange move as if by commit (R140). They change the committed words alone: the staged
copies stand, so a later commit moves what is staged there (DESIGN CHOICE, log entry 58: R140 does not say). -/
def Part.moveWords (p : Part) (g : Grp) (x : Exchange) : Part :=
  if !x.coefOnly then p
  else p.each (List.range 8) (fun p m =>
    let i := imgWord x.img (0x40 + 8 * m)
    if i = 0xFFFFFFFF then p else p.setCommitted (Reg.CLE_PW g.ix (i.toNat % 256)) (imgWord x.img (0x44 + 8 * m)))

/-- The exchange switches at a tick: all lanes together (R139). -/
def Part.switchFigure (p : Part) (g : Grp) (x : Exchange) : Part :=
  let p :=
    if x.coefOnly then
      p.onCg g (fun c => { c with
        exch := none,
        img := c.img.filter (fun e => e.1 < 0x68000 / 4) ++ imgRange x.img 0x68000 16384 (0x68000 / 4)
          ++ c.img.filter (fun e => 0x78000 / 4 ≤ e.1) })
    else
      let p := p.onCg g (fun c => { c.withImage x.img with exch := none, first := true, slot := x.fig })
      let p := p.setReg (Reg.CLE_FIG g.ix) (BitVec.ofNat 32 (p.figId g * 65536 + (1 - p.activeBank g)))
      p.setReg (Reg.CLE_FIGBND g.ix) (BitVec.ofNat 32 (p.figBundles g))
  ((p.setFld (Reg.CLE_XSTAT g.ix) 0 4 6).opDone? x.op).showGroup g

end Sys2Proof.Machine
end

