-- ==== Sys2Proof/Machine/GridFig.lean ====
section
/-! DEFINITION. The grid figure (chapters 2 and 3): what one sample measures and computes, the mode logic with its
commands, and the exports. -/

namespace Sys2Proof.Machine

/-! Vectors and angles. -/

/-- Sum of two vectors. -/
def vAdd (a b : Int × Int) : Int × Int := (a.1 + b.1, a.2 + b.2)

/-- Difference of two vectors. -/
def vSub (a b : Int × Int) : Int × Int := (a.1 - b.1, a.2 - b.2)

/-- A vector times a quantity. -/
def vScale (k : Int) (a : Int × Int) : Int × Int := (qMul k a.1, qMul k a.2)

/-- A vector clipped to a length without rotation, and whether it was clipped (R54, R60). -/
def vClip (a : Int × Int) (lim : Int) : (Int × Int) × Bool :=
  let m := qLen a
  if m ≤ lim then (a, false) else (vScale (qDiv (max 0 lim) m) a, true)

/-- Cosine and sine of an angle, in units of 2^-256. -/
def angCosSin (a : Word) : Int × Int := cosSinTurn a.toNat (2 ^ 32)

/-- A vector turned by an angle. -/
def turn (a : Word) (v : Int × Int) : Int × Int :=
  let (c, s) := angCosSin a
  (Config.round (v.1 * c - v.2 * s) (2 ^ fixBits), Config.round (v.1 * s + v.2 * c) (2 ^ fixBits))

/-- A number of turns, as a fraction, added to an angle: nearest step of 2^-32 turn. -/
def addTurns (a : Word) (n : Int) (d : Nat) : Word := a + wordOfInt (roundInt (n * 2 ^ 32) d)

/-- The angle of a vector, to the nearest step of 2^-32 turn; 0 for the origin (R152). -/
def angleOf (v : Int × Int) : Word :=
  if v.1 = 0 && v.2 = 0 then 0 else
  let q : Int := angleQuarter v.1.natAbs v.2.natAbs
  let r : Int := if v.1 < 0 then (if v.2 < 0 then (piFix : Int) + q else (piFix : Int) - q)
    else (if v.2 < 0 then (2 * piFix : Nat) - q else q)
  wordOfInt (roundInt (r * 2 ^ 32) (2 * piFix))

/-- 1/√3 and √3/2, in units of 2^-256. -/
def invSqrt3 : Int := isqrt (2 ^ 512 / 3)

/-- √3/2, in units of 2^-256. -/
def halfSqrt3 : Int := isqrt (3 * 2 ^ 510)

/-- αβ components of three phase quantities (step 1). -/
def clarke (a b c : Int) : Int × Int :=
  (Config.round (2 * a - b - c) 3, Config.round ((b - c) * invSqrt3) (2 ^ fixBits))

/-- Positive and negative sequence of a vector against the vector a quarter period before (R156). -/
def seqSplit (v old : Int × Int) : (Int × Int) × (Int × Int) :=
  let h : Int → Int := fun x => Config.round x 2
  ((h (v.1 - old.2), h (v.2 + old.1)), (h (v.1 + old.2), h (v.2 - old.1)))

/-! Parameters and inputs. -/

/-- Whether a group has a grid figure image in force with every required port (R45, R75). -/
def Part.gridRuns (p : Part) (g : Grp) : Bool :=
  let src := fun k => p.fld (Reg.CLE_IPSRC g.ix k) 0 12 ≠ 0
  (p.cg g).loaded && (p.cg g).isGrid && (List.range 13).all src && [14, 15, 16].all src
    && (bits (sGet (fun _ => 0) (p.cg g).pfile 0) 12 2 ≠ 1 || src 13)

/-- Parameter word `n` of the present sample (R66, R107). -/
def Part.gw (p : Part) (g : Grp) (n : Nat) : Word := sGet (fun _ => 0) (p.cg g).pfile n

/-- Parameter word `n` as a quantity. -/
def Part.gq (p : Part) (g : Grp) (n : Nat) : Int := ofFp (p.gw g n)

/-- f_b in hertz (Table 2.6). -/
def Part.gridHz (p : Part) (g : Grp) : Nat := if bitAt (p.gw g 0) 11 then 60 else 50

/-- Ts in seconds, as a fraction. -/
def Part.tsSec (p : Part) (g : Grp) : Int × Nat := ((p.tsUnits g).1, (p.tsUnits g).2 * sec 1)

/-- kθ: turns advanced in a sample per pu of frequency, as a fraction. -/
def Part.kth (p : Part) (g : Grp) : Int × Nat := (p.gridHz g * (p.tsSec g).1, (p.tsSec g).2)

/-- Whether `n` fundamental periods have passed since an instant. -/
def Part.periodsSince (p : Part) (g : Grp) (n : Nat) (t : Instant) : Bool :=
  n * sec 1 ≤ (((p.cg g).t0 : Int) - t).toNat * p.gridHz g

/-- Input port `k` of the present sample as a quantity. -/
def Part.gip (p : Part) (g : Grp) (k : Nat) : Int := ofFp (sGet (fun _ => 0) (p.cg g).ip k)

/-- Replace the grid figure's state. -/
def Part.setGrid (p : Part) (g : Grp) (x : GridState) : Part := p.onCg g (fun c => { c with grid := x })

/-- The next output of a first-order filter of the time constant in word `n`. -/
def Part.gridLag (p : Part) (g : Grp) (y x : Int) (n : Nat) : Int :=
  let (a, b) := p.tsSec g
  Config.lag y x (a * 2 ^ 149) (b * fpScaled (p.gw g n))

/-- An angle after one sample at a frequency. -/
def Part.gridAdvance (p : Part) (g : Grp) (th : Word) (w : Int) : Word :=
  let (kn, kd) := p.kth g
  addTurns th (kn * w) (kd * pu.toNat)

/-- Samples of a quarter period: round(1 / (4·f_b·Ts)), 2 to 1023. -/
def Part.quarter (p : Part) (g : Grp) : Nat :=
  let (n, d) := p.kth g
  (clampInt 2 1023 (roundInt d (4 * n).toNat)).toNat

/-! Measurement (steps 1 to 4) and the profile. -/

/-- An estimator's sample: sequence components against the vector a quarter period before, and the angle and frequency
of the positive sequence, measured or held (R62). -/
def Part.estimate (p : Part) (g : Grp) (e : GridEst) (v : Int × Int) (vHold : Int) :
    GridEst × (Int × Int) × (Int × Int) :=
  let (v1, v2) := seqSplit v (e.hist.getD (p.quarter g - 1) (0, 0))
  let hist := (v :: e.hist).take 1023
  let (kn, kd) := p.kth g
  let e := if qLen v1 < vHold then { e with th := p.gridAdvance g e.th e.w, hold := true, hist := hist }
    else
      let fd := p.gridHz g * fpScaled (p.gw g 20)
      let th := addTurns (angleOf v1) (fd * e.w) (2 ^ 149 * pu.toNat)
      let w := p.gridLag g e.w (Config.round (angleDiffInt th e.th * kd * pu) (2 ^ 32 * kn.toNat)) 16
      { th := th, w := w, hold := false, hist := hist }
  (e, v1, v2)

/-- The fault words of R64 as they stand: words 7, 11, 12, 13, 14 and 15. -/
def Part.faultNow (p : Part) (g : Grp) : List Word := [7, 11, 12, 13, 14, 15].map (p.gw g)

/-- Word 48 + `n` of the profile in force (R86). -/
def gridProf (x : GridState) (n : Nat) : Word := x.profile.getD n 0

/-- The points of a curve in force, as voltage and time words: overvoltage or undervoltage (R87). -/
def gridCurve (x : GridState) (above : Bool) : List (Word × Word) :=
  let nuv := bits (gridProf x 0) 0 5
  let ks := if above then (List.range (bits (gridProf x 0) 8 5)).map (· + nuv) else List.range nuv
  ks.map (fun k => (gridProf x (1 + 2 * k), gridProf x (2 + 2 * k)))

/-- A time after an inception in units of 2^-149 s. -/
def tauUnits (t : Nat) : Int := t * 2 ^ 149 / sec 1

/-- The boundary voltage of a curve at a time (R87). -/
def boundary (tau : Int) : List (Word × Word) → Int
  | [] => 0
  | [(v, _)] => ofFp v
  | (v0, t0) :: (v1, t1) :: l =>
    if fpScaled t1 ≤ tau then boundary tau ((v1, t1) :: l)
    else
      let dt := fpScaled t1 - fpScaled t0
      Config.round (ofFp v0 * dt + (ofFp v1 - ofFp v0) * (tau - fpScaled t0)) dt.toNat

/-- The last voltage of a curve; none of an empty one. -/
def lastVoltage (l : List (Word × Word)) : Option Int := l.getLast?.map (fun e => ofFp e.1)

/-- One sample of a curve's episode (R95). -/
def episodeStep (above : Bool) (curve : List (Word × Word)) (v : Int) (t : Instant) (e : Option GridEpisode) :
    Option GridEpisode :=
  match lastVoltage curve with
  | none => none
  | some last =>
    let past : Int → Bool := fun b => if above then b < v else v < b
    match e, past last with
    | none, false => none
    | none, true => some { start := t, beyond := if past (boundary 0 curve) then some t else none }
    | some e, out =>
      some { e with
        beyond := if past (boundary (tauUnits (t - e.start)) curve) then some (e.beyond.getD t) else none,
        inside := if out then none else some (e.inside.getD t) }

/-- The modes in which the bridge switches (Table 3.2). -/
def gridSwitches (m : Nat) : Bool := 3 ≤ m && m ≤ 7

/-- The modes in which the profile and the voltage arm of the trigger act (R84, R95). -/
def gridProfile (m : Nat) : Bool := 5 ≤ m && m ≤ 7

/-- A setpoint clamped (R46). -/
def clampSet (p : Part) (g : Grp) (k : Nat) (lo hi : Int) : Int × Bool :=
  let x := ofFp (p.reg (Reg.RAMP_OUT (4 * g.ix + k)))
  let y := clampInt lo hi x
  (y, x ≠ y)

/-- What a sample of the grid figure measures at its tick. -/
def Part.gridMeasure (p : Part) (g : Grp) : Part :=
  if !p.gridRuns g then p
  else
    let x := (p.cg g).grid
    let t := (p.cg g).t0
    let x := { x with acted := false }
    let x := if x.xtr || x.winAt.isSome then x else { x with faultWords := p.faultNow g }
    let x := if x.uv.isSome || x.ov.isSome then x
      else { x with profile := (List.range 33).map (fun n => p.gw g (48 + n)) }
    let vHold := ofFp (x.faultWords.getD 5 0)
    let vec := fun k => clarke (p.gip g k) (p.gip g (k + 1)) (p.gip g (k + 2))
    let npc := bits (p.gw g 0) 12 2 = 1
    let (te, v1, v2) := p.estimate g x.term (vec 9) vHold
    let (be, b1, _) := p.estimate g x.bus (vec 14) vHold
    let (ue, u1, _) := p.estimate g x.main (vec 17) vHold
    let ig := vec 6
    let (i1, i2) := seqSplit ig (x.curHist.getD (p.quarter g - 1) (0, 0))
    let lo := if npc then p.gip g 13 else 0
    let (ps, c0) := clampSet p g 0 (-(6 * pu / 5)) (6 * pu / 5)
    let (qs, c1) := clampSet p g 1 (-(6 * pu / 5)) (6 * pu / 5)
    let (vs, c2) := clampSet p g 2 0 (6 * pu / 5)
    let (ws, c3) := clampSet p g 3 (19 * pu / 20) (21 * pu / 20)
    let m : GridMeas :=
      { ic := vec 0, vc := vec 3, ig := ig, v1 := v1, v2 := v2, i1 := i1, i2 := i2, vt := vec 9, v1m := qLen v1,
        vb := qLen b1, vu := qLen u1, vdc := p.gip g 12 + lo, vnp := if npc then p.gip g 12 - lo else 0,
        pe := qMul v1.1 i1.1 + qMul v1.2 i1.2, qe := qMul v1.2 i1.1 - qMul v1.1 i1.2,
        pset := ps, qset := qs, vset := vs, wset := ws, clamped := c0 || c1 || c2 || c3 }
    let on := gridProfile x.mode
    let x := { x with
      term := te, bus := be, main := ue, curHist := (ig :: x.curHist).take 1023, meas := m,
      uv := if on then episodeStep false (gridCurve x false) m.v1m t x.uv else none,
      ov := if on then episodeStep true (gridCurve x true) m.v1m t x.ov else none }
    p.setGrid g x

/-! The law of one sample (steps 5 to 13). -/

/-- The rotor's next frequency and angle: SWING, then the angle guard (R48, R49, R63); its droop and damping bring two
forming units together (R93). -/
def Part.gridRotor (p : Part) (g : Grp) (x : GridState) : GridState :=
  let m := x.meas
  let (tn, td) := p.tsSec g
  let acc := m.pset - m.pe + qDiv (m.wset - x.w) (p.gq g 3) - qMul (p.gq g 2) (x.w - x.term.w)
  let wu := x.w + Config.round (acc * tn * 2 ^ 149) (td * (2 * fpScaled (p.gw g 1)).toNat)
  let (kn, kd) := p.kth g
  let tp := p.gridAdvance g x.term.th x.term.w
  let d0 := angleDiffInt x.th x.term.th
  let du := angleDiffInt (p.gridAdvance g x.th wu) tp
  let thMax : Int := (x.faultWords.getD 3 0).toNat
  let x := if thMax < du.natAbs then
      let s : Int := if du < 0 then -1 else 1
      let pull := roundInt (fpScaled (x.faultWords.getD 4 0) * kn * 2 ^ 32) (kd * 2 ^ 149)
      let move := max (thMax - s * d0) (-pull)
      { x with w := x.term.w + Config.round (s * move * kd * pu) (2 ^ 32 * kn.toNat), guarded := true }
    else { x with w := wu, guarded := false }
  { x with th := p.gridAdvance g x.th x.w }

/-- The voltage that R50 starts from: V_set, and in FORM the ramp E_r of R94, from zero in each unit that forms (R93). -/
def Part.gridVoltage (p : Part) (g : Grp) (x : GridState) : Int :=
  let v := x.meas.vset
  if x.mode ≠ 3 then v
  else
    let low := pu / 20
    let tau := tauUnits ((p.cg g).t0 - x.rampAt)
    let ramp := if fpScaled x.tbs ≤ tau then v else Config.round (v * tau) (fpScaled x.tbs).toNat
    if x.premag then low else if bitAt (p.gw g 0) 7 then max low ramp else ramp

/-- The internal voltage magnitude E (R50). -/
def Part.gridE (p : Part) (g : Grp) (x : GridState) : Int := p.gridVoltage g x + qMul (p.gq g 4) (x.meas.qset - x.qf)

/-- Both axes of the resonant term `key` of order `h` and gain word `n` (R52, R53), as the pair of integrators of Table 5.5,
which fixes the discrete form (DEDUCED, log entry 62): x1 += 2·K·Ts·e − h·ω·ω_b·Ts·x2, x2 += h·ω·ω_b·Ts·x1, output x1; a
held term keeps its state. -/
def Part.resonant (p : Part) (g : Grp) (x : GridState) (key n h : Nat) (held : Bool) (e : Int × Int) : GridState × (Int × Int) :=
  let (tn, td) := p.tsSec g
  let (kn, kd) := p.kth g
  let z : Nat → Int × Int := fun _ => (0, 0)
  -- h·ω·ω_b·Ts times a state, in radians
  let turn : Int → Int := fun v => Config.round (h * x.w * kn * (2 * piFix : Nat) * v) (kd * pu.toNat * 2 ^ fixBits)
  let next : Int × Int → Int → Int × Int := fun s e =>
    if held then s
    else
      let x1 := s.1 + Config.round (2 * fpScaled (p.gw g n) * tn * e) (2 ^ 149 * td) - turn s.2
      (x1, s.2 + turn x1)
  let a := next (sGet z x.reson key) e.1
  let b := next (sGet z x.reson (key + 1)) e.2
  ({ x with reson := sSet z (sSet z x.reson key a) (key + 1) b }, (a.1, b.1))

/-- A value through the BIQ sections of the image that filter it in an axis (R128), with the coefficients of the bank in
force and its fade (R126): `use` names what they extract, 0 the notches and h the component of order h. -/
def Part.gridBiq (p : Part) (g : Grp) (x : GridState) (use axis : Nat) (u : Int) : GridState × Int :=
  let z : Nat → Word × Word := fun _ => (0, 0)
  let lane := p.lane ((p.members g).headD 0)
  let ctx := p.vctx g
  let one : GridState × Word → Nat → GridState × Word := fun (x, v) k =>
    let key := 128 * use + 64 * axis + k % 64
    let s := sGet z x.biq key
    let c := fun i => ctx.coef lane (5 * (k % 64) + i)
    let (y, s1, s2) := fpBiquad (c 0) (c 1) (c 2) (c 3) (c 4) s.1 s.2 v
    ({ x with biq := sSet z x.biq key (s1, s2) }, y)
  match Config.gridSections (p.figId g) use axis with
  | [] => (x, u)
  | ks =>
    let (x, y) := ks.foldl one (x, toFp u)
    (x, ofFp y)

/-- Both axes of `gridBiq`. -/
def Part.gridBiq2 (p : Part) (g : Grp) (x : GridState) (use : Nat) (u : Int × Int) : GridState × (Int × Int) :=
  let (x, a) := p.gridBiq g x use 0 u.1
  let (x, b) := p.gridBiq g x use 1 u.2
  (x, (a, b))

/-- What the generator adds at a site of the figure (R129, R133): to the first axis (DESIGN CHOICE, log entry 62). -/
def Part.gridInject (p : Part) (g : Grp) (site : Nat) (v : Int × Int) : Int × Int :=
  let c := p.vctx g
  if c.sites.testBit site then (v.1 + ofFp c.g, v.2) else v

/-- Orders of VRMASK that are set (Table 2.6). -/
def vrOrders (cfg : Word) : List Nat := (([5, 7, 11, 13, 17, 19] : List Nat).zipIdx.filter (fun e => bitAt cfg (14 + e.2))).map (·.1)

/-- Orders of HRMASK that are set. -/
def hrOrders (cfg : Word) : List Nat := ((List.range 12).filter (fun k => bitAt cfg (20 + k))).map (fun k => 3 + 2 * k)

/-- The current reference of the voltage loop for a transient reactance (R51, R52, R55, R133). -/
def Part.gridRef (p : Part) (g : Grp) (x : GridState) (xact : Int) : GridState × (Int × Int) :=
  let m := x.meas
  let cfg := p.gw g 0
  let held := x.ilim || x.ovmod
  let (d, q) := turn (0 - x.th) m.i1
  let rv := p.gq g 5
  let wx := qMul x.w xact
  let vd := p.gridE g x - qMul rv d + qMul wx q
  let vq := -(qMul rv q) - qMul wx d
  let (kn, kd) := p.kth g
  let vref := turn (addTurns x.th (kn * x.w) (2 * kd * pu.toNat)) (vd, vq)
  let (x, vref) := (hrOrders cfg).foldl (fun (x, v) h =>
    let (x, ih) := p.gridBiq2 g x h m.ig
    (x, vSub v (vScale (p.gq g (32 + (h - 3) / 2)) ih))) (x, vref)
  let ev := vSub (p.gridInject g 0 vref) (p.gridInject g 1 m.vc)
  let (x, sum) := (1 :: vrOrders cfg).foldl (fun (x, v) h =>
    let (x, y) := p.resonant g x (2 * h) 27 h held ev
    (x, vAdd v y)) (x, (0, 0))
  (x, vAdd (vAdd m.ig (vScale (p.gq g 26) ev)) sum)

/-- The limit I_act in force at a sample (R59). -/
def Part.gridLimit (p : Part) (g : Grp) (x : GridState) : Int :=
  let cont := p.gq g 10
  if x.winAt.isSome then ofFp (x.faultWords.getD 1 0)
  else match x.fall with
    | some (t, from_) =>
      let n := (p.cg g).t0 - t
      if msec 20 ≤ n then cont else cont + Config.round ((from_ - cont) * (msec 20 - n : Nat)) (msec 20)
    | none => cont

/-- X_act in a sample without the trigger (R58). -/
def Part.gridDecay (p : Part) (g : Grp) (x : GridState) : Int :=
  if x.xtr then p.gridLag g x.xact (p.gq g 6) 8 else p.gq g 6

/-- The rotor and the current reference of the present sample as they stand before the trigger is judged. -/
def Part.gridTrial (p : Part) (g : Grp) (x : GridState) : GridState × (Int × Int) :=
  let x := { p.gridRotor g x with qf := p.gridLag g x.qf x.meas.qe 19 }
  p.gridRef g x (p.gridDecay g x)

/-- Whether the trigger of R58 is met in the present sample; the voltage arm is silent in FORM and SYNC (R84). -/
def Part.gridTrigger (p : Part) (g : Grp) (x : GridState) : Bool :=
  gridSwitches x.mode && (p.gq g 10 < qLen (p.gridTrial g x).2 || (gridProfile x.mode && x.meas.v1m < p.gq g 9))

/-- Transient reactance and transient window of a sample (R58, R59). -/
def Part.gridTransient (p : Part) (g : Grp) (x : GridState) (trig : Bool) : GridState :=
  let t := (p.cg g).t0
  let xv := p.gq g 6
  let x :=
    if trig then
      let opens := x.armed && x.winAt.isNone && fpLt 0 (x.faultWords.getD 2 0)
      let x := { x with xact := ofFp (x.faultWords.getD 0 0), xtr := true }
      if opens then { x with winAt := some t, armed := false, quietAt := none, fall := none } else x
    else
      let y := p.gridDecay g x
      { x with xact := y, xtr := x.xtr && pu / 1000 < (y - xv).natAbs }
  { x with iact := p.gridLimit g x }

/-- The modulation: phase references from the converter voltage, the linear range, zero sequence and neutral-point
offset (R56, R57). -/
def Part.gridModulate (p : Part) (g : Grp) (x : GridState) (v : Int × Int) : GridState :=
  let m := x.meas
  let cfg := p.gw g 0
  let half := Config.round m.vdc 2
  let r := (qDiv v.1 half, qDiv v.2 half)
  let lim : Int := if bitAt cfg 9 then Config.round (2 * invSqrt3 * pu) (2 ^ fixBits) else pu
  let (r, above) := vClip r lim
  let b := Config.round (-r.1 * 2 ^ 255 + r.2 * halfSqrt3) (2 ^ fixBits)
  let c := Config.round (-r.1 * 2 ^ 255 - r.2 * halfSqrt3) (2 ^ fixBits)
  let x := { x with ovmod := above, npLim := false }
  let z : Int := if bitAt cfg 9 then
      -- the sixth at three times the angle, of the sign that flattens the peaks
      -(Config.round (qLen r * (angCosSin (3 * angleOf r)).1) (6 * 2 ^ fixBits))
    else 0
  if bitAt cfg 8 then
    let sgn : Int := if m.pe < 0 then -1 else if m.pe = 0 then 0 else 1
    let v0 := qDiv (-(sgn * qMul (p.gq g 28) m.vnp)) half
    let hi := max r.1 (max b c)
    let lo := min r.1 (min b c)
    let w := clampInt (-pu - lo) (pu - hi) v0
    { x with refs := (r.1 + w, b + w, c + w), npLim := w ≠ v0 }
  else { x with refs := (r.1 + z, b + z, c + z) }

/-- The loops of a sample in a switching mode (steps 8 to 13); LIMV bounds the current between two forming units too
(R93). -/
def Part.gridLoops (p : Part) (g : Grp) (x : GridState) (trig : Bool) : GridState :=
  let m := x.meas
  let held := x.ilim || x.ovmod
  let x := { p.gridRotor g x with qf := p.gridLag g x.qf m.qe 19 }
  let x := p.gridTransient g x trig
  let (x, iref) := p.gridRef g x x.xact
  let k := if bitAt (p.gw g 0) 10 then p.gq g 17 else 0
  -- a source behind 1/K: the negative-sequence frame turns against the stationary one (DEDUCED, log entry 62)
  let (i2, neg) := vClip (qMul k m.v2.2, -(qMul k m.v2.1)) (qMul (p.gq g 18) x.iact)
  let (ilim, clip) := vClip iref (x.iact - qLen i2)
  let ei := vSub (vAdd ilim i2) m.ic
  let (x, y) := p.resonant g x 0 25 1 held ei
  let (x, v) := p.gridBiq2 g x 0 (vAdd (vAdd m.vc (vScale (p.gq g 24) ei)) y)
  let x := { x with
    ilim := clip, negLim := neg, i2ref := i2,
    quietAt := if p.gq g 10 < qLen iref then none else some (x.quietAt.getD (p.cg g).t0) }
  p.gridModulate g x v

/-- A sample in a blocked mode: the state follows the bus (R83). -/
def Part.gridTrack (p : Part) (g : Grp) (x : GridState) : GridState :=
  let x := { x with
    reson := [], biq := [], qf := 0, xact := p.gq g 6, iact := p.gq g 10, xtr := false, winAt := none, armed := true,
    quietAt := none, fall := none, ilim := false, ovmod := false, guarded := false, negLim := false, npLim := false,
    refs := (0, 0, 0), i2ref := (0, 0), freeAt := none }
  if ofFp (x.faultWords.getD 5 0) ≤ x.meas.vb then
    { x with th := x.bus.th, w := x.bus.w, term := { x.term with th := x.bus.th, w := x.bus.w } }
  else
    let w := x.meas.wset
    let th := p.gridAdvance g x.th w
    { x with th := th, w := w, term := { x.term with th := th, w := w } }

/-! Commands and transitions (R79 to R85). -/

/-- The mode that a transition to ONLINE or ISLAND ends in (R82). -/
def Part.gridHome (p : Part) (g : Grp) : Nat := if bitAt (p.gw g 256) 9 then 5 else 7

/-- Whether a profile violation falls due, and its cause (R95). DESIGN CHOICE (log entry 62): of two in one sample the
undervoltage is the cause. -/
def Part.gridViolation (p : Part) (g : Grp) (x : GridState) : Option Nat :=
  let due : Option GridEpisode → Bool := fun e => match e with
    | some e => e.beyond.any (fun b => p.periodsSince g 1 b)
    | none => false
  if !gridProfile x.mode then none else if due x.uv then some 1 else if due x.ov then some 2 else none

/-- Whether RIDE has been free of trigger and episode for one fundamental period (R96). -/
def Part.rideOver (p : Part) (g : Grp) (x : GridState) : Bool :=
  x.mode = 6 && x.uv.isNone && x.ov.isNone && x.freeAt.any (fun t => p.periodsSince g 1 t) && !p.gridTrigger g x

/-- The ramp of FORM is complete (R94). -/
def Part.rampOver (p : Part) (g : Grp) (x : GridState) : Bool :=
  x.mode = 3 && !x.premag && fpScaled x.tbs ≤ tauUnits ((p.cg g).t0 - x.rampAt)

/-- The figure's own transition that falls due in the present sample, if any (Table 3.6). -/
def Part.gridOwn (p : Part) (g : Grp) (x : GridState) : Option Nat :=
  let home := p.gridHome g
  match x.mode with
  | 3 => if p.rampOver g x then some home else none
  | 4 => if bitAt (p.gw g 256) 8 then some home else none
  | 6 => if p.rideOver g x then some home else none
  | m =>
    if m = 5 || m = 7 then
      if x.uv.isSome || x.ov.isSome || p.gridTrigger g x then some 6 else if m ≠ home then some home else none
    else none

/-- A command that waits: its number differs from the last one acted on (R79). -/
def Part.gridAsked (p : Part) (g : Grp) (x : GridState) : Bool := bits (p.gw g 256) 24 8 ≠ x.seqAck

/-- The command is taken with the answer `rej`. -/
def Part.gridAck (p : Part) (g : Grp) (x : GridState) (rej : Nat) : GridState :=
  { x with seqAck := bits (p.gw g 256) 24 8, rej := rej, acted := x.acted || rej = 0 }

/-- The answer to a command from the present mode (Table 3.6): 0 accepted, 1 not allowed, 3 entry condition not met. -/
def Part.gridAnswer (p : Part) (g : Grp) (x : GridState) (req : Nat) : Nat :=
  let cb1 := bitAt (p.gw g 256) 8
  let need : Bool → Nat := fun c => if c then 0 else 3
  match req with
  | 1 => if x.mode = 0 then need (p.role = 1 || p.role = 4) else 1
  | 2 => if x.mode = 1 || gridSwitches x.mode || x.mode = 8 then 0 else 1
  | 3 => if x.mode = 2 then need (cb1 && x.meas.v1m < ofFp (x.faultWords.getD 5 0)) else 1
  | 4 => if x.mode = 2 then need (!cb1 && pu / 2 ≤ x.meas.vb) else 1
  | 8 => if x.mode = 0 then 1 else 0
  | 0 => if x.mode = 1 || x.mode = 2 || x.mode = 8 then 0 else 1
  | r =>
    if (r = 5 || r = 7) && x.mode = 2 then
      need (cb1 && pu / 2 ≤ x.meas.v1m && (p.gridE g x - x.meas.v1m).natAbs ≤ pu / 20)
    else 1

/-- The state on entry to a mode by command (R83, R94). -/
def Part.gridEnter (p : Part) (g : Grp) (x : GridState) (req : Nat) : GridState :=
  match req with
  | 3 => { x with
      mode := 3, w := x.meas.wset, term := { x.term with w := x.meas.wset, th := x.th }, rampAt := (p.cg g).t0,
      premag := bitAt (p.gw g 0) 7, tbs := p.gw g 81 }
  | 5 => { x with mode := p.gridHome g }
  | 7 => { x with mode := p.gridHome g }
  | r => { x with mode := r }

/-- A command at the figure, in the order of R84. -/
def Part.gridCommand (p : Part) (g : Grp) (req : Nat) : Part :=
  let x := (p.cg g).grid
  if !p.gridRuns g || !(p.cg g).open_ || !p.gridAsked g x || bits (p.gw g 256) 0 8 ≠ req then p
  else if x.acted then p.setGrid g (p.gridAck g x 2)
  else if req = 8 then
    let cause := bits (p.gw g 256) 16 8
    if cause < 0x10 || 0x16 < cause then p.setGrid g (p.gridAck g x 4)
    else if (p.gridViolation g x).isSome && bitAt (gridProf x 0) 16 then p.setGrid g (p.gridAck g x 2)
    else if x.mode = 0 then p.setGrid g (p.gridAck g x 1)
    else if x.mode = 8 then p.setGrid g (p.gridAck g x 0)
    else p.setGrid g { p.gridAck g x 0 with mode := 8, cause := cause }
  else if ((p.gridViolation g x).isSome && bitAt (gridProf x 0) 16) || (p.gridOwn g x).isSome then
    p.setGrid g (p.gridAck g x 2)
  else
    match p.gridAnswer g x req with
    | 0 => p.setGrid g (p.gridEnter g (p.gridAck g x 0) req)
    | r => p.setGrid g (p.gridAck g x r)

/-- SEQCMD_OFF. -/
def execSeqcmdOff (g : Grp) (s : State) := s.run (·.gridCommand g 0)

/-- SEQCMD_CHARGE. -/
def execSeqcmdCharge (g : Grp) (s : State) := s.run (·.gridCommand g 1)

/-- SEQCMD_READY. -/
def execSeqcmdReady (g : Grp) (s : State) := s.run (·.gridCommand g 2)

/-- SEQCMD_FORM. -/
def execSeqcmdForm (g : Grp) (s : State) := s.run (·.gridCommand g 3)

/-- SEQCMD_SYNC. -/
def execSeqcmdSync (g : Grp) (s : State) := s.run (·.gridCommand g 4)

/-- SEQCMD_ONLINE. -/
def execSeqcmdOnline (g : Grp) (s : State) := s.run (·.gridCommand g 5)

/-- SEQCMD_ISLAND. -/
def execSeqcmdIsland (g : Grp) (s : State) := s.run (·.gridCommand g 7)

/-- SEQCMD_TRIP. -/
def execSeqcmdTrip (g : Grp) (s : State) := s.run (·.gridCommand g 8)

/-- A transition of the figure's own, where none was made in the sample. -/
def Part.gridMove (p : Part) (g : Grp) (to_ : Nat) : Part :=
  let x := (p.cg g).grid
  p.setGrid g { x with mode := to_, acted := true }

/-- Whether a sample of the grid figure is in progress. -/
def Part.gridOpen (p : Part) (g : Grp) : Bool := p.gridRuns g && (p.cg g).open_

/-- PROFILE_VIOLATION: the figure trips with the cause, or logs it where RT_EN is clear; another violation is then
confirmed over a new period. -/
def execProfileViolation (g : Grp) (s : State) :=
  s.run (fun p =>
    let x := (p.cg g).grid
    match p.gridOpen g, p.gridViolation g x with
    | true, some cause =>
      if x.acted then p
      else if bitAt (gridProf x 0) 16 then p.setGrid g { x with mode := 8, cause := cause, acted := true }
      else
        let again : Option GridEpisode → Option GridEpisode := fun e => e.map (fun e => { e with beyond := none })
        (p.setGrid g (if cause = 1 then { x with uv := again x.uv } else { x with ov := again x.ov })).logEvent
          .profileViolation [g.ix, cause]
    | _, _ => p)

/-- PROFILE_EPISODE_END: an episode ends after one fundamental period at or inside the last voltage (R95). -/
def execProfileEpisodeEnd (g : Grp) (s : State) :=
  s.run (fun p =>
    let x := (p.cg g).grid
    let rest : Option GridEpisode → Option GridEpisode := fun e =>
      if e.any (fun e => e.inside.any (fun t => p.periodsSince g 1 t)) then none else e
    p.when (p.gridOpen g) (·.setGrid g { x with uv := rest x.uv, ov := rest x.ov }))

/-- A TRIP command with a valid cause waits (R79, R84). -/
def Part.gridTripWaits (p : Part) (g : Grp) (x : GridState) : Bool :=
  let cause := bits (p.gw g 256) 16 8
  p.gridAsked g x && bits (p.gw g 256) 0 8 = 8 && 0x10 ≤ cause && cause ≤ 0x16

/-- A violation that trips falls due. -/
def Part.gridTripsNow (p : Part) (g : Grp) (x : GridState) : Bool :=
  (p.gridViolation g x).isSome && bitAt (gridProf x 0) 16

/-- Whether the figure may make a transition of its own in the present sample: none was made, and neither a violation
nor a TRIP command comes first (R84). -/
def Part.gridFree (p : Part) (g : Grp) (x : GridState) : Bool :=
  p.gridOpen g && !x.acted && !p.gridTripsNow g x && !p.gridTripWaits g x

/-- RIDE_END. -/
def execRideEnd (g : Grp) (s : State) :=
  s.run (fun p =>
    let x := (p.cg g).grid
    p.when (p.gridFree g x && p.rideOver g x) (·.gridMove g (p.gridHome g)))

/-- FORM_RAMP_COMPLETE. -/
def execFormRampComplete (g : Grp) (s : State) :=
  s.run (fun p =>
    let x := (p.cg g).grid
    p.when (p.gridFree g x && p.rampOver g x) (·.gridMove g (p.gridHome g)))

/-- PREMAGNETISATION_END: after ten fundamental periods at 0.05 pu the ramp starts (R94). -/
def execPremagnetisationEnd (g : Grp) (s : State) :=
  s.run (fun p =>
    let x := (p.cg g).grid
    p.when (p.gridOpen g && x.mode = 3 && x.premag && p.periodsSince g 10 x.rampAt)
      (·.setGrid g { x with premag := false, rampAt := (p.cg g).t0 }))

/-- TRANSIENT_WINDOW_END: T_TR has passed; TR_WIN clears and the limit falls to ILIM_CONT over 20 ms (R59). -/
def execTransientWindowEnd (g : Grp) (s : State) :=
  s.run (fun p =>
    let x := (p.cg g).grid
    let t := (p.cg g).t0
    match p.gridOpen g, x.winAt with
    | true, some w =>
      if fpScaled (x.faultWords.getD 2 0) ≤ tauUnits (t - w) then
        p.setGrid g { x with winAt := none, fall := some (t, ofFp (x.faultWords.getD 1 0)) }
      else p
    | _, _ => p)

/-- TRANSIENT_REARM: the reference has stayed at or below ILIM_CONT for 10 s (R59). -/
def execTransientRearm (g : Grp) (s : State) :=
  s.run (fun p =>
    let x := (p.cg g).grid
    let ok := x.quietAt.any (fun t => t + sec 10 ≤ (p.cg g).t0)
    p.when (p.gridOpen g && ok && x.winAt.isNone) (·.setGrid g { x with armed := true }))

/-! The end of a sample. -/

/-- RFS_FLAGS (Table 2.9). -/
def gridFlags (x : GridState) : Word :=
  BitVec.ofNat 32 (([x.mode ≠ 0, x.ilim, x.guarded, x.term.hold, x.xtr, x.winAt.isSome, x.negLim, x.npLim, x.ovmod,
    x.meas.clamped] : List Bool).zipIdx.map (fun e => if e.1 then 2 ^ e.2 else 0)).sum

/-- Time since the inception of the present episode (R80). DESIGN CHOICE (log entry 62): of two that run together, since
the earlier inception. -/
def Part.gridTau (p : Part) (g : Grp) (x : GridState) : Word :=
  let t := (p.cg g).t0
  match x.uv, x.ov with
  | none, none => 0
  | some u, none => fpOfRat (t - u.start : Nat) (sec 1)
  | none, some o => fpOfRat (t - o.start : Nat) (sec 1)
  | some u, some o => fpOfRat (t - min u.start o.start : Nat) (sec 1)

/-- Export ports EP0 to EP22 (Table 2.8, Table 3.4, Table 3.5). -/
def Part.gridExports (p : Part) (g : Grp) (x : GridState) : List Word :=
  let m := x.meas
  [toFp x.w, x.th, x.term.th, wordOfInt (angleDiffInt x.th x.term.th), toFp m.pe, toFp x.qf, toFp m.v1m,
    toFp (qLen m.v2), toFp (qLen m.i1), toFp (qLen m.i2), toFp m.vdc, toFp m.vnp, gridFlags x, toFp x.xact, toFp x.iact,
    BitVec.ofNat 32 (x.seqAck * 2 ^ 24 + x.rej * 65536 + x.cause * 256 + x.mode),
    toFp m.vb, wordOfInt (angleDiffInt x.term.th x.bus.th), toFp (x.term.w - x.bus.w),
    toFp m.vu, wordOfInt (angleDiffInt x.term.th x.main.th), toFp (x.term.w - x.main.w), p.gridTau g x]

/-- The figure's PWM writes: blocked, every leg takes its all-off state, OFF or with independent lines exact 0 % on both
compares (R77, R205); switching, RUN with the duty of its phase. -/
def Part.gridWrites (p : Part) (g : Grp) (x : GridState) : Part :=
  let (ra, rb, rc) := x.refs
  p.each ((List.range 24).filter (fun q => Config.gridPhase (p.figId g) q < 3 && p.pairOn q && p.pairGrp q = g)) (fun p q =>
    if !gridSwitches x.mode then
      if p.pairIndep q then (p.votedDuty g q false 0).votedDuty g q true 0 else p.votedDuty g q true fpOne
    else
      let r := match Config.gridPhase (p.figId g) q with
        | 0 => ra
        | 1 => rb
        | _ => rc
      let d := if bits (p.gw g 0) 12 2 = 1 then r else Config.round (r + pu) 2
      (p.votedDuty g q true 0).votedDuty g q false (toFp d))

/-- Export ports of which a write of the present sample had no majority (R121): the positions of the sequence without a
decided word, by the words the lanes gave there; with fewer than two lanes left, every port. -/
def Part.contested (p : Part) (g : Grp) (k : Nat) : Bool :=
  let ms := p.members g
  ms.length < 2 || (p.cg g).voter.decided.zipIdx.any (fun e =>
    e.1.isNone && ms.any (fun n => ((p.lane n).out[e.2]?).any (fun w => w.addr = 0x10000 + k)))

/-- The end of a sample of the grid figure, in every sample (R47, R123): the transitions that have no command of their own,
the answers to what waits, the law under the mode that results, the exports that had a majority, and the PWM writes, which
a sample without majority takes back (R122). -/
def Part.gridFinish (p : Part) (g : Grp) : Part :=
  if !p.gridRuns g then p
  else
    let x := (p.cg g).grid
    let req := bits (p.gw g 256) 0 8
    let own := p.gridOwn g x
    let asked := p.gridAsked g x
    let trip := p.gridTripWaits g x
    let go := !x.acted && !p.gridTripsNow g x && !trip
      && (x.mode = 4 || (own = some 6 || (own.isSome && (x.mode = 5 || x.mode = 7))))
    let x := match go, own with
      | true, some m => { x with mode := m, acted := true }
      | _, _ => x
    let x := if asked && (8 < req || (req = 8 && !trip)) then p.gridAck g x 4
      else if asked && req ≤ 8 && x.acted then p.gridAck g x 2
      else if asked && req = 6 then p.gridAck g x 1
      else x
    let sw := gridSwitches x.mode
    let trig := sw && p.gridTrigger g x
    let x := if sw then p.gridLoops g x trig else p.gridTrack g x
    let busy := trig || x.uv.isSome || x.ov.isSome
    let x := { x with freeAt := if x.mode = 6 && !busy then some (x.freeAt.getD (p.cg g).t0) else none }
    let ep := (p.gridExports g x).zipIdx.filter (fun e => !p.contested g e.2)
    let p := (p.setGrid g x).onCg g (fun c =>
      { c with ep := ep.foldl (fun f e => sSet (fun _ => 0) f e.2 e.1) c.ep })
    p.gridWrites g x

/-! What a mirror frame carries (R72, R85). -/

/-- An instant moved between local tempo and ring time. -/
def movedBy (d : Int) (t : Instant) : Instant := ((t : Int) + d).toNat

/-- An episode with its instants moved. -/
def episodeMoved (d : Int) (e : GridEpisode) : GridEpisode :=
  { start := movedBy d e.start, beyond := e.beyond.map (movedBy d), inside := e.inside.map (movedBy d) }

/-- The MIRROR state of a figure, in ring time; `off` is ring time less local tempo. -/
def gridMirror (x : GridState) (off : Int) : GridMirror :=
  let m := movedBy off
  { mode := x.mode, seqAck := x.seqAck, th := x.th, w := x.w, termTh := x.term.th, termW := x.term.w,
    termHold := x.term.hold, qf := x.qf, xact := x.xact, xtr := x.xtr, winAt := x.winAt.map m, armed := x.armed,
    quietAt := x.quietAt.map m, fall := x.fall.map (fun e => (m e.1, e.2)), faultWords := x.faultWords,
    reson := x.reson, biq := x.biq, npLim := x.npLim, uv := x.uv.map (episodeMoved off), ov := x.ov.map (episodeMoved off),
    freeAt := x.freeAt.map m, premag := x.premag, rampAt := m x.rampAt, tbs := x.tbs }

/-- A standby's figure takes the MIRROR state of the active part; all else stays its own. -/
def gridTake (x : GridState) (off : Int) (y : GridMirror) : GridState :=
  let m := movedBy (-off)
  { x with
    mode := y.mode, seqAck := y.seqAck, th := y.th, w := y.w,
    term := { x.term with th := y.termTh, w := y.termW, hold := y.termHold }, qf := y.qf, xact := y.xact, xtr := y.xtr,
    winAt := y.winAt.map m, armed := y.armed, quietAt := y.quietAt.map m, fall := y.fall.map (fun e => (m e.1, e.2)),
    faultWords := y.faultWords, reson := y.reson, biq := y.biq, npLim := y.npLim, uv := y.uv.map (episodeMoved (-off)),
    ov := y.ov.map (episodeMoved (-off)), freeAt := y.freeAt.map m, premag := y.premag, rampAt := m y.rampAt, tbs := y.tbs }

/-- The library's state with its instants moved, between local tempo and ring time (R85). -/
def libMoved (x : SeqLib) (d : Int) : SeqLib :=
  let one : Instant → Instant := fun t => ((t : Int) + d).toNat
  { x with
    since := one x.since, held := x.held.map one, dead := x.dead.map one, inRange := x.inRange.map one,
    out := x.out.map one, cbAt := x.cbAt.map one, fbAt := x.fbAt.map one, rampEnd := x.rampEnd.map one,
    lastCycle := one x.lastCycle, vdc := x.vdc.map (fun e => (one e.1, e.2)) }

/-- MODE for HOST_STATUS: that of the group that runs the grid figure, A first (R78). -/
def Part.hostMode (p : Part) : Nat :=
  if p.groupRuns .A && p.gridRuns .A then p.fld (Reg.CLE_EP 0 15) 0 8
  else if p.groupRuns .B && p.gridRuns .B then p.fld (Reg.CLE_EP 1 15) 0 8
  else 0

end Sys2Proof.Machine
end

