-- ==== Sys2Proof/Machine/Sha3.lean ====
section
/-! DEFINITION. The digest SHA3-512 (R423, FIPS 202), and the measurement register that is extended with digests
(R427). -/

namespace Sys2Proof.Machine

/-- The state of the permutation: 25 words of 64 bits; the word of column x and row y stands at 5·y + x. -/
abbrev Sponge := List (BitVec 64)

/-- The columns, each the exclusive or of its five words. -/
def columnParity (a : Sponge) : List (BitVec 64) :=
  (List.range 5).map (fun x => (List.range 5).foldl (fun w y => w ^^^ a.getD (5 * y + x) 0) 0)

/-- The step θ: a word takes up the parity of the column before it, and that of the column after it turned by one. -/
def stepTheta (a : Sponge) : Sponge :=
  let par := columnParity a
  a.mapIdx (fun k w => w ^^^ par.getD ((k + 4) % 5) 0 ^^^ (par.getD ((k + 1) % 5) 0).rotateLeft 1)

/-- The steps ρ and π at once: FIPS 202 defines both along the walk (x, y) → (y, 2·x + 3·y) from (1, 0). The word met
at step t turns by (t + 1)·(t + 2)/2 and moves to the place met next. -/
def stepWalk (src : Sponge) : Nat → Nat → Nat → Sponge → Sponge
  | 0, _, _, dst => dst
  | left + 1, x, y, dst =>
    let y' := (2 * x + 3 * y) % 5
    let turn := (24 - left) * (25 - left) / 2 % 64
    stepWalk src left y y' (dst.set (5 * y' + y) ((src.getD (5 * y + x) 0).rotateLeft turn))

/-- The step χ: within a row, a word takes up the word two further on where the next one is 0. -/
def stepChi (a : Sponge) : Sponge :=
  a.mapIdx (fun k w =>
    let row := k / 5 * 5
    w ^^^ (a.getD (row + (k + 2) % 5) 0 &&& ~~~ a.getD (row + (k + 1) % 5) 0))

/-- The shift register of the step ι (FIPS 202, algorithm 5), `t` clocks from 1: taps at bits 0, 4, 5 and 6. -/
def iotaRegister : Nat → Nat
  | 0 => 1
  | t + 1 =>
    let r := 2 * iotaRegister t
    if 256 ≤ r then (r - 256) ^^^ 0x71 else r

/-- The constant of a round: bit 2^j − 1 is the low bit of the register after j + 7·round clocks. -/
def iotaWord (r : Nat) : BitVec 64 :=
  BitVec.ofNat 64 (((List.range 7).map (fun j => iotaRegister (j + 7 * r) % 2 * 2 ^ (2 ^ j - 1))).sum)

/-- Round `r` of the permutation. -/
def spongeRound (a : Sponge) (r : Nat) : Sponge :=
  let a := stepTheta a
  (stepChi (stepWalk a 24 1 0 a)).modify 0 (· ^^^ iotaWord r)

/-- Take a block of 72 bytes: nine words enter the first places, and the 24 rounds follow. -/
def Sponge.absorb (a : Sponge) (block : List Byte) : Sponge :=
  let enter := a.mapIdx (fun k w => w ^^^ BitVec.ofNat 64 (numOf ((block.drop (8 * k)).take 8)))
  (List.range 24).foldl spongeRound enter

/-- SHA3-512 of bytes. -/
def sha3 (bs : List Byte) : List Byte :=
  let n := bs.length / 72 + 1
  let gap := 72 * n - bs.length
  let tail : List Byte := if gap = 1 then [0x86] else (0x06 : Byte) :: List.replicate (gap - 2) 0 ++ [0x80]
  let m := bs ++ tail
  let a := (List.range n).foldl (fun (a : Sponge) i => a.absorb ((m.drop (72 * i)).take 72)) (List.replicate 25 0)
  (a.take 8).flatMap (fun w => bytesOf 8 w.toNat)

/-- The 64 bytes of SEC_MEAS. -/
def Part.measBytes (p : Part) : List Byte := (List.range 16).flatMap (fun i => bytesOf 4 (p.reg (Reg.SEC_MEAS i)).toNat)

/-- Extend the measurement register with the digest of an item (R427): M ← SHA3-512(M ‖ d), and an entry of the
measurement log, which holds 256. -/
def Part.measure (p : Part) (kind : Nat) (d : List Byte) : Part :=
  let m := sha3 (p.measBytes ++ d)
  let p := p.each (List.range 16) (fun p i => p.setReg (Reg.SEC_MEAS i) (BitVec.ofNat 32 (numOf ((m.drop (4 * i)).take 4))))
  let p := p.raise Reg.SEC_EVT 0
  if 256 ≤ p.measLog.length then p
  else
    let e : MeasEntry := { kind := kind, time := p.ringNow, digest := d }
    { p with measLog := p.measLog ++ [e] }.countSat Reg.SEC_MEASCNT 0 9

end Sys2Proof.Machine
end

