-- ==== Sys2Proof/Machine/Safe.lean ====
section
/-! DEFINITION. The two safety channels (chapter 15): input filters and test pulses, functions, guard locks, SS1,
contactors, comparison and channel faults, resets, and the acknowledgement of a new configuration. Nothing a step of
another block does enters here but the request registers and the read-only taps. -/

namespace Sys2Proof.Machine

/-! The table in force (Tables 15.4 and 15.5). -/

/-- Word at a byte offset of a table. -/
def tabWord (t : List Word) (off : Nat) : Word := t.getD (off / 4) 0

/-- Word at a byte offset of the table in force. -/
def Part.sw (p : Part) (off : Nat) : Word := tabWord (p.safe.cfg.getD []) off

/-- Word 0 of input `i`. -/
def Part.inCfg (p : Part) (i : Nat) : Word := p.sw (0x40 + 16 * i)

/-- Word 0 of function `f`. -/
def Part.fnCfg (p : Part) (f : Nat) : Word := p.sw (0xC0 + 16 * f)

/-- Word 0 of contactor `n`. -/
def Part.ctCfg (p : Part) (n : Nat) : Word := p.sw (0x1C0 + 16 * n)

/-- Word `k` of axis `a`. -/
def Part.axCfg (p : Part) (a k : Nat) : Word := p.sw (0x200 + 32 * a + 4 * k)

/-- Enabled functions. -/
def Part.fns (p : Part) : List Nat := (List.range 16).filter (fun f => bitAt (p.fnCfg f) 31)

/-- Enabled functions that name contactor `n`. -/
def Part.fnsOf (p : Part) (n : Nat) : List Nat := p.fns.filter (fun f => bitAt (p.fnCfg f) (20 + n))

/-- The number with the bits of a list set. -/
def maskOf (l : List Nat) : Nat := l.foldl (fun m f => m ||| 2 ^ f) 0

/-! Channels. -/

/-- Channel `c`: 0 for S1, 1 for S2. -/
def Part.sch (p : Part) (c : Nat) : SafeCh := vget {} p.safe.ch c

/-- Replace a channel. -/
def Part.setSch (p : Part) (c : Nat) (x : SafeCh) : Part := { p with safe := { p.safe with ch := vset p.safe.ch c x } }

/-- Change a channel. -/
def Part.onSch (p : Part) (c : Nat) (f : SafeCh → SafeCh) : Part := p.setSch c (f (p.sch c))

/-- An entry of the safety log, queue Q31 (R411); the spec gives no layout of its detail, which is free. -/
def Part.safeLog (p : Part) (code c obj : Nat) : Part :=
  let d := bytesOf 8 p.fresh.toNat
  p.taken.produce 31 (bytesOf 4 (code * 2 ^ 24 + (c + 1) * 2 ^ 22 + obj) ++ bytesOf 4 (instNs p.ringNow)
    ++ bytesOf 4 (instSec p.ringNow) ++ (d ++ d ++ d).take 20)

/-- Note the last code of a function. -/
def Part.fnNote (p : Part) (f code : Nat) : Part := p.setFld (Reg.SAFE_FNSTAT f) 0 8 code

/-- Pin `2i + b` of a channel. -/
def SafeCh.pin (x : SafeCh) (k : Nat) : SafePin := vget {} x.pins k

/-- Input `i` of a channel. -/
def SafeCh.inp (x : SafeCh) (i : Nat) : SafeInput := vget {} x.inputs i

/-- Axis `a` of a channel. -/
def SafeCh.axis (x : SafeCh) (a : Nat) : SafeAxis := vget {} x.axes a

/-- Contactor `n` of a channel. -/
def SafeCh.cont (x : SafeCh) (n : Nat) : SafeCont := vget {} x.conts n

/-- Replace an axis. -/
def SafeCh.setAxis (x : SafeCh) (a : Nat) (y : SafeAxis) : SafeCh := { x with axes := vset x.axes a y }

/-- Replace a contactor. -/
def SafeCh.setCont (x : SafeCh) (n : Nat) (y : SafeCont) : SafeCh := { x with conts := vset x.conts n y }

/-! Inputs (R396, R397). -/

/-- Whether a pin shows demand: its level is the demanding one of its type (Table 15.5). -/
def Part.pinShows (p : Part) (x : SafeCh) (k : Nat) : Bool :=
  let y := x.pin k
  let anti := bits (p.inCfg (k / 2)) 29 2 = 1
  y.known && (if anti && k % 2 = 1 then y.lvl else !y.lvl)

/-- Whether an input has a fault: a discrepancy or a test-pulse fault of one of its pins. -/
def Part.inputFault (p : Part) (x : SafeCh) (i : Nat) : Bool :=
  bitAt (p.inCfg i) 31 && ((x.inp i).disc ≠ 0 || (x.pin (2 * i)).test || (x.pin (2 * i + 1)).test)

/-- Whether an input demands: a pin of it does, or a fault stands. -/
def Part.inputDemands (p : Part) (x : SafeCh) (i : Nat) : Bool :=
  let single := bits (p.inCfg i) 29 2 = 2
  bitAt (p.inCfg i) 31 && (p.pinShows x (2 * i) || (!single && p.pinShows x (2 * i + 1)) || p.inputFault x i)

/-- The test-pulse output that a pin is assigned to: 0 to 3 for TPA0, TPA1, TPB0, TPB1. -/
def Part.pinSource (p : Part) (k : Nat) : Option Nat :=
  let w := p.inCfg (k / 2)
  if k % 2 = 0 then ([none, some 0, some 1, some 2] : List (Option Nat)).getD (bits w 26 2) none
  else ([none, some 2, some 3, some 1] : List (Option Nat)).getD (bits w 24 2) none

/-- Length of a test pulse's window: a pin must show the pulse within 600 µs of its start. -/
def testWindow : Nat := usec 600

/-- A level that has stood long enough counts; a press of the pin is its time at the high level. -/
def SafePin.settle (y : SafePin) (filt : Nat) (t : Instant) : SafePin :=
  if t < y.since + filt || (y.known && y.lvl = y.raw) then y
  else
    let y := { y with lvl := y.raw, known := true }
    if y.raw then { y with rose := some t }
    else match y.rose with
      | some a => { y with rose := none, press := some (a, t) }
      | none => y

/-- One sample of a pin. -/
def SafePin.sample (y : SafePin) (lvl : Bool) (filt ossd : Nat) (src pulse : Option Instant) (t : Instant) : SafePin :=
  match pulse with
  | some s =>
    if t ≤ s + testWindow then { y with seen := y.seen || !lvl }
    else
      let y := { y with test := !y.seen }
      (if lvl ≠ y.raw then { y with raw := lvl, since := t } else y).settle filt t
  | none =>
    if src.isSome || lvl then
      let y := { y with low := none }
      (if lvl ≠ y.raw then { y with raw := lvl, since := t } else y).settle filt t
    else
      let at0 := y.low.getD t
      let y := { y with low := some at0 }
      if y.raw && t < at0 + ossd then y
      else (if y.raw then { y with raw := false, since := at0 } else y).settle filt t

/-- The sample of one pin of a channel. -/
def Part.pinSample (p : Part) (x : SafeCh) (pins : Nat) (t : Instant) (k : Nat) : SafeCh :=
  let i := k / 2
  if !bitAt (p.inCfg i) 31 then x
  else
    let w1 := p.sw (0x44 + 16 * i)
    let src := p.pinSource k
    let pulse := src.bind (fun o => (p.safe.pulses.find? (fun e => e.1 = o)).map (·.2))
    { x with pins := vset x.pins k ((x.pin k).sample (pins.testBit k) (usec (100 * bits w1 0 5)) (usec (10 * bits w1 8 8))
        (src.map (fun _ => 0)) pulse t) }

/-- Disagreement of a dual input's pins, and the way out of a discrepancy fault. -/
def Part.inputStep (p : Part) (x : SafeCh) (t : Instant) (i : Nat) : SafeCh :=
  let a := p.pinShows x (2 * i)
  let b := p.pinShows x (2 * i + 1)
  let y := x.inp i
  let dual := bitAt (p.inCfg i) 31 && bits (p.inCfg i) 29 2 ≠ 2
  let disc := if y.disc = 1 && a && b then 2 else if y.disc = 2 && !a && !b then 0 else y.disc
  let y : SafeInput := { apart := if dual && a ≠ b then some (y.apart.getD t) else none, disc := disc }
  { x with inputs := vset x.inputs i y }

/-- Feedback of a contactor at a sample: closed or open when both pins say so. -/
def feedbackOf (high : Bool) (a b : Bool) : Option Bool :=
  if a = b then some (if high then a else !a) else none

/-- A set of functions comes into demand on a channel (R398): each new one is logged, its axes start SS1 or STO is due at
once, by its category (R400). -/
def Part.demandFns (p : Part) (c : Nat) (fs : List Nat) (log : Bool) (t : Instant) : Part :=
  let new := fs.filter (fun f => !(p.sch c).demand.testBit f)
  p.each new (fun p f =>
    let w := p.fnCfg f
    let p := p.when log (fun p => (p.safeLog 0x60 c f).fnNote f 0x60)
    let axes := (List.range 2).filter (fun a => bitAt w (24 + a))
    let p := p.onSch c (fun x => { x with
      demand := x.demand ||| 2 ^ f, fresh := x.fresh ||| 2 ^ f, rst := x.rst &&& (0xFFFF ^^^ 2 ^ f) })
    if bitAt w 28 && !axes.isEmpty && !(p.sch c).sto then
      p.onSch c (fun x => axes.foldl (fun x a =>
        if (x.axis a).ss1.isSome then x
        else x.setAxis a { x.axis a with ss1 := some (t, (x.axis a).m), ready := false, fail := false }) x)
    else p.onSch c (fun x => { x with stoDue := true }))

/-! Outputs (R391, R394, R399, R402). -/

/-- Whether the channels hold the lock of DOOR function `f` closed. -/
def Part.locked (p : Part) (x : SafeCh) (f : Nat) : Bool :=
  let w := p.fnCfg f
  let axes := (List.range 2).filter (fun a => bitAt w (24 + a))
  let unlock := if f < 8 then bitAt x.req f else bitAt x.req1 (f - 8)
  !(x.sto && axes.all (fun a => (x.axis a).ss1.isNone) && unlock)

/-- The DOOR function whose lock output `n` is. -/
def Part.lockOf (p : Part) (n : Nat) : Option Nat :=
  p.fns.find? (fun f => bits (p.fnCfg f) 29 2 = 1 && bits (p.fnCfg f) 0 2 = n)

/-- Whether contactor `n` is commanded closed. -/
def Part.closes (p : Part) (x : SafeCh) (n : Nat) : Bool :=
  let w := p.ctCfg n
  let y := x.cont n
  if bitAt w 30 then !x.sto
  else bitAt w 31 && bitAt x.req (8 + n) && !x.sto && (p.fnsOf n).all (fun f => !x.demand.testBit f)
    && !y.weld && !y.late && !y.spur

/-- The level of SOn. -/
def Part.soLevel (p : Part) (x : SafeCh) (n : Nat) : Bool :=
  match p.lockOf n with
  | some f => xor (p.locked x f) (bitAt (p.fnCfg f) 26)
  | none => !bitAt (p.ctCfg n) 30 && p.closes x n

/-- The channels are in the safe state of R394: no configuration, a channel fault, or PFAIL. -/
def Part.safeState (p : Part) : Bool := p.safe.cfg.isNone || p.safe.fault || p.safe.pfail

/-- A channel commands its outputs. -/
def Part.safeOutputs (p : Part) (c : Nat) (t : Instant) : Part :=
  p.onSch c (fun x =>
    let outs := if p.safeState then 0
      else (!x.sto).toNat + ((List.range 4).map (fun n => (p.soLevel x n).toNat * 2 ^ (n + 1))).sum
    let x := (List.range 4).foldl (fun x n =>
      let cmd := !p.safeState && p.closes x n
      if cmd = (x.cont n).cmd then x else x.setCont n { x.cont n with cmd := cmd, since := t }) x
    { x with outs := outs })

/-- STO comes into force on a channel, or its release. -/
def SafeCh.setSto (x : SafeCh) (on : Bool) (t : Instant) : SafeCh :=
  if x.sto = on then { x with stoDue := false }
  else
    let x := { x with sto := on, stoAt := t, stoDue := false, clear := false }
    if on then { x with axes := x.axes.map (fun a => { a with ss1 := none, ready := false }) } else x

/-- A number from truth values, the first in bit 0. -/
def bitsOf (l : List Bool) : Nat := l.foldr (fun b n => b.toNat + 2 * n) 0

/-- Show the channels in the SAFE registers and hold the gates by rank 1 while STO_A or STO_B is low (Tables 15.11 and
7.7, R394). -/
def Part.showSafe (p : Part) (t : Instant) : Part :=
  let a := p.sch 0
  let b := p.sch 1
  let low := a.outs % 2 = 0 || b.outs % 2 = 0
  let demand := a.demand ||| b.demand
  let p := p.setReg Reg.SAFE_OUT (BitVec.ofNat 32 (b.outs % 2 * 512 + a.outs % 2 * 256 + b.outs / 2 * 16 + a.outs / 2))
  let ss := (List.range 2).map (fun k => (a.axis k).ss1.isSome || (b.axis k).ss1.isSome)
  let p := (((p.setBit Reg.SAFE_STAT 31 low).setBit Reg.SAFE_STAT 30 p.safe.fault).setBit Reg.SAFE_STAT 29
    p.safe.cfg.isNone).setFld Reg.SAFE_STAT 24 2 (bitsOf ss) |>.setFld Reg.SAFE_STAT 0 16 demand
  let ins := List.range 8
  let p := p.setReg Reg.SAFE_INSTAT (BitVec.ofNat 32 (
    bitsOf (ins.map (fun i => p.inputFault a i || p.inputFault b i)) * 2 ^ 24
    + bitsOf (ins.map (fun i => p.inputDemands a i || p.inputDemands b i)) * 2 ^ 16
    + bitsOf ((List.range 16).map (fun k => (a.pin k).lvl))))
  let cs := List.range 4
  let both := fun (f : SafeCont → Bool) => bitsOf (cs.map (fun n => f (a.cont n) || f (b.cont n)))
  let p := p.setReg Reg.SAFE_CFSTAT (BitVec.ofNat 32 (both (·.weld) * 2 ^ 12 + both (·.late) * 2 ^ 8
    + both (·.spur) * 16 + bitsOf (cs.map (fun n => (a.cont n).fb = some true))))
  let p := p.each (List.range 16) (fun p f =>
    let r := Reg.SAFE_FNSTAT f
    ((p.setBit r 31 (demand.testBit f)).setBit r 30 ((a.rst ||| b.rst).testBit f)).setBit r 29
      (bitAt (p.fnCfg f) 31 && bits (p.fnCfg f) 29 2 = 1 && p.locked a f && p.locked b f))
  let p := p.each (List.range 2) (fun p k =>
    let r := Reg.SAFE_AXSTAT k
    (((p.setBit r 31 (ss.getD k false)).setBit r 30 (a.axis k).ready).setBit r 29 (b.axis k).ready).setBit r 28
      ((a.axis k).fail || (b.axis k).fail)
      |>.setReg (Reg.SAFE_AXM1 k) (a.axis k).m |>.setReg (Reg.SAFE_AXM2 k) (b.axis k).m)
  if low = p.stoHold then p else (p.setBit Reg.GATE_STAT 29 low).evalLegs t

/-- A channel fault (R393): both channels take the safe state, the first one is latched, and a configuration that is
being loaded fails (R404). -/
def Part.safeFault (p : Part) (c code : Nat) (t : Instant) : Part :=
  let first := !p.safe.fault
  let p := p.safeLog code c 0
  let p := p.when first (·.setReg Reg.SAFE_FAULT (BitVec.ofNat 32 (code * 2 ^ 24 + (c + 1) * 2 ^ 22)))
  let slot := p.safe.load.map (·.2.1)
  let p := { p with safe := { p.safe with fault := true, load := none } }
  let p := (p.opErr? 6 slot).when slot.isSome (·.setFld Reg.SAFE_STAT 27 2 0)
  let p := p.each [0, 1] (fun p c => (p.onSch c (·.setSto true t)).safeOutputs c t)
  p.showSafe t

/-- The effect of a channel's step on its outputs is shown. -/
def Part.safeEnd (p : Part) (c : Nat) (t : Instant) : Part := (p.safeOutputs c t).showSafe t

/-! Samples, cycles and frames (R392, R396). -/

/-- Feedback pins at a sample: a change that no command explains is FBSPUR (Table 15.2). -/
def Part.contSample (p : Part) (c cf : Nat) (t : Instant) (n : Nat) : Part :=
  let w := p.ctCfg n
  if !bitAt w 31 then p
  else
    let y := (p.sch c).cont n
    match feedbackOf (bitAt w 29) (cf.testBit (2 * n)) (cf.testBit (2 * n + 1)) with
    | none => p
    | some fb =>
      let spur := y.fb = some (!fb) && y.since + msec (bits w 0 9) < t
      let p := p.onSch c (fun x => x.setCont n { y with fb := some fb, spur := y.spur || spur })
      if spur then
        let p := (p.safeLog 0x22 c n).onSch c (fun x => { x with stoDue := true })
        p.demandFns c (p.fnsOf n) false t
      else p

/-- SAFETY_INPUT_SAMPLE: a channel samples and filters its inputs and feedback pins, and reads back the pins it drives:
STO, SO0 to SO3 and its two test-pulse outputs; a disagreement of 300 µs is a channel fault (R391, R393, R396). A pin that
did not show its test pulse is logged (R397). -/
def Part.safeSample (p : Part) (c pins cf outs : Nat) (t : Instant) : Part :=
  let p := p.at t
  let x := (List.range 16).foldl (fun x k => p.pinSample x pins t k) (p.sch c)
  let x := (List.range 8).foldl (fun x i => p.inputStep x t i) x
  let tp : Nat → Nat := fun k =>
    if p.safe.pulses.any (fun e => e.1 = 2 * c + k && e.2 ≤ t && t < e.2 + usec 200) then 0 else 1
  let bad := outs ≠ x.outs + tp 0 * 32 + tp 1 * 64
  let x := { x with bad := if bad then some (x.bad.getD t) else none }
  let tests := (List.range 16).filter (fun k => (x.pin k).test && !((p.sch c).pin k).test)
  let p := (p.setSch c x).each tests (fun p k => p.safeLog 0x11 c (k / 2))
  let p := p.each (List.range 4) (fun p n => p.contSample c cf t n)
  match x.bad with
  | some s => if s + usec 300 ≤ t && !p.safe.fault then p.safeFault c 5 t else p.showSafe t
  | none => p.showSafe t

/-- SAFETY_INPUT_SAMPLE. -/
def execSafetyInputSample (ch : Fin 2) (pins : BitVec 16) (cf : BitVec 8) (outs : BitVec 7) (t : Instant) (s : State) :=
  s.run (·.safeSample ch.val pins.toNat cf.toNat outs.toNat t)

/-- The measurement of an axis (R400): the speed of a position interface, or the current vector of two fast paths. -/
def Part.axisMeasure (p : Part) (c a : Nat) : Word :=
  let src := bits (p.axCfg a 0) (8 * c) 6
  if src < 4 then p.reg (Reg.POS_SPEED src)
  else Config.vecMag (p.reg (Reg.SENSE_FAST (src - 0x20))) (p.reg (Reg.SENSE_FAST (src - 0x1F)))

/-- The envelope |m| ≤ |m0| + VTOL − RDEC·t of SS1, with t counted from the demand. -/
def Part.envelopeOk (p : Part) (a : Nat) (m m0 : Word) (dt : Nat) : Bool :=
  fpFinite m && fpFinite m0 &&
    decide ((fpScaled m).natAbs * (sec 1 : Int)
      ≤ ((fpScaled m0).natAbs + fpScaled (p.axCfg a 1)) * (sec 1 : Int) - fpScaled (p.axCfg a 2) * dt)

/-- The causes of demand of a function that stand at a channel (R398, R399, R395). -/
def Part.fnCause (p : Part) (x : SafeCh) (f : Nat) : Bool :=
  let w := p.fnCfg f
  p.safe.pfail || (match bits w 29 2 with
    | 0 => p.inputDemands x (bits w 12 3)
    | 1 => p.inputDemands x (bits w 12 3) || x.unlocked.any (fun e => e.1 = f)
    | _ => bitAt x.req (16 + f))

/-- The lock feedback of every DOOR function at a cycle: unlocked while the lock is commanded closed. -/
def Part.lockStep (p : Part) (x : SafeCh) (t : Instant) : SafeCh :=
  { x with unlocked := (p.fns.filter (fun f => bits (p.fnCfg f) 29 2 = 1)).filterMap (fun f =>
      let i := bits (p.fnCfg f) 8 3
      if p.locked x f && (p.pinShows x (2 * i) || p.pinShows x (2 * i + 1)) then
        some (f, ((x.unlocked.find? (fun e => e.1 = f)).map (·.2)).getD t)
      else none) }

/-- Whether a fault of a function's inputs, contactors or axes remains (R401). -/
def Part.fnFault (p : Part) (x : SafeCh) (f : Nat) : Bool :=
  let w := p.fnCfg f
  (bits w 29 2 ≠ 2 && p.inputFault x (bits w 12 3))
    || (bits w 29 2 = 1 && p.inputFault x (bits w 8 3))
    || (List.range 4).any (fun n => bitAt w (20 + n) && ((x.cont n).weld || (x.cont n).late || (x.cont n).spur)
        && (x.cont n).fb ≠ some (x.cont n).cmd)

/-- A channel accepts the reset of functions whose cause is gone (R401): contactor faults whose condition is over go
with it. A reset in the cycle in which a new demand arises is refused (R404). -/
def Part.safeReset (p : Part) (c : Nat) (fs : List Nat) : Part :=
  let ok := fs.filter (fun f =>
    let x := p.sch c
    x.demand.testBit f && x.fresh = 0 && !p.fnCause x f && !p.fnFault x f && !x.rst.testBit f)
  p.each ok (fun p f =>
    let w := p.fnCfg f
    let p := (p.safeLog 0x61 c f).fnNote f 0x61
    p.onSch c (fun x =>
      let x := { x with rst := x.rst ||| 2 ^ f, lockFault := x.lockFault &&& (0xFFFF ^^^ 2 ^ f) }
      (List.range 4).foldl (fun x n =>
        if bitAt w (20 + n) || (p.fnsOf n).isEmpty then
          x.setCont n { x.cont n with weld := false, late := false, spur := false }
        else x) x))

/-- One axis in a cycle: the measurement, and the envelope while SS1 runs; a broken envelope brings STO at once. -/
def Part.axisStep (p : Part) (c : Nat) (t : Instant) (a : Nat) : Part :=
  let m := p.axisMeasure c a
  let x := p.sch c
  let y := { x.axis a with m := m }
  match y.ss1 with
  | none => p.setSch c (x.setAxis a y)
  | some (t0, m0) =>
    if p.envelopeOk a m m0 (t - t0) then
      p.setSch c (x.setAxis a { y with ready := fpFinite m && decide (((fpScaled m).natAbs : Int) ≤ fpScaled (p.axCfg a 3)) })
    else ((p.setSch c { x.setAxis a { y with fail := true } with stoDue := true }).safeLog 0x30 c a)

/-- Whether every enabled input has a settled level. -/
def Part.inputsKnown (p : Part) (x : SafeCh) : Bool :=
  (List.range 8).all (fun i => !bitAt (p.inCfg i) 31
    || ((x.pin (2 * i)).known && (bits (p.inCfg i) 29 2 = 2 || (x.pin (2 * i + 1)).known)))

/-- The time from the input crossing to STO, in µs: the largest is kept in SAFE_RTMAX. -/
def Part.reaction (p : Part) (c : Nat) (t : Instant) : Part :=
  let x := p.sch c
  let since := (p.fns.filter (fun f => x.fresh.testBit f && bits (p.fnCfg f) 29 2 ≠ 2)).flatMap (fun f =>
    let i := bits (p.fnCfg f) 12 3
    [2 * i, 2 * i + 1].filterMap (fun k => if p.pinShows x k then some (x.pin k).since else none))
  let us := since.foldl (fun m s => max m ((t - s + usec 1 - 1) / usec 1)) 0
  p.setReg Reg.SAFE_RTMAX (BitVec.ofNat 32 (max (p.reg Reg.SAFE_RTMAX).toNat us))

/-- The end of a cycle: STO that is due comes into force; STO whose every function is reset is released (R401). -/
def Part.cycleEnd (p : Part) (c : Nat) (t : Instant) : Part :=
  let x := p.sch c
  let faults := (List.range 4).any (fun n => (x.cont n).weld || (x.cont n).spur) || x.lockFault ≠ 0
  if x.stoDue then (p.reaction c t).onSch c (·.setSto true t)
  else if x.sto && x.clear && x.demand = 0 && !faults && !p.safeState && p.inputsKnown x then p.onSch c (·.setSto false t)
  else p

/-- The comparison frame of a channel. -/
def Part.safeFrame (p : Part) (c : Nat) : SafeFrame :=
  let x := p.sch c
  { pins := bitsOf ((List.range 16).map (fun k => (x.pin k).lvl)), demand := x.demand, rst := x.rst,
    ready := (List.range 2).map (fun a => (x.axis a).ready), axes := (List.range 2).map (fun a => (x.axis a).m),
    outs := x.outs, crc := p.reg (if c = 0 then Reg.SAFE_CRC1 else Reg.SAFE_CRC2), cycles := x.cycles }

/-- SAFETY_CYCLE: a channel reads the requests (R404), judges its functions, locks, axes and resets, commands its outputs
and sends a comparison frame; a self-test that fails is a channel fault (R392, R393). -/
def Part.safeCycle (p : Part) (c : Nat) (selfOk : Bool) (t : Instant) : Part :=
  let p := p.at t
  let req := p.reg Reg.SYS_SAFEREQ
  let rise := bitAt req 15 && !bitAt (p.sch c).req 15
  let p := p.onSch c (fun x => { x with
    req := req, req1 := p.reg Reg.SYS_SAFEREQ_1, fresh := 0, cycles := x.cycles + 1, frameCycles := x.frameCycles + 1 })
  let p := p.onSch c (fun x => p.lockStep x t)
  let p := p.each ((List.range 2).filter (fun a => bitAt (p.axCfg a 0) 31)) (fun p a => p.axisStep c t a)
  let p := p.demandFns c (p.fns.filter (fun f => p.fnCause (p.sch c) f)) true t
  let p := p.when rise (fun p => p.safeReset c (p.fns.filter (fun f => bitAt (p.fnCfg f) 27)))
  let p := (p.cycleEnd c t).safeOutputs c t
  let p := p.onSch c (fun x => { x with frame := some (p.safeFrame c) })
  if selfOk then p.showSafe t else p.safeFault c 4 t

/-- SAFETY_CYCLE. -/
def execSafetyCycle (ch : Fin 2) (selfOk : Bool) (t : Instant) (s : State) := s.run (·.safeCycle ch.val selfOk t)

/-- The count of the other channel's frames on the own oscillator: 100 frames must take 98 to 102 cycles (R393). -/
def Part.oscillator (p : Part) (c : Nat) (t : Instant) : Part :=
  let x := p.sch c
  if x.frames + 1 < 100 then p.setSch c { x with frames := x.frames + 1 }
  else
    let n := x.frameCycles
    let p := p.setSch c { x with frames := 0, frameCycles := 0 }
    if n < 98 || 102 < n then p.safeFault c 3 t else p

/-- SAFETY_COMPARISON_FRAME: a channel adopts the other's demands and compares the rest (R392). A reset that both
channels have accepted takes effect; READY of both on an axis brings STO (R400). -/
def Part.safeCompare (p : Part) (c : Nat) (t : Instant) : Part :=
  let p := p.at t
  match (p.sch (1 - c)).frame with
  | none => p
  | some o =>
    let p := p.demandFns c (p.fns.filter (fun f => o.demand.testBit f && !o.rst.testBit f
      && !(p.sch c).rst.testBit f)) false t
    let x := p.sch c
    let done := p.fns.filter (fun f => x.rst.testBit f && (o.rst.testBit f || !o.demand.testBit f))
    let ended := done.filter (fun f => !o.demand.testBit f && !x.demand.testBit f)
    let ready := (List.range 2).any (fun a => (x.axis a).ss1.isSome && (x.axis a).ready && o.ready.getD a false)
    -- STO of the other channel under a demand that it has not reset is this channel's as well (R392, R400)
    let follows := o.outs % 2 = 0 && p.fns.any (fun f => o.demand.testBit f && !o.rst.testBit f)
    let keep := 0xFFFF ^^^ maskOf done
    let me := p.safeFrame c
    let differ := me.pins ≠ o.pins || me.outs ≠ o.outs || me.cycles + 1 < o.cycles || o.cycles + 1 < me.cycles
    let axDiffer := (List.range 2).any (fun a => bitAt (p.axCfg a 0) 31
      && !fpLe (fpAbs (fpSub (x.axis a).m (o.axes.getD a 0))) (p.axCfg a 4))
    let p := p.setSch c { x with
      demand := x.demand &&& keep, rst := x.rst &&& (0xFFFF ^^^ maskOf ended), clear := x.clear || !done.isEmpty,
      stoDue := x.stoDue || ready || (follows && !x.sto), got := t, diffs := if differ then x.diffs + 1 else 0,
      axDiffs := if axDiffer then x.axDiffs + 1 else 0 }
    let p := p.setReg Reg.SAFE_CMPCNT (p.reg Reg.SAFE_CMPCNT + 1)
    let y := p.sch c
    let p := if 2 ≤ y.diffs || 2 ≤ y.axDiffs || me.crc ≠ o.crc then p.safeFault c 1 t else p
    (p.oscillator c t).safeEnd c t

/-- SAFETY_COMPARISON_FRAME. -/
def execSafetyComparisonFrame (ch : Fin 2) (t : Instant) (s : State) := s.run (·.safeCompare ch.val t)

/-- SAFETY_FRAME_LOST: no frame for 2.5 ms (R393). -/
def execSafetyFrameLost (ch : Fin 2) (t : Instant) (s : State) :=
  s.run (fun p => if (p.sch ch.val).got + usec 2500 ≤ t then (p.at t).safeFault ch.val 2 t else p)

/-! Single events. -/

/-- TEST_PULSE: an output starts its low pulse of 200 µs; no two are low together (R397). The pins assigned to it have
yet to show it. -/
def Part.testPulse (p : Part) (o : Nat) (t : Instant) : Part :=
  if p.safe.pulses.any (fun e => e.1 ≠ o && e.2 ≤ t && t < e.2 + usec 200) then p
  else
    let p := p.at t
    let p := { p with safe := { p.safe with pulses := (o, t) :: p.safe.pulses.filter (fun e => e.1 ≠ o) } }
    p.each [0, 1] (fun p c => p.onSch c (fun x => (List.range 16).foldl (fun x k =>
      if p.pinSource k = some o && bitAt (p.inCfg (k / 2)) 31 then
        { x with pins := vset x.pins k { x.pin k with seen := false } }
      else x) x))

/-- TEST_PULSE. -/
def execTestPulse (o : Fin 4) (t : Instant) (s : State) := s.run (·.testPulse o.val t)

/-- INPUT_DISCREPANCY: the pins of a dual input have disagreed for longer than DISC (R396). -/
def Part.discrepancy (p : Part) (c i : Nat) (t : Instant) : Part :=
  let y := (p.sch c).inp i
  match y.apart with
  | some s =>
    if s + msec (bits (p.inCfg i) 0 9) < t && y.disc = 0 then
      ((((p.at t).onSch c (fun x => { x with inputs := vset x.inputs i { y with disc := 1 } })).safeLog 0x10 c i)).showSafe t
    else p
  | none => p

/-- INPUT_DISCREPANCY. -/
def execInputDiscrepancy (ch : Fin 2) (i : Fin 8) (t : Instant) (s : State) := s.run (·.discrepancy ch.val i.val t)

/-- SS1_TIMEOUT: TSS1 has elapsed without both READY: STO, logged (R400). -/
def Part.ss1Timeout (p : Part) (c a : Nat) (t : Instant) : Part :=
  let x := p.sch c
  match (x.axis a).ss1 with
  | some (t0, _) =>
    if t0 + fpSeconds (p.axCfg a 5) ≤ t then
      (((p.at t).setSch c ((x.setAxis a { x.axis a with fail := true }).setSto true t)).safeLog 0x31 c a).safeEnd c t
    else p
  | none => p

/-- SS1_TIMEOUT. -/
def execSs1Timeout (ch : Fin 2) (a : Fin 2) (t : Instant) (s : State) := s.run (·.ss1Timeout ch.val a.val t)

/-- LOCKFAULT: the lock feedback shows unlocked while locked for longer than DISC: STO is demanded (R399). -/
def Part.lockFault (p : Part) (c f : Nat) (t : Instant) : Part :=
  let x := p.sch c
  match x.unlocked.find? (fun e => e.1 = f) with
  | some (_, s) =>
    if s + msec (bits (p.inCfg (bits (p.fnCfg f) 8 3)) 0 9) < t && !x.lockFault.testBit f then
      let p := (p.at t).setSch c { x with lockFault := x.lockFault ||| 2 ^ f, stoDue := true }
      ((p.demandFns c [f] false t).safeLog 0x40 c f).fnNote f 0x40 |>.showSafe t
    else p
  | none => p

/-- LOCKFAULT. -/
def execLockfault (ch : Fin 2) (f : Fin 16) (t : Instant) (s : State) := s.run (·.lockFault ch.val f.val t)

/-- RESET_INPUT: a RESET input whose press of 100 ms to 3 s has ended resets the functions that name it (R401). -/
def Part.resetInput (p : Part) (c i : Nat) (t : Instant) : Part :=
  let x := p.sch c
  match (x.pin (2 * i)).press with
  | some (a, b) =>
    let p := (p.at t).setSch c { x with pins := vset x.pins (2 * i) { x.pin (2 * i) with press := none } }
    if a + msec 100 ≤ b && b ≤ a + sec 3 then
      (p.safeReset c (p.fns.filter (fun f => bits (p.fnCfg f) 4 3 = i && bits (p.inCfg i) 29 2 = 2))).showSafe t
    else p
  | none => p

/-- RESET_INPUT. -/
def execResetInput (ch : Fin 2) (i : Fin 8) (t : Instant) (s : State) := s.run (·.resetInput ch.val i.val t)

/-- CONTACTOR_FEEDBACK_TIMEOUT: FBT has elapsed since the command and the feedback does not follow: WELD brings STO,
FBLATE opens the contactor and demands its functions (Table 15.2). -/
def Part.contTimeout (p : Part) (c n : Nat) (t : Instant) : Part :=
  let w := p.ctCfg n
  let x := p.sch c
  let y := x.cont n
  if !bitAt w 31 || t < y.since + msec (bits w 0 9) then p
  else if !y.cmd && y.fb = some true && !y.weld then
    let p := (p.at t).setSch c { x.setCont n { y with weld := true } with stoDue := true }
    ((p.demandFns c (p.fnsOf n) false t).safeLog 0x21 c n).safeEnd c t
  else if y.cmd && y.fb ≠ some true && !y.late then
    let p := (p.at t).setSch c (x.setCont n { y with late := true })
    ((p.demandFns c (p.fnsOf n) false t).safeLog 0x20 c n).safeEnd c t
  else p

/-- CONTACTOR_FEEDBACK_TIMEOUT. -/
def execContactorFeedbackTimeout (ch : Fin 2) (n : Fin 4) (t : Instant) (s : State) :=
  s.run (·.contTimeout ch.val n.val t)

/-! The request registers (R408): the channels read them at the start of each cycle (R404). -/

/-- SAFEREQ_DEMAND: the DEMAND bits, bit f for SWDEMAND function f. -/
def execSafereqDemand (d : BitVec 16) (s : State) := s.run (·.setFld Reg.SYS_SAFEREQ 16 16 d.toNat)

/-- SAFEREQ_RESET: the RESET bit; the channels act on its rising edge. -/
def execSafereqReset (on : Bool) (s : State) := s.run (·.setBit Reg.SYS_SAFEREQ 15 on)

/-- SAFEREQ_CLOSE: the CLOSE bits, bit n for contactor n. -/
def execSafereqClose (d : BitVec 4) (s : State) := s.run (·.setFld Reg.SYS_SAFEREQ 8 4 d.toNat)

/-- SAFEREQ_UNLOCK: the UNLOCK bits of both registers, bit f for DOOR function f. -/
def execSafereqUnlock (d : BitVec 16) (s : State) :=
  s.run (fun p => (p.setFld Reg.SYS_SAFEREQ 0 8 (d.toNat % 256)).setFld Reg.SYS_SAFEREQ_1 0 8 (d.toNat / 256))

/-! The configuration (R405, R406). -/

/-- The words of a table's bytes. -/
def tableWords (bs : List Byte) (n : Nat) : List Word :=
  (List.range n).map (fun i => BitVec.ofNat 32 (numOf ((bs.drop (4 * i)).take 4)))

/-- Whether MAGIC, FORMAT and the CRC of a table hold. -/
def tableCrcOk (bs : List Byte) : Bool :=
  let w := tableWords bs 16
  tabWord w 0 = 0x54565346 && tabWord w 4 = 1 && (tabWord w 0x3C).toNat = crc32c ((bs.drop 0x40).take 0xFC0)

/-- Offset of the first field of an input entry out of range; an entry that is not enabled is 0. -/
def inputFieldFault (w0 w1 : Word) (o : Nat) : Option Nat :=
  if !bitAt w0 31 then if w0 ≠ 0 then some o else if w1 ≠ 0 then some (o + 4) else none
  else
    let single := bits w0 29 2 = 2
    let disc := bits w0 0 9
    if bits w0 29 2 = 3 || bits w0 28 1 ≠ 0 || bits w0 9 15 ≠ 0 then some o
    else if !single && (disc < 10 || 500 < disc) then some o
    else if bits w1 16 16 ≠ 0 || bits w1 5 3 ≠ 0 || bits w1 8 8 < 1 || 100 < bits w1 8 8 || bits w1 0 5 < 2
        || 25 < bits w1 0 5 then some (o + 4)
    else none

/-- Offset of a function entry whose fields are out of range: its inputs must be enabled and of an allowed type. -/
def fnFieldFault (t : List Word) (o : Nat) : Option Nat :=
  let w := tabWord t o
  let inp : Nat → Word := fun i => tabWord t (0x40 + 16 * i)
  let dual : Nat → Bool := fun i => bitAt (inp i) 31 && bits (inp i) 29 2 ≠ 2
  let kind := bits w 29 2
  if !bitAt w 31 then (if w ≠ 0 then some o else none)
  else if kind = 3 || bits w 18 2 ≠ 0 || bits w 15 3 ≠ 0 || bits w 11 1 ≠ 0 || bits w 7 1 ≠ 0 || bits w 2 2 ≠ 0 then some o
  else if kind ≠ 2 && !dual (bits w 12 3) then some o
  else if kind = 1 && !dual (bits w 8 3) then some o
  else if (List.range 2).any (fun a => bitAt w (24 + a) && !bitAt (tabWord t (0x200 + 32 * a)) 31) then some o
  else if (List.range 4).any (fun n => bitAt w (20 + n) && !bitAt (tabWord t (0x1C0 + 16 * n)) 31) then some o
  else none

/-- A source of an axis: P0 to P3, or the sigma-delta pair n, n + 1. -/
def axisSourceOk (current : Bool) (src : Nat) : Bool := if current then 0x20 ≤ src && src ≤ 0x3A else src < 4

/-- Offset of the first field of a table out of range (R406, step 2). -/
def tableFault (t : List Word) : Option Nat :=
  let zero : List Nat → Option Nat := fun os => os.find? (fun o => tabWord t o ≠ 0)
  let ins := (List.range 8).map (fun i => 0x40 + 16 * i)
  let fs := (List.range 16).map (fun f => 0xC0 + 16 * f)
  let cs := (List.range 4).map (fun n => 0x1C0 + 16 * n)
  let axs := (List.range 2).map (fun a => 0x200 + 32 * a)
  let inF := ins.findSome? (fun o => (inputFieldFault (tabWord t o) (tabWord t (o + 4)) o).or (zero [o + 8, o + 12]))
  let fnF := fs.findSome? (fun o => (fnFieldFault t o).or (zero [o + 4, o + 8, o + 12]))
  let ctF := cs.findSome? (fun o =>
    let w := tabWord t o
    let fbt := bits w 0 9
    if bitAt w 31 then
      (if bits w 9 20 ≠ 0 || fbt < 10 || 500 < fbt then some o else zero [o + 4, o + 8, o + 12])
    else zero [o, o + 4, o + 8, o + 12])
  let axF := axs.findSome? (fun o =>
    let w := tabWord t o
    if bitAt w 31 then
      (if bits w 14 16 ≠ 0 || bits w 6 2 ≠ 0 || !axisSourceOk (bitAt w 30) (bits w 0 6) || !axisSourceOk (bitAt w 30) (bits w 8 6)
        then some o else zero [o + 24, o + 28])
    else zero ((List.range 8).map (fun k => o + 4 * k)))
  let hdr := if bits (tabWord t 0x0C) 3 29 ≠ 0 then some 0x0C else zero ((List.range 11).map (fun k => 0x10 + 4 * k))
  ((((hdr.or inF).or fnF).or ctF).or axF).or (zero ((List.range 880).map (fun k => 0x240 + 4 * k)))

/-- Both channels take a table into force: its identity and CRCs are shown, and they stay in STO. -/
def Part.takeTable (p : Part) (bs : List Byte) (t : Instant) : Part :=
  let ws := tableWords bs 144
  let crc := tabWord ws 0x3C
  let p := { p with safe := { p.safe with cfg := some ws } }
  let p := p.each [0, 1] (fun p c => p.setSch c { (p.sch c).setSto true t with
    demand := 0, rst := 0, fresh := 0, unlocked := [], lockFault := 0, clear := true,
    pins := Vector.replicate 16 {}, inputs := Vector.replicate 8 {}, axes := Vector.replicate 2 {},
    conts := Vector.replicate 4 {} })
  (((p.setReg Reg.SAFE_CFGID (tabWord ws 8)).setReg Reg.SAFE_CRC1 crc).setReg Reg.SAFE_CRC2 crc).setBit Reg.SAFE_STAT 29 false

/-- The pin whose press acknowledges: the KEY input of the table in force, or SI7A where there is none. -/
def Part.keyPin (p : Part) : Nat := if p.safe.cfg.isSome then 2 * bits (p.sw 0x0C) 0 3 else 14

/-- A table acknowledged by the key leaves both channels in STO: every function enabled in it is in demand until its reset
(R401, R406; DEDUCED, log entry 25). -/
def Part.stayInSto (p : Part) : Part :=
  p.each [0, 1] (fun p c => p.onSch c (fun x => { x with demand := maskOf p.fns, clear := false }))

/-- KEY_ACK: the key switch has been held for 1 s to 5 s. With a table awaiting it the copies are written, the second
first, and both channels switch to it and stay in STO; with none it is logged and ignored (R404, R406). -/
def Part.keyAck (p : Part) (t : Instant) : Part :=
  let k := p.keyPin
  let held := [0, 1].all (fun c => ((p.sch c).pin k).press.any (fun e => e.1 + sec 1 ≤ e.2 && e.2 ≤ e.1 + sec 5))
  let p := p.at t
  if !held then p
  else
    let p := p.each [0, 1] (fun p c => p.onSch c (fun x => { x with pins := vset x.pins k { x.pin k with press := none } }))
    match p.safe.load with
    | none => (p.taken).safeLog (p.fresh.toNat % 256) 0 0
    | some (bs, slot, _) =>
      let p := (p.emStore 0x23C90000 bs).emStore 0x23C80000 bs
      let p := { p with safe := { p.safe with load := none } }
      let p := (p.takeTable bs t).stayInSto.measure 3 (sha3 (bs.take 0x1000))
      let p := ((p.safeLog 0x50 0 0).safeLog 0x50 1 0).setFld Reg.SAFE_STAT 27 2 0
      ((p.opDone slot).each [0, 1] (fun p c => p.safeOutputs c t)).showSafe t

/-- KEY_ACK. -/
def execKeyAck (t : Instant) (s : State) := s.run (·.keyAck t)

/-- KEY_TIMEOUT: no acknowledgement within 300 s of AWAITKEY: the operation fails with ERR 0x05 (R406). -/
def execKeyTimeout (t : Instant) (s : State) :=
  s.run (fun p => match p.safe.load with
    | some (_, slot, s0) =>
      if s0 + sec 300 ≤ t then
        ({ p with safe := { p.safe with load := none } }.setFld Reg.SAFE_STAT 27 2 0).opFail slot 7 5
      else p
    | none => p)

/-- PFAIL asserted at both channels (R395): the safe state, every enabled function in demand, and an entry of each
channel. -/
def Part.safePfail (p : Part) (t : Instant) : Part :=
  let p := { p with safe := { p.safe with pfail := true } }
  let p := p.each [0, 1] (fun p c =>
    (((p.safeLog 0x62 c 0).demandFns c p.fns false t).onSch c (·.setSto true t)).safeOutputs c t)
  p.showSafe t

end Sys2Proof.Machine
end

