-- ==== Sys2Proof/Machine/Health.lean ====
section
/-! DEFINITION. The reserve inventory (R412) and the health grade (R417), as functions of the part. -/

namespace Sys2Proof.Machine

/-- The inventory of a class: spares, free ones, reserves in service and units retired (Tables 16.1 and 16.8). -/
structure Inventory where
  spares : Nat
  free : Nat
  service : Nat
  retired : Nat
deriving DecidableEq, Repr

/-- Whether a unit beyond the lanes, pairs and PLLs is retired. -/
def Part.unitRetired (p : Part) (cls unit : Nat) : Bool := p.health.retired.contains (cls, unit)

/-- Units of a class in the list of retired ones. -/
def Part.retiredOf (p : Part) (cls : Nat) : Nat := (p.health.retired.filter (fun e => e.1 = cls)).length

/-- Reserves of classes 5 to 7 that are not in service. -/
def Part.idleRsv (p : Part) (cls r : Nat) : Bool :=
  if cls = 5 then p.rsvState r ≠ 2 && !p.unitRetired 5 (24 + r)
  else if cls = 6 then (p.gateSwap r).phase = .idle && !p.unitRetired 6 (48 + r)
  else !p.bit (Reg.PROT_RSVMAP r) 31 && !p.unitRetired 7 (12 + r)

/-- Whether a reserve's map allows it (R183, R220); a reserve comparator needs no leave. -/
def Part.rsvAllowed (p : Part) (cls r : Nat) : Bool :=
  if cls = 5 then p.bit (Reg.SENSE_RSVMAP r) 31 else if cls = 6 then p.bit (Reg.GATE_RSVMAP r) 31 else true

/-- The inventory of class 1 to 7. -/
def Part.inventory (p : Part) (cls : Nat) : Inventory :=
  match cls with
  | 1 =>
    let st : Nat → Nat → Bool := fun s n => p.laneState n = s
    { spares := 2, free := ((List.range 8).filter (st 4)).length,
      service := ([6, 7].filter (fun n => st 1 n || st 2 n)).length, retired := ((List.range 8).filter (st 6)).length }
  | 2 =>
    { spares := 1, free := if p.fld Reg.MMU_SLOTMAP 12 4 = 15 then 0 else 1,
      service := if (List.range 3).any (fun k => p.fld Reg.MMU_SLOTMAP (4 * k) 4 = 3) then 1 else 0,
      retired := (p.core.pairs.toList.filter (·.retired)).length }
  | 3 =>
    let onB := p.bit Reg.CLK_STAT 29
    { spares := 1, free := if p.bit Reg.CLK_STAT (if onB then 27 else 26) then 0 else 1, service := onB.toNat,
      retired := (p.bit Reg.CLK_STAT 27).toNat + (p.bit Reg.CLK_STAT 26).toNat }
  | 4 =>
    let used := ([0, 1].filter (fun k => p.fld (Reg.RING_PSTAT k) 20 2 ≠ 0)).length
    { spares := 2, free := ([0, 1].filter (fun k => p.fld (Reg.RING_PSTAT k) 20 2 = 0 && !p.unitRetired 4 (4 + k))).length,
      service := used, retired := p.retiredOf 4 }
  | 5 =>
    { spares := 4, free := ((List.range 4).filter (p.idleRsv 5)).length,
      service := ((List.range 4).filter (fun r => p.rsvState r = 2)).length, retired := p.retiredOf 5 }
  | 6 =>
    { spares := 8, free := ((List.range 8).filter (p.idleRsv 6)).length,
      service := ((List.range 8).filter (fun r => (p.gateSwap r).phase = .inService)).length, retired := p.retiredOf 6 }
  | _ =>
    { spares := 2, free := ((List.range 2).filter (p.idleRsv 7)).length,
      service := ((List.range 2).filter (fun r => p.bit (Reg.PROT_RSVMAP r) 31)).length, retired := p.retiredOf 7 }

/-- SPARE_INV_c. -/
def Part.invWord (p : Part) (cls : Nat) : Word :=
  let i := p.inventory cls
  BitVec.ofNat 32 (i.spares * 2 ^ 24 + i.free * 2 ^ 16 + i.service * 2 ^ 8 + i.retired)

/-- Whether a class has no free spare: any for classes 1 to 4, one whose map allows it for classes 5 to 7; a class with no
map that allows a reserve lacks none. -/
def Part.noSpare (p : Part) (cls : Nat) : Bool :=
  if cls ≤ 4 then (p.inventory cls).free = 0
  else
    let n := if cls = 5 then 4 else if cls = 6 then 8 else 2
    let ok := (List.range n).filter (p.rsvAllowed cls)
    !ok.isEmpty && !ok.any (p.idleRsv cls)

/-- The deductions of Table 16.4. -/
def Part.deductions (p : Part) : Nat :=
  let cs := [1, 2, 3, 4, 5, 6, 7]
  let life := p.fld Reg.SPARE_HEALTH 0 16
  (cs.map (fun c => 8 * ((p.inventory c).service + (p.inventory c).retired))).sum
    + (cs.map (fun c => if p.noSpare c then (if c ≤ 4 then 64 else 32) else 0)).sum
    + (if p.bit Reg.PAIR_STAT 22 || p.bit Reg.PAIR_STAT 21 then 16 else 0)
    + (if life < 20 then 64 else if life < 50 then 32 else 0)
    + (if p.health.stFail.isEmpty then 0 else 128)
    + (if p.health.calBad then 128 else 0)
    + (if p.safe.fault then 255 else 0)

/-- The health grade (R417). -/
def Part.grade (p : Part) : Nat := 255 - p.deductions

/-- SPARE_HEALTH: the grade and the part's lifetime estimate. -/
def Part.healthWord (p : Part) : Word := setBits (p.reg Reg.SPARE_HEALTH) 24 8 p.grade

end Sys2Proof.Machine
end

