-- ==== Sys2Proof/Machine/Ramp.lean ====
section
/-! DEFINITION. The setpoint ramps (chapter 8, R239 to R243, R246). Values are binary64 numbers in units of 2^-200. -/

namespace Sys2Proof.Machine

/-- Fractional bits of a ramp's numbers. -/
def rampBits : Nat := 200

/-- A rational number of units rounded to 53 significant bits, to nearest, ties to even: a binary64 value. -/
def b64 (n : Int) (d : Nat) : Int :=
  let m := n.natAbs
  let e := (m / d).log2 - 52
  let q := roundUp (m / (d * 2 ^ e)) (m % (d * 2 ^ e)) (d * 2 ^ e) * 2 ^ e
  if n < 0 then -(q : Int) else q

/-- An FP32 number in a ramp's units. -/
def rampOf (w : Word) : Int := fpScaled w * 2 ^ 51

/-- A ramp's number rounded to FP32. -/
def rampFp (z : Int) : Word := fpOfRat z (2 ^ rampBits)

/-- A product of two numbers in a ramp's units. -/
def rampMul (a b : Int) : Int := a * b / 2 ^ rampBits

/-- A quotient of two numbers in a ramp's units. -/
def rampDiv (a b : Int) : Int := if b = 0 then 0 else a * 2 ^ rampBits / b

/-- The distance covered when a forward velocity `v` and an acceleration `a` are brought to rest within AMAX and JMAX in
the least time. A braking stronger than AMAX is first brought within it. -/
def stopForward (v a amax jmax : Int) : Int :=
  -- peak deceleration: ap² = J v + a²/2, held at AMAX where it would lie above
  let ap0 : Int := isqrt (jmax * v + a * a / 2).toNat
  let ap := if amax < ap0 then amax else ap0
  let j1 := if a + ap < 0 then jmax else -jmax
  let t1 := rampDiv (a + ap).natAbs jmax
  let d1 := rampMul v t1 + rampMul a (rampMul t1 t1) / 2 + rampMul j1 (rampMul t1 (rampMul t1 t1)) / 6
  let v1 := v + rampMul a t1 + rampMul j1 (rampMul t1 t1) / 2
  let t3 := rampDiv ap jmax
  let v3 := rampMul ap t3 / 2
  let th := if amax < ap0 then max 0 (rampDiv (v1 - v3) ap) else 0
  let d2 := rampMul v1 th - rampMul ap (rampMul th th) / 2
  -- the last phase ends at rest: v3 t3 / 3
  d1 + d2 + rampMul v3 t3 / 3

/-- The signed distance to rest from a velocity and an acceleration. -/
def stopDist (v a amax jmax : Int) : Int :=
  -- the velocity left once the acceleration has been brought to 0
  let vz := v + rampDiv (rampMul a a.natAbs) (2 * jmax)
  if 0 ≤ vz then stopForward v a amax jmax else -stopForward (-v) (-a) amax jmax

/-- A state of the profile: output, velocity and acceleration. -/
structure RampPt where
  y : Int
  v : Int
  a : Int
deriving DecidableEq, Repr

/-- The jerk `j` integrated exactly over Ts, given as a rational number of seconds, and rounded to binary64. -/
def RampPt.step (s : RampPt) (tn td : Nat) (j : Int) : RampPt :=
  let n : Int := tn
  let d : Int := td
  { y := b64 (6 * d * d * d * s.y + 6 * d * d * n * s.v + 3 * d * n * n * s.a + n * n * n * j) (6 * td * td * td),
    v := b64 (2 * d * d * s.v + 2 * d * n * s.a + n * n * j) (2 * td * td),
    a := b64 (d * s.a + n * j) td }

/-- The limits of a profile: VMAX, AMAX and JMAX. -/
structure RampLim where
  v : Int
  a : Int
  j : Int
deriving DecidableEq, Repr

/-- Whether a profile can come to rest from a state without passing a goal ahead of it. -/
def rampStops (l : RampLim) (goal : Int) (s : RampPt) : Bool := s.y + stopDist s.v s.a l.a l.j ≤ goal

/-- Whether a profile may go on from a state towards a goal ahead of it: within the limits, and able to come to rest
without passing the goal. -/
def rampOk (l : RampLim) (goal : Int) (s : RampPt) : Bool :=
  let gain := if 0 < s.a then rampDiv (rampMul s.a s.a) (2 * l.j) else 0
  s.a ≤ l.a && s.v + gain ≤ l.v && rampStops l goal s

/-- Whether a state that brakes has gone so far that its velocity falls below VMAX before the braking ends. -/
def rampUnder (l : RampLim) (s : RampPt) : Bool :=
  s.a < 0 && s.v - rampDiv (rampMul s.a s.a) (2 * l.j) < l.v

/-- The largest jerk, by bisection between one that serves and one that does not. -/
def bisectJerk (ok : Int → Bool) : Nat → Int → Int → Int
  | 0, lo, _ => lo
  | k + 1, lo, hi =>
    let mid := (lo + hi) / 2
    if ok mid then bisectJerk ok k mid hi else bisectJerk ok k lo mid

/-- The jerk of one tick towards a goal at or ahead of the output: the largest that keeps the profile within its limits
and short of the goal. Where none does, the strongest braking; an output that is only too fast brakes no more than brings
it to VMAX. An acceleration beyond AMAX is brought within it at JMAX. -/
def jerkForward (l : RampLim) (goal : Int) (tn td : Nat) (s : RampPt) : Int :=
  let within : Int → Int := fun j => max (-l.j) (min l.j j)
  let full := within ((l.a - s.a) * td / max 1 tn)
  let brake := within ((-l.a - s.a) * td / max 1 tn)
  let ok : Int → Bool := fun j => rampOk l goal (s.step tn td j)
  if ok full then full
  else if ok brake then bisectJerk ok 40 brake full
  else
    let under : Int → Bool := fun j => rampUnder l (s.step tn td j)
    let j := if !under brake then brake else if under full then full else bisectJerk under 40 brake full
    if rampStops l goal (s.step tn td j) then j else brake

/-- The mirrored state. -/
def RampPt.neg (s : RampPt) : RampPt := { y := -s.y, v := -s.v, a := -s.a }

/-- The jerk of one tick towards a goal. -/
def rampJerk (l : RampLim) (goal : Int) (tn td : Nat) (s : RampPt) : Int :=
  if s.y + (if s.y = goal then stopDist s.v s.a l.a l.j else 0) ≤ goal then jerkForward l goal tn td s
  else -jerkForward l (-goal) tn td s.neg

/-- Bounds of the third moment 6 ∫ j (T−s)²/2 ds of a jerk that stays within ±1 over a tick T = 1 and has the moments
`m0` = ∫ j ds and `m1` = 2 ∫ j (T−s) ds, in a ramp's units: the upper one, reached by a jerk +, −, +; none where no such
jerk has the two moments. With δ and σ the difference and the sum of the two switches in T − s, m0 = 1 − 2 δ and
m1 = 1 − 2 δ σ. -/
def momentMax (m0 m1 : Int) : Option Int :=
  let one : Int := 2 ^ rampBits
  let two := one - m0
  if two < 0 || 2 * one < two then none
  else if two = 0 then if m1 = one then some one else none
  else
    let sum := rampDiv (one - m1) two
    -- the switches lie within the tick
    if 2 * sum < two || 2 * (2 * one - sum) < two then none
    else
      -- u1³ − u2³ = δ (3 σ² + δ²) / 4
      let cube := rampMul two (12 * rampMul sum sum + rampMul two two) / 32
      some (one - 2 * cube)

/-- Whether the goal can be reached at rest within one tick (R240): whether a jerk within JMAX has the three moments that bring
output, velocity and acceleration there at the tick's end. Where AMAX or VMAX is so low that a jerk of JMAX could pass it
within one tick, the jerk is held to what cannot (DEDUCED, log entry 64). -/
def rampReaches (l : RampLim) (goal : Int) (tn td : Nat) (s : RampPt) : Bool :=
  let n : Int := tn
  let d : Int := td
  let j := min l.j (min (l.a * d / n) (2 * l.v * d * d / (n * n)))
  if j ≤ 0 || s.a.natAbs > l.a || s.v.natAbs > l.v then false
  else
    let one : Int := 2 ^ rampBits
    let m0 := -(s.a * d * one / (j * n))
    let m1 := -(2 * (s.v * d + s.a * n) * d * one / (j * n * n))
    let m2 := (6 * (goal - s.y) * d * d - 6 * s.v * n * d - 3 * s.a * n * n) * d * one / (j * n * n * n)
    match momentMax m0 m1, momentMax (-m0) (-m1) with
    | some hi, some lo => m2 ≤ hi && -lo ≤ m2
    | _, _ => false

/-! Channels. -/

/-- Channel `c`. -/
def Part.ramp (p : Part) (c : Nat) : RampCh := vget {} p.ramps c

/-- What of a channel is in the mirror set (R243): its output, target, limits in force, hold and deferral, and not what waits for
its next tick. -/
def RampCh.mirrored (x : RampCh) : RampCh := { x with newTgt := false, set := false, hold := none }

/-- A standby's channel takes the mirrored state and keeps what waits for its own next tick. -/
def RampCh.takeMirror (x m : RampCh) : RampCh := { m with newTgt := x.newTgt, set := x.set, hold := x.hold }

/-- Replace channel `c`. -/
def Part.setRamp (p : Part) (c : Nat) (x : RampCh) : Part := { p with ramps := vset p.ramps c x }

/-- RAMP_TGT_WRITE: a NaN or infinite target is ignored and sets BADTGT (R241). -/
def Part.rampTarget (p : Part) (c : Nat) (v : Word) : Part :=
  if !fpFinite v then p.setBit (Reg.RAMP_STAT c) 25 true
  else ((p.setReg (Reg.RAMP_TGT c) v).setBit (Reg.RAMP_STAT c) 25 false).setRamp c { p.ramp c with newTgt := true }

/-- RAMP_TGT_WRITE. -/
def execRampTgtWrite (c : Fin 16) (v : Word) (s : State) := s.run (·.rampTarget c.val v)

/-- SET acts at the next tick. -/
def Part.rampSet (p : Part) (c : Nat) : Part := p.setRamp c { p.ramp c with set := true }

/-- HOLD and RELEASE act at the next tick. -/
def Part.rampHold (p : Part) (c : Nat) (on : Bool) : Part := p.setRamp c { p.ramp c with hold := some on }

/-- RAMP_SET. -/
def execRampSet (c : Fin 16) (s : State) := s.run (·.rampSet c.val)

/-- RAMP_HOLD. -/
def execRampHold (c : Fin 16) (s : State) := s.run (·.rampHold c.val true)

/-- RAMP_RELEASE. -/
def execRampRelease (c : Fin 16) (s : State) := s.run (·.rampHold c.val false)

/-- The committed limits of a channel. -/
def Part.rampLimits (p : Part) (c : Nat) : Word × Word × Word :=
  (p.reg (Reg.RAMP_VMAX c), p.reg (Reg.RAMP_AMAX c), p.reg (Reg.RAMP_JMAX c))

/-- The limits in force as numbers. -/
def RampCh.lim (x : RampCh) : RampLim := { v := rampOf x.vmax, a := rampOf x.amax, j := max 1 (rampOf x.jmax) }

/-- Take limits into force. -/
def RampCh.take (x : RampCh) (l : Word × Word × Word) : RampCh := { x with vmax := l.1, amax := l.2.1, jmax := l.2.2 }

/-- The point at which a channel comes to rest under its limits, for HOLD. -/
def RampCh.comeToRest (x : RampCh) : RampCh := { x with rest := x.y + stopDist x.v x.a x.lim.a x.lim.j }

/-- Whether, under limits, the output cannot come to rest at its target without passing it (R242): the side it comes
from, or 0. -/
def RampCh.passing (x : RampCh) : Int :=
  let l := x.lim
  let e := rampOf x.tgt - x.y
  let s := stopDist x.v x.a l.a l.j
  if 0 ≤ e && e < s then 1 else if e ≤ 0 && s < e then -1 else 0

/-- A channel takes its target, SET, HOLD and RELEASE (R241). A new target, SET or HOLD ends a deferral, and what an output
does on its way to a new target is no overshoot. -/
def RampCh.due (x : RampCh) (tgt : Word) : RampCh :=
  let acts := x.newTgt || x.set || x.hold = some true
  let x := { x with tgt := if x.newTgt then tgt else x.tgt, newTgt := false,
                    overSide := if acts then 0 else x.overSide, deferred := x.deferred && !acts }
  let x := if x.set then { x with y := rampOf x.tgt, v := 0, a := 0, set := false, held := false } else x
  { x with held := x.hold.getD x.held, hold := none }

/-- The commands and the committed limits that fall due at a channel's tick (R241, R242). A channel that is held, or comes to
be, takes the limits at once: it has no target to pass. Its point of rest is where these limits bring it. -/
def Part.rampDue (p : Part) (c : Nat) : Part :=
  let rests := (p.ramp c).hold = some true
  let x := (p.ramp c).due (p.reg (Reg.RAMP_TGT c))
  let lim := p.rampLimits c
  if lim = (x.vmax, x.amax, x.jmax) || x.deferred then p.setRamp c (if rests then x.comeToRest else x)
  else
    let y := x.take lim
    let side := if x.held then 0 else y.passing
    if x.held then p.setRamp c y.comeToRest
    else if side = 0 then p.setRamp c y
    else if p.bit (Reg.RAMP_CFG c) 30 then (p.setRamp c { x with deferred := true }).raise Reg.RAMP_EVT c
    else p.setRamp c { y with overSide := side }

/-- One channel at a tick of its group (R239, R240, R242). -/
def Part.rampTick (p : Part) (c : Nat) (g : Grp) : Part :=
  let st := Reg.RAMP_STAT c
  let p := p.rampDue c
  let x := p.ramp c
  let (tn, td0) := p.tsUnits g
  let td := td0 * sec 1
  let goal := if x.held then x.rest else rampOf x.tgt
  let l := x.lim
  let s : RampPt := { y := x.y, v := x.v, a := x.a }
  let done := s.y = goal && s.v = 0 && s.a = 0
  let arrive := !done && rampReaches l goal tn td s
  let s' := if done then s else if arrive then { y := b64 goal 1, v := 0, a := 0 } else s.step tn td (rampJerk l goal tn td s)
  let fin := done || arrive
  -- an output that passes its target after a limit change (R242)
  let past := (x.overSide = 1 && goal < s'.y) || (x.overSide = -1 && s'.y < goal)
  let p := p.when (past && !p.bit st 26) (fun p => (p.raise Reg.RAMP_EVT (16 + c)).logEvent .rampOvershoot [c])
  let x := { x with y := s'.y, v := s'.v, a := s'.a, overSide := if fin then 0 else x.overSide }
  let p := p.setBit st 26 past
  -- at DONE deferred limits take effect
  let x := if fin && !x.held && x.deferred then { x.take (p.rampLimits c) with deferred := false } else x
  let p := p.setRamp c x
  let p := (p.setReg (Reg.RAMP_OUT c) (rampFp x.y)).setReg (Reg.RAMP_VEL c) (rampFp x.v)
  ((p.setBit st 31 (!fin)).setBit st 30 (fin && !x.held)).setBit st 29 x.held

/-- Group of a channel. -/
def Part.rampGrp (p : Part) (c : Nat) : Grp := if p.bit (Reg.RAMP_CFG c) 31 then .B else .A

/-- The channels of a group at its tick; while the group is stopped they hold (R239). -/
def Part.rampTicks (p : Part) (g : Grp) : Part :=
  if p.groupRuns g then p.each ((List.range 16).filter (fun c => p.rampGrp c = g)) (fun p c => p.rampTick c g) else p

/-- RAMP_STAT as it reads: STALL while the channel's group is stopped, LIMIT_DEFERRED while limits wait (R239, R242). -/
def Part.rampStat (p : Part) (c : Nat) : Word :=
  putBit (putBit (p.reg (Reg.RAMP_STAT c)) 28 (!p.groupRuns (p.rampGrp c))) 27 (p.ramp c).deferred

/-- Commit check of RAMP: each limit above 0 and at most 1.0e6. -/
def rampCheck (val : Nat → Word) : Option (Nat × Nat) :=
  (List.range 16).findSome? (fun c =>
    [Reg.RAMP_VMAX c, Reg.RAMP_AMAX c, Reg.RAMP_JMAX c].findSome? (fun o =>
      if fpLt 0 (val o) && fpLe (val o) 0x49742400 then none else some (1, o)))

end Sys2Proof.Machine
end

