-- ==== Sys2Proof/Machine/Pair.lean ====
section
/-! DEFINITION. The floor, open floor, mirror frames, heartbeats, the caller and cut-in, and the standby's self-test
(chapter 12). -/

namespace Sys2Proof.Machine

/-- Change what a pair member keeps. -/
def Part.onPair (p : Part) (f : PairState → PairState) : Part := { p with pair_ := f p.pair_ }

/-- Something leaves the part. -/
def Part.send (p : Part) (m : OutMsg) : Part := { p with out := m :: p.out }

/-! The lines (R339). -/

/-- FLOOR_IN as filtered. -/
def Part.floorIn (p : Part) : Bool := p.bit Reg.PAIR_STAT 30

/-- CALL_IN permits this part: its level is its SIDE (R339). -/
def Part.permitted (p : Part) : Bool := p.bit Reg.PAIR_STAT 29 = p.bit Reg.PAIR_CFG 31

/-- The group whose ticks govern the floor. -/
def Part.floorGrp (p : Part) : Grp := if p.bit Reg.PAIR_CFG 30 then .B else .A

/-- Show the armed states in PAIR_STAT. -/
def Part.showPair (p : Part) : Part :=
  ((p.setBit Reg.PAIR_STAT 28 p.permitted).setBit Reg.PAIR_STAT 27 p.pair_.armed.isSome).setBit Reg.PAIR_STAT 26
    p.pair_.openAt.isSome

/-- Set the role in force, which a cut-in changes without a commit: the staged copy follows (R357). -/
def Part.setRole (p : Part) (r : Nat) : Part :=
  ((p.setFld Reg.PAIR_STAT 0 4 r).setFld Reg.PAIR_ROLE 0 4 r).setFld (stagedOff Reg.PAIR_ROLE) 0 4 r

/-! Taking and releasing the floor (R340, R341). -/

/-- The overlap of both floor lines ends: its length in steps is reported (R344). -/
def Part.overlapEnd (p : Part) (t : Instant) : Part :=
  match p.pair_.both with
  | none => p
  | some s =>
    let n := min 0xFFFF ((t - s) / tdcStep)
    ((p.onPair (fun x => { x with both := none })).setFld Reg.PAIR_OVLP 0 16 n).setFld Reg.PAIR_OVLP 16 16
      (max n (p.fld Reg.PAIR_OVLP 16 16))

/-- The part takes the floor: from here its GT pins carry its commands (R219, R340). -/
def Part.takeFloor (p : Part) (t : Instant) : Part :=
  let p := ((p.setBit Reg.PAIR_STAT 31 true).setBit Reg.GATE_STAT 31 true).setBit Reg.GATE_STAT 30 true
  p.when p.floorIn (·.onPair (fun x => { x with both := some t }))

/-- A halt that a cut-in held back takes its safe state (R123). -/
def Part.endDefer (p : Part) (t : Instant) : Part :=
  let p := p.each [Grp.A, Grp.B] (fun p g => p.onCg g (fun c => { c with deferSafe := false }))
  p.evalLegs t

/-- The part releases the floor: FLOOR_OUT falls and the GT pins take their off levels (R341); a halt that waited for
the release takes its safe state (R123). -/
def Part.releaseFloor (p : Part) (t : Instant) : Part :=
  if !p.floor then p
  else
    let p := ((p.setBit Reg.PAIR_STAT 31 false).setBit Reg.GATE_STAT 31 false).overlapEnd t
    p.endDefer t

/-- A cut-in completes at a member (R357); it ends the requests of its groups. -/
def Part.cutDone (p : Part) (tc : Instant) : Part :=
  let p := p.each [Grp.A, Grp.B] (fun p g => p.setBit (Reg.CLE_GSTAT g.ix) 7 false)
  (((p.raise Reg.PAIR_EVT 7).hostCutin).setTime Reg.PAIR_LASTCUT_LO tc).logEvent .cutin [tc]
    |>.onPair (fun x => { x with armed := none, taken := none, cutReq := false })
    |>.showPair

/-- The incoming part's cut-in completes once CALL_IN permits it and its twin's floor line is low. -/
def Part.incomingDone (p : Part) : Part :=
  match p.pair_.taken with
  | some tc => if p.floor && p.permitted && !p.floorIn then p.cutDone tc else p
  | none => p

/-- The outgoing part of an armed cut-in releases the floor and becomes the standby (R357). -/
def Part.outgoingRelease (p : Part) (tc t : Instant) : Part := ((p.releaseFloor t).setRole 2).cutDone tc

/-- The cut-in that this part goes out in, from its tick on. -/
def Part.goingOut (p : Part) (t : Instant) : Option Instant :=
  match p.pair_.armed with
  | some a => if !a.incoming && a.tc ≤ p.ringOf t then some a.tc else none
  | none => none

/-- An incoming part's output modules wait for their owner's next copy-out (R357). -/
def Part.holdModules (p : Part) : Part :=
  let outs := (p.cyc.img.modules.filter (fun m => !m.input)).map (fun m => m.num.val)
  { p with cyc := { p.cyc with remote := p.cyc.remote.map (fun x => if outs.contains x.num then { x with ready := false } else x) } }

/-- The floor at a tick (R340, step 3 of Table 1.4). A cut-in that has not completed by the tick after t_c is no longer
armed: the caller restores its line there (R356), and a halt that it held back takes its safe state. -/
def Part.floorTick (p : Part) (g : Grp) (t : Instant) : Part :=
  let rt := p.ringOf t
  let past := p.pair_.taken.isNone && p.pair_.armed.any (fun a => a.grp = g && a.tc + nsec 1 < rt)
  let p := if past then (p.onPair (fun x => { x with armed := none })).showPair.endDefer t else p
  let r := p.role
  let mine := g = p.floorGrp
  let cut := match p.pair_.armed with
    | some a => a.incoming && a.grp = g && a.tc ≤ rt + nsec 1 && r = 2 && !p.pair_.taken.isSome
    | none => false
  let dueOpen := match p.pair_.openAt with
    | some a => mine && a ≤ rt + nsec 1
    | none => false
  let first4 := p.pair_.take4
  let p := p.when mine (·.onPair (fun x => { x with take4 := false }))
  if p.bit Reg.CLK_STAT 24 then p
  else if cut then
    let tc := (p.pair_.armed.map (·.tc)).getD rt
    let p := ((p.takeFloor t).setRole 1).holdModules
    (p.onPair (fun x => { x with taken := some tc, openAt := none })).showPair.incomingDone
  else if dueOpen then
    let p := p.onPair (fun x => { x with openAt := none })
    if p.pair_.armed.any (fun a => a.tc ≤ rt + nsec 1) || (r ≠ 1 && r ≠ 2) then p.showPair
    else ((if p.floor then p.when p.floorIn (·.onPair (fun x => { x with both := some t })) else p.takeFloor t).onPair
      (fun x => { x with openTick := some t })).showPair
  else if !mine then p
  else if p.floor && (r = 0 || r = 3) then p.releaseFloor t
  else if !p.floor && r = 1 && !p.floorIn && p.permitted then p.takeFloor t
  else if !p.floor && r = 4 && first4 then p.takeFloor t
  else p

/-- CALL_IN_CHANGE: a filtered change of CALL_IN (R341). -/
def Part.callIn (p : Part) (lvl : Bool) (t : Instant) : Part :=
  let p := p.at t
  let changed := lvl ≠ p.bit Reg.PAIR_STAT 29
  let p := (p.setBit Reg.PAIR_STAT 29 lvl).showPair
  if p.role = 4 || !changed then p
  else
    let due := p.pair_.armed.any (fun a => a.tc ≤ p.ringOf t) || p.pair_.taken.isSome || p.pair_.openTick.isSome
    match p.goingOut t with
    | some tc => if p.floor && !p.permitted && p.floorIn then p.outgoingRelease tc t else p
    | none =>
      if p.floor && !p.permitted && p.floorIn then p.releaseFloor t
      else if due then p.incomingDone
      else p.raise Reg.PAIR_EVT 8

/-- CALL_IN_CHANGE. -/
def execCallInChange (level : Bool) (t : Instant) (s : State) := s.run (·.callIn level t)

/-- FLOOR_IN_CHANGE: a filtered change of FLOOR_IN (R341, R344). -/
def Part.floorInChange (p : Part) (lvl : Bool) (t : Instant) : Part :=
  let p := p.at t
  let was := p.floorIn
  let p := p.setBit Reg.PAIR_STAT 30 lvl
  if lvl = was then p
  else if lvl then
    let p := p.when p.floor (·.onPair (fun x => { x with both := some t }))
    match p.goingOut t with
    | some tc => if p.floor && !p.permitted then p.outgoingRelease tc t else p
    | none => p
  else
    let p := (p.overlapEnd t).incomingDone
    if p.pair_.openTick.isSome && p.floor && p.permitted then
      (p.raise Reg.PAIR_EVT 1).onPair (fun x => { x with openTick := none })
    else p

/-- FLOOR_IN_CHANGE. -/
def execFloorInChange (level : Bool) (t : Instant) (s : State) := s.run (·.floorInChange level t)

/-- FLOOR_CONFLICT: FLOOR_IN has been high for 400 ns while the part holds the floor (R341). -/
def execFloorConflict (t : Instant) (s : State) :=
  s.run (fun p => match p.pair_.both with
    | some b =>
      if p.floor && p.floorIn && b + nsec 400 ≤ t then
        (((p.at t).releaseFloor t).raise Reg.PAIR_EVT 9).onPair (fun x => { x with taken := none, openTick := none })
      else p
    | none => p)

/-- CUTIN_PERMIT_TIMEOUT: an incoming part that CALL_IN does not permit by t_c + 300 ns releases, and its role returns to
2 (R341, R357). -/
def execCutinPermitTimeout (t : Instant) (s : State) :=
  s.run (fun p => match p.pair_.taken with
    | some tc =>
      if tc + nsec 295 ≤ p.ringOf t && (!p.floor || !p.permitted) then
        ((((p.at t).releaseFloor t).setRole 2).raise Reg.PAIR_EVT 6).onPair (fun x => { x with armed := none, taken := none })
          |>.showPair
      else p
    | none => p)

/-- OPEN_FLOOR_RELEASE: 300 ns after the open-floor tick the member not permitted releases; a member that keeps the floor
reports once its twin has released (R344). -/
def execOpenFloorRelease (t : Instant) (s : State) :=
  s.run (fun p => match p.pair_.openTick with
    | some t0 =>
      if t < t0 + nsec 295 then p
      else if !p.permitted then
        (((p.at t).releaseFloor t).raise Reg.PAIR_EVT 1).onPair (fun x => { x with openTick := none })
      else if !p.floorIn then ((p.at t).raise Reg.PAIR_EVT 1).onPair (fun x => { x with openTick := none })
      else p.at t
    | none => p)

/-- PAIR_OPEN: a write of OPEN arms open floor for the tick at PAIR_OPENT, or is ignored (R344). -/
def Part.pairOpen (p : Part) (t : Instant) : Part :=
  let p := p.at t
  let at0 := p.ringFull (p.reg Reg.PAIR_OPENT_HI).toNat (p.reg Reg.PAIR_OPENT_LO).toNat
  if !nsValid (p.reg Reg.PAIR_OPENT_LO) || (p.role ≠ 1 && p.role ≠ 2) || at0 < p.ringOf t + usec 10 || p.pair_.armed.isSome then
    p.raise Reg.PAIR_EVT 10
  else (p.onPair (fun x => { x with openAt := some at0 })).showPair

/-- PAIR_OPEN. -/
def execPairOpen (t : Instant) (s : State) := s.run (·.pairOpen t)

/-- A cut-in request goes to the caller (R354). -/
def Part.requestCut (p : Part) (g : Grp) (t0 : Option Instant) : Part :=
  p.send (.pair p.pair_.callerNode (.request p.pair_.callerPair { grp := g, t0 := t0.map p.ringOf, ts := p.tsFloor g }))

/-- PAIR_REQ: software asks for a cut-in; CUTREQ goes with the heartbeats. -/
def Part.pairReq (p : Part) (t : Instant) : Part :=
  ((p.at t).onPair (fun x => { x with cutReq := true })).requestCut p.floorGrp none

/-- PAIR_REQ. -/
def execPairReq (t : Instant) (s : State) := s.run (·.pairReq t)

/-! Mirror frames (R346, R347). -/

/-- The words that the figure's mirror list names, as a lane holds them (R169). -/
def mirrorWords (img : WordFile) (l : Lane) : List Word :=
  let z : Nat → Word := fun _ => 0
  (List.range (imgWord img 0x20).toNat).flatMap (fun i =>
    let w0 := imgWord img (0x1000 + 8 * i)
    let n := (imgWord img (0x1004 + 8 * i)).toNat
    let a := bits w0 0 16
    match bits w0 30 2 with
    | 0 => (List.range n).map (fun k => sGet z l.data (a + k))
    | 1 => (List.range n).map (fun k => sGet z l.v (a + k))
    | 2 => (List.range n).map (fun k => sGet z l.a (a + k))
    | _ => [])

/-- Words of a mirror list written into a lane. -/
def Lane.putMirror (l : Lane) (img : WordFile) (ws : List Word) : Lane :=
  let z : Nat → Word := fun _ => 0
  ((List.range (imgWord img 0x20).toNat).foldl (fun (e : Lane × List Word) i =>
    let w0 := imgWord img (0x1000 + 8 * i)
    let n := (imgWord img (0x1004 + 8 * i)).toNat
    let a := bits w0 0 16
    let put : WordFile → WordFile := fun f => (List.range n).foldl (fun f k => sSet z f (a + k) (e.2.getD k 0)) f
    let l := match bits w0 30 2 with
      | 0 => { e.1 with data := put e.1.data }
      | 1 => { e.1 with v := put e.1.v }
      | 2 => { e.1 with a := put e.1.a }
      | _ => e.1
    (l, if bits w0 30 2 = 3 then e.2 else e.2.drop n)) (l, ws)).1

/-- The mirror set of a group as the present sample leaves it (R346). -/
def Part.mirrorOf (p : Part) (g : Grp) : MirrorFrame :=
  let c := p.cg g
  let lane := p.lane ((p.members g).headD 0)
  { grp := g, fig := p.figId g, scnt := p.reg (Reg.CLE_SCNT_LO g.ix), t0 := p.ringOf c.t0,
    spw := (List.range 16).map (fun k => sGet (fun _ => 0) c.pfile (257 + k)), seqcmd := sGet (fun _ => 0) c.pfile 256,
    ramps := (List.range 16).map (fun k => (k, (p.ramp k).mirrored)),
    region := p.reg (Reg.CLE_REGION g.ix), bands := c.bands, fadeN := c.fadeN, fadeK := c.fadeK,
    words := mirrorWords c.img lane, grid := if p.gridRuns g then some (gridMirror c.grid p.time.off) else none }

/-- The active part sends its mirror set after a sample with a majority: on the partner link, or on the ring while both
its lanes are down (R345, R346). -/
def Part.sendMirror (p : Part) (g : Grp) : Part :=
  let f := p.mirrorOf g
  if p.bit Reg.PAIR_STAT 23 then p.send (.link f) else p.send (.pair 0 (.mirror f true))

/-- A mirror frame is applied in the gap before the next tick, into every lane that serves the group or loads for it. -/
def Part.applyMirror (p : Part) (g : Grp) (f : MirrorFrame) : Part :=
  let img := (p.cg g).img
  let p := p.each (p.serving g) (fun p n => p.onLane n (·.putMirror img f.words))
  let p := p.each f.ramps (fun p e => p.setRamp e.1 ((p.ramp e.1).takeMirror e.2))
  let p := p.each (List.range 16) (fun p k => p.setReg (Reg.CLE_SPW g.ix k) (f.spw.getD k 0))
  let p := (p.setReg (Reg.CLE_SEQCMD g.ix) f.seqcmd).setReg (Reg.CLE_REGION g.ix) f.region
  let p := p.onCg g (fun c =>
    { c with bands := f.bands, fadeN := f.fadeN, fadeK := f.fadeK, grid := (f.grid.map (gridTake c.grid p.time.off)).getD c.grid })
  let p := p.onPair (fun x => { x with wait := vset x.wait g.ix none, age := vset x.age g.ix (some 0) })
  p.setReg Reg.PAIR_MCNT (p.reg Reg.PAIR_MCNT + 1)

/-- Compare a frame with the part's own values of the same sample: a difference is counted (R347). -/
def Part.compareMirror (p : Part) (g : Grp) (f : MirrorFrame) : Part :=
  match vget none p.pair_.own g.ix with
  | some o =>
    if { o with scnt := f.scnt } = f then p else (p.countSat Reg.PAIR_MDIFF 0 32).raise Reg.PAIR_EVT 2
  | none => p

/-- The end of a standby's own sample: a frame that waits for it is compared and applied. -/
def Part.mirrorAtEnd (p : Part) (g : Grp) : Part :=
  let o := p.mirrorOf g
  let p := p.onPair (fun x => { x with
    own := vset x.own g.ix (some o), age := vset x.age g.ix ((vget none x.age g.ix).map (· + 1)) })
  match vget none p.pair_.wait g.ix with
  | some f => if p.role = 2 && f.t0 = o.t0 then (p.compareMirror g f).applyMirror g f
    else (p.onPair (fun x => { x with wait := vset x.wait g.ix none })).countSat Reg.PAIR_MLATE 0 32 |>.raise Reg.PAIR_EVT 3
  | none => p

/-- MIRROR_FRAME: a standby takes a frame (R347). A frame for a group that does not run here counts as an ID mismatch: R143 names
that count for a figure that differs, and not for one that does not run (DESIGN CHOICE, log entry 26). -/
def Part.mirrorFrame (p : Part) (f : MirrorFrame) (crcOk : Bool) (t : Instant) : Part :=
  let g := f.grp
  if p.role ≠ 2 || !crcOk then p
  else
    let p := p.at t
    if f.fig ≠ p.figId g || !p.groupRuns g then (p.countSat Reg.PAIR_MIDERR 0 32).raise Reg.PAIR_EVT 4
    else if f.t0 ≠ p.ringOf (p.cg g).t0 || p.nextUpdate g < t + nsec 100 then (p.countSat Reg.PAIR_MLATE 0 32).raise Reg.PAIR_EVT 3
    else if (p.cg g).open_ then p.onPair (fun x => { x with wait := vset x.wait g.ix (some f) })
    else (p.compareMirror g f).applyMirror g f

/-- Whether a task's body is the sequencing library: a cyclic task of 1 ms that carries its I/O map (R76). -/
def libTask (d : CycDesc) : Option LibMap := if d.cyclic && d.period = msec 1 then d.lib else none

/-- Tasks of the running image that own MIRROR variables. -/
def Part.mirrorTasks (p : Part) : List CycTask :=
  p.cyc.tasks.filter (fun k => p.cyc.img.vars.any (fun v => v.mirror && k.desc.outs.any (fun o => o.ident = v.ident)))

/-- MIRROR variables of the active part's cyclic program, and its library's state (R348, R300, R85): frames of another image
are counted. -/
def Part.cyclicMirror (p : Part) (m : CycMirror) (t : Instant) : Part :=
  if p.role ≠ 2 then p
  else
    let p := p.at t
    if m.image ≠ p.cyc.img.id then (p.countSat Reg.PAIR_MIDERR 0 32).raise Reg.PAIR_EVT 4
    else
      let ids := m.vals.map (·.1)
      let p := { p with
        cyc := { p.cyc with mirrored := m.vals ++ p.cyc.mirrored.filter (fun (e : Nat × Nat) => !ids.contains e.1) },
        lib := (m.lib.map (fun x => libMoved x (-p.time.off))).getD p.lib }
      p.onPair (fun x => { x with cyclicAt := (m.task, p.ringNow) :: x.cyclicAt.filter (fun e => e.1 ≠ m.task) })

/-- A frame of the partner link: the mirror set of a figure, or of a cyclic program. -/
def Part.mirrorIn (p : Part) (f : MirrorFrame ⊕ CycMirror) (crcOk : Bool) (t : Instant) : Part :=
  match f with
  | .inl f => p.mirrorFrame f crcOk t
  | .inr m => p.when crcOk (·.cyclicMirror m t)

/-- MIRROR_FRAME. -/
def execMirrorFrame (f : MirrorFrame ⊕ CycMirror) (crcOk : Bool) (t : Instant) (s : State) := s.run (·.mirrorIn f crcOk t)

/-- Show the partner link from its working lanes (R345). -/
def Part.showLink (p : Part) (lanes : Nat) : Part :=
  let p := p.onPair (fun x => { x with lanesUp := lanes % 4 })
  let n := lanes % 2 + lanes / 2 % 2
  ((p.setBit Reg.PAIR_STAT 23 (n ≠ 0)).setBit Reg.PAIR_STAT 22 (n = 1)).setBit Reg.PAIR_STAT 21 (n = 0)

/-- PARTNER_LANE_FAIL: one lane left runs at half rate; with none, mirror frames travel on the ring. -/
def execPartnerLaneFail (lane : Fin 2) (t : Instant) (s : State) :=
  s.run (fun p => (p.at t).showLink (p.pair_.lanesUp &&& (3 ^^^ 2 ^ lane.val)))

/-- PARTNER_LINK_RETURN: lanes work again. -/
def execPartnerLinkReturn (lanes : BitVec 2) (t : Instant) (s : State) :=
  s.run (fun p => (p.at t).showLink (p.pair_.lanesUp ||| lanes.toNat))

/-! Eligibility and heartbeats (R351, R353). -/

/-- Whether a standby is eligible (R351). -/
def Part.eligible (p : Part) : Bool :=
  let runs := [Grp.A, Grp.B].filter (fun g => p.groupRuns g)
  let ok : Grp → Bool := fun g => p.gmode g = 1 || p.gmode g = 2
  p.role = 2 && ok p.floorGrp && runs.all ok
    && runs.all (fun g => (vget none p.pair_.age g.ix).any (· < 8))
    && p.mirrorTasks.all (fun k => match k.last, (p.pair_.cyclicAt.find? (fun e => e.1 = k.desc.id)).map (·.2) with
        | some l, some e => l ≤ e + k.desc.period
        | none, _ => true
        | _, none => false)
    && p.fld Reg.GATE_LATCH 0 24 = 0
    && p.pair_.gradeThr ≤ p.grade

/-- CUTREQ as the heartbeat carries it: a sample without majority, a watchdog, or software asks for a cut-in. -/
def Part.cutReq (p : Part) : Bool := p.pair_.cutReq || p.bit (Reg.CLE_GSTAT 0) 7 || p.bit (Reg.CLE_GSTAT 1) 7

/-- This part's heartbeat for a tick. -/
def Part.heartbeat (p : Part) (t : Instant) : Heartbeat :=
  { uid := p.reg Reg.RING_UID_HI ++ p.reg Reg.RING_UID_LO, role := p.role, grade := p.grade, floor := p.floor,
    eligible := p.eligible, cutreq := p.cutReq, figA := p.figId .A, figB := p.figId .B, tick := p.ringOf t }

/-- A heartbeat at a tick of the governing group, in the roles of Table 1.16 that send one (R349); with no PLL locked none
is sent (R441). -/
def Part.sendHeartbeat (p : Part) (g : Grp) (t : Instant) : Part :=
  let p := p.setBit Reg.PAIR_STAT 24 p.eligible
  if g = p.floorGrp && p.role ≠ 0 && !p.bit Reg.CLK_STAT 24 then
    p.send (.pair p.pair_.callerNode (.heartbeat p.pair_.callerPair (p.bit Reg.PAIR_CFG 31) (p.heartbeat t)))
  else p

/-! Members (R352, R356, R358). -/

/-- A caller heartbeat: GRADETHR is taken and CALLER_LOST clears. -/
def Part.callerBeat (p : Part) (b : CallerBeat) (t : Instant) : Part :=
  ((p.at t).onPair (fun x => { x with
    gradeThr := b.gradeThr, lastCaller := t, callerNode := b.node, callerPair := Fin.ofNat 4 b.k })).setBit
    Reg.PAIR_STAT 25 false

/-- CALLER_HEARTBEAT. -/
def execCallerHeartbeat (b : CallerBeat) (t : Instant) (s : State) := s.run (·.callerBeat b t)

/-- CALLER_LOST: a member has had no caller heartbeat for CALLTO (R358). -/
def execCallerLost (t : Instant) (s : State) :=
  s.run (fun p =>
    if (p.role = 1 || p.role = 2) && !p.bit Reg.PAIR_STAT 25 && p.pair_.lastCaller + msec (p.fld Reg.PAIR_CFG 8 8) ≤ t then
      ((p.at t).setBit Reg.PAIR_STAT 25 true).raise Reg.PAIR_EVT 5
    else p)

/-- CUTIN_DECISION: a member arms if the frame comes at least 0.5 µs before t_c (R356); a comparator test of the standby
is abandoned (R350). -/
def Part.cutDecision (p : Part) (d : CutDecision) (t : Instant) : Part :=
  let p := p.at t
  if (p.role ≠ 1 && p.role ≠ 2) || d.tc < p.ringOf t + nsec 500 then p
  else
    let a : ArmedCut := { tc := d.tc, grp := d.grp, incoming := d.side = p.bit Reg.PAIR_CFG 31 }
    let p := p.onPair (fun x => { x with armed := some a, step := if x.step = 3 then 4 else x.step,
                                         unit := if x.step = 3 then 0 else x.unit })
    p.showPair

/-- CUTIN_DECISION. -/
def execCutinDecision (d : CutDecision) (t : Instant) (s : State) := s.run (·.cutDecision d t)

/-! The caller (R352 to R356). -/

/-- A pair as the caller keeps it. -/
def Part.callPair (p : Part) (k : Nat) : CallPair := vget {} p.pair_.callers k

/-- Replace a pair of the caller. -/
def Part.setCallPair (p : Part) (k : Nat) (x : CallPair) : Part :=
  p.onPair (fun y => { y with callers := vset y.callers k x })

/-- The part calls for pair `k`. -/
def Part.callOn (p : Part) (k : Nat) : Bool := p.bit (Reg.PAIR_CALLCFG k) 31

/-- The level of CALL_OUTk. -/
def Part.callLevel (p : Part) (k : Nat) : Bool := p.bit (Reg.PAIR_CALLSTAT k) 31

/-- CALL_OUTk at its pin: high-impedance while EN is clear (R352). -/
def Part.callPin (p : Part) (k : Nat) : Option Bool := if p.callOn k then some (p.callLevel k) else none

/-- Node of a side of pair `k`. -/
def Part.callNode (p : Part) (k : Nat) (side : Bool) : Nat := p.fld (Reg.PAIR_CALLCFG k) (if side then 16 else 8) 7

/-- A side of a pair. -/
def CallPair.side (x : CallPair) (b : Bool) : CallSide := vget {} x.sides b.toNat

/-- Replace a side. -/
def CallPair.setSide (x : CallPair) (b : Bool) (y : CallSide) : CallPair := { x with sides := vset x.sides b.toNat y }

/-- HBMISS. -/
def Part.hbMiss (p : Part) : Nat := p.fld Reg.PAIR_CFG 0 5

/-- Show the misses of a pair. -/
def Part.showCall (p : Part) (k : Nat) : Part :=
  let x := p.callPair k
  (p.setFld (Reg.PAIR_CALLSTAT k) 16 4 (min 15 (x.side false).misses)).setFld (Reg.PAIR_CALLSTAT k) 20 4
    (min 15 (x.side true).misses)

/-- Whether a side counts as lost. -/
def Part.sideLost (p : Part) (k : Nat) (b : Bool) : Bool := p.hbMiss ≤ ((p.callPair k).side b).misses

/-- The first tick of a side at or after an instant, from its heartbeats. -/
def CallSide.tickFrom (s : CallSide) (a : Instant) : Instant :=
  match s.hb with
  | some h => if a ≤ h.tick || s.ts = 0 then max a h.tick else h.tick + (a - h.tick + s.ts - 1) / s.ts * s.ts
  | none => a

/-- The caller judges a trigger (Table 12.3). -/
def Part.judge (p : Part) (k : Nat) (g : CallTrigger) (t : Instant) : Part :=
  let x := p.callPair k
  let act := p.callLevel k
  let stand := x.side (!act)
  if !p.callOn k || x.armed.isSome || x.moved.isSome then p
  else if p.sideLost k false && p.sideLost k true then p.raise (Reg.PAIR_CALLEVT k) 2
  else if !(stand.hb.any (·.eligible)) || p.sideLost k (!act) then
    (p.raise (Reg.PAIR_CALLEVT k) 3).setCallPair k { x with again := some g }
  else
    let ts := max (x.side act).ts stand.ts
    let pairGrp := p.floorGrp
    let (tc, grp) : Instant × Grp := match g with
      | .request r => match r.t0 with
        | some t0 => (t0 + 2 * r.ts, r.grp)
        | none => (stand.tickFrom (p.ringOf t + ts), pairGrp)
      | _ => (stand.tickFrom (p.ringOf t + ts), pairGrp)
    let d : CutDecision := { tc := tc, grp := grp, side := !act }
    let p := p.setCallPair k { x with armed := some (tc, grp, !act, g), again := none }
    let p := (p.raise (Reg.PAIR_CALLEVT k) 0).countWrap (Reg.PAIR_CALLSTAT k) 0 16
    (p.send (.pair (p.callNode k false) (.decision d))).send (.pair (p.callNode k true) (.decision d))

/-- MEMBER_HEARTBEAT: the misses of its side restart; a trigger that found no eligible standby is judged again; a grade
of the active part below GRADETHR is a trigger (R353, R355). -/
def Part.memberBeat (p : Part) (k : Nat) (side : Bool) (h : Heartbeat) (t : Instant) : Part :=
  if !p.callOn k then p
  else
    let p := p.at t
    let x := p.callPair k
    let s := x.side side
    let ts := match s.hb with
      | some o => if o.tick < h.tick then h.tick - o.tick else s.ts
      | none => s.ts
    let x := x.setSide side { hb := some h, ts := ts, misses := 0, judged := max s.judged h.tick }
    let x := if side = p.callLevel k && h.role = 1 then { x with moved := none } else x
    let p := (p.setCallPair k x).showCall k
    let p := match x.again with
      | some g => ((p.setCallPair k { x with again := none }).judge k g t)
      | none => p
    if side = p.callLevel k && h.grade < p.fld (Reg.PAIR_CALLCFG k) 0 8 then p.judge k .grade t else p

/-- MEMBER_HEARTBEAT. -/
def execMemberHeartbeat (k : Fin 4) (side : Bool) (h : Heartbeat) (t : Instant) (s : State) :=
  s.run (·.memberBeat k.val side h t)

/-- HEARTBEAT_MISS: the heartbeat of a side for a tick has not arrived by max(Ts/2, 7 µs) after it (R353). -/
def Part.beatMissed (p : Part) (k : Nat) (side : Bool) (tick t : Instant) : Part :=
  let x := p.callPair k
  let s := x.side side
  if !p.callOn k || tick ≤ s.judged || p.ringOf t < tick + max (s.ts / 2) (usec 7) || tick < x.resume then p
  else
    let p := (p.at t).setCallPair k (x.setSide side { s with misses := s.misses + 1, judged := tick })
    let p := p.showCall k
    if !p.sideLost k side then p
    else if p.sideLost k (!side) then p.raise (Reg.PAIR_CALLEVT k) 2
    else if side = p.callLevel k then p.judge k .missed t
    else p

/-- HEARTBEAT_MISS. -/
def execHeartbeatMiss (k : Fin 4) (side : Bool) (tick t : Instant) (s : State) := s.run (·.beatMissed k.val side tick t)

/-- CALLER_HEARTBEAT_SEND: every 1 ms to each member (R352). -/
def Part.callerSend (p : Part) (k : Nat) (t : Instant) : Part :=
  if !p.callOn k || (p.callPair k).sent.any (fun a => t < a + msec 1) then p
  else
    let p := (p.at t).setCallPair k { p.callPair k with sent := some t }
    let tc := (p.callPair k).armed.map (·.1)
    let b : CallerBeat :=
      { node := p.fld Reg.RING_STAT 0 7, k := k, level := p.callLevel k, gradeThr := p.fld (Reg.PAIR_CALLCFG k) 0 8,
        tc := tc, sent := p.ringOf t }
    (p.send (.pair (p.callNode k false) (.caller b))).send (.pair (p.callNode k true) (.caller b))

/-- CALLER_HEARTBEAT_SEND. -/
def execCallerHeartbeatSend (k : Fin 4) (t : Instant) (s : State) := s.run (·.callerSend k.val t)

/-- CUTIN_REQUEST: a request of the active part. -/
def execCutinRequest (k : Fin 4) (r : CutRequest) (t : Instant) (s : State) :=
  s.run (fun p => (p.at t).judge k.val (.request r) t)

/-- CALLER_SWAP: a planned cut-in. -/
def execCallerSwap (k : Fin 4) (t : Instant) (s : State) := s.run (fun p => (p.at t).judge k.val .swap t)

/-- CUTIN_CALL_CHANGE: at t_c, within 1 ns, the caller changes CALL_OUTk (R356). -/
def Part.callChange (p : Part) (k : Nat) (t : Instant) : Part :=
  let x := p.callPair k
  match x.armed with
  | some a =>
    if p.ringOf t + nsec 1 < a.1 || a.1 + nsec 1 < p.ringOf t then p
    else ((p.at t).setBit (Reg.PAIR_CALLSTAT k) 31 a.2.2.1).setCallPair k { x with armed := none, moved := some a }
  | none => p

/-- CUTIN_CALL_CHANGE. -/
def execCutinCallChange (k : Fin 4) (t : Instant) (s : State) := s.run (·.callChange k.val t)

/-- CUTFAIL_RESTORE: the heartbeats after t_c show the floor where it was: at the next tick the caller restores CALL_OUTk
and judges the trigger again (R356). -/
def Part.callRestore (p : Part) (k : Nat) (t : Instant) : Part :=
  let x := p.callPair k
  match x.moved with
  | some (tc, _, side, g) =>
    let shows : Bool → Bool → Bool := fun b fl => (x.side b).hb.any (fun h => tc ≤ h.tick && h.floor = fl)
    if shows side false && shows (!side) true && tc < p.ringOf t
        && (x.side side).tickFrom (p.ringOf t - nsec 1) ≤ p.ringOf t + nsec 1 then
      let p := ((p.at t).setBit (Reg.PAIR_CALLSTAT k) 31 (!side)).raise (Reg.PAIR_CALLEVT k) 1
      (p.setCallPair k { x with moved := none }).judge k g t
    else p
  | none => p

/-- CUTFAIL_RESTORE. -/
def execCutfailRestore (k : Fin 4) (t : Instant) (s : State) := s.run (·.callRestore k.val t)

/-! The standby's self-test (R350). -/

/-- Whether a unit of a step can be tested now: an in-service lane with a SPARE to stand in, the memories, an enabled
comparator with a free reserve, a delay line. -/
def Part.testable (p : Part) (step u : Nat) : Bool :=
  match step with
  | 1 => p.laneState u = 1 && (p.freeLane (p.laneGrp u)).isSome && (p.cg (p.laneGrp u)).load.isNone
  | 2 => u = 0
  | 3 => u < 12 && p.bit (Reg.PROT_CFG u) 31 && (List.range 2).any (p.idleRsv 7)
  | _ => true

/-- The units of a step. -/
def testUnits (step : Nat) : Nat := if step = 1 then 8 else if step = 2 then 1 else if step = 3 then 14 else 56

/-- The next step and unit of the round at or after a place; none at its end. -/
def Part.nextTest (p : Part) (step u : Nat) : Option (Nat × Nat) :=
  ((List.range 4).flatMap (fun i => (List.range (testUnits (i + 1))).map (fun v => (i + 1, v)))).find? (fun e =>
    (step < e.1 || (step = e.1 && u ≤ e.2)) && p.testable e.1 e.2)

/-- STANDBY_SELFTEST_STEP: the next unit is tested, one at a time; `pass` says how it ended and `found` what a scrub pass
met. A lane is swapped out for a SPARE and then runs its BIST, which ends by its own step. -/
def Part.selfTest (p : Part) (pass : Bool) (found : List EccFind) (t : Instant) : Part :=
  if p.role ≠ 2 then p
  else
    let p := p.at t
    match p.nextTest p.pair_.step p.pair_.unit with
    | none =>
      ((p.onPair (fun x => { x with step := 1, unit := 0 })).countWrap Reg.PAIR_STSTAT 0 16).setFld Reg.PAIR_STSTAT 28 4 0
    | some (step, u) =>
      let p := (p.onPair (fun x => { x with step := step, unit := u + 1 })).setFld Reg.PAIR_STSTAT 28 4 step
      let ok := if step = 2 then found.all (fun e => !e.fatal) else pass
      let p := if step = 2 then (p.scrubPass false (found.filter (fun e => inSram e.addr))).scrubPass true
          (found.filter (fun e => inEmram e.addr)) else p
      let p := if step = 1 then
          match p.freeLane (p.laneGrp u) with
          | some r => (p.startLoad (p.laneGrp u) { lane := r, unit := u, cause := 0, leaving := some false, bist := true }).onPair
              (fun x => { x with heldLane := some u })
          | none => p
        else p
      let key := 64 * step + u
      let others := p.health.stFail.filter (fun k => k ≠ key)
      if ok then { p with health := { p.health with stFail := others } }
      else ({ p with health := { p.health with stFail := key :: others } }.raise Reg.PAIR_EVT 0).setFld Reg.PAIR_STSTAT 24 4 step

/-- STANDBY_SELFTEST_STEP. -/
def execStandbySelftestStep (pass : Bool) (found : List EccFind) (t : Instant) (s : State) :=
  s.run (·.selfTest pass found t)

/-! Commit (R360, R41). -/

/-- Commit check of PAIR. -/
def Part.pairCheck (p : Part) (val : Nat → Word) : Option (Nat × Nat) :=
  let role := bits (val Reg.PAIR_ROLE) 0 4
  let cfg := val Reg.PAIR_CFG
  if 4 < role then some (1, Reg.PAIR_ROLE)
  else if p.role = 0 && (role = 1 || role = 4) && p.fld Reg.SAFE_OUT 8 2 ≠ 0 then some (6, Reg.PAIR_ROLE)
  else if bits cfg 8 8 = 0 || bits cfg 0 5 < 1 || 16 < bits cfg 0 5 then some (1, Reg.PAIR_CFG)
  else if p.floor && bits cfg 30 2 ≠ p.fld Reg.PAIR_CFG 30 2 then some (6, Reg.PAIR_CFG)
  else (List.range 4).findSome? (fun k =>
    let w := val (Reg.PAIR_CALLCFG k)
    let a := bits w 8 7
    let b := bits w 16 7
    let own := p.fld Reg.RING_STAT 0 7
    if !bitAt w 31 then none
    else if a < 1 || 64 < a || b < 1 || 64 < b then some (1, Reg.PAIR_CALLCFG k)
    else if a = b || a = own || b = own then some (0x10, Reg.PAIR_CALLCFG k)
    else none)

/-- A committed PAIR set takes effect: the role, from which a new member waits for its caller (R358), and role 4 takes the floor
at the next tick (R340); and the call line of an entry that was committed anew (R352). In role 3, which
runs no figures (R41), groups that run stop at their next tick. -/
def Part.pairMoved (p : Part) (old : Nat → Word) : Part :=
  let member : Nat → Bool := fun r => r = 1 || r = 2
  let was := p.role
  let p := (p.setFld Reg.PAIR_STAT 0 4 (p.fld Reg.PAIR_ROLE 0 4)).showPair
  let p := p.onPair (fun x => { x with
    take4 := x.take4 || p.role = 4, lastCaller := if member p.role && !member was then p.now else x.lastCaller })
  let p := p.when (p.role = 3) (fun p => p.each [Grp.A, Grp.B] (fun p g => p.when (p.groupRuns g) (·.runStop g)))
  p.each (List.range 4) (fun p k =>
    let w := p.reg (Reg.PAIR_CALLCFG k)
    if w = old (Reg.PAIR_CALLCFG k) || !bitAt w 31 then p
    else (((p.setBit (Reg.PAIR_CALLSTAT k) 31 (bitAt w 30)).setCallPair k {}).showCall k))

/-- What a PAIR frame of the ring carries is acted on as if it had come by itself. -/
def Part.pairMsg (p : Part) (m : PairMsg) (t : Instant) : Part :=
  match m with
  | .heartbeat k side h => p.memberBeat k.val side h t
  | .caller b => p.callerBeat b t
  | .request k r => (p.at t).judge k.val (.request r) t
  | .decision d => p.cutDecision d t
  | .mirror f ok => p.mirrorFrame f ok t
  | .cyclic m => p.cyclicMirror m t

end Sys2Proof.Machine
end

