-- ==== Sys2Proof/Machine/RingReq.lean ====
section
/-! DEFINITION. Frames of the ring, routes, tags, and the requests that leave this node (chapter 11, R308 to R319). -/

namespace Sys2Proof.Machine

/-- Change what the ring keeps. -/
def Part.onRing (p : Part) (f : RingState → RingState) : Part := { p with ring := f p.ring }

/-- This node's address; 0 while it has none (R312). -/
def Part.node (p : Part) : Nat := p.fld Reg.RING_STAT 0 7

/-- The present epoch. -/
def Part.epoch (p : Part) : Nat := p.fld Reg.RING_STAT 12 4

/-- An event of the ring, and its interrupt source 56 (R336). -/
def Part.ringEvt (p : Part) (i : Nat) : Part := (p.raise Reg.RING_EVT i).irq 56

/-! Frames (R308). -/

/-- The fields of a header (Table 11.1). -/
structure RingHdr where
  dst : Nat := 0
  src : Nat := 0
  epoch : Nat := 0
  tag : Nat := 0
  typ : Nat := 0
  cls : Nat := 0
  len : Nat := 0
  status : Nat := 0
  addr : Nat := 0
  hops : Nat := 0
  wrapped : Bool := false
  dept : Nat := 0
deriving DecidableEq, Repr

/-- The field of `w` bits from bit `lo` of a header. -/
def hdrField (h : BitVec 128) (lo w : Nat) : Nat := h.toNat / 2 ^ lo % 2 ^ w

/-- The fields of a header word. -/
def hdrOf (h : BitVec 128) : RingHdr :=
  { dst := hdrField h 121 7, src := hdrField h 114 7, epoch := hdrField h 110 4, tag := hdrField h 102 8,
    typ := hdrField h 97 5, cls := hdrField h 94 3, len := hdrField h 85 9, status := hdrField h 81 4,
    addr := hdrField h 40 41, hops := hdrField h 32 8, wrapped := h.getLsbD 31, dept := hdrField h 16 14 }

/-- The bytes of a header, most significant first. -/
def hdrBytes (h : BitVec 128) : List Byte := (bytesOf 16 h.toNat).reverse

/-- One byte into a CRC-16 of polynomial 0x1021, not reflected. -/
def crc16Byte (c : Nat) (b : Byte) : Nat :=
  (List.range 8).foldl (fun c _ => if 32768 ≤ c then (2 * c) % 65536 ^^^ 0x1021 else 2 * c % 65536) (c ^^^ (b.toNat * 256))

/-- CRC-16, initial value 0xFFFF. -/
def crc16 (bs : List Byte) : Nat := bs.foldl crc16Byte 0xFFFF

/-- The header CRC over bits [127:16]. -/
def hcrc (h : BitVec 128) : Nat := crc16 ((hdrBytes h).take 14)

/-- The header word of fields, with its CRC. -/
def hdrWord (x : RingHdr) : BitVec 128 :=
  let n := x.dst % 128 * 2 ^ 121 + x.src % 128 * 2 ^ 114 + x.epoch % 16 * 2 ^ 110 + x.tag % 256 * 2 ^ 102
    + x.typ % 32 * 2 ^ 97 + x.cls % 8 * 2 ^ 94 + x.len % 512 * 2 ^ 85 + x.status % 16 * 2 ^ 81 + x.addr % 2 ^ 41 * 2 ^ 40
    + x.hops % 256 * 2 ^ 32 + x.wrapped.toNat * 2 ^ 31 + x.dept % 2 ^ 14 * 2 ^ 16
  let h := BitVec.ofNat 128 n
  h + BitVec.ofNat 128 (hcrc h)

/-- The trailer of a frame (R308). -/
def frameCrc (h : BitVec 128) (payload : List Byte) : Nat := crc32c (hdrBytes h ++ payload)

/-- A time as DEPT holds it: units of 10 ns, modulo 2^14. -/
def deptOf (t : Instant) : Nat := t / nsec 10 % 2 ^ 14

/-! Routes (R311, R320). -/

/-- Whether a port's link works and its ring is not wrapped there; port 0 is EAST, 1 WEST. -/
def Part.portOk (p : Part) (q : Nat) : Bool := p.bit (Reg.RING_PSTAT q) 31 && !p.bit (Reg.RING_PSTAT q) 30

/-- Hops eastward from this node to another, in the intact ring. -/
def Part.eastHops (p : Part) (n : Nat) : Option Nat :=
  let place := fun k => (p.ring.east.find? (fun e => e.1 = k)).map (·.2)
  match place n, place p.node with
  | some d, some m => some ((d + p.ring.nodes - m) % max 1 p.ring.nodes)
  | _, _ => none

/-- The direction with fewer hops over working links, EAST where both are equal. -/
def Part.route (p : Part) (dst : Nat) : Nat :=
  match p.eastHops dst with
  | none => 0
  | some e =>
    let cuts := p.ring.cuts.filterMap p.eastHops
    let eastOk := cuts.all (fun c => e ≤ c)
    let westOk := cuts.all (fun c => c < e)
    if eastOk && (!westOk || e ≤ p.ring.nodes - e) then 0 else if westOk then 1 else 0

/-- A frame leaves by a port; a frame bound for a dead port is turned into the other one with WRAPPED set. -/
def Part.emit (p : Part) (q : Nat) (x : RingHdr) (payload : List Byte) : Part :=
  if p.portOk q then p.send (.ring q (hdrWord x) payload)
  else if p.portOk (1 - q) then p.send (.ring (1 - q) (hdrWord { x with wrapped := true }) payload)
  else p

/-- A frame of this node leaves; one to node 127 travels EAST, and both ways where the ring is wrapped. -/
def Part.originate (p : Part) (x : RingHdr) (payload : List Byte) : Part :=
  let x := { x with src := p.node, epoch := p.epoch, dept := deptOf p.ringNow }
  if x.dst ≠ 127 then p.emit (p.route x.dst) x payload
  else if p.bit Reg.RING_STAT 27 then
    let one := fun (p : Part) (q : Nat) => if p.portOk q then p.send (.ring q (hdrWord x) payload) else p
    one (one p 0) 1
  else p.emit 0 x payload

/-! Requests (R315, R318). -/

/-- The next tag for a destination. -/
def Part.nextTag (p : Part) (dst : Nat) : Nat := sGet (fun _ => 0) p.ring.tags dst

/-- Whether a tag is still held: its completion has not come, or it left less than 50 µs ago. -/
def Part.tagHeld (p : Part) (dst tag : Nat) : Bool :=
  p.ring.reqs.any (fun r => r.dst = dst && r.tag = tag)
    || (dst = 127 && p.ring.bcasts.any (fun e => e.1 = tag && p.now < e.2 + usec 50))

/-- A request leaves now, with the next tag of its destination. -/
def Part.leave (p : Part) (r : RingReq) : Part :=
  let tag := p.nextTag r.dst
  let p := p.onRing (fun x => { x with tags := sSet (fun _ => 0) x.tags r.dst ((tag + 1) % 256) })
  let p := p.originate { dst := r.dst, tag := tag, typ := r.typ, cls := r.cls, len := r.len, addr := r.addr } r.data
  if r.typ = 3 then p.onRing (fun x => { x with bcasts := (tag, p.now) :: x.bcasts.filter (fun e => p.now < e.2 + usec 50) })
  else p.onRing (fun x => { x with reqs := x.reqs ++ [{ r with tag := tag, epoch := p.epoch, left := p.now }] })

/-- Requests that wait leave in their order, except those that a promenade or a tag still holds. -/
def Part.pump (p : Part) : Part :=
  let l := p.ring.waits
  (p.onRing (fun x => { x with waits := [] })).each l (fun p r =>
    if (p.ring.prom && 2 ≤ r.cls) || p.tagHeld r.dst (p.nextTag r.dst) || p.ring.waits.any (fun q => q.dst = r.dst) then
      p.onRing (fun x => { x with waits := x.waits ++ [r] })
    else p.leave r)

/-- A request of this node. -/
def Part.request (p : Part) (r : RingReq) : Part := (p.onRing (fun x => { x with waits := x.waits ++ [r] })).pump

/-- Whether a node number is this node: 0, or the address it has (R309). -/
def Part.isSelf (p : Part) (n : Nat) : Bool := n = 0 || (n = p.node && p.bit Reg.RING_STAT 31)

/-- The status with which a request of a node and an address ends without leaving: 0x1 where no node has the number
(R37), 0x2 for a read of node 127. -/
def refusedAt (n : Nat) (isRead : Bool) : Option Nat :=
  if 65 ≤ n && n ≤ 126 then some 1 else if n = 127 && isRead then some 2 else none

end Sys2Proof.Machine
end

