-- ==== Sys2Proof/Machine/Queue.lean ====
section
/-! DEFINITION. Index and configuration writes of the queues (R268 to R270), and what a write does to the registers and
descriptors of a DMA channel (R263 to R267). -/

namespace Sys2Proof.Machine

/-- Queues whose producer index software writes (Table 9.9). -/
def swProduces (q : Nat) : Bool := q < 20 || q = 22 || q = 23 || q = 24 || q = 26

/-- Queues whose consumer index software writes. -/
def swConsumes (q : Nat) : Bool := !swProduces q || (16 ≤ q && q < 20)

/-- Whether an initiator is a core pair. -/
def isCore : Initiator → Bool
  | .core _ => true
  | _ => false

/-- A refused write of queue `q` sets ERR. -/
def Part.queueErr (p : Part) (q : Nat) : Part := p.setBit (Reg.QUE_CFG q) 30 true

/-- A write of PIDX: read-only to the other side, and ignored with ERR where the fill would exceed the size. -/
def Part.pidxWrite (p : Part) (ini : Initiator) (q v : Nat) : Part :=
  if !swProduces q || (16 ≤ q && q < 20 && isCore ini) then p
  else
    let fill := (v % 65536 + 65536 - p.fld (Reg.QUE_CIDX q) 0 16) % 65536
    if p.queueSize q < fill then p.queueErr q else p.setFld (Reg.QUE_PIDX q) 0 16 v

/-- A write of CIDX: read-only to the other side, and ignored with ERR where the fill would become negative. -/
def Part.cidxWrite (p : Part) (ini : Initiator) (q v : Nat) : Part :=
  if !swConsumes q || (16 ≤ q && q < 20 && !isCore ini) then p
  else
    let fill := (p.fld (Reg.QUE_PIDX q) 0 16 + 65536 - v % 65536) % 65536
    if p.queueSize q < fill then p.queueErr q else p.setFld (Reg.QUE_CIDX q) 0 16 v

/-- QUEUE_CIDX_WRITE. -/
def execQueueCidxWrite (ini : Initiator) (q : Fin 32) (v : BitVec 16) (s : State) := s.run (·.cidxWrite ini q.val v.toNat)

/-- A write of BASE while EN is 1 is ignored and sets ERR. -/
def Part.queueBaseWrite (p : Part) (q lo hi : Nat) : Part :=
  if p.bit (Reg.QUE_CFG q) 31 then p.queueErr q
  else (p.setReg (Reg.QUE_BASE_LO q) (BitVec.ofNat 32 lo)).setReg (Reg.QUE_BASE_HI q) (BitVec.ofNat 32 hi)

/-- A write of QUE_CFG: ERR clears where 1 is written; a new LOG2SIZE while EN is 1 is ignored and sets ERR. -/
def Part.queueCfgWrite (p : Part) (q : Nat) (v : Word) : Part :=
  let r := Reg.QUE_CFG q
  let on := p.bit r 31
  let size := bits v 24 4
  let bad := on && size ≠ p.fld r 24 4
  let p := (p.setBit r 30 (p.bit r 30 && !bitAt v 30)).setBit r 31 (bitAt v 31)
  let p := p.setFld r 0 16 (bits v 0 16)
  if bad then p.queueErr q else p.setFld r 24 4 size

/-! DMA channels. -/

/-- Word at byte offset `o` of a descriptor. -/
def descWord (d : List Byte) (o : Nat) : Word := BitVec.ofNat 32 (numOf ((d.drop o).take 4))

/-- SRC or DST of a descriptor as 64 bits. -/
def descAddr (d : List Byte) (o : Nat) : Nat := numOf ((d.drop o).take 8)

/-- Whether a channel runs as TASK. -/
def Part.dmaTask (p : Part) (c : Nat) : Bool := !p.bit (Reg.DMA_CFG c) 8

/-- The address of the descriptor in progress. -/
def Part.descAt (p : Part) (c : Nat) : Nat := p.queueEntry c (p.fld (Reg.DMA_STAT c) 0 16)

/-- A descriptor ends: DONE and STATUS are written and OWN cleared in one write, the consumer index advances, and the
source rises where EVT is set (R264). -/
def Part.descDone (p : Part) (c status : Nat) : Part :=
  let x := p.dmaCh c
  match x.desc with
  | none => p
  | some d =>
    let a := p.descAt c
    let w0 := putBit (descWord d 0) 31 false
    let done := bits (descWord d 4) 0 25 - p.fld (Reg.DMA_CREM c) 0 25
    let p := ((p.storeWord a w0).storeWord (a + 0x18) (BitVec.ofNat 32 done)).storeWord (a + 0x1C)
      (BitVec.ofNat 32 (status * 2 ^ 24))
    let p := p.setFld (Reg.QUE_CIDX c) 0 16 (p.fld (Reg.QUE_CIDX c) 0 16 + 1)
    let p := ((p.setDma c { x with desc := none, crc := 0xFFFFFFFF }).beatGone c).setBit (Reg.DMA_STAT c) 31 false
    let p := if status = 0 then p.countWrap (Reg.DMA_NDONE c) 0 32 else p
    if bitAt w0 15 then p.irq c else p

/-- A channel halts (R266): an ESR-format cause with the DMA bit, the level and the page of the fault in `at_`, the address, and its
source rises. -/
def Part.dmaHalt (p : Part) (c cause at_ va : Nat) (wr fetch : Bool) : Part :=
  let info := cause * 2 ^ 24 + at_ + 2 ^ 18 + fetch.toNat * 2 ^ 17 + wr.toNat * 2 ^ 16
  let p := (p.setBit (Reg.DMA_STAT c) 30 true).setReg (Reg.DMA_FVA c) (BitVec.ofNat 32 va)
  let p := (p.setReg (Reg.DMA_FINFO c) (BitVec.ofNat 32 info)).countSat (Reg.DMA_NFAULT c) 0 32
  (p.setReg Reg.MMU_IOFVA (if cause = 9 then p.reg Reg.MMU_IOFVA else BitVec.ofNat 32 va)).irq c

/-- A descriptor's own faults (Table 9.7): 0x05 for a reserved OP, LEN out of range or PHYS on a TASK channel, 0x04 for
ranges of a COPY that overlap in VA. -/
def descFault (d : List Byte) (task : Bool) : Option Nat :=
  let op := bits (descWord d 0) 24 4
  let len := bits (descWord d 4) 0 25
  let src := descAddr d 8
  let dst := descAddr d 16
  let phys := (op ≠ 1 && src.testBit 63) || dst.testBit 63
  if 2 < op || len = 0 || 16777216 < len || (task && phys) then some 5
  else if op = 0 && !src.testBit 63 && !dst.testBit 63 && src % 2 ^ 32 < dst % 2 ^ 32 && dst % 2 ^ 32 < src % 2 ^ 32 + len then
    some 4
  else none

/-- A channel that is enabled, not halted and without a descriptor reads the next one whose OWN is 1, and checks it. -/
def Part.descFetch (p : Part) (c : Nat) (ecc : List EccFind) : Part :=
  let x := p.dmaCh c
  if !p.bit (Reg.DMA_CTL c) 0 || p.bit (Reg.DMA_STAT c) 30 || x.desc.isSome || !p.bit (Reg.QUE_CFG c) 31
      || p.queueFill c = 0 then p
  else
    let i := p.fld (Reg.QUE_CIDX c) 0 16
    let p := p.setFld (Reg.DMA_STAT c) 0 16 i
    let a := p.descAt c
    let p := p.eccFind (ecc.filter (fun e => a ≤ e.addr && e.addr < a + 32))
    match [0, 8, 16, 24].find? (fun o => p.poisoned (a + o)) with
    | some o => ((p.eccFatal (a + o)).setDma c { x with descErr := true }).dmaHalt c 9 0 (a % 2 ^ 32) false true
    | none =>
      let d := p.loadBytes a 32
      if !bitAt (descWord d 0) 31 then p
      else
        let len := bits (descWord d 4) 0 25
        let p := (p.setDma c { x with desc := some d, crc := 0xFFFFFFFF }).setBit (Reg.DMA_STAT c) 31 true
        let p := (p.setPair (Reg.DMA_CSRC_LO c) (descAddr d 8)).setPair (Reg.DMA_CDST_LO c) (descAddr d 16)
        let p := p.setFld (Reg.DMA_CREM c) 0 25 len
        match descFault d (p.dmaTask c) with
        | some e => p.descDone c e
        | none => p

/-- DMA_DESCRIPTOR_FETCH. -/
def execDmaDescriptorFetch (c : Fin 16) (ecc : List EccFind) (s : State) := s.run (·.descFetch c.val ecc)

/-- A halted channel goes on. -/
def Part.dmaUnhalt (p : Part) (c : Nat) : Part :=
  (p.setBit (Reg.DMA_STAT c) 30 false).setDma c { p.dmaCh c with descErr := false }

/-- DMA_RESUME: the faulting beat is tried again, with a new translation. -/
def Part.dmaResume (p : Part) (c : Nat) : Part :=
  if !p.bit (Reg.DMA_STAT c) 30 then p
  else
    let va := (p.reg (Reg.DMA_FVA c)).toNat
    let (_, asid) := p.ttbOf (Reg.DMA_TTB_LO c)
    (p.dmaUnhalt c).setIotlb (p.core.iotlb.filter (fun e => !e.hits va asid))

/-- DMA_RESUME. -/
def execDmaResume (c : Fin 16) (s : State) := s.run (·.dmaResume c.val)

/-- DMA_SKIP: status 0x01 to 0x03 by the cause; after an error of the descriptor read the consumer index alone advances. -/
def Part.dmaSkip (p : Part) (c : Nat) : Part :=
  if !p.bit (Reg.DMA_STAT c) 30 then p
  else if (p.dmaCh c).descErr then
    let p := p.setFld (Reg.QUE_CIDX c) 0 16 (p.fld (Reg.QUE_CIDX c) 0 16 + 1)
    p.dmaUnhalt c
  else
    let st := match p.fld (Reg.DMA_FINFO c) 24 8 with
      | 8 => 2
      | 9 => 3
      | _ => 1
    (p.dmaUnhalt c).descDone c st

/-- DMA_SKIP. -/
def execDmaSkip (c : Fin 16) (s : State) := s.run (·.dmaSkip c.val)

/-- DMA_ABORT: status 0x07, and the channel is disabled. A descriptor that could not be read is written back too, with nothing
moved. -/
def Part.dmaAbort (p : Part) (c : Nat) : Part :=
  if !p.bit (Reg.DMA_STAT c) 30 then p
  else
    let p := if (p.dmaCh c).descErr then
        let d := p.loadBytes (p.descAt c) 32
        (p.setDma c { p.dmaCh c with desc := some d }).setFld (Reg.DMA_CREM c) 0 25 (bits (descWord d 4) 0 25)
      else p
    ((p.dmaUnhalt c).descDone c 7).setBit (Reg.DMA_CTL c) 0 false

/-- DMA_ABORT. -/
def execDmaAbort (c : Fin 16) (s : State) := s.run (·.dmaAbort c.val)

/-- DMA_EN_WRITE: 1 starts or continues the channel, 0 stops it at the beat boundary with its progress kept (R267). -/
def Part.dmaEn (p : Part) (c : Nat) (on : Bool) : Part :=
  let p := (p.setBit (Reg.DMA_CTL c) 0 on).setBit (Reg.DMA_STAT c) 31 (on && (p.dmaCh c).desc.isSome)
  p.setBit (Reg.DMA_STAT c) 29 (on && p.bit (Reg.DMA_STAT c) 29)

/-- DMA_EN_WRITE. -/
def execDmaEnWrite (c : Fin 16) (on : Bool) (s : State) := s.run (·.dmaEn c.val on)

end Sys2Proof.Machine
end

