-- ==== Sys2Proof/Machine/Nvm.lean ====
section
/-! DEFINITION. The eMRAM controller (protection, wear), the retention buffer and the xSPI port (R271, R277, R288). -/

namespace Sys2Proof.Machine

/-! Wear and the retention buffer. -/

/-- Show the dirty lines and their peak. -/
def Part.showDirty (p : Part) : Part :=
  let n := p.cyc.dirty.length
  let r := Reg.CYC_DIRTY
  ((p.setFld r 0 13 n).setFld r 16 13 (max n (p.fld r 16 13))).setFld Reg.NVM_STAT 0 13 n

/-- The oldest dirty line is written back to eMRAM (R288). -/
def Part.writeBack (p : Part) : Part :=
  match p.cyc.dirty with
  | [] => p
  | l :: ls => (({ p with cyc := { p.cyc with dirty := ls } }).wearRange (64 * l) 64).showDirty

/-- RETENTION_WRITEBACK. -/
def execRetentionWriteback (s : State) := s.run (·.writeBack)

/-- Retained data (Table 1.11). -/
def inRetained (a : Nat) : Bool := 0x21800000 ≤ a && a < 0x22000000

/-- A store makes a line dirty; with 4096 lines dirty a store to another one waits until one has been written back, and
is counted (R288). A line of the area being changed is marked where it has been copied (R295). -/
def Part.dirtyLine (p : Part) (l : Nat) : Part :=
  let p := match p.cyc.change with
    | some c =>
      let a := 0x21800000 / 64 + (if p.bit Reg.CYC_STAT 26 then 49152 else 0)
      if l < a || a + 49152 ≤ l || c.marked.contains l then p
      else
        let n := c.marked.length + 1
        ({ p with cyc := { p.cyc with change := some { c with marked := l :: c.marked } } }).setFld Reg.CYC_CHGSTAT 0 16 n
    | none => p
  if p.cyc.dirty.contains l then p
  else
    let p := if 4096 ≤ p.cyc.dirty.length then
        ((p.countSat Reg.CYC_STALLS 0 32).raise Reg.CYC_EVT 0).writeBack
      else p
    ({ p with cyc := { p.cyc with dirty := p.cyc.dirty ++ [l] } }).showDirty

/-- A store to retained data passes through the buffer; reads see it at once. -/
def Part.retain (p : Part) (a : Nat) (bs : List Byte) : Part :=
  let p := p.storeBytes a bs
  p.each (List.range ((a + bs.length + 63) / 64 - a / 64)) (fun p i => p.dirtyLine (a / 64 + i))

/-! Protection. -/

/-- The bit of NVM_WPROT that covers an address (Table 9.13). -/
def protBit (a : Nat) : Option Nat :=
  if a < 0x20800000 then some 0
  else if a < 0x21000000 then some 1
  else if a < 0x21200000 then some 2
  else if a < 0x21400000 then some 3
  else if a < 0x21800000 then some 4
  else if a < 0x22000000 then none
  else if a < 0x23C00000 then some 7
  else if a < 0x23D00000 then some 5
  else if a < 0x23D10000 then some 6
  else none

/-- Whether the cyclic runtime runs an image: RUN, PRECOPY or SWITCH. -/
def Part.cycRuns (p : Part) : Bool :=
  let st := p.fld Reg.CYC_STAT 28 4
  st = 1 || st = 2 || st = 3

/-- Whether the protection of a bit is in force (R277): its NVM_WPROT bit, the areas that are always protected, the slot of
the running cyclic image, and the slot of a running figure. -/
def Part.protInForce (p : Part) (i : Nat) : Bool :=
  p.bit Reg.NVM_WPROT i || i = 4 || i = 5 || i = 6
    || (p.cycRuns && i = (if p.bit Reg.CYC_STAT 25 then 1 else 0))
    || (([Grp.A, Grp.B] : List Grp).any (fun g => p.groupRuns g && i = 2 + (p.cg g).slot))

/-- Whether a write to an eMRAM address is refused. The areas that are always protected open for the two writes that the
spec asks of a user: the owner key before it is enrolled (R426), and the firmware where the part remains in the boot ROM
(R425). -/
def Part.emramProtected (p : Part) (a : Nat) : Bool :=
  let key := 0x23C10000 ≤ a && a < 0x23C10000 + 2592 && p.trust.ownerFuse.isNone
  let fw := 0x21400000 ≤ a && a < 0x21800000 && p.clk.romOnly
  (protBit a).any p.protInForce && !key && !fw

/-- The first address of a range whose write is refused. -/
def Part.protectedAt (p : Part) (a n : Nat) : Option Nat := ((List.range n).map (a + ·)).find? p.emramProtected

/-- A refused write sets WPREF and records its address. -/
def Part.protRefuse (p : Part) (a : Nat) : Part := (p.raise Reg.NVM_EVT 3).setPair Reg.NVM_WPADDR_LO a

/-- EMRAM_PROTECTED_WRITE: a write to a protected area is ignored. -/
def execEmramProtectedWrite (addr : Addr) (s : State) :=
  s.run (fun p => p.when (inEmram addr.toNat && p.emramProtected addr.toNat) (·.protRefuse addr.toNat))

/-- A write into eMRAM by an initiator: one that touches a protected area is ignored as a whole. -/
def Part.emramWrite (p : Part) (a : Nat) (bs : List Byte) : Part :=
  match p.protectedAt a bs.length with
  | some b => p.protRefuse b
  | none => if inRetained a then p.retain a bs else (p.storeBytes a bs).wearRange a bs.length

/-! The xSPI port. -/

/-- A write of NVM_XCMD with GO: the command is sent with its address and data; while one is in progress another is
ignored. -/
def Part.xspiCommand (p : Part) (v : Word) : Part :=
  if !bitAt v 31 || p.bit Reg.NVM_XSTAT 31 then p
  else
    let ws := (List.range 16).map (fun k => p.reg (Reg.NVM_XDATA k))
    let p := { p with core := { p.core with xcmd := some (v, p.reg Reg.NVM_XADDR, ws) } }
    (p.setBit Reg.NVM_XSTAT 31 true).setBit Reg.NVM_STAT 29 true

/-- XSPI_COMMAND. -/
def execXspiCommand (v : Word) (s : State) := s.run (·.xspiCommand v)

/-- XSPI_COMMAND_DONE: data read by the command stands in NVM_XDATA, and XDONE or XERR is set. -/
def execXspiCommandDone (ok : Bool) (status : Byte) (data : List Word) (s : State) :=
  s.run (fun p =>
    match p.core.xcmd with
    | none => p
    | some (v, _, _) =>
      let p := { p with core := { p.core with xcmd := none } }
      let p := ((p.setBit Reg.NVM_XSTAT 31 false).setBit Reg.NVM_XSTAT 30 (!ok)).setFld Reg.NVM_XSTAT 0 8 status.toNat
      let p := p.setBit Reg.NVM_STAT 29 false
      let n := (bits v 16 6 + 4) / 4
      let p := if bitAt v 30 then p
        else p.each (data.take n).zipIdx (fun p e => p.setReg (Reg.NVM_XDATA e.2) e.1)
      p.raise Reg.NVM_EVT (if ok then 0 else 2))

/-- Commit check of NVM: DIV = 0 is refused with 0x01, a clear of NVM_WPROT bit 4, 5 or 6 with 0x10. -/
def nvmCheck (val : Nat → Word) : Option (Nat × Nat) :=
  if bits (val Reg.NVM_WPROT) 4 3 ≠ 7 then some (0x10, Reg.NVM_WPROT)
  else if bits (val Reg.NVM_XCFG) 16 8 = 0 then some (1, Reg.NVM_XCFG)
  else none

end Sys2Proof.Machine
end

