-- ==== Sys2Proof/Machine/SeqLib.lean ====
section
/-! DEFINITION. The sequencing library (chapter 3): its host interface in retained data, its 1 ms cycle, and its
timeouts. -/

namespace Sys2Proof.Machine

/-- Base of the library's words (R88). -/
def libBase : Nat := 0x21FF0000

/-- Change the library's state. -/
def Part.onLib (p : Part) (f : SeqLib → SeqLib) : Part := { p with lib := f p.lib }

/-- Word `k` of +0x40 to +0x7C as in force. -/
def Part.libW (p : Part) (k : Nat) : Word := if p.lib.words.isEmpty then libDefaults.getD k 0 else p.lib.words.getD k 0

/-- Such a word as a quantity. -/
def Part.libQ (p : Part) (k : Nat) : Int := ofFp (p.libW k)

/-- Such a word as a length of time. -/
def Part.libT (p : Part) (k : Nat) : Nat := fpSeconds (p.libW k)

/-- The group whose grid figure the library commands; a standby's library commands none, since nothing but its own
variables leaves its tasks (R283). DESIGN CHOICE (log entry 62): A where both groups run the figure. -/
def Part.libGrp (p : Part) : Option Grp :=
  if p.role = 2 then none else if p.gridRuns .A then some .A else if p.gridRuns .B then some .B else none

/-- Export port `k` as a quantity. -/
def Part.epQ (p : Part) (g : Grp) (k : Nat) : Int := ofFp (p.reg (Reg.CLE_EP g.ix k))

/-- The converter mode as exported (Table 3.4). -/
def Part.epMode (p : Part) (g : Grp) : Nat := p.fld (Reg.CLE_EP g.ix 15) 0 8

/-- The library writes a command with a new number (R79). -/
def Part.libSend (p : Part) (g : Grp) (req cause : Nat) : Part :=
  let seq := (p.lib.seq + 1) % 256
  let r := Reg.CLE_SEQCMD g.ix
  let p := p.onLib (fun x => { x with seq := seq })
  ((p.setFld r 24 8 seq).setFld r 16 8 cause).setFld r 0 8 req

/-- The library reports a command and its result in SEQ_STATE. -/
def Part.libReport (p : Part) (cmd result word : Nat) : Part :=
  p.retain (libBase + 4) (bytesOf 4 (cmd * 2 ^ 24 + result * 65536 + word * 256))

/-- The library enters a phase. -/
def Part.libPhase (p : Part) (ph : LibPhase) (t : Instant) : Part :=
  p.onLib (fun x => { x with phase := ph, since := t, held := none, dead := none, inRange := none, fbAt := none,
                             rampEnd := none })

/-- The library commands TRIP. -/
def Part.libTrip (p : Part) (g : Grp) (cause : Nat) (t : Instant) : Part := (p.libSend g 8 cause).libPhase .idle t

/-- A target of the library for setpoint `k` (Table 2.2). -/
def Part.libTarget (p : Part) (g : Grp) (k : Nat) (x : Word) : Part :=
  if p.reg (Reg.RAMP_TGT (4 * g.ix + k)) = x then p else p.rampTarget (4 * g.ix + k) x

/-- The library's own targets replace the dispatch targets of P and Q, which it keeps. -/
def Part.libOverride (p : Part) (g : Grp) (ps qs : Word) : Part :=
  let c := 4 * g.ix
  let p := if p.lib.dispatch.isSome then p
    else p.onLib (fun x => { x with dispatch := some (p.reg (Reg.RAMP_TGT c), p.reg (Reg.RAMP_TGT (c + 1))) })
  (p.libTarget g 0 ps).libTarget g 1 qs

/-- The dispatch targets of P and Q come back, and ω_set goes to 1.0 pu (R100). -/
def Part.libRestore (p : Part) (g : Grp) : Part :=
  match p.lib.dispatch with
  | none => p
  | some (a, b) =>
    let c := 4 * g.ix
    let p := ((p.rampTarget c a).rampTarget (c + 1) b).rampTarget (c + 3) fpOne
    p.onLib (fun x => { x with dispatch := none })

/-- V_set is ramped, and ω_set set, towards a voltage and an angle difference (R90). -/
def Part.libSteer (p : Part) (g : Grp) (w : Int) (delta : Word) : Part :=
  let steer := Config.round (p.libQ 10 * (2 * piFix : Nat) * delta.toInt) (2 ^ (fixBits + 32))
  let lim := p.libQ 11
  let x := clampInt (19 * pu / 20) (21 * pu / 20) (w - clampInt (-lim) lim steer)
  let c := 4 * g.ix + 3
  let p := p.rampTarget c (toFp x)
  p.setRamp c { p.ramp c with set := true }

/-- The windows of R91 on a voltage difference, a frequency difference and the predicted angle difference. -/
def Part.libWindows (p : Part) (g : Grp) (dv : Int) (dw delta : Word) : Bool :=
  let pred : Int := delta.toInt * 2 ^ 266 + p.gridHz g * fpScaled dw * fpScaled (p.libW 5)
  dv.natAbs ≤ p.libQ 6 && (ofFp dw).natAbs ≤ p.libQ 7 && pred.natAbs ≤ (p.libW 8).toNat * 2 ^ 266

/-- Since when a condition has held. -/
def since (c : Bool) (old : Option Instant) (t : Instant) : Option Instant := if c then some (old.getD t) else none

/-- Whether a condition has held for a time. -/
def heldFor (x : Option Instant) (n : Nat) (t : Instant) : Bool := x.any (fun a => a + n ≤ t)

/-- V_DC has changed by less than 0.01 × VDC_NOM over the last 100 ms (R89). -/
def Part.vdcSettled (p : Part) (t : Instant) : Bool :=
  let l := p.lib.vdc
  let xs := l.map (·.2)
  let hi := xs.foldl max (xs.headD 0)
  let lo := xs.foldl min (xs.headD 0)
  l.any (fun e => e.1 + msec 100 ≤ t) && 100 * (hi - lo) < p.libQ 0

/-- The ring can give a slot: an address is assigned, no promenade is in progress, and a port is up (R98). -/
def Part.ringSlots (p : Part) : Bool :=
  p.bit Reg.RING_STAT 31 && !p.bit Reg.RING_STAT 29 && (p.bit (Reg.RING_PSTAT 0) 31 || p.bit (Reg.RING_PSTAT 1) 31)

/-- First-mover slot: the ring address less 1, or the exclusive-or of the bytes of the unique ID (R92, R98). -/
def Part.libSlot (p : Part) : Nat :=
  if bitAt (p.libW 15) 0 && p.ringSlots then p.fld Reg.RING_STAT 0 7 - 1
  else (bytesOf 4 Config.uidLo.toNat ++ bytesOf 4 Config.uidHi.toNat).foldl (fun x b => x ^^^ b.toNat) 0

/-- The slot wait T_FM + slot · t_slot (R92). -/
def Part.libWait (p : Part) (g : Grp) : Nat :=
  let pw : Nat → Word := fun n => p.reg (Reg.CLE_PW g.ix n)
  let tpm := if bitAt (pw 0) 7 then 10 * sec 1 / (if bitAt (pw 0) 11 then 60 else 50) else 0
  let vt := ((fpScaled (p.libW 3) * fpScaled (pw 81) * sec 1) / 2 ^ 298).toNat
  fpSeconds (pw 82) + p.libSlot * (p.libT 4 + p.libT 5 + tpm + vt + msec 10)

/-- The library commands CB1 to close. -/
def Part.libClose (p : Part) (t : Instant) : Part := p.onLib (fun x => { x with cb1 := true, cbAt := some t })

/-- The library goes to SYNC with P and Q held at 0 (R90). -/
def Part.libSync (p : Part) (g : Grp) (t : Instant) : Part := ((p.libSend g 4 0).libPhase .sync t).libOverride g 0 0

/-- A setpoint moved towards 0 at STOP_RATE for a time, rounded once to FP32 (R101). -/
def stopStep (x rate : Word) (dt : Nat) : Word :=
  let a := fpScaled x * (sec 1 : Nat)
  let n := fpScaled rate * dt
  fpOfRat (if a < 0 then min 0 (a + n) else max 0 (a - n)) (2 ^ 149 * sec 1)

/-- What the library does in its phase (R89 to R92, R99 to R101). -/
def Part.libPhaseStep (p : Part) (g : Grp) (i : SwitchIn) (m : Nat) (t : Instant) : Part :=
  let x := p.lib
  let vb := p.epQ g 16
  let chk := p.libT 4
  match x.phase with
  | .charge =>
    if x.kmOn && m = 2 then p.libPhase (if x.startOn then .slot else .idle) t
    else if x.kmOn && i.km && x.kpc then (p.libSend g 2 0).onLib (fun x => { x with kpc := false })
    else if !x.kmOn && p.libQ 1 * p.libQ 0 ≤ p.epQ g 10 * pu && p.vdcSettled t then p.onLib (fun x => { x with kmOn := true })
    else p
  | .slot =>
    if m ≠ 2 then p else if heldFor x.inRange chk t then p.libSync g t else p
  | .recheck =>
    if m ≠ 2 then p
    else if heldFor x.inRange chk t then p.libSync g t
    else if heldFor x.dead chk t then p.libPhase .slot t
    else p
  | .closing =>
    match x.fbAt with
    | none => if i.cb1 then p.onLib (fun x => { x with fbAt := some t, cbAt := none }) else p
    | some _ => (if p.epQ g 6 < p.libQ 3 then p.libSend g 3 0 else p.libSend g 5 0).libPhase .idle t
  | .sync =>
    if m = 4 then
      let p := (p.libOverride g 0 0).libTarget g 2 (p.reg (Reg.CLE_EP g.ix 16))
      let p := p.libSteer g (p.cg g).grid.bus.w (p.reg (Reg.CLE_EP g.ix 17))
      let ok := p.libWindows g (vb - p.epQ g 6) (p.reg (Reg.CLE_EP g.ix 18)) (p.reg (Reg.CLE_EP g.ix 17))
      p.onLib (fun x => { x with held := since ok x.held t, cbAt := if i.cb1 then none else x.cbAt })
    else if m = 5 || m = 7 then (p.libPhase .idle t).onLib (fun x => { x with cbAt := none })
    else p
  | .stopping =>
    if m = 6 then p
    else
      let c := 4 * g.ix
      let next := fun c => stopStep (p.reg (Reg.RAMP_TGT c)) (p.libW 12) (t - x.lastCycle)
      let a := next c
      let b := next (c + 1)
      let p := (p.libTarget g 0 a).libTarget g 1 b
      let p := p.onLib (fun x => { x with rampEnd := since (a = 0 && b = 0) x.rampEnd t })
      let low := pu / 20
      if p.lib.rampEnd.isSome && (p.epQ g 4).natAbs ≤ low && (p.epQ g 5).natAbs ≤ low then
        (p.libSend g 2 0).libPhase .opening t
      else p
  | .opening => if m = 2 then (p.libPhase .idle t).onLib (fun x => { x with cb1 := false }) else p
  | .idle =>
    if m = 7 then
      let p := p.libOverride g (p.libW 13) (p.libW 14)
      if bitAt (p.libW 15) 1 then
        let d := p.reg (Reg.CLE_EP g.ix 20)
        (p.libSteer g (p.cg g).grid.main.w d).onLib (fun x => { x with
          syncOk := p.libWindows g (p.epQ g 19 - p.epQ g 6) (p.reg (Reg.CLE_EP g.ix 21)) d })
      else p
    else if m = 5 then p.libRestore g
    else p

/-- The cause of a trip that the library commands by itself in a cycle (Table 3.11): the trips and gate faults reported
since the last cycle, STO in a mode that switches, and CB1 open uncommanded (R84). -/
def Part.libCause (p : Part) (i : SwitchIn) (m : Nat) : Option Nat :=
  if m = 0 || m = 8 then none
  else match p.pwm.reports with
    | c :: _ => some c
    | [] =>
      if p.stoHold && gridSwitches m then some 0x15
      else if gridProfile m && p.lib.cb1 && !i.cb1 then some 0x13
      else none

/-- One cycle of the library: feedbacks into CLE_SEQCMD, what it watches, trips, and its phase. SYNC_OK stands only in a
cycle that raises it (R100). -/
def Part.libCycle (p : Part) (i : SwitchIn) (t : Instant) : Part :=
  match p.libGrp with
  | none => p.onLib (fun x => { x with fb := i, lastCycle := t })
  | some g =>
    let m := p.epMode g
    let r := Reg.CLE_SEQCMD g.ix
    let p := (p.setBit r 8 i.cb1).setBit r 9 (i.cb2 || !bitAt (p.libW 15) 2)
    let vdc := p.epQ g 10
    let nom := p.libQ 0
    let vb := p.epQ g 16
    let inB := (vb - (clampSet p g 2 0 (6 * pu / 5)).1).natAbs ≤ p.libQ 6
      && (p.epQ g 18).natAbs ≤ p.libQ 7
    let band := 70 * nom ≤ 100 * vdc && 100 * vdc ≤ 125 * nom
    let p := p.onLib (fun x => { x with
      fb := i, syncOk := false, vdc := (t, vdc) :: x.vdc.filter (fun e => t < e.1 + msec 101),
      dead := since (vb < p.libQ 3) x.dead t, inRange := since inB x.inRange t,
      out := since (gridSwitches m && !band) x.out t })
    let p := match p.libCause i m with
      | some c => p.libTrip g c t
      | none =>
        if m = 8 then (p.libPhase .idle t).onLib (fun x => { x with cb1 := false, cbAt := none })
        else p.libPhaseStep g i m t
    ({ p with pwm := { p.pwm with reports := [] } }).onLib (fun x => { x with lastCycle := t })

/-! The host interface. -/

/-- The library takes host command `cmd`, if SEQ_HOST holds it: it is cleared, and the result reported. -/
def Part.libHost (p : Part) (cmd : Nat) (allowed : Grp → Nat → Bool) (act : Grp → Nat → Part → Part) : Part :=
  match p.libGrp with
  | none => p
  | some g =>
    if p.loadWord libBase ≠ BitVec.ofNat 32 cmd then p
    else
      let m := p.epMode g
      let p := p.retain libBase (bytesOf 4 0)
      if allowed g m then act g m (p.libReport cmd 0 0) else p.libReport cmd 1 0

/-- CHARGE begins: K_PC closes and CHARGE is written (R89). -/
def Part.libCharge (p : Part) (g : Grp) (goOn : Bool) (t : Instant) : Part :=
  ((p.libSend g 1 0).libPhase .charge t).onLib (fun x => { x with
    kpc := true, kmOn := false, startOn := goOn, vdc := [] })

/-- SEQ_HOST_START. -/
def execSeqHostStart (t : Instant) (s : State) :=
  s.run (fun p => (p.at t).libHost 1 (fun _ m => m = 0 || m = 2)
    (fun g m p => if m = 0 then p.libCharge g true t else p.libPhase .slot t))

/-- SEQ_HOST_CHARGE. -/
def execSeqHostCharge (t : Instant) (s : State) :=
  s.run (fun p => (p.at t).libHost 4 (fun _ m => m = 0) (fun g _ p => p.libCharge g false t))

/-- SEQ_HOST_OFF. -/
def execSeqHostOff (t : Instant) (s : State) :=
  s.run (fun p => (p.at t).libHost 5 (fun _ m => m = 1 || m = 2 || m = 8) (fun g _ p => (p.libSend g 0 0).libPhase .idle t))

/-- SEQ_HOST_STOP: in RIDE the library defers it (R96). -/
def execSeqHostStop (t : Instant) (s : State) :=
  s.run (fun p =>
    let p := p.at t
    let ride := p.libGrp.any (fun g => p.epMode g = 6)
    if ride then p
    else p.libHost 2 (fun _ m => gridSwitches m) (fun _ _ p => p.libPhase .stopping t))

/-- SEQ_HOST_RESET: to READY with V_DC within 0.70 to 1.25 × VDC_NOM, else to OFF (R102). -/
def execSeqHostReset (t : Instant) (s : State) :=
  s.run (fun p =>
    let p := p.at t
    p.libHost 3 (fun _ m => m = 8 && !p.lib.fb.cb1 && p.fld Reg.GATE_LATCH 0 24 = 0 && !p.stoHold)
      (fun g _ p =>
        let v := p.epQ g 10
        let nom := p.libQ 0
        p.libSend g (if 70 * nom ≤ 100 * v && 100 * v ≤ 125 * nom then 2 else 0) 0))

/-- Inclusive ranges of the staged words, as FP32 bounds; the angle word and the flags have their own (Table 3.10). -/
def libRanges : List (Word × Word) :=
  [(0x3F000000, 0x40800000), (0x3F4CCCCD, 0x3F7AE148), (0x3F800000, 0x42700000), (0x3CA3D70A, 0x3E4CCCCD),
   (0x3C23D70A, 0x3DCCCCCD), (0x3C23D70A, 0x3E4CCCCD), (0x3C23D70A, 0x3DCCCCCD), (0x3A03126F, 0x3BA3D70A),
   (11930465, 238609294), (0x40A00000, 0x43960000), (0x3A83126F, 0x3D4CCCCD), (0x3A83126F, 0x3C23D70A),
   (0x3D4CCCCD, 0x41200000), (0xBF99999A, 0x3F99999A), (0xBF99999A, 0x3F99999A)]

/-- Index of the first staged word out of range, if any. -/
def libFault (ws : List Word) : Option Nat :=
  (List.range 15).find? (fun k =>
    let w := ws.getD k 0
    let (lo, hi) := libRanges.getD k (0, 0)
    if k = 8 then w.toNat < lo.toNat || hi.toNat < w.toNat else !(fpLe lo w && fpLe w hi))

/-- SEQ_TCOMMIT: a new value makes the library check its staged words and adopt them, or report the first faulty one
(R88). -/
def execSeqTcommit (t : Instant) (s : State) :=
  s.run (fun p =>
    let p := p.at t
    let v := p.loadWord (libBase + 8)
    if v = p.lib.tcommit then p
    else
      let ws := (List.range 16).map (fun k => p.loadWord (libBase + 0x40 + 4 * k))
      let p := p.onLib (fun x => { x with tcommit := v })
      let last := p.byte (libBase + 7)
      match libFault ws with
      | some k => p.libReport last.toNat 2 (16 + k)
      | none => p.onLib (fun x => { x with words := ws }))

/-! Timeouts. Each is a step of its own that acts when it is due. -/

/-- The library's group, and whether its mode is one. -/
def Part.libIn (p : Part) (ms : List Nat) : Option Grp := p.libGrp.bind (fun g => if ms.contains (p.epMode g) then some g else none)

/-- PRECHARGE_TIMEOUT. -/
def execPrechargeTimeout (t : Instant) (s : State) :=
  s.run (fun p =>
    let p := p.at t
    match p.libGrp with
    | some g =>
      if p.lib.phase = .charge && !p.lib.kmOn && p.lib.since + p.libT 2 ≤ t then
        (p.libTrip g 0x12 t).onLib (fun x => { x with kpc := false })
      else p
    | none => p)

/-- SYNC_WINDOWS_HELD: CB1 is commanded to close (R91). -/
def execSyncWindowsHeld (t : Instant) (s : State) :=
  s.run (fun p =>
    let p := p.at t
    match p.libIn [4] with
    | some g =>
      let per := p.lib.held.any (fun a => sec 1 ≤ (t - a) * p.gridHz g)
      if p.lib.phase = .sync && per && !p.stoHold && !p.lib.cb1 then p.libClose t else p
    | none => p)

/-- CB1_FEEDBACK_TIMEOUT: no feedback within T_CB + 20 ms of the command (R91). -/
def execCb1FeedbackTimeout (t : Instant) (s : State) :=
  s.run (fun p =>
    let p := p.at t
    match p.libGrp with
    | some g =>
      if heldFor p.lib.cbAt (p.libT 5 + msec 20) t && !p.lib.fb.cb1 then
        (p.libTrip g 0x13 t).onLib (fun x => { x with cbAt := none })
      else p
    | none => p)

/-- SYNC_TIMEOUT: READY is commanded, and the timeout reported in SEQ_STATE with a result code that the spec does not
give (R91). -/
def execSyncTimeout (t : Instant) (s : State) :=
  s.run (fun p =>
    let p := p.at t
    match p.libIn [4] with
    | some g =>
      if p.lib.phase = .sync && !p.lib.cb1 && p.lib.since + p.libT 9 ≤ t then
        let code := p.freshBelow 256
        ((p.taken.libSend g 2 0).libReport 1 code 0).libPhase .idle t
      else p
    | none => p)

/-- FIRST_MOVER_SLOT_EXPIRY: after the slot wait and a bus check of T_CHK, CB1 closes on a dead bus, SYNC is commanded on
a bus in range, and a bus that is neither is checked again (R92). -/
def execFirstMoverSlotExpiry (t : Instant) (s : State) :=
  s.run (fun p =>
    let p := p.at t
    match p.libIn [2] with
    | some g =>
      let ended := p.lib.since + p.libWait g
      let chk := p.libT 4
      let aged : Option Instant → Bool := fun x => x.any (fun a => max a ended + chk ≤ t)
      if p.lib.phase ≠ .slot || t < ended + chk then p
      else if heldFor p.lib.inRange chk t then p.libSync g t
      else if aged p.lib.dead then (p.libPhase .closing t).libClose t
      else p.onLib (fun x => { x with phase := .recheck })
    | none => p)

/-- STOP_TIMEOUT: 2 s after the STOP ramp ends READY is written (R101); in RIDE the library defers it (R96). -/
def execStopTimeout (t : Instant) (s : State) :=
  s.run (fun p =>
    let p := p.at t
    match p.libGrp with
    | some g =>
      if p.lib.phase = .stopping && p.epMode g ≠ 6 && heldFor p.lib.rampEnd (sec 2) t then
        (p.libSend g 2 0).libPhase .opening t
      else p
    | none => p)

/-- DC_LINK_OUT_OF_BAND: V_DC outside its band for 10 ms in a mode that switches (R102). -/
def execDcLinkOutOfBand (t : Instant) (s : State) :=
  s.run (fun p =>
    let p := p.at t
    match p.libIn [3, 4, 5, 6, 7] with
    | some g => if heldFor p.lib.out (msec 10) t then (p.libTrip g 0x14 t).onLib (fun x => { x with out := none }) else p
    | none => p)

end Sys2Proof.Machine
end

