-- ==== Sys2Proof/Machine/Cyc.lean ====
section
/-! DEFINITION. The cyclic runtime: images, tasks and their cycles, safe outputs, the watchdog, start and stop
(chapter 10). Instants of this chapter are in ring time. -/

namespace Sys2Proof.Machine

/-- Change what the runtime keeps. -/
def Part.onCyc (p : Part) (f : CycState → CycState) : Part := { p with cyc := f p.cyc }

/-- STATE of the runtime (Table 10.8): 0 STOP, 1 RUN, 2 PRECOPY, 3 SWITCH, 4 WDSTOP, 5 PFSTOP. -/
def Part.cycState (p : Part) : Nat := p.fld Reg.CYC_STAT 28 4

/-- Set STATE. -/
def Part.setCycState (p : Part) (n : Nat) : Part := p.setFld Reg.CYC_STAT 28 4 n

/-- The active image slot. -/
def Part.cycSlot (p : Part) : Nat := p.fld Reg.CYC_STAT 25 1

/-- The base of a variable area (Table 10.4). -/
def varArea (area : Nat) : Nat := 0x21800000 + area * 0x300000

/-- The base of the variable area in use. -/
def Part.varBase (p : Part) : Nat := varArea (p.fld Reg.CYC_STAT 26 1)

/-- The base of a cyclic image slot (Table 1.11). -/
def cycSlotBase (slot : Nat) : Nat := 0x20000000 + slot * 0x800000

/-- What the image of a slot declares. -/
def Part.cycImageAt (p : Part) (slot : Nat) : CycImage :=
  let a := cycSlotBase slot
  Config.cycImage ((p.mem.bytes.filter (fun c => a ≤ c.1 && c.1 < a + 0x800000)).map (fun c => (c.1 - a, c.2)))

/-! Variables and forces. -/

/-- The variable of an identity in the running image. -/
def Part.cycVar (p : Part) (ident : Nat) : Option CycVar := p.cyc.img.vars.find? (fun v => v.ident = ident)

/-- The value of a variable of the running image. -/
def Part.varValue (p : Part) (ident : Nat) : Nat :=
  match p.cycVar ident with
  | some v => p.load (p.varBase + v.off) v.size
  | none => 0

/-- Store a value in a variable of the running image, through the retention buffer. -/
def Part.setVar (p : Part) (ident n : Nat) : Part :=
  match p.cycVar ident with
  | some v => p.retain (p.varBase + v.off) (bytesOf v.size n)
  | none => p

/-- The force on a variable. -/
def Part.forceOf (p : Part) (ident : Nat) : Option CycForce := p.cyc.forces.find? (fun f => f.ident = ident)

/-- Identities that a task accesses. -/
def descIdents (d : CycDesc) : List Nat := d.uses ++ d.ins.map (·.ident) ++ d.outs.map (·.ident)

/-- Forced values are written into the variables of a task (R294). -/
def Part.applyForces (p : Part) (d : CycDesc) : Part :=
  p.each p.cyc.forces (fun p f => if (descIdents d).contains f.ident then p.setVar f.ident f.value else p)

/-- Bytes with `n` of them replaced from word `k` on. -/
def putWords (bs : List Byte) (k n v : Nat) : List Byte := bs.take (4 * k) ++ bytesOf n v ++ bs.drop (4 * k + n)

/-- Word `k` of bytes. -/
def wordAt (bs : List Byte) (k : Nat) : Word := BitVec.ofNat 32 (numOf ((bs.drop (4 * k)).take 4))

/-! Tasks. -/

/-- A task of the running image. -/
def Part.task (p : Part) (k : Nat) : Option CycTask := p.cyc.tasks.find? (fun x => x.desc.id = k)

/-- Replace a task. -/
def Part.setTask (p : Part) (x : CycTask) : Part :=
  p.onCyc (fun c => { c with tasks := c.tasks.map (fun y => if y.desc.id = x.desc.id then x else y) })

/-- State of a task in CYC_TSTAT: 1 idle, 2 ready, 3 running, 4 pre-empted, 5 stopped. -/
def Part.taskState (p : Part) (k : Nat) : Nat := p.fld (Reg.CYC_TSTAT k) 28 4

/-- Set the state of a task. -/
def Part.setTaskState (p : Part) (k n : Nat) : Part := p.setFld (Reg.CYC_TSTAT k) 28 4 n

/-- The remote module of a number in the running image. -/
def Part.remote (p : Part) (m : Nat) : Option CycModule := p.cyc.img.modules.find? (fun x => x.num = m)

/-- What is kept of a remote module. -/
def Part.remoteData (p : Part) (m : Nat) : CycRemote := (p.cyc.remote.find? (fun x => x.num = m)).getD { num := m }

/-- Replace what is kept of a remote module. -/
def Part.setRemote (p : Part) (x : CycRemote) : Part :=
  p.onCyc (fun c => { c with remote := x :: c.remote.filter (fun y => y.num ≠ x.num) })

/-- Bytes that an input or output takes in its image: a word, and two for a variable of 64 bits. -/
def Part.ioSize (p : Part) (ident : Nat) : Nat := if (p.cycVar ident).any (fun v => 4 < v.size) then 8 else 4

/-- The value that a source gives at copy-in (R281): MIRROR variables in role 2 from the latest mirror frame, in the other
roles from the part's own variable. -/
def Part.cycSource (p : Part) (s : CycSource) (size : Nat) : Nat :=
  match s with
  | .gpio => (p.reg Reg.GPIO_IN).toNat
  | .aux n => (p.reg (Reg.AUXADC_RES n)).toNat
  | .pos n => (p.posStatus n).toNat
  | .safe w => (p.reg (Reg.SAFE_STAT + 4 * w)).toNat
  | .ep g k => (p.reg (Reg.CLE_EP g k)).toNat
  | .ramp c => (p.reg (Reg.RAMP_OUT c)).toNat
  | .module m off => numOf (((p.remoteData m).data.drop off).take size)
  | .mirror i => if p.role = 2 then ((p.cyc.mirrored.find? (fun e => e.1 = i)).map (·.2)).getD 0 else p.varValue i

/-- Whether a group's exports may be copied: its sample has ended, or it does not run (R282). -/
def Part.exportWindow (p : Part) (d : CycDesc) : Bool :=
  d.ins.all (fun i => match i.src with
    | .ep g _ => !(vget {} p.cle g).open_
    | _ => true)

/-- The input image of a task (Table 10.2, R281): the header, then the inputs, forced ones with their forced values. -/
def Part.inputImage (p : Part) (x : CycTask) (start : Instant) : List Byte :=
  let d := x.desc
  let forced := (descIdents d).any (fun i => (p.forceOf i).isSome)
  let stale := d.ins.any (fun i => match i.src with
    | .module m _ => p.bit (Reg.CYC_RMSTAT m) 30
    | _ => false)
  let flags := x.cause * 256 + forced.toNat * 16 + x.intr.toNat * 8 + stale.toNat * 4 + x.ovr.toNat * 2 + x.first.toNat
  let lag := min (2 ^ 32 - 1) ((start - x.relAt) / 65536)
  let head : List Nat := [x.cycles, flags, instNs x.relAt, instSec x.relAt, (p.reg (Reg.CLE_SCNT_LO 0)).toNat,
    (p.reg (Reg.CLE_SCNT_LO 1)).toNat, lag, 0]
  let blank := head.flatMap (bytesOf 4) ++ List.replicate (d.isize - 32) 0
  d.ins.foldl (fun bs i =>
    let n := p.ioSize i.ident
    putWords bs i.word n (match p.forceOf i.ident with
      | some f => f.value
      | none => p.cycSource i.src n)) blank

/-- Whether a slot can take up a task now: no task of higher priority is ready, runs or is pre-empted on it. -/
def Part.slotFree (p : Part) (d : CycDesc) : Bool :=
  (p.slot d.slot).run ≠ .halted && p.cyc.tasks.all (fun y =>
    let st := p.taskState y.desc.id
    y.desc.id = d.id || y.desc.slot ≠ d.slot || y.desc.prio < d.prio || st < 2 || 4 < st)

/-- A ready task is dispatched: lower ones are pre-empted, and its inputs are copied in; in role 2 MIRROR variables are
taken from the latest mirror frame (R283). -/
def Part.dispatch (p : Part) (k : Nat) (start : Instant) : Part :=
  match p.task k with
  | none => p
  | some x =>
    if p.taskState k ≠ 2 || start < x.relAt || !p.slotFree x.desc || !p.exportWindow x.desc then p
    else
      let p := p.atRing start
      let p := p.each p.cyc.tasks (fun p y =>
        if y.desc.slot = x.desc.slot && p.taskState y.desc.id = 3 then p.setTaskState y.desc.id 4 else p)
      let p := if p.role = 2 then
          p.each p.cyc.mirrored (fun p e => if (descIdents x.desc).contains e.1 then p.setVar e.1 e.2 else p)
        else p
      let p := p.applyForces x.desc
      let y := { x with inImg := p.inputImage x start, ovr := false, intr := false, cause := 0, first := false }
      (p.setTask y).setTaskState k 3

/-- TASK_RELEASE: release k of a cyclic task falls at r0 + k·T; it is skipped where the previous cycle has not ended
(R280), and a ready task starts as soon as its slot and the export windows let it (R281, R282). -/
def Part.taskRelease (p : Part) (k : Nat) (t start : Instant) : Part :=
  match p.task k with
  | none => p
  | some x =>
    if !p.cycRuns || !x.desc.cyclic then p
    else if t = x.next then
      let p := (p.atRing t).irq 49
      if p.taskState k = 1 then
        ((p.setTask { x with next := t + x.desc.period, relAt := t, last := some t }).setTaskState k 2).dispatch k start
      else
        ((p.setTask { x with next := t + x.desc.period, ovr := true }).countSat (Reg.CYC_TSTAT k) 0 16).raise Reg.CYC_EVT 6
    else if t = x.relAt then p.dispatch k start
    else p

/-- TASK_RELEASE. -/
def execTaskRelease (task : Fin 32) (t start : Instant) (s : State) := s.run (·.taskRelease task.val t start)

/-- EVENT_TASK_RELEASE: the source of an event task has risen, or a held event's MINIA has passed (R279). -/
def Part.eventRelease (p : Part) (k : Nat) (rise : Bool) (t start : Instant) : Part :=
  match p.task k with
  | none => p
  | some x =>
    if !p.cycRuns || x.desc.cyclic then p
    else
      let due := p.taskState k = 1 && x.last.all (fun l => l + x.desc.minia ≤ t)
      let go := fun (p : Part) =>
        ((p.setTask { x with held := false, relAt := t, last := some t }).setTaskState k 2).dispatch k start
      if rise then
        let p := p.atRing t
        if due && !x.held then go p
        else if !x.held then p.setTask { x with held := true }
        else p.raise Reg.CYC_EVT 5
      else if due && x.held then go (p.atRing t)
      else if p.taskState k = 2 && t = x.relAt then p.dispatch k start
      else p

/-- EVENT_TASK_RELEASE. -/
def execEventTaskRelease (task : Fin 32) (rise : Bool) (t start : Instant) (s : State) :=
  s.run (·.eventRelease task.val rise t start)

/-! Copy-out (R283, R287). -/

/-- Bytes of an output module. -/
def Part.moduleBytes (p : Part) (m off : Nat) (bs : List Byte) : Part :=
  let x := p.remoteData m
  let old := x.data ++ List.replicate (256 - x.data.length) 0
  p.setRemote { x with data := (old.take off ++ bs ++ old.drop (off + bs.length)).take 256, ready := true }

/-- The bytes of an output take effect at its target. -/
def Part.cycOutput (p : Part) (o : CycTarget) (bs : List Byte) : Part :=
  let w := wordAt bs 0
  match o with
  | .pin i => p.setBit Reg.GPIO_OUT i (numOf bs ≠ 0)
  | .module m off => p.moduleBytes m off bs
  | .spw g k => p.setReg (Reg.CLE_SPW g k) w
  | .rampTgt c => p.rampTarget c w
  | .rampCtl c =>
    let x := p.ramp c
    let x := if bitAt w 0 then { x with set := true } else x
    p.setRamp c (if bitAt w 1 then { x with hold := some true } else if bitAt w 2 then { x with hold := some false } else x)
  | .seqcmd g => p.setReg (Reg.CLE_SEQCMD g) w

/-- The group whose tick takes a CLE target. -/
def Part.targetGrp (p : Part) (o : CycTarget) : Option Grp :=
  let one : Nat → Grp := fun g => if g = 0 then .A else .B
  match o with
  | .spw g _ => some (one g)
  | .seqcmd g => some (one g)
  | .rampTgt c => some (p.rampGrp c)
  | .rampCtl c => some (p.rampGrp c)
  | _ => none

/-- No output leaves the part: in role 2 (R283), and from t_c on for the part that a cut-in takes out (R357). -/
def Part.mute (p : Part) : Bool := p.role = 2 || (p.goingOut p.now).isSome

/-- At least 1 µs remains before the next tick of every group that a task's targets name (R283), the library's group among
them; the instant is in local tempo. -/
def Part.copyWindow (p : Part) (d : CycDesc) (t : Instant) : Bool :=
  let ok : Grp → Bool := fun g => !p.tbRuns g || t + usec 1 ≤ p.nextUpdate g
  d.outs.all (fun o => (p.targetGrp o.dst).all ok) && ((libTask d).isNone || p.libGrp.all ok)

/-- The MIRROR variables that a task owns go to the twin (R348), and from the library's task its state (R85). -/
def Part.sendCyclic (p : Part) (d : CycDesc) : Part :=
  let own := p.cyc.img.vars.filter (fun v => v.mirror && d.outs.any (fun o => o.ident = v.ident))
  let lib := (libTask d).isSome
  if p.role ≠ 1 || p.mute || (own.isEmpty && !lib) then p
  else
    let m : CycMirror := { image := p.cyc.img.id, task := d.id, vals := own.map (fun v => (v.ident, p.varValue v.ident)),
                           lib := if lib then some (libMoved p.lib p.time.off) else none }
    if p.bit Reg.PAIR_STAT 23 then p.send (.cyclic m) else p.send (.pair 0 (.cyclic m))

/-- After a cycle has ended, the pre-empted task of highest priority on its slot goes on, if no ready one stands above it. -/
def Part.resumeTask (p : Part) (slot : Nat) : Part :=
  let on := p.cyc.tasks.filter (fun y => y.desc.slot = slot)
  let pre := on.filter (fun y => p.taskState y.desc.id = 4)
  match pre.find? (fun y => pre.all (fun z => z.desc.prio ≤ y.desc.prio)) with
  | none => p
  | some y =>
    if on.any (fun z => p.taskState z.desc.id = 2 && y.desc.prio < z.desc.prio) then p else p.setTaskState y.desc.id 3

/-- A bit of a word of an image. -/
def imageBit (bs : List Byte) (at_ : Nat × Nat) : Bool := bitAt (wordAt bs at_.1) at_.2

/-- An image with a bit of a word set to `b`. -/
def setImageBit (bs : List Byte) (at_ : Nat × Nat) (b : Bool) : List Byte :=
  putWords bs at_.1 4 (putBit (wordAt bs at_.1) at_.2 b).toNat

/-- The library's cycle as the body of its task: feedbacks from the input image, its signals into the output image (R76,
R100). A standby's library follows the active part's (R85). -/
def Part.libBody (p : Part) (m : LibMap) (inImg out : List Byte) : Part × List Byte :=
  let fb := imageBit inImg
  let p := if p.role = 2 then p
    else p.libCycle { kpc := fb m.kpcFb, km := fb m.kmFb, cb1 := fb m.cb1Fb, cb2 := fb m.cb2Fb } p.now
  let l := p.lib
  (p, setImageBit (setImageBit (setImageBit (setImageBit out m.kpc l.kpc) m.km l.kmOn) m.cb1 l.cb1) m.syncOk l.syncOk)

/-- TASK_BODY_END: the output image that the body leaves is copied out at `t`, into the part's own variables and to its
targets, with the timers that it started or stopped, the inputs of the edge detectors that it evaluated, and the lines of the
runtime's own state that the cycle made dirty (R288); in role 2, and from t_c in the outgoing part of a cut-in, no output
leaves the part. The body of the sequencing library's task is the library's cycle. -/
def Part.bodyEnd (p : Part) (k : Nat) (out : List Byte) (timers : List (Nat × Option Instant)) (edges : List (Nat × Bool))
    (lines : List (BitVec 12)) (t : Instant) : Part :=
  match p.task k with
  | none => p
  | some x =>
    if p.taskState k ≠ 3 || !p.cycRuns || t < x.relAt || !(p.atRing t).copyWindow x.desc (p.atRing t).now then p
    else
      let p := (p.atRing t).each lines (fun p l => p.dirtyLine (0x21E00000 / 64 + l.toNat))
      let img := (out ++ List.replicate (x.desc.osize - out.length) 0).take x.desc.osize
      let (p, img) := match libTask x.desc with
        | some m => p.libBody m x.inImg img
        | none => (p, img)
      let p := p.applyForces x.desc
      let img := x.desc.outs.foldl (fun bs o => match p.forceOf o.ident with
        | some f => putWords bs o.word (p.ioSize o.ident) f.value
        | none => bs) img
      let value : CycOut → List Byte := fun o => (img.drop (4 * o.word)).take (p.ioSize o.ident)
      let p := p.each x.desc.outs (fun p o => p.setVar o.ident (numOf (value o)))
      let p := if p.mute then p else p.each x.desc.outs (fun p o => p.cycOutput o.dst (value o))
      let p := p.onCyc (fun c => { c with
        timers := c.timers.map (fun e => ((timers.find? (fun f => f.1 = e.1)).getD e)),
        edges := c.edges.map (fun e => match edges.find? (fun f => f.1 = e.1) with
          | some f => (e.1, some f.2)
          | none => e) })
      let us := min (2 ^ 32 - 1) ((t - x.relAt) / usec 1)
      let p := (p.setTask { x with outImg := img, cycles := (x.cycles + 1) % 2 ^ 32 }).setTaskState k 1
      let p := (p.countWrap (Reg.CYC_TCYC k) 0 32).setReg (Reg.CYC_TLAST k) (BitVec.ofNat 32 us)
      let p := p.setReg (Reg.CYC_TMAX k) (BitVec.ofNat 32 (max us (p.reg (Reg.CYC_TMAX k)).toNat))
      ((p.onCyc (fun c => { c with lastEnd := t })).resumeTask x.desc.slot).sendCyclic x.desc

/-- TASK_BODY_END. -/
def execTaskBodyEnd (task : Fin 32) (out : List Byte) (timers : List (Nat × Option Instant)) (edges : List (Nat × Bool))
    (lines : List (BitVec 12)) (t : Instant) (s : State) := s.run (·.bodyEnd task.val out timers edges lines t)

/-! Safe values (R284, R302). -/

/-- Local outputs of the running image take their safe values. -/
def Part.safePins (p : Part) : Part := p.each p.cyc.img.pinSafe (fun p e => p.setBit Reg.GPIO_OUT e.1 e.2)

/-- Every output of an image that `which` names takes its safe value: pins, output modules, SPW words and ramp targets. -/
def Part.safeOf (p : Part) (img : CycImage) (which : CycTarget → Bool) : Part :=
  let p := p.each img.pinSafe (fun p e => if which (.pin e.1) then p.setBit Reg.GPIO_OUT e.1 e.2 else p)
  let p := p.each img.modules (fun p m =>
    if m.input then p
    else p.each (List.range (m.size / 4)) (fun p i =>
      if which (.module m.num (4 * i)) then p.moduleBytes m.num (4 * i) (bytesOf 4 (wordAt m.safe i).toNat) else p))
  let p := p.each img.spwSafe (fun p e => if which (.spw e.1 e.2.1) then p.setReg (Reg.CLE_SPW e.1 e.2.1) e.2.2 else p)
  p.each img.rampSafe (fun p e => if which (.rampTgt e.1) then p.rampTarget e.1 e.2 else p)

/-- The outputs of the running image that `which` names take their safe values. -/
def Part.safeOuts (p : Part) (which : CycTarget → Bool) : Part := p.safeOf p.cyc.img which

/-- Whether a task of the running image owns an output. -/
def Part.ownedOut (p : Part) (o : CycTarget) : Bool := p.cyc.img.tasks.any (fun d => d.outs.any (fun x => x.dst = o))

/-- The pins that the running image owns are shown in GPIO_OWN (R43). -/
def Part.takePins (p : Part) : Part :=
  let pins : List (Fin 32) := (List.finRange 32).filter (fun i => p.ownedOut (.pin i))
  { p with gpioTask := BitVec.ofNat 32 ((pins.map (fun (i : Fin 32) => 2 ^ i.val)).sum) }.showOwn

/-- Tasks stop: those that were in a cycle are noted, and their slots are halted. -/
def Part.stopTasks (p : Part) : Part :=
  let busy := p.cyc.tasks.filter (fun x => p.taskState x.desc.id = 3 || p.taskState x.desc.id = 4)
  let p := p.onCyc (fun c => { c with
    cut := busy.map (·.desc.id),
    tasks := c.tasks.map (fun x => { x with ovrs := p.fld (Reg.CYC_TSTAT x.desc.id) 0 16 }) })
  let p := p.each busy (fun p x => p.onSlot x.desc.slot (fun y => { y with run := .halted }))
  p.each p.cyc.tasks (fun p x => p.setTaskState x.desc.id 5)

/-- An on-line change ends without a switch (Table 10.6). -/
def Part.changeAbort (p : Part) (err : Nat) : Part :=
  match p.cyc.change with
  | none => p
  | some c =>
    let p := (p.onCyc (fun x => { x with change := none })).opFail c.op 7 err
    let p := ((p.setFld Reg.CYC_CHGSTAT 24 8 err).setBit Reg.CYC_STAT 27 false).setFld Reg.CYC_IMGID 0 16 0
    let p := if p.cycState = 2 then p.setCycState 1 else p
    (p.raise Reg.CYC_EVT 2).irq 51

/-! The check of an image (R278, R284; IMAGE_VERIFY). -/

/-- Whether the fields of a task descriptor lie in their ranges (Table 10.1). -/
def descOk (d : CycDesc) : Bool :=
  let img := fun n => 32 ≤ n && n ≤ 16384
  d.id < 32 && d.prio < 32 && d.slot < 3 && img d.isize && img d.osize && (if d.cyclic then
      usec 100 ≤ d.period && d.period ≤ sec 10 && d.period % usec 10 = 0 && 2 ≤ d.wdmult && d.wdmult ≤ 16
    else d.src < 64 && usec 10 ≤ d.minia && d.minia ≤ sec 10 && usec 100 ≤ d.deadline && d.deadline ≤ sec 10)

/-- A task table is valid: at most 32 tasks, fields in range, identities and priorities distinct (R278). -/
def tasksOk (l : List CycDesc) : Bool :=
  l.length ≤ 32 && l.all descOk && decide (l.map (·.prio)).Nodup && decide (l.map (·.id)).Nodup

/-- No output is written by two tasks (R284). -/
def outputsOk (l : List CycDesc) : Bool := decide ((l.map (fun d => (d.outs.map (·.dst)).eraseDups)).flatten).Nodup

/-- The first error of an image for IMAGE_VERIFY: 0x10 or 0x11. -/
def imageFault (img : CycImage) : Option Nat :=
  if !tasksOk img.tasks then some 0x10 else if !outputsOk img.tasks then some 0x11 else none

/-! Start and stop (R279, R292, R303). -/

/-- r0: the first multiple of T, counted from the whole second at or before START, at least 1 ms after START. -/
def firstRelease (period : Nat) (t : Instant) : Instant :=
  let s := t / sec 1 * sec 1
  s + (t + msec 1 - s + max 1 period - 1) / max 1 period * max 1 period

/-- A task at its start; `old` is its recorded state, of which a warm start keeps the held event, the last release and the
releases skipped (R291, R292). -/
def startTask (d : CycDesc) (old : Option CycTask) (cause : Nat) (intr : Bool) (t : Instant) : CycTask :=
  let new : CycTask := { desc := d, next := firstRelease d.period t, cause := cause, intr := intr }
  match old with
  | some x => { new with held := x.held, last := x.last, ovr := x.ovr, ovrs := x.ovrs }
  | none => new

/-- Show a task that is idle. -/
def Part.showTask (p : Part) (x : CycTask) : Part :=
  let d := x.desc
  p.setReg (Reg.CYC_TSTAT d.id) (BitVec.ofNat 32 (2 ^ 28 + d.slot % 4 * 2 ^ 24 + d.prio % 32 * 2 ^ 16 + x.ovrs % 65536))

/-- A module of the running image shows its node; an input module is stale until its first good copy and keeps the values it
has, an output module carries its safe values. -/
def Part.startModule (p : Part) (m : CycModule) : Part :=
  let w := 2 ^ 31 + (if m.input then 2 ^ 30 else 0) + m.node % 256 * 65536
  (p.setReg (Reg.CYC_RMSTAT m.num) (BitVec.ofNat 32 w)).setRemote
    { num := m.num, data := if m.input then ((p.remoteData m.num).data).take m.size else m.safe }

/-- CYC_RMSTAT of the modules that the running image does not have shows none. -/
def Part.dropModules (p : Part) : Part :=
  p.each (List.range 64) (fun p k =>
    if p.cyc.img.modules.any (fun m => m.num = k) then p else p.setReg (Reg.CYC_RMSTAT k) 0)

/-- The modules at the start of the runtime. -/
def Part.startModules (p : Part) : Part := p.dropModules.each p.cyc.img.modules Part.startModule

/-- The runtime's recovery of a slot (R255, R303): a halted one goes on, and one that stopped at a double fault restarts at
an address that the spec does not give. -/
def Part.slotRecover (p : Part) (k : Nat) : Part :=
  match (p.slot k).run with
  | .halted => p.onSlot k (fun y => { y with run := .running })
  | .doubleFault => p.taken.onSlot k (fun y => { y with run := .running, pc := p.freshWord })
  | _ => p

/-- The runtime starts with the active image: a warm start where its variables are retained, else a cold one, in which the
variables take their initial values. A slot whose image was not verified, or is not a valid one any more, does not start. Outputs stand at their safe values until their owner's first copy-out. -/
def Part.cycStart (p : Part) (cause : Nat) (t : Instant) : Part :=
  let img := p.cycImageAt p.cycSlot
  if !p.cyc.verified.contains p.cycSlot || (imageFault img).isSome then p
  else
    let warm := p.cyc.retained = some img.id
    let cause := if warm then cause else 1
    let cut := p.cyc.cut
    let old : Nat → Option CycTask := fun k => if warm then p.task k else none
    let p := p.onCyc (fun c => { c with
      img := img, retained := some img.id, cut := [], remote := if warm then c.remote else [], mirrored := [],
      timers := if warm then c.timers else img.timers.map (fun i => (i, none)),
      edges := if warm then c.edges else img.edges.map (fun i => (i, none)),
      tasks := img.tasks.map (fun d => startTask d (old d.id) cause (warm && cut.contains d.id) t) })
    let p := if warm then p
      else
        let p := p.each img.vars (fun p v => p.retain (p.varBase + v.off) (List.replicate v.size 0))
        p.each img.init (fun p e => p.retain (p.varBase + e.1) [e.2])
    let p := p.each (List.range 32) (fun p k => p.setTaskState k 0)
    let p := p.each p.cyc.tasks (fun p x => p.showTask x)
    let p := (p.startModules.safeOuts (fun _ => true)).takePins
    let p := p.each [0, 1, 2] Part.slotRecover
    ((p.setCycState 1).setFld Reg.CYC_STAT 0 6 img.tasks.length).setReg Reg.CYC_IMGID (BitVec.ofNat 32 (img.id * 65536))

/-- CYC_START: from STOP. -/
def Part.cycGo (p : Part) (t : Instant) : Part :=
  p.when (p.cycState = 0) (fun p => (p.atRing t).cycStart (if p.fld Reg.CYC_STAT 16 8 = 4 then 4 else 2) t)

/-- CYC_START. -/
def execCycStart (t : Instant) (s : State) := s.run (·.cycGo t)

/-- The runtime stops: an on-line change is aborted, no cycle goes on, and outputs take their safe values. -/
def Part.cycHalt (p : Part) (st cause : Nat) : Part :=
  let p := (p.changeAbort 0x15).stopTasks
  ((p.setCycState st).setFld Reg.CYC_STAT 16 8 cause).safeOuts p.ownedOut

/-- CYC_STOP: a runtime that runs stops with cause 0x04. -/
def Part.cycStop (p : Part) (t : Instant) : Part := p.when p.cycRuns (fun p => (p.atRing t).cycHalt 0 4)

/-- CYC_STOP. -/
def execCycStop (t : Instant) (s : State) := s.run (·.cycStop t)

/-- CYC_RESTART: from WDSTOP with cause 0x03, from STOP with cause 0x04 (R303). -/
def Part.cycRestart (p : Part) (t : Instant) : Part :=
  p.when (p.cycState = 4 || p.cycState = 0) (fun p => (p.atRing t).cycStart (if p.cycState = 4 then 3 else 4) t)

/-- CYC_RESTART. -/
def execCycRestart (t : Instant) (s : State) := s.run (·.cycRestart t)

/-! The watchdog (R301, R302). -/

/-- The watchdog fires, or a double fault acts as its firing; `cause` is 0x03 or 0x10. -/
def Part.wdFire (p : Part) (cause task : Nat) (rel : Instant) : Part :=
  let p := p.cycHalt 4 cause
  let p := p.when (p.role = 1 && p.bit Reg.CYC_WDCFG 0)
    (fun p => (p.onPair (fun x => { x with cutReq := true })).requestCut p.floorGrp none)
  let p := ((p.raise Reg.CYC_EVT 7).raiseIf (cause = 0x10) Reg.CYC_EVT 9).irq 50
  p.hostFault.logEvent .watchdog [task, rel]

/-- When a task's cycle overruns: WDMULT × T, or DL, after its release. -/
def CycTask.limit (x : CycTask) : Instant :=
  x.relAt + if x.desc.cyclic then x.desc.wdmult * x.desc.period else x.desc.deadline

/-- WATCHDOG_FIRE. -/
def execWatchdogFire (task : Fin 32) (t : Instant) (s : State) :=
  s.run (fun p => match p.task task.val with
    | some x =>
      let st := p.taskState task.val
      if p.cycRuns && 2 ≤ st && st ≤ 4 && x.limit ≤ t then (p.atRing t).wdFire 3 task.val x.relAt else p
    | none => p)

/-! Remote modules that age (R285), and the snapshot of the CLE (R290). -/

/-- Age of a module's good copy in RMSTAT, in milliseconds. -/
def Part.showAge (p : Part) (m : Nat) (t : Instant) : Part :=
  match (p.remoteData m).good with
  | some g => p.setFld (Reg.CYC_RMSTAT m) 0 16 (min 0xFFFF ((t - g) / msec 1))
  | none => p

/-- REMOTE_MODULE_STALE: the latest good copy is older than AGEMULT module periods. -/
def execRemoteModuleStale (m : Fin 64) (t : Instant) (s : State) :=
  s.run (fun p => match p.remote m.val, (p.remoteData m.val).good with
    | some x, some g =>
      if x.input && p.cycRuns && g + p.fld Reg.CYC_RIOCFG 0 8 * x.period < t && !p.bit (Reg.CYC_RMSTAT m.val) 30 then
        (((p.atRing t).setBit (Reg.CYC_RMSTAT m.val) 30 true).raise Reg.CYC_EVT 4).showAge m.val t
      else p
    | _, _ => p)

/-- The part of a snapshot that one group gives. -/
def Part.snapGroup (p : Part) (g : Grp) : CycSnapGroup :=
  let c := p.cg g
  { group := g.ix, scnt := p.pair (Reg.CLE_SCNT_LO g.ix), fig := p.figId g, pfile := c.pfile,
    exports := (List.range 64).map (fun k => p.reg (Reg.CLE_EP g.ix k)), region := p.reg (Reg.CLE_REGION g.ix),
    data := (p.mirrorOf g).words.zipIdx.map (fun e => (e.2, e.1)), grid := c.grid }

/-- CLE_SNAPSHOT: at a whole millisecond of ring time, into the buffer not written last, its sequence number one above that
of the last valid snapshot, which the eMRAM keeps. -/
def execCleSnapshot (t : Instant) (s : State) :=
  s.run (fun p =>
    if t % msec 1 ≠ 0 then p
    else
      let p := p.atRing t
      let seq := ((p.cyc.snaps.map (·.seq)).headD 0 + 1) % 2 ^ 32
      let x : CycSnap := { seq := seq, time := t, groups := ([Grp.A, Grp.B].filter (fun g => p.groupRuns g)).map p.snapGroup,
                           ramps := p.ramps.toList }
      (p.onCyc (fun c => { c with snaps := (x :: c.snaps).take 2 })).setReg Reg.CYC_SNAPSEQ (BitVec.ofNat 32 seq))

end Sys2Proof.Machine
end

