-- ==== Sys2Proof/Machine/CycChange.lean ====
section
/-! DEFINITION. Power failure, forces and on-line change (chapter 10, R291 to R300; R335). -/

namespace Sys2Proof.Machine

/-! Power failure. -/

/-- PFAIL_ASSERT: PFAIL as filtered (Table 10.5): dispatch stops, slots and DMA halt, local outputs and the safety
channels go to their safe states, and the flush begins. -/
def Part.pfailAssert (p : Part) (t : Instant) : Part :=
  if p.cyc.pfail.isSome then p
  else
    let p := p.atRing t
    let p := (p.changeAbort 0x15).onCyc (fun c => { c with pfail := some t, pfPrev := p.cycState })
    let p := if p.cycRuns then (p.stopTasks.setFld Reg.CYC_STAT 16 8 2).safePins else p
    let p := p.each [0, 1, 2] (fun p k => p.onSlot k (fun y => { y with run := .halted }))
    let p := ((p.setCycState 5).raise Reg.CYC_EVT 8).irq 48
    let p := (p.setReg Reg.CYC_PFSTAT (bitWord 31)).setTime Reg.CYC_PFTIME_LO t
    p.safePfail p.now

/-- PFAIL_ASSERT. -/
def execPfailAssert (t : Instant) (s : State) := s.run (·.pfailAssert t)

/-- The flush completes: every dirty line has been written to eMRAM, and its time is recorded. -/
def Part.flushDone (p : Part) (t : Instant) : Part :=
  match p.cyc.pfail with
  | none => p
  | some t0 =>
    if p.bit Reg.CYC_PFSTAT 30 then p
    else
      let p := p.each p.cyc.dirty (fun p l => p.wearRange (64 * l) 64)
      let p := (p.onCyc (fun c => { c with dirty := [] })).showDirty
      (p.setBit Reg.CYC_PFSTAT 30 true).setFld Reg.CYC_PFSTAT 0 16 (min 0xFFFF ((t - t0) / usec 1))

/-- PFAIL_FLUSH_COMPLETE. -/
def execPfailFlushComplete (t : Instant) (s : State) :=
  s.run (fun p => p.when p.cyc.pfail.isSome (fun p => (p.atRing t).flushDone t))

/-- PFAIL_RELEASE: with the supplies still in range the flush completes, and the runtime makes a warm start where it had
run (R293). -/
def Part.pfailRelease (p : Part) (t : Instant) : Part :=
  if p.cyc.pfail.isNone then p
  else
    let p := (p.atRing t).flushDone t
    let prev := p.cyc.pfPrev
    let p := (p.onCyc (fun c => { c with pfail := none })).setCycState (if 1 ≤ prev && prev ≤ 3 then 0 else prev)
    let p := { p with safe := { p.safe with pfail := false } }
    if 1 ≤ prev && prev ≤ 3 then p.cycStart 2 t
    else if prev = 0 then p.each [0, 1, 2] (fun p k => p.onSlot k (fun y => { y with run := .running }))
    else p

/-- PFAIL_RELEASE. -/
def execPfailRelease (t : Instant) (s : State) := s.run (·.pfailRelease t)

/-! Forces (R294): commands of host command queue Q16 (R335). -/

/-- The command at the head of Q16 is answered: its result word is written, and then CIDX advances. -/
def Part.hostCmd (p : Part) (code : Nat) (act : Nat → Part → Part × Nat) : Part :=
  if !p.bit (Reg.QUE_CFG 16) 31 || p.queueFill 16 = 0 then p
  else
    let i := p.fld (Reg.QUE_CIDX 16) 0 16
    let a := p.queueEntry 16 i
    let cmd := p.load (a + 3) 1
    if cmd ≠ code && 1 ≤ cmd && cmd ≤ 4 then p
    else
      let (p, res) := if cmd = code then act a p else (p, 1)
      (p.storeBytes (a + 4) (bytesOf 4 (2 ^ 31 + res))).setFld (Reg.QUE_CIDX 16) 0 16 (i + 1)

/-- A force is set: result 0x02 for an unknown identity, 0x03 for another type, 0x04 for a full table. -/
def Part.forceSet (p : Part) (a : Nat) : Part × Nat :=
  let ident := p.load (a + 8) 8
  let typ := p.load (a + 0x10) 1
  match p.cycVar ident with
  | none => (p, 2)
  | some v =>
    let rest := p.cyc.forces.filter (fun f => f.ident ≠ ident)
    if v.typ ≠ typ then (p, 3)
    else if 256 ≤ rest.length then (p, 4)
    else (p.onCyc (fun c => { c with forces := rest ++ [{ ident := ident, typ := typ, value := p.load (a + 0x18) 8 }] }), 0)

/-- FORCE_SET. -/
def execForceSet (s : State) := s.run (·.hostCmd 1 (fun a p => p.forceSet a))

/-- FORCE_REL: one force is released. -/
def execForceRel (s : State) :=
  s.run (·.hostCmd 2 (fun a p =>
    let ident := p.load (a + 8) 8
    if (p.forceOf ident).isNone then (p, 2)
    else (p.onCyc (fun c => { c with forces := c.forces.filter (fun f => f.ident ≠ ident) }), 0)))

/-- FORCE_RELALL: every force is released. -/
def execForceRelall (s : State) := s.run (·.hostCmd 3 (fun _ p => (p.onCyc (fun c => { c with forces := [] }), 0)))

/-- The force table as FORCE_LIST writes it: identity, type and value, 24 bytes per force. -/
def forceBytes (l : List CycForce) : List Byte := l.flatMap (fun f => bytesOf 8 f.ident ++ bytesOf 8 f.typ ++ bytesOf 8 f.value)

/-- FORCE_LIST: the force table is written to the physical address in the value field. -/
def execForceList (s : State) :=
  s.run (·.hostCmd 4 (fun a p =>
    let to_ := p.load (a + 0x18) 8
    let bs := forceBytes p.cyc.forces
    (if inEmram to_ then p.emramWrite to_ bs else if inMem to_ then p.storeBytes to_ bs else p, 0)))

/-! On-line change (R295 to R300). -/

/-- A mapped variable is copied to the other variable area. -/
def Part.copyVar (p : Part) (m : CycMap) : Part :=
  let other := varArea (1 - p.fld Reg.CYC_STAT 26 1)
  p.retain (other + m.new) (p.loadBytes (p.varBase + m.old) m.size)

/-- PRECOPY_DONE: the mapped variables stand in the other area, and those of the new image that are not mapped take their
initial values; the switch window of 500 ms opens. The pre-copy moves at most 64 MB/s. -/
def Part.precopyDone (p : Part) (t : Instant) : Part :=
  match p.cyc.change with
  | none => p
  | some c =>
    let size := (c.img.map.map (·.size)).sum
    if p.cycState ≠ 2 || c.window.isSome || t < c.since + nsec (size * 1000 / 64) then p
    else
      let p := p.atRing t
      let other := varArea (1 - p.fld Reg.CYC_STAT 26 1)
      let fresh := c.img.vars.filter (fun v => c.img.map.all (fun m => m.ident ≠ v.ident))
      let p := p.each c.img.map (fun p m => p.copyVar m)
      let p := p.each fresh (fun p v => p.retain (other + v.off) (List.replicate v.size 0))
      let p := p.each (c.img.init.filter (fun e => fresh.any (fun v => v.off ≤ e.1 && e.1 < v.off + v.size)))
        (fun p e => p.retain (other + e.1) [e.2])
      let p := p.onCyc (fun x => { x with change := x.change.map (fun y => { y with window := some (t + msec 500) }) })
      ((p.setBit Reg.CYC_STAT 27 true).setCycState 1).irq 51

/-- PRECOPY_DONE. -/
def execPrecopyDone (t : Instant) (s : State) := s.run (·.precopyDone t)

/-- The switch pause: 3 µs and 40 ns for each marked line. -/
def switchPause (n : Nat) : Nat := usec 3 + nsec (40 * n)

/-- Whether the switch may take place at an instant (R296): the last running task has just ended, none is in a cycle or
waits, no event is held, no cyclic release falls within the pause and 10 µs, and the marked lines fit the buffer. -/
def Part.switchDue (p : Part) (c : CycChange) (t : Instant) : Bool :=
  let n := c.marked.length
  c.window.any (fun w => t ≤ w) && t = p.cyc.lastEnd
    && p.cyc.tasks.all (fun x => p.taskState x.desc.id = 1 && !x.held
        && (!x.desc.cyclic || t + switchPause n + usec 10 < x.next))
    && n + p.cyc.dirty.length ≤ 4096

/-- The first multiple of a period after an instant, counted from the whole second at or before it (R297). -/
def nextMultiple (period : Nat) (t : Instant) : Instant :=
  let s := t / sec 1 * sec 1
  s + ((t - s) / max 1 period + 1) * max 1 period

/-- A task of the new image: a surviving one with an unchanged T keeps its release instants; another one is released at the
first multiple of its T after the pause; a new or a changed one starts with cause 0x05. -/
def switchTask (old : List CycTask) (t : Instant) (d : CycDesc) : CycTask :=
  let new : CycTask := { startTask d none 5 false t with next := nextMultiple d.period t }
  match old.find? (fun x => x.desc.id = d.id && x.desc.cyclic = d.cyclic) with
  | some x =>
    if d.cyclic && x.desc.period ≠ d.period then new
    else { x with desc := d, cause := if x.desc.code = d.code then x.cause else 5 }
  | none => new

/-- A force survives a change where its variable does with the same type; another one is released and logged (R298). -/
def Part.rekeyForces (p : Part) (img : CycImage) : Part :=
  let lives := fun (f : CycForce) =>
    img.map.any (fun m => m.ident = f.ident) && img.vars.any (fun v => v.ident = f.ident && v.typ = f.typ)
  let gone := p.cyc.forces.filter (fun f => !lives f)
  let p := p.onCyc (fun c => { c with forces := c.forces.filter lives })
  p.each gone (fun p f => (p.raise Reg.CYC_EVT 1).logEvent .forceReleased [f.ident])

/-- ONLINE_SWITCH: the pause and what happens in it, in the order of R297. -/
def Part.onlineSwitch (p : Part) (t : Instant) : Part :=
  match p.cyc.change with
  | none => p
  | some c =>
    if !p.switchDue c t then p
    else
      let n := c.marked.length
      let img := c.img
      let old := p.cyc.img
      let pause := switchPause n
      let p := p.each img.map (fun p m => p.copyVar m)
      let p := p.rekeyForces img
      let p := p.onCyc (fun x => { x with
        img := img, change := none, retained := some img.id,
        timers := img.timers.map (fun i => (x.timers.find? (fun e => e.1 = i)).getD (i, none)),
        edges := img.edges.map (fun i => (x.edges.find? (fun e => e.1 = i)).getD (i, none)),
        tasks := img.tasks.map (switchTask x.tasks (t + pause)) })
      let p := p.each (List.range 32) (fun p k =>
        if img.tasks.any (fun d => d.id = k) then p else p.setTaskState k 0)
      let p := p.each p.cyc.tasks (fun p x =>
        let r := Reg.CYC_TSTAT x.desc.id
        let ovr := if p.taskState x.desc.id = 0 then 0 else p.fld r 0 16
        (p.showTask x).setFld r 0 16 ovr)
      let p := p.dropModules.each img.modules (fun p m =>
        if old.modules.any (fun x => x.num = m.num && x.input = m.input && x.size = m.size) then p else p.startModule m)
      let p := ((p.safeOf old (fun o => !p.ownedOut o)).safeOuts (fun o => !p.ownedOut o)).takePins
      let p := p.setReg Reg.CYC_STAT (p.reg Reg.CYC_STAT ^^^ 0x06000000)
      let p := ((p.setBit Reg.CYC_STAT 27 false).setCycState 1).setFld Reg.CYC_STAT 0 6 img.tasks.length
      let p := p.setReg Reg.CYC_IMGID (BitVec.ofNat 32 (img.id * 65536))
      let u := min 0xFFFF (pause / nsec 10)
      let p := (p.setFld Reg.CYC_PAUSE 0 16 u).setFld Reg.CYC_PAUSE 16 16 (max u (p.fld Reg.CYC_PAUSE 16 16))
      let p := ((p.raise Reg.CYC_EVT 3).irq 51).opDone c.op
      p.atRing (t + pause)

/-- ONLINE_SWITCH. -/
def execOnlineSwitch (t : Instant) (s : State) := s.run (·.onlineSwitch t)

/-- SWITCH_WINDOW_EXPIRY: no switch instant occurred within the window (R300). -/
def execSwitchWindowExpiry (t : Instant) (s : State) :=
  s.run (fun p => match p.cyc.change with
    | some c => if c.window.any (· ≤ t) then (p.atRing t).changeAbort 0x14 else p
    | none => p)

/-! IMAGE_ACTIVATE's check of an on-line change (Table 10.6). -/

/-- A layout map is valid against the running image: identities known on both sides with the type and offsets that each
declares, sizes that match, and no two entries that overlap in the new area. -/
def mapOk (old new : CycImage) : Bool :=
  new.map.all (fun m =>
      old.vars.any (fun v => v.ident = m.ident && v.off = m.old && v.size = m.size)
        && new.vars.any (fun v => v.ident = m.ident && v.off = m.new && v.size = m.size && v.typ = m.typ))
    && decide (List.Pairwise (fun a b => a.ident ≠ b.ident ∧ (a.new + a.size ≤ b.new ∨ b.new + b.size ≤ a.new)) new.map)

/-- The first error of an image for an on-line change. -/
def changeFault (old new : CycImage) : Option Nat :=
  match imageFault new with
  | some e => some e
  | none =>
    if !mapOk old new then some 0x12
    else if new.vars.any (fun v => 0x300000 < v.off + v.size) || 0x300000 < (new.vars.map (·.size)).sum then some 0x13
    else none

end Sys2Proof.Machine
end

