-- ==== Sys2Proof/Machine/Ring.lean ====
section
/-! DEFINITION. Links and lanes, received frames, ring time, the promenade, barriers, snapshots and HOST_STATUS
(chapter 11). -/

namespace Sys2Proof.Machine

/-! Received frames (R308, R316, R317). -/

/-- The frame types of Table 11.2. -/
def ringTypes : List Nat := [1, 2, 3, 4, 5, 8, 9, 10, 11, 12, 13]

/-- Whether a header's class is one that its type may have (Table 11.2): fixed for types 0x08 to 0x0D. -/
def classOk (x : RingHdr) : Bool :=
  match x.typ with
  | 8 => x.cls = 0
  | 13 => x.cls = 0
  | 9 => x.cls = 1
  | 10 => x.cls = 1
  | 11 => x.cls = 1
  | 12 => x.cls = 3
  | _ => x.cls ≤ 4

/-- How long ago a frame left its source, from DEPT. -/
def Part.frameAge (p : Part) (x : RingHdr) : Nat := (deptOf p.ringNow + 2 ^ 14 - x.dept) % 2 ^ 14

/-- A frame that is received: whether this node takes it. A frame that is damaged, of another epoch, too old or of no
type is discarded and counted; a frame for another node, and a broadcast of another source, goes on by the other port,
but for a broadcast at a wrap end, which is removed there (R311). A frame whose HOPS reach 128 at this node is discarded.
A node without an address takes promenade frames of any epoch. -/
def Part.ringTake (p : Part) (f : RingFrame) : Part × Bool :=
  let x := hdrOf f.hdr
  let q := f.port.val
  if hdrField f.hdr 0 16 ≠ hcrc f.hdr then (p, false)
  else if x.epoch ≠ p.epoch && !(x.typ = 11 && !p.bit Reg.RING_STAT 31) then (p.countSat Reg.RING_STALECNT 0 32, false)
  else if 4000 < p.frameAge x then (p.countSat Reg.RING_AGEDROP 0 32, false)
  else if !ringTypes.contains x.typ || !classOk x then ((p.countSat Reg.RING_FMTERR 0 32).ringEvt 0, false)
  else if f.crc.toNat ≠ frameCrc f.hdr f.payload then (p.countSat (Reg.RING_CRCERR q) 0 32, false)
  else if 127 ≤ x.hops then (p, false)
  else
    let mine := x.dst = 127 || (x.dst = p.node && p.bit Reg.RING_STAT 31)
    let own := x.src = p.node && p.bit Reg.RING_STAT 31
    let ends := x.dst = 127 && !p.portOk (1 - q)
    let p := if own || ends || (mine && x.dst ≠ 127) then p
      else p.emit (1 - q) { x with hops := x.hops + 1 } f.payload
    (p, mine && !own)

/-- A frame of one type, for its row. -/
def Part.onFrame (p : Part) (f : RingFrame) (typ : Nat) (act : RingHdr → Part → Part) : Part :=
  let x := hdrOf f.hdr
  if x.typ ≠ typ && ringTypes.contains x.typ then p
  else
    let (p, mine) := p.ringTake f
    if mine then act x p else p

/-! Links and lanes (R305 to R307, R320). -/

/-- RING_LANE_FAIL: a lane lost block lock or counted too many sync-header errors; with AUTOLANE set the failure is
announced, and the traffic of a lane with no reserve left runs on one lane. -/
def Part.laneFail (p : Part) (q lane errs : Nat) : Part :=
  let st := Reg.RING_PSTAT q
  let map := p.fld st 20 2
  let used := if lane = 2 then map ≠ 0 else map ≠ lane + 1
  let p := (p.setBit st (24 + lane) false).setReg (Reg.RING_SHERR q)
    (BitVec.ofNat 32 (min (2 ^ 32 - 1) ((p.reg (Reg.RING_SHERR q)).toNat + errs)))
  if !used then p
  else if p.bit Reg.RING_CFG 30 && map = 0 && lane < 2 && p.bit st 26 then
    p.onRing (fun x => { x with swapDue := (q, lane) :: x.swapDue.filter (fun e => e ≠ (q, lane)) })
  else (p.setBit st 19 true).ringEvt 9

/-- RING_LANE_FAIL. -/
def execRingLaneFail (port : Fin 2) (lane : Fin 3) (errs : Nat) (s : State) := s.run (·.laneFail port.val lane.val errs)

/-- RING_LANE_SWAP: both ends move the failed lane's traffic onto the reserve; the reserve manager records the swap. -/
def execRingLaneSwap (port : Fin 2) (t : Instant) (s : State) :=
  s.run (fun p => match p.ring.swapDue.find? (fun e => e.1 = port.val) with
    | none => p
    | some (q, lane) =>
      let p := (p.at t).onRing (fun x => { x with swapDue := x.swapDue.filter (fun e => e ≠ (q, lane)) })
      if !p.bit (Reg.RING_PSTAT q) 26 || p.fld (Reg.RING_PSTAT q) 20 2 ≠ 0 then (p.setBit (Reg.RING_PSTAT q) 19 true).ringEvt 9
      else ((p.setFld (Reg.RING_PSTAT q) 20 2 (lane + 1)).ringEvt 8).noteSwap 4 (2 * q + lane) (4 + q) 1)

/-- HOP_REPLAY: `n` frames are sent again from the first not acknowledged. -/
def execHopReplay (port : Fin 2) (n : Nat) (s : State) :=
  s.run (fun p => p.setReg (Reg.RING_REPLAY port.val)
    (BitVec.ofNat 32 (min (2 ^ 32 - 1) ((p.reg (Reg.RING_REPLAY port.val)).toNat + n))))

/-- WRAP of RING_STAT: the ring is wrapped here or at a break that a notice names. -/
def Part.showWrap (p : Part) : Part :=
  p.setBit Reg.RING_STAT 27 (!p.ring.cuts.isEmpty || p.bit (Reg.RING_PSTAT 0) 30 || p.bit (Reg.RING_PSTAT 1) 30)

/-- The node whose eastward link a port of this node is. -/
def Part.linkNode (p : Part) (q : Nat) : Nat :=
  if q = 0 then p.node
  else ((p.ring.east.find? (fun e => p.eastHops e.1 = some (p.ring.nodes - 1))).map (·.1)).getD 0

/-- LINK_DOWN: this node wraps at the port and broadcasts a notice. -/
def execLinkDown (port : Fin 2) (t : Instant) (s : State) :=
  s.run (fun p =>
    let q := port.val
    if !p.bit (Reg.RING_PSTAT q) 31 then p
    else
      let p := p.at t
      let n := p.linkNode q
      let p := p.setReg (Reg.RING_PSTAT q) (p.reg (Reg.RING_PSTAT q) &&& 0x38FFFFFF ||| 0x40000000)
      let p := p.onRing (fun x => { x with cuts := if n = 0 || x.cuts.contains n then x.cuts else n :: x.cuts,
                                           upAt := x.upAt.filter (fun e => e.1 ≠ q) })
      (p.showWrap.ringEvt 7).send (.notice (.broken n)))

/-- The ring unwraps at a link. -/
def Part.unwrap (p : Part) (n : Nat) : Part :=
  let p := p.onRing (fun x => { x with cuts := x.cuts.filter (fun c => c ≠ n) })
  let p := p.each [0, 1] (fun p q =>
    if p.linkNode q = n && p.bit (Reg.RING_PSTAT q) 31 then p.setBit (Reg.RING_PSTAT q) 30 false else p)
  p.showWrap.ringEvt 6

/-- LINK_HEAL: a link that has worked again for 1 ms is healed, by a notice. -/
def execLinkHeal (port : Fin 2) (t : Instant) (s : State) :=
  s.run (fun p =>
    let q := port.val
    let since := (p.ring.upAt.find? (fun e => e.1 = q)).map (·.2)
    if p.bit (Reg.RING_PSTAT q) 31 && p.bit (Reg.RING_PSTAT q) 30 && since.any (fun a => a + msec 1 ≤ t) then
      let p := p.at t
      let n := p.linkNode q
      let p := (p.send (.notice (.heal n p.ringNow))).setBit (Reg.RING_PSTAT q) 30 false
      p.unwrap n
    else p)

/-! Ring time (R321, R372). -/

/-- Show ring time minus local tempo in TIME_LTDIFF, picoseconds, saturating. -/
def Part.showDiff (p : Part) : Part :=
  p.setReg Reg.TIME_LTDIFF (wordOfInt (clampInt (-(2 ^ 31)) (2 ^ 31 - 1) (p.time.off * 1000 / 65536)))

/-- Local tempo meets ring time, `d` ahead of it (R372): it equals it within 0.5 ns; takes it at once beyond TSNAP while no
group and no timebase runs; else slews towards it. -/
def Part.tempoFollow (p : Part) (d : Int) : Part :=
  let runs := [Grp.A, Grp.B].any (fun g => p.groupRuns g || p.tbRuns g)
  let lock := fun (p : Part) =>
    (({ p with time := { p.time with off := 0, slewAt := none } }.setBit Reg.TIME_STAT 27 true).setBit Reg.TIME_STAT 26 false).showDiff
  if d.natAbs < 32768 then lock p
  else if usec (p.reg Reg.TIME_TSNAP).toNat < d.natAbs && !runs then
    lock { p with now := ((p.now : Int) + d).toNat }
  else
    (({ p with time := { p.time with off := d, slewAt := some (p.time.slewAt.getD p.now) } }.setBit Reg.TIME_STAT 27 false).setBit
      Reg.TIME_STAT 26 true).showDiff

/-- The hold-over flags of SYS_STATUS (R22). -/
def Part.tempoHold (p : Part) (on : Bool) : Part := p.setFld Reg.SYS_STATUS 29 3 (if on then 7 else 0)

/-- The time-source port: the one with fewer working hops to node 1, WEST where both are equal. -/
def Part.timePort (p : Part) : Nat :=
  match p.eastHops 1 with
  | none => if p.portOk 1 then 1 else 0
  | some e =>
    let cuts := p.ring.cuts.filterMap p.eastHops
    let eastOk := p.portOk 0 && cuts.all (fun c => e ≤ c)
    let westOk := p.portOk 1 && cuts.all (fun c => c < e)
    if eastOk && (!westOk || e < p.ring.nodes - e) then 0 else 1

/-- TIME_ORDERED_SET: a port's time ordered set gives the link delay, the lanes that hold lock, node 1's servo, and ring
time less local tempo as this port has it; while TLOCK is set, ring time follows it. A node without an address whose link comes up
says so (R313). -/
def Part.timeSet (p : Part) (q : Nat) (dly lanes : Nat) (farm : Bool) (d : Int) (t : Instant) : Part :=
  if lanes = 0 then p
  else
    let p := p.at t
    let st := Reg.RING_PSTAT q
    let p := p.setReg (Reg.RING_DLY q) (BitVec.ofNat 32 (dly % 2 ^ 24))
    let up := p.bit st 31
    let p := (p.setFld st 24 3 lanes).setBit st 31 true
    let p := p.onRing (fun x => { x with tos := (q, t) :: x.tos.filter (fun e => e.1 ≠ q),
                                         upAt := if up then x.upAt else (q, t) :: x.upAt.filter (fun e => e.1 ≠ q) })
    let p := if up || p.bit Reg.RING_STAT 31 then p else p.send (.notice .joined)
    let src := p.timePort
    let p := (p.setBit (Reg.RING_PSTAT src) 29 true).setBit (Reg.RING_PSTAT (1 - src)) 29 false
    let p := { p with cap := { p.cap with farm := farm } }
    if q = src && p.bit Reg.RING_STAT 28 && !p.bit Reg.RING_STAT 30 then p.tempoFollow d else p

/-- TIME_ORDERED_SET. -/
def execTimeOrderedSet (port : Fin 2) (dly : BitVec 24) (lanes : BitVec 3) (farm : Bool) (d : Int) (t : Instant)
    (s : State) := s.run (·.timeSet port.val dly.toNat lanes.toNat farm d t)

/-- TIME_LOSS: no time ordered set on either port for 10 µs. Local tempo holds over. -/
def execTimeLoss (t : Instant) (s : State) :=
  s.run (fun p =>
    let silent := [0, 1].all (fun q => ((p.ring.tos.find? (fun e => e.1 = q)).map (·.2)).all (fun a => a + usec 10 ≤ t))
    if !silent || !p.bit Reg.RING_STAT 28 || p.bit Reg.RING_STAT 30 then p
    else
      let p := (p.at t).setBit Reg.RING_STAT 28 false
      let p := { p with time := { p.time with slewAt := none } }
      (((p.setBit Reg.TIME_STAT 27 false).setBit Reg.TIME_STAT 26 false).tempoHold true).ringEvt 1)

/-- TEMPO_RESTORE: TLOCK returns with ring time `d` ahead of local tempo. -/
def execTempoRestore (d : Int) (t : Instant) (s : State) :=
  s.run (fun p =>
    if p.bit Reg.RING_STAT 28 then p
    else (((p.at t).setBit Reg.RING_STAT 28 true).tempoHold false).tempoFollow d)

/-- LOCAL_TEMPO_LOCK: local tempo, adjusted by TEMPOSLEW, has come within 0.5 ns of ring time. -/
def execLocalTempoLock (t : Instant) (s : State) :=
  s.run (fun p => match p.time.slewAt with
    | none => p
    | some a =>
      if (t - a) * p.fld Reg.TIME_CFG 0 8 < (p.time.off.natAbs - 32768) * 1000000 then p
      else (p.at t).tempoFollow 0)

/-! Ends of requests (R319, R328). -/

/-- HOST_ERR and HOST_ERRADDR record the ring address and the status of a host access that failed. -/
def Part.hostErr (p : Part) (addr status : Nat) : Part :=
  let p := p.setBit Reg.HOST_ERR (if status = 5 then 30 else 31) true
  let p := (p.setFld Reg.HOST_ERR 16 7 (addr / 2 ^ 41)).setFld Reg.HOST_ERR 0 4 status
  p.setPair Reg.HOST_ERRADDR_LO addr

/-- A host access has ended: a read with a status other than 0 returns 0 in every word. -/
def Part.hostDone (p : Part) (x : HostAcc) : Part :=
  let p := if x.status = 0 then p else p.hostErr x.addr x.status
  if x.write then p
  else p.send (.host (if x.status = 0 then x.data else List.replicate x.data.length 0))

/-- The host SPI port's command has ended. -/
def Part.hspiDone (p : Part) (x : HostAcc) : Part :=
  let p := if x.status = 0 then p else p.hostErr x.addr x.status
  let ws := (List.range (x.data.length / 4)).map (wordAt x.data)
  p.onRing (fun r => { r with
    hspi := none, hspiStatus := x.status,
    hspiWords := if x.write then r.hspiWords else if x.status = 0 then ws else List.replicate ws.length 0 })

/-- One piece of a host access has its answer. -/
def HostAcc.piece (x : HostAcc) (at_ : Nat) (data : List Byte) (status : Nat) : HostAcc :=
  { x with data := if x.write then x.data else (x.data.take at_ ++ data ++ x.data.drop (at_ + data.length)).take x.data.length,
           left := x.left - 1, status := if x.status = 0 then status else x.status }

/-- A piece of a PCIe access. -/
def Part.hostPiece (p : Part) (acc at_ : Nat) (data : List Byte) (status : Nat) : Part :=
  match p.ring.pcie.find? (fun x => x.id = acc) with
  | none => p
  | some x =>
    let x := x.piece at_ data status
    let rest := p.ring.pcie.filter (fun y => y.id ≠ acc)
    if x.left = 0 then (p.onRing (fun r => { r with pcie := rest })).hostDone x
    else p.onRing (fun r => { r with pcie := rest ++ [x] })

/-- A piece of an access of the host SPI port. -/
def Part.hspiPiece (p : Part) (at_ : Nat) (data : List Byte) (status : Nat) : Part :=
  match p.ring.hspi with
  | none => p
  | some x =>
    let x := x.piece at_ data status
    if x.left = 0 then p.hspiDone x else p.onRing (fun r => { r with hspi := some x })

/-- A good copy of an input module (R285). -/
def Part.moduleGood (p : Part) (m : Nat) (data : List Byte) : Part :=
  let p := p.setRemote { p.remoteData m with data := data, good := some p.ringNow }
  (p.setBit (Reg.CYC_RMSTAT m) 30 false).setFld (Reg.CYC_RMSTAT m) 0 16 0

/-- A request has ended with a status other than 0, at its initiator (R319). -/
def Part.requestFailed (p : Part) (r : RingReq) (status : Nat) : Part :=
  match r.use with
  | .dma c => p.descDone c 6
  | .module m => if r.typ = 2 then p.setBit (Reg.CYC_RMSTAT m) 29 true else p
  | .host acc i => p.hostPiece acc i [] status
  | .hspi i => p.hspiPiece i [] status
  | .queue e => p.produce 21 (Config.ringCompletion e status [])

/-- Every outstanding request ends with a status, and its tag is freed. -/
def Part.endRequests (p : Part) (status : Nat) : Part :=
  let l := p.ring.reqs
  (p.onRing (fun x => { x with reqs := [], bcasts := [] })).each l (fun p r => p.requestFailed r status)

/-- REQUEST_TIMEOUT: no completion within 50 µs (status 0x5). -/
def execRequestTimeout (dst : BitVec 7) (tag : Byte) (t : Instant) (s : State) :=
  s.run (fun p => match p.ring.reqs.find? (fun r => r.dst = dst.toNat && r.tag = tag.toNat && r.left + usec 50 ≤ t) with
    | none => p
    | some r =>
      let p := (p.at t).onRing (fun x => { x with reqs := x.reqs.filter (fun q => q ≠ r) })
      (p.requestFailed r 5).pump)

/-! Node 1 and the promenade (R312 to R316). -/

/-- HOST_PORT_LIVE: a host port has changed state; `lowest` says whether this part has the lowest unique ID among those
with a live host port. -/
def Part.hostLive (p : Part) (pcie : Option (Nat × Nat)) (lowest : Bool) : Part :=
  let p := match pcie with
    | some (rate, width) =>
      ((p.setBit Reg.HOST_LINK 31 true).setFld Reg.HOST_LINK 28 3 rate).setFld Reg.HOST_LINK 24 4 width
    | none => p.setFld Reg.HOST_LINK 24 8 0
  let live := p.bit Reg.HOST_LINK 31 || p.bit Reg.HOST_LINK 23
  let p := p.irq 61
  let node1 := live && lowest
  let was := p.bit Reg.RING_STAT 30
  let p := ((p.setBit Reg.RING_STAT 30 node1).setBit Reg.HOST_LINK 22 node1).setBit Reg.TIME_STAT 28 node1
  if node1 then
    let p := ((p.setFld Reg.RING_STAT 0 7 1).setBit Reg.RING_STAT 31 true).setBit Reg.RING_STAT 28 true
    (p.tempoHold false).when (!was) (·.tempoFollow p.time.off)
  else if live then p.setBit Reg.HOST_ERR 28 true
  else p

/-- A promenade starts at node 1, with the next epoch, or a further one where one runs. -/
def Part.promStart (p : Part) : Part :=
  if !p.bit Reg.RING_STAT 30 then p
  else
    let e := ((if p.ring.prom then p.ring.promEpoch else p.epoch) + 1) % 16
    let p := p.onRing (fun x => { x with prom := true, promEpoch := e, replies := [], switch := none })
    (p.setBit Reg.RING_STAT 29 true).send (.prom (.start e))

/-- The order of the replies (R313): eastward order in the intact ring; on a wrapped ring the nodes reached EAST by hop
count, then the others in descending westward hop count. -/
def promOrder (l : List PromReply) : List PromReply :=
  let east := (List.range 129).flatMap (fun h => l.filter (fun r => r.east = some h))
  let west := ((List.range 129).reverse).flatMap (fun h => l.filter (fun r => r.east.isNone && r.west = some h))
  east ++ west

/-- Entry `i` of the pin table: unique ID and address, where it is valid (Table 11.3). -/
def Part.pinEntry (p : Part) (i : Nat) : Option (BitVec 64 × Nat) :=
  let a := 0x21E60000 + 16 * i
  let w := p.loadWord (a + 8)
  if bitAt w 31 then some (BitVec.ofNat 64 (p.load a 8), bits w 0 7) else none

/-- The pins that count, and whether one was ignored (R314). -/
def Part.pins (p : Part) (own : BitVec 64) : List (BitVec 64 × Nat) × Bool :=
  ((List.range 64).filterMap p.pinEntry).foldl (fun (s : List (BitVec 64 × Nat) × Bool) e =>
    if e.2 = 0 || 64 < e.2 || s.1.any (fun x => x.1 = e.1 || x.2 = e.2) || (e.2 = 1 && e.1 ≠ own) then (s.1, true)
    else (s.1 ++ [e], s.2)) ([], false)

/-- This part's unique ID. -/
def Part.uid (p : Part) : BitVec 64 := p.reg Reg.RING_UID_HI ++ p.reg Reg.RING_UID_LO

/-- Addresses for the other nodes in order: a pinned one, else the lowest free one from 2, else 0. -/
def assignAddrs (pins : List (BitVec 64 × Nat)) : List (BitVec 64) → List Nat → List (BitVec 64 × Nat)
  | [], _ => []
  | u :: l, used =>
    let a := match pins.find? (fun e => e.1 = u) with
      | some e => e.2
      | none => (((List.range 63).map (· + 2)).find? (fun a => !used.contains a)).getD 0
    (u, a) :: assignAddrs pins l (a :: used)

/-- Node 1 assigns addresses and broadcasts them with a switch time 1 ms ahead. -/
def Part.promAssign (p : Part) : Part :=
  let (pins, warn) := p.pins p.uid
  let l := (promOrder p.ring.replies).map (·.uid)
  let pins := pins.filter (fun e => l.contains e.1)
  let addrs := assignAddrs pins l (1 :: pins.map (·.2))
  let at_ := p.ringNow + msec 1
  let east := (1, 0) :: (addrs.zipIdx.filter (fun e => e.1.2 ≠ 0)).map (fun e => (e.1.2, e.2 + 1))
  let e := p.ring.promEpoch
  let p := if warn then p.ringEvt 4 else p
  let p := p.onRing (fun x => { x with
    switch := some { addr := 1, epoch := e, nodes := addrs.length + 1, east := east, at_ := at_ } })
  p.send (.prom (.assign e addrs east at_))

/-- RING_PROM: start, reply and assignment; `last` says that node 1 has every reply. -/
def Part.promFrame (p : Part) (q : Nat) (x : RingHdr) (m : PromMsg) (last : Bool) : Part :=
  let one := p.bit Reg.RING_STAT 30
  match m with
  | .start e =>
    if one then p
    else
      let p := (p.onRing (fun r => { r with prom := true, promEpoch := e, switch := none })).setBit Reg.RING_STAT 29 true
      let h := some (x.hops + 1)
      p.send (.prom (.reply p.uid (if q = 1 then h else none) (if q = 0 then h else none)))
  | .reply u e w =>
    if !one || !p.ring.prom then p
    else
      let p := p.onRing (fun r => { r with replies := r.replies.filter (fun y => y.uid ≠ u) ++ [{ uid := u, east := e, west := w }] })
      if last then p.promAssign else p
  | .assign e addrs east at_ =>
    if one || !p.ring.prom || e ≠ p.ring.promEpoch then p
    else
      let a := ((addrs.find? (fun y => y.1 = p.uid)).map (·.2)).getD 0
      p.onRing (fun r => { r with
        switch := some { addr := a, epoch := e, nodes := addrs.length + 1, east := east, at_ := at_ } })

/-- RING_PROM. -/
def execRingProm (f : RingFrame) (m : PromMsg) (last : Bool) (s : State) :=
  s.run (·.onFrame f 11 (fun x p => p.promFrame f.port.val x m last))

/-- PROMENADE_SWITCH: the new address and the new epoch are taken together; requests of the old epoch end with status
0x4, barriers are abandoned, callers count heartbeats anew (R353), and held requests leave. -/
def Part.promSwitch (p : Part) (t : Instant) : Part :=
  match p.ring.switch with
  | none => p
  | some w =>
    if t < w.at_ then p
    else
      let p := (p.atRing t).endRequests 4
      let p := ((p.setFld Reg.RING_STAT 0 7 w.addr).setBit Reg.RING_STAT 31 (w.addr ≠ 0)).setFld Reg.RING_STAT 12 4 w.epoch
      let p := ((p.setFld Reg.RING_STAT 16 7 w.nodes).setBit Reg.RING_STAT 29 false).setBit Reg.RING_BARSTAT 31 false
      let p := p.onRing (fun x => { x with
        prom := false, switch := none, east := w.east, nodes := w.nodes, bar := none, arrived := [], srcs := [], replies := [] })
      let p := p.onPair (fun x => { x with callers := x.callers.map (fun c =>
        { c with resume := p.ringNow + usec 7, sides := c.sides.map (fun y => { y with misses := 0 }) }) })
      let p := p.each [0, 1, 2, 3] (fun p k => p.showCall k)
      let p := if w.addr = 0 then p.ringEvt 3 else p
      let p := ((p.ringEvt 5).irq 57).each (List.range 8) (fun p k =>
        if (p.op k).code = 0x0C && p.opState k = 2 then p.opDone k else p)
      p.pump

/-- PROMENADE_SWITCH. -/
def execPromenadeSwitch (t : Instant) (s : State) := s.run (·.promSwitch t)

/-- HOST_PORT_LIVE: with AUTOPROM set a part that becomes node 1 runs a promenade. -/
def execHostPortLive (pcie : Option (Fin 8 × Fin 16)) (lowest : Bool) (t : Instant) (s : State) :=
  s.run (fun p =>
    let was := p.bit Reg.RING_STAT 30
    let p := (p.at t).hostLive (pcie.map (fun e => (e.1.val, e.2.val))) lowest
    if !was && p.bit Reg.RING_CFG 31 then p.promStart else p)

/-! Ring reset (R325). -/

/-- This node's part of a ring reset: requests end with status 0x6, tags are cleared, and the links retrain. A promenade that
runs is not over: it restarts with a further epoch (R313). -/
def Part.ringReset (p : Part) : Part :=
  let l := p.ring.waits
  let p := (p.endRequests 6).each l (fun p r => p.requestFailed r 6)
  let p := p.onRing (fun x => { x with
    tags := [], waits := [], srcs := [], switch := none, replies := [], bar := none, arrived := [], cuts := [],
    swapDue := [], upAt := [], retrain := true })
  let p := p.each [0, 1] (fun p q => p.setFld (Reg.RING_PSTAT q) 24 8 0)
  (p.setBit Reg.RING_BARSTAT 31 false).showWrap

/-- RING_RESET: on node 1; a write on another node has no effect. -/
def Part.rreset (p : Part) (t : Instant) : Part :=
  if p.bit Reg.RING_STAT 30 then ((p.at t).send (.notice .reset)).ringReset else p

/-- RING_RESET. -/
def execRingReset (t : Instant) (s : State) := s.run (·.rreset t)

/-- RING_RETRAIN_COMPLETE: the lanes that hold lock; node 1 starts the promenade that follows. -/
def execRingRetrainComplete (east west : BitVec 3) (t : Instant) (s : State) :=
  s.run (fun p =>
    if !p.ring.retrain then p
    else
      let one := fun (p : Part) (q lanes : Nat) =>
        let st := Reg.RING_PSTAT q
        ((p.setFld st 24 3 lanes).setBit st 31 (lanes ≠ 0)).setFld st 19 3 0
      let p := (p.at t).onRing (fun x => { x with retrain := false })
      (one (one p 0 east.toNat) 1 west.toNat).promStart)

/-- RING_LINK: a notice of a break or a heal, of a ring reset, or that a node without an address has linked up. -/
def Part.linkNotice (p : Part) (m : LinkMsg) : Part :=
  match m with
  | .broken n => (p.onRing (fun x => { x with cuts := if n = 0 || x.cuts.contains n then x.cuts else n :: x.cuts })).showWrap
  | .heal n _ => if p.ring.cuts.contains n then p.unwrap n else p
  | .reset => p.ringReset
  | .joined => if p.bit Reg.RING_CFG 31 then p.promStart else p

/-- RING_LINK. -/
def execRingLink (f : RingFrame) (m : LinkMsg) (s : State) := s.run (·.onFrame f 13 (fun _ p => p.linkNotice m))

/-- RING_PAIR. -/
def execRingPair (f : RingFrame) (m : PairMsg) (t : Instant) (s : State) := s.run (·.onFrame f 9 (fun _ p => p.pairMsg m t))

/-! Barriers (R324). -/

/-- A barrier is released at this node. -/
def Part.barRelease (p : Part) (id : Nat) : Part :=
  let p := ((p.setFld Reg.RING_BARSTAT 16 8 id).countWrap Reg.RING_BARSTAT 0 16).irq 58
  if p.ring.bar = some id then (p.onRing (fun x => { x with bar := none })).setBit Reg.RING_BARSTAT 31 false else p

/-- An arrival at node 1: once every node with an address has arrived with the same ID, the barrier is released. -/
def Part.barArrived (p : Part) (id node : Nat) : Part :=
  let l := (id, node) :: p.ring.arrived.filter (fun e => e ≠ (id, node))
  let p := p.onRing (fun x => { x with arrived := l })
  if p.bit Reg.RING_STAT 30 && (1 :: p.ring.east.map (·.1)).all (fun n => l.contains (id, n)) then
    let p := p.onRing (fun x => { x with arrived := l.filter (fun e => e.1 ≠ id) })
    (p.send (.barrier id true)).barRelease id
  else p

/-- BARRIER_ARRIVE. -/
def Part.barArrive (p : Part) (id : Nat) : Part :=
  let p := (p.onRing (fun x => { x with bar := some id })).setBit Reg.RING_BARSTAT 31 true
  (p.send (.barrier id false)).when (p.bit Reg.RING_STAT 30) (·.barArrived id 1)

/-- BARRIER_ARRIVE. -/
def execBarrierArrive (id : Byte) (s : State) := s.run (·.barArrive id.toNat)

/-- RING_BAR: an arrival or a release. -/
def execRingBar (f : RingFrame) (id : Byte) (release : Bool) (s : State) :=
  s.run (·.onFrame f 10 (fun x p =>
    if release then p.barRelease id.toNat else if p.bit Reg.RING_STAT 30 then p.barArrived id.toNat x.src else p))

/-! Snapshots (R323). -/

/-- A time is compared with ring time in the low 32 bits of the seconds. -/
def Part.ringLow (p : Part) : Instant := instOf (instSec p.ringNow % 2 ^ 32) (instNs p.ringNow)

/-- The snapshot time as the registers hold it. -/
def Part.snapTime (p : Part) : Instant := instOf (p.reg Reg.RING_SNAPT_HI).toNat (p.reg Reg.RING_SNAPT_LO).toNat

/-- Writing RING_SNAPT_HI arms a snapshot; a schedule that comes at or after its time is late, and one that is no valid time is
refused (R7): neither half is taken (DESIGN CHOICE, log entry 57). -/
def Part.snapArm (p : Part) (lo hi : Word) : Part :=
  if !nsValid lo then p
  else
    let p := (p.setReg Reg.RING_SNAPT_LO lo).setReg Reg.RING_SNAPT_HI hi
    let r := Reg.RING_SNAPSTAT
    if p.snapTime ≤ p.ringLow then ((p.setBit r 29 true).setBit r 31 false).ringEvt 2
    else ((p.setBit r 31 true).setBit r 30 false).setBit r 29 false

/-- SNAPSHOT_ARM. -/
def execSnapshotArm (lo hi : Word) (t : Instant) (s : State) := s.run (fun p => (p.at t).snapArm lo hi)

/-- RING_TEMPO: a scheduled time event arms the snapshot. -/
def execRingTempo (f : RingFrame) (lo hi : Word) (t : Instant) (s : State) :=
  s.run (·.onFrame f 8 (fun _ p => (p.at t).snapArm lo hi))

/-! HOST_STATUS (R329 to R331). -/

/-- Whether the cause of the sticky flag FAULT stands: a latched trip, a halted group, WDSTOP or a double fault. -/
def Part.faultStands (p : Part) : Bool :=
  p.fld Reg.GATE_LATCH 0 24 ≠ 0 || [Grp.A, Grp.B].any (fun g => p.gmode g = 4) || p.cycState = 4
    || [0, 1, 2].any (fun k => (p.slot k).run = .doubleFault)

/-- HOST_STATUS below SEQ as it stands (Table 11.10). -/
def Part.hostStatus (p : Part) : Nat :=
  let ops := ((List.range 8).filter (fun k => p.opState k = 1 || p.opState k = 2)).map (fun k => 2 ^ k)
  let slowed := decide (p.fld Reg.CLK_SLOW 0 13 ≠ 0)
  let rcd := p.cap.records.any (fun r => !r.read)
  p.node * 2 ^ 40 + p.epoch * 2 ^ 36 + p.role * 2 ^ 32 + p.hostMode % 256 * 2 ^ 24 + p.grade % 256 * 2 ^ 16 + ops.sum * 2 ^ 8
    + p.fld Reg.HOST_STATUS_LO 4 4 * 16 + rcd.toNat * 8 + (p.bit Reg.SAFE_STAT 31 || p.fld Reg.SAFE_STAT 24 2 ≠ 0).toNat * 4
    + (p.bit Reg.CYC_STAT 27).toNat * 2 + slowed.toNat

/-- Node 1 writes a status into its mirror entry, with the time of the change, and sets its bit of HOST_SUMMARY. -/
def Part.mirrorStat (p : Part) (n : Nat) (status : Nat) (t : Instant) : Part :=
  if n = 0 || 64 < n || !p.bit Reg.RING_STAT 30 then p
  else
    let a := 0x107FF000 + 16 * (n - 1)
    let p := p.storeBytes a (bytesOf 8 status ++ bytesOf 4 (instNs t) ++ bytesOf 4 (instSec t))
    let p := p.setPair Reg.HOST_SUMMARY_LO (p.pair Reg.HOST_SUMMARY_LO ||| 2 ^ (n - 1))
    p.irq 62

/-- HOST_STATUS_CHANGE: SEQ counts a change of any other field, changes of the same 100 ns once, and the status goes to
node 1. -/
def Part.statusChange (p : Part) (t : Instant) : Part :=
  let p := p.at t
  let v := p.hostStatus
  if v = p.ring.status then p
  else
    let same := p.ring.statusAt ≠ 0 && p.now < p.ring.statusAt + nsec 100
    let seq := if same then p.fld Reg.HOST_STATUS_HI 16 16 else p.fld Reg.HOST_STATUS_HI 16 16 + 1
    let p := p.setFld Reg.HOST_STATUS_HI 16 16 seq
    let p := p.onRing (fun x => { x with status := v, statusAt := if same then x.statusAt else p.now })
    let word := p.fld Reg.HOST_STATUS_HI 16 16 * 2 ^ 48 + v
    if p.bit Reg.RING_STAT 30 then p.mirrorStat 1 word p.ringNow else p.send (.stat (BitVec.ofNat 64 word))

/-- HOST_STATUS_CHANGE. -/
def execHostStatusChange (t : Instant) (s : State) := s.run (·.statusChange t)

/-- HOST_FLAGCLR: sticky flags are cleared; one whose cause still stands is set again, and counts as a change. -/
def Part.flagClr (p : Part) (v : Word) : Part :=
  let r := Reg.HOST_STATUS_LO
  let was := p.fld r 4 4
  let clr := bits v 4 4
  let left := (List.range 4).foldl (fun n i => if was.testBit i && !clr.testBit i then n + 2 ^ i else n) 0
  let again := p.faultStands && was.testBit 3 && clr.testBit 3
  let p := p.setFld r 4 4 (if again then left + 8 else left)
  if again then p.onRing (fun x => { x with status := x.status - (if x.status.testBit 7 then 128 else 0) }) else p

/-- HOST_FLAGCLR. -/
def execHostFlagclr (v : Word) (s : State) := s.run (·.flagClr v)

/-- RING_STAT. -/
def execRingStat (f : RingFrame) (status : BitVec 64) (at_ : Instant) (s : State) :=
  s.run (·.onFrame f 12 (fun x p => p.mirrorStat x.src status.toNat at_))

/-- SNAPSHOT_TAKE: at the snapshot time the values of Table 11.7 are captured as they stand. -/
def Part.snapTake (p : Part) (t : Instant) : Part :=
  let p := p.atRing t
  let r := Reg.RING_SNAPSTAT
  if !p.bit r 31 || p.ringLow + nsec 1 < p.snapTime || p.snapTime + nsec 1 < p.ringLow then p
  else
    let st := p.hostStatus + p.fld Reg.HOST_STATUS_HI 16 16 * 2 ^ 48
    let seq := (p.fld r 0 16 + 1) % 65536
    let regs := fun (l : List Nat) => l.map (fun o => (p.reg o).toNat)
    let angle := fun n : Nat =>
      (wordOfInt (roundInt (p.posCount n * p.fld (Reg.POS_PP n) 0 8 * 2 ^ 32) (p.cpr n)) + p.reg (Reg.POS_OFFSET n)).toNat
    let ws := [(p.reg Reg.RING_SNAPT_LO).toNat, (p.reg Reg.RING_SNAPT_HI).toNat, seq]
    let sts := [st % 2 ^ 32, st / 2 ^ 32] ++ regs [Reg.CLE_SCNT_LO 0, Reg.CLE_SCNT_LO 1]
    let eps := fun g : Nat => regs ((List.range 64).map (fun k => Reg.CLE_EP g k))
    let rest := sts ++ eps 0 ++ eps 1 ++ regs ((List.range 28).map (fun n => Reg.SENSE_FAST n))
      ++ regs ((List.range 4).map (fun n => Reg.POS_COUNT n)) ++ (List.range 4).map angle
      ++ regs ((List.range 16).map (fun c => Reg.RAMP_OUT c))
    let p := (p.storeBytes 0x107FF400 (ws.flatMap (bytesOf 4))).storeBytes 0x107FF410 (rest.flatMap (bytesOf 4))
    let p := ((p.setBit r 31 false).setBit r 30 true).setFld r 0 16 seq
    (p.irq 59).capEvent 0x410 p.now

/-- SNAPSHOT_TAKE. -/
def execSnapshotTake (t : Instant) (s : State) := s.run (·.snapTake t)

end Sys2Proof.Machine
end

