-- ==== Sys2Proof/Machine/Sec.lean ====
section
/-! DEFINITION. Keys, enrolment, revocation and debug tokens (R423 to R429). -/

namespace Sys2Proof.Machine

/-- Address and bytes of the owner key's area (Table 16.7). -/
def ownerArea : Nat × Nat := (0x23C10000, 2592)

/-- The bytes of the owner key's area. -/
def Part.ownerKey (p : Part) : List Byte := p.loadBytes ownerArea.1 ownerArea.2

/-- Whether a signature verifies under the owner key, where one is enrolled and matches its fuses. -/
def Part.ownerSigned (p : Part) (digest sig : List Byte) : Bool :=
  p.trust.ownerOk && Config.verifies p.ownerKey digest sig

/-- The vendor key under which a signature verifies, if one that is not revoked does. -/
def Part.vendorSigned (p : Part) (digest sig : List Byte) : Option Nat :=
  [0, 1].find? (fun k => !(k = 0 && p.trust.v0Revoked) && Config.verifies (Config.vendorKey k) digest sig)

/-- Whether a figure or a cyclic image is accepted (R424). -/
def Part.signedOk (p : Part) (digest sig : List Byte) : Bool :=
  p.ownerSigned digest sig || (p.vendorSigned digest sig).isSome

/-- Bytes of a signature. -/
def sigBytes : Nat := 4627

/-- Base of a figure slot (Table 1.11). -/
def figSlotBase (slot : Nat) : Nat := 0x21000000 + slot * 0x200000

/-- The digest over the image bytes of a figure slot, and the signature in its block (R171). -/
def Part.figDigest (p : Part) (slot : Nat) : List Byte := sha3 (p.loadBytes (figSlotBase slot) 0x78000)

/-- Whether the image in a figure slot is signed by an allowed key. -/
def Part.figSigned (p : Part) (slot : Nat) : Bool :=
  p.signedOk (p.figDigest slot) (p.loadBytes (figSlotBase slot + 0x78000) sigBytes)

/-- The listed bytes of an area, by offset. -/
def Part.listed (p : Part) (a n : Nat) : List (Nat × Byte) :=
  (p.mem.bytes.filter (fun c => a ≤ c.1 && c.1 < a + n)).map (fun c => (c.1 - a, c.2))

/-- Digest and signature of a cyclic image slot, or of the firmware area. -/
def Part.areaSigned (p : Part) (a n : Nat) : List Byte × List Byte :=
  let (body, sig) := Config.signedPart (p.listed a n)
  (sha3 body, sig)

/-- A write of SEC_ENROLL: a second write of the same word within 1 s acts (R426). -/
def Part.enrollWrite (p : Part) (w : Word) (t : Instant) (act : Part → Part) : Part :=
  let p := p.at t
  let second := p.trust.first.any (fun e => e.1 = w && t ≤ e.2 + sec 1)
  let p := { p with trust := { p.trust with first := if second then none else some (w, t) } }
  p.when second act

/-- The owner key is enrolled: its digest goes into the fuses, once (R426). -/
def Part.enroll (p : Part) : Part :=
  if p.trust.ownerFuse.isSome then p.raise Reg.SEC_EVT 3
  else
    { p with trust := { p.trust with ownerFuse := some (sha3 p.ownerKey), ownerOk := true } }.setBit Reg.SEC_STAT 30 true

/-- V0 is revoked, and only while V1 verifies the firmware in force (R426). -/
def Part.revoke (p : Part) : Part :=
  if p.bit Reg.SEC_STAT 27 then { p with trust := { p.trust with v0Revoked := true } }.setBit Reg.SEC_STAT 29 true else p

/-- The word that enrols the owner key. -/
def enrolWord : Word := 0x4F574E52

/-- The word that revokes V0. -/
def revokeWord : Word := 0x52564B30

/-- OWNER_ENROLL: a write of the enrolment word. -/
def execOwnerEnroll (t : Instant) (s : State) := s.run (·.enrollWrite enrolWord t Part.enroll)

/-- VENDOR_KEY_REVOKE: a write of the revocation word. -/
def execVendorKeyRevoke (t : Instant) (s : State) := s.run (·.enrollWrite revokeWord t Part.revoke)

/-- A write of SEC_ENROLL of any value; another word is no enrolment and ends a pair that was begun. -/
def Part.secEnroll (p : Part) (v : Word) (t : Instant) : Part :=
  if v = enrolWord then p.enrollWrite enrolWord t Part.enroll
  else if v = revokeWord then p.enrollWrite revokeWord t Part.revoke
  else { p.at t with trust := { p.trust with first := none } }

/-- SEC_DBGCTL.GO: a token that the owner signed for this part and this boot enables debug until the next reset and extends
SEC_MEAS; another sets DBGREF (R429). -/
def Part.debugToken (p : Part) : Part :=
  let token := p.loadBytes (p.pair Reg.SEC_DBGADDR_LO % 2 ^ 40) Config.tokenLen
  let nonce := p.reg Reg.SEC_DBGNONCE_HI ++ p.reg Reg.SEC_DBGNONCE_LO
  if p.trust.ownerOk && Config.tokenOk p.ownerKey token p.uid nonce then (p.setBit Reg.SEC_STAT 28 true).measure 8 (sha3 token)
  else p.raise Reg.SEC_EVT 2

/-- DEBUG_TOKEN. -/
def execDebugToken (s : State) := s.run (·.debugToken)

end Sys2Proof.Machine
end

