-- ==== Sys2Proof/Machine/Clk.lean ====
section
/-! DEFINITION. Clocks, supplies and monitors (chapter 17) but for the resets: the PLLs, band measurements, supply sag,
the records of the monitors, the vault, and the commit checks of CLK, PWR and MON. -/

namespace Sys2Proof.Machine

/-! The PLLs (R434 to R441). -/

/-- PLL `k`: 0 for PLL-A, 1 for PLL-B. -/
def Part.pll (p : Part) (k : Nat) : PllState := vget {} p.clk.plls k

/-- Replace PLL `k`. -/
def Part.setPll (p : Part) (k : Nat) (x : PllState) : Part := { p with clk := { p.clk with plls := vset p.clk.plls k x } }

/-- Lock flag of a PLL. -/
def Part.pllLocked (p : Part) (k : Nat) : Bool := p.bit Reg.CLK_STAT (31 - k)

/-- Whether a PLL is retired. -/
def Part.pllRetired (p : Part) (k : Nat) : Bool := p.bit Reg.CLK_STAT (27 - k)

/-- Whether the islands run from REFCLK (R433). -/
def Part.bypass (p : Part) : Bool := p.bit Reg.CLK_STAT 25

/-- The PLL that SERVICE names. -/
def Part.pllServes (p : Part) : Nat := (p.bit Reg.CLK_STAT 29).toNat

/-- Steps of 78.125 ps in a period of a clock output, as a fraction (R442). -/
def ckoPeriod (per fr : Word) : Nat × Nat := (bits per 0 12 * bits fr 16 16 + bits fr 0 16, bits fr 16 16)

/-- Whether a clock output keeps running on a 10 ns grid while no PLL serves it (R443): CKO_FREE, and 50 MHz at most. -/
def Part.ckoFree (p : Part) (k : Nat) : Bool :=
  let (n, d) := ckoPeriod (p.reg (Reg.CLK_CKOPER k)) (p.reg (Reg.CLK_CKOFR k))
  p.bit (Reg.CLK_CKOCFG k) 31 && p.bit (Reg.CLK_CKOCFG k) 30 && 256 * d ≤ n

/-- FREEINACC while an output runs on the grid. -/
def Part.showCko (p : Part) : Part :=
  p.setBit Reg.CLK_STAT 23 (p.bypass && (List.range 4).any p.ckoFree)

/-- The level of clock output `k` at an instant of local tempo: a rising edge at each whole second, high for the first half
of each period, in whole steps (R442). While no PLL serves it, it is held low, or runs with its edges on a 10 ns grid, at
places that the spec does not give (R443). -/
def Part.ckoLevel (p : Part) (k : Nat) (t : Instant) : Bool :=
  let (n, d) := ckoPeriod (p.reg (Reg.CLK_CKOPER k)) (p.reg (Reg.CLK_CKOFR k))
  let into := t % sec 1 * d % (n * tdcStep)
  if !p.bit (Reg.CLK_CKOCFG k) 31 then false
  else if !p.bypass then decide (into < n / (2 * d) * tdcStep * d)
  else p.ckoFree k && Config.ckoOnGrid k (t / nsec 10)

/-- f_VCO in units of 100 MHz / 2^24. -/
def vcoUnits (cfg f : Word) : Nat := bits cfg 0 8 * 2 ^ 24 + bits f 0 24

/-- The lowest-numbered entry of a PLL's band table that brackets a frequency (R435); LO and HI are in MHz. -/
def Part.bandFor (p : Part) (k u : Nat) : Option Nat :=
  (List.range 64).find? (fun b =>
    let w := p.reg (Reg.CLK_BAND k b)
    bits w 0 16 * 2 ^ 24 ≤ 100 * u && 100 * u ≤ bits w 16 16 * 2 ^ 24)

/-- A PLL that is enabled and not retired starts to acquire lock, in the band it now chooses; its lock flag clears. -/
def Part.pllAcquire (p : Part) (k : Nat) (t : Instant) : Part :=
  let on := p.bit (Reg.CLK_PLLCFG k) 31 && !p.pllRetired k
  let band := p.bandFor k (vcoUnits (p.reg (Reg.CLK_PLLCFG k)) (p.reg (Reg.CLK_PLLF k)))
  let p := p.setPll k { p.pll k with acq := if on then some t else none, band := if on then band else none }
  let p := p.setBit Reg.CLK_STAT (31 - k) false
  p.setBit Reg.CLK_STAT 28 false

/-- A PLL is retired and stays disabled (R438). -/
def Part.pllRetire (p : Part) (k cause : Nat) : Part :=
  let p := p.setPll k { p.pll k with acq := none }
  let p := ((p.setBit Reg.CLK_STAT (31 - k) false).setBit Reg.CLK_STAT (27 - k) true).setBit (Reg.CLK_PLLCFG k) 31 false
  ((p.setBit Reg.CLK_STAT 28 false).raise Reg.CLK_EVT 4).noteRetire 3 k cause

/-- No PLL holds lock (R441): bypass, the groups halt, the floor is released. -/
def Part.pllFail (p : Part) (t : Instant) : Part :=
  let p := ((p.setBit Reg.CLK_STAT 24 true).setBit Reg.CLK_STAT 25 true).showCko
  let p := p.each [Grp.A, Grp.B] (fun p g => p.when (p.groupRuns g) (·.haltGroup g false t))
  p.releaseFloor t

/-- The islands move to PLL `k` at their next handshake. -/
def Part.pllMove (p : Part) (k : Nat) : Part :=
  let p := (p.setBit Reg.CLK_STAT 29 (k = 1)).setBit Reg.CLK_STAT 28 false
  (p.countSat Reg.CLK_MOVECNT 0 32).raise Reg.CLK_EVT 3

/-- Where the PLL in service holds no lock, the islands move to the other if it does, and else no PLL is left; in bypass
nothing is in service. The second part of the answer says whether the islands moved. -/
def Part.pllSettle (p : Part) (t : Instant) : Part × Bool :=
  let k := p.pllServes
  if p.bypass || p.pllLocked k then (p, false)
  else if p.pllLocked (1 - k) then (p.pllMove (1 - k), true)
  else (p.pllFail t, false)

/-- Islands leave bypass for the first PLL that locks: for PLL-B only where PLL-A is disabled or retired (R433). After
PLLFAIL they stay in bypass until a reset. -/
def Part.leaveBypass (p : Part) : Part :=
  if !p.bypass || p.bit Reg.CLK_STAT 24 then p
  else if p.pllLocked 0 then ((p.setBit Reg.CLK_STAT 25 false).setBit Reg.CLK_STAT 29 false).showCko
  else if p.pllLocked 1 && !p.bit (Reg.CLK_PLLCFG 0) 31 then
    ((p.setBit Reg.CLK_STAT 25 false).setBit Reg.CLK_STAT 29 true).showCko
  else p

/-- An acquisition completes within 60 µs: the lock flag sets. -/
def Part.pllLock (p : Part) (k : Nat) (t : Instant) : Part :=
  match (p.pll k).acq with
  | some a =>
    if a ≤ t && t ≤ a + usec 60 then
      let p := (p.at t).setPll k { p.pll k with acq := none, lockAt := t, fails := 0 }
      (p.setBit Reg.CLK_STAT (31 - k) true).leaveBypass
    else p
  | none => p

/-- Clock edges that the guards have suppressed are counted (R440). -/
def Part.guard (p : Part) (n : Nat) : Part :=
  if n = 0 then p
  else (p.setReg Reg.CLK_GUARDCNT (BitVec.ofNat 32 (min (2 ^ 32 - 1) ((p.reg Reg.CLK_GUARDCNT).toNat + n)))).raise Reg.CLK_EVT 5

/-- PLL_LOCK; `early` counts the edges that the guards suppressed meanwhile. -/
def execPllLock (pll : Fin 2) (early : Nat) (t : Instant) (s : State) := s.run (fun p => (p.guard early).pllLock pll.val t)

/-- A PLL not locked within 60 µs fails the acquisition and tries again; three failures in a row retire it (R438). -/
def Part.pllAcqFail (p : Part) (k : Nat) (t : Instant) : Part :=
  match (p.pll k).acq with
  | some a =>
    if a + usec 60 < t then
      let x := p.pll k
      let p := ((p.at t).setPll k { x with fails := x.fails + 1 }).raise Reg.CLK_EVT 2
      if x.fails + 1 < 3 then p.pllAcquire k t
      else
        let p := (p.pllRetire k 1).leaveBypass
        p.when (p.pllRetired 0 && p.pllRetired 1 && !p.bit Reg.CLK_STAT 24) (·.pllFail t)
    else p
  | none => p

/-- PLL_ACQUISITION_FAIL. -/
def execPllAcquisitionFail (pll : Fin 2) (early : Nat) (t : Instant) (s : State) :=
  s.run (fun p => (p.guard early).pllAcqFail pll.val t)

/-- PLL_RESERVE_READY: the PLL that is not in service has held lock for 100 µs. -/
def execPllReserveReady (t : Instant) (s : State) :=
  s.run (fun p =>
    let k := 1 - p.pllServes
    if !p.bypass && p.pllLocked k && (p.pll k).lockAt + usec 100 ≤ t then (p.at t).setBit Reg.CLK_STAT 28 true else p)

/-- The PLL in service loses lock (R438): it is retired where it lost lock within the last 3600 s, and acquires again
otherwise; the islands move to the reserve. -/
def Part.pllLoss (p : Part) (t : Instant) : Part :=
  let k := p.pllServes
  if p.bypass || !p.pllLocked k then p
  else
    let x := p.pll k
    let again := x.lost.any (fun a => t ≤ a + sec 3600)
    let p := ((p.at t).raise Reg.CLK_EVT k).setPll k { x with lost := some t }
    let p := if again then p.pllRetire k 1 else p.pllAcquire k t
    let (p, moved) := p.pllSettle t
    p.when moved (·.noteSwap 3 0 (1 - k) 1)

/-- PLL_LOSS_OF_LOCK. -/
def execPllLossOfLock (early : Nat) (t : Instant) (s : State) := s.run (fun p => (p.guard early).pllLoss t)

/-! Band measurements (R435). -/

/-- A write of CLK_BANDCTL with GO: the PLL must be disabled or not in service. -/
def Part.bandMeasure (p : Part) (v : Word) (t : Instant) : Part :=
  let k := bits v 6 1
  if !bitAt v 7 || p.clk.band.isSome || (p.bit (Reg.CLK_PLLCFG k) 31 && !p.bypass && p.pllServes = k) then p
  else
    let p := (p.at t).setBit Reg.CLK_BANDMEAS 31 false
    { p with clk := { p.clk with band := some (k, bits v 0 6, t) } }

/-- BAND_MEASURE. -/
def execBandMeasure (v : Word) (t : Instant) (s : State) := s.run (·.bandMeasure v t)

/-- BAND_MEASURE_DONE: after the 10 µs count CLK_BANDMEAS shows DONE and the band's centre. -/
def execBandMeasureDone (mhz : BitVec 16) (t : Instant) (s : State) :=
  s.run (fun p =>
    match p.clk.band with
    | some (_, _, a) =>
      if a + usec 10 ≤ t then
        let p := { p.at t with clk := { p.clk with band := none } }
        p.setReg Reg.CLK_BANDMEAS (BitVec.ofNat 32 (2 ^ 31 + mhz.toNat))
      else p
    | none => p)

/-! Supply sag (R448). -/

/-- The largest slowing of an island (Table 1.1): 0 none, 1 for −25 %, 2 for −50 %. -/
def slowLimit (i : Nat) : Nat := if i = 0 then 0 else if [2, 3, 4, 10].contains i then 1 else 2

/-- Droop of a rail at an island. -/
def Part.droop (p : Part) (i : Nat) (sram : Bool) : Nat := sGet (fun _ => 0) p.clk.sag (2 * i + sram.toNat)

/-- Slowing of an island: by the worse of its rails, within its limit. -/
def Part.slowing (p : Part) (i : Nat) : Nat := min (slowLimit i) (max (p.droop i false) (p.droop i true))

/-- Set the droop of a rail at an island, and show the slowed islands in CLK_SLOW. -/
def Part.setDroop (p : Part) (i : Nat) (sram : Bool) (n : Nat) : Part :=
  let p := { p with clk := { p.clk with sag := sSet (fun _ => 0) p.clk.sag (2 * i + sram.toNat) n } }
  let s := p.slowing i
  (p.setBit Reg.CLK_SLOW i (0 < s)).setBit Reg.CLK_SLOW (16 + i) (s = 2)

/-- A rail of an island crosses −3 % or −6 %: the crossing is counted and the island slowed; the first island at which a
rail sags begins an envelope event of that rail. -/
def Part.sag (p : Part) (i : Nat) (sram deep : Bool) (t : Instant) : Part :=
  let old := p.droop i sram
  let new := if deep then 2 else 1
  if new ≤ old then p
  else
    let p := p.at t
    let quiet := (List.range 13).all (fun j => p.droop j sram = 0)
    let p := p.when quiet (·.countSat Reg.PWR_SAGCNT (if sram then 16 else 0) 16)
    let p := p.when (old = 0) (·.countSat (Reg.CLK_ISLCNT i) 0 16)
    let p := p.when deep (·.countSat (Reg.CLK_ISLCNT i) 16 16)
    p.setDroop i sram new

/-- SUPPLY_SAG. -/
def execSupplySag (island : Fin 13) (sram deep : Bool) (t : Instant) (s : State) := s.run (·.sag island.val sram deep t)

/-- SAG_RECOVERY: the rail has stayed above a threshold for 1 µs, and the island's slowing steps back. -/
def execSagRecovery (island : Fin 13) (sram : Bool) (t : Instant) (s : State) :=
  s.run (fun p => if p.droop island.val sram = 0 then p else (p.at t).setDroop island.val sram (p.droop island.val sram - 1))

/-! Monitors (R449, R450, R453). -/

/-- A trim of the calibration page at an offset; neutral trims leave the reading as it is (R422). -/
def Part.monTrim (p : Part) (off : Nat) (x : Word) : Word :=
  if p.health.calBad then x
  else
    let a := 0x23D00000 + off
    Config.monTrim (p.loadWord a) (p.loadWord (a + 4)) x

/-- FP32 −infinity … the least finite value, from which a highest value starts. -/
def fpLow : Word := 0xFF7FFFFF

/-- Temperatures: shown with their highest since reset; those at or above MON_TWARN set TWARN and WARNING, and 140 °C or
more is timed (R450). -/
def Part.sampleTemps (p : Part) (xs : List Word) (t : Instant) : Part :=
  let ys := (List.range 10).map (fun i => p.monTrim (0x210 + 8 * i) (xs.getD i 0))
  let first := !p.clk.tempUp
  let p := p.each ys.zipIdx (fun p e =>
    let top := if first || fpLt (p.reg (Reg.MON_TMAX e.2)) e.1 then e.1 else p.reg (Reg.MON_TMAX e.2)
    (p.setReg (Reg.MON_TEMP e.2) e.1).setReg (Reg.MON_TMAX e.2) top)
  let warm := (ys.zipIdx.filter (fun e => fpLe (p.reg Reg.MON_TWARN) e.1)).map (fun e => 2 ^ e.2)
  let p := (p.setFld Reg.MON_STAT 0 10 warm.sum).setBit Reg.MON_STAT 31 (!warm.isEmpty)
  let p := p.when (!warm.isEmpty) (fun p => (p.raise Reg.MON_EVT 0).hostWarning)
  let hot := ys.any (fun y => fpLe 0x430C0000 y)
  { p with clk := { p.clk with tempUp := true, hot := if hot then some (p.clk.hot.getD t) else none } }

/-- A voltage lies between two limits given in units of 0.1 mV. -/
def voltIn (lo hi : Int) (x : Word) : Bool :=
  fpFinite x && decide (lo * 2 ^ 149 ≤ fpScaled x * 10000 ∧ fpScaled x * 10000 ≤ hi * 2 ^ 149)

/-- Steady range of voltage monitor `j` (Tables 17.5 and 17.8), limits in units of 0.1 mV; `banks` tells which VDDIO banks
are of 3.3 V (R459). -/
def voltSteady (banks : BitVec 3) (j : Nat) (x : Word) : Bool :=
  if j < 11 then voltIn 7760 8240 x
  else if j < 16 then voltIn 8245 8755 x
  else if j < 18 then voltIn 8730 9270 x
  else if j < 20 then voltIn 17100 18900 x
  else if j < 23 then (if banks.getLsbD (j - 20) then voltIn 31350 34650 x else voltIn 17100 18900 x)
  else voltIn 20000 36000 x

/-- Voltages: shown, with the records of their extremes; one outside its steady range sets VRANGE, and VBATOK shows
whether VBAT is within its own. -/
def Part.sampleVolts (p : Part) (xs : List Word) : Part :=
  let ys := (List.range 24).map (fun j => p.monTrim (0x260 + 8 * j) (xs.getD j 0))
  let first := !p.clk.voltUp
  let p := p.each ys.zipIdx (fun p e =>
    let lo := p.reg (Reg.MON_VMIN e.2)
    let hi := p.reg (Reg.MON_VMAX e.2)
    let p := p.setReg (Reg.MON_VOLT e.2) e.1
    (p.setReg (Reg.MON_VMIN e.2) (if first || fpLt e.1 lo then e.1 else lo)).setReg (Reg.MON_VMAX e.2)
      (if first || fpLt hi e.1 then e.1 else hi))
  let p := p.raiseIf (ys.zipIdx.any (fun e => !voltSteady p.clk.banks e.2 e.1)) Reg.MON_EVT 1
  let p := p.setBit Reg.PWR_VAULT 31 (voltSteady 0 23 (ys.getD 23 0))
  { p with clk := { p.clk with voltUp := true } }

/-- Process monitors: the frequencies counted over the last 1 ms. -/
def Part.samplePms (p : Part) (xs : List Word) : Part :=
  p.each (xs.take 16).zipIdx (fun p e => p.setReg (Reg.MON_PMFREQ e.2) e.1)

/-- What the monitors give on one of their periods. -/
def Part.monitor (p : Part) (kind : MonKind) (xs : List Word) (t : Instant) : Part :=
  let p := p.at t
  match kind with
  | .temp => p.sampleTemps xs t
  | .volt => p.sampleVolts xs
  | .pm => p.samplePms xs

/-- A read of MON_VMIN_j or MON_VMAX_j: the record restarts from the present value (R453). -/
def Part.vminmaxRead (p : Part) (j : Nat) (max : Bool) : Part :=
  let r := if max then Reg.MON_VMAX j else Reg.MON_VMIN j
  (p.answer (p.reg r) true).setReg r (p.reg (Reg.MON_VOLT j))

/-- MON_VMINMAX_READ. -/
def execMonVminmaxRead (j : Fin 24) (max : Bool) (s : State) := s.run (·.vminmaxRead j.val max)

/-! The vault (R447). -/

/-- The seconds and nanoseconds of the real-time clock: as set, and since then by its crystal, in steps of 1/32768 s. -/
def Part.rtcNow (p : Part) : Nat × Nat :=
  match p.clk.rtc with
  | some (s, a) =>
    let ticks := (p.now - a) * 32768 / sec 1
    (s + ticks / 32768, ticks % 32768 * 1000000000 / 32768)
  | none => ((p.reg Reg.PWR_RTC_SLO).toNat + (p.reg Reg.PWR_RTC_SHI).toNat * 2 ^ 32, (p.reg Reg.PWR_RTC_NS).toNat)

/-- The main supplies vanish: the vault runs from VBAT; without RTCHOLD its clock stops where it stands and its time is no
longer valid. -/
def Part.toVbat (p : Part) : Part :=
  let (s, ns) := p.rtcNow
  let p := { p with clk := { p.clk with onVbat := true, ranVbat := true } }
  if p.bit Reg.PWR_VCFG 0 then p
  else
    let p := ((p.setPair Reg.PWR_RTC_SLO s).setReg Reg.PWR_RTC_NS (BitVec.ofNat 32 ns)).setBit Reg.PWR_VAULT 30 false
    { p with clk := { p.clk with rtc := none } }

/-- VAULT_WAKE: VDD_ANA rises through 1.6 V and the vault leaves VBAT. -/
def execVaultWake (t : Instant) (s : State) :=
  s.runAlways (fun p => if p.clk.onVbat then { p.at t with clk := { p.clk with onVbat := false } } else p)

/-- The tamper latch: VBAT fell below 1.8 V without main supplies, or the crystal stopped in RTC-hold. -/
def Part.tamper (p : Part) (crystal : Bool) (t : Instant) : Part :=
  if !p.clk.onVbat || (crystal && !p.bit Reg.PWR_VCFG 0) then p
  else
    let (s, ns) := p.rtcNow
    let p := ((p.setPair Reg.PWR_RTC_SLO s).setReg Reg.PWR_RTC_NS (BitVec.ofNat 32 ns)).at t
    let p := { p with clk := { p.clk with rtc := none } }
    (p.setBit Reg.PWR_VAULT 29 true).setBit Reg.PWR_VAULT 30 false

/-- TAMPER. -/
def execTamper (crystal : Bool) (t : Instant) (s : State) := s.runAlways (·.tamper crystal t)

/-- RTC_SYNC: at a whole second of ring time, while TLOCK is set, the real-time clock is set from it. -/
def execRtcSync (t : Instant) (s : State) :=
  s.run (fun p =>
    if p.bit Reg.RING_STAT 28 && t % sec 1 = 0 then
      let p := p.atRing t
      let p := { p with clk := { p.clk with rtc := some (instSec t, p.now) } }
      ((p.setPair Reg.PWR_RTC_SLO (instSec t)).setReg Reg.PWR_RTC_NS 0).setBit Reg.PWR_VAULT 30 true
    else p)

/-- PWR_STAT: every domain is on but PD4 once L6 and L7 are retired, and PD10 under NETOFF (Table 17.6). -/
def Part.pwrStat (p : Part) : Word :=
  putBit (putBit 0xFFF 4 (!(p.laneState 6 = 6 && p.laneState 7 = 6))) 10 (!p.bit Reg.PWR_DOMCTL 0)

/-! Commits (R436, R442, R446, R451 to R453). -/

/-- Whether a commit changes a PLL's EN, N or F. -/
def pllChanged (old new : Nat → Word) (k : Nat) : Bool :=
  old (Reg.CLK_PLLCFG k) ≠ new (Reg.CLK_PLLCFG k) || old (Reg.CLK_PLLF k) ≠ new (Reg.CLK_PLLF k)

/-- Commit check of one PLL. -/
def Part.pllCheck (p : Part) (val : Nat → Word) (k : Nat) : Option (Nat × Nat) :=
  let cfg := val (Reg.CLK_PLLCFG k)
  let u := vcoUnits cfg (val (Reg.CLK_PLLF k))
  let other := 1 - k
  let ready := p.pllLocked other && (p.pll other).lockAt + usec 100 ≤ p.now
  if bits cfg 0 8 < 40 || 64 < bits cfg 0 8 || 100 * u < 4752 * 2 ^ 24 || 4848 * 2 ^ 24 < 100 * u then some (1, Reg.CLK_PLLCFG k)
  else if u ≠ 48 * 2 ^ 24 && (p.groupRuns .A || p.groupRuns .B) then some (6, Reg.CLK_PLLCFG k)
  else if pllChanged p.reg val k && !p.bypass && p.pllServes = k && !ready then some (0x10, Reg.CLK_PLLCFG k)
  else if (p.bandFor k u).isNone then some (0x11, Reg.CLK_PLLCFG k)
  else none

/-- Commit check of one clock output: its frequency, 1.28·10^10 over the period in steps, lies from 5 MHz to 200 MHz and is
a whole number of hertz. -/
def ckoCheck (val : Nat → Word) (k : Nat) : Option (Nat × Nat) :=
  let per := val (Reg.CLK_CKOPER k)
  let fr := val (Reg.CLK_CKOFR k)
  let (n, d) := ckoPeriod per fr
  let f := 12800000000 * d
  if bits (val (Reg.CLK_CKOCFG k)) 28 2 = 3 then some (1, Reg.CLK_CKOCFG k)
  else if bits per 0 12 < 64 || 2560 < bits per 0 12 then some (1, Reg.CLK_CKOPER k)
  else if d = 0 || d ≤ bits fr 0 16 then some (1, Reg.CLK_CKOFR k)
  else if f < 5000000 * n || 200000000 * n < f || f % n ≠ 0 then some (0x12, Reg.CLK_CKOPER k)
  else none

/-- Commit check of CLK. -/
def Part.clkCheck (p : Part) (val : Nat → Word) : Option (Nat × Nat) :=
  ([0, 1].findSome? (p.pllCheck val)).orElse (fun _ => (List.range 4).findSome? (ckoCheck val))

/-- What follows the move of a CLK set: each PLL whose EN, N or F changed acquires lock again, and a change to the PLL in
service moves the islands first (R437). -/
def Part.clkMoved (p : Part) (old : Nat → Word) : Part :=
  let p := p.each [0, 1] (fun p k =>
    p.when (pllChanged old p.reg k) (fun p =>
      let p := p.when (p.pllRetired k) (·.setBit (Reg.CLK_PLLCFG k) 31 false)
      (p.setPll k { p.pll k with fails := 0 }).pllAcquire k p.now))
  (p.pllSettle p.now).1.showCko

/-- Commit check of PWR: NETOFF while an Ethernet port has EN set. -/
def Part.pwrCheck (p : Part) (val : Nat → Word) : Option (Nat × Nat) :=
  if bitAt (val Reg.PWR_DOMCTL) 0 && [0, 1].any (fun q => p.bit (Reg.ETH_PCFG q) 31) then some (0x10, Reg.PWR_DOMCTL) else none

/-- Commit check of MON: 60.0 to 125.0 °C. -/
def monCheck (val : Nat → Word) : Option (Nat × Nat) :=
  if fpLe 0x42700000 (val Reg.MON_TWARN) && fpLe (val Reg.MON_TWARN) 0x42FA0000 then none else some (1, Reg.MON_TWARN)

end Sys2Proof.Machine
end

