-- ==== Sys2Proof/Machine/Cores.lean ====
section
/-! DEFINITION. The core pairs behind the service slots: lockstep mismatches, self-tests and swaps (R247 to R249). -/

namespace Sys2Proof.Machine

/-- Pair `q`. -/
def Part.cpair (p : Part) (q : Nat) : CorePair := vget {} p.core.pairs q

/-- Replace pair `q`. -/
def Part.setCpair (p : Part) (q : Nat) (x : CorePair) : Part := { p with core := { p.core with pairs := vset p.core.pairs q x } }

/-- The pair that serves slot `k`, or the reserve for `k` = 3; 15 for none. -/
def Part.slotPair (p : Part) (k : Nat) : Nat := p.fld Reg.MMU_SLOTMAP (4 * k) 4

/-- Name the pair of a slot, or the reserve. -/
def Part.setSlotPair (p : Part) (k q : Nat) : Part := p.setFld Reg.MMU_SLOTMAP (4 * k) 4 q

/-- Whether a slot waits for a pair: its own failed and no reserve was free (R249). -/
def Part.slotWaits (p : Part) (k : Nat) : Bool := p.core.waits.any (fun e => e.1 = k)

/-- A pair takes a slot's state over: it starts with an empty TLB and L1, and the slot goes on at its first unretired instruction
with its pending interrupts. -/
def Part.pairTakes (p : Part) (k q : Nat) : Part :=
  let p := (p.setSlotPair k q).onSlot k (fun x => { x with tlb := [], il1 := [] })
  { p with core := { p.core with waits := p.core.waits.filter (fun e => e.1 ≠ k) } }

/-- The reserve takes a slot: the swap is counted and recorded. -/
def Part.pairSwap (p : Part) (k cause : Nat) : Part :=
  let r := p.slotPair 3
  let p := ((p.pairTakes k r).setSlotPair 3 15).countSat Reg.MMU_SWAPCNT 0 32
  p.noteSwap 2 k r cause

/-- A pair is retired for the life of the part. -/
def Part.pairRetire (p : Part) (q cause : Nat) : Part :=
  (p.setCpair q { p.cpair q with testing := false, retired := true }).noteRetire 2 q cause

/-- A pair that passed its test: a slot that waits for it goes on; else it becomes the reserve, and a slot whose own pair is
retired takes it. -/
def Part.pairReady (p : Part) (q : Nat) : Part :=
  match p.core.waits.find? (fun e => e.2 = q) with
  | some e => p.pairTakes e.1 q
  | none =>
    if p.slotPair 3 ≠ 15 then p
    else
      let p := p.setSlotPair 3 q
      match p.core.waits.find? (fun e => (p.cpair e.2).retired) with
      | some e => p.pairSwap e.1 1
      | none => p

/-- The pair of a slot mismatches: it stops and tests itself, and is retired where it mismatched within the last 3600 s;
the reserve resumes the slot, which stops where none is free. -/
def Part.lockstep (p : Part) (k : Nat) (t : Instant) : Part :=
  let q := p.slotPair k
  if 4 ≤ q || p.slotWaits k then p
  else
    let x := p.cpair q
    let again := x.last.any (fun a => t ≤ a + sec 3600)
    let p := ((p.at t).countSat Reg.MMU_LSCNT 0 32).logEvent .lockstep [k, q]
    let p := p.setCpair q { x with testing := !again, last := some t }
    let p := p.when again (·.pairRetire q 1)
    if p.slotPair 3 ≠ 15 then p.pairSwap k 1
    else { p with core := { p.core with waits := (k, q) :: p.core.waits } }

/-- LOCKSTEP_MISMATCH. -/
def execLockstepMismatch (slot : Fin 3) (t : Instant) (s : State) := s.run (·.lockstep slot.val t)

/-- A pair's self-test ends: a pass makes it ready, a fail retires it; a slot that waited for it then takes the reserve, if
one has become free. -/
def Part.pairTested (p : Part) (q : Nat) (pass : Bool) : Part :=
  if !(p.cpair q).testing then p
  else if pass then (p.setCpair q { p.cpair q with testing := false }).pairReady q
  else
    let p := p.pairRetire q 1
    match p.core.waits.find? (fun e => e.2 = q) with
    | some e => p.when (p.slotPair 3 ≠ 15) (·.pairSwap e.1 1)
    | none => p

/-- CORE_PAIR_BIST_COMPLETE. -/
def execCorePairBistComplete (pair : Fin 4) (pass : Bool) (s : State) := s.run (·.pairTested pair.val pass)

/-- A swap on request or evidence: the same state transfer at an instruction boundary, no test; the outgoing pair becomes
the reserve, or is retired (R249, R415). -/
def Part.pairExchange (p : Part) (k cause : Nat) (retire : Bool) : Part :=
  let q := p.slotPair k
  let p := p.pairSwap k cause
  if retire then p.pairRetire q cause else p.setSlotPair 3 q

end Sys2Proof.Machine
end

