-- ==== Sys2Proof/Machine/Spare.lean ====
section
/-! DEFINITION. The reserve manager: evidence and swaps on it, drift, lifetime and the monitor history (R413, R414, R418,
R419). -/

namespace Sys2Proof.Machine

/-! Swaps (R414, R415). -/

/-- The group of a unit, for the classes whose units have one: lanes, sigma-delta inputs and gate channels. -/
def Part.unitGrp (p : Part) (cls unit : Nat) : Option Grp :=
  match cls with
  | 1 => some (p.laneGrp unit)
  | 5 => some (p.sdGrp unit)
  | 6 => some (p.pairGrp (unit / 2))
  | _ => none

/-- Another swap of a class is in progress. -/
def Part.swapRuns (p : Part) (cls : Nat) : Bool :=
  match cls with
  | 1 => [Grp.A, Grp.B].any (fun g => (p.cg g).load.isSome)
  | 4 => !p.ring.swapDue.isEmpty
  | 5 => (List.range 4).any (fun r => (p.sdRsv r).req.isSome)
  | 6 => (List.range 8).any (fun r => (p.gateSwap r).phase = .compare || (p.gateSwap r).phase = .selected)
  | 7 => !p.sense.armUntil.isEmpty
  | _ => false

/-- A condition of R414 holds for a swap of a unit. -/
def Part.swapBlocked (p : Part) (cls unit : Nat) : Bool :=
  (match p.unitGrp cls unit with
    | some g => p.gmode g ≠ 1
    | none => false)
    || (List.range 8).any (fun n => p.laneState n = 5)
    || [Grp.A, Grp.B].any (fun g => (p.cg g).exch.isSome)
    || p.pair_.heldLane.isSome
    || p.swapRuns cls

/-- The PLL in service is exchanged for the other: the islands move, and it is retired or stays as the reserve. -/
def Part.pllSwap (p : Part) (cause : Nat) (retire : Bool) : Part :=
  let k := p.pllServes
  let p := p.pllMove (1 - k)
  let p := if retire then p.pllRetire k cause else p.setBit Reg.CLK_STAT 28 ((p.pll k).lockAt + usec 100 ≤ p.now)
  p.noteSwap 3 0 (1 - k) cause

/-- Whether the other PLL can take service. -/
def Part.pllReady (p : Part) : Bool := !p.bypass && p.pllLocked (1 - p.pllServes) && p.bit Reg.CLK_STAT 28

/-- The gate reserve whose map allows it for a channel, unused and not retired. -/
def Part.gateReserve (p : Part) (c : Nat) : Option Nat :=
  (List.range 8).find? (fun r => p.rsvAllowed 6 r && p.fld (Reg.GATE_RSVMAP r) 0 6 = c && p.idleRsv 6 r)

/-! Evidence (R413, Table 16.2). -/

/-- The drift of a process monitor has reached a threshold given in units of 0.01 %; on neutral trims none is evaluated
(R422). -/
def Part.driftAt (p : Part) (m thr : Nat) : Bool :=
  let d := p.reg (Reg.SPARE_PMDRIFT m)
  !p.health.calBad && fpFinite d && decide ((thr : Int) * 2 ^ 149 ≤ fpScaled d * 10000)

/-- How often a unit stands in a list of the last 24 h. -/
def Part.within24h (p : Part) (l : List (Nat × Instant)) (unit : Nat) : Nat :=
  (l.filter (fun e => e.1 = unit && p.now ≤ e.2 + sec 86400)).length

/-- The evidence that stands for a swap: class, unit in service and cause. -/
def Part.evidence (p : Part) : List (Nat × Nat × Nat) :=
  let swap := p.fld Reg.SPARE_DRIFT 16 16
  let serves := (List.range 8).filter (fun n => p.laneState n = 1)
  let lanes := (serves.filter (fun n => p.driftAt n swap)).map (fun n => (1, n, 2))
  let ecc := (serves.filter (fun n => p.fld Reg.SPARE_ECCTHR 0 8 ≤ p.within24h p.health.laneEcc n)).map (fun n => (1, n, 3))
  let pairs := ((List.range 3).filter (fun k => p.slotPair k < 4 && p.driftAt (8 + p.slotPair k) swap)).map (fun k => (2, k, 2))
  let pll := if !p.bypass && p.driftAt (12 + p.pllServes) swap then [(3, 0, 2)] else []
  let pads := ((List.range 48).filter (fun c => !p.bit (Reg.GATE_CHSTAT c) 30
    && p.fld Reg.SPARE_ECCTHR 8 8 ≤ p.within24h p.health.padAt c)).map (fun c => (6, c, 4))
  lanes ++ ecc ++ pairs ++ pll ++ pads

/-- The reserve that a swap on evidence would use, and the monitors of the unit and of the reserve. -/
def Part.evidenceReserve (p : Part) (cls unit : Nat) : Option (Nat × Option (Nat × Nat)) :=
  match cls with
  | 1 => (p.freeLane (p.laneGrp unit)).map (fun r => (r, some (unit, r)))
  | 2 => if p.slotPair 3 = 15 then none else some (p.slotPair 3, some (8 + p.slotPair unit, 8 + p.slotPair 3))
  | 3 => if p.pllReady then some (1 - p.pllServes, some (12 + p.pllServes, 13 - p.pllServes)) else none
  | _ => (p.gateReserve unit).map (fun r => (48 + r, none))

/-- A swap on one piece of evidence, where nothing of R414 stands against it. -/
def Part.evidenceSwap (p : Part) (e : Nat × Nat × Nat) : Part :=
  let (cls, unit, cause) := e
  let recent := p.health.swaps.any (fun x => x.1 = cls && p.now < x.2 + sec 60)
  if !p.bit Reg.SPARE_CFG cls || recent || p.swapBlocked cls unit then p
  else match p.evidenceReserve cls unit with
    | none => p
    | some (r, ms) =>
      let worse := match ms with
        | some (m, n) => fpLt (p.reg (Reg.SPARE_PMDRIFT m)) (p.reg (Reg.SPARE_PMDRIFT n))
        | none => false
      if worse || (p.opHolding (resRsv cls r)).isSome then p
      else
        let p := { p with health := { p.health with swaps := (cls, p.now) :: p.health.swaps.filter (fun x => x.1 ≠ cls) } }
        match cls with
        | 1 => p.startLoad (p.laneGrp unit) { lane := r, unit := unit, cause := cause, leaving := some true }
        | 2 => p.pairExchange unit cause true
        | 3 => p.pllSwap cause true
        | _ => p.gateSwapStart (r - 48) cause none p.now

/-- New evidence is logged, and each piece that stands may swap its unit. -/
def Part.checkEvidence (p : Part) : Part :=
  let l := p.evidence
  let new := l.filter (fun e => !p.health.evidence.contains e)
  let p := p.each new (fun p e => p.logEvent .evidence [e.1, e.2.1, e.2.2])
  let p := { p with health := { p.health with evidence := l } }
  p.each l (fun p e => p.when (p.evidence.contains e) (·.evidenceSwap e))

/-! Samples and their means (R413, R418, R419). -/

/-- One value into an accumulator. -/
def MonAcc.put (a : MonAcc) (x : Option Int) : MonAcc :=
  match x with
  | none => a
  | some v =>
    { lo := if a.n = 0 then v else min a.lo v, sum := a.sum + v, hi := if a.n = 0 then v else max a.hi v, n := a.n + 1 }

/-- The mean of an accumulator, if it has values. -/
def MonAcc.mean (a : MonAcc) : Option Int := if a.n = 0 then none else some (Config.round a.sum a.n)

/-- One value into each of a list of accumulators. -/
def putAll (l : List MonAcc) (xs : List (Option Int)) : List MonAcc := xs.zipIdx.map (fun e => (l.getD e.2 {}).put e.1)

/-- The present drift of a process monitor: (f0 − f) / f0; none on neutral trims or with no baseline. -/
def Part.driftOf (p : Part) (m : Nat) : Option Int :=
  let a := 0x23D00340 + 8 * m
  let temps := (List.range 10).map (fun i => p.reg (Reg.MON_TEMP i))
  let volts := (List.range 24).map (fun j => p.reg (Reg.MON_VOLT j))
  let f := fpScaled (Config.pmCorrect m (p.reg (Reg.MON_PMFREQ m)) temps volts (p.loadWord (a + 4)))
  let f0 := fpScaled (p.loadWord a)
  if p.health.calBad || !fpFinite (p.loadWord a) || f0 ≤ 0 then none
  else some (Config.round ((f0 - f) * pu) f0.toNat)

/-- The 50 monitors of a record: drifts, temperatures, voltages. -/
def Part.monitors (p : Part) : List (Option Int) :=
  (List.range 16).map p.driftOf ++ (List.range 10).map (fun i => some (ofFp (p.reg (Reg.MON_TEMP i))))
    ++ (List.range 24).map (fun j => some (ofFp (p.reg (Reg.MON_VOLT j))))

/-- Units of the first daily and of the first monthly record (R419). -/
def dayRecord (i : Nat) : Nat := 0x23B80000 + 640 * (i % 400)

/-- Address of a monthly record. -/
def monthRecord (i : Nat) : Nat := 0x23B80000 + 640 * 400 + 640 * (i % 300)

/-- The length of a month of the history, in seconds: a twelfth of 365.25 days. -/
def monthSeconds : Nat := 2629800

/-- The bytes of a record; a monitor without a value has a free one. -/
def Part.recordBytes (p : Part) (start samples : Nat) (l : List MonAcc) : List Byte :=
  let put : MonAcc → Int → List Byte := fun a v => bytesOf 4 (if a.n = 0 then p.freshWord else toFp v).toNat
  bytesOf 4 start ++ bytesOf 4 samples
    ++ (List.range 50).flatMap (fun i =>
      let a := l.getD i {}
      put a a.lo ++ put a (a.mean.getD 0) ++ put a a.hi)
    ++ List.replicate 32 0

/-- An hour ends: its mean drifts are shown and judged against DRIFT_WARN. -/
def Part.closeHour (p : Part) : Part :=
  let l := p.health.hourAcc
  let p := { p with health := { p.health with hourAcc := [] } }
  p.each (List.range 16) (fun p m =>
    match (l.getD m {}).mean with
    | none => p
    | some d =>
      let p := p.setReg (Reg.SPARE_PMDRIFT m) (toFp d)
      p.when (p.driftAt m (p.fld Reg.SPARE_DRIFT 0 16)) (fun p => (p.raise Reg.SPARE_EVT 3).logEvent .driftWarn [m]))

/-- The lifetime estimate of a monitor, in tenths of a year: the time until the line through its daily means reaches
DRIFT_SWAP; none with fewer than 90 days or a line that does not rise. -/
def lifetime (days : List (Option Int)) (swap : Nat) : Option Nat :=
  let pts : List (Int × Int) := days.zipIdx.filterMap (fun e => e.1.map (fun y => (-(e.2 : Int), y)))
  let n : Int := pts.length
  let sx := (pts.map (·.1)).sum
  let sy := (pts.map (·.2)).sum
  let sxx := (pts.map (fun e => e.1 * e.1)).sum
  let sxy := (pts.map (fun e => e.1 * e.2)).sum
  let d := n * sxx - sx * sx
  let b := n * sxy - sx * sy
  if pts.length < 90 || d ≤ 0 || b ≤ 0 then none
  else
    -- days until the line, which passes (sy·d − b·sx) / (n·d) today, has risen by b / d a day to DRIFT_SWAP
    let num := ((swap : Int) * pu * n * d - 10000 * (sy * d - b * sx)) * 1000
    let den := 10000 * n * b * 36525
    some (min (max num 0 / den).toNat 0xFFFE)

/-- The estimate of a class: the (s + 1)-th smallest among its units that are not retired, s its free spares. -/
def Part.classLife (p : Part) (cls : Nat) : Nat :=
  let units := if cls = 1 then (List.range 8).filter (fun n => p.laneState n ≠ 6)
    else if cls = 2 then ((List.range 4).filter (fun q => !(p.cpair q).retired)).map (fun q => 8 + q)
    else ((List.range 2).filter (fun k => !p.pllRetired k)).map (fun k => 12 + k)
  let l := (units.map (fun m => p.fld (Reg.SPARE_PMLIFE m) 0 16)).mergeSort (fun a b => decide (a ≤ b))
  l.getD (p.inventory cls).free 0xFFFF

/-- The lifetime estimates after a day. -/
def Part.estimateLife (p : Part) : Part :=
  let swap := p.fld Reg.SPARE_DRIFT 16 16
  let p := p.each (List.range 16) (fun p m =>
    let l := (p.health.days.take 365).map (fun d => d.getD m none)
    p.setReg (Reg.SPARE_PMLIFE m) (BitVec.ofNat 32 ((lifetime l swap).getD 0xFFFF)))
  let life := min (p.classLife 1) (min (p.classLife 2) (p.classLife 3))
  (p.setFld Reg.SPARE_HEALTH 0 16 life).raiseIf (life < 50) Reg.SPARE_EVT 2

/-- A day ends: its record is written, the daily means kept, and the lifetimes estimated. -/
def Part.closeDay (p : Part) : Part :=
  let h := p.health
  let p := (p.emStore (dayRecord h.dayRecs) (p.recordBytes h.dayAt h.daySamples h.dayAcc)).taken
  let means := (List.range 16).map (fun m => (h.dayAcc.getD m {}).mean)
  let p := { p with health := { p.health with
    days := (means :: h.days).take 365, dayRecs := h.dayRecs + 1, dayAcc := [], daySamples := 0 } }
  p.estimateLife

/-- A month ends: its record is written. -/
def Part.closeMonth (p : Part) : Part :=
  let h := p.health
  let p := (p.emStore (monthRecord h.monthRecs) (p.recordBytes h.monthAt h.monthSamples h.monthAcc)).taken
  { p with health := { p.health with monthRecs := h.monthRecs + 1, monthAcc := [], monthSamples := 0 } }

/-- The manager's check of one second: an hour, a day or a month that ended is judged and recorded, the monitors are
sampled, and the evidence is acted on. -/
def Part.driftEval (p : Part) (t : Instant) : Part :=
  let p := p.at t
  let s := instSec p.ringNow
  let ended : Nat → Bool := fun n => p.health.sampled.any (fun o => o / n ≠ s / n)
  if p.health.sampled = some s then p
  else
    let p := p.when (ended 3600) (·.closeHour)
    let p := p.when (ended 86400) (·.closeDay)
    let p := p.when (ended monthSeconds) (·.closeMonth)
    let xs := p.monitors
    let h := p.health
    let p := { p with health := { h with
      sampled := some s
      hourAcc := putAll h.hourAcc (xs.take 16), dayAcc := putAll h.dayAcc xs, monthAcc := putAll h.monthAcc xs
      dayAt := if h.daySamples = 0 then s else h.dayAt, daySamples := h.daySamples + 1
      monthAt := if h.monthSamples = 0 then s else h.monthAt, monthSamples := h.monthSamples + 1 } }
    p.checkEvidence

/-- DRIFT_EVALUATION. -/
def execDriftEvaluation (t : Instant) (s : State) := s.run (·.driftEval t)

/-- Commit check of SPARE: DRIFT_WARN below DRIFT_SWAP, and thresholds from 1 (R430). -/
def spareCheck (val : Nat → Word) : Option (Nat × Nat) :=
  let d := val Reg.SPARE_DRIFT
  let e := val Reg.SPARE_ECCTHR
  if bits d 16 16 ≤ bits d 0 16 then some (0x10, Reg.SPARE_DRIFT)
  else if bits e 0 8 = 0 || bits e 8 8 = 0 then some (1, Reg.SPARE_ECCTHR)
  else none

end Sys2Proof.Machine
end

