-- ==== Sys2Proof/Machine/Boot.lean ====
section
/-! DEFINITION. Resets and the boot: what a reset keeps, the measured boot, the calibration page and the warm start (R292,
R420, R422, R425, R427, R432, R445, R446, R450). -/

namespace Sys2Proof.Machine

/-! The calibration page (R420, Table 16.6). -/

/-- Base of the calibration page, and of the staging page. -/
def calBase : Nat := 0x23D00000

/-- The staging page. -/
def calStage : Nat := 0x21F00000

/-- Whether a page's CRC is right: over +0x0040 to +0xFFFF, at +0x3C. -/
def calCrcOk (page : List Byte) : Bool :=
  numOf ((page.drop 0x3C).take 4) = crc32c ((page.drop 0x40).take 0xFFC0)

/-- A trim word of the page in force, or its neutral value where the page is bad. -/
def Part.calWord (p : Part) (off : Nat) (neutral : Word) : Word :=
  if p.health.calBad then neutral else p.loadWord (calBase + off)

/-- The trims of the page are loaded; those of the sigma-delta channels and of the position ADCs take effect at their
block's next tick (R182). -/
def Part.loadTrims (p : Part) : Part :=
  let p := p.each (List.range 28) (fun p n =>
    p.setSd n { p.sdCh n with trim := some (p.calWord (0x40 + 8 * n) 0x3F800000, p.calWord (0x44 + 8 * n) 0) })
  let p := p.each (List.range 16) (fun p i => p.setReg (Reg.AUXADC_TRIM i) (p.calWord (0x120 + 4 * i) 0))
  p.each (List.range 4) (fun p k =>
    let w : Nat → Word → Word := fun j => p.calWord (0x1D0 + 16 * k + 4 * j)
    let x := vget {} p.pos k
    { p with pos := vset p.pos k { x with
      pendTrims := some [w 0 0x3F800000, w 1 0, w 2 0x3F800000, w 3 0] } })

/-- At reset a staging page marked complete is copied and cleared; a page whose CRC fails sets CALBAD, and the part runs on
neutral trims (R422). -/
def Part.checkCal (p : Part) : Part :=
  let p := if p.health.calStaged then
      let p := p.emStore calBase (p.loadBytes calStage 0x10000)
      let p := p.emStore calStage (List.replicate 0x10000 0)
      { p with health := { p.health with calStaged := false } }
    else p
  let ok := calCrcOk (p.loadBytes calBase 0x10000)
  let p := { p with health := { p.health with calBad := !ok } }
  (p.raiseIf (!ok) Reg.SPARE_EVT 4).loadTrims

/-! What a reset keeps. -/

/-- Registers that keep their contents: the vault (R452), wear and row replacements, and what the power-fail sequence
recorded. -/
def keptRegs : List Nat :=
  [Reg.PWR_VAULT, Reg.PWR_VCFG, Reg.PWR_RTC_SLO, Reg.PWR_RTC_SHI, Reg.PWR_RTC_NS, Reg.NVM_WEARMAX, Reg.NVM_WEARADDR,
   Reg.MMU_SROWS, Reg.MMU_MROWS, Reg.CYC_PFSTAT]

/-- The pairs that serve the slots after a reset: those not retired, in order, and the next one as the reserve. -/
def Part.slotMapAt (p : Part) : Word :=
  let good := (List.range 4).filter (fun q => !(p.cpair q).retired)
  BitVec.ofNat 32 ((List.range 4).map (fun k => good.getD k 15 * 16 ^ k)).sum

/-- Lines of the retention buffer that were not written back are lost: the spec does not say what their bytes then hold, so
each 64-bit word of them is a free value. -/
def Part.loseDirty (p : Part) : Part :=
  p.each p.cyc.dirty (fun p l => p.each (List.range 8) (fun p i => (p.storeBytes (64 * l + 8 * i) (bytesOf 8 p.fresh.toNat)).taken))

/-- The part at a reset: every register and block at its reset value, but for eMRAM, the vault, the fuses, what the part
has retired, and what the runtime and the recorder keep in eMRAM. -/
def Part.cold (p : Part) : Part :=
  let on := p.cycRuns || (p.cycState = 5 && (p.cyc.pfPrev = 1 || p.cyc.pfPrev = 2 || p.cyc.pfPrev = 3))
  let h := p.health
  let health : HealthState := {
    retired := h.retired, days := h.days, dayRecs := h.dayRecs, monthRecs := h.monthRecs, calStaged := h.calStaged }
  let clk : ClkState := { onVbat := p.clk.onVbat, ranVbat := p.clk.ranVbat, rtc := p.clk.rtc, banks := p.clk.banks }
  let cyc : CycState := {
    tasks := p.cyc.tasks, forces := p.cyc.forces, timers := p.cyc.timers, edges := p.cyc.edges, remote := p.cyc.remote,
    snaps := p.cyc.snaps,
    retained := p.cyc.retained, cut := p.cyc.cut, wasOn := on }
  let kept : CapRecord → CapRecord := fun r => { r with buf := none, holds := [], deleting := false }
  let cap : CapState := { records := (p.cap.records.filter (fun r => r.emram.isSome)).map kept }
  let mem : MemState := {
    bytes := p.mem.bytes.filter (fun c => inEmram c.1), poison := p.mem.poison.filter inEmram,
    wear := p.mem.wear }
  let core : CoreState := { pairs := Vector.ofFn (fun q : Fin 4 => { retired := (p.cpair q.val).retired }), cyc0 := p.now }
  let trust : TrustState := { ownerFuse := p.trust.ownerFuse, v0Revoked := p.trust.v0Revoked }
  let q : Part := {
    now := p.now, freeCount := p.freeCount, mem := mem, core := core, cyc := cyc, cap := cap, health := health,
    clk := clk, trust := trust, rsvLog := p.rsvLog, time := { off := p.time.off } }
  let q := q.each keptRegs (fun q o => q.setReg o (p.reg o))
  let q := q.setFld Reg.CYC_STAT 25 2 (p.fld Reg.CYC_STAT 25 2)
  let q := q.setFld Reg.CLK_STAT 26 2 (p.fld Reg.CLK_STAT 26 2)
  let q := q.each (List.range 8) (fun q n => q.when (p.laneState n = 6) (·.setReg (Reg.CLE_LSTAT n) (p.reg (Reg.CLE_LSTAT n))))
  -- MISCNT counts over the life of the lane (Table 4.18)
  let q := q.each (List.range 8) (fun q n => q.setFld (Reg.CLE_LSTAT n) 16 8 (p.fld (Reg.CLE_LSTAT n) 16 8))
  q.setReg Reg.MMU_SLOTMAP p.slotMapAt

/-- A reset with its cause, and the rail for cause 0x02. -/
def Part.restart (p : Part) (cause rail : Nat) (t : Instant) : Part :=
  ((p.at t).loseDirty.cold).setReg Reg.PWR_RSTCAUSE (BitVec.ofNat 32 (cause * 2 ^ 24 + rail % 32))

/-- A reset in which the part is then held. -/
def Part.holdReset (p : Part) (cause rail : Nat) (t : Instant) : Part :=
  let p := p.restart cause rail t
  { p with clk := { p.clk with held := some cause } }

/-! The boot (R425, R427). -/

/-- Base and size of the vendor firmware area. -/
def fwArea : Nat × Nat := (0x21400000, 4 * 2 ^ 20)

/-- The copy of the safety table that both channels run on: the first whose CRC and owner signature verify (R405). -/
def Part.safetyCopy (p : Part) : Option (List Byte) :=
  [0x23C80000, 0x23C90000].findSome? (fun a =>
    let bs := p.loadBytes a 0x3000
    if tableCrcOk bs && p.ownerSigned (sha3 (bs.take 0x1000)) ((bs.drop 0x1000).take sigBytes) then some bs else none)

/-- Whether a cyclic image slot holds an image that is signed, built for this stepping, and whose tables are valid. -/
def Part.cycSlotOk (p : Part) (slot : Nat) : Bool :=
  let (d, sig) := p.areaSigned (cycSlotBase slot) 0x800000
  let img := p.cycImageAt slot
  p.signedOk d sig && img.step = 0xB1 && (imageFault img).isNone

/-- The keys at a boot: a key area that no longer matches the fuses is treated as absent (R426). -/
def Part.bootKeys (p : Part) : Part :=
  let ok := p.trust.ownerFuse.any (fun d => d = sha3 p.ownerKey)
  let p := { p with trust := { p.trust with ownerOk := ok } }
  let p := (p.setBit Reg.SEC_STAT 30 ok).setBit Reg.SEC_STAT 29 p.trust.v0Revoked
  (p.setReg Reg.SEC_DBGNONCE_LO (p.fresh.setWidth 32)).setReg Reg.SEC_DBGNONCE_HI ((p.fresh >>> 32).setWidth 32) |>.taken

/-- The safety channels read their table; with none that verifies NOCFG is set. -/
def Part.bootSafety (p : Part) (t : Instant) : Part :=
  match p.safetyCopy with
  | some bs => p.takeTable bs t
  | none => p.setBit Reg.SAFE_STAT 29 true

/-- The measurements of a boot, in the order of R427; a safety table only where one is in force. -/
def Part.bootMeasure (p : Part) (fw : List Byte) : Part :=
  let p := (p.measure 1 (sha3 ((List.range (2 ^ 18)).map Config.bootRom))).measure 2 fw
  let p := match p.safetyCopy with
    | some bs => p.measure 3 (sha3 (bs.take 0x1000))
    | none => p
  let p := p.measure 4 (p.areaSigned (cycSlotBase p.cycSlot) 0x800000).1
  (p.measure 5 (p.figDigest 0)).measure 6 (p.figDigest 1)

/-- The runtime at power return: with its image retained and running before, it makes a warm start (R292). -/
def Part.warmStart (p : Part) : Part :=
  let slot := p.cycSlot
  let p := p.onCyc (fun c => { c with verified := if p.cycSlotOk slot then [slot] else [] })
  p.when (p.cyc.wasOn && p.cyc.retained = some (p.cycImageAt slot).id) (fun p => p.cycStart 2 p.ringNow)

/-- The release of reset: the calibration page, the keys and the safety table are read; the firmware is hashed and verified
and starts, and its reserve manager estimates the lifetimes from the monitor history (R418), or the part remains in the
boot ROM (R425). -/
def Part.boot (p : Part) (t : Instant) : Part :=
  let p := p.at t
  let p := { p with clk := { p.clk with held := none, onVbat := false, ranVbat := false } }.setBit Reg.PWR_VAULT 0 p.clk.ranVbat
  let p := p.setBit Reg.NVM_STAT 28 (p.clk.banks.getLsbD 2)
  let p := { p with time := { p.time with off := if p.bit Reg.PWR_VAULT 30 then
    let (s, ns) := p.rtcNow
    (instOf s ns : Int) - (p.now : Int) else p.time.off } }
  let p := (p.checkCal.bootKeys).bootSafety t
  let (d, sig) := p.areaSigned fwArea.1 fwArea.2
  match p.vendorSigned d sig with
  | some k => (((p.setBit Reg.SEC_STAT 31 true).setBit Reg.SEC_STAT 27 (k = 1)).bootMeasure d).estimateLife.warmStart
  | none => { p.raise Reg.SEC_EVT 1 with clk := { p.clk with romOnly := true } }

/-! The reset rows. -/

/-- POWER_ON_RESET: every supply has been in range for 2 ms; the banks of VDDIO at 3.3 V are noted (R446, R459). After a
supply reset its cause stands; otherwise the cause is power-on. -/
def execPowerOnReset (banks : BitVec 3) (t : Instant) (s : State) :=
  s.runAlways (fun p =>
    let p := if p.clk.held = some 2 then p else p.restart 1 0 t
    { p with clk := { p.clk with banks := banks } }.boot t)

/-- REFCLK_ERROR: REFCLK is missing or off by more than 0.5 % (R432). -/
def execRefclkError (t : Instant) (s : State) :=
  s.runAlways (fun p => if p.clk.held.isSome then p else p.holdReset 3 0 t)

/-- REFCLK_RETURN: the part leaves the reset that REFERR held. -/
def execRefclkReturn (t : Instant) (s : State) := s.runAlways (fun p => if p.clk.held = some 3 then p.boot t else p)

/-- SUPPLY_RESET: a main supply left its envelope; without VDD_ANA the vault runs from VBAT. VBAT itself causes no reset
(Table 17.5). -/
def execSupplyReset (rail : Fin 24) (t : Instant) (s : State) :=
  s.runAlways (fun p =>
    if rail.val = 23 then p
    else
      let p := p.at t
      let p := p.when ((rail.val = 18 || rail.val = 19) && !p.clk.onVbat) (·.toVbat)
      p.holdReset 2 rail.val t)

/-- TEMP_CRITICAL: 140 °C or more on a sensor for 1 ms (R450). -/
def execTempCritical (t : Instant) (s : State) :=
  s.runAlways (fun p =>
    if p.clk.held.isNone && p.clk.hot.any (fun a => a + msec 1 ≤ t) then p.holdReset 4 0 t else p)

/-- MONITOR_SAMPLE: the monitors are read on their periods (R449); in the reset that TCRIT holds the temperatures are, and
the reset ends once every sensor reads below 125 °C (R450). -/
def execMonitorSample (kind : MonKind) (xs : List Word) (t : Instant) (s : State) :=
  s.runAlways (fun p =>
    match p.clk.held with
    | none => p.monitor kind xs t
    | some c =>
      if c = 4 && kind = .temp then
        let p := p.monitor .temp xs t
        p.when ((List.range 10).all (fun i => fpLt (p.reg (Reg.MON_TEMP i)) 0x42FA0000)) (·.boot t)
      else p)

/-- A write of SYS_SWRST: the key twice within 1 ms resets the part (R42). -/
def Part.swrst (p : Part) (v : Word) (t : Instant) : Part :=
  if v ≠ 0x53575253 then p
  else if p.bus.swrst.any (fun a => t ≤ a + msec 1) then (p.restart 5 0 t).boot t
  else { p.at t with bus := { p.bus with swrst := some t } }

/-- SYS_SWRST. -/
def execSysSwrst (v : Word) (t : Instant) (s : State) := s.runRom (·.swrst v t)

end Sys2Proof.Machine
end

