-- ==== Sys2Proof/Machine/Time.lean ====
section
/-! DEFINITION. The servo, steps of ring time and reads of local tempo (chapter 13, R370 to R372, R375). -/

namespace Sys2Proof.Machine

/-- The servo's state in TIME_STAT: 0 off, 1 ACQUIRING, 2 LOCKED, 3 HOLDOVER, 4 MONITOR. -/
def Part.servo (p : Part) : Nat := p.fld Reg.TIME_STAT 29 3

/-- Set the servo's state; the loss of LOCKED is an event. -/
def Part.setServo (p : Part) (n : Nat) : Part :=
  (p.raiseIf (p.servo = 2 && n ≠ 2) Reg.TIME_EVT 2).setFld Reg.TIME_STAT 29 3 n

/-- SERVO_UPDATE: a write of θ is one update of the PI servo (R370); what it computes with is the rounding of the time
unit, of which the spec gives formulas and no format. -/
def Part.servoUpdate (p : Part) (v : Word) (t : Instant) : Part :=
  let p := (p.at t).setReg Reg.TIME_SRVOFS v
  if !p.bit Reg.TIME_CFG 31 then p
  else if !fpFinite v then p.raise Reg.TIME_EVT 3
  else
    let p := (p.countWrap Reg.TIME_SRVCNT 0 32).when true
      (fun p => { p with time := { p.time with last := some p.now } })
    if !p.bit Reg.RING_STAT 30 then p.setServo 4
    else
      let lim := (p.reg Reg.TIME_FMAX).toNat * pu
      let th := ofFp v
      let i := clampInt (-lim) lim (p.time.int + qMul (ofFp (p.reg Reg.TIME_KI)) th)
      let y := clampInt (-lim) lim (qMul (ofFp (p.reg Reg.TIME_KP)) th + i)
      let small := (fpScaled v).natAbs < (p.reg Reg.TIME_LOCKTHR).toNat * 2 ^ 149
      let below := if small then min 16 (p.time.below + 1) else 0
      let p := { p with time := { p.time with int := i, below := below } }
      (p.setServo (if below = 16 then 2 else 1)).setReg Reg.TIME_FADJ (wordOfInt (y * 256 / pu))

/-- SERVO_UPDATE. -/
def execServoUpdate (v : Word) (t : Instant) (s : State) := s.run (·.servoUpdate v t)

/-- SERVO_HOLDOVER: no update for SRVTO; y stands, and I is cleared where the servo was ACQUIRING. -/
def execServoHoldover (t : Instant) (s : State) :=
  s.run (fun p => match p.time.last with
    | some a =>
      if (p.servo = 1 || p.servo = 2) && a + sec (p.fld Reg.TIME_CFG 8 8) ≤ t then
        let acq := p.servo = 1
        let p := ((p.at t).setServo 3).raise Reg.TIME_EVT 1
        { p with time := { p.time with int := if acq then 0 else p.time.int, below := 0 } }
      else p
    | none => p)

/-- TIME_STEP: ring time moves by TIME_STEP_S and TIME_STEP_NS, on node 1 with STEPOK set (R371); local tempo follows
under R372. -/
def Part.timeStep (p : Part) (t : Instant) : Part :=
  let p := p.at t
  if !p.bit Reg.RING_STAT 30 || !p.bit Reg.TIME_CFG 30 then p.raise Reg.TIME_EVT 4
  else
    let d := (p.reg Reg.TIME_STEP_S).toInt * sec 1 + (p.reg Reg.TIME_STEP_NS).toInt * nsec 1
    (p.raise Reg.TIME_EVT 0).tempoFollow (p.time.off + d)

/-- TIME_STEP. -/
def execTimeStep (t : Instant) (s : State) := s.run (·.timeStep t)

/-- TIME_NOW_READ: the nanoseconds of local tempo are returned and the other three words are latched (R375). -/
def Part.timeNow (p : Part) (t : Instant) : Part :=
  let p := p.at t
  let w : Nat → Word := fun n => BitVec.ofNat 32 n
  let p := (p.setReg Reg.TIME_NOW_NS (w (instNs p.now))).setReg Reg.TIME_NOW_SLO (w (instSec p.now))
  let p := (p.setReg Reg.TIME_NOW_SHI (w (instSec p.now / 2 ^ 32))).setReg Reg.TIME_NOW_FR (w (instFr p.now))
  p.answer (p.reg Reg.TIME_NOW_NS) true

/-- TIME_NOW_READ. -/
def execTimeNowRead (t : Instant) (s : State) := s.run (·.timeNow t)

/-- Commit check of TIME: fields out of range; a gain that is no number is out of range. -/
def timeCheck (val : Nat → Word) : Option (Nat × Nat) :=
  let within := fun (r lo hi : Nat) => lo ≤ (val r).toNat && (val r).toNat ≤ hi
  let cfg := val Reg.TIME_CFG
  if bits cfg 8 8 = 0 || bits cfg 0 8 = 0 || 100 < bits cfg 0 8 then some (1, Reg.TIME_CFG)
  else if !fpFinite (val Reg.TIME_KP) then some (1, Reg.TIME_KP)
  else if !fpFinite (val Reg.TIME_KI) then some (1, Reg.TIME_KI)
  else if !within Reg.TIME_FMAX 1000 200000 then some (1, Reg.TIME_FMAX)
  else if !within Reg.TIME_LOCKTHR 1 100000 then some (1, Reg.TIME_LOCKTHR)
  else if !within Reg.TIME_TSNAP 1 1000000 then some (1, Reg.TIME_TSNAP)
  else none

/-- A committed TIME set takes effect: with SRVEN clear the servo is off. -/
def Part.timeMoved (p : Part) : Part := if p.bit Reg.TIME_CFG 31 then p else p.setServo 0

end Sys2Proof.Machine
end

