-- ==== Sys2Proof/Machine/Eth.lean ====
section
/-! DEFINITION. The Ethernet ports, the switch, redundancy, transmit and receive entries, and timed launches
(chapter 13). A frame is its bytes from the destination address up to its FCS, which is left out. -/

namespace Sys2Proof.Machine

/-- Change what the switch keeps. -/
def Part.onEth (p : Part) (f : EthState → EthState) : Part := { p with eth := f p.eth }

/-- A number of `n` bytes in network order from offset `o` of a frame. -/
def netNum (f : List Byte) (o n : Nat) : Nat := numOf ((f.drop o).take n).reverse

/-- The bytes of a number in network order. -/
def netBytes (n x : Nat) : List Byte := (bytesOf n x).reverse

/-- Bytes of a frame replaced from an offset on. -/
def putBytes (f : List Byte) (o : Nat) (bs : List Byte) : List Byte := f.take o ++ bs ++ f.drop (o + bs.length)

/-- This part's MAC address. -/
def Part.mac (p : Part) : Nat := (p.reg Reg.ETH_MAC_LO).toNat + p.fld Reg.ETH_MAC_HI 0 16 * 2 ^ 32

/-- Destination and source addresses of a frame. -/
def frameDst (f : List Byte) : Nat := netNum f 0 6

/-- Source address. -/
def frameSrc (f : List Byte) : Nat := netNum f 6 6

/-- Whether an address is a group address. -/
def isGroup (a : Nat) : Bool := a.testBit 40

/-- Offset of a frame's Ethertype past HSR and VLAN tags. -/
def typeAt (f : List Byte) : Nat :=
  let o := if netNum f 12 2 = 0x892F then 18 else 12
  if netNum f o 2 = 0x8100 then o + 4 else o

/-- Offset of the PTP message of an event frame, over Ethertype 0x88F7 or UDP port 319. -/
def ptpAt (f : List Byte) : Option Nat :=
  let o := typeAt f
  if netNum f o 2 = 0x88F7 then some (o + 2)
  else if netNum f o 2 = 0x0800 && netNum f (o + 11) 1 = 17 then
    let u := o + 2 + 4 * (netNum f (o + 2) 1 % 16)
    if netNum f (u + 2) 2 = 319 then some (u + 8) else none
  else none

/-- The kind of a PTP event message: 0 Sync, 1 Delay_Req, 2 Pdelay_Req, 3 Pdelay_Resp. -/
def ptpKind (f : List Byte) : Option Nat :=
  match ptpAt f with
  | some o => if netNum f o 1 % 16 ≤ 3 && o < f.length then some (netNum f o 1 % 16) else none
  | none => none

/-- Whether a frame is a Pdelay message, one of the general Pdelay_Resp_Follow_Up among them (UDP port 320). -/
def isPdelay (f : List Byte) : Bool :=
  let o := typeAt f
  let u := o + 2 + 4 * (netNum f (o + 2) 1 % 16)
  let kind := if netNum f o 2 = 0x88F7 then netNum f (o + 2) 1 % 16
    else if netNum f o 2 = 0x0800 && netNum f (o + 11) 1 = 17 && netNum f (u + 2) 2 = 320 then netNum f (u + 8) 1 % 16 else 0
  (ptpKind f).any (fun k => 2 ≤ k) || kind = 10

/-- REDMODE: 0 INDEP, 1 PRP, 2 HSR (Table 13.1). -/
def Part.redMode (p : Part) : Nat := p.fld Reg.ETH_SWCFG 30 2

/-- Whether a port sends and receives. -/
def Part.ethUp (p : Part) (q : Nat) : Bool := p.bit (Reg.ETH_PCFG q) 31 && p.bit (Reg.ETH_PSTAT q) 31

/-- A length of picoseconds. -/
def psec (n : Nat) : Nat := n * 65536 / 1000

/-- A received frame is discarded and counted: length, pause, or a full queue. -/
def Part.rxDrop (p : Part) (q : Nat) : Part := (p.countSat (Reg.ETH_RXDROP q) 0 32).raise (Reg.ETH_PEVT q) 0

/-- ETH_LINK_CHANGE. -/
def Part.ethLink (p : Part) (q : Nat) (up fault : Bool) : Part :=
  let r := Reg.ETH_PSTAT q
  let was := p.bit r 31
  let p := ((p.setBit r 31 up).setBit r 30 (p.bit (Reg.ETH_PCFG q) 30)).setBit r 28 fault
  (p.setBit r 29 (up && p.bit (Reg.ETH_PCFG q) 29)).raiseIf (was ≠ up) (Reg.ETH_PEVT q) 3

/-- ETH_LINK_CHANGE. -/
def execEthLinkChange (port : Fin 2) (up fault : Bool) (s : State) := s.run (·.ethLink port.val up fault)

/-! Tables. -/

/-- A source address is learned (R362): a full table gives up its oldest entry. -/
def Part.learn (p : Part) (q : Nat) (f : List Byte) : Part :=
  let a := frameSrc f
  if isGroup a then p
  else p.onEth (fun x => { x with macs := ({ mac := a, port := q, seen := p.now } :: x.macs.filter (fun e => e.mac ≠ a)).take 1024 })

/-- MAC_AGEING: an address not refreshed for 300 s is forgotten. -/
def execMacAgeing (mac : BitVec 48) (t : Instant) (s : State) :=
  s.run (fun p => (p.at t).onEth (fun x =>
    { x with macs := x.macs.filter (fun e => !(e.mac = mac.toNat && e.seen + sec 300 ≤ t)) }))

/-- DUPWIN. -/
def Part.dupWin (p : Part) : Nat := msec (p.reg Reg.ETH_DUPWIN).toNat

/-- The entry of a duplicate less than DUPWIN old. -/
def Part.dupFind (p : Part) (src seq : Nat) : Option DupEntry :=
  p.eth.dups.find? (fun e => e.src = src && e.seq = seq && p.now < e.at_ + p.dupWin)

/-- A frame enters the duplicate table; a full table gives up its oldest entry. -/
def Part.dupPut (p : Part) (src seq q : Nat) : Part :=
  p.onEth (fun x => { x with dups := ({ src := src, seq := seq, at_ := p.now, port := q } ::
    x.dups.filter (fun e => !(e.src = src && e.seq = seq))).take 1024 })

/-! Receiving (R363 to R366, R369). -/

/-- A frame is delivered to a receive queue: its bytes to the entry's buffer, and the entry. -/
def Part.deliver (p : Part) (q : Nat) (f : List Byte) (status : Nat) (ts : Instant) : Part :=
  let rx := if p.redMode = 0 then q else if status = 1 && q = 1 then 1 else 0
  let n := 25 + 2 * rx
  if !p.bit (Reg.QUE_CFG n) 31 || p.queueSize n ≤ p.queueFill n then (p.rxDrop q).produce n []
  else
    let i := p.fld (Reg.QUE_PIDX n) 0 16 % p.queueSize n
    let p := p.storeBytes (p.pair (Reg.ETH_RXBUF_LO rx) % 2 ^ 40 / 2048 * 2048 + i * 0x800) f
    let w0 := status * 65536 + q * 2 ^ 14 + f.length % 2048
    p.produce n (([w0, instFr ts, instNs ts, instSec ts, 0, 0, 0, 0]).flatMap (bytesOf 4))

/-- A value added to a message's correctionField, in units of 2^-16 ns (R369). -/
def addCorrection (f : List Byte) (o : Nat) (d : Int) : List Byte :=
  let c := (BitVec.ofNat 64 (netNum f (o + 8) 8)).toInt
  if c = 2 ^ 63 - 1 then f else putBytes f (o + 8) (netBytes 8 (BitVec.ofInt 64 (min (2 ^ 63 - 1) (c + d))).toNat)

/-- Whether a frame is forwarded into port `o`: with TC and P2P set there, Pdelay messages are left to firmware (R369). -/
def Part.forwards (p : Part) (o : Nat) (f : List Byte) : Bool :=
  p.ethUp o && !(p.bit (Reg.ETH_PCFG o) 27 && p.bit (Reg.ETH_PCFG o) 26 && isPdelay f)

/-- A frame is forwarded into the other port at `egress`, with residence correction where TC is set there. -/
def Part.forward (p : Part) (q : Nat) (f : List Byte) (ts egress : Instant) : Part :=
  let o := 1 - q
  if !p.forwards o f then p
  else
    let cfg := Reg.ETH_PCFG o
    let out := egress + psec (p.reg (Reg.ETH_PDLYTX o)).toNat
    let f' := match ptpAt f, ptpKind f with
      | some a, some k =>
        if !p.bit cfg 27 then f
        else
          let link : Int := if p.bit cfg 26 && k = 0 then fpToUnits (p.reg (Reg.ETH_LNKDLY q)) (nsec 1) else 0
          addCorrection f a ((out : Int) - ts + link)
      | _, _ => f
    (p.countSat (Reg.ETH_TXOK o) 0 32).send (.eth o egress f')

/-- INDEP: the switch of R362. -/
def Part.rxIndep (p : Part) (q : Nat) (f : List Byte) (ts egress : Instant) : Part :=
  let d := frameDst f
  let p := p.learn q f
  let status := if (ptpKind f).isSome then 1 else 0
  if d = p.mac then p.deliver q f status ts
  else match (if isGroup d then none else p.eth.macs.find? (fun e => e.mac = d && p.now < e.seen + sec 300)) with
    | some e => if e.port = q then p else p.forward q f ts egress
    | none => (p.forward q f ts egress).deliver q f status ts

/-- PRP (R364): duplicates are discarded by the trailer, which is taken off; a wrong LAN identifier is counted. -/
def Part.rxPrp (p : Part) (q : Nat) (f : List Byte) (ts : Instant) : Part :=
  let n := f.length
  let lsdu := netNum f (n - 4) 2 % 4096
  let valid := netNum f (n - 2) 2 = 0x88FB && 20 < n && (lsdu = n - 14 || lsdu = n - typeAt f - 2)
  let ptp := (ptpKind f).isSome
  if !valid then p.deliver q f ptp.toNat ts
  else
    let seq := netNum f (n - 6) 2
    let wrong := netNum f (n - 4) 2 / 4096 ≠ 10 + q
    let p := if wrong then (p.countSat (Reg.ETH_WRONGLAN q) 0 32).raise (Reg.ETH_PEVT q) 2 else p
    let body := f.take (n - 6)
    if ptp then p.deliver q body 1 ts
    else if (p.dupFind (frameSrc f) seq).isSome then p.countSat (Reg.ETH_DUPDISC q) 0 32
    else (p.dupPut (frameSrc f) seq q).deliver q body (if wrong then 2 else 0) ts

/-- HSR (R365): forwarded to the other port unless addressed to this part alone, its own, or forwarded already from the other
port; the first copy addressed to it is delivered without its tag, and of a PTP event message every copy (R366). -/
def Part.rxHsr (p : Part) (q : Nat) (f : List Byte) (ts egress : Instant) : Part :=
  let d := frameDst f
  let a := frameSrc f
  let ptp := (ptpKind f).isSome
  let here := d = p.mac || isGroup d
  if netNum f 12 2 ≠ 0x892F then (if here then p.deliver q f ptp.toNat ts else p)
  else if a = p.mac then p
  else
    let seq := netNum f 16 2
    let old := p.dupFind a seq
    let body := f.take 12 ++ f.drop 18
    let p := if d = p.mac || old.any (fun e => e.port ≠ q) || !p.forwards (1 - q) f then p
      else (p.forward q f ts egress).countSat (Reg.ETH_HSRFWD q) 0 32
    if old.isSome && !ptp then p.when here (·.countSat (Reg.ETH_DUPDISC q) 0 32)
    else
      let p := if old.isSome then p else p.dupPut a seq q
      if here then p.deliver q body ptp.toNat ts else p

/-- ETH_FRAME_RECEIVE: a frame arrives at `t` and, where it is forwarded, leaves at `egress`. -/
def Part.ethRx (p : Part) (q : Nat) (f : List Byte) (fcsOk : Bool) (t egress : Instant) : Part :=
  if !p.ethUp q then p
  else
    let p := p.at t
    if !fcsOk then p.countSat (Reg.ETH_RXCRC q) 0 32
    else if f.length < 60 || 1518 < f.length || netNum f (typeAt f) 2 = 0x8808 then p.rxDrop q
    else
      let ts := p.ringNow - psec (p.reg (Reg.ETH_PDLYRX q)).toNat
      let eg := egress - t + p.ringNow
      let p := p.countSat (Reg.ETH_RXOK q) 0 32
      let p := if ptpKind f = some 2 then
          p.onEth (fun x => { x with pdReq := (q, ts) :: x.pdReq.filter (fun e => e.1 ≠ q) })
        else p
      match p.redMode with
      | 0 => p.rxIndep q f ts eg
      | 1 => p.rxPrp q f ts
      | _ => p.rxHsr q f ts eg

/-- ETH_FRAME_RECEIVE. -/
def execEthFrameReceive (port : Fin 2) (data : List Byte) (fcsOk : Bool) (t egress : Instant) (s : State) :=
  s.run (·.ethRx port.val data fcsOk t egress)

/-! Sending (R366, R369, R373). -/

/-- The redundancy trailer or tag of a frame for port `q`. -/
def Part.redundant (p : Part) (q : Nat) (f : List Byte) : List Byte :=
  let size := f.length - 14 + 6
  match p.redMode with
  | 0 => f
  | 1 => f ++ netBytes 2 p.eth.seq ++ netBytes 2 ((10 + q) * 4096 + size) ++ netBytes 2 0x88FB
  | _ => f.take 12 ++ netBytes 2 0x892F ++ netBytes 2 (q * 4096 + size) ++ netBytes 2 p.eth.seq ++ f.drop 12

/-- The ports that a frame of transmit queue `q` leaves by. -/
def Part.txPorts (p : Part) (q : Nat) : List Nat := if p.redMode = 0 then [q] else [0, 1]

/-- A frame of the part leaves. -/
def Part.txFrame (p : Part) (q : Nat) (f : List Byte) (t : Instant) : Part :=
  let p := p.each ((p.txPorts q).filter p.ethUp) (fun p o =>
    (p.countSat (Reg.ETH_TXOK o) 0 32).send (.eth o t (p.redundant o f)))
  p.when (p.redMode ≠ 0) (·.onEth (fun x => { x with seq := (x.seq + 1) % 65536 }))

/-- One-step insertion of the egress timestamp (R369): originTimestamp of Sync, turnaround time of Pdelay_Resp; under UDP
over IPv4 the UDP checksum becomes 0 (DEDUCED, log entry 66: R369 says the IPv4 checksum). -/
def Part.insertStamp (p : Part) (q : Nat) (f : List Byte) (ts : Instant) : List Byte :=
  match ptpAt f, ptpKind f with
  | some o, some k =>
    let f := if netNum f (typeAt f) 2 = 0x0800 then putBytes f (o - 2) [0, 0] else f
    if k = 0 then putBytes f (o + 34) (netBytes 6 (instSec ts) ++ netBytes 4 (instNs ts))
    else if k = 3 then
      addCorrection f o ((ts : Int) - (((p.eth.pdReq.find? (fun e => e.1 = q)).map (·.2)).getD ts : Instant))
    else f
  | _, _ => f

/-- The entry at the head of a transmit queue is completed: OWN is cleared in the write that stores STATUS and the
timestamp, and the consumer index advances. -/
def Part.txDone (p : Part) (q status : Nat) (stamp : Option Instant) : Part :=
  let n := 24 + 2 * q
  let i := p.fld (Reg.QUE_CIDX n) 0 16
  let a := p.queueEntry n i
  let w0 := setBits (putBit (p.loadWord a) 31 false) 16 8 status
  let p := p.storeBytes a (bytesOf 4 w0.toNat)
  let p := match stamp with
    | some ts => (p.storeBytes (a + 4) (bytesOf 4 (instFr ts))).storeBytes (a + 0x18) (bytesOf 4 (instNs ts) ++ bytesOf 4 (instSec ts))
    | none => p
  p.setFld (Reg.QUE_CIDX n) 0 16 (i + 1)

/-- The entry at the head of transmit queue `q`, if the port owns it. -/
def Part.txHead (p : Part) (q : Nat) : Option Nat :=
  let n := 24 + 2 * q
  if !p.bit (Reg.QUE_CFG n) 31 || p.queueFill n = 0 then none
  else
    let a := p.queueEntry n (p.fld (Reg.QUE_CIDX n) 0 16)
    if bitAt (p.loadWord a) 31 then some a else none

/-- Whether an entry is refused with status 0x03. -/
def Part.txRefused (p : Part) (q a : Nat) : Bool :=
  let len := bits (p.loadWord a) 0 11
  let buf := p.load (a + 8) 5
  (p.redMode ≠ 0 && (q = 1 || 1512 < len)) || len < 60 || 1518 < len || !inSram buf || !inSram (buf + len - 1)

/-- The entry at address `a` is sent at `t`, with `status` unless its insertion is not made. -/
def Part.txSend (p : Part) (q a status : Nat) (t : Instant) : Part :=
  let w0 := p.loadWord a
  let f := p.loadBytes (p.load (a + 8) 5) (bits w0 0 11)
  let ts := p.ringNow + psec (p.reg (Reg.ETH_PDLYTX q)).toNat
  let one := bitAt w0 29
  let step := p.bit (Reg.ETH_PCFG q) 28
  let f := if one && step then p.insertStamp q f ts else f
  let status := if one && !step then 4 else status
  (p.txFrame q f t).txDone q status (if one || bitAt w0 30 then some ts else none)

/-- ETH_TX_ENTRY: the entry at the head of a transmit queue, without LAUNCH, is sent; one that cannot be is refused. -/
def Part.txEntry (p : Part) (q : Nat) (t : Instant) : Part :=
  match p.txHead q with
  | none => p
  | some a =>
    let p := p.at t
    if p.txRefused q a then p.txDone q 3 none
    else if bitAt (p.loadWord a) 28 || !(p.txPorts q).any p.ethUp then p
    else p.txSend q a 0 t

/-- ETH_TX_ENTRY. -/
def execEthTxEntry (port : Fin 2) (t : Instant) (s : State) := s.run (·.txEntry port.val t)

/-- ETH_LAUNCH: the first bit of a LAUNCH entry leaves the pin at LTIME in local tempo, within 8 ns, ETH_PDLYTX after it leaves
the port; one that comes to the head later is dropped or sent late, and one more than 10 s ahead (R373), or at no valid time
(R7), is refused. -/
def Part.txLaunch (p : Part) (q : Nat) (t : Instant) : Part :=
  match p.txHead q with
  | none => p
  | some a =>
    let p := p.at t
    if !bitAt (p.loadWord a) 28 || p.txRefused q a || !(p.txPorts q).any p.ethUp then p
    else
      let lt := instOf (p.load (a + 0x14) 4) (p.load (a + 0x10) 4)
      let now := instOf (instSec p.now % 2 ^ 32) (instNs p.now) + psec (p.reg (Reg.ETH_PDLYTX q)).toNat
      if !nsValid (p.loadWord (a + 0x10)) || now + sec 10 < lt then p.txDone q 3 none
      else if now + nsec 8 < lt then p
      else if now ≤ lt + nsec 8 then p.txSend q a 0 t
      else if bitAt (p.loadWord a) 27 then p.txDone q 2 none
      else ((p.countSat (Reg.ETH_TXLATE q) 0 32).raise (Reg.ETH_PEVT q) 1).txSend q a 1 t

/-- ETH_LAUNCH. -/
def execEthLaunch (port : Fin 2) (t : Instant) (s : State) := s.run (·.txLaunch port.val t)

/-- PRP_SUPERVISION: in PRP mode a supervision frame of IEC 62439-3 leaves every 2 s. -/
def Part.supervise (p : Part) (t : Instant) : Part :=
  if p.redMode ≠ 1 || p.eth.supAt.any (fun a => t < a + sec 2) then p
  else
    let p := p.at t
    let mac := netBytes 6 p.mac
    let body := netBytes 6 0x01154E000100 ++ mac ++ netBytes 2 0x88FB ++ netBytes 2 1 ++ netBytes 2 p.eth.supSeq
      ++ netBytes 1 20 ++ netBytes 1 6 ++ mac
    let f := body ++ List.replicate (60 - body.length) 0
    (p.onEth (fun x => { x with supAt := some p.now, supSeq := (x.supSeq + 1) % 65536 })).txFrame 0 f t

/-- PRP_SUPERVISION. -/
def execPrpSupervision (t : Instant) (s : State) := s.run (·.supervise t)

/-- Commit check of ETH. -/
def Part.ethCheck (p : Part) (val : Nat → Word) : Option (Nat × Nat) :=
  let dly := [0, 1].findSome? (fun q =>
    if 1000000 < (val (Reg.ETH_PDLYTX q)).toNat then some (1, Reg.ETH_PDLYTX q)
    else if 1000000 < (val (Reg.ETH_PDLYRX q)).toNat then some (1, Reg.ETH_PDLYRX q) else none)
  match dly with
  | some e => some e
  | none =>
    let sw := val Reg.ETH_SWCFG
    let win := (val Reg.ETH_DUPWIN).toNat
    if bits sw 30 2 = 3 then some (1, Reg.ETH_SWCFG)
    else if bits sw 30 2 ≠ p.redMode && (p.bit (Reg.ETH_PCFG 0) 31 || p.bit (Reg.ETH_PCFG 1) 31) then some (0x10, Reg.ETH_SWCFG)
    else if win < 10 || 4000 < win then some (1, Reg.ETH_DUPWIN)
    else none

end Sys2Proof.Machine
end

