-- ==== Sys2Proof/Machine/Loader.lean ====
section
/-! DEFINITION. The loader's checks of a figure image (R138 step 3, R163, R165 to R170): the header and layout, the bundles
in order, and then the budget, the mirror set, the state-transfer order and the gap. -/

namespace Sys2Proof.Machine

/-! Slot words (R147, Table 5.1). -/

/-- OP of a slot word. -/
def slotOp (w : Word) : Nat := bits w 26 6
/-- D of a slot word. -/
def slotD (w : Word) : Nat := bits w 20 6
/-- S1 of a slot word. -/
def slotS1 (w : Word) : Nat := bits w 14 6
/-- S2 of a slot word. -/
def slotS2 (w : Word) : Nat := bits w 8 6
/-- P of a slot word. -/
def slotP (w : Word) : Nat := bits w 5 3
/-- MOD of a slot word. -/
def slotMod (w : Word) : Nat := bits w 0 5
/-- The address of R155. -/
def slotAddr (w : Word) : Nat := slotS1 w * 1024 + slotS2 w * 16 + slotMod w % 16

/-- What a field names: nothing, a v register that starts a group of `n` consecutive ones at a multiple of `al`, an angle
register, a predicate, an index below `n`, or a part of an address. -/
inductive SlotUse
  | unused | v (n al : Nat) | a | p | index (n : Nat) | addr
deriving DecidableEq, Repr

/-- An operation of Table 5.2: its slot (0 M, 1 L, 2 X, 3 any), latency, what D, S1 and S2 name, and the modifier bits it
uses. -/
structure SlotInfo where
  slot : Nat
  lat : Nat
  d : SlotUse
  s1 : SlotUse
  s2 : SlotUse
  mods : Nat
deriving DecidableEq, Repr

/-- The rows of Table 5.2 for the M slots; SEL, SAT and FTST look at MOD. -/
def slotInfoM (op m : Nat) : Option SlotInfo :=
  let v : SlotUse := .v 1 1
  let reg : SlotUse := if m / 16 = 1 then .a else v
  match op with
  | 0x01 | 0x02 | 0x03 | 0x04 | 0x05 | 0x06 | 0x07 | 0x12 | 0x13 | 0x14 => some ⟨0, 3, v, v, v, 0⟩
  | 0x08 | 0x09 | 0x0A | 0x19 | 0x1A => some ⟨0, 3, v, v, .unused, 0⟩
  | 0x0B | 0x17 => some ⟨0, 3, .p, v, v, 31⟩
  | 0x0C => some ⟨0, 3, reg, reg, reg, 23⟩
  | 0x0D => some ⟨0, 3, v, v, if m / 16 = 1 then .v 2 2 else v, 31⟩
  | 0x0E => some ⟨0, 3, v, v, v, 15⟩
  | 0x0F => some ⟨0, 3, .v 2 2, v, v, 31⟩
  | 0x10 => some ⟨0, 3, .p, .addr, .unused, 15⟩
  | 0x11 => some ⟨0, 3, .p, .p, .p, 7⟩
  | 0x15 | 0x16 => some ⟨0, 3, v, v, .unused, 31⟩
  | 0x18 => some ⟨0, 3, v, v, .p, 31⟩
  | _ => none

/-- The rows of Table 5.2 for the L slot. -/
def slotInfoL (op m : Nat) : Option SlotInfo :=
  let v : SlotUse := .v 1 1
  let reg : SlotUse := if m / 16 = 1 then .a else v
  match op with
  | 0x20 | 0x24 => some ⟨1, 2, reg, .addr, .addr, 31⟩
  | 0x21 | 0x25 => some ⟨1, 0, reg, .addr, .addr, 31⟩
  | 0x22 => some ⟨1, 2, v, .addr, .addr, 31⟩
  | 0x23 => some ⟨1, 2, v, .addr, .addr, 15⟩
  | 0x26 => some ⟨1, 0, v, .addr, .addr, 15⟩
  | _ => none

/-- The rows of Table 5.2 for the X slot; SWING.F names no angle register. -/
def slotInfoX (op m : Nat) : Option SlotInfo :=
  let v : SlotUse := .v 1 1
  let pair : SlotUse := .v 2 2
  match op with
  | 0x30 => some ⟨2, 6, pair, .a, .unused, 0⟩
  | 0x31 => some ⟨2, 8, v, v, .unused, 0⟩
  | 0x32 => some ⟨2, 6, v, v, .unused, 0⟩
  | 0x33 => some ⟨2, 10, .a, v, v, 0⟩
  | 0x34 => some ⟨2, 4, .v 3 1, .v 3 1, .unused, 0⟩
  | 0x35 | 0x36 => some ⟨2, 7, pair, pair, .a, 0⟩
  | 0x37 => some ⟨2, 4, .v 4 4, pair, .index 4, 0⟩
  | 0x38 => some ⟨2, 4, if m % 2 = 1 then .unused else .a, .v 8 8, .unused, 1⟩
  | 0x39 => some ⟨2, 6, pair, pair, v, 15⟩
  | 0x3A => some ⟨2, 4, v, v, .index 64, 0⟩
  | 0x3B => some ⟨2, 3, v, v, .index 8, 0⟩
  | 0x3C => some ⟨2, 3, .a, .a, v, 0⟩
  | 0x3D => some ⟨2, 3, v, .a, .a, 0⟩
  | 0x3F => some ⟨2, 0, .unused, .unused, .unused, 0⟩
  | _ => none

/-- The row of Table 5.2 of a slot word. -/
def slotInfo (w : Word) : Option SlotInfo :=
  if slotOp w = 0 then some ⟨3, 0, .unused, .unused, .unused, 0⟩
  else (slotInfoM (slotOp w) (slotMod w)).orElse (fun _ =>
    (slotInfoL (slotOp w) (slotMod w)).orElse (fun _ => slotInfoX (slotOp w) (slotMod w)))

/-- A field that is not used and not 0 (R147). -/
def SlotUse.idle (u : SlotUse) (x : Nat) : Bool := u = .unused && x ≠ 0

/-- A register out of range or a block misaligned (R147, R154). -/
def SlotUse.bad : SlotUse → Nat → Bool
  | .v n al, x => 64 < x + n || x % al ≠ 0
  | .a, x => 8 ≤ x
  | .p, x => 8 ≤ x
  | _, _ => false

/-- An index out of range (R147). -/
def SlotUse.out : SlotUse → Nat → Bool
  | .index n, x => n ≤ x
  | _, _ => false

/-- Registers, predicates and flags as numbers of one kind: v registers from 0, angle registers from 64, predicates from 72,
present flags from 80. -/
def SlotUse.regs : SlotUse → Nat → List Nat
  | .v n _, x => (List.range n).map (· + x)
  | .a, x => [64 + x]
  | .p, x => [72 + x]
  | _, _ => []

/-- A modifier value that Table 5.2, R155 and R159 reserve. -/
def slotModBad (w : Word) : Bool :=
  let m := slotMod w
  match slotOp w with
  | 0x0B => m % 8 = 7 || m / 8 = 3
  | 0x17 => 6 ≤ m % 8 || m / 8 = 3
  | 0x10 => 2 < slotS1 w || (slotS1 w = 2 && m ≠ 0)
  | _ => false

/-- An address, port or parameter index out of range (R155). -/
def slotAddrBad (w : Word) : Bool :=
  let a := slotAddr w
  match slotOp w with
  | 0x22 => if slotMod w / 16 = 0 then 1023 < a else 16384 ≤ a
  | 0x23 => 272 < a
  | 0x24 | 0x25 => 63 < a
  | 0x26 => 47 < a
  | _ => false

/-- What an operation reads: sources, its guard, and the destination where it is a source too. -/
def slotReads (w : Word) (x : SlotInfo) : List Nat :=
  let op := slotOp w
  let m := slotMod w
  let own := [0x04, 0x05, 0x0E, 0x0F, 0x21, 0x25, 0x26, 0x38].contains op
    || ((op = 0x0B || op = 0x17) && (m / 8 = 1 || m / 8 = 2))
  (if slotP w = 0 then [] else [72 + slotP w]) ++ x.s1.regs (slotS1 w) ++ x.s2.regs (slotS2 w)
    ++ (if own then x.d.regs (slotD w) else [])
    ++ (if op = 0x0C then [72 + m % 8] else []) ++ (if op = 0x10 && slotS1 w = 0 then [80 + m % 16] else [])

/-- What an operation writes: its destination, the rotor's frequency (R157), and the flag it sets when it clips. -/
def slotWrites (w : Word) (x : SlotInfo) : List Nat :=
  let op := slotOp w
  (if [0x21, 0x25, 0x26].contains op then [] else x.d.regs (slotD w))
    ++ (if op = 0x38 then [slotS1 w + 2] else []) ++ (if op = 0x0D || op = 0x39 then [80 + slotMod w % 16] else [])

/-- The words of data memory that a BIQ or SEQ uses (R155); there is no SEQ instance above 3. -/
def slotState (w : Word) : Option (Nat × Nat) :=
  if slotOp w = 0x3A then some (0xFF80 + 2 * slotS2 w, 0xFF81 + 2 * slotS2 w)
  else if slotOp w = 0x37 && slotS2 w < 4 then some (0xC000 + 2048 * slotS2 w, 0xC7FF + 2048 * slotS2 w) else none

/-! Bundles (R163, R164, Tables 5.3 and 5.4). -/

/-- What the bundles before have left: results in flight (what, issue, landing), state words in use (first, last, last
cycle), sections and instances named, and the bundles of voted writes, newest first. -/
structure LoadScan where
  inflight : List (Nat × Nat × Nat) := []
  windows : List (Nat × Nat × Nat) := []
  named : List (Nat × Nat) := []
  voted : List Nat := []
  /-- The first breach: bundle, slot and detail code. -/
  breach : Option (Nat × Nat × Nat) := none
deriving DecidableEq, Repr

/-- The detail code of a slot word's own breach, where it has one. R163 orders bundles and slots, and not the codes of one slot
word with several breaches: this order, and that of `LoadScan.slot`, are a DESIGN CHOICE (log entry 62). -/
def slotBreach (w : Word) (slot bundle last : Nat) (x : SlotInfo) : Option Nat :=
  let cls := if slot < 2 then 0 else slot - 1
  let uses := [(x.d, slotD w), (x.s1, slotS1 w), (x.s2, slotS2 w)]
  if slotOp w = 0x3F && (slot ≠ 3 || bundle ≠ last || slotP w ≠ 0) then some 0x09
  else if x.slot ≠ 3 && x.slot ≠ cls then some 0x02
  else if uses.any (fun u => u.1.idle u.2) || slotMod w &&& (31 - x.mods) ≠ 0 || slotModBad w then some 0x03
  else if uses.any (fun u => u.1.bad u.2) then some 0x04
  else if x.d = .p && slotD w = 0 then some 0x08
  else if slotAddrBad w || uses.any (fun u => u.1.out u.2) then some 0x0A
  else none

/-- One slot word of bundle `i`; the order of its detail codes is a DESIGN CHOICE (log entry 62). -/
def LoadScan.slot (s : LoadScan) (img : WordFile) (i last slot : Nat) (w : Word) : LoadScan :=
  if s.breach.isSome then s
  else
    let fail := fun (c : Nat) => { s with breach := some (i, slot, c) }
    match slotInfo w with
    | none => fail 0x01
    | some x =>
      match slotBreach w slot i last x with
      | some c => fail c
      | none =>
        let op := slotOp w
        let key := (op, slotS2 w)
        let state := op = 0x3A || op = 0x37
        let typ := bits (imgWord img (0x100 + 8 * slotAddr w)) 0 2
        let vote := op = 0x25 || op = 0x26
        let voted := if vote then i :: s.voted else s.voted
        let land := i + x.lat
        let reads := slotReads w x
        let writes := slotWrites w x
        let fl := s.inflight.filter (fun e => i < e.2.2)
        if state && s.named.contains key then fail 0x0B
        else if op = 0x25 && typ = 3 then fail 0x0A
        else if op = 0x25 && decide (typ = 2) ≠ decide (slotMod w / 16 = 1) then fail 0x0C
        else if 64 < (voted.filter (fun b => 3 * i / 4 - 4 ≤ b)).length then fail 0x0E
        else if fl.any (fun e => e.2.1 < i && reads.contains e.1) then fail 0x05
        else if (op = 0x20 || op = 0x21)
            && s.windows.any (fun e => e.1 ≤ slotAddr w && slotAddr w ≤ e.2.1 && i ≤ e.2.2) then fail 0x07
        else if fl.any (fun e => writes.contains e.1 && (e.2.2 = land || (e.2.1 < i && land < e.2.2))) then fail 0x06
        else if last < land then fail 0x09
        else
          let ws := writes.map (fun r => (r, i, land))
          { s with
            inflight := ws ++ fl
            named := if state then key :: s.named else s.named
            voted := voted }

/-- One bundle: the state words of its X slot stand in its own cycle already. -/
def LoadScan.bundle (img : WordFile) (last : Nat) (s : LoadScan) (i : Nat) : LoadScan :=
  let w := fun (k : Nat) => imgWord img (0x8000 + 16 * i + 4 * k)
  let win := match slotState (w 3) with
    | some e => [(e.1, e.2, i + 3)]
    | none => []
  let s := { s with windows := win ++ s.windows.filter (fun e => i ≤ e.2.2) }
  let s := [0, 1, 2, 3].foldl (fun s k => s.slot img i last k (w k)) s
  if s.breach.isNone && i = last && slotOp (w 3) ≠ 0x3F then { s with breach := some (i, 3, 0x09) } else s

/-- The first breach among the bundles of an image. -/
def codeBreach (img : WordFile) (n : Nat) : Option (Nat × Nat × Nat) :=
  ((List.range n).foldl (LoadScan.bundle img (n - 1)) {}).breach

/-! Header and layout (R165 to R170). -/

/-- Whether any byte from `lo` below `hi` is not 0. -/
def imgUsed (img : WordFile) (lo hi : Nat) : Bool := img.any (fun e => lo ≤ 4 * e.1 && 4 * e.1 < hi && e.2 ≠ 0)

/-- Index of the last bundle that is not all zero, plus 1. -/
def imgBundles (img : WordFile) : Nat :=
  (img.filter (fun e => 0x8000 ≤ 4 * e.1 && 4 * e.1 < 0x28000 && e.2 ≠ 0)).foldl
    (fun n e => max n ((4 * e.1 - 0x8000) / 16 + 1)) 0

/-- Entries of a table before the first at which `stop` holds. -/
def imgEntries (n : Nat) (stop : Nat → Bool) : Nat := ((List.range n).find? stop).getD n

/-- Constraint entries (R168): kind 0x00 ends the table. -/
def imgCons (img : WordFile) : Nat := imgEntries 32 (fun i => bits (imgWord img (0xD00 + 16 * i)) 24 8 = 0)

/-- Mirror entries (R169): kind 0b11, or an unused entry, ends the list. -/
def imgMirror (img : WordFile) : Nat :=
  imgEntries 128 (fun i => bits (imgWord img (0x1000 + 8 * i)) 30 2 = 3
    || (imgWord img (0x1000 + 8 * i) = 0 && imgWord img (0x1004 + 8 * i) = 0))

/-- State-transfer entries (R170): kind 0b00 ends the table. -/
def imgTransfer (img : WordFile) : Nat := imgEntries 1024 (fun i => bits (imgWord img (0x2000 + 16 * i)) 30 2 = 0)

/-- The BIQ sections that the bundles use, each counted once (Table 5.10). -/
def imgSections (img : WordFile) (n : Nat) : Nat :=
  let ws := ((List.range n).map (fun i => imgWord img (0x800C + 16 * i))).filter (fun w => slotOp w = 0x3A)
  ((List.range 64).filter (fun k => ws.any (fun w => slotS2 w = k))).length

/-- A constraint entry that has no layout of R168. -/
def consBad (img : WordFile) (i : Nat) : Bool :=
  let w := imgWord img (0xD00 + 16 * i)
  5 < bits w 24 8 || bits w 16 8 ≠ 0

/-- A mirror entry that has no layout of R169. -/
def mirrorBad (img : WordFile) (i : Nat) : Bool :=
  let w := imgWord img (0x1000 + 8 * i)
  let n := (imgWord img (0x1004 + 8 * i)).toNat
  let k := bits w 30 2
  bits w 16 14 ≠ 0 || n = 0 || (if k = 0 then 65536 else if k = 1 then 64 else 8) < bits w 0 16 + n

/-- A state-transfer entry that has no layout of R170. -/
def transferBad (img : WordFile) (i : Nat) : Bool :=
  let a := 0x2000 + 16 * i
  let w := imgWord img a
  let n := bits w 0 17
  let dst := (imgWord img (a + 4)).toNat
  let src := (imgWord img (a + 8)).toNat
  bits w 30 2 = 3 || bits w 17 13 ≠ 0 || n = 0 || 65536 < n || 65536 < dst + n || imgWord img (a + 12) ≠ 0
    || (bits w 30 2 = 1 && 65536 < src + n)

/-- A header that disagrees with its contents, and anything else that gives detail 0x0D (R166). Of a COEF image only the
header is read. -/
def headerBad (img : WordFile) (kind : Nat) : Bool :=
  let h := fun (o : Nat) => (imgWord img o).toNat
  let head := h 0x00 ≠ 0x54564631 || h 0x04 ≠ 1 || 65536 ≤ h 0x08 || 256 ≤ h 0x0C || h 0x10 ≠ kind
    || imgUsed img 0x2C 0x40 || imgUsed img 0x80 0x100
  if head then true
  else if kind = 1 then
    (List.range 8).any (fun m => h (0x40 + 8 * m) ≠ 0xFFFFFFFF && 255 < h (0x40 + 8 * m))
  else
    let b := imgBundles img
    let nc := imgCons img
    let nm := imgMirror img
    let nx := imgTransfer img
    b = 0 || h 0x14 ≠ b || h 0x18 ≠ imgSections img b || 64 < h 0x18 || h 0x1C ≠ nx || h 0x20 ≠ nm || h 0x24 ≠ nc
      || [(0x300, 0x400), (0xCC0, 0xD00), (0xF00, 0x1000), (0x1400, 0x2000), (0x6000, 0x8000)].any
        (fun r => imgUsed img r.1 r.2)
      || (List.range 64).any (fun k => 4 ≤ h (0x100 + 8 * k))
      || (List.range nc).any (consBad img) || imgUsed img (0xD00 + 16 * nc) 0xF00
      || (List.range nm).any (mirrorBad img)
      || imgUsed img (0x1000 + 8 * nm + (if imgWord img (0x1000 + 8 * nm) = 0xC0000000 then 4 else 0)) 0x1400
      || (List.range nx).any (transferBad img) || imgUsed img (0x2000 + 16 * nx) 0x6000

/-! Budget, mirror set, state transfer and gap. -/

/-- The budget of R19: B + 96 cycles in 0.75 of a sample period at 600 MHz, the period a fraction in instants. -/
def budgetOk (n : Nat) (ts : Nat × Nat) : Bool := (n + 96) * (ts.2 * sec 1) ≤ 450000000 * ts.1

/-- Words of the state transfer (Table 4.4). -/
def transferWords (img : WordFile) : Nat :=
  ((List.range (imgTransfer img)).map (fun i => bits (imgWord img (0x2000 + 16 * i)) 0 17)).sum

/-- Cycles of the exchange work of R112: 32 for each bank; for a FULL exchange, one for each entry and one for every 32
words. -/
def gapCycles (img : WordFile) (coef : Bool) : Nat :=
  512 + (if coef then 0 else imgTransfer img + (transferWords img + 31) / 32)

/-- The gap of R112: the exchange work in 0.25 of a sample period at 600 MHz, less 64 cycles. -/
def gapOk (img : WordFile) (coef : Bool) (ts : Nat × Nat) : Bool :=
  (gapCycles img coef + 64) * (ts.2 * sec 1) ≤ 150000000 * ts.1

/-- Whether the mirror set, with 8 bytes of region and fade state, exceeds 4 KiB (R169). -/
def mirrorTooLong (img : WordFile) : Bool :=
  1024 < ((List.range (imgMirror img)).map (fun i => (imgWord img (0x1004 + 8 * i)).toNat)).sum + 2

/-- Whether an entry of the state transfer reads a word that an earlier entry writes (R141). -/
def transferUnordered (img : WordFile) : Bool :=
  let n := fun (i : Nat) => bits (imgWord img (0x2000 + 16 * i)) 0 17
  let w := fun (i k : Nat) => (imgWord img (0x2000 + 16 * i + 4 * k)).toNat
  (List.range (imgTransfer img)).any (fun i =>
    bits (imgWord img (0x2000 + 16 * i)) 30 2 = 1
      && (List.range i).any (fun j => w i 2 < w j 1 + n j && w j 1 < w i 2 + n i))

/-- The loader's check: an error code of Table 4.9, and the detail word of R163 where the error is 0x03. -/
def loaderCheck (img : WordFile) (coef : Bool) (ts : Nat × Nat) : Option (Nat × Option Word) :=
  if headerBad img coef.toNat then some (3, some 0x0D)
  else if coef then if gapOk img true ts then none else some (6, none)
  else
    let b := imgBundles img
    match codeBreach img b with
    | some (i, s, c) => some (3, some (BitVec.ofNat 32 (i * 65536 + s * 16384 + c)))
    | none =>
      if !budgetOk b ts then some (4, none)
      else if mirrorTooLong img then some (7, none)
      else if transferUnordered img then some (5, none)
      else if !gapOk img false ts then some (6, none) else none

end Sys2Proof.Machine
end

