-- ==== Sys2Proof/Machine/Commit.lean ====
section
/-! DEFINITION. Staged commits (R24 to R31): which registers a unit holds, the checks of the CLE (R67, R86, R106, R124,
R130, R132, R168), of R19 and R176, and how a set moves, alone or jointly. -/

namespace Sys2Proof.Machine

/-! Units and their registers (R25, R27, Table 1.5). -/

/-- Whether the ST register at an offset of the unit's block belongs to the unit: a channel and a pair by the group their
staged words name, a leg by the group of the pair it names, and what names no group by either (R27, R176, R203). -/
def Part.inUnit (p : Part) (u : CUnit) (off : Nat) : Bool :=
  let pairIn := fun (q : Nat) (g : Grp) => decide (bitAt (p.staged (Reg.PWM_PCFG q)) 30 = (g = .B))
  match u with
  | .cle g => (off - 0x100000) / 0x4000 % 2 = g.ix
  | .sense g =>
    if off < 0x124000 then bitAt (p.staged (Reg.SENSE_CFG ((off - 0x122000) / 0x80))) 30 = (g = .B) else true
  | .pwm g =>
    if off < 0x153000 then (off - 0x152000) / 0x40 = g.ix
    else if off < 0x153400 then pairIn ((off - 0x153000) / 16) g
    else
      let q := bits (p.staged off) 0 5
      24 ≤ q || pairIn q g
  | _ => true

/-- The ST registers of a row of the register map. -/
def stRegs (r : RegRow) : List Nat :=
  if r.st = 0 then []
  else (List.range r.n1).flatMap (fun i => (List.range r.n2).map (fun j => r.base + r.s1 * i + r.s2 * j))

/-- A snapshot of a unit's staged set: every register of it with its staged word (R24). -/
def Part.snapOf (p : Part) (u : CUnit) : WordFile :=
  (((blockRows (unitBlock u)).flatMap stRegs).filter (p.inUnit u)).map (fun off => (off, p.staged off))

/-- The words that a check sees: staged ones of the units that move together, committed ones of every other set. -/
def Part.view (p : Part) (us : List CUnit) (off : Nat) : Word :=
  if us.any (fun u => off / 0x10000 = unitBlock u / 0x10000 && p.inUnit u off) then p.staged off else p.reg off

/-! The check of a CLE set. -/

/-- The fault of one input port's source (R106, Table 4.3). -/
def ipSrcFault (val : Nat → Word) (g : Grp) (src : Nat) : Option Nat :=
  let sd := if 0x100 ≤ src && src ≤ 0x11B then some (src - 0x100)
    else if 0x140 ≤ src && src ≤ 0x15B then some (src - 0x140) else none
  match sd with
  | some n => if bitAt (val (Reg.SENSE_CFG n)) 30 = (g = .B) then none else some 3
  | none =>
    if src = 0 || (0x180 ≤ src && src ≤ 0x18F) || (0x1C0 ≤ src && src ≤ 0x1CB) || (0x200 ≤ src && src ≤ 0x20F)
      || (0x280 ≤ src && src ≤ 0x2BF) then none else some 1

/-- The fault of the thresholds in use of scheduling variable `v` (R124). -/
def Part.schedFault (p : Part) (val : Nat → Word) (g : Grp) (v : Nat) : Option (Nat × Nat) :=
  let sv := val (Reg.CLE_SVSEL g.ix)
  let n := bits sv (8 * v + 6) 2
  let isInt := p.epType g (bits sv (8 * v) 6) = 1 || p.epType g (bits sv (8 * v) 6) = 2
  let thr := fun (j : Nat) => val (Reg.CLE_THR g.ix (3 * v + j))
  let hys := fun (j : Nat) => val (Reg.CLE_HYS g.ix (3 * v + j))
  (List.range n).findSome? (fun j =>
    if !isInt && fpLt (hys j) 0 then some (2, Reg.CLE_HYS g.ix (3 * v + j))
    else if j + 1 < n && (if isInt then (thr (j + 1)).toNat ≤ (thr j).toNat + (hys j).toNat + (hys (j + 1)).toNat
        else fpLe (fpSub (thr (j + 1)) (hys (j + 1))) (fpAdd (thr j) (hys j))) then
      some (2, Reg.CLE_THR g.ix (3 * v + j + 1))
    else none)

/-- The generator, correlator and capture registers of a group. -/
def probeRegs (g : Grp) : List Nat :=
  [Reg.CLE_INJCFG g.ix, Reg.CLE_INJAMAX g.ix, Reg.CLE_CORRCFG g.ix, Reg.CLE_CAPSEL g.ix 0, Reg.CLE_CAPSEL g.ix 1,
    Reg.CLE_CAPCFG g.ix] ++ (List.range 32).map (Reg.CLE_TONE g.ix)

/-- The fault of the generator, correlator and capture set (R130 to R132, R145): a change while a correlation or capture
runs, AMAX, the PRBS order, the window, a capture channel, and the bins of the tones in use. -/
def Part.probeFault (p : Part) (val : Nat → Word) (g : Grp) : Option (Nat × Nat) :=
  let i := g.ix
  let busy := p.bit (Reg.CLE_CAPCTL i) 8 || p.bit (Reg.CLE_CAPCTL i) 9
  let cfg := val (Reg.CLE_INJCFG i)
  let mode := bits cfg 0 2
  let e := bits (val (Reg.CLE_CORRCFG i)) 0 5
  let tones := if mode = 1 then 1 else if mode = 2 then bits cfg 8 5 + 1 else 0
  let sel := (List.range 8).find? (fun c =>
    let x := bits (val (Reg.CLE_CAPSEL i (c / 4))) (8 * (c % 4)) 7
    0x40 < x && x ≠ 0x7F)
  let bin := (List.range tones).find? (fun k =>
    let m := bits (val (Reg.CLE_TONE i k)) 0 16
    m < 1 || 2 ^ e / 2 - 1 < m)
  match if busy then (probeRegs g).find? (fun o => val o ≠ p.reg o) else none with
  | some o => some (0x10, o)
  | none =>
    if mode = 3 && (bits cfg 20 4 < 7 || 15 < bits cfg 20 4) then some (1, Reg.CLE_INJCFG i)
    else if !(fpLe 0 (val (Reg.CLE_INJAMAX i)) && fpLe (val (Reg.CLE_INJAMAX i)) 0x3D4CCCCD) then some (1, Reg.CLE_INJAMAX i)
    else if e < 8 || 16 < e then some (1, Reg.CLE_CORRCFG i)
    else match sel with
      | some c => some (1, Reg.CLE_CAPSEL i (c / 4))
      | none => bin.map (fun k => (1, Reg.CLE_TONE i k))

/-- Whether an FP32 word lies in an inclusive range; a NaN lies in none (R67). -/
def fpWithin (lo hi x : Word) : Bool := fpLe lo x && fpLe x hi

/-- The fault of a ride-through profile whose RT_CFG is word `x` (R86): the reason and the word. -/
def profileFault (pw : Nat → Word) (x : Nat) : Option (Nat × Nat) :=
  let uv := bits (pw x) 0 5
  let ov := bits (pw x) 8 5
  if 16 < uv + ov || uv = 0 then some (2, x)
  else (List.range (uv + ov)).findSome? (fun k =>
    let v := x + 1 + 2 * k
    let t := x + 2 + 2 * k
    let vOk := if k < uv then fpWithin 0 fpOne (pw v) else fpWithin fpOne fpThreeHalves (pw v)
    if !vOk then some (1, v)
    else if !fpWithin 0 0x42700000 (pw t) then some (1, t)
    else if k = 0 || k = uv then if fpEq (pw t) 0 then none else some (2, t)
    else if fpLt (pw t) (pw (t - 2)) then some (2, t) else none)

/-- The number of zero bits below the lowest set bit of a mask. -/
def maskShift (m : Word) : Nat := ((List.range 32).find? (bitAt m)).getD 0

/-- The fault of constraint `i` of the image in force (R168, Table 5.11): the reason and the word. -/
def consFault (img : WordFile) (pw old : Nat → Word) (off : Bool) (i : Nat) : Option (Nat × Nat) :=
  let e := fun (k : Nat) => imgWord img (0xD00 + 16 * i + 4 * k)
  let x := bits (e 0) 8 8
  let y := bits (e 0) 0 8
  let m := (pw x &&& e 1).toNat
  match bits (e 0) 24 8 with
  | 1 => if fpLe (pw x) (pw y) then none else some (2, x)
  | 2 => if (e 2).toNat ≤ m >>> maskShift (e 1) && m >>> maskShift (e 1) ≤ (e 3).toNat then none else some (1, x)
  | 3 => if m = (e 2).toNat then some (2, x) else none
  | 4 => if off || pw x = old x then none else some (6, x)
  | 5 => profileFault pw x
  | _ => none

/-- The fault of the parameter words under the image in force (R67, R168): the ranges in word order, and then the
constraints in table order. -/
def Part.paramFault (p : Part) (val : Nat → Word) (g : Grp) : Option (Nat × Nat) :=
  let c := p.cg g
  let pw := fun (n : Nat) => val (Reg.CLE_PW g.ix n)
  let off := !(p.groupRuns g && p.gridRuns g) || c.grid.mode = 0
  if !c.loaded then none
  else
    let range := (List.range 256).find? (fun n =>
      let lo := imgWord c.img (0x400 + 8 * n)
      let hi := imgWord c.img (0x404 + 8 * n)
      !(lo = 0xFFFFFFFF && hi = 0xFFFFFFFF) && !fpWithin lo hi (pw n))
    match range with
    | some n => some (1, Reg.CLE_PW g.ix n)
    | none => ((List.range (imgCons c.img)).findSome? (consFault c.img pw (fun n => p.reg (Reg.CLE_PW g.ix n)) off)).map
        (fun e => (e.1, Reg.CLE_PW g.ix e.2))

/-- The check of a group's CLE set: the parameter ranges and the constraints come first (R168). -/
def Part.cleCheck (p : Part) (val : Nat → Word) (g : Grp) : Option (Nat × Nat) :=
  let ports := (List.range 64).findSome? (fun k =>
    (ipSrcFault val g (bits (val (Reg.CLE_IPSRC g.ix k)) 0 12)).map (fun c => (c, Reg.CLE_IPSRC g.ix k)))
  (p.paramFault val g).orElse (fun _ => ports.orElse (fun _ =>
    ([0, 1, 2, 3].findSome? (p.schedFault val g)).orElse (fun _ => p.probeFault val g)))

/-! The checks of a PWM set that concern other blocks. -/

/-- The sample period of a group in a view. -/
def viewTs (val : Nat → Word) (g : Grp) : Nat × Nat :=
  let (n, d) := periodOf (val (Reg.PWM_PERIOD g.ix)) (val (Reg.PWM_PERFR g.ix))
  (n * countUnits, if bitAt (val (Reg.PWM_TBCFG g.ix)) 30 then 2 * d else d)

/-- The lock rule of R176 at a change of Ts: the first of TBCFG, PERIOD and PERFR that changes is named. -/
def Part.lockRuleFault (p : Part) (val : Nat → Word) (g : Grp) : Option (Nat × Nat) :=
  let bad := (List.range 28).any (fun n => bitAt (val (Reg.SENSE_CFG n)) 30 = (g = .B) && !sdLockOk val n)
  let o := [Reg.PWM_TBCFG g.ix, Reg.PWM_PERIOD g.ix, Reg.PWM_PERFR g.ix].find? (fun o => val o ≠ p.reg o)
  if bad then o.map (fun o => (3, o)) else none

/-- The budget of R19 at a change of Ts, for the figure in the active bank and for an armed or deferred exchange with its
gap work: reason 0x05, OFFSET 0. -/
def Part.budgetFault (p : Part) (val : Nat → Word) (g : Grp) : Option (Nat × Nat) :=
  let ts := viewTs val g
  let c := p.cg g
  let fit := !c.loaded || budgetOk (p.figBundles g) ts
  let exch := match c.exch with
    | some x => (x.coefOnly || budgetOk (imgWord x.img 0x14).toNat ts) && gapOk x.img x.coefOnly ts
    | none => true
  if ts = p.tsUnits g || (fit && exch) then none else some (5, 0)

/-! Checks and reactions by unit. -/

/-- The check of a unit's staged set within a set of units that move together: reason and offset of the fault. -/
def Part.unitCheck (p : Part) (us : List CUnit) (u : CUnit) : Option (Nat × Nat) :=
  let val := p.view us
  match u with
  | .cle g => p.cleCheck val g
  | .sense g => p.senseCheck val g ((List.range 28).filter (fun n => p.inUnit u (Reg.SENSE_CFG n)))
  | .pwm g =>
    (p.pwmCheck val g ((List.range 24).filter (fun q => p.inUnit u (Reg.PWM_PCFG q)))).orElse (fun _ =>
        (p.lockRuleFault val g).orElse (fun _ => p.budgetFault val g))
  | .pos => posCheck val
  | .cap => p.capCheck val
  | .gpio => gpioCheck val
  | .auxadc => p.auxCheck val
  | .prot => protCheck val
  | .gate => p.gateCheck val
  | .ramp => rampCheck val
  | .nvm => nvmCheck val
  | .cyc => if bits (val Reg.CYC_RIOCFG) 0 8 = 0 then some (1, Reg.CYC_RIOCFG) else none
  | .ring => none
  | .pair => p.pairCheck val
  | .eth => p.ethCheck val
  | .time => timeCheck val
  | .spare => spareCheck val
  | .clk => p.clkCheck val
  | .pwr => p.pwrCheck val
  | .mon => monCheck val

/-- What follows the move of a unit's set, given the words that stood before. -/
def Part.unitMoved (p : Part) (old : Nat → Word) : CUnit → Part
  | .cle g => p.cleMoved g old
  | .sense _ => p.senseMoved old
  | .pwm g => p.pwmMoved g
  | .pos => p.posMoved old
  | .cap => p.capMoved old
  | .gpio => (p.gpioMoved old).showOwn
  | .prot => p.protMoved old
  | .gate => p.gateMoved old
  | .pair => p.pairMoved old
  | .time => p.timeMoved
  | .clk => p.clkMoved old
  | _ => p

/-- A snapshot moves to the committed set. -/
def Part.moveSnap (p : Part) (u : CUnit) (snap : WordFile) : Part :=
  (p.placeSnap snap).unitMoved p.reg u

/-- Whether the boundary source of a unit runs (R25). -/
def Part.sourceRuns (p : Part) : CUnit → Bool
  | .cle g => p.groupRuns g && p.tbRuns g
  | .sense g => p.tbRuns g
  | .pwm g => p.tbRuns g
  | _ => false

/-- Whether a commit of a unit is pending, its own or a joint one that names it. -/
def Part.commitPending (p : Part) (u : CUnit) : Bool :=
  p.commits.any (fun c => c.unit = u) || (p.joint.map (fun j => j.parts.any (fun c => c.unit = u))).getD false

/-- COMMIT_GO: the check of the whole staged set, and its snapshot pending, or a refusal (R24, R26, R31). -/
def Part.commitGo (p : Part) (u : CUnit) (tag : Nat) (t : Instant) : Part :=
  let p := p.at t
  let st := unitStat u
  if p.commitPending u then p.setReg st (cstatWord tag 7 0 3)
  else match p.unitCheck [u] u with
    | some (c, o) => p.setReg st (cstatWord tag c o 3)
    | none =>
      let x : PendCommit := { unit := u, tag := tag, snap := p.snapOf u }
      { p with commits := p.commits ++ [x] }.setReg st (cstatWord tag 0 0 1)

/-- The pending set of a unit moves, and is no longer pending; STATE is shown by the caller. -/
def Part.movePending (p : Part) (c : PendCommit) : Part :=
  { p with commits := p.commits.filter (fun x => x.unit ≠ c.unit) }.moveSnap c.unit c.snap

/-- A pending set moves without a tick. -/
def Part.moveNow (p : Part) (c : PendCommit) : Part :=
  (p.movePending c).showMoved (unitStat c.unit, c.unit.grp?)

/-! Joint commits (R31). -/

/-- The units of Table 1.9, from bit 0 up. -/
def jointUnits : List CUnit := [.cle .A, .cle .B, .sense .A, .sense .B, .pwm .A, .pwm .B, .pos, .cap]

/-- SYS_JCOMMIT with GO. -/
def Part.jointGo (p : Part) (mask tag : Nat) (t : Instant) : Part :=
  let p := p.at t
  let us := (jointUnits.zipIdx.filter (fun e => mask.testBit e.2)).map (·.1)
  let grps := us.filterMap CUnit.grp?
  let refuse := fun (c o : Nat) => p.setReg Reg.SYS_JCSTAT (cstatWord tag c o 3)
  if p.joint.isSome || us.any p.commitPending then refuse 7 0
  else if grps.contains .A && grps.contains .B then refuse 8 0
  else match us.findSome? (p.unitCheck us) with
    | some (c, o) => refuse c o
    | none =>
      let x : JointCommit :=
        { tag := tag, grp := grps.head?, parts := us.map (fun u => { unit := u, tag := tag, snap := p.snapOf u }) }
      { p with joint := some x }.setReg Reg.SYS_JCSTAT (cstatWord tag 0 0 1)

/-- The sets of the pending joint commit move together; STATE is shown by the caller. -/
def Part.moveJoint (p : Part) (j : JointCommit) : Part :=
  let q := p.each j.parts (fun p c => p.placeSnap c.snap)
  { q.each j.parts (fun q c => q.unitMoved p.reg c.unit) with joint := none }

/-- Whether the pending joint commit waits for no tick: it names no group, or its timebase is stopped. -/
def Part.jointIdle (p : Part) (j : JointCommit) : Bool :=
  match j.grp with
  | some g => !p.tbRuns g
  | none => true

/-- Every pending set whose boundary source has stopped moves at that instant (R25). -/
def Part.moveStopped (p : Part) : Part :=
  let p := p.each (p.commits.filter (fun c => c.unit.grp?.isSome)) (fun p c => if p.sourceRuns c.unit then p else p.moveNow c)
  match p.joint with
  | some j => if j.grp.isSome && p.jointIdle j then (p.moveJoint j).showMoved (Reg.SYS_JCSTAT, j.grp) else p
  | none => p

/-- Step 1 of a tick (R23): the due sets of the group move; the status registers to be shown after the transfer come with
the part. -/
def Part.tickMoves (p : Part) (g : Grp) (boundary : Bool) : Part × List (Nat × Option Grp) :=
  let due := p.commits.filter (fun c => c.unit = .cle g || c.unit = .sense g || (boundary && c.unit = .pwm g))
  let p := p.each due (fun p c => p.movePending c)
  let shows := due.map (fun c => (unitStat c.unit, some g))
  match p.joint with
  | some j => if boundary && j.grp = some g then (p.moveJoint j, shows ++ [(Reg.SYS_JCSTAT, some g)]) else (p, shows)
  | none => (p, shows)

/-! Rows. -/

/-- COMMIT_GO. -/
def execCommitGo (u : CUnit) (tag : BitVec 8) (t : Instant) (s : State) := s.run (·.commitGo u tag.toNat t)

/-- COMMIT_MOVE: a set of an immediate block, or one whose boundary source does not run, moves at once; one whose source
runs moves at its tick (R25). -/
def execCommitMove (u : CUnit) (t : Instant) (s : State) := s.run (fun p =>
  match p.commits.find? (fun c => c.unit = u) with
  | some c => if p.sourceRuns u then p else (p.at t).moveNow c
  | none => p)

/-- SYS_JCOMMIT_GO. -/
def execSysJcommitGo (mask tag : BitVec 8) (t : Instant) (s : State) := s.run (·.jointGo mask.toNat tag.toNat t)

/-- JOINT_COMMIT_MOVE: a joint commit that waits for no tick moves at once; one whose timebase runs moves at its tick. -/
def execJointCommitMove (t : Instant) (s : State) := s.run (fun p =>
  match p.joint with
  | some j => if p.jointIdle j then ((p.at t).moveJoint j).showMoved (Reg.SYS_JCSTAT, j.grp) else p
  | none => p)

end Sys2Proof.Machine
end

