-- ==== Sys2Proof/Machine/Report.lean ====
section
/-! DEFINITION. The health report and the attestation (R419, R428, Table 16.5). -/

namespace Sys2Proof.Machine

/-- Bytes followed by zeros up to a length. -/
def padTo (n : Nat) (bs : List Byte) : List Byte := bs ++ List.replicate (n - bs.length) 0

/-- A ring time as it stands in reports: nanoseconds, then the low 32 bits of seconds. -/
def timeBytes (t : Instant) : List Byte := bytesOf 4 (instNs t) ++ bytesOf 4 (instSec t)

/-- An entry of the reserve log: 16 bytes. -/
def rsvLogBytes (e : RsvEntry) : List Byte :=
  padTo 16 (timeBytes e.time ++ bytesOf 1 e.cls ++ bytesOf 1 e.unit ++ bytesOf 1 e.rsv ++ bytesOf 1 e.cause ++ bytesOf 1 e.outcome)

/-- The counters of Table 16.5, in the order it names them. -/
def reportCounters : List Nat :=
  (List.range 8).map Reg.CLE_LSTAT ++ (List.range 8).map Reg.CLE_LECC ++ [Reg.CLE_DUPCNT 0, Reg.CLE_DUPCNT 1]
    ++ [Reg.MMU_LSCNT, Reg.MMU_SWAPCNT, Reg.MMU_SECE, Reg.MMU_SEUE, Reg.MMU_MECE, Reg.MMU_MEUE, Reg.MMU_SROWS, Reg.MMU_MROWS]
    ++ [Reg.RING_CRCERR 0, Reg.RING_CRCERR 1, Reg.RING_SHERR 0, Reg.RING_SHERR 1]
    ++ (List.range 56).map Reg.GATE_CHSTAT ++ (List.range 28).map Reg.SENSE_MVCNT ++ [Reg.PAIR_MDIFF, Reg.SAFE_FAULT]
    ++ [Reg.NVM_WEARMAX, Reg.NVM_WEARADDR]

/-- Daily records kept, and monthly ones. -/
def Part.recordCounts (p : Part) : Nat × Nat := (min 400 p.health.dayRecs, min 300 p.health.monthRecs)

/-- The health report: DAILY in bit 0 and MONTHLY in bit 1 of the options; signed with the identity key. -/
def Part.healthReport (p : Part) (opt : Nat) : List Byte :=
  let (nd, nm) := p.recordCounts
  let head := padTo 64 (bytesOf 4 0x54564852 ++ bytesOf 4 1 ++ bytesOf 8 p.uid.toNat ++ timeBytes p.ringNow ++ bytesOf 4 p.grade
    ++ bytesOf 4 (p.fld Reg.SPARE_HEALTH 0 16) ++ bytesOf 4 nd ++ bytesOf 4 nm)
  let log := padTo 1024 ((p.rsvLog.take 64).flatMap rsvLogBytes)
  let counts := padTo 1024 (reportCounters.flatMap (fun o => bytesOf 4 (p.reg o).toNat))
  let life := padTo 64 ((List.range 16).flatMap (fun m => bytesOf 2 (p.fld (Reg.SPARE_PMLIFE m) 0 16)))
  let days := if opt.testBit 0 then
      (List.range nd).flatMap (fun i => p.loadBytes (dayRecord (p.health.dayRecs - 1 - i)) 640) else []
  let months := if opt.testBit 1 then
      (List.range nm).flatMap (fun i => p.loadBytes (monthRecord (p.health.monthRecs - 1 - i)) 640) else []
  let body := head ++ log ++ counts ++ life ++ days ++ months
  body ++ padTo 4632 ((Config.sign (sha3 body)).take sigBytes)

/-- Base of the identity certificate (Table 16.7). -/
def certBase : Nat := 0x23C20000

/-- The identity certificate: a DER sequence of the length its head gives. -/
def Part.certificate (p : Part) : List Byte :=
  let b := fun (i : Nat) => (p.byte (certBase + i)).toNat
  let n := if b 0 ≠ 0x30 then 0
    else if b 1 < 0x80 then 2 + b 1
    else if b 1 = 0x81 then 3 + b 2
    else if b 1 = 0x82 then 4 + b 2 * 256 + b 3 else 0
  p.loadBytes certBase n

/-- An entry of the measurement log: 80 bytes. -/
def measBytesOf (e : MeasEntry) : List Byte := padTo 80 (bytesOf 8 e.kind ++ timeBytes e.time ++ e.digest)

/-- The attestation over a nonce. -/
def Part.attest (p : Part) (nonce : List Byte) : List Byte :=
  let log := p.measLog
  let head := padTo 128 (bytesOf 4 0x54564154 ++ bytesOf 8 p.uid.toNat ++ timeBytes p.ringNow ++ nonce ++ p.measBytes
    ++ bytesOf 4 log.length)
  let body := head ++ log.flatMap measBytesOf ++ p.healthReport 3
  body ++ p.certificate ++ (Config.sign (sha3 body)).take sigBytes

end Sys2Proof.Machine
end

