-- ==== Sys2Proof/Machine/Scan.lean ====
section
/-! DEFINITION. The admittance self-scan: its settings, its grid of points, its results, retunes and reverts (R133 to
R136). -/

namespace Sys2Proof.Machine

/-- Base of the settings of a group (Table 4.7). -/
def scanBase (g : Grp) : Nat := 0x21FE0000 + 0x100 * g.ix

/-- The settings as words, +0x00 to +0x6C. -/
def Part.scanWords (p : Part) (g : Grp) : List Word := (List.range 28).map (fun i => p.loadWord (scanBase g + 4 * i))

/-- An FP32 word lies within two others. -/
def fpIn (lo hi x : Word) : Bool := fpLe lo x && fpLe x hi

/-- The first setting out of range, as its offset divided by 4 (R136, Table 4.7); SCAN_AMAX may not exceed the committed
amplitude (R133). -/
def scanFault (ws : List Word) (amax : Word) : Option Nat :=
  let w : Nat → Word := fun i => ws.getD i 0
  let one : Nat × Bool → Option Nat := fun e => if e.2 then none else some e.1
  let notch : Nat → List (Nat × Bool) := fun t =>
    let i := 12 + 4 * t
    [(i, (w i).toNat < 64 || w i = 0xFF), (i + 1, fpIn 0x40A00000 0x459C4000 (w (i + 1))),
     (i + 2, fpIn (w (i + 1)) 0x459C4000 (w (i + 2))), (i + 3, fpIn 0x3F800000 0x42C80000 (w (i + 3)))]
  ([(1, fpIn 0x41200000 0x45610000 (w 1)),
    (2, fpIn 0x3A83126F 0x3D4CCCCD (w 2) && fpLe (w 2) amax),
    (3, fpIn 0x40A00000 0x42C80000 (w 3)),
    (4, fpIn 0x42C80000 0x459C4000 (w 4)),
    (5, fpIn 0x3BA3D70A 0x3DCCCCCD (w 5)),
    (6, fpIn 0 0x3E4CCCCD (w 6)),
    (7, fpIn (w 6) 0x3E4CCCCD (w 7)),
    (8, decide ((w 8).toNat ≤ 2))] ++ (List.range 4).flatMap notch).findSome? one

/-! The grid of points (R134). -/

/-- The window: the smallest power of two with N·Ts ≥ 0.2 s, for Ts = n/d seconds. -/
def scanWindow (n d : Nat) : Nat := 2 ^ ((List.range 20).find? (fun e => d ≤ 5 * 2 ^ e * n)).getD 20

/-- The largest k below 2^`bits` for which a condition, true up to some point, holds. -/
def largest (f : Nat → Bool) : Nat → Nat → Nat
  | 0, k => k
  | b + 1, k => if f (k + 2 ^ b) then largest f b (k + 2 ^ b) else largest f b k

/-- The bin nearest to point `i` of 96 spaced logarithmically from `lo` to `hi`, in units of 2^-149 Hz, with windows of
N·Ts = n/d seconds: k − ½ ≤ lo^((95 − i)/95)·hi^(i/95)·N·Ts. -/
def scanBin (lo hi n d i : Nat) : Nat :=
  let x := lo ^ (95 - i) * hi ^ i * n ^ 95
  let y := (2 ^ 149 * d) ^ 95
  largest (fun k => (2 * k - 1) ^ 95 * y ≤ 2 ^ 95 * x) 17 0

/-- Remove repeated neighbours of a rising list. -/
def dropRepeats : List Nat → List Nat
  | a :: b :: l => if a = b then dropRepeats (b :: l) else a :: dropRepeats (b :: l)
  | l => l

/-- N and the bins of a scan: up to F_top = min(SCAN_FHI, 0.4/Ts), none below bin 1, none twice. -/
def scanBins (ws : List Word) (n d : Nat) : Nat × List Nat :=
  let nn := scanWindow n d
  let lo := (fpScaled (ws.getD 3 0)).toNat
  let top := min (fpScaled (ws.getD 4 0)).toNat (2 * d * 2 ^ 149 / (5 * n))
  (nn, dropRepeats ((List.range 96).map (fun i => max 1 (scanBin lo top (nn * n) d i))))

/-- Change the scan of a group. -/
def Part.onScan (p : Part) (g : Grp) (f : SelfScan → SelfScan) : Part := p.onCg g (fun c => { c with scan := f c.scan })

/-- A scan starts with the settings as they stand. -/
def Part.scanStart (p : Part) (g : Grp) (op : Option Nat) (t : Instant) : Part :=
  let ws := p.scanWords g
  let (n, d) := p.tsSec g
  let (nn, bins) := scanBins ws n.toNat d
  let r : ScanRun := { ws := ws, op := op, n := nn, bins := bins }
  (p.at t).onScan g (fun s => { s with run := some r, bg := bitAt (ws.getD 0 0) 0, startAt := t })

/-- The scan of a group ends without results. -/
def Part.scanDrop (p : Part) (g : Grp) : Part := p.onScan g (fun s => { s with run := none, bg := false })

/-- SCAN_PERIOD_EXPIRY: with BG set the next scan starts SCAN_PERIOD after the last one did; settings out of range start
none. -/
def execScanPeriodExpiry (g : Grp) (t : Instant) (s : State) :=
  s.run (fun p =>
    let c := (p.cg g).scan
    let ws := p.scanWords g
    if c.bg && c.run.isNone && p.gridRuns g && (p.opHolding (resOf 3 g.ix)).isNone && (scanFault ws (p.reg (Reg.CLE_INJAMAX g.ix))).isNone
        && c.startAt + fpSeconds (ws.getD 1 0) ≤ t then
      if bitAt (ws.getD 0 0) 0 then p.scanStart g none t else p.scanDrop g
    else p)

/-! Results (R134). -/

/-- Quotient of two complex numbers given as FP32 pairs. -/
def complexDiv (a b : Word × Word) : Int × Int :=
  let x : Int × Int := (fpScaled a.1, fpScaled a.2)
  let y : Int × Int := (fpScaled b.1, fpScaled b.2)
  let m := (y.1 * y.1 + y.2 * y.2).natAbs
  (Config.round ((x.1 * y.1 + x.2 * y.2) * pu) m, Config.round ((x.2 * y.1 - x.1 * y.2) * pu) m)

/-- The phasors of a point, real and imaginary parts in FP32: V_t and I_g with site 0, I_g and V_t + U_1 with site 1. -/
structure ScanPoint where
  vt0 : Word × Word
  ig0 : Word × Word
  ig1 : Word × Word
  vu1 : Word × Word
deriving DecidableEq, Repr

/-- The phasors of point `i`, each over the four windows of its pass. -/
def ScanRun.point (r : ScanRun) (i : Nat) : ScanPoint :=
  let v : Nat → Word := fun k => corrValue (sGet (fun _ => (0, 0)) r.acc (8 * i + k)) (4 * r.n)
  { vt0 := (v 0, v 1), ig0 := (v 2, v 3), vu1 := (v 4, v 5), ig1 := (v 6, v 7) }

/-- The self-scan after a sample: past the settling window of its pass, the sample's V_t (with site 1, V_t + U_1) and I_g are
correlated at each tone of the pass (R132, R134), on the axis that the generator acts on (log entry 62). -/
def Part.scanCorrelate (p : Part) (g : Grp) : Part :=
  let c := p.cg g
  match c.scan.run, c.probe.site with
  | some r, some site =>
    let q := (r.k - 1) / (5 * r.n)
    let k := (r.k - 1) % (5 * r.n)
    if r.k = 0 || 1 < site || k < r.n then p
    else
      let m := c.grid.meas
      let v := toFp (m.vt.1 + (if site = 1 then ofFp c.probe.g else 0))
      let i := toFp m.ig.1
      let acc := (r.tones q).zipIdx.foldl (fun acc e =>
        let key := 8 * (32 * (q % 3) + e.2) + 4 * site
        let acc := if k = r.n then (List.range 4).foldl (fun a j => sErase a (key + j)) acc else acc
        let (co, si) := corrPhase e.1 k r.n
        corrAdd (corrAdd (corrAdd (corrAdd acc key v co) (key + 1) v (fpNeg si)) (key + 2) i co) (key + 3) i (fpNeg si)) r.acc
      p.onCg g (fun c => { c with scan := { c.scan with run := some { r with acc := acc } } })
  | _, _ => p

/-- What a scan gives at a point: f in Hz, Z_g = V_t/I_g and Y_c = −I_g/(V_t + U_1). -/
structure ScanResult where
  f : Int
  z : Int × Int
  y : Int × Int
deriving DecidableEq, Repr

/-- The result at a bin from the phasors correlated there. -/
def scanResult (bin nn : Nat) (ts : Int × Nat) (x : ScanPoint) : ScanResult :=
  let y := complexDiv x.ig1 x.vu1
  { f := Config.round (bin * ts.2 * pu) (nn * ts.1.toNat), z := complexDiv x.vt0 x.ig0, y := (-y.1, -y.2) }

/-- Five FP32 words of a point. -/
def ScanResult.bytes (r : ScanResult) : List Byte :=
  ([r.f, r.z.1, r.z.2, r.y.1, r.y.2] : List Int).flatMap (fun v => bytesOf 4 (toFp v).toNat)

/-! Retunes (R128, R135). -/

/-- The vertex of the parabola through three points; the first of them where there is none. -/
def vertex (a b c : Int × Int) : Int :=
  let n := (b.1 - a.1) ^ 2 * (b.2 - c.2) - (b.1 - c.1) ^ 2 * (b.2 - a.2)
  let d := (b.1 - a.1) * (b.2 - c.2) - (b.1 - c.1) * (b.2 - a.2)
  if d = 0 then a.1 else b.1 - Config.round (if d < 0 then -n else n) (2 * d.natAbs)

/-- Points by falling |Z_g|; of two as high the earlier stands first, or with `late` the later (the spec does not say). -/
def byHeight (late : Bool) (l : List ScanResult) : List ScanResult :=
  (if late then l.reverse else l).mergeSort (fun a b => decide (qLen b.z ≤ qLen a.z))

/-- The peak of |Z_g| among points: by parabola over the three highest, or the highest of fewer. -/
def scanPeak (late : Bool) (l : List ScanResult) : Option Int :=
  let pts := (byHeight late l).map (fun r => (r.f, qLen r.z))
  match pts with
  | a :: b :: c :: _ => some (vertex a b c)
  | a :: _ => some a.1
  | [] => none

/-- The five coefficients of a section of a coefficient bank: b0, b1, b2, a1, a2. -/
def sectionWords (img : WordFile) (bank sec : Nat) : List Int :=
  (List.range 5).map (fun i => ofFp (imgWord img (0x68000 + 4096 * bank + 4 * (5 * sec + i))))

/-- The centre of a notch section in Hz: the angle whose cosine is −a1 / (2·r_p). -/
def notchCentre (cs : List Int) (ts : Int × Nat) : Int :=
  let rp := qSqrt (cs.getD 4 0)
  let co := qDiv (-(cs.getD 3 0)) (2 * rp)
  let si := qSqrt (pu - qMul co co)
  Config.round ((angleOf (co, si)).toNat * ts.2 * pu) (2 ^ 32 * ts.1.toNat)

/-- A notch section at a new centre, its r_z and r_p kept (R128). -/
def notchAt (cs : List Int) (f : Int) (ts : Int × Nat) : List Int :=
  let a2 := cs.getD 4 0
  let rz2 := qDiv (cs.getD 2 0) (cs.getD 0 0)
  let rz := qSqrt rz2
  let co := Config.round ((cosSinTurn (f * ts.1) (pu.toNat * ts.2)).1 * pu) (2 ^ fixBits)
  let a1 := -2 * qMul (qSqrt a2) co
  let g := qDiv (pu + a1 + a2) (pu - 2 * qMul rz co + rz2)
  [g, -2 * qMul (qMul g rz) co, qMul g rz2, a1, a2]

/-- Put a section into every coefficient bank of an image at a new centre. -/
def retuneImage (img : WordFile) (sec : Nat) (f : Int) (ts : Int × Nat) : WordFile :=
  (List.range 16).foldl (fun w bank =>
    let cs := sectionWords img bank sec
    if cs.getD 4 0 ≤ 0 || cs.getD 0 0 = 0 then w
    else (notchAt cs f ts).zipIdx.foldl (fun w e =>
      sSet (fun _ => 0) w ((0x68000 + 4096 * bank + 4 * (5 * sec + e.2)) / 4) (toFp e.1)) w) img

/-- The moves of the tracked notches after a scan: section, old centre and new centre in Hz. -/
def Part.notchMoves (p : Part) (g : Grp) (ws : List Word) (late : Bool) (l : List ScanResult) : List (Nat × Int × Int) :=
  let w : Nat → Int := fun i => ofFp (ws.getD i 0)
  (List.range 4).filterMap (fun t =>
    let i := 12 + 4 * t
    let sec := (ws.getD i 0xFF).toNat
    let cs := sectionWords (p.cg g).img (p.fld (Reg.CLE_REGION g.ix) 4 4) sec
    let at_ := notchCentre cs (p.tsSec g)
    match scanPeak late (l.filter (fun r => w (i + 1) ≤ r.f && r.f ≤ w (i + 2))) with
    | some f =>
      if 64 ≤ sec || cs.getD 4 0 ≤ 0 || (f - at_).natAbs * pu.toNat ≤ (w 5 * at_).natAbs then none
      else
        let step := w (i + 3)
        some (sec, at_, max (w (i + 1)) (min (w (i + 2)) (at_ + max (-step) (min step (f - at_)))))
    | none => none)

/-- RV after a scan: up while Re Y_c at the highest peak is negative, down while it exceeds 0.05 pu (R135). -/
def scanRv (ws : List Word) (rv : Int) (late : Bool) (l : List ScanResult) : Int :=
  let step := pu / 200
  let lo := ofFp (ws.getD 6 0)
  let hi := ofFp (ws.getD 7 0)
  match byHeight late l with
  | [] => rv
  | r :: _ =>
    if r.y.1 < 0 then (if rv < hi then min hi (rv + step) else rv)
    else if pu / 20 < r.y.1 then (if lo < rv then max lo (rv - step) else rv)
    else rv

/-- The retune log holds 32 entries, one for each section moved; a record of several sections counts as many. -/
def trimLog (n : Nat) : List Retune → List Retune
  | [] => []
  | x :: l => if n + max 1 x.moves.length ≤ 32 then x :: trimLog (n + max 1 x.moves.length) l else []

/-- A coefficient exchange that carries RV is armed for the next tick, and logged (R135, R140). -/
def Part.armRetune (p : Part) (g : Grp) (img : WordFile) (rv : Word) (x : Retune) : Part :=
  let z : Nat → Word := fun _ => 0
  let img := (List.range 8).foldl (fun w m => sSet z w ((0x40 + 8 * m) / 4) (if m = 0 then 5 else 0xFFFFFFFF)) img
  let img := sSet z img (0x44 / 4) rv
  let p := p.onCg g (fun c => { c with exch := some { img := img, coefOnly := true, at? := none } })
  let p := ((p.setFld (Reg.CLE_XSTAT g.ix) 0 4 4).gapArm g).showGroup g
  (p.onScan g (fun s => { s with log := trimLog 0 (x :: s.log) })).logEvent .retune [g.ix, x.moves.length]

/-- Coefficient words of an image, to be restored by a revert. -/
def coefOf (img : WordFile) : WordFile := img.filter (fun e => 0x68000 / 4 ≤ e.1 && e.1 < 0x78000 / 4)

/-- An image with other coefficient words. -/
def withCoef (img coef : WordFile) : WordFile :=
  img.filter (fun e => e.1 < 0x68000 / 4) ++ coef ++ img.filter (fun e => 0x78000 / 4 ≤ e.1)

/-- The retune after a complete scan, where RETUNE or RVTUNE asks for one and it changes something. -/
def Part.retune (p : Part) (g : Grp) (ws : List Word) (late : Bool) (l : List ScanResult) : Part :=
  let flags := ws.getD 0 0
  let moves := if bitAt flags 1 then p.notchMoves g ws late l else []
  let rvOld := p.reg (Reg.CLE_PW g.ix 5)
  let rv := if bitAt flags 2 then toFp (scanRv ws (ofFp rvOld) late l) else rvOld
  if (moves.isEmpty && rv = rvOld) || (p.cg g).exch.isSome then p
  else
    let old := (p.cg g).img
    let img := moves.foldl (fun w m => retuneImage w m.1 m.2.2 (p.tsSec g)) old
    p.armRetune g img rv { time := p.ringNow, moves := moves.map (fun m => (m.1, toFp m.2.1, toFp m.2.2)), rvOld := rvOld,
                           rvNew := rv, coefOld := coefOf old }

/-- SCAN_COMPLETE: the last pass has ended; the points are published, and the retune is made (R134, R135). -/
def Part.scanComplete (p : Part) (g : Grp) (late : Bool) (t : Instant) : Part :=
  match (p.cg g).scan.run with
  | none => p
  | some r =>
    if r.k < 30 * r.n || (p.cg g).open_ then p
    else
      let l := r.bins.zipIdx.map (fun e => scanResult e.1 r.n (p.tsSec g) (r.point e.2))
      let p := (p.at t).onScan g (fun s => { s with run := none })
      let p := p.onCg g (fun c => { c with probe := { c.probe with site := none, g := 0 } })
      let p := match r.op with
        | some k =>
          let p := p.opResult k (l.flatMap (fun (r : ScanResult) => r.bytes))
          if p.opState k = 2 then p.opDone k else p
        | none => p
      p.retune g r.ws late l

/-- SCAN_COMPLETE. -/
def execScanComplete (g : Grp) (late : Bool) (t : Instant) (s : State) := s.run (·.scanComplete g late t)

/-- SCAN_CMD is taken: it clears, and the retunes that `which` names of the log are reverted by one exchange, to the set
before the oldest of them. -/
def Part.scanRevert (p : Part) (g : Grp) (cmd : Nat) : Part :=
  let a := scanBase g + 0x20
  let log := (p.cg g).scan.log
  let live := log.filter (fun x => !x.revert && !x.undone)
  let x := if cmd = 1 then live.head? else (log.filter (fun x => !x.revert)).getLast?
  if (p.loadWord a).toNat ≠ cmd || (p.cg g).exch.isSome || !p.gridRuns g then p
  else
    let p := p.storeBytes a [0, 0, 0, 0]
    match x with
    | none => p
    | some x =>
      let off : Retune → Retune := fun y => if cmd = 2 || y = x then { y with undone := true } else y
      let p := p.onScan g (fun s => { s with log := s.log.map off })
      let img := withCoef (p.cg g).img x.coefOld
      p.armRetune g img x.rvOld { time := p.ringNow, moves := x.moves.map (fun m => (m.1, m.2.2, m.2.1)),
                                  rvOld := p.reg (Reg.CLE_PW g.ix 5), rvNew := x.rvOld, coefOld := coefOf (p.cg g).img, revert := true }

/-- SCAN_REVERT_LAST: SCAN_CMD 0x01. -/
def execScanRevertLast (g : Grp) (t : Instant) (s : State) := s.run (fun p => (p.at t).scanRevert g 1)

/-- SCAN_REVERT_ALL: SCAN_CMD 0x02. -/
def execScanRevertAll (g : Grp) (t : Instant) (s : State) := s.run (fun p => (p.at t).scanRevert g 2)

end Sys2Proof.Machine
end

