-- ==== Sys2Proof/Machine/LongOp.lean ====
section
/-! DEFINITION. Long operations (R332 to R334, Table 11.12): the writes of OP_CMD and OP_CTL, what each operation does, and
how it ends. -/

namespace Sys2Proof.Machine

/-! Ends and results. -/

/-- The operation of a slot has done its work and ends at LONG_OPERATION_COMPLETE, DONE where both numbers are 0, else
FAILED with GERR and ERR. -/
def Part.opWaits (p : Part) (k gerr err : Nat) : Part := p.setOp k { p.op k with facts := [gerr, err] }

/-- A result that an operation begins with: refused with GERR 0x2 where OP_RBUF does not lie as R334 asks. -/
def Part.opGives (p : Part) (k : Nat) (bs : List Byte) : Part :=
  if !p.opBufOk k 0 then p.opFail k 2 0
  else
    let q := p.opResult k bs
    if q.opState k = 2 then q.opWaits k 0 0 else q

/-! IMAGE_VERIFY and IMAGE_ACTIVATE (R295, R424). -/

/-- IMAGE_VERIFY of an image slot: signature, stepping, task table and output ownership. -/
def Part.opVerify (p : Part) (k : Nat) : Part :=
  let slot := bits (p.opArg k 0) 0 1
  let (d, sig) := p.areaSigned (cycSlotBase slot) 0x800000
  let img := p.cycImageAt slot
  let err := if !p.signedOk d sig then 1 else if img.step ≠ 0xB1 then 2 else (imageFault img).getD 0
  let p := p.onCyc (fun c => { c with
    verified := (if err = 0 then [slot] else []) ++ c.verified.filter (fun n => n ≠ slot) })
  p.opWaits k (if err = 0 then 0 else 7) err

/-- IMAGE_ACTIVATE of an image slot: ONLINE checks the change and starts the pre-copy; without it the slot becomes the
active one while the runtime does not run. The image must have been verified. -/
def Part.opActivate (p : Part) (k : Nat) : Part :=
  let slot := bits (p.opArg k 0) 0 1
  let (d, _) := p.areaSigned (cycSlotBase slot) 0x800000
  if !p.cyc.verified.contains slot then p.opFail k 2 0
  else if bitAt (p.opArg k 1) 0 then
    if p.cyc.change.isSome then p.opFail k 7 0x16
    else if !p.cycRuns then p.opFail k 3 0
    else if slot = p.cycSlot then p.opFail k 2 0
    else
      let img := p.cycImageAt slot
      match changeFault p.cyc.img img with
      | some e => p.opFail k 7 e
      | none =>
        let x : CycChange := { img := img, slot := slot, op := k, since := p.ringNow }
        let p := (p.onCyc (fun c => { c with change := some x })).setCycState 2
        (p.setFld Reg.CYC_IMGID 0 16 img.id).measure 4 d
  else if p.cycRuns then p.opFail k 3 0
  else ((p.setFld Reg.CYC_STAT 25 1 slot).measure 4 d).opWaits k 0 0

/-! FIGURE_EXCHANGE (R138 to R143). -/

/-- An exchange fails: XSTAT and the operation show the code of Table 4.9. -/
def Part.exchFail (p : Part) (k : Nat) (g : Grp) (err : Nat) : Part :=
  (((p.setFld (Reg.CLE_XSTAT g.ix) 8 8 err).setFld (Reg.CLE_XSTAT g.ix) 0 4 7).opFail k 7 err).showGroup g

/-- Whether an exchange for a ring time is armed too late: the decision on its tick, or its tick itself, has passed (R139). -/
def Part.exchLate (p : Part) (g : Grp) (x : Instant) : Bool :=
  let last := if (p.cg g).open_ then (p.cg g).t0 else p.nextUpdate g
  p.groupRuns g && p.tbRuns g && (x : Int) ≤ (last : Int) + p.time.off

/-- A figure is loaded for an exchange: a FULL one writes its instruction bank into the inactive bank of every lane that
serves the group (R138 step 4). -/
def Part.loadFigure (p : Part) (g : Grp) (img : WordFile) (coef : Bool) : Part :=
  if coef then p else p.each (p.serving g) (fun p n => p.onLane n (fun l => l.loadCode img (1 - p.activeBank g)))

/-- FIGURE_EXCHANGE; arguments 4 to 6 are XSRC and XTIME as they stood when OP_CMD was written. -/
def Part.opExchange (p : Part) (k : Nat) : Part :=
  let arg := p.opArg k
  let g : Grp := if bitAt (arg 0) 0 then .B else .A
  let src := arg 4
  let fig := bits src 0 1
  let kind := bits src 4 2
  let coef := decide (kind = 1)
  let xt := p.ringFull (arg 6).toNat (arg 5).toNat
  if arg 0 >>> 1 ≠ 0 || arg 1 ≠ 0 || arg 2 ≠ 0 || arg 3 ≠ 0 || 2 ≤ kind || 1000000000 ≤ (arg 5).toNat then p.opFail k 2 0
  else
    let img := p.readImage (figSlotBase fig)
    let ts := p.tsUnits g
    let p := (p.setReg (Reg.CLE_XSTAT g.ix) 0).setFld (Reg.CLE_XSTAT g.ix) 16 16 (bits (imgWord img 8) 0 16)
    if !p.figSigned fig then p.exchFail k g 1
    else if bits (imgWord img 0x0C) 0 8 ≠ 0xB1 then p.exchFail k g 2
    else match loaderCheck img coef ts with
      | some (e, d) =>
        let p := match d with
          | some w => if p.opBufOk k 4 then p.opResult k (bytesOf 4 w.toNat) else p
          | none => p
        p.exchFail k g e
      | none =>
        let late := if arg 5 = 0 && arg 6 = 0 then false else p.exchLate g xt
        -- the set that WITH_COMMIT moves is checked against the figure that will then be in force
        let next := if coef then p else p.onCg g (·.withImage img)
        let bad := if bitAt src 8 then next.unitCheck [.cle g] (.cle g) else none
        if coef && !(p.cg g).loaded then p.exchFail k g 9
        else if late then p.exchFail k g 8
        else match bad with
          | some (c, o) =>
            (p.setReg (Reg.CLE_CSTAT g.ix) (cstatWord (p.fld (Reg.CLE_CSTAT g.ix) 24 8) c o 3)).exchFail k g 0x0A
          | none =>
            let x : Exchange :=
              { img := img, coefOnly := coef, at? := if arg 5 = 0 && arg 6 = 0 then none else some xt,
                commit := if bitAt src 8 then some (p.snapOf (.cle g)) else none, op := some k, fig := fig }
            let p := (p.loadFigure g img coef).onCg g (fun c => { c with exch := some x })
            (((p.setFld (Reg.CLE_XSTAT g.ix) 0 4 4).measure (5 + fig) (p.figDigest fig)).gapArm g).showGroup g

/-! RECORD_READ and ADMITTANCE_SCAN (R133, R386). -/

/-- RECORD_READ of a record: held by the slot until RELEASE. -/
def Part.opRecord (p : Part) (k : Nat) : Part :=
  let id := p.opArg k 0
  let a := p.pair (Reg.OP_RBUF_LO k)
  let len := p.fld (Reg.OP_RLEN k) 0 24
  let hits := [0, 1].any (fun u =>
    let (lo, hi) := capRegion p.reg u
    p.capOn u && a < 0x30000000 + hi && 0x30000000 + lo < a + len)
  let isOpen := [0, 1].any (fun u => (p.capUnit u).rcd.isSome
    && id = BitVec.ofNat 32 (u * 2 ^ 31 + (p.capUnit u).seq % 2 ^ 24))
  if hits then p.opFail k 2 0
  else match p.record? id with
    | none => p.opFail k 7 (if isOpen then 2 else 1)
    | some r =>
      let src := if r.buf.isSome then r.addr else r.emram.getD r.addr
      let nch := bits (p.loadWord (src + 8)) 0 6 + 1
      let n := if bitAt (p.opArg k 1) 0 then 256 + 224 * nch else r.size
      (p.onRecord id (fun r => { r with holds := k :: r.holds.filter (fun s => s ≠ k) })).opGives k (p.loadBytes src n)

/-- ADMITTANCE_SCAN on the group that runs the grid figure. -/
def Part.opScan (p : Part) (k : Nat) : Part :=
  match [Grp.A, Grp.B].find? (fun g => p.groupRuns g && p.gridRuns g) with
  | none => p.opFail k 3 0
  | some g =>
    match scanFault (p.scanWords g) (p.reg (Reg.CLE_INJAMAX g.ix)) with
    | some e => p.opFail k 7 e
    | none => if p.opBufOk k 0 then p.scanStart g (some k) p.now else p.opFail k 2 0

/-! BIST and SCRUB (R273, R416). -/

/-- What a BIST finds of a unit: `none` for a number that no unit of the class has; else whether it is in service, and
whether it can be tested. Core pairs are numbered by slot, 3 the reserve; ring lanes 2 × port + lane, 4 + port the
reserves. -/
def Part.bistUnit (p : Part) (cls n : Nat) : Option (Bool × Bool) :=
  match cls with
  | 1 =>
    let s := p.laneState n
    if 8 ≤ n then none else some (s = 1 || s = 2 || s = 5, s = 4)
  | 2 => if n < 3 then some (p.slotPair n < 4, false) else if n = 3 then some (false, p.slotPair 3 < 4) else none
  | 4 =>
    if n < 4 then some (p.fld (Reg.RING_PSTAT (n / 2)) 20 2 ≠ n % 2 + 1, false)
    else if n < 6 then
      let used := p.fld (Reg.RING_PSTAT (n - 4)) 20 2 ≠ 0
      some (used, !used && !p.unitRetired 4 n)
    else none
  | 5 =>
    if n < 24 then some (p.sdRuns n && !p.bit (Reg.SENSE_STAT n) 25, false)
    else if n < 28 then some (p.rsvState (n - 24) = 2, p.idleRsv 5 (n - 24)) else none
  | 6 =>
    if n < 48 then some ((p.legOfPair (n / 2)).isSome && !p.bit (Reg.GATE_CHSTAT n) 30, false)
    else if n < 56 then some ((p.gateSwap (n - 48)).phase ≠ .idle, p.idleRsv 6 (n - 48)) else none
  | 7 =>
    if n < 12 then some (p.pcOn n, false)
    else if n < 14 then some (p.bit (Reg.PROT_RSVMAP (n - 12)) 31, p.idleRsv 7 (n - 12)) else none
  | _ => none

/-- The units that a BIST names. -/
def Part.bistUnits (p : Part) (k : Nat) : List Nat := setPositions 32 (p.opArg k 1).toNat

/-- The units of a class that are numbered from 0 in a mask: a mask of 32 bits reaches the reserve gate channels from
GT48 up. -/
def bistBase (cls : Nat) : Nat := if cls = 6 then 24 else 0

/-- BIST: a named unit in service fails it. -/
def Part.opBist (p : Part) (k : Nat) : Part :=
  let cls := (p.opArg k 0).toNat
  let us := (p.bistUnits k).map (fun n => p.bistUnit cls (n + bistBase cls))
  if us.any Option.isNone then p.opFail k 2 0
  else if us.any (fun u => u.any (·.1)) then p.opFail k 7 5
  else if p.opBufOk k 0 then p.opWaits k 0 0 else p.opFail k 2 0

/-- A unit failed its test: it is retired. -/
def Part.bistRetire (p : Part) (cls n : Nat) : Part :=
  match cls with
  | 1 => (p.setFld (Reg.CLE_LSTAT n) 12 4 4).retireLane n 1
  | 2 => p.pairRetire (p.slotPair n) 1
  | _ => p.retireUnit cls n 1

/-- The end of a BIST: one byte per unit, 0 passed, 1 failed and retired, 2 not tested. -/
def Part.bistDone (p : Part) (k : Nat) (fails : BitVec 32) : Part :=
  let cls := (p.opArg k 0).toNat
  let ns := (p.bistUnits k).map (fun n => (n + bistBase cls, fails.getLsbD n))
  let can := fun (n : Nat) => (p.bistUnit cls n).any (fun u => u.2 && !u.1)
  let bytes : List Byte := ns.map (fun e => if !can e.1 then 2 else if e.2 then 1 else 0)
  (p.each (ns.filter (fun e => can e.1 && e.2)) (fun p e => p.bistRetire cls e.1)).opResult k bytes

/-! CAL_WRITE, HEALTH_REPORT and ATTEST (R419, R421, R428). -/

/-- CAL_WRITE up to its staging page: the checks, the process-monitor baselines of the page in force, and GEN. -/
def Part.opCal (p : Part) (k : Nat) : Part :=
  let a := (p.opArg k 0).toNat
  let pg := p.loadBytes a 0x10000
  let w := fun (l : List Byte) (o n : Nat) => numOf ((l.drop o).take n)
  let gen := (p.loadWord (calBase + 0x10)).toNat
  if a % 4096 ≠ 0 || a < 0x10000000 || 0x10800000 < a + 0x10000 then p.opFail k 2 0
  else if w pg 0 4 ≠ 0x5456434C || w pg 4 4 ≠ 1 then p.opFail k 7 1
  else if !calCrcOk pg then p.opFail k 7 2
  else if (p.opArg k 1).toNat ≠ gen then p.opFail k 7 3
  else if w pg 8 8 ≠ p.uid.toNat then p.opFail k 7 4
  else
    let base := (List.range 16).map (fun m => (0x340 + 8 * m, p.loadBytes (calBase + 0x340 + 8 * m) 4))
    let pg := base.foldl (fun l e => l.take e.1 ++ e.2 ++ l.drop (e.1 + 4)) pg
    let crc := crc32c ((pg.drop 0x40).take 0xFFC0)
    let pg := pg.take 0x10 ++ bytesOf 4 (gen + 1) ++ (pg.drop 0x14).take 0x28 ++ bytesOf 4 crc ++ pg.drop 0x40
    let p := p.emStore calStage pg
    { p with health := { p.health with calStaged := true } }.opWaits k 0 0

/-- CAL_WRITE from its staging page on: the copy, the clearing, and the new trims. -/
def Part.calDone (p : Part) : Part :=
  let p := p.emStore calBase (p.loadBytes calStage 0x10000)
  let p := p.emStore calStage (List.replicate 0x10000 0)
  let p := { p with health := { p.health with calStaged := false, calBad := false } }
  p.loadTrims.measure 7 (sha3 (p.loadBytes calBase 0x10000))

/-! RESERVE_SWAP (R415, Table 16.3). -/

/-- The reserve that a request takes in place of a unit, or its error 0x01, 0x02 or 0x03; `r` is 0xFF for the first free
one allowed. -/
def Part.swapReserve (p : Part) (cls unit r : Nat) : Except Nat Nat :=
  let first : Option Nat → Except Nat Nat := fun o => match o with
    | some r => .ok r
    | none => .error 2
  match cls with
  | 1 =>
    let g := p.laneGrp unit
    if 8 ≤ unit then .error 1
    else if r = 0xFF then first (p.freeLane g)
    else if 8 ≤ r || (r < 6 && r / 3 ≠ g.ix) || r = unit then .error 1
    else if 6 ≤ r && !p.bit (Reg.CLE_RSVPOL g.ix) (r - 6) then .error 3
    else if p.laneState r ≠ 4 then .error 2 else .ok r
  | 2 =>
    if 3 ≤ unit || (4 ≤ r && r ≠ 0xFF) then .error 1
    else if 4 ≤ p.slotPair 3 || (r ≠ 0xFF && r ≠ p.slotPair 3) then .error 2 else .ok (p.slotPair 3)
  | 3 =>
    let o := 1 - p.pllServes
    if unit ≠ 0 || (r ≠ 0xFF && r ≠ o) then .error 1 else if p.pllReady then .ok o else .error 2
  | 4 =>
    let q := unit / 2
    if 4 ≤ unit || (r ≠ 0xFF && r ≠ 4 + q) then .error 1
    else if p.fld (Reg.RING_PSTAT q) 20 2 ≠ 0 || p.unitRetired 4 (4 + q) || !p.bit (Reg.RING_PSTAT q) 26 then .error 2
    else .ok (4 + q)
  | 5 =>
    let fits := fun (i : Nat) => p.rsvAllowed 5 i && p.rsvTarget i = unit
    if 24 ≤ unit then .error 1
    else if r = 0xFF then first (((List.range 4).find? (fun i => fits i && p.idleRsv 5 i)).map (24 + ·))
    else if r < 24 || 28 ≤ r then .error 1
    else if !fits (r - 24) then .error 3 else if p.idleRsv 5 (r - 24) then .ok r else .error 2
  | 6 =>
    let fits := fun (i : Nat) => p.rsvAllowed 6 i && p.fld (Reg.GATE_RSVMAP i) 0 6 = unit
    if 48 ≤ unit then .error 1
    else if r = 0xFF then first ((p.gateReserve unit).map (48 + ·))
    else if r < 48 || 56 ≤ r then .error 1
    else if !fits (r - 48) then .error 3 else if p.idleRsv 6 (r - 48) then .ok r else .error 2
  | 7 =>
    if 12 ≤ unit then .error 1
    else if r = 0xFF then first (([0, 1].find? (p.idleRsv 7)).map (12 + ·))
    else if r < 12 || 14 ≤ r then .error 1
    else if p.idleRsv 7 (r - 12) then .ok r else .error 2
  | _ => .error 1

/-- Whether a unit is in service (Table 16.3, 0x05); a lane that has left a group in DUPLEX counts as one, since the
request restores the third lane (R117). -/
def Part.swapServes (p : Part) (cls unit : Nat) : Bool :=
  match cls with
  | 1 => p.laneState unit = 1 || (p.gmode (p.laneGrp unit) = 2)
  | 2 => p.slotPair unit < 4 && !p.slotWaits unit
  | 3 => !p.bypass
  | 5 => p.sdRuns unit && !p.bit (Reg.SENSE_STAT unit) 25
  | 6 => (p.legOfPair (unit / 2)).isSome && !p.bit (Reg.GATE_CHSTAT unit) 30
  | 7 => p.pcOn unit
  | _ => true

/-- The resource of a RESERVE_SWAP: the reserve it would take. -/
def Part.swapRes (p : Part) (a : Word) : Nat :=
  let cls := bits a 24 8
  match p.swapReserve cls (bits a 8 8) (bits a 0 8) with
  | .ok r => resRsv cls r
  | .error _ => resRsv cls (bits a 0 8)

/-- RESERVE_SWAP. -/
def Part.opSwap (p : Part) (k : Nat) : Part :=
  let a := p.opArg k 0
  let cls := bits a 24 8
  let unit := bits a 8 8
  let retire := bitAt (p.opArg k 1) 0
  match p.swapReserve cls unit (bits a 0 8) with
  | .error e => p.opFail k 7 e
  | .ok r =>
    let g := p.laneGrp unit
    -- a lane that has left its group: the group has two lanes, and the swap gives it a third
    let third := decide (cls = 1) && p.laneState unit ≠ 1
    let blocked := if third then
        (List.range 8).any (fun n => p.laneState n = 5) || (p.cg .A).exch.isSome || (p.cg .B).exch.isSome
          || p.pair_.heldLane.isSome || p.swapRuns 1
      else p.swapBlocked cls unit
    if !p.swapServes cls unit then p.opFail k 7 5
    else if blocked then p.opFail k 7 6
    else match cls with
      | 1 =>
        p.startLoad g { lane := r, unit := unit, cause := 5, leaving := if third then none else some retire, slot := some k }
      | 2 => (p.pairExchange unit 5 retire).opDone k
      | 3 => (p.pllSwap 5 retire).opDone k
      | 4 =>
        let p := (p.setFld (Reg.RING_PSTAT (unit / 2)) 20 2 (unit % 2 + 1)).ringEvt 8
        (p.noteSwap 4 unit r 5).swapDone 4 unit (some k)
      | 5 => p.setSdRsv (r - 24) { p.sdRsv (r - 24) with req := some (0, some k) }
      | 6 => p.gateSwapStart (r - 48) 5 (some k) p.now
      | _ => p.protMap (r - 12) (BitVec.ofNat 32 (2 ^ 31 + unit)) p.now

/-! SAFETY_CONFIG (R406). -/

/-- SAFETY_CONFIG up to AWAITKEY: 4 KiB of table with its signature behind it. -/
def Part.opSafety (p : Part) (k : Nat) (t : Instant) : Part :=
  let a := (p.opArg k 0).toNat
  let bs := p.loadBytes a (0x1000 + sigBytes)
  let tab := bs.take 0x1000
  let sto := [0, 1].all (fun c => (p.sch c).sto)
  if a < 0x10000000 || 0x10800000 < a + bs.length || !p.opBufOk k 16 then p.opFail k 2 0
  else if !sto then p.opFail k 7 3
  else if !p.ownerSigned (sha3 tab) (bs.drop 0x1000) then p.opFail k 7 1
  else if !tableCrcOk tab then p.opFail k 7 2
  else match tableFault (tableWords tab 1024) with
    | some o => (p.opResult k (bytesOf 4 o)).opFail k 7 4
    | none =>
      let w := tableWords tab 16
      let crc := bytesOf 4 (tabWord w 0x3C).toNat
      let q := p.opResult k (crc ++ crc ++ bytesOf 4 (tabWord w 8).toNat ++ bytesOf 4 0)
      if q.opState k ≠ 2 then q
      else { q with safe := { q.safe with load := some (tab, k, t) } }.setFld Reg.SAFE_STAT 27 2 2

/-! Slots (R332). -/

/-- The resource that an operation names (Table 11.12); for a code that names no operation there is none. -/
def Part.opResource (p : Part) (k : Nat) : Option Nat :=
  let a := p.opArg k 0
  match (p.op k).code with
  | 0x01 | 0x02 => some (resOf 1 (bits a 0 1))
  | 0x03 => some (resOf 3 (bits a 0 1))
  | 0x04 => some (resOf 4 a.toNat)
  | 0x05 => ([Grp.A, Grp.B].find? (fun g => p.groupRuns g && p.gridRuns g)).map (fun g => resOf 3 g.ix)
  | 0x06 => some (resOf 6 (a.toNat % 256 * 2 ^ 32 + (p.opArg k 1).toNat))
  | 0x07 => some (resOf 7 (bits a 0 1))
  | 0x08 | 0x09 | 0x0A => some (resOf 8 0)
  | 0x0B => some (p.swapRes a)
  | 0x0C => some (resOf 0x0C 0)
  | 0x0D => some (resOf 0x0D 0)
  | _ => none

/-- Whether two resources are one: the same, or masks of units of one class that share a unit. -/
def resClash (a b : Nat) : Bool :=
  a = b || (a / 2 ^ 32 = b / 2 ^ 32 && a / 2 ^ 40 = 6 && (a % 2 ^ 32 &&& b % 2 ^ 32) ≠ 0)

/-- Whether the resource of a slot is held: by a running slot, by a swap that the reserve manager makes (R414), or, for a
CLE group, by an exchange of the self-scan. -/
def Part.opBlocked (p : Part) (k : Nat) : Bool :=
  match p.opResource k with
  | none => false
  | some r =>
    (List.range 8).any (fun j => j ≠ k && p.opState j = 2 && ((p.op j).res.map (resClash r)).getD false)
      || ((p.op k).code = 3 && (p.cg (if bitAt (p.opArg k 0) 0 then .B else .A)).exch.isSome)
      || ((p.op k).code = 0x0B && ((List.range 8).any (fun n => p.laneState n = 5 && r = resRsv 1 n)
        || (List.range 4).any (fun n => (p.sdRsv n).req.isSome && r = resRsv 5 (24 + n))
        || (List.range 8).any (fun n => ((p.gateSwap n).phase = .compare || (p.gateSwap n).phase = .selected)
          && r = resRsv 6 (48 + n))))

/-- The operation of a slot starts. -/
def Part.opStart (p : Part) (k : Nat) (t : Instant) : Part :=
  let p := (p.setOp k { p.op k with res := p.opResource k, facts := [] }).setOpState k 2
  match (p.op k).code with
  | 0x01 => p.opVerify k
  | 0x02 => p.opActivate k
  | 0x03 => p.opExchange k
  | 0x04 => p.opRecord k
  | 0x05 => p.opScan k
  | 0x06 => p.opBist k
  | 0x07 => p.opWaits k 0 0
  | 0x08 => p.opCal k
  | 0x09 => p.opGives k (p.healthReport (bits (p.opArg k 0) 0 2))
  | 0x0A => p.opGives k (p.attest ((List.range 4).flatMap (fun i => bytesOf 4 (p.opArg k i).toNat)))
  | 0x0B => p.opSwap k
  | 0x0C => if p.bit Reg.RING_STAT 30 then p.promStart else p.opFail k 3 0
  | 0x0D => p.opSafety k t
  | _ => p.opFail k 1 0

/-- A write of OP_CMD: ignored with CMDBUSY where the slot is not FREE; else the operation starts, or waits in QUEUED. -/
def Part.opCmd (p : Part) (k code tag : Nat) (t : Instant) : Part :=
  let p := (p.at t).irq 60
  if p.opState k ≠ 0 then p.setBit Reg.HOST_ERR 29 true
  else
    let g := (p.reg (Reg.OP_ARG k 0)).toNat % 2
    let args := (List.range 4).map (fun i => p.reg (Reg.OP_ARG k i))
      ++ [p.reg (Reg.CLE_XSRC g), p.reg (Reg.CLE_XTIME_LO g), p.reg (Reg.CLE_XTIME_HI g)]
    let p := p.setOp k { code := code, args := args, order := p.opCount }
    let p := { p with opCount := p.opCount + 1 }
    let p := (p.setReg (Reg.OP_STATUS_LO k) (BitVec.ofNat 32 (2 ^ 28))).setReg (Reg.OP_STATUS_HI k)
      (BitVec.ofNat 32 (tag % 256 * 2 ^ 24))
    if p.opBlocked k then p else p.opStart k t

/-- A queued operation starts once its resource is free and no earlier one waits for the same. -/
def Part.opDequeue (p : Part) (k : Nat) (t : Instant) : Part :=
  let earlier := (List.range 8).any (fun j => p.opState j = 1 && (p.op j).order < (p.op k).order
    && (match p.opResource j, p.opResource k with
      | some a, some b => resClash a b
      | _, _ => false))
  if p.opState k = 1 && !p.opBlocked k && !earlier then (p.at t).opStart k t else p

/-- What a cancelled operation leaves undone; `false` where its safe point has passed. -/
def Part.opUndo (p : Part) (k : Nat) : Part × Bool :=
  match (p.op k).code with
  | 0x02 =>
    match p.cyc.change with
    | some _ => (p.changeAbort 0, true)
    | none => (p, true)
  | 0x03 =>
    let g : Grp := if bitAt (p.opArg k 0) 0 then .B else .A
    match (p.cg g).exch with
    | some x =>
      if x.ready then (p, false)
      else (((p.onCg g (fun c => { c with exch := none })).setFld (Reg.CLE_XSTAT g.ix) 8 8 0x0B).setFld (Reg.CLE_XSTAT g.ix) 0 4 7
        |>.showGroup g, true)
    | none => (p, true)
  | 0x05 => (p.each [Grp.A, Grp.B] (fun p g =>
      if (p.cg g).scan.run.any (fun r => r.op = some k) then p.scanDrop g else p), true)
  | 0x08 => ({ p with health := { p.health with calStaged := false } }.emStore calStage (List.replicate 0x10000 0), true)
  | 0x0B =>
    let p := p.each [Grp.A, Grp.B] (fun p g => if (p.cg g).load.any (fun x => x.slot = some k) then p.abandonLoad g else p)
    let p := p.each (List.range 4) (fun p r =>
      if (p.sdRsv r).req.any (fun q => q.2 = some k) then p.setSdRsv r { p.sdRsv r with req := none } else p)
    let p := p.each (List.range 8) (fun p r =>
      if (p.gateSwap r).phase = .compare && (p.gateSwap r).slot = some k then p.setGateSwap r {} else p)
    let p := p.each [0, 1] (fun p r =>
      if (p.op k).res = some (resRsv 7 (12 + r)) then p.protMap r 0 p.now else p)
    (p, !(List.range 8).any (fun r => (p.gateSwap r).slot = some k))
  | 0x0D => ({ p with safe := { p.safe with load := none } }.setFld Reg.SAFE_STAT 27 2 0, true)
  | _ => (p, true)

/-- A write of CANCEL: a queued operation, or a running one before its last safe point, ends FAILED with GERR 0x4. -/
def Part.opCancel (p : Part) (k : Nat) (t : Instant) : Part :=
  if p.opState k = 1 then (p.at t).opFail k 4 0
  else if p.opState k = 2 then
    let (q, ok) := (p.at t).opUndo k
    if ok then q.opFail k 4 0 else q
  else p

/-- A write of RELEASE: a slot that is DONE or FAILED returns to FREE and lets go of its record. -/
def Part.opRelease (p : Part) (k : Nat) : Part :=
  if p.opState k = 3 || p.opState k = 4 then
    let p := p.releaseRecords k
    ((p.setReg (Reg.OP_STATUS_LO k) 0).setReg (Reg.OP_STATUS_HI k) 0).setOp k {}
  else p

/-- LONG_OPERATION_COMPLETE: the work of a running operation ends, and its slot is DONE or FAILED. -/
def Part.opComplete (p : Part) (k : Nat) (fails : BitVec 32) (found : List EccFind) (t : Instant) : Part :=
  match (p.op k).facts with
  | [gerr, err] =>
    if p.opState k ≠ 2 then p
    else
      let p := (p.at t).setOp k { p.op k with facts := [] }
      if gerr ≠ 0 then p.opFail k gerr err
      else match (p.op k).code with
        | 0x04 =>
          let id := p.opArg k 0
          let p := p.when (!bitAt (p.opArg k 1) 0) (·.onRecord id (fun r => { r with read := true }))
          (p.when (bitAt (p.opArg k 1) 1) (·.deleteRecord id)).opDone k
        | 0x06 =>
          let q := p.bistDone k fails
          if q.opState k = 2 then q.opDone k else q
        | 0x07 => (p.scrubPass (bitAt (p.opArg k 0) 0) found).opDone k
        | 0x08 => p.calDone.opDone k
        | _ => p.opDone k
  | _ => p

/-! Rows. -/

/-- IMAGE_VERIFY: OP_CMD with code 0x01. -/
def execImageVerify (k : Fin 8) (tag : Byte) (t : Instant) (s : State) := s.run (·.opCmd k.val 0x01 tag.toNat t)

/-- IMAGE_ACTIVATE: OP_CMD with code 0x02. -/
def execImageActivate (k : Fin 8) (tag : Byte) (t : Instant) (s : State) := s.run (·.opCmd k.val 0x02 tag.toNat t)

/-- FIGURE_EXCHANGE: OP_CMD with code 0x03. -/
def execFigureExchange (k : Fin 8) (tag : Byte) (t : Instant) (s : State) := s.run (·.opCmd k.val 0x03 tag.toNat t)

/-- RECORD_READ: OP_CMD with code 0x04. -/
def execRecordRead (k : Fin 8) (tag : Byte) (t : Instant) (s : State) := s.run (·.opCmd k.val 0x04 tag.toNat t)

/-- ADMITTANCE_SCAN: OP_CMD with code 0x05. -/
def execAdmittanceScan (k : Fin 8) (tag : Byte) (t : Instant) (s : State) := s.run (·.opCmd k.val 0x05 tag.toNat t)

/-- BIST: OP_CMD with code 0x06. -/
def execBist (k : Fin 8) (tag : Byte) (t : Instant) (s : State) := s.run (·.opCmd k.val 0x06 tag.toNat t)

/-- SCRUB: OP_CMD with code 0x07. -/
def execScrub (k : Fin 8) (tag : Byte) (t : Instant) (s : State) := s.run (·.opCmd k.val 0x07 tag.toNat t)

/-- CAL_WRITE: OP_CMD with code 0x08. -/
def execCalWrite (k : Fin 8) (tag : Byte) (t : Instant) (s : State) := s.run (·.opCmd k.val 0x08 tag.toNat t)

/-- HEALTH_REPORT: OP_CMD with code 0x09. -/
def execHealthReport (k : Fin 8) (tag : Byte) (t : Instant) (s : State) := s.run (·.opCmd k.val 0x09 tag.toNat t)

/-- ATTEST: OP_CMD with code 0x0A. -/
def execAttest (k : Fin 8) (tag : Byte) (t : Instant) (s : State) := s.run (·.opCmd k.val 0x0A tag.toNat t)

/-- RESERVE_SWAP: OP_CMD with code 0x0B. -/
def execReserveSwap (k : Fin 8) (tag : Byte) (t : Instant) (s : State) := s.run (·.opCmd k.val 0x0B tag.toNat t)

/-- PROMENADE: OP_CMD with code 0x0C. -/
def execPromenade (k : Fin 8) (tag : Byte) (t : Instant) (s : State) := s.run (·.opCmd k.val 0x0C tag.toNat t)

/-- SAFETY_CONFIG: OP_CMD with code 0x0D. -/
def execSafetyConfig (k : Fin 8) (tag : Byte) (t : Instant) (s : State) := s.run (·.opCmd k.val 0x0D tag.toNat t)

/-- OP_RELEASE. -/
def execOpRelease (k : Fin 8) (s : State) := s.run (·.opRelease k.val)

/-- OP_CANCEL. -/
def execOpCancel (k : Fin 8) (t : Instant) (s : State) := s.run (·.opCancel k.val t)

/-- OP_DEQUEUE. -/
def execOpDequeue (k : Fin 8) (t : Instant) (s : State) := s.run (·.opDequeue k.val t)

/-- LONG_OPERATION_COMPLETE. -/
def execLongOperationComplete (k : Fin 8) (fails : BitVec 32) (found : List EccFind) (t : Instant) (s : State) :=
  s.run (·.opComplete k.val fails found t)

end Sys2Proof.Machine
end

