-- ==== Sys2Proof/Machine/Bus.lean ====
section
/-! DEFINITION. Reads and writes of registers and of the local address space by an initiator (R8 to R11, R24, R32, R33,
R36, R469): what a register reads as, what a write does by its access code or its own rule, 64-bit pairs, and accesses
of bytes to every region of Table 1.10. -/

namespace Sys2Proof.Machine

/-! What a register reads as. -/

/-- The index of the register at `off` in an array, if it lies in it. -/
def ixOf (base stride n off : Nat) : Option Nat :=
  if base ≤ off && (off - base) % stride = 0 && (off - base) / stride < n then some ((off - base) / stride) else none

/-- The word of a register as it stands: stored, or for the registers that show another's state computed as they are
read. -/
def Part.live (p : Part) (off : Nat) : Word :=
  let w := p.reg off
  let rtc := p.rtcNow
  match off / 0x10000 with
  | 0x0 =>
    if off = Reg.SYS_STATUS then
      putBit (putBit (putBit w 28 (p.bit Reg.SYS_DECERR 0)) 27 (p.fld Reg.CLK_SLOW 0 13 ≠ 0)) 26 p.bypass
    else w
  | 0x2 =>
    if off = Reg.PWR_STAT then p.pwrStat
    else if off = Reg.PWR_RTC_SLO then BitVec.ofNat 32 rtc.1
    else if off = Reg.PWR_RTC_SHI then BitVec.ofNat 32 (rtc.1 / 2 ^ 32)
    else if off = Reg.PWR_RTC_NS then BitVec.ofNat 32 rtc.2
    else w
  | 0x4 =>
    if off = Reg.SPARE_HEALTH then p.healthWord
    else match ixOf (Reg.SPARE_INV 1) 4 7 off with
      | some i => p.invWord (i + 1)
      | none => w
  | 0x6 =>
    if off = Reg.NVM_STAT then
      -- XREADY: the port is enabled and no command is in progress (DESIGN CHOICE, log entry 65)
      putBit (setBits w 16 8 (((List.range 8).map (fun i => if p.protInForce i then 2 ^ i else 0)).sum)) 30
        (p.bit Reg.NVM_XCFG 31 && !p.bit Reg.NVM_STAT 29)
    else w
  | 0x8 =>
    if off = Reg.HOST_STATUS_LO then BitVec.ofNat 32 p.hostStatus
    else if off = Reg.HOST_STATUS_HI then setBits w 0 16 (p.hostStatus / 2 ^ 32)
    else if off = Reg.HOST_SUMMARY_LO || off = Reg.HOST_SUMMARY_HI then (if p.bit Reg.RING_STAT 30 then w else 0)
    else w
  | 0x17 => match ixOf (Reg.POS_STAT 0) 0x100 4 off with
    | some n => p.posStat n
    | none => w
  | 0xC => match ixOf (Reg.CYC_RMSTAT 0) 4 64 off with
    | some m => match ((p.cyc.remote.find? (fun x => x.num = m)).bind (·.good)) with
      | some g => setBits w 0 16 (min 0xFFFF ((p.ringNow - g) / msec 1))
      | none => w
    | none => w
  | 0x18 => match ixOf (Reg.RAMP_STAT 0) 0x20 16 off with
    | some c => p.rampStat c
    | none => w
  | 0x21 => if off = Reg.PAIR_STAT then putBit w 24 p.eligible else w
  | 0x22 => match ixOf (Reg.ETH_PSTAT 0) 0x100 2 off with
    | some q => putBit w 30 (p.bit (Reg.ETH_PCFG q) 30)
    | none => w
  | 0x24 => if off = Reg.GPIO_OUTSET || off = Reg.GPIO_OUTCLR then p.reg Reg.GPIO_OUT else w
  | _ => w

/-- The committed register that `off` is, or is the staged alias of. -/
def baseOff (off : Nat) : Nat := (aliasOf off).getD off

/-- Whether a register or a staged alias lies at `off`. -/
def isReg (off : Nat) : Bool := (rowAt (baseOff off)).isSome

/-- How the register at `off`, or the one it is an alias of, takes part in a 64-bit value. -/
def pairAt (off : Nat) : PairKind :=
  match rowAt (baseOff off) with
  | some r => r.pair
  | none => .single

/-- What a read of a register returns: its defined bits but those of WO fields, and at an alias the staged copy (R9, R11,
R24). -/
def Part.peek (p : Part) (off : Nat) : Word :=
  match aliasOf off with
  | some b => match rowAt b with
    | some r => p.reg off &&& BitVec.ofNat 32 r.st
    | none => 0
  | none => match rowAt off with
    | some r => p.live off &&& BitVec.ofNat 32 r.readable
    | none => 0

/-! Reads of registers. -/

/-- Latch a half for an initiator (R10). -/
def Part.putLatch (p : Part) (ini : Initiator) (off : Nat) (v : Word) : Part :=
  { p with bus := { p.bus with latch := sPut p.bus.latch (heldKey ini off) v } }

/-- A read of a low half latches the high half, and the fraction of a timestamp triple, for the initiator. -/
def Part.readLo (p : Part) (ini : Initiator) (off : Nat) : Part × Word :=
  let p1 := p.putLatch ini (off + 4) (p.peek (off + 4))
  (if pairAt (off + 8) = .fr then p1.putLatch ini (off + 8) (p.peek (off + 8)) else p1, p.peek off)

/-- A read of a high half, or of a fraction, returns what the initiator has latched and releases it, or the present
value where it holds no latch. -/
def Part.readHi (p : Part) (ini : Initiator) (off : Nat) : Part × Word :=
  match sFind p.bus.latch (heldKey ini off) with
  | some v => ({ p with bus := { p.bus with latch := sErase p.bus.latch (heldKey ini off) } }, v)
  | none => (p, p.peek off)

/-- A read that its own rule gives a further effect: the occupancy records (R42), the capture words (R131), the extremes of
the voltages (R453) and local tempo (R375). -/
def Part.readAct (p : Part) (off : Nat) : Option Part :=
  match off / 0x10000 with
  | 0x0 => (ixOf (Reg.SYS_OCC 0) 4 10 off).map p.occRead
  | 0x3 => (ixOf (Reg.MON_VMIN 0) 4 24 off).map (fun j => p.vminmaxRead j false)
      <|> (ixOf (Reg.MON_VMAX 0) 4 24 off).map (fun j => p.vminmaxRead j true)
  | 0x10 =>
    if off = Reg.CLE_CAPDATA 0 then some (p.capDataRead .A)
    else if off = Reg.CLE_CAPDATA 1 then some (p.capDataRead .B)
    else none
  | 0x23 => if off = Reg.TIME_NOW_NS then some (p.timeNow p.now) else none
  | _ => none

/-- A read of the word at offset `off` of the register space by an initiator. -/
def Part.regRead (p : Part) (ini : Initiator) (off : Nat) : Part × Word :=
  if !isReg off then (p.decodeError ini (regBase + off), 0)
  else match p.readAct off with
    | some q => (q, q.bus.rdata)
    | none => match pairAt off with
      | .lo => p.readLo ini off
      | .hi => p.readHi ini off
      | .fr => p.readHi ini off
      | .single => (p, p.peek off)

/-- PAIR_LO_READ. -/
def execPairLoRead (ini : Initiator) (off : BitVec 24) (s : State) :=
  s.run (fun p => if pairAt off.toNat = .lo then
    let (q, w) := p.readLo ini off.toNat
    q.answer w true
  else p)

/-- PAIR_HI_READ: a _HI register, or the _FR word of a timestamp triple. -/
def execPairHiRead (ini : Initiator) (off : BitVec 24) (s : State) :=
  s.run (fun p => if pairAt off.toNat = .hi || pairAt off.toNat = .fr then
    let (q, w) := p.readHi ini off.toNat
    q.answer w true
  else p)

/-! Writes that their own rule governs. -/

/-- A write of the DMA registers that are open only while EN is 0 (R275). -/
def Part.dmaClosed (p : Part) (ini : Initiator) (c off : Nat) (f : Part → Part) : Part :=
  if p.bit (Reg.DMA_CTL c) 0 then p.decodeError ini (regBase + off) else f p

/-- A write of DMA_CTL: EN, and then at most one command of R266. -/
def Part.dmaCtl (p : Part) (c : Nat) (v : Word) : Part :=
  let p := if bitAt v 0 = p.bit (Reg.DMA_CTL c) 0 then p else p.dmaEn c (bitAt v 0)
  if bitAt v 3 then p.dmaAbort c else if bitAt v 2 then p.dmaSkip c else if bitAt v 1 then p.dmaResume c else p

/-- A write of CLE_CAPCTL (Table 4.15). -/
def Part.capCtl (p : Part) (g : Grp) (v : Word) : Part :=
  (((p.genEnable g (bitAt v 3)).when (bitAt v 0) (·.cstart g)).when (bitAt v 1) (·.capStart g)).when (bitAt v 2)
    (·.capStop g)

/-- The units whose sets commit (Table 1.5). -/
def commitUnits : List CUnit :=
  [.cle .A, .cle .B, .sense .A, .sense .B, .pwm .A, .pwm .B, .pos, .cap, .gpio, .auxadc, .prot, .gate, .ramp, .nvm, .cyc, .ring,
   .pair, .eth, .time, .spare, .clk, .pwr, .mon]

/-- The unit whose commit register lies at an offset. -/
def commitUnit (off : Nat) : Option CUnit := commitUnits.find? (fun u => unitStat u = off + 4)

/-- Choose by group. -/
def byGrp (a : Nat → Nat) (off : Nat) : Option Grp := if off = a 0 then some .A else if off = a 1 then some .B else none

/-- The effect of a write to a register whose write is a step of its own, or that its own rule governs. -/
def Part.writeAct (p : Part) (ini : Initiator) (off : Nat) (v : Word) : Option Part :=
  let t := p.now
  match commitUnit off with
  | some u => some (p.when (bitAt v 0) (·.commitGo u (bits v 16 8) t))
  | none => match off / 0x10000 with
  | 0x0 =>
    if off = Reg.SYS_SWRST then some (p.swrst v t)
    else if off = Reg.SYS_JCOMMIT then some (p.when (bitAt v 8) (·.jointGo (bits v 0 8) (bits v 16 8) t))
    else none
  | 0x1 => if off = Reg.CLK_BANDCTL then some (p.bandMeasure v t) else none
  | 0x5 =>
    if off = Reg.SEC_ENROLL then some (p.secEnroll v t)
    else if off = Reg.SEC_DBGCTL then some (p.when (bitAt v 0) (·.debugToken))
    else none
  | 0x6 => if off = Reg.NVM_XCMD then some (p.xspiCommand v) else none
  | 0x8 =>
    if off = Reg.HOST_FLAGCLR then some (p.flagClr v)
    else
      (ixOf (Reg.OP_CMD 0) 0x40 8 off).map (fun k => p.opCmd k (bits v 0 8) (bits v 24 8) t)
      <|> (ixOf (Reg.OP_CTL 0) 0x40 8 off).map (fun k => (p.when (bitAt v 1) (·.opCancel k t)).when (bitAt v 0) (·.opRelease k))
  | 0x9 =>
    (ixOf (Reg.QUE_CFG 0) 0x20 32 off).map (fun q => p.queueCfgWrite q v)
    <|> (ixOf (Reg.QUE_PIDX 0) 0x20 32 off).map (fun q => p.pidxWrite ini q (bits v 0 16))
    <|> (ixOf (Reg.QUE_CIDX 0) 0x20 32 off).map (fun q => p.cidxWrite ini q (bits v 0 16))
  | 0xA =>
    (ixOf (Reg.DMA_CTL 0) 0x40 16 off).map (fun c => p.dmaCtl c v)
    <|> (ixOf (Reg.DMA_CFG 0) 0x40 16 off).map (fun c => p.dmaClosed ini c off (·.setReg off (v &&& 0x103)))
  | 0xC =>
    if off = Reg.CYC_CTL then
      some (((p.when (bitAt v 1) (fun p => p.cycStop p.ringNow)).when (bitAt v 0) (fun p => p.cycGo p.ringNow)).when (bitAt v 2)
        (fun p => p.cycRestart p.ringNow))
    else none
  | 0x10 =>
    (byGrp Reg.CLE_CAPCTL off).map (fun g => p.capCtl g v)
    <|> (byGrp Reg.CLE_GCTL off).map (fun g => if bitAt v 0 then p.runStart g else p.runStop g)
  | 0x14 =>
    if off = Reg.PROT_FREARM then some (p.when (bitAt v 0) (·.protRearm))
    else (ixOf (Reg.PROT_RSVMAP 0) 4 2 off).map (fun r => p.protMap r v t)
  | 0x15 =>
    (byGrp Reg.PWM_TBCTL off).map (fun g => if bitAt v 0 then p.tbStart g t else p.tbStopReq g t)
    <|> (ixOf (Reg.PWM_CMPA 0) 0x20 24 off).map (fun q => p.cmpaWrite ini q v)
    <|> (ixOf (Reg.PWM_CMPB 0) 0x20 24 off).map (fun q => p.cmpbWrite ini q v t)
  | 0x16 =>
    if off = Reg.GATE_TRIPCLR then some (p.gateTripClr v t)
    else if off = Reg.GATE_FREARM then some (p.gateRearm v)
    else none
  | 0x17 =>
    (ixOf (Reg.POS_CMPCTL 0) 0x100 4 off).map (fun n => p.posArm n v)
    <|> (ixOf (Reg.POS_LIST 0 0) 4 256 off).map (fun i => p.posListWrite (i / 64) (i % 64) v)
  | 0x18 =>
    (ixOf (Reg.RAMP_TGT 0) 0x20 16 off).map (fun c => p.rampTarget c v)
    <|> (ixOf (Reg.RAMP_CTL 0) 0x20 16 off).map (fun c =>
      ((p.when (bitAt v 0) (·.rampSet c)).when (bitAt v 1) (·.rampHold c true)).when (bitAt v 2) (·.rampHold c false))
  | 0x19 =>
    if off = Reg.CAP_SWTRIG then some (p.swTrig v t)
    else if off = Reg.CAP_CTL then
      some ((p.when (bitAt v 0) (·.capProtect)).when (bitAt v 1) (fun p => p.deleteRecord (p.reg Reg.CAP_RECSEL)))
    else none
  | 0x20 =>
    if off = Reg.RING_CTL then some (p.when (bitAt v 0) (·.rreset t))
    else if off = Reg.RING_BARCTL then some (p.when (bitAt v 8) (·.barArrive (bits v 0 8)))
    else none
  | 0x21 =>
    if off = Reg.PAIR_CTL then some ((p.when (bitAt v 1) (·.pairOpen t)).when (bitAt v 0) (·.pairReq t))
    else (ixOf (Reg.PAIR_CALLCTL 0) 0x10 4 off).map (fun k => p.when (bitAt v 0) (·.judge k .swap t))
  | 0x23 =>
    if off = Reg.TIME_SRVOFS then some (p.servoUpdate v t)
    else if off = Reg.TIME_CTL then some (p.when (bitAt v 0) (·.timeStep t))
    else none
  | 0x24 =>
    if off = Reg.GPIO_OUT then some (p.gpioLatch .out v)
    else if off = Reg.GPIO_OUTSET then some (p.gpioLatch .set v)
    else if off = Reg.GPIO_OUTCLR then some (p.gpioLatch .clr v)
    else none
  | _ => none

/-- A 64-bit value takes effect in the pair at `lo` (R10). -/
def Part.pairAct (p : Part) (ini : Initiator) (lo : Nat) (l h : Word) : Part :=
  let plain := fun (p : Part) => match rowAt lo, rowAt (lo + 4) with
    | some a, some b => (p.setReg lo ((p.reg lo &&& ~~~BitVec.ofNat 32 a.rw) ||| (l &&& BitVec.ofNat 32 a.rw))).setReg (lo + 4)
        ((p.reg (lo + 4) &&& ~~~BitVec.ofNat 32 b.rw) ||| (h &&& BitVec.ofNat 32 b.rw))
    | _, _ => p
  match ixOf (Reg.QUE_BASE_LO 0) 0x20 32 lo, ixOf (Reg.DMA_TTB_LO 0) 0x40 16 lo, ixOf (Reg.MMU_CTX_LO 0) 0x20 3 lo,
      ixOf (Reg.MMU_TTB1_LO 0) 0x20 3 lo with
  | some q, _, _, _ => p.queueBaseWrite q l.toNat (h.toNat % 256)
  | _, some c, _, _ => p.dmaClosed ini c (lo + 4) plain
  | _, _, some k, _ => p.ctxWrite ini k l h
  | _, _, _, some k => p.ttb1Write ini k l h
  | _, _, _, _ => if lo = Reg.RING_SNAPT_LO then p.snapArm l h else plain p

/-! Writes by access code. -/

/-- What a write stores, by the access codes of Table 0.4. -/
def RegRow.written (r : RegRow) (old v : Word) : Word :=
  let w := (old &&& ~~~BitVec.ofNat 32 r.rw) ||| (v &&& BitVec.ofNat 32 r.rw)
  (w &&& ~~~(v &&& BitVec.ofNat 32 r.w1c)) ||| (v &&& BitVec.ofNat 32 r.w1s)

/-- Whether a register is a half of a pair that is written as one value: its fields are RW or ST (R10). -/
def RegRow.joint (r : RegRow) : Bool := r.pair ≠ .single && (r.rw ||| r.st) ≠ 0

/-- A write of a word by its access code; `hw` are the W1C bits that hardware sets in the same clock (R469). -/
def Part.plainWrite (p : Part) (r : RegRow) (off : Nat) (v hw : Word) : Part :=
  p.setReg off (r.written (p.reg off) v ||| (hw &&& BitVec.ofNat 32 r.w1c))

/-- A write of an ST register or of its alias goes to the staged copy; a low half is held until its high half is written
(R10, R24). -/
def Part.stageWrite (p : Part) (ini : Initiator) (r : RegRow) (off : Nat) (v : Word) : Part :=
  let put := fun (p : Part) (o : Nat) (v : Word) => p.setReg (stagedOff o) (v &&& BitVec.ofNat 32 r.st)
  match r.pair with
  | .lo => p.putHeld ini off v
  | .hi => match p.held ini (off - 4) with
    | some l => put (put (p.dropHeld ini (off - 4)) (off - 4) l) off v
    | none => put p off v
  | _ => put p off v

/-- STAGED_WRITE: of an ST register at its own offset or at its alias. -/
def execStagedWrite (ini : Initiator) (off : BitVec 24) (v : Word) (s : State) :=
  s.run (fun p => match rowAt (baseOff off.toNat) with
    | some r => if r.st = 0 then p else p.stageWrite ini r (baseOff off.toNat) v
    | none => p)

/-- A write of the high half of an RW pair: the value takes effect with the low half that the initiator holds, or with the
present one (R10). -/
def Part.writeHi (p : Part) (ini : Initiator) (off : Nat) (v : Word) : Part :=
  match p.held ini (off - 4) with
  | some l => (p.dropHeld ini (off - 4)).pairAct ini (off - 4) l v
  | none => p.pairAct ini (off - 4) (p.reg (off - 4)) v

/-- After a write that its own rule governs, W1C bits that hardware sets in the same clock end set (R469). -/
def Part.keepSet (p : Part) (r : RegRow) (off : Nat) (hw : Word) : Part :=
  let set := hw &&& BitVec.ofNat 32 r.w1c
  let o := if off = Reg.GPIO_OUTCLR then Reg.GPIO_OUT else off
  if set = 0 then p else p.setReg o (p.reg o ||| set)

/-- What becomes of a write of a low half that its rule ignores, as it ignores the high half's: a queue's base while EN is 1 (R269), a
channel's table base while EN is 1 (R275), a slot's table bases by an initiator that may not write them (R262). -/
def Part.loRefused (p : Part) (ini : Initiator) (off : Nat) : Option Part :=
  let err := p.decodeError ini (regBase + off)
  match ixOf (Reg.QUE_BASE_LO 0) 0x20 32 off, ixOf (Reg.DMA_TTB_LO 0) 0x40 16 off, ixOf (Reg.MMU_CTX_LO 0) 0x20 3 off,
      ixOf (Reg.MMU_TTB1_LO 0) 0x20 3 off with
  | some q, _, _, _ => if p.bit (Reg.QUE_CFG q) 31 then some (p.queueErr q) else none
  | _, some c, _, _ => if p.bit (Reg.DMA_CTL c) 0 then some err else none
  | _, _, some k, _ => if p.monitorOf ini k then none else some err
  | _, _, _, some _ => if [0, 1, 2].any (p.monitorOf ini) then none else some err
  | _, _, _, _ => none

/-- A write of the word at offset `off` of the register space by an initiator, but for the requests that it makes of the ring. -/
def Part.regPut (p : Part) (ini : Initiator) (off : Nat) (v hw : Word) : Part :=
  match rowAt (baseOff off) with
  | none => p.decodeError ini (regBase + off)
  | some r =>
    if r.st ≠ 0 then p.stageWrite ini r (baseOff off) v
    else match p.writeAct ini off v with
      | some q => q.keepSet r off hw
      | none =>
        if r.joint && r.pair = .lo then (p.loRefused ini off).getD (p.putHeld ini off v)
        else if r.joint && r.pair = .hi then p.writeHi ini off v
        else p.plainWrite r off v hw

/-! Accesses of bytes (Table 1.10). -/

/-- An access's bytes, and whether it read a poisoned word. -/
structure BusData where
  part : Part
  bytes : List Byte
  poison : Bool := false
deriving DecidableEq, Repr

/-- `n` bytes that the spec leaves open. -/
def Part.freeBytes (p : Part) (n : Nat) : Part × List Byte :=
  ({ p with freeCount := p.freeCount + n }, (List.range n).map (fun i => (Config.free (p.freeCount + i)).setWidth 8))

/-- Areas of eMRAM that the part itself fills in a layout that the spec does not give: the runtime state and the CLE snapshots
(Table 10.4). -/
def inOwnLayout (a : Nat) : Bool := 0x21E00000 ≤ a && a < 0x21E60000

/-- The wrapped private key, which no initiator reads: reads return 0 (Table 16.1). -/
def inPrivateKey (a : Nat) : Bool := 0x23C00000 ≤ a && a < 0x23C10000

/-- The word of a lane at an offset of its window: instruction banks, data memory, coefficient banks (Table 1.10). -/
def laneWindow (l : Lane) (o : Nat) : Option Word :=
  let z : Nat → Word := fun _ => 0
  if o < 0x40000 then some (sGet z l.code (65536 * (o / 0x20000) + o % 0x20000 / 4))
  else if o < 0x80000 then some (sGet z l.data ((o - 0x40000) / 4))
  else if o < 0x90000 then some (sGet z l.coef ((o - 0x80000) / 4))
  else none

/-- A read of `n` bytes at a local address by an initiator. -/
def Part.busRead (p : Part) (ini : Initiator) (a n : Nat) : BusData :=
  if inMem a then
    let bad := p.firstPoison a n
    let poison := bad.isSome
    let p := bad.elim p (fun e => p.eccFatal (e.1 + e.2.1))
    if inPrivateKey a then { part := p, bytes := List.replicate n 0 }
    else if inOwnLayout a then
      let (q, bs) := p.freeBytes n
      { part := q, bytes := bs, poison := poison }
    else { part := p, bytes := p.loadBytes a n, poison := poison }
  else if inRegs a then
    (touched a n).foldl (fun d e =>
      let (q, w) := d.part.regRead ini (e.1 - regBase)
      let bs := ((bytesOf 4 w.toNat).drop e.2.1).take e.2.2
      { part := q, bytes := d.bytes ++ bs }) { part := p, bytes := [] }
  else if a < 0x40000 then { part := p, bytes := (List.range n).map (fun i => Config.bootRom (a + i)) }
  else if 0x50000000 ≤ a && a < 0x50800000 then
    (touched a n).foldl (fun d e =>
      let o := e.1 - 0x50000000
      match laneWindow (d.part.lane (o / 0x100000)) (o % 0x100000) with
      | some w => { part := d.part, bytes := d.bytes ++ ((bytesOf 4 w.toNat).drop e.2.1).take e.2.2 }
      | none => { part := d.part.decodeError ini e.1, bytes := d.bytes ++ List.replicate e.2.2 0 }) { part := p, bytes := [] }
  else if 0x60000000 ≤ a && a < 0x70000000 then
    let (q, bs) := p.freeBytes n
    { part := q, bytes := bs }
  else { part := p.decodeError ini a, bytes := List.replicate n 0 }

/-- The word that a write of some bytes of a register writes: its other bytes keep what its RW and ST fields hold, and are 0
elsewhere. -/
def Part.mergeWord (p : Part) (off lo : Nat) (bs : List Byte) : Word :=
  let cur : Word := match rowAt (baseOff off) with
    | some r => if r.st ≠ 0 then p.staged (baseOff off) else p.reg off &&& BitVec.ofNat 32 r.rw
    | none => 0
  BitVec.ofNat 32 (numOf ((bytesOf 4 cur.toNat).take lo ++ bs ++ (bytesOf 4 cur.toNat).drop (lo + bs.length)))

/-- Whether a write of `n` bytes is one that its rule forbids: to a protected area of eMRAM (R277), or to the table base of a slot
by another initiator (R262). -/
def Part.writeForbidden (p : Part) (ini : Initiator) (a n : Nat) : Bool :=
  (inEmram a && (p.protectedAt a n).isSome) || (0x400B0000 ≤ a && a < 0x400B0060 && a % 0x20 < 0x10 && !isCore ini)

/-- A write of bytes at a local address by an initiator, with what a write of a register does; what is read-only takes nothing
(R33). -/
def Part.busStore (p : Part) (ini : Initiator) (a : Nat) (bs : List Byte) (reg : Part → Nat → Word → Part) : Part :=
  if inEmram a then p.emramWrite a bs
  else if inMem a then p.storeBytes a bs
  else if inRegs a then
    (touched a bs.length).foldl (fun p e =>
      let part := ((bs.drop (e.1 + e.2.1 - a)).take e.2.2)
      reg p (e.1 - regBase) (p.mergeWord (e.1 - regBase) e.2.1 part)) p
  else if 0x50000000 ≤ a && a < 0x50800000 then
    p.each ((touched a bs.length).filter (fun e => 0x90000 ≤ (e.1 - 0x50000000) % 0x100000)) (fun p e => p.decodeError ini e.1)
  else if a < 0x40000 || (0x60000000 ≤ a && a < 0x70000000) then p
  else p.decodeError ini a

/-! An access that a request or a host makes of this node. -/

/-- What an access answers: the part, the bytes of a read and the status of Table 11.4. -/
structure NodeAnswer where
  part : Part
  data : List Byte := []
  status : Nat := 0
deriving DecidableEq, Repr

/-- A read of this node: an address with bit 40 set is refused, an uncorrectable error answers status 0x3. -/
def Part.nodeRead (p : Part) (ini : Initiator) (a n : Nat) (ecc : List EccFind) : NodeAnswer :=
  if a.testBit 40 then { part := p, data := List.replicate n 0, status := 1 }
  else
    let p := p.eccFind (ecc.filter (fun e => a < e.addr / 8 * 8 + 8 && e.addr / 8 * 8 < a + n))
    let r := p.busRead ini a n
    { part := r.part, data := r.bytes, status := if r.poison then 3 else 0 }

/-- A write of this node; one that a rule forbids answers status 0x2. -/
def Part.nodeStore (p : Part) (ini : Initiator) (a : Nat) (bs : List Byte) (reg : Part → Nat → Word → Part) : NodeAnswer :=
  if a.testBit 40 then { part := p, status := 1 }
  else { part := p.busStore ini a bs reg, status := if p.writeForbidden ini a bs.length then 2 else 0 }

/-- A message goes to Q20; with the queue off or full it is refused. -/
def Part.takeMsg (p : Part) (bs : List Byte) : NodeAnswer :=
  let ok := p.bit (Reg.QUE_CFG 20) 31 && p.queueFill 20 < p.queueSize 20
  let room := p.fld (Reg.QUE_CFG 20) 16 8 * 16 - bs.length
  let (q, pad) := p.freeBytes room
  { part := q.produce 20 (bs ++ pad), status := if ok then 0 else 2 }

/-! Ring transmit: Q22 and Q23 (R39, R269). -/

/-- The bytes of the entry of queue `q` with index `i`. -/
def Part.queueBytes (p : Part) (q i : Nat) : List Byte := p.loadBytes (p.queueEntry q i) (p.fld (Reg.QUE_CFG q) 16 8 * 16)

/-- A request of software has ended: its completion is an entry of Q21. -/
def Part.ringAnswer (p : Part) (entry : List Byte) (status : Nat) (data : List Byte) : Part :=
  p.produce 21 (Config.ringCompletion entry status data)

/-- A request of software whose destination is this node, which never leaves it (R309). -/
def Part.ringSelf (p : Part) (entry : List Byte) (typ addr len : Nat) (data : List Byte) : Part :=
  let x : NodeAnswer := if typ = 1 then p.nodeRead .ring addr len []
    else if typ = 5 then p.takeMsg data
    else p.nodeStore .ring addr data (fun p o v => p.regPut .ring o v 0)
  if typ = 3 then x.part else x.part.ringAnswer entry x.status x.data

/-- The request of an entry of Q22 or Q23: types RD, WR, WRB to node 127, and MSG; an entry that asks for another answers status
0x2. Q23 is the bulk class 4; Q22 takes class 3 (DESIGN CHOICE, log entry 45). -/
def Part.ringAsk (p : Part) (q : Nat) (entry : List Byte) : Part :=
  let (typ, dst, addr, len, data) := Config.ringEntry entry
  let dst := dst % 128
  let addr := addr % 2 ^ 41
  let len := min 256 len
  let data := if typ = 1 then [] else data.take 256
  let r : RingReq := { typ := typ, cls := if q = 23 then 4 else 3, dst := dst, addr := addr,
                       len := if typ = 1 then len else data.length, data := data, use := .queue entry }
  if !([1, 2, 3, 5].contains typ) || (typ = 3) ≠ (dst = 127) then p.ringAnswer entry 2 []
  else if typ = 3 then (p.ringSelf entry 3 addr len data).request r
  else if p.isSelf dst then p.ringSelf entry typ addr len data
  else match refusedAt dst (typ = 1) with
    | some e => p.ringAnswer entry e []
    | none => p.request r

/-- Hardware takes the entries of Q22 or Q23 in order; `n` bounds how many there are. -/
def Part.ringTransmit (p : Part) (q : Nat) : Nat → Part
  | 0 => p
  | n + 1 =>
    if !p.bit (Reg.QUE_CFG q) 31 || p.queueFill q = 0 then p
    else
      let i := p.fld (Reg.QUE_CIDX q) 0 16
      ((p.setFld (Reg.QUE_CIDX q) 0 16 (i + 1)).ringAsk q (p.queueBytes q i)).ringTransmit q n

/-- After a write of a queue's registers, the entries of Q22 and Q23 that it makes ready are taken. -/
def Part.ringSends (p : Part) (off : Nat) : Part :=
  match [22, 23].find? (fun q => off = Reg.QUE_PIDX q || off = Reg.QUE_CFG q) with
  | some q => p.ringTransmit q (p.queueFill q)
  | none => p

/-- QUEUE_PIDX_WRITE. -/
def execQueuePidxWrite (ini : Initiator) (q : Fin 32) (v : BitVec 16) (s : State) :=
  s.run (fun p => (p.pidxWrite ini q.val v.toNat).ringSends (Reg.QUE_PIDX q.val))

/-! Writes as a whole. -/

/-- A write of the word at offset `off` of the register space by an initiator. -/
def Part.regWrite (p : Part) (ini : Initiator) (off : Nat) (v hw : Word) : Part := (p.regPut ini off v hw).ringSends off

/-- REGISTER_WRITE: an access to a reserved offset is a decode error, and a register with a rule of its own follows it. -/
def execRegisterWrite (ini : Initiator) (off : BitVec 24) (v hwSet : Word) (t : Instant) (s : State) :=
  s.run (fun p => (p.at t).regWrite ini off.toNat v hwSet)

/-- PAIR_LO_WRITE. -/
def execPairLoWrite (ini : Initiator) (off : BitVec 24) (v : Word) (s : State) :=
  s.run (fun p => match rowAt (baseOff off.toNat) with
    | some r => if r.joint && r.pair = .lo then p.regWrite ini off.toNat v 0 else p
    | none => p)

/-- PAIR_HI_WRITE. -/
def execPairHiWrite (ini : Initiator) (off : BitVec 24) (v : Word) (t : Instant) (s : State) :=
  s.run (fun p => match rowAt (baseOff off.toNat) with
    | some r => if r.joint && r.pair = .hi then (p.at t).regWrite ini off.toNat v 0 else p
    | none => p)

/-- A write of bytes at a local address by an initiator. -/
def Part.busWrite (p : Part) (ini : Initiator) (a : Nat) (bs : List Byte) : Part :=
  p.busStore ini a bs (fun p o v => p.regWrite ini o v 0)

/-- A write of this node by a request or a host. -/
def Part.nodeWrite (p : Part) (ini : Initiator) (a : Nat) (bs : List Byte) : NodeAnswer :=
  p.nodeStore ini a bs (fun p o v => p.regWrite ini o v 0)

end Sys2Proof.Machine
end

