-- ==== Sys2Proof/Machine/CleSample.lean ====
section
/-! DEFINITION. The comparison of signatures at the end of a sample, the decision, and the work of the gap (R111 to R123, R140). -/

namespace Sys2Proof.Machine

/-- Whether the signatures compared give a majority, and the lanes that differ from it (Table 4.5): with three lanes two that
agree, with two both. -/
def sigDecision : List (Nat × Word) → Option (List Nat)
  | [] => none
  | [_] => none
  | [a, b] => if a.2 = b.2 then some [] else none
  | a :: b :: c :: l =>
    let rest := a :: b :: c :: l
    let good := if a.2 = b.2 || a.2 = c.2 then some a.2 else if b.2 = c.2 then some b.2 else none
    good.map (fun w => (rest.filter (fun e => e.2 ≠ w)).map (·.1))

/-- Lanes that have not reached SAMPLE_END by t0 + 0.75·Ts are late. -/
def Part.maskLate (p : Part) (g : Grp) (t : Instant) : Part := p.each (p.members g) (fun p n => p.laneLate n t)

/-- The exports as the sample's voted writes leave them are what every consumer sees from here (R108), the recorder's triggers
among them. -/
def Part.publish (p : Part) (g : Grp) : Part :=
  let ep := (p.cg g).ep
  let p := p.each (List.range 64) (fun p k => p.setReg (Reg.CLE_EP g.ix k) (sGet (fun _ => 0) ep k))
  p.each (List.range 64) (fun p k => p.when (p.epType g k = 0) (·.capLevel (0x300 + 0x40 * g.ix + k) (p.cg g).t0 (p.reg (Reg.CLE_EP g.ix k))))

/-- A sample without majority (R122): HOLD, the previous duty once more, loading abandoned; in role 1 a cut-in is requested, and
a second one in a row halts the group at the next tick (R123). -/
def Part.noMajority (p : Part) (g : Grp) (t : Instant) : Part :=
  let again := (p.cg g).prevNoMaj
  let p := ((p.setGmode g 3).raise (Reg.CLE_GEVT g.ix) 10).restoreHold g
  let p := (p.countSat (Reg.CLE_DUPCNT g.ix) 0 32).abandonLoad g
  let p := p.onCg g (fun c => { c with prevNoMaj := true, haltNext := c.haltNext || again })
  let p := if p.role = 1 then (p.setBit (Reg.CLE_GSTAT g.ix) 7 true).requestCut g (some (p.cg g).t0) else p
  p.capEvent (0x413 + g.ix) t

/-- A sample with majority: the lanes that differ are masked, the group is TMR or DUPLEX, the registers go to a replacement
whose copy is complete, and one is chosen. -/
def Part.majority (p : Part) (g : Grp) (bad : List Nat) : Part :=
  let p := p.each bad (fun p n => p.outvote g n)
  let p := (p.onCg g (fun c => { c with prevNoMaj := false })).setBit (Reg.CLE_GSTAT g.ix) 7 false
  ((p.showMode g).copyRegisters g).chooseSpare g

/-- The time of SAMPLE_END after the tick, and the largest since reset (CLE_TEND): DESIGN CHOICE (log entry 59), a group
start or a figure switch does not restart it. -/
def Part.noteEnd (p : Part) (g : Grp) (t : Instant) : Part :=
  let r := Reg.CLE_TEND g.ix
  let n := min 0xFFFF ((t - (p.cg g).t0) / nsec 10)
  (p.setFld r 0 16 n).setFld r 16 16 (max n (p.fld r 16 16))

/-- The comparison: the words left are voted, the signatures are compared, and the work of Table 4.4 is done. -/
def Part.compareSigs (p : Part) (g : Grp) (t : Instant) : Part :=
  let p := ((p.maskLate g t).voteRest g).noteEnd g t
  let ms := p.members g
  let d := if (p.cg g).voter.noMaj then none else sigDecision (ms.map (fun n => (n, (p.lane n).crc)))
  let p := p.gridFinish g
  let p := match d with
    | some bad => p.majority g bad
    | none => p.noMajority g t
  let masked := (List.range 8).filter (fun n => p.laneState n = 2 && p.laneGrp n = g)
  let p := (p.each masked (fun p n => p.settleMasked n)).publish g
  let p := ((p.captureSample g).correlateSample g).scanCorrelate g
  let p := p.onCg g (fun c => { c with open_ := false })
  let p := p.gapDecide g
  let p := p.when (d.isSome && p.role = 1) (·.sendMirror g)
  (p.when (p.role = 2) (·.mirrorAtEnd g)).showGroup g

/-- SIGNATURE_COMPARISON: once every lane in service has reached SAMPLE_END, or at t0 + 0.75·Ts. -/
def execSignatureComparison (g : Grp) (t : Instant) (s : State) :=
  s.run (fun p =>
    let all := (p.members g).all (fun n => (p.lane n).ended)
    if (p.cg g).open_ && (p.cg g).t0 ≤ t && (all || p.lateAt g ≤ t) then (p.at t).compareSigs g t else p)

end Sys2Proof.Machine
end

