-- ==== Sys2Proof/Machine/HelS.lean ====
section
/-! DEFINITION. Heloryx-S: exceptions and the return from them, the issue of an instruction, and the operations on
registers, control and system operations (chapter 9, R250 to R257, R260). -/

namespace Sys2Proof.Machine

/-! Exceptions (R253 to R255). -/

/-- The flags and PSTAT as ESAVE holds them (Table 9.3). -/
def CoreSlot.saved (x : CoreSlot) : Word :=
  BitVec.ofNat 32 (x.n.toNat * 128 + x.z.toNat * 64 + x.c.toNat * 32 + x.v.toNat * 16 + bits x.pstat 0 3)

/-- An exception is taken: EPC, ESR, EVA and ESAVE are written, PRIV and EXL set and IE cleared, and the slot goes on at
EVBAR + 0x40 × CAUSE (R253). An exception between LDRV and STCV clears the reservation (R256). -/
def CoreSlot.enter (x : CoreSlot) (cause info : Nat) (eva epc : Word) : CoreSlot :=
  { x with
    epc := epc
    esr := BitVec.ofNat 32 (cause * 2 ^ 24 + info)
    eva := eva
    esave := x.saved
    pstat := 5
    pc := x.evbar + BitVec.ofNat 32 (0x40 * cause)
    resv := none
    run := .running }

/-- The return from an exception: the flags and PSTAT come back from ESAVE, and the slot continues at EPC (R253). -/
def CoreSlot.leave (x : CoreSlot) : CoreSlot :=
  { x with n := bitAt x.esave 7, z := bitAt x.esave 6, c := bitAt x.esave 5, v := bitAt x.esave 4, pstat := x.esave &&& 7, pc := x.epc }

/-- Causes that translation raises: MMU_FVA and MMU_FINFO keep the last (Table 9.10). -/
def isXlateCause (cause : Nat) : Bool := [1, 2, 7, 8, 0xB].contains cause

/-- A double fault (R255): the slot stops, is counted and logged, and acts as a watchdog firing. -/
def Part.doubleFault (p : Part) (k : Nat) (epc esr : Word) : Part :=
  let p := ((p.countSat Reg.MMU_DBLFLT (8 * k) 8).hostFault).logEvent .doubleFault [k, epc.toNat, esr.toNat]
  (p.wdFire 0x10 32 p.ringNow).onSlot k (fun x => { x with run := .doubleFault, resv := none })

/-- A synchronous exception of slot `k`. -/
def Part.except (p : Part) (k cause info : Nat) (eva epc : Word) : Part :=
  if bitAt (p.slot k).pstat 2 then p.doubleFault k epc (BitVec.ofNat 32 (cause * 2 ^ 24 + info))
  else
    let p := p.onSlot k (·.enter cause info eva epc)
    if isXlateCause cause then
      (p.setReg (Reg.MMU_FVA k) eva).setReg (Reg.MMU_FINFO k) (BitVec.ofNat 32 (cause * 2 ^ 24 + info))
    else p

/-- An exception of the instruction at the slot's pc. -/
def Part.fault (p : Part) (k cause info : Nat) (eva : Word) : Part := p.except k cause info eva (p.slot k).pc

/-- ILLEGAL with its detail code (R252). -/
def Part.illegal (p : Part) (k detail : Nat) : Part := p.fault k 4 detail 0

/-- INTERRUPT_TAKEN: a pending source that is enabled, while IE is set; the number stands in ESR (R257). -/
def Part.takeIrq (p : Part) (k i : Nat) : Part :=
  let x := p.slot k
  let runs := (x.run = .running || x.run = .idle) && !p.slotWaits k && p.slotPair k < 4
  if runs && bitAt x.pstat 1 && x.ien.getLsbD i && (p.ipend k).getLsbD i then
    p.onSlot k (fun x => { x.enter 0x10 i 0 x.pc with pend := x.pend &&& ~~~BitVec.ofNat 64 (2 ^ i) })
  else p

/-- INTERRUPT_TAKEN. -/
def execInterruptTaken (slot : Fin 3) (src : Fin 64) (t : Instant) (s : State) :=
  s.run (fun p => (p.at t).takeIrq slot.val src.val)

/-! Issue (R250, R252, R254). -/

/-- Whether slot `k` issues instructions: a pair serves it, and it runs, or its wait has met an enabled source. -/
def Part.issues (p : Part) (k : Nat) : Bool :=
  !p.slotWaits k && p.slotPair k < 4 && match (p.slot k).run with
    | .running => true
    | .idle => p.ipend k &&& (p.slot k).ien ≠ 0
    | _ => false

/-- The initiator that a slot's accesses come from: the pair that serves it. -/
def Part.slotIni (p : Part) (k : Nat) : Initiator := .core (Fin.ofNat 4 (p.slotPair k))

/-- Whether a slot runs at TASK level. -/
def Part.task? (p : Part) (k : Nat) : Bool := !bitAt (p.slot k).pstat 0

/-- Cause and ESR bits of an error that translation answers, of a fetch or of data. -/
def xlateCause (fetch : Bool) : XErr × Nat → Nat × Nat
  | (.walk, l) => (0xB, l * 2 ^ 20)
  | (.trans, l) => (if fetch then 1 else 7, l * 2 ^ 20)
  | (.perm, l) => (if fetch then 2 else 8, l * 2 ^ 20)

/-- An instruction word is read: from the slot's instruction L1 where that holds it, else from memory; `false` where it is
uncorrectable. A word of a cached page stays in the L1, which holds 8192 of them; a full L1 gives up one, of which the spec says
nothing (R247). -/
def Part.instrWord (p : Part) (k pa attr : Nat) : Part × Bool :=
  let l := (p.slot k).il1
  if attr = 0 && l.contains pa then (p, true)
  else if inEcc pa && p.poisoned pa then (p.eccFatal pa, false)
  else if attr ≠ 0 then (p, true)
  else if l.length < 8192 then (p.onSlot k (fun x => { x with il1 := pa :: l }), true)
  else
    let i := p.freshBelow l.length
    (p.taken.onSlot k (fun x => { x with il1 := pa :: l.eraseIdx i }), true)

/-- The fetch of an instruction: none, or the cause and the ESR bits of the exception it raises. -/
def Part.fetchS (p : Part) (k : Nat) : Part × Option (Nat × Nat) :=
  let (p, r) := p.slotXlate k (p.slot k).pc.toNat .fetch (p.task? k)
  match r with
  | .error e => (p, some (xlateCause true e))
  | .ok x =>
    if !x.ok then (p, some (xlateCause true (.perm, x.level)))
    else
      let (p, ok) := p.instrWord k x.pa x.attr
      (p, if ok then none else some (3, 0))

/-- An instruction of a slot issues: its own word is translated and read, then its form is judged, and then it acts. A
slot that does not issue changes nothing. -/
def Part.issueS (p : Part) (h : SHead) (act : Part → Nat → Part) : Part :=
  let p := p.at h.t
  let k := h.slot.val
  if !p.issues k then p
  else
    let p := (p.onSlot k (fun x => { x with run := .running })).eccFind h.ecc
    let (p, r) := p.fetchS k
    match r with
    | some c => p.fault k c.1 (c.2 + 2 ^ 17) (p.slot k).pc
    | none => if h.junk then p.illegal k 4 else act p k

/-- A meaning of an instruction of a slot. -/
def State.issueS (s : State) (h : SHead) (act : Part → Nat → Part) : Host.Outcome State Fault Refusal :=
  s.run (fun p => p.issueS h act)

/-- An instruction retires: what it does to the slot, and the pc at the next instruction. -/
def Part.retire (p : Part) (k : Nat) (f : CoreSlot → CoreSlot) : Part := p.onSlot k (fun x => { f x with pc := x.pc + 4 })

/-! Registers of a slot. -/

/-- General register `i`. -/
def CoreSlot.gr (x : CoreSlot) (i : Fin 16) : Word := x.w.get i

/-- Write general register `i`. -/
def CoreSlot.setGr (x : CoreSlot) (i : Fin 16) (v : Word) : CoreSlot := { x with w := x.w.set i v }

/-- FP32 register `i`. -/
def CoreSlot.fr (x : CoreSlot) (i : Fin 16) : Word := x.s.get i

/-- Write FP32 register `i`. -/
def CoreSlot.setFr (x : CoreSlot) (i : Fin 16) (v : Word) : CoreSlot := { x with s := x.s.set i v }

/-- The flags of a result: N, Z, C, V. -/
structure SFlags where
  n : Bool
  z : Bool
  c : Bool
  v : Bool
deriving DecidableEq, Repr

/-- Set the flags. -/
def CoreSlot.setFlags (x : CoreSlot) (f : SFlags) : CoreSlot := { x with n := f.n, z := f.z, c := f.c, v := f.v }

/-! Integer operations (R251, Table 9.2). -/

/-- Flags that the spec does not state, from a free value. -/
def openFlags (fr : BitVec 64) : SFlags :=
  { n := fr.getLsbD 32, z := fr.getLsbD 33, c := fr.getLsbD 34, v := fr.getLsbD 35 }

/-- A result that the spec does not state, from a free value. -/
def openWord (fr : BitVec 64) : Word := fr.setWidth 32

/-- Flags of a sum: C on carry out; N and Z from the result and V on signed overflow as for a subtraction. -/
def addFlags (a b : Word) : SFlags :=
  { n := (a + b).msb, z := a + b = 0, c := decide (2 ^ 32 ≤ a.toNat + b.toNat), v := decide ((a + b).toInt ≠ a.toInt + b.toInt) }

/-- Flags of a difference: C when it borrows. -/
def subFlags (a b : Word) : SFlags :=
  { n := (a - b).msb, z := a - b = 0, c := decide (a.toNat < b.toNat), v := decide ((a - b).toInt ≠ a.toInt - b.toInt) }

/-- A shift by 32 or more, of which the spec states no result. -/
def shiftBy (f : Word → Nat → Word) (fr : BitVec 64) (a b : Word) : Word :=
  if b.toNat < 32 then f a b.toNat else openWord fr

/-- A result that depends on whether the operands are read as signed: it is stated where both readings agree. -/
def bothSigns (fr : BitVec 64) (f : Int → Int → Int) (a b : Word) : Word :=
  let s := wordOfInt (f a.toInt b.toInt)
  if s = wordOfInt (f a.toNat b.toNat) then s else openWord fr

/-- High word of the product. -/
def mulHigh (a b : Int) : Int := a * b / 2 ^ 32

/-- The second operand: a register, or IMM18 sign-extended. -/
def CoreSlot.second (x : CoreSlot) : Fin 16 ⊕ BitVec 18 → Word
  | .inl r => x.gr r
  | .inr i => i.signExtend 32

/-- Whether an operation sets the flags: FN bit 9 of format A; format B has none. -/
def aluFlags (o : SAlu) : Bool := o.setF && o.src.isLeft

/-- An integer operation: result and flags of the two operands, where a free value stands for what the spec does not
state. -/
def State.alu (s : State) (o : SAlu) (f : BitVec 64 → Word → Word → Word × SFlags) : Host.Outcome State Fault Refusal :=
  s.issueS o.h (fun p k => p.taken.retire k (fun x =>
    let r := f p.fresh (x.gr o.rs1) (x.second o.src)
    let y := x.setGr o.rd r.1
    if aluFlags o then y.setFlags r.2 else y))

/-- An integer operation whose flags the spec does not state. -/
def State.alu0 (s : State) (o : SAlu) (f : BitVec 64 → Word → Word → Word) : Host.Outcome State Fault Refusal :=
  s.alu o (fun fr a b => (f fr a b, openFlags fr))

/-- S_ADD. -/
def execSAdd (o : SAlu) (s : State) := s.alu o (fun _ a b => (a + b, addFlags a b))

/-- S_SUB. -/
def execSSub (o : SAlu) (s : State) := s.alu o (fun _ a b => (a - b, subFlags a b))

/-- S_AND. -/
def execSAnd (o : SAlu) (s : State) := s.alu0 o (fun _ a b => a &&& b)

/-- S_OR. -/
def execSOr (o : SAlu) (s : State) := s.alu0 o (fun _ a b => a ||| b)

/-- S_XOR. -/
def execSXor (o : SAlu) (s : State) := s.alu0 o (fun _ a b => a ^^^ b)

/-- S_SHL. -/
def execSShl (o : SAlu) (s : State) := s.alu0 o (shiftBy (fun a n => a <<< n))

/-- S_SHR. -/
def execSShr (o : SAlu) (s : State) := s.alu0 o (shiftBy (fun a n => a >>> n))

/-- S_SAR. -/
def execSSar (o : SAlu) (s : State) := s.alu0 o (shiftBy (fun a n => a.sshiftRight n))

/-- S_ROR. -/
def execSRor (o : SAlu) (s : State) := s.alu0 o (fun _ a b => a.rotateRight (b.toNat % 32))

/-- S_MUL. -/
def execSMul (o : SAlu) (s : State) := s.alu0 o (fun _ a b => a * b)

/-- S_MULH. -/
def execSMulh (o : SAlu) (s : State) := s.alu0 o (fun fr a b => bothSigns fr mulHigh a b)

/-- A division or remainder: by zero it returns 0 and sets V, whatever FN bit 9 says (R251). -/
def State.divide (s : State) (o : SAlu) (f : Int → Int → Int) : Host.Outcome State Fault Refusal :=
  s.issueS o.h (fun p k => p.taken.retire k (fun x =>
    let b := x.second o.src
    let y := x.setGr o.rd (if b = 0 then 0 else bothSigns p.fresh f (x.gr o.rs1) b)
    let y := if aluFlags o then y.setFlags (openFlags p.fresh) else y
    if b = 0 then { y with v := true } else y))

/-- S_DIV. -/
def execSDiv (o : SAlu) (s : State) := s.divide o Int.tdiv

/-- S_REM. -/
def execSRem (o : SAlu) (s : State) := s.divide o Int.tmod

/-- S_CMP: the flags of a subtraction. -/
def execSCmp (o : SAlu) (s : State) :=
  s.issueS o.h (fun p k => p.retire k (fun x => x.setFlags (subFlags (x.gr o.rs1) (x.second o.src))))

/-- S_LDHI: IMM18 in bits [31:14]. -/
def execSLdhi (h : SHead) (rd : Fin 16) (imm : BitVec 18) (s : State) :=
  s.issueS h (fun p k => p.retire k (·.setGr rd (imm ++ (0 : BitVec 14))))

/-! FP32 operations: arithmetic of R149. -/

/-- An FP32 operation on rs1 and rs2. -/
def State.fp (s : State) (o : SFp) (f : CoreSlot → Word → Word → Word) : Host.Outcome State Fault Refusal :=
  s.issueS o.h (fun p k => p.retire k (fun x => x.setFr o.rd (f x (x.fr o.rs1) (x.fr o.rs2))))

/-- S_FADD. -/
def execSFadd (o : SFp) (s : State) := s.fp o (fun _ a b => fpAdd a b)

/-- S_FSUB. -/
def execSFsub (o : SFp) (s : State) := s.fp o (fun _ a b => fpSub a b)

/-- S_FMUL. -/
def execSFmul (o : SFp) (s : State) := s.fp o (fun _ a b => fpMul a b)

/-- S_FDIV. -/
def execSFdiv (o : SFp) (s : State) := s.fp o (fun _ a b => fpDiv a b)

/-- S_FMA: rd + rs1 × rs2 with one rounding. -/
def execSFma (o : SFp) (s : State) := s.fp o (fun x a b => fpFma (x.fr o.rd) a b)

/-- S_FSQRT. -/
def execSFsqrt (o : SFp) (s : State) := s.fp o (fun _ a _ => fpSqrt a)

/-- S_FMIN. -/
def execSFmin (o : SFp) (s : State) := s.fp o (fun _ a b => fpMin a b)

/-- S_FMAX. -/
def execSFmax (o : SFp) (s : State) := s.fp o (fun _ a b => fpMax a b)

/-- Flags of FCMP: unordered sets V alone; else Z on equality, C where the first is less, N as C, and V clear (R251). -/
def fcmpFlags (a b : Word) : SFlags :=
  if fpIsNan a || fpIsNan b then { n := false, z := false, c := false, v := true }
  else { n := fpLt a b, z := fpEq a b, c := fpLt a b, v := false }

/-- S_FCMP. -/
def execSFcmp (o : SFp) (s : State) :=
  s.issueS o.h (fun p k => p.retire k (fun x => x.setFlags (fcmpFlags (x.fr o.rs1) (x.fr o.rs2))))

/-- An FP32 value as an integer, where it is one of the signed range; the spec states no rounding and no result beyond
it. -/
def toIntOr (fr : BitVec 64) (a : Word) : Word :=
  let z := fpScaled a
  let i := z / 2 ^ 149
  if fpFinite a && z % 2 ^ 149 = 0 && -2 ^ 31 ≤ i && i < 2 ^ 31 then wordOfInt i else openWord fr

/-- An integer as FP32 under R149; whether its bit 31 is a sign the spec does not state. -/
def ofIntOr (fr : BitVec 64) (a : Word) : Word := if a.msb then openWord fr else fpOfInt a.toNat

/-- S_FCONVERT: from a w register to an s register, or the reverse. -/
def execSFconvert (o : SFp) (toInt : Bool) (s : State) :=
  s.issueS o.h (fun p k => p.taken.retire k (fun x =>
    if toInt then x.setGr o.rd (toIntOr p.fresh (x.fr o.rs1)) else x.setFr o.rd (ofIntOr p.fresh (x.gr o.rs1))))

/-- S_FMOVE: a copy of the bits. -/
def execSFmove (o : SFp) (toS : Bool) (s : State) :=
  s.issueS o.h (fun p k => p.retire k (fun x => if toS then x.setFr o.rd (x.gr o.rs1) else x.setGr o.rd (x.fr o.rs1)))

/-! Control. -/

/-- The tests of Table 9.14; 0xF is reserved. -/
def goTest (x : CoreSlot) : Nat → Option Bool
  | 0x0 => some true
  | 0x1 => some x.z
  | 0x2 => some !x.z
  | 0x3 => some x.c
  | 0x4 => some !x.c
  | 0x5 => some (!x.c && !x.z)
  | 0x6 => some (x.c || x.z)
  | 0x7 => some (x.n != x.v)
  | 0x8 => some (x.n == x.v)
  | 0x9 => some (!x.z && x.n == x.v)
  | 0xA => some (x.z || x.n != x.v)
  | 0xB => some x.n
  | 0xC => some !x.n
  | 0xD => some x.v
  | 0xE => some !x.v
  | _ => none

/-- The target of a PC-relative jump: words counted from the jump's own address. -/
def goTarget (pc : Word) (off : BitVec 22) : Word := pc + off.signExtend 32 * 4

/-- S_GO. -/
def execSGo (h : SHead) (test : BitVec 4) (off : BitVec 22) (s : State) :=
  s.issueS h (fun p k => match goTest (p.slot k) test.toNat with
    | none => p.illegal k 3
    | some taken => p.onSlot k (fun x => { x with pc := if taken then goTarget x.pc off else x.pc + 4 }))

/-- S_GOL: the link, the address of the instruction after it, goes to w15. -/
def execSGol (h : SHead) (off : BitVec 22) (s : State) :=
  s.issueS h (fun p k => p.onSlot k (fun x => { x.setGr 15 (x.pc + 4) with pc := goTarget x.pc off }))

/-! System. -/

/-- S_TCALL: cause 0x05 with the code in ESR; EPC is the next instruction. -/
def execSTcall (h : SHead) (code : BitVec 12) (s : State) :=
  s.issueS h (fun p k => p.except k 5 code.toNat 0 ((p.slot k).pc + 4))

/-- S_DBRK. -/
def execSDbrk (h : SHead) (s : State) := s.issueS h (fun p k => p.fault k 0xC 0 0)

/-- An instruction that only MONITOR executes. -/
def Part.monitorOnly (p : Part) (k : Nat) (act : Part → Part) : Part := if p.task? k then p.illegal k 1 else act p

/-- S_XRET. -/
def execSXret (h : SHead) (s : State) := s.issueS h (fun p k => p.monitorOnly k (·.onSlot k CoreSlot.leave))

/-- Cycles of a slot since reset, at 600 MHz (R247, Table 9.3). -/
def Part.slotCycles (p : Part) : Nat := (p.now - p.core.cyc0) * 600000000 / sec 1

/-- A control and status register; of numbers that Table 9.3 does not list the spec says nothing. -/
def Part.csr (p : Part) (k : Nat) (n : Nat) : Word :=
  let x := p.slot k
  let hi := fun (v : Nat) => BitVec.ofNat 32 (v / 2 ^ 32)
  match n with
  | 0x000 => x.pstat &&& 7
  | 0x001 => x.epc
  | 0x002 => x.esr
  | 0x003 => x.eva
  | 0x004 => x.esave
  | 0x005 => x.evbar
  | 0x008 => BitVec.ofNat 32 x.ien.toNat
  | 0x009 => hi x.ien.toNat
  | 0x00A => BitVec.ofNat 32 (p.ipend k).toNat
  | 0x00B => hi (p.ipend k).toNat
  | 0x020 => BitVec.ofNat 32 p.slotCycles
  | 0x021 => hi p.slotCycles
  | _ => p.freshWord

/-- S_SRD: TASK reads CYCLE_LO/HI alone. -/
def execSSrd (o : SCsr) (s : State) :=
  s.issueS o.h (fun p k =>
    if p.task? k && !(o.csr = 0x020 || o.csr = 0x021) then p.illegal k 1
    else p.taken.retire k (·.setGr o.r (p.csr k o.csr.toNat)))

/-- A write of a control and status register; IPEND, CYCLE and numbers not listed take none. -/
def CoreSlot.setCsr (x : CoreSlot) (n : Nat) (v : Word) : CoreSlot :=
  match n with
  | 0x000 => { x with pstat := v &&& 7 }
  | 0x001 => { x with epc := v }
  | 0x002 => { x with esr := v }
  | 0x003 => { x with eva := v }
  | 0x004 => { x with esave := v &&& 0xF7 }
  | 0x005 => { x with evbar := v &&& 0xFFFFF000 }
  | 0x008 => { x with ien := x.ien.extractLsb' 32 32 ++ v }
  | 0x009 => { x with ien := v ++ x.ien.extractLsb' 0 32 }
  | _ => x

/-- S_SWR. -/
def execSSwr (o : SCsr) (s : State) :=
  s.issueS o.h (fun p k => p.monitorOnly k (·.retire k (fun x => x.setCsr o.csr.toNat (x.gr o.r))))

/-- S_DRAIN: every store of this model has completed before the next instruction issues, so that it only advances the
pc. -/
def execSDrain (h : SHead) (s : State) := s.issueS h (fun p k => p.retire k id)

/-- S_IRFS: the slot's instruction L1 is discarded (R247). -/
def execSIrfs (h : SHead) (s : State) := s.issueS h (fun p k => p.retire k (fun x => { x with il1 := [] }))

/-- XLINV (R260), of SFN[1:0]. -/
def State.xlinv (s : State) (o : SInv) (sfn : Nat) : Host.Outcome State Fault Refusal :=
  s.issueS o.h (fun p k => p.monitorOnly k (fun p => p.invalidate k sfn ((p.slot k).gr o.rs) o.shared))

/-- S_XLINV_ALL. -/
def execSXlinvAll (o : SInv) (s : State) := s.xlinv o 0

/-- S_XLINV_ASID. -/
def execSXlinvAsid (o : SInv) (s : State) := s.xlinv o 1

/-- S_XLINV_VA. -/
def execSXlinvVa (o : SInv) (s : State) := s.xlinv o 2

/-- S_XLINV_PAGE_ASID. -/
def execSXlinvPageAsid (o : SInv) (s : State) := s.xlinv o 3

/-- S_IDLE: the slot waits; it goes on once an enabled source is pending. -/
def execSIdle (h : SHead) (s : State) :=
  s.issueS h (fun p k => p.monitorOnly k (·.retire k (fun x => { x with run := .idle })))

end Sys2Proof.Machine
end

