-- ==== Sys2Proof/Machine/HelMem.lean ====
section
/-! DEFINITION. Heloryx-S: loads, stores, atomics and MCPY (R251, R254, R256). -/

namespace Sys2Proof.Machine

/-! Checks before an access (R254, R256). -/

/-- An access that may not go on: cause, ESR bits and EVA, and the word that could not be read. -/
structure AccFault where
  cause : Nat
  info : Nat
  eva : Word
  word : Option Nat := none
deriving DecidableEq, Repr

/-- A part of an access on one page: its physical address, its bytes, whether the page is a device's, and the data fault that it
raises. -/
structure Piece where
  pa : Nat := 0
  n : Nat
  dev : Bool := false
  bad : Option AccFault := none
deriving DecidableEq, Repr

/-- The bytes of an access split at 4 KiB boundaries: virtual address and length, the lower first. -/
def pageParts (va n : Nat) : List (Nat × Nat) :=
  let first := min n (4096 - va % 4096)
  if first < n then [(va, first), ((va + first) % 2 ^ 32, n - first)] else [(va, n)]

/-- One part of an access is translated and, where it is read, its words are checked; `second` is for the second page of a
crossing access. -/
def Part.partXlate (p : Part) (k va n : Nat) (acc : Acc) (read second : Bool) : Part × Piece :=
  let mark := second.toNat * 2 ^ 23 + (if acc = .write then 2 ^ 16 else 0)
  let (p, r) := p.slotXlate k va acc (p.task? k)
  let err := fun (e : XErr × Nat) =>
    some { cause := (xlateCause false e).1, info := (xlateCause false e).2 + mark, eva := BitVec.ofNat 32 va : AccFault }
  match r with
  | .error e => (p, { n := n, bad := err e })
  | .ok x =>
    let bad := if !x.ok then err (.perm, x.level)
      else if read then (p.firstPoison x.pa n).map (fun e =>
        { cause := 9, info := mark, eva := BitVec.ofNat 32 (va + (e.1 + e.2.1 - x.pa)), word := some (e.1 + e.2.1) })
      else none
    (p, { pa := x.pa, n := n, dev := x.attr = 2, bad := bad })

/-- Every byte of an access is checked before it does anything: the lower page first. -/
def Part.xlateAll (p : Part) (k va n : Nat) (acc : Acc) (read : Bool) : Part × List Piece :=
  match pageParts va n with
  | [] => (p, [])
  | [(a, m)] =>
    let (p, x) := p.partXlate k a m acc read false
    (p, [x])
  | (a, m) :: (b, l) :: _ =>
    let (p, x) := p.partXlate k a m acc read false
    let (p, y) := p.partXlate k b l acc read true
    (p, [x, y])

/-- Whether an access of TASK stores to the register region (R252). -/
def storesRegs (task : Bool) (acc : Acc) (l : List Piece) : Bool := task && acc = .write && l.any (fun x => inRegs x.pa)

/-- The data fault of an access: that of its lower page first (R254). -/
def dataFault (l : List Piece) : Option AccFault := l.findSome? (·.bad)

/-- A data fault is raised; a word that could not be read is counted (R271). -/
def Part.raiseFault (p : Part) (k : Nat) (e : AccFault) : Part := (e.word.elim p p.eccFatal).fault k e.cause e.info e.eva

/-- An access of a slot: its checks in the order of R254, and then what it does with its physical parts. `unit` is the
alignment that a device access needs, and with `strict` every access. -/
def Part.access (p : Part) (k : Nat) (va : Word) (n unit : Nat) (strict : Bool) (acc : Acc) (read : Bool)
    (act : Part → List Piece → Part) : Part :=
  let (q, l) := if n = 0 then (p, []) else p.xlateAll k va.toNat n acc read
  if storesRegs (p.task? k) acc l then q.illegal k 1
  else if (strict || l.any (·.dev)) && va.toNat % unit ≠ 0 then q.fault k 6 (if acc = .write then 2 ^ 16 else 0) va
  else match dataFault l with
    | some e => q.raiseFault k e
    | none => act q l

/-- The bytes of checked parts. -/
def Part.readPieces (p : Part) (k : Nat) (l : List Piece) : Part × List Byte :=
  l.foldl (fun d x =>
    let r := d.1.busRead (d.1.slotIni k) x.pa x.n
    (r.part, d.2 ++ r.bytes)) (p, [])

/-- Store bytes to checked parts. -/
def Part.writePieces (p : Part) (k : Nat) (bs : List Byte) : List Piece → Part
  | [] => p
  | x :: l => (p.busWrite (p.slotIni k) x.pa (bs.take x.n)).writePieces k (bs.drop x.n) l

/-! Loads and stores. -/

/-- The address of an access: base and signed byte offset. -/
def memAddr (o : SMem) (x : CoreSlot) : Word := x.gr o.rb + o.off.signExtend 32

/-- Bytes of a SIZE of 0 to 2. -/
def sizeBytes (size : BitVec 2) : Nat := 2 ^ size.toNat

/-- SIZE 3 is reserved. -/
def State.sized (s : State) (o : SMem) (act : Part → Nat → Part) : Host.Outcome State Fault Refusal :=
  s.issueS o.h (fun p k => if o.size = 3 then p.illegal k 3 else act p k)

/-- S_LD: of 1 or 2 bytes the spec does not state the upper bits of the register. -/
def execSLd (o : SMem) (s : State) :=
  s.sized o (fun p k =>
    let n := sizeBytes o.size
    p.access k (memAddr o (p.slot k)) n n false .read true (fun p l =>
      let (p, bs) := p.readPieces k l
      let v := numOf bs + (if n = 4 then 0 else p.freshWord.toNat / 2 ^ (8 * n) * 2 ^ (8 * n))
      p.taken.retire k (·.setGr o.rt (BitVec.ofNat 32 v))))

/-- S_ST. -/
def execSSt (o : SMem) (s : State) :=
  s.sized o (fun p k =>
    let x := p.slot k
    let n := sizeBytes o.size
    p.access k (memAddr o x) n n false .write false (fun p l => (p.writePieces k (bytesOf n (x.gr o.rt).toNat) l).retire k id))

/-- S_FLD: 4 bytes. -/
def execSFld (o : SMem) (s : State) :=
  s.issueS o.h (fun p k => p.access k (memAddr o (p.slot k)) 4 4 false .read true (fun p l =>
    let (p, bs) := p.readPieces k l
    p.retire k (·.setFr o.rt (BitVec.ofNat 32 (numOf bs)))))

/-- S_FST. -/
def execSFst (o : SMem) (s : State) :=
  s.issueS o.h (fun p k =>
    let x := p.slot k
    p.access k (memAddr o x) 4 4 false .write false (fun p l => (p.writePieces k (bytesOf 4 (x.fr o.rt).toNat) l).retire k id))

/-! Register groups: ascending register and address order. -/

/-- The registers that a mask names. -/
def grpRegs (o : SGrp) : List (Fin 16) := (List.finRange 16).filter (fun i => o.mask.getLsbD i.val)

/-- S_LDGRP. -/
def execSLdgrp (o : SGrp) (s : State) :=
  s.issueS o.h (fun p k =>
    let n := 4 * (grpRegs o).length
    p.access k ((p.slot k).gr o.rb) n 4 false .read true (fun p l =>
      let (p, bs) := p.readPieces k l
      p.retire k (fun x => (grpRegs o).zipIdx.foldl (fun x e => x.setGr e.1 (descWord bs (4 * e.2))) x)))

/-- S_STGRP. -/
def execSStgrp (o : SGrp) (s : State) :=
  s.issueS o.h (fun p k =>
    let x := p.slot k
    let bs := (grpRegs o).flatMap (fun i => bytesOf 4 (x.gr i).toNat)
    p.access k (x.gr o.rb) bs.length 4 false .write false (fun p l => (p.writePieces k bs l).retire k id))

/-! Atomics: naturally aligned 4 bytes. -/

/-- An atomic access: it is naturally aligned whatever page it lies in. -/
def State.atomic (s : State) (o : SMem) (acc : Acc) (read : Bool) (act : Part → Nat → List Piece → Part) :
    Host.Outcome State Fault Refusal :=
  s.issueS o.h (fun p k => p.access k (memAddr o (p.slot k)) 4 4 true acc read (fun p l => act p k l))

/-- The physical address of a checked aligned word. -/
def pieceAddr (l : List Piece) : Nat := (l.head?.map (·.pa)).getD 0

/-- S_LDRV: the word is loaded and reserved. -/
def execSLdrv (o : SMem) (s : State) :=
  s.atomic o .read true (fun p k l =>
    let (p, bs) := p.readPieces k l
    p.retire k (fun x => { x.setGr o.rt (BitVec.ofNat 32 (numOf bs)) with resv := some (pieceAddr l) }))

/-- S_STCV: the word is stored if the reservation stands, and rt becomes 1, else 0. -/
def execSStcv (o : SMem) (s : State) :=
  s.atomic o .write false (fun p k l =>
    let x := p.slot k
    let ok := x.resv = some (pieceAddr l)
    let p := if ok then p.writePieces k (bytesOf 4 (x.gr o.rt).toNat) l else p
    p.retire k (fun x => { x.setGr o.rt (if ok then 1 else 0) with resv := none }))

/-- A read and a write of a word as one: rt takes the old word, and where `new` gives one it is stored. -/
def State.exchange (s : State) (o : SMem) (new : CoreSlot → Word → Option Word) : Host.Outcome State Fault Refusal :=
  s.atomic o .write true (fun p k l =>
    let (p, bs) := p.readPieces k l
    let old : Word := BitVec.ofNat 32 (numOf bs)
    let p := match new (p.slot k) old with
      | some v => p.writePieces k (bytesOf 4 v.toNat) l
      | none => p
    p.retire k (·.setGr o.rt old))

/-- S_ATADD: rt is added to the word. -/
def execSAtadd (o : SMem) (s : State) := s.exchange o (fun x old => some (old + x.gr o.rt))

/-- S_ATSWP: rt is swapped with the word. -/
def execSAtswp (o : SMem) (s : State) := s.exchange o (fun x _ => some (x.gr o.rt))

/-- S_ATCMP: rt is swapped in where the word equals w0. -/
def execSAtcmp (o : SMem) (s : State) := s.exchange o (fun x old => if old = x.gr 0 then some (x.gr o.rt) else none)

/-! MCPY (R256). -/

/-- The bytes of the next unit: at most 64, and no further than the next 64-byte boundary of the destination. -/
def unitBytes (dst left : Nat) : Nat := min left (64 - dst % 64)

/-- The physical addresses of the bytes of checked parts. -/
def pieceBytes (l : List Piece) : List Nat := l.flatMap (fun x => (List.range x.n).map (fun i => x.pa + i))

/-- The bytes that a byte-by-byte copy in ascending order writes, of the bytes that stood at the source: a source byte that the
copy itself has written before is read as written. -/
def ascending (src dst : List Nat) (bs : List Byte) : List Byte :=
  (src.zip bs).foldl (fun out e =>
    match (dst.take out.length).findIdx? (· = e.1) with
    | some j => out ++ [out.getD j 0]
    | none => out ++ [e.2]) []

/-- One unit: every byte is checked, then the unit is copied, and w1, w2 and w3 advance. `false` where it faulted. -/
def Part.copyUnit (p : Part) (k : Nat) : Part × Bool :=
  let x := p.slot k
  let dst := x.gr 1
  let src := x.gr 2
  let n := unitBytes dst.toNat (x.gr 3).toNat
  let (q, rs) := p.xlateAll k src.toNat n .read true
  let (q, ws) := q.xlateAll k dst.toNat n .write false
  if storesRegs (p.task? k) .write ws then (q.illegal k 1, false)
  else if (rs.any (·.dev) && src.toNat % 4 ≠ 0) || (ws.any (·.dev) && dst.toNat % 4 ≠ 0) then
    (q.fault k 6 (if rs.any (·.dev) && src.toNat % 4 ≠ 0 then 0 else 2 ^ 16)
      (if rs.any (·.dev) && src.toNat % 4 ≠ 0 then src else dst), false)
  else match dataFault (if src.toNat ≤ dst.toNat then rs ++ ws else ws ++ rs) with
    | some e => (q.raiseFault k e, false)
    | none =>
      let (q, bs) := q.readPieces k rs
      let bs := ascending (pieceBytes rs) (pieceBytes ws) bs
      let m : Word := BitVec.ofNat 32 n
      ((q.writePieces k bs ws).onSlot k (fun x =>
        ((x.setGr 1 (dst + m)).setGr 2 (src + m)).setGr 3 (x.gr 3 - m)), true)

/-- Up to `units` units; the instruction ends once w3 is 0, and otherwise stands at its pc. -/
def Part.copyUnits (p : Part) (k : Nat) : Nat → Part
  | 0 => if (p.slot k).gr 3 = 0 then p.retire k id else p
  | i + 1 =>
    if (p.slot k).gr 3 = 0 then p.retire k id
    else
      let (q, ok) := p.copyUnit k
      if ok then q.copyUnits k i else q

/-- S_MCPY: it is interrupted or ends after the units given. -/
def execSMcpy (h : SHead) (units : Nat) (s : State) := s.issueS h (fun p k => p.copyUnits k units)

end Sys2Proof.Machine
end

