-- ==== Sys2Proof/Machine/DmaBeat.lean ====
section
/-! DEFINITION. A beat of a DMA channel (R263 to R267): arbitration, translation of every byte, the read, the write, and beats
whose source or destination lies in another node. -/

namespace Sys2Proof.Machine

/-- DMA channel `c` as an initiator. -/
def dmaIni (c : Nat) : Initiator := .dma (Fin.ofNat 16 c)

/-! Arbitration (R265). -/

/-- Whether a channel has a request on the ring, or one that waits to leave. -/
def Part.dmaOnRing (p : Part) (c : Nat) : Bool := (p.ring.reqs ++ p.ring.waits).any (fun r => r.use = .dma c)

/-- Whether a channel is ready for a beat. -/
def Part.dmaReady (p : Part) (c : Nat) : Bool :=
  p.bit (Reg.DMA_CTL c) 0 && !p.bit (Reg.DMA_STAT c) 30 && (p.dmaCh c).desc.isSome && !p.dmaOnRing c

/-- PRIO of a channel. -/
def Part.dmaPrio (p : Part) (c : Nat) : Nat := p.fld (Reg.DMA_CFG c) 0 2

/-- How many channels after the last one served a channel comes. -/
def Part.dmaTurn (p : Part) (c : Nat) : Nat :=
  match p.core.lastBeat with
  | some (l, _) => (c + 15 - l) % 16
  | none => c

/-- Whether the arbiter grants a channel the engine: it is ready, and of the ready channels of the highest priority the
next in turn; a beat leaves at least 20 ns after the one before it. -/
def Part.dmaGranted (p : Part) (c : Nat) (t : Instant) : Bool :=
  p.dmaReady c && p.core.lastBeat.all (fun e => e.2 + nsec 20 ≤ t)
    && (List.range 16).all (fun d => !p.dmaReady d || d = c || p.dmaPrio d < p.dmaPrio c
      || (p.dmaPrio d = p.dmaPrio c && p.dmaTurn c < p.dmaTurn d))

/-- The engine goes to channel `c`: the other ready channels wait, and those of lower priority count a beat lost. -/
def Part.dmaTake (p : Part) (c : Nat) (t : Instant) : Part :=
  let p := p.each (List.range 16) (fun q d =>
    if d = c then q.setBit (Reg.DMA_STAT d) 29 false
    else if p.dmaReady d then
      (q.setBit (Reg.DMA_STAT d) 29 true).when (p.dmaPrio d < p.dmaPrio c) (·.countWrap (Reg.DMA_NPRE d) 0 32)
    else q)
  { p with core := { p.core with lastBeat := some (c, t) } }

/-! Addresses of a beat. -/

/-- An address of a descriptor: parts of this node's memory, or a ring address. -/
inductive DmaPlace
  | here (l : List (Nat × Nat))
  | ring (a : Nat)
deriving DecidableEq, Repr

/-- Every byte of a range translated by the IOMMU, the lower page first; the fault is its cause, its level and page as ESR holds them,
and its address. -/
def Part.ioParts (p : Part) (c : Nat) (acc : Acc) : List (Nat × Nat) → Part × Except (Nat × Nat × Nat) (List (Nat × Nat))
  | [] => (p, .ok [])
  | (va, n) :: l =>
    let (q, r) := p.ioXlate c va acc (p.dmaTask c)
    match r with
    | .error (.walk, lv) => (q, .error (0xB, lv * 2 ^ 20, va))
    | .error (.trans, lv) => (q, .error (7, lv * 2 ^ 20, va))
    | .error (.perm, lv) => (q, .error (8, lv * 2 ^ 20, va))
    | .ok pa =>
      let (q, r) := q.ioParts c acc l
      (q, match r with
        | .error e => .error (e.1, e.2.1 + 2 ^ 23, e.2.2)
        | .ok x => .ok ((pa, n) :: x))

/-- Where `n` bytes at an address of a descriptor lie; a PHYS address of this node is used as it stands. With the IOMMU off every
beat is refused with cause 0x07 (Table 9.10). -/
def Part.dmaPlace (p : Part) (c a n : Nat) (acc : Acc) : Part × Except (Nat × Nat × Nat) DmaPlace :=
  if !p.bit Reg.MMU_IOCTL 0 then (p, .error (7, 0, a % 2 ^ 32))
  else if a.testBit 63 then
    let r := a % 2 ^ 48
    (p, .ok (if p.isSelf (r / 2 ^ 41) && !r.testBit 40 then .here [(r % 2 ^ 40, n)] else .ring r))
  else
    let (q, r) := p.ioParts c acc (pageParts (a % 2 ^ 32) n)
    (q, match r with
      | .error e => .error e
      | .ok l => .ok (.here l))

/-- The first byte of a source that lies in an uncorrectable word: its address, and how far into the range it lies. -/
def Part.dmaPoison (p : Part) : List (Nat × Nat) → Option (Nat × Nat)
  | [] => none
  | (pa, n) :: l =>
    match p.firstPoison pa n with
    | some e => some (e.1 + e.2.1, e.1 + e.2.1 - pa)
    | none => (p.dmaPoison l).map (fun e => (e.1, e.2 + n))

/-- The IOTLB entries that a destination used. -/
def Part.beatUses (p : Part) (c a n : Nat) : List TlbEntry :=
  if a.testBit 63 || n = 0 then []
  else p.core.iotlb.filter (fun e => (pageParts (a % 2 ^ 32) n).any (fun v => e.hits v.1 (p.ttbOf (Reg.DMA_TTB_LO c)).2))

/-! A beat. -/

/-- The bytes read of parts of this node. -/
def Part.dmaRead (p : Part) (c : Nat) : List (Nat × Nat) → Part × List Byte
  | [] => (p, [])
  | (pa, n) :: l =>
    let r := p.busRead (dmaIni c) pa n
    let (q, bs) := r.part.dmaRead c l
    (q, r.bytes ++ bs)

/-- Bytes written to parts of this node. -/
def Part.dmaWrite (p : Part) (c : Nat) (bs : List Byte) : List (Nat × Nat) → Part
  | [] => p
  | (pa, n) :: l => (p.busWrite (dmaIni c) pa (bs.take n)).dmaWrite c (bs.drop n) l

/-- OP of the descriptor in progress. -/
def Part.dmaOp (p : Part) (c : Nat) : Nat := bits (descWord ((p.dmaCh c).desc.getD []) 0) 24 4

/-- LEN of the descriptor in progress. -/
def Part.dmaLen (p : Part) (c : Nat) : Nat := bits (descWord ((p.dmaCh c).desc.getD []) 4) 0 25

/-- The length of the next beat: up to 64 bytes, and no further than the next 64-byte boundary of the destination. -/
def Part.beatLen (p : Part) (c : Nat) : Nat :=
  let rem := p.fld (Reg.DMA_CREM c) 0 25
  if p.dmaOp c = 2 then min rem 64 else min rem (64 - (p.reg (Reg.DMA_CDST_LO c)).toNat % 64)

/-- Bytes that a beat of `n` bytes writes: a CRC writes its 4 bytes with the last beat. -/
def Part.beatWrites (p : Part) (c n : Nat) : Nat :=
  if p.dmaOp c = 2 then (if n = p.fld (Reg.DMA_CREM c) 0 25 then 4 else 0) else n

/-- The bytes of a FILL, from the place its progress has reached in the pattern. -/
def Part.fillBytes (p : Part) (c n : Nat) : List Byte :=
  let pat := bytesOf 4 (p.reg (Reg.DMA_CSRC_LO c)).toNat
  let at_ := p.dmaLen c - p.fld (Reg.DMA_CREM c) 0 25
  (List.range n).map (fun i => pat.getD ((at_ + i) % 4) 0)

/-- A beat is moved: the next source and destination bytes, what remains, and the end of the descriptor. -/
def Part.beatEnd (p : Part) (c n : Nat) : Part :=
  let op := p.dmaOp c
  let p := (p.beatGone c).countWrap (Reg.DMA_NBEAT c) 0 32
  let p := if op = 1 then p else p.setPair (Reg.DMA_CSRC_LO c) (p.pair (Reg.DMA_CSRC_LO c) + n)
  let p := if op = 2 then p else p.setPair (Reg.DMA_CDST_LO c) (p.pair (Reg.DMA_CDST_LO c) + n)
  let rem := p.fld (Reg.DMA_CREM c) 0 25 - n
  let p := p.setFld (Reg.DMA_CREM c) 0 25 rem
  if rem = 0 then p.descDone c 0 else p

/-- A request of a channel; one that no node can take ends its descriptor. -/
def Part.dmaRequest (p : Part) (c typ a len : Nat) (bs : List Byte) : Part :=
  let node := a / 2 ^ 41
  if (refusedAt node (typ = 1)).isSome || a.testBit 40 then p.descDone c 6
  else p.request { typ := typ, cls := 4, dst := node, addr := a % 2 ^ 41, len := len, data := bs, use := .dma c }

/-- The source of a beat is read: it is written, and where its destination is another node a request leaves. -/
def Part.beatData (p : Part) (c : Nat) (bs : List Byte) : Part :=
  match (p.dmaCh c).beat with
  | none => p
  | some b =>
    let x := p.dmaCh c
    let crc := BitVec.ofNat 32 (crcBytes crc32cPoly x.crc.toNat bs)
    let p := if p.dmaOp c = 2 then p.setDma c { x with crc := crc } else p
    let out := if p.dmaOp c = 2 then bytesOf 4 (crc ^^^ 0xFFFFFFFF).toNat else bs
    match b.remote with
    | some a =>
      if a / 2 ^ 41 = 127 && !a.testBit 40 then
        let p := p.request { typ := 3, cls := 4, dst := 127, addr := a % 2 ^ 41, len := out.length, data := out, use := .dma c }
        (p.busWrite (dmaIni c) (a % 2 ^ 40) out).beatEnd c b.n
      else p.dmaRequest c 2 a out.length out
    | none => (p.dmaWrite c out b.dst).beatEnd c b.n

/-- The channel halts before the beat, with the address that faulted. -/
def Part.beatFault (p : Part) (c : Nat) (f : Nat × Nat × Nat) (wr : Bool) : Part := p.dmaHalt c f.1 f.2.1 f.2.2 wr false

/-- A beat of channel `c`: every source and destination byte is translated, the source is read, the destination is
written. -/
def Part.beat (p : Part) (c : Nat) (ecc : List EccFind) : Part :=
  let n := p.beatLen c
  let m := p.beatWrites c n
  let csrc := p.pair (Reg.DMA_CSRC_LO c)
  let (p, src) := if p.dmaOp c = 1 then (p, .ok (.here [])) else p.dmaPlace c csrc n .read
  match src with
  | .error e => p.beatFault c e false
  | .ok sp =>
    let cdst := p.pair (Reg.DMA_CDST_LO c)
    let (p, dst) := if m = 0 then (p, .ok (.here [])) else p.dmaPlace c cdst m .write
    match dst with
    | .error e => p.beatFault c e true
    | .ok dp =>
      let b : DmaBeat := match dp with
        | .here l => { n := n, dst := l, uses := p.beatUses c cdst m }
        | .ring a => { n := n, remote := some a }
      let p := p.setDma c { p.dmaCh c with beat := some b }
      if p.dmaOp c = 1 then p.beatData c (p.fillBytes c n)
      else match sp with
        | .ring a => p.dmaRequest c 1 a ((n + 3) / 4 * 4) []
        | .here l =>
          let p := p.eccFind (ecc.filter (fun e => l.any (fun x => x.1 < e.addr / 8 * 8 + 8 && e.addr / 8 * 8 < x.1 + x.2)))
          match p.dmaPoison l with
          | some (a, i) =>
            let second := if l.head?.all (fun x => decide (i < x.2)) then 0 else 2 ^ 23
            ((p.eccFatal a).beatGone c).beatFault c (9, second, (csrc + i) % 2 ^ 32) false
          | none =>
            let (p, bs) := p.dmaRead c l
            p.beatData c bs

/-- DMA_BEAT: while supplies fail no beat is granted (R293). -/
def execDmaBeat (c : Fin 16) (ecc : List EccFind) (t : Instant) (s : State) :=
  s.run (fun p =>
    if p.dmaGranted c.val t && p.cycState ≠ 5 then ((p.at t).dmaTake c.val t).beat c.val ecc else p)

end Sys2Proof.Machine
end

