-- ==== Sys2Proof/Machine/RingExec.lean ====
section
/-! DEFINITION. Requests and completions of the ring at their destination and their initiator (R309, R318, R319), and the
transfers of remote modules (R285, R286). -/

namespace Sys2Proof.Machine

/-- Any access of a node with status 0x1 is counted there. -/
def NodeAnswer.counted (x : NodeAnswer) : NodeAnswer :=
  { x with part := x.part.when (x.status = 1) (·.countSat Reg.RING_ADDRERR 0 32) }

/-! Requests in tag order (R318). -/

/-- A completion goes back to the source of a request, with its class, tag and address. -/
def Part.complete (p : Part) (x : RingHdr) (a : NodeAnswer) (withData : Bool) : Part :=
  let bs := if withData then a.data else []
  p.originate { dst := x.src, tag := x.tag, typ := 4, cls := x.cls, len := bs.length, status := a.status, addr := x.addr } bs

/-- A request is executed and, unless it was broadcast, answered; a read of node 127 is refused (R37). -/
def Part.execRequest (p : Part) (f : RingFrame) (ecc : List EccFind) : Part :=
  let x := hdrOf f.hdr
  match x.typ with
  | 1 =>
    let n := min 256 x.len
    let a := if x.dst = 127 then { part := p, data := List.replicate n 0, status := 2 } else (p.nodeRead .ring x.addr n ecc).counted
    a.part.complete x a true
  | 2 =>
    let a := (p.nodeWrite .ring x.addr f.payload).counted
    a.part.complete x a false
  | 3 => (p.nodeWrite .ring x.addr f.payload).counted.part
  | 5 =>
    let a := p.takeMsg f.payload
    a.part.complete x a false
  | _ => p

/-- What is kept of a source of requests, for node 127 apart. -/
def Part.ringSrc (p : Part) (src : Nat) (bcast : Bool) : RingSource :=
  (p.ring.srcs.find? (fun s => s.src = src && s.bcast = bcast)).getD { src := src, bcast := bcast }

/-- Replace what is kept of a source. -/
def Part.setRingSrc (p : Part) (x : RingSource) : Part :=
  p.onRing (fun r => { r with srcs := x :: r.srcs.filter (fun s => !(s.src = x.src && s.bcast = x.bcast)) })

/-- The tag of a frame. -/
def tagOf (f : RingFrame) : Nat := (hdrOf f.hdr).tag

/-- Held requests whose tag has come are executed, in order; `n` bounds how many are held. -/
def Part.drainHeld (p : Part) (src : Nat) (bcast : Bool) (ecc : List EccFind) : Nat → Part
  | 0 => p
  | n + 1 =>
    let s := p.ringSrc src bcast
    match s.held.find? (fun f => s.next = some (tagOf f)) with
    | none => p
    | some f =>
      let s := { s with held := s.held.filter (fun g => g ≠ f), next := some ((tagOf f + 1) % 256) }
      ((p.setRingSrc s).execRequest f ecc).drainHeld src bcast ecc n

/-- A request received: a duplicate is discarded and counted; one ahead of a missing tag is held; else it is executed, and
those that waited for it. -/
def Part.receive (p : Part) (f : RingFrame) (x : RingHdr) (ecc : List EccFind) : Part :=
  let bcast := decide (x.dst = 127)
  let s := p.ringSrc x.src bcast
  if s.seen.any (fun e => e.1 = x.tag && e.2.1 = x.epoch && p.now < e.2.2 + usec 50) then p.countSat Reg.RING_DUPCNT 0 32
  else
    let s := { s with seen := (x.tag, x.epoch, p.now) :: s.seen.filter (fun e => p.now < e.2.2 + usec 50) }
    let ahead := match s.next with
      | none => 0
      | some n => (x.tag + 256 - n) % 256
    if ahead = 0 then
      let s := { s with next := some ((x.tag + 1) % 256) }
      ((p.setRingSrc s).execRequest f ecc).drainHeld x.src bcast ecc s.held.length
    else if ahead < 128 then p.setRingSrc { s with held := s.held ++ [f] }
    else (p.setRingSrc s).execRequest f ecc

/-- RING_RD. -/
def execRingRd (f : RingFrame) (ecc : List EccFind) (t : Instant) (s : State) :=
  s.run (fun p => (p.at t).onFrame f 1 (fun x p => p.receive f x ecc))

/-- RING_WR. -/
def execRingWr (f : RingFrame) (ecc : List EccFind) (t : Instant) (s : State) :=
  s.run (fun p => (p.at t).onFrame f 2 (fun x p => p.receive f x ecc))

/-- RING_WRB. -/
def execRingWrb (f : RingFrame) (ecc : List EccFind) (t : Instant) (s : State) :=
  s.run (fun p => (p.at t).onFrame f 3 (fun x p => p.receive f x ecc))

/-- RING_MSG. -/
def execRingMsg (f : RingFrame) (ecc : List EccFind) (t : Instant) (s : State) :=
  s.run (fun p => (p.at t).onFrame f 5 (fun x p => p.receive f x ecc))

/-- TAG_GAP_SKIP: 40 µs after the departure of the held request that comes first, the gap before it is skipped and
counted, and it is executed. -/
def Part.gapSkip (p : Part) (src : Nat) (bcast : Bool) (ecc : List EccFind) : Part :=
  let s := p.ringSrc src bcast
  match s.next with
  | none => p
  | some n =>
    let far := fun (f : RingFrame) => (tagOf f + 256 - n) % 256
    match s.held.find? (fun f => s.held.all (fun g => far f ≤ far g)) with
    | none => p
    | some f =>
      if p.frameAge (hdrOf f.hdr) < 4000 then p
      else ((p.setRingSrc { s with next := some (tagOf f) }).countSat Reg.RING_GAPSKIP 0 32).drainHeld src bcast ecc
        s.held.length

/-- TAG_GAP_SKIP. -/
def execTagGapSkip (src : BitVec 7) (bcast : Bool) (ecc : List EccFind) (t : Instant) (s : State) :=
  s.run (fun p => (p.at t).gapSkip src.toNat bcast ecc)

/-! Completions (R318, R319). -/

/-- A request has been done at its destination. -/
def Part.requestDone (p : Part) (r : RingReq) (data : List Byte) : Part :=
  match r.use with
  | .dma c =>
    let n := ((p.dmaCh c).beat.map (·.n)).getD 0
    if r.typ = 1 then p.beatData c (data.take n) else p.beatEnd c n
  | .module m =>
    if r.typ = 1 then p.moduleGood m (data.take (((p.remote m).map (·.size)).getD 256))
    else p.setBit (Reg.CYC_RMSTAT m) 29 false
  | .host acc i => p.hostPiece acc i data 0
  | .hspi i => p.hspiPiece i data 0
  | .queue e => p.ringAnswer e 0 (if r.typ = 1 then data else [])

/-- A completion received: it ends the request of its source, tag and epoch, or is discarded and counted as late. -/
def Part.completion (p : Part) (f : RingFrame) (x : RingHdr) : Part :=
  match p.ring.reqs.find? (fun r => r.dst = x.src && r.tag = x.tag && r.epoch = x.epoch) with
  | none => p.countSat Reg.RING_LATECNT 0 32
  | some r =>
    let p := p.onRing (fun y => { y with reqs := y.reqs.filter (fun q => q ≠ r) })
    (if x.status = 0 then p.requestDone r f.payload else p.requestFailed r x.status).pump

/-- RING_CPL. -/
def execRingCpl (f : RingFrame) (t : Instant) (s : State) :=
  s.run (fun p => (p.at t).onFrame f 4 (fun x p => p.completion f x))

/-! Remote modules (R285, R286). -/

/-- A request for a module replaces one that has not left. -/
def Part.moduleRequest (p : Part) (m : Nat) (r : RingReq) : Part :=
  (p.onRing (fun x => { x with waits := x.waits.filter (fun q => !(q.use = .module m)) })).request r

/-- Whether a module's transfer is due: a module period has passed since the last, and for an input module the runtime
runs; output modules carry their safe values while it is stopped (R302), but not under PFAIL, and none leaves in role 2 or,
after a cut-in, before the owner's next copy-out (R283, R357). -/
def Part.moduleDue (p : Part) (x : CycModule) (t : Instant) : Bool :=
  let may := if x.input then p.cycRuns else p.cycState ≠ 5 && !p.mute && (p.remoteData x.num).ready
  may && (p.remoteData x.num).last.all (fun a => a + x.period ≤ t)

/-- An input module is read: of its node, or of this one. -/
def Part.moduleRead (p : Part) (x : CycModule) (ecc : List EccFind) : Part :=
  if p.isSelf x.node then
    let a := p.nodeRead .ring x.addr x.size ecc
    if a.status = 0 then a.part.moduleGood x.num a.data else a.part
  else if (refusedAt x.node true).isSome || x.addr.testBit 40 then p
  else p.moduleRequest x.num { typ := 1, cls := 2, dst := x.node, addr := x.addr, len := (x.size + 3) / 4 * 4, data := [], use := .module x.num }

/-- REMOTE_MODULE_READ. -/
def execRemoteModuleRead (m : Fin 64) (ecc : List EccFind) (t : Instant) (s : State) :=
  s.run (fun p => match p.remote m.val with
    | none => p
    | some x =>
      if x.input && p.moduleDue x t then
        let p := p.atRing t
        (p.setRemote { p.remoteData m.val with last := some t }).moduleRead x ecc
      else p)

/-- An output module is sent, with the values of the latest copy-out; where the write is refused OUTERR is set. A write to
node 127 reaches this node too (R37). -/
def Part.moduleSend (p : Part) (x : CycModule) : Part :=
  let bs := (p.remoteData x.num).data.take x.size
  let err := fun (p : Part) (b : Bool) => p.setBit (Reg.CYC_RMSTAT x.num) 29 b
  let own := fun (p : Part) =>
    let a := p.nodeWrite .ring x.addr bs
    err a.part (a.status ≠ 0)
  if p.isSelf x.node then own p
  else if (refusedAt x.node false).isSome || x.addr.testBit 40 then err p true
  else if x.node = 127 then
    (own p).moduleRequest x.num
      { typ := 3, cls := 2, dst := 127, addr := x.addr, len := bs.length, data := bs, use := .module x.num }
  else
    p.moduleRequest x.num
      { typ := 2, cls := 2, dst := x.node, addr := x.addr, len := bs.length, data := bs, use := .module x.num }

/-- REMOTE_MODULE_SEND. -/
def execRemoteModuleSend (m : Fin 64) (t : Instant) (s : State) :=
  s.run (fun p => match p.remote m.val with
    | none => p
    | some x =>
      if !x.input && p.moduleDue x t then
        let p := p.atRing t
        (p.setRemote { p.remoteData m.val with last := some t }).moduleSend x
      else p)

end Sys2Proof.Machine
end

