-- ==== Sys2Proof/Machine/HostPort.lean ====
section
/-! DEFINITION. The host port: accesses over PCIe through the windows of R38, and the commands of the host SPI port (R327,
R328). -/

namespace Sys2Proof.Machine

/-! Windows (R38, Table 1.13). -/

/-- The local address that an offset of a node window maps; none where it is unassigned. -/
def windowAddr (o : Nat) : Option Nat :=
  if o < 0x1000000 then some (0x40000000 + o)
  else if o < 0x2000000 then some (0x10000000 + (o - 0x1000000))
  else if o < 0x3000000 then some (0x30000000 + (o - 0x2000000))
  else if o < 0x4000000 then some (0x50000000 + (o - 0x3000000))
  else if o < 0x8000000 then some (0x20000000 + (o - 0x4000000))
  else none

/-- The node of a host address and the offset in its window: BAR0 is this node's window, BAR2 holds node n at
(n − 1) × 256 MiB. -/
def hostWindow (bar2 : Bool) (a : Nat) : Nat × Nat :=
  if bar2 then (a / 0x10000000 + 1, a % 0x10000000) else (0, a % 0x4000000)

/-- An access of up to 512 bytes, in pieces of at most 256: offset and length. -/
def hostPieces (n : Nat) : List (Nat × Nat) := if n ≤ 256 then [(0, n)] else [(0, 256), (256, n - 256)]

/-! Accesses. -/

/-- The next number of a host access. -/
def Part.hostNew (p : Part) : Nat × Part := (p.ring.hostCount, p.onRing (fun x => { x with hostCount := x.hostCount + 1 }))

/-- A read that ends with no data, and sets CONFLICT: another node's window at a part whose host does not serve node 1
(R312); the spec gives no status for it. -/
def Part.hostConflict (p : Part) (x : HostAcc) : Part :=
  let st := p.freshBelow 16
  let p := ((p.taken.setBit Reg.HOST_ERR 28 true).setFld Reg.HOST_ERR 16 7 (x.addr / 2 ^ 41)).setFld Reg.HOST_ERR 0 4 st
  let p := p.setPair Reg.HOST_ERRADDR_LO x.addr
  if x.write then p else p.send (.host (List.replicate x.data.length 0))

/-- A PCIe access to a local address of a node. `x` holds the ring address, and as many bytes as are read. -/
def Part.hostCarry (p : Part) (x : HostAcc) (node a : Nat) (bs : List Byte) (ecc : List EccFind) : Part :=
  if p.isSelf node then
    let r := if x.write then p.nodeWrite .host a bs else p.nodeRead .host a x.data.length ecc
    r.part.hostDone { x with data := if x.write then [] else r.data, status := r.status }
  else if !p.bit Reg.RING_STAT 30 then p.hostConflict x
  else
    let (id, p) := p.hostNew
    let l := hostPieces (if x.write then bs.length else x.data.length)
    let p := p.onRing (fun r => { r with pcie := r.pcie ++ [{ x with id := id, left := l.length }] })
    p.each l (fun p e => p.request
      { typ := if x.write then 2 else 1, cls := 3, dst := node, addr := a + e.1,
        len := if x.write then e.2 else (e.2 + 3) / 4 * 4, data := (bs.drop e.1).take e.2, use := .host id e.1 })

/-- A PCIe access in the windows; an unassigned offset is an access to an unassigned address of the node (R33). -/
def Part.hostAccess (p : Part) (bar2 write : Bool) (addr n : Nat) (bs : List Byte) (ecc : List EccFind) : Part :=
  let (node, o) := hostWindow bar2 addr
  if !p.bit Reg.HOST_LINK 31 || n = 0 || 512 < n || 4096 < addr % 4096 + n then p
  else match windowAddr o with
    | some a =>
      p.hostCarry { addr := (if p.isSelf node then 0 else node) * 2 ^ 41 + a, write := write, data := List.replicate n 0 } node a bs ecc
    | none =>
      let at_ := p.fresh.toNat % 2 ^ 40
      let p := if p.isSelf node then p.taken.decodeError .host at_ else p
      if write then p else p.send (.host (List.replicate n 0))

/-- HOST_PCIE_READ: BAR2 or BAR0, the address within it, and the bytes asked for. -/
def execHostPcieRead (bar2 : Bool) (addr : BitVec 34) (n : Nat) (ecc : List EccFind) (t : Instant) (s : State) :=
  s.run (fun p => (p.at t).hostAccess bar2 false addr.toNat n [] ecc)

/-- HOST_PCIE_WRITE: at most 256 bytes. -/
def execHostPcieWrite (bar2 : Bool) (addr : BitVec 34) (data : List Byte) (t : Instant) (s : State) :=
  s.run (fun p => if 256 < data.length then p else (p.at t).hostAccess bar2 true addr.toNat data.length data [])

/-! The host SPI port (R327). -/

/-- A valid command makes the port live (R312), and source 61 rises when it does. -/
def Part.hspiLive (p : Part) : Part := if p.bit Reg.HOST_LINK 23 then p else (p.setBit Reg.HOST_LINK 23 true).irq 61

/-- READ or WRITE while BUSY is ignored and sets ERR. -/
def Part.hspiStart (p : Part) (go : Part → Part) : Part :=
  let p := p.hspiLive
  if p.ring.hspi.isSome then p.onRing (fun x => { x with hspiErr := true })
  else go (p.onRing (fun x => { x with hspiErr := false }))

/-- The ring address of a command: node and local address. -/
def Part.hspiCarry (p : Part) (addr : Nat) (write : Bool) (n : Nat) (bs : List Byte) (ecc : List EccFind) : Part :=
  let node := addr / 2 ^ 41
  let a := addr % 2 ^ 41
  let x : HostAcc := { addr := addr, write := write, data := List.replicate n 0, left := 1 }
  if p.isSelf node then
    let r := if write then p.nodeWrite .host a bs else p.nodeRead .host a n ecc
    r.part.hspiDone { x with data := if write then [] else r.data, status := r.status }
  else if !p.bit Reg.RING_STAT 30 then
    let q := p.hostConflict { x with write := true }
    q.onRing (fun r => { r with hspiStatus := q.fld Reg.HOST_ERR 0 4, hspiWords := if write then r.hspiWords else List.replicate (n / 4) 0 })
  else if node = 127 && write && !a.testBit 40 then
    let p := p.request { typ := 3, cls := 3, dst := 127, addr := a, len := n, data := bs, use := .hspi 0 }
    (p.busWrite .host a bs).hspiDone { x with data := [] }
  else match refusedAt node (!write) with
    | some st => p.hspiDone { x with status := st }
    | none =>
      if a.testBit 40 then p.hspiDone { x with status := 1 }
      else
        (p.onRing (fun r => { r with hspi := some x })).request
          { typ := if write then 2 else 1, cls := 3, dst := node, addr := a, len := n, data := bs, use := .hspi 0 }

/-- HSPI_WRITE: 1 to 64 words at a ring address, issued when chip select rises. -/
def execHspiWrite (addr : BitVec 48) (ws : List Word) (t : Instant) (s : State) :=
  s.runRom (fun p =>
    if ws.isEmpty || 64 < ws.length then p
    else (p.at t).hspiStart (·.hspiCarry addr.toNat true (4 * ws.length) (ws.flatMap (fun w => bytesOf 4 w.toNat)) []))

/-- HSPI_READ: 1 to 64 words. -/
def execHspiRead (addr : BitVec 48) (n : Fin 64) (ecc : List EccFind) (t : Instant) (s : State) :=
  s.runRom (fun p => (p.at t).hspiStart (·.hspiCarry addr.toNat false (4 * (n.val + 1)) [] ecc))

/-- The word that STATUS returns: BUSY, ERR, the status of the last command, and how many words are ready. -/
def Part.hspiStatusWord (p : Part) : Word :=
  let r := p.ring
  BitVec.ofNat 32 (r.hspi.isSome.toNat * 2 ^ 31 + r.hspiErr.toNat * 2 ^ 30 + r.hspiStatus % 16 * 2 ^ 16
    + (if r.hspi.isSome then 0 else r.hspiWords.length % 128))

/-- HSPI_STATUS. -/
def execHspiStatus (t : Instant) (s : State) :=
  s.runRom (fun p => let p := (p.at t).hspiLive
    p.send (.hspi [p.hspiStatusWord]))

/-- HSPI_DATA: the words of the last completed READ. -/
def execHspiData (t : Instant) (s : State) :=
  s.runRom (fun p => let p := (p.at t).hspiLive
    p.send (.hspi p.ring.hspiWords))

end Sys2Proof.Machine
end

