-- ==== Sys2Proof/Machine/Tick.lean ====
section
/-! DEFINITION. The tempo tick of a group, in the order of Table 1.4 (R23), and the boundary at which a timebase stops (R199). -/

namespace Sys2Proof.Machine

/-- The instant at which the next update of a timebase takes place, for a command at `t`: its scheduled instant of local tempo,
where `t` lies within one count of the timebase clock of it. The same holds in hold-over and while local tempo slews (R22, R372):
instants are those of local tempo, so no tick is missed, doubled or moved by more than a count. -/
def Part.updateTime (p : Part) (g : Grp) (t : Instant) : Option Instant :=
  let u := p.nextUpdate g
  if u ≤ t + countUnits && t ≤ u + countUnits then some u else none

/-- The update after one: the apex where the carrier updates there too, else the next boundary. -/
def Part.nextTb (p : Part) (g : Grp) (t : Instant) : Timebase :=
  let x := p.tb g
  let x := if p.dbl g && !x.apex then { x with apex := true } else { x with apex := false, k := x.k + 1 }
  { x with first := false, last := t }

/-- The exchange that switches at a tick (R139, R140): of a running group one whose writes of the gap are made; of a stopped one
the first tick at or after its time. -/
def Part.exchangeNow (p : Part) (g : Grp) (t : Instant) : Option Exchange :=
  (p.cg g).exch.filter (fun x =>
    if p.groupRuns g then x.ready else x.at?.all (fun a => decide ((a : Int) ≤ (t : Int) + p.time.off)))

/-- Step 1: staged sets move, and with them what an exchange that switches commits. The second part lists the commit registers
to show as moved once the transfer is made. -/
def Part.tickCommits (p : Part) (g : Grp) (boundary : Bool) (x : Option Exchange) : Part × List (Nat × Option Grp) :=
  let (p, shows) := p.tickMoves g boundary
  match x with
  | none => (p, shows)
  | some x =>
    let p := p.moveWords g x
    match x.commit with
    | some snap => (p.moveSnap (.cle g) snap, shows ++ [(unitStat (.cle g), some g)])
    | none => (p, shows)

/-- Step 4: sensing under the set of the part `q` before the tick, positions, ramps and ports. -/
def Part.tickInputs (p q : Part) (g : Grp) (edges : List (Nat × Nat)) (first : Bool) : Part :=
  (((((p.senseTick q g edges first).auxTick g).posTicks g).rampTicks g).fillPorts g)

/-- Whether a cut-in in which this part goes out is armed for a tick of the group, while it holds the floor (R123). -/
def Part.holdsHalt (p : Part) (g : Grp) (t : Instant) : Bool :=
  p.floor && p.pair_.armed.any (fun a => !a.incoming && a.grp = g && a.tc ≤ p.ringOf t + nsec 1)

/-- A halt or a stop that falls due at a tick. -/
def Part.tickStops (p : Part) (g : Grp) (t : Instant) : Part :=
  let c := p.cg g
  if p.groupRuns g && c.haltNext then p.haltGroup g (p.holdsHalt g t) t
  else if c.runReq = some false then p.stopGroup g 0 false t
  else p

/-- Steps 5 to 7: the region, a join or the switch of an exchange, a start, and the next sample. The region of a group that
starts is selected from its safe exports. -/
def Part.tickFigure (p : Part) (g : Grp) (x : Option Exchange) (t : Instant) : Part :=
  let p := p.when (p.groupRuns g) (·.regionTick g)
  let p := p.onCg g (fun c => { c with first := false })
  let p := match x with
    | some x => p.switchFigure g x
    | none => p.when ((p.cg g).load.any (fun (y : Loading) => y.joinNext)) (·.joinLane g)
  let p := if (p.cg g).runReq = some true && !p.groupRuns g then
      let q := p.startGroup g
      q.when (q.groupRuns g) (·.regionTick g)
    else p
  if p.groupRuns g then ((p.beginSample g t).gridMeasure g).genTick g else p

/-- TEMPO_TICK at the instant `t` of an update. -/
def Part.tick (p : Part) (g : Grp) (t : Instant) (edges : List (Nat × Nat)) : Part :=
  let tb := p.tb g
  let x := p.exchangeNow g t
  let q := p
  let (p, shows) := p.tickCommits g (!tb.apex) x
  let p := p.transfer g
  let p := (p.when (!tb.apex) (·.gateSwapPeriod g)).each shows (fun p e => p.showMoved e)
  let p := (p.floorTick g t).tickInputs q g edges tb.first
  let p := (p.tickStops g t).tickFigure g x t
  let p := (p.scheduleGroup g tb.k tb.apex t).sendHeartbeat g t
  p.setTb g (p.nextTb g t)

/-- TEMPO_TICK: the timebase runs and does not stop at this boundary; `edges` lists the sigma-delta channels whose modulator
edge count since the last tick differs from N_s, with the count. -/
def execTempoTick (g : Grp) (t : Instant) (edges : List (Nat × Nat)) (s : State) :=
  s.run (fun p =>
    let tb := p.tb g
    if !p.tbRuns g || (tb.stopReq && !tb.apex) then p
    else match p.updateTime g t with
      | some u => (p.at u).tick g u edges
      | none => p)

/-- TIMEBASE_STOP_BOUNDARY: the timebase stops, its pairs take their safe state, and sets that wait for it move (R25, R199). -/
def execTimebaseStopBoundary (g : Grp) (t : Instant) (s : State) :=
  s.run (fun p =>
    let tb := p.tb g
    if !p.tbRuns g || !tb.stopReq || tb.apex then p
    else match p.updateTime g t with
      | some u => ((p.at u).tbStopped g u).moveStopped
      | none => p)

end Sys2Proof.Machine
end

