-- ==== Sys2Proof/Machine/Dispatch.lean ====
section
/-! DEFINITION. One arm per command: the call of its meaning. -/

namespace Sys2Proof.Machine

/-- The effect of a command on the part; the queue is left as it stands. -/
def exec (i : Instr) (s : State) : Host.Outcome State Fault Refusal :=
  match i with
  | .registerWrite ini off v hwSet t => Sys2Proof.Machine.execRegisterWrite ini off v hwSet t s
  | .pairLoRead ini off => Sys2Proof.Machine.execPairLoRead ini off s
  | .pairHiRead ini off => Sys2Proof.Machine.execPairHiRead ini off s
  | .pairLoWrite ini off v => Sys2Proof.Machine.execPairLoWrite ini off v s
  | .pairHiWrite ini off v t => Sys2Proof.Machine.execPairHiWrite ini off v t s
  | .stagedWrite ini off v => Sys2Proof.Machine.execStagedWrite ini off v s
  | .commitGo u tag t => Sys2Proof.Machine.execCommitGo u tag t s
  | .commitMove u t => Sys2Proof.Machine.execCommitMove u t s
  | .sysJcommitGo mask tag t => Sys2Proof.Machine.execSysJcommitGo mask tag t s
  | .jointCommitMove t => Sys2Proof.Machine.execJointCommitMove t s
  | .decodeErrorAccess ini addr isWrite v => Sys2Proof.Machine.execDecodeErrorAccess ini addr isWrite v s
  | .sysSwrst v t => Sys2Proof.Machine.execSysSwrst v t s
  | .sysOccRead reg => Sys2Proof.Machine.execSysOccRead reg s
  | .transactionEntryGrant ini ends => Sys2Proof.Machine.execTransactionEntryGrant ini ends s
  | .gpioEdge pin level => Sys2Proof.Machine.execGpioEdge pin level s
  | .gpioLatchWrite kind v => Sys2Proof.Machine.execGpioLatchWrite kind v s
  | .tempoTick g t edges => Sys2Proof.Machine.execTempoTick g t edges s
  | .transientWindowEnd g => Sys2Proof.Machine.execTransientWindowEnd g s
  | .transientRearm g => Sys2Proof.Machine.execTransientRearm g s
  | .profileViolation g => Sys2Proof.Machine.execProfileViolation g s
  | .profileEpisodeEnd g => Sys2Proof.Machine.execProfileEpisodeEnd g s
  | .rideEnd g => Sys2Proof.Machine.execRideEnd g s
  | .premagnetisationEnd g => Sys2Proof.Machine.execPremagnetisationEnd g s
  | .formRampComplete g => Sys2Proof.Machine.execFormRampComplete g s
  | .seqcmdCharge g => Sys2Proof.Machine.execSeqcmdCharge g s
  | .seqcmdReady g => Sys2Proof.Machine.execSeqcmdReady g s
  | .seqcmdForm g => Sys2Proof.Machine.execSeqcmdForm g s
  | .seqcmdSync g => Sys2Proof.Machine.execSeqcmdSync g s
  | .seqcmdOnline g => Sys2Proof.Machine.execSeqcmdOnline g s
  | .seqcmdIsland g => Sys2Proof.Machine.execSeqcmdIsland g s
  | .seqcmdTrip g => Sys2Proof.Machine.execSeqcmdTrip g s
  | .seqcmdOff g => Sys2Proof.Machine.execSeqcmdOff g s
  | .seqHostStart t => Sys2Proof.Machine.execSeqHostStart t s
  | .seqHostStop t => Sys2Proof.Machine.execSeqHostStop t s
  | .seqHostReset t => Sys2Proof.Machine.execSeqHostReset t s
  | .seqHostCharge t => Sys2Proof.Machine.execSeqHostCharge t s
  | .seqHostOff t => Sys2Proof.Machine.execSeqHostOff t s
  | .seqTcommit t => Sys2Proof.Machine.execSeqTcommit t s
  | .prechargeTimeout t => Sys2Proof.Machine.execPrechargeTimeout t s
  | .syncWindowsHeld t => Sys2Proof.Machine.execSyncWindowsHeld t s
  | .cb1FeedbackTimeout t => Sys2Proof.Machine.execCb1FeedbackTimeout t s
  | .syncTimeout t => Sys2Proof.Machine.execSyncTimeout t s
  | .firstMoverSlotExpiry t => Sys2Proof.Machine.execFirstMoverSlotExpiry t s
  | .stopTimeout t => Sys2Proof.Machine.execStopTimeout t s
  | .dcLinkOutOfBand t => Sys2Proof.Machine.execDcLinkOutOfBand t s
  | .voterWord g => Sys2Proof.Machine.execVoterWord g s
  | .pwmWindowClose g => Sys2Proof.Machine.execPwmWindowClose g s
  | .signatureComparison g t => Sys2Proof.Machine.execSignatureComparison g t s
  | .laneLate lane t => Sys2Proof.Machine.execLaneLate lane t s
  | .reserveCopyComplete g => Sys2Proof.Machine.execReserveCopyComplete g s
  | .laneBistComplete lane pass => Sys2Proof.Machine.execLaneBistComplete lane pass s
  | .laneHardFault lane parity t => Sys2Proof.Machine.execLaneHardFault lane parity t s
  | .mismatchWindowClose lane t => Sys2Proof.Machine.execMismatchWindowClose lane t s
  | .laneEccCorrected lane => Sys2Proof.Machine.execLaneEccCorrected lane s
  | .fadeEnd g => Sys2Proof.Machine.execFadeEnd g s
  | .cleRunStart g => Sys2Proof.Machine.execCleRunStart g s
  | .cleRunStop g => Sys2Proof.Machine.execCleRunStop g s
  | .cstart g => Sys2Proof.Machine.execCstart g s
  | .correlationDone g => Sys2Proof.Machine.execCorrelationDone g s
  | .capstart g => Sys2Proof.Machine.execCapstart g s
  | .capstop g => Sys2Proof.Machine.execCapstop g s
  | .captureFull g => Sys2Proof.Machine.execCaptureFull g s
  | .generatorEnable g on => Sys2Proof.Machine.execGeneratorEnable g on s
  | .capdataRead g => Sys2Proof.Machine.execCapdataRead g s
  | .scanPeriodExpiry g t => Sys2Proof.Machine.execScanPeriodExpiry g t s
  | .scanComplete g late t => Sys2Proof.Machine.execScanComplete g late t s
  | .scanRevertLast g t => Sys2Proof.Machine.execScanRevertLast g t s
  | .scanRevertAll g t => Sys2Proof.Machine.execScanRevertAll g t s
  | .vNop o => Sys2Proof.Machine.execVNop o s
  | .vFadd o => Sys2Proof.Machine.execVFadd o s
  | .vFsub o => Sys2Proof.Machine.execVFsub o s
  | .vFmul o => Sys2Proof.Machine.execVFmul o s
  | .vFma o => Sys2Proof.Machine.execVFma o s
  | .vFnma o => Sys2Proof.Machine.execVFnma o s
  | .vFmin o => Sys2Proof.Machine.execVFmin o s
  | .vFmax o => Sys2Proof.Machine.execVFmax o s
  | .vFabs o => Sys2Proof.Machine.execVFabs o s
  | .vFneg o => Sys2Proof.Machine.execVFneg o s
  | .vFmov o => Sys2Proof.Machine.execVFmov o s
  | .vFcmp o => Sys2Proof.Machine.execVFcmp o s
  | .vSel o => Sys2Proof.Machine.execVSel o s
  | .vSat o => Sys2Proof.Machine.execVSat o s
  | .vIntg o => Sys2Proof.Machine.execVIntg o s
  | .vAccd o => Sys2Proof.Machine.execVAccd o s
  | .vFtst o => Sys2Proof.Machine.execVFtst o s
  | .vPlog o => Sys2Proof.Machine.execVPlog o s
  | .vIand o => Sys2Proof.Machine.execVIand o s
  | .vIor o => Sys2Proof.Machine.execVIor o s
  | .vIxor o => Sys2Proof.Machine.execVIxor o s
  | .vIshl o => Sys2Proof.Machine.execVIshl o s
  | .vIshr o => Sys2Proof.Machine.execVIshr o s
  | .vIcmp o => Sys2Proof.Machine.execVIcmp o s
  | .vPins o => Sys2Proof.Machine.execVPins o s
  | .vCvti o => Sys2Proof.Machine.execVCvti o s
  | .vCvtf o => Sys2Proof.Machine.execVCvtf o s
  | .vLd o => Sys2Proof.Machine.execVLd o s
  | .vSt o => Sys2Proof.Machine.execVSt o s
  | .vLdc o => Sys2Proof.Machine.execVLdc o s
  | .vLdp o => Sys2Proof.Machine.execVLdp o s
  | .vIn o => Sys2Proof.Machine.execVIn o s
  | .vOut o => Sys2Proof.Machine.execVOut o s
  | .vPwmw o => Sys2Proof.Machine.execVPwmw o s
  | .vSincos o => Sys2Proof.Machine.execVSincos o s
  | .vSqrt o => Sys2Proof.Machine.execVSqrt o s
  | .vRecip o => Sys2Proof.Machine.execVRecip o s
  | .vAtan2 o => Sys2Proof.Machine.execVAtan2 o s
  | .vClarke o => Sys2Proof.Machine.execVClarke o s
  | .vPark o => Sys2Proof.Machine.execVPark o s
  | .vIpark o => Sys2Proof.Machine.execVIpark o s
  | .vSeq o => Sys2Proof.Machine.execVSeq o s
  | .vSwing o => Sys2Proof.Machine.execVSwing o s
  | .vLimv o => Sys2Proof.Machine.execVLimv o s
  | .vBiq o => Sys2Proof.Machine.execVBiq o s
  | .vInj o => Sys2Proof.Machine.execVInj o s
  | .vAadd o => Sys2Proof.Machine.execVAadd o s
  | .vAdif o => Sys2Proof.Machine.execVAdif o s
  | .vSampleEnd o => Sys2Proof.Machine.execVSampleEnd o s
  | .modulatorClkloss n t => Sys2Proof.Machine.execModulatorClkloss n t s
  | .manchesterViolation n t => Sys2Proof.Machine.execManchesterViolation n t s
  | .stuck n => Sys2Proof.Machine.execStuck n s
  | .fineOutput n bs t => Sys2Proof.Machine.execFineOutput n bs t s
  | .fastPathOutput n window t => Sys2Proof.Machine.execFastPathOutput n window t s
  | .settlingEnd n due => Sys2Proof.Machine.execSettlingEnd n due s
  | .senseSwapTimeout r => Sys2Proof.Machine.execSenseSwapTimeout r s
  | .auxadcConversionDone code t => Sys2Proof.Machine.execAuxadcConversionDone code t s
  | .auxadcFreerun t => Sys2Proof.Machine.execAuxadcFreerun t s
  | .comparatorTripCrossing k t => Sys2Proof.Machine.execComparatorTripCrossing k t s
  | .comparatorHardCrossing k t => Sys2Proof.Machine.execComparatorHardCrossing k t s
  | .comparatorRelease k hard => Sys2Proof.Machine.execComparatorRelease k hard s
  | .blankingEnd leg t => Sys2Proof.Machine.execBlankingEnd leg t s
  | .protFrearm v => Sys2Proof.Machine.execProtFrearm v s
  | .protReserveMap r v t => Sys2Proof.Machine.execProtReserveMap r v t s
  | .protReserveArmEnd r t => Sys2Proof.Machine.execProtReserveArmEnd r t s
  | .timebaseStart g t => Sys2Proof.Machine.execTimebaseStart g t s
  | .timebaseStop g t => Sys2Proof.Machine.execTimebaseStop g t s
  | .timebaseStopBoundary g t => Sys2Proof.Machine.execTimebaseStopBoundary g t s
  | .delayLineRefresh rangeOk t => Sys2Proof.Machine.execDelayLineRefresh rangeOk t s
  | .pwmEdge leg t => Sys2Proof.Machine.execPwmEdge leg t s
  | .deadTimeExpiry leg t => Sys2Proof.Machine.execDeadTimeExpiry leg t s
  | .gsReturn ch level t => Sys2Proof.Machine.execGsReturn ch level t s
  | .gateTimeout ch t => Sys2Proof.Machine.execGateTimeout ch t s
  | .padFault ch bad t => Sys2Proof.Machine.execPadFault ch bad t s
  | .npcDwellEnd leg t => Sys2Proof.Machine.execNpcDwellEnd leg t s
  | .pwmCmpaWrite ini q v => Sys2Proof.Machine.execPwmCmpaWrite ini q v s
  | .pwmCmpbWrite ini q v t => Sys2Proof.Machine.execPwmCmpbWrite ini q v t s
  | .gateTripclr v t => Sys2Proof.Machine.execGateTripclr v t s
  | .tripLatchClear leg t => Sys2Proof.Machine.execTripLatchClear leg t s
  | .gateFrearm v => Sys2Proof.Machine.execGateFrearm v s
  | .gateReserveSelect r t => Sys2Proof.Machine.execGateReserveSelect r t s
  | .gateReserveTargetOff r t => Sys2Proof.Machine.execGateReserveTargetOff r t s
  | .gateSwapTimeout r => Sys2Proof.Machine.execGateSwapTimeout r s
  | .gbusPoll n => Sys2Proof.Machine.execGbusPoll n s
  | .gbusResponse n data => Sys2Proof.Machine.execGbusResponse n data s
  | .gbusTimeout n => Sys2Proof.Machine.execGbusTimeout n s
  | .quadratureEdge n a b z t => Sys2Proof.Machine.execQuadratureEdge n a b z t s
  | .indexEvent n t => Sys2Proof.Machine.execIndexEvent n t s
  | .sincosConversion n sn cs t => Sys2Proof.Machine.execSincosConversion n sn cs t s
  | .serialFrameStart n t => Sys2Proof.Machine.execSerialFrameStart n t s
  | .serialFrameDone n raw datHigh t => Sys2Proof.Machine.execSerialFrameDone n raw datHigh t s
  | .pcmpPulseEnd n t => Sys2Proof.Machine.execPcmpPulseEnd n t s
  | .posArm n v => Sys2Proof.Machine.execPosArm n v s
  | .posListWrite n k v => Sys2Proof.Machine.execPosListWrite n k v s
  | .rampTgtWrite c v => Sys2Proof.Machine.execRampTgtWrite c v s
  | .rampSet c => Sys2Proof.Machine.execRampSet c s
  | .rampHold c => Sys2Proof.Machine.execRampHold c s
  | .rampRelease c => Sys2Proof.Machine.execRampRelease c s
  | .lockstepMismatch slot t => Sys2Proof.Machine.execLockstepMismatch slot t s
  | .corePairBistComplete pair pass => Sys2Proof.Machine.execCorePairBistComplete pair pass s
  | .sAdd o => Sys2Proof.Machine.execSAdd o s
  | .sSub o => Sys2Proof.Machine.execSSub o s
  | .sAnd o => Sys2Proof.Machine.execSAnd o s
  | .sOr o => Sys2Proof.Machine.execSOr o s
  | .sXor o => Sys2Proof.Machine.execSXor o s
  | .sShl o => Sys2Proof.Machine.execSShl o s
  | .sShr o => Sys2Proof.Machine.execSShr o s
  | .sSar o => Sys2Proof.Machine.execSSar o s
  | .sRor o => Sys2Proof.Machine.execSRor o s
  | .sMul o => Sys2Proof.Machine.execSMul o s
  | .sMulh o => Sys2Proof.Machine.execSMulh o s
  | .sDiv o => Sys2Proof.Machine.execSDiv o s
  | .sRem o => Sys2Proof.Machine.execSRem o s
  | .sCmp o => Sys2Proof.Machine.execSCmp o s
  | .sLdhi h rd imm => Sys2Proof.Machine.execSLdhi h rd imm s
  | .sFadd o => Sys2Proof.Machine.execSFadd o s
  | .sFsub o => Sys2Proof.Machine.execSFsub o s
  | .sFmul o => Sys2Proof.Machine.execSFmul o s
  | .sFdiv o => Sys2Proof.Machine.execSFdiv o s
  | .sFma o => Sys2Proof.Machine.execSFma o s
  | .sFsqrt o => Sys2Proof.Machine.execSFsqrt o s
  | .sFmin o => Sys2Proof.Machine.execSFmin o s
  | .sFmax o => Sys2Proof.Machine.execSFmax o s
  | .sFcmp o => Sys2Proof.Machine.execSFcmp o s
  | .sFconvert o toInt => Sys2Proof.Machine.execSFconvert o toInt s
  | .sFmove o toS => Sys2Proof.Machine.execSFmove o toS s
  | .sLd o => Sys2Proof.Machine.execSLd o s
  | .sSt o => Sys2Proof.Machine.execSSt o s
  | .sFld o => Sys2Proof.Machine.execSFld o s
  | .sFst o => Sys2Proof.Machine.execSFst o s
  | .sLdgrp o => Sys2Proof.Machine.execSLdgrp o s
  | .sStgrp o => Sys2Proof.Machine.execSStgrp o s
  | .sLdrv o => Sys2Proof.Machine.execSLdrv o s
  | .sStcv o => Sys2Proof.Machine.execSStcv o s
  | .sAtadd o => Sys2Proof.Machine.execSAtadd o s
  | .sAtswp o => Sys2Proof.Machine.execSAtswp o s
  | .sAtcmp o => Sys2Proof.Machine.execSAtcmp o s
  | .sMcpy h units => Sys2Proof.Machine.execSMcpy h units s
  | .sGo h test off => Sys2Proof.Machine.execSGo h test off s
  | .sGol h off => Sys2Proof.Machine.execSGol h off s
  | .sTcall h code => Sys2Proof.Machine.execSTcall h code s
  | .sDbrk h => Sys2Proof.Machine.execSDbrk h s
  | .sXret h => Sys2Proof.Machine.execSXret h s
  | .sSrd o => Sys2Proof.Machine.execSSrd o s
  | .sSwr o => Sys2Proof.Machine.execSSwr o s
  | .sDrain h => Sys2Proof.Machine.execSDrain h s
  | .sIrfs h => Sys2Proof.Machine.execSIrfs h s
  | .sXlinvAll o => Sys2Proof.Machine.execSXlinvAll o s
  | .sXlinvAsid o => Sys2Proof.Machine.execSXlinvAsid o s
  | .sXlinvVa o => Sys2Proof.Machine.execSXlinvVa o s
  | .sXlinvPageAsid o => Sys2Proof.Machine.execSXlinvPageAsid o s
  | .sIdle h => Sys2Proof.Machine.execSIdle h s
  | .interruptTaken slot src t => Sys2Proof.Machine.execInterruptTaken slot src t s
  | .mmuCtxWrite ini k lo hi => Sys2Proof.Machine.execMmuCtxWrite ini k lo hi s
  | .queuePidxWrite ini q v => Sys2Proof.Machine.execQueuePidxWrite ini q v s
  | .queueCidxWrite ini q v => Sys2Proof.Machine.execQueueCidxWrite ini q v s
  | .dmaDescriptorFetch c ecc => Sys2Proof.Machine.execDmaDescriptorFetch c ecc s
  | .dmaBeat c ecc t => Sys2Proof.Machine.execDmaBeat c ecc t s
  | .dmaResume c => Sys2Proof.Machine.execDmaResume c s
  | .dmaSkip c => Sys2Proof.Machine.execDmaSkip c s
  | .dmaAbort c => Sys2Proof.Machine.execDmaAbort c s
  | .dmaEnWrite c on => Sys2Proof.Machine.execDmaEnWrite c on s
  | .rowReplace addr => Sys2Proof.Machine.execRowReplace addr s
  | .scrubPass emram found => Sys2Proof.Machine.execScrubPass emram found s
  | .xspiCommand v => Sys2Proof.Machine.execXspiCommand v s
  | .xspiCommandDone ok status data => Sys2Proof.Machine.execXspiCommandDone ok status data s
  | .emramProtectedWrite addr => Sys2Proof.Machine.execEmramProtectedWrite addr s
  | .taskRelease task t start => Sys2Proof.Machine.execTaskRelease task t start s
  | .eventTaskRelease task rise t start => Sys2Proof.Machine.execEventTaskRelease task rise t start s
  | .taskBodyEnd task out timers edges lines t => Sys2Proof.Machine.execTaskBodyEnd task out timers edges lines t s
  | .remoteModuleRead m ecc t => Sys2Proof.Machine.execRemoteModuleRead m ecc t s
  | .remoteModuleStale m t => Sys2Proof.Machine.execRemoteModuleStale m t s
  | .remoteModuleSend m t => Sys2Proof.Machine.execRemoteModuleSend m t s
  | .retentionWriteback => Sys2Proof.Machine.execRetentionWriteback s
  | .cleSnapshot t => Sys2Proof.Machine.execCleSnapshot t s
  | .pfailAssert t => Sys2Proof.Machine.execPfailAssert t s
  | .pfailFlushComplete t => Sys2Proof.Machine.execPfailFlushComplete t s
  | .pfailRelease t => Sys2Proof.Machine.execPfailRelease t s
  | .forceSet => Sys2Proof.Machine.execForceSet s
  | .forceRel => Sys2Proof.Machine.execForceRel s
  | .forceRelall => Sys2Proof.Machine.execForceRelall s
  | .forceList => Sys2Proof.Machine.execForceList s
  | .precopyDone t => Sys2Proof.Machine.execPrecopyDone t s
  | .onlineSwitch t => Sys2Proof.Machine.execOnlineSwitch t s
  | .switchWindowExpiry t => Sys2Proof.Machine.execSwitchWindowExpiry t s
  | .watchdogFire task t => Sys2Proof.Machine.execWatchdogFire task t s
  | .cycStart t => Sys2Proof.Machine.execCycStart t s
  | .cycStop t => Sys2Proof.Machine.execCycStop t s
  | .cycRestart t => Sys2Proof.Machine.execCycRestart t s
  | .ringLaneFail port lane errs => Sys2Proof.Machine.execRingLaneFail port lane errs s
  | .ringLaneSwap port t => Sys2Proof.Machine.execRingLaneSwap port t s
  | .hopReplay port n => Sys2Proof.Machine.execHopReplay port n s
  | .ringRd f ecc t => Sys2Proof.Machine.execRingRd f ecc t s
  | .ringWr f ecc t => Sys2Proof.Machine.execRingWr f ecc t s
  | .ringWrb f ecc t => Sys2Proof.Machine.execRingWrb f ecc t s
  | .ringCpl f t => Sys2Proof.Machine.execRingCpl f t s
  | .ringMsg f ecc t => Sys2Proof.Machine.execRingMsg f ecc t s
  | .ringTempo f lo hi t => Sys2Proof.Machine.execRingTempo f lo hi t s
  | .ringPair f m t => Sys2Proof.Machine.execRingPair f m t s
  | .ringBar f id release => Sys2Proof.Machine.execRingBar f id release s
  | .ringProm f m last => Sys2Proof.Machine.execRingProm f m last s
  | .ringStat f status at_ => Sys2Proof.Machine.execRingStat f status at_ s
  | .ringLink f m => Sys2Proof.Machine.execRingLink f m s
  | .requestTimeout dst tag t => Sys2Proof.Machine.execRequestTimeout dst tag t s
  | .tagGapSkip src bcast ecc t => Sys2Proof.Machine.execTagGapSkip src bcast ecc t s
  | .linkDown port t => Sys2Proof.Machine.execLinkDown port t s
  | .linkHeal port t => Sys2Proof.Machine.execLinkHeal port t s
  | .hostPortLive pcie lowest t => Sys2Proof.Machine.execHostPortLive pcie lowest t s
  | .promenadeSwitch t => Sys2Proof.Machine.execPromenadeSwitch t s
  | .timeOrderedSet port dly lanes farm d t => Sys2Proof.Machine.execTimeOrderedSet port dly lanes farm d t s
  | .timeLoss t => Sys2Proof.Machine.execTimeLoss t s
  | .snapshotArm lo hi t => Sys2Proof.Machine.execSnapshotArm lo hi t s
  | .snapshotTake t => Sys2Proof.Machine.execSnapshotTake t s
  | .barrierArrive id => Sys2Proof.Machine.execBarrierArrive id s
  | .ringReset t => Sys2Proof.Machine.execRingReset t s
  | .hostPcieRead bar2 addr n ecc t => Sys2Proof.Machine.execHostPcieRead bar2 addr n ecc t s
  | .hostPcieWrite bar2 addr data t => Sys2Proof.Machine.execHostPcieWrite bar2 addr data t s
  | .hspiWrite addr ws t => Sys2Proof.Machine.execHspiWrite addr ws t s
  | .hspiRead addr n ecc t => Sys2Proof.Machine.execHspiRead addr n ecc t s
  | .hspiStatus t => Sys2Proof.Machine.execHspiStatus t s
  | .hspiData t => Sys2Proof.Machine.execHspiData t s
  | .hostFlagclr v => Sys2Proof.Machine.execHostFlagclr v s
  | .hostStatusChange t => Sys2Proof.Machine.execHostStatusChange t s
  | .opRelease k => Sys2Proof.Machine.execOpRelease k s
  | .opCancel k t => Sys2Proof.Machine.execOpCancel k t s
  | .opDequeue k t => Sys2Proof.Machine.execOpDequeue k t s
  | .imageVerify k tag t => Sys2Proof.Machine.execImageVerify k tag t s
  | .imageActivate k tag t => Sys2Proof.Machine.execImageActivate k tag t s
  | .figureExchange k tag t => Sys2Proof.Machine.execFigureExchange k tag t s
  | .recordRead k tag t => Sys2Proof.Machine.execRecordRead k tag t s
  | .admittanceScan k tag t => Sys2Proof.Machine.execAdmittanceScan k tag t s
  | .bist k tag t => Sys2Proof.Machine.execBist k tag t s
  | .scrub k tag t => Sys2Proof.Machine.execScrub k tag t s
  | .calWrite k tag t => Sys2Proof.Machine.execCalWrite k tag t s
  | .healthReport k tag t => Sys2Proof.Machine.execHealthReport k tag t s
  | .attest k tag t => Sys2Proof.Machine.execAttest k tag t s
  | .reserveSwap k tag t => Sys2Proof.Machine.execReserveSwap k tag t s
  | .promenade k tag t => Sys2Proof.Machine.execPromenade k tag t s
  | .safetyConfig k tag t => Sys2Proof.Machine.execSafetyConfig k tag t s
  | .callInChange level t => Sys2Proof.Machine.execCallInChange level t s
  | .floorInChange level t => Sys2Proof.Machine.execFloorInChange level t s
  | .floorConflict t => Sys2Proof.Machine.execFloorConflict t s
  | .cutinPermitTimeout t => Sys2Proof.Machine.execCutinPermitTimeout t s
  | .openFloorRelease t => Sys2Proof.Machine.execOpenFloorRelease t s
  | .pairOpen t => Sys2Proof.Machine.execPairOpen t s
  | .pairReq t => Sys2Proof.Machine.execPairReq t s
  | .mirrorFrame f crcOk t => Sys2Proof.Machine.execMirrorFrame f crcOk t s
  | .partnerLaneFail lane t => Sys2Proof.Machine.execPartnerLaneFail lane t s
  | .memberHeartbeat k side h t => Sys2Proof.Machine.execMemberHeartbeat k side h t s
  | .heartbeatMiss k side tick t => Sys2Proof.Machine.execHeartbeatMiss k side tick t s
  | .callerHeartbeatSend k t => Sys2Proof.Machine.execCallerHeartbeatSend k t s
  | .callerHeartbeat b t => Sys2Proof.Machine.execCallerHeartbeat b t s
  | .callerLost t => Sys2Proof.Machine.execCallerLost t s
  | .cutinRequest k r t => Sys2Proof.Machine.execCutinRequest k r t s
  | .callerSwap k t => Sys2Proof.Machine.execCallerSwap k t s
  | .cutinDecision d t => Sys2Proof.Machine.execCutinDecision d t s
  | .cutinCallChange k t => Sys2Proof.Machine.execCutinCallChange k t s
  | .cutfailRestore k t => Sys2Proof.Machine.execCutfailRestore k t s
  | .standbySelftestStep pass found t => Sys2Proof.Machine.execStandbySelftestStep pass found t s
  | .ethLinkChange port up fault => Sys2Proof.Machine.execEthLinkChange port up fault s
  | .ethFrameReceive port data fcsOk t egress => Sys2Proof.Machine.execEthFrameReceive port data fcsOk t egress s
  | .ethTxEntry port t => Sys2Proof.Machine.execEthTxEntry port t s
  | .ethLaunch port t => Sys2Proof.Machine.execEthLaunch port t s
  | .prpSupervision t => Sys2Proof.Machine.execPrpSupervision t s
  | .macAgeing mac t => Sys2Proof.Machine.execMacAgeing mac t s
  | .servoUpdate v t => Sys2Proof.Machine.execServoUpdate v t s
  | .servoHoldover t => Sys2Proof.Machine.execServoHoldover t s
  | .timeStep t => Sys2Proof.Machine.execTimeStep t s
  | .localTempoLock t => Sys2Proof.Machine.execLocalTempoLock t s
  | .tempoRestore d t => Sys2Proof.Machine.execTempoRestore d t s
  | .timeNowRead t => Sys2Proof.Machine.execTimeNowRead t s
  | .capSwtrig v t => Sys2Proof.Machine.execCapSwtrig v t s
  | .acquisitionSample u t => Sys2Proof.Machine.execAcquisitionSample u t s
  | .recordClose u t => Sys2Proof.Machine.execRecordClose u t s
  | .measurementsDone id t => Sys2Proof.Machine.execMeasurementsDone id t s
  | .recordCopyDone id => Sys2Proof.Machine.execRecordCopyDone id s
  | .capProtect => Sys2Proof.Machine.execCapProtect s
  | .capDelete => Sys2Proof.Machine.execCapDelete s
  | .safetyInputSample ch pins cf outs t => Sys2Proof.Machine.execSafetyInputSample ch pins cf outs t s
  | .safetyCycle ch selfOk t => Sys2Proof.Machine.execSafetyCycle ch selfOk t s
  | .safetyComparisonFrame ch t => Sys2Proof.Machine.execSafetyComparisonFrame ch t s
  | .safetyFrameLost ch t => Sys2Proof.Machine.execSafetyFrameLost ch t s
  | .testPulse o t => Sys2Proof.Machine.execTestPulse o t s
  | .inputDiscrepancy ch inp t => Sys2Proof.Machine.execInputDiscrepancy ch inp t s
  | .ss1Timeout ch a t => Sys2Proof.Machine.execSs1Timeout ch a t s
  | .lockfault ch f t => Sys2Proof.Machine.execLockfault ch f t s
  | .resetInput ch inp t => Sys2Proof.Machine.execResetInput ch inp t s
  | .contactorFeedbackTimeout ch n t => Sys2Proof.Machine.execContactorFeedbackTimeout ch n t s
  | .safereqDemand d => Sys2Proof.Machine.execSafereqDemand d s
  | .safereqReset on => Sys2Proof.Machine.execSafereqReset on s
  | .safereqClose d => Sys2Proof.Machine.execSafereqClose d s
  | .safereqUnlock d => Sys2Proof.Machine.execSafereqUnlock d s
  | .keyAck t => Sys2Proof.Machine.execKeyAck t s
  | .keyTimeout t => Sys2Proof.Machine.execKeyTimeout t s
  | .driftEvaluation t => Sys2Proof.Machine.execDriftEvaluation t s
  | .ownerEnroll t => Sys2Proof.Machine.execOwnerEnroll t s
  | .vendorKeyRevoke t => Sys2Proof.Machine.execVendorKeyRevoke t s
  | .debugToken => Sys2Proof.Machine.execDebugToken s
  | .powerOnReset banks t => Sys2Proof.Machine.execPowerOnReset banks t s
  | .refclkError t => Sys2Proof.Machine.execRefclkError t s
  | .supplyReset rail t => Sys2Proof.Machine.execSupplyReset rail t s
  | .pllLock pll early t => Sys2Proof.Machine.execPllLock pll early t s
  | .pllAcquisitionFail pll early t => Sys2Proof.Machine.execPllAcquisitionFail pll early t s
  | .pllReserveReady t => Sys2Proof.Machine.execPllReserveReady t s
  | .pllLossOfLock early t => Sys2Proof.Machine.execPllLossOfLock early t s
  | .bandMeasure v t => Sys2Proof.Machine.execBandMeasure v t s
  | .bandMeasureDone mhz t => Sys2Proof.Machine.execBandMeasureDone mhz t s
  | .supplySag island sram deep t => Sys2Proof.Machine.execSupplySag island sram deep t s
  | .sagRecovery island sram t => Sys2Proof.Machine.execSagRecovery island sram t s
  | .monitorSample kind xs t => Sys2Proof.Machine.execMonitorSample kind xs t s
  | .tempCritical t => Sys2Proof.Machine.execTempCritical t s
  | .monVminmaxRead j max => Sys2Proof.Machine.execMonVminmaxRead j max s
  | .vaultWake t => Sys2Proof.Machine.execVaultWake t s
  | .tamper crystal t => Sys2Proof.Machine.execTamper crystal t s
  | .rtcSync t => Sys2Proof.Machine.execRtcSync t s
  | .longOperationComplete k fails found t => Sys2Proof.Machine.execLongOperationComplete k fails found t s
  | .refclkReturn t => Sys2Proof.Machine.execRefclkReturn t s
  | .partnerLinkReturn lanes t => Sys2Proof.Machine.execPartnerLinkReturn lanes t s
  | .ringRetrainComplete east west t => Sys2Proof.Machine.execRingRetrainComplete east west t s

end Sys2Proof.Machine
end

