-- ==== Sys2Proof/Safety.lean ====
section
/-! DEFINITION. What counts as a sound state and a safe run, in the words the statements use. -/

namespace Sys2Proof.Machine

/-- The register file lists its words in rising order and none at its reset value, and so does memory. -/
def State.canonical (s : State) : Prop := s.part.regsWf = true ∧ s.part.mem.wf = true

/-- A step that ends in a state. -/
def State.goesOn (s : State) : Prop := ∃ t, step s = .next t

/-- A command completes: it leaves a part, and the queue as it was. -/
def completes (i : Instr) (s : State) : Prop := ∃ p, exec i s = .next { s with part := p }

/-- A command completes with a part of which `P` holds, and the queue as it was. -/
def Does (i : Instr) (s : State) (P : Part → Prop) : Prop := ∃ p, exec i s = .next { s with part := p } ∧ P p

/-- A command completes and leaves everything as it was. -/
def Idles (i : Instr) (s : State) : Prop := exec i s = .next s

/-- From `p` to `q` nothing changed but time and the registers at the offsets listed. -/
def RegsOnly (p q : Part) (offs : List Nat) : Prop :=
  q = { p with regs := q.regs, now := q.now } ∧ ∀ off, off ∉ offs → q.reg off = p.reg off

/-- The registers of `q` at the offsets not listed read as those of `p`. -/
def RegsBut (p q : Part) (offs : List Nat) : Prop := ∀ off, off ∉ offs → q.reg off = p.reg off

/-- A lane as a Heloryx-V operation issued on it finds it: what is due by the cycle of its bundle has landed (R162). -/
def vLane (s : State) (o : VOp) : Lane := (s.part.lane o.lane).upTo o.bundle.toNat

/-- A Heloryx-V operation has its effect: its lane runs a sample, and its guard is true (R161). -/
def vActs (s : State) (o : VOp) : Prop :=
  s.part.alive = true ∧ s.part.laneRuns o.lane = true ∧ (vLane s o).preg o.p.toNat = true

/-- A Heloryx-V operation issues on its lane, changes nothing else but that the words its lane has stored reach a replacement that loads
from it (R118), and what it gives lands `lat` cycles later. -/
def Lands (i : Instr) (o : VOp) (s : State) (isX : Bool) (lat : Nat) (effs : List LandEffect) : Prop :=
  Does i s (fun p => p = s.part.ranLane o.lane ((vLane s o).launch (o.bundle.toNat + lat) isX effs))

/-- The part that a command leaves; the part as it was where it leaves none. -/
def partAfter (i : Instr) (s : State) : Part :=
  match exec i s with
  | .next t => t.part
  | .fault _ => s.part
  | .refused _ => s.part

/-- The slot and the word of a Heloryx-S instruction. -/
def sHead? : Instr → Option SHead
  | .sAdd o | .sSub o | .sAnd o | .sOr o | .sXor o | .sShl o | .sShr o | .sSar o | .sRor o | .sMul o | .sMulh o | .sDiv o
  | .sRem o | .sCmp o => some o.h
  | .sFadd o | .sFsub o | .sFmul o | .sFdiv o | .sFma o | .sFsqrt o | .sFmin o | .sFmax o | .sFcmp o => some o.h
  | .sFconvert o _ | .sFmove o _ => some o.h
  | .sLd o | .sSt o | .sFld o | .sFst o | .sLdrv o | .sStcv o | .sAtadd o | .sAtswp o | .sAtcmp o => some o.h
  | .sLdgrp o | .sStgrp o => some o.h
  | .sSrd o | .sSwr o => some o.h
  | .sXlinvAll o | .sXlinvAsid o | .sXlinvVa o | .sXlinvPageAsid o => some o.h
  | .sLdhi h _ _ | .sMcpy h _ | .sGo h _ _ | .sGol h _ | .sTcall h _ | .sDbrk h | .sXret h | .sDrain h | .sIrfs h
  | .sIdle h => some h
  | _ => none

/-- The part as a slot issues an instruction: its instant reached, the slot running, and the errors of the word noted. -/
def sWord (s : State) (h : SHead) : Part :=
  ((s.part.at h.t).onSlot h.slot (fun x => { x with run := .running })).eccFind h.ecc

/-- The part and the answer once the address of the instruction has been translated. -/
def sXlat (s : State) (h : SHead) : Part × Except (XErr × Nat) Xlat :=
  (sWord s h).slotXlate h.slot ((sWord s h).slot h.slot).pc.toNat .fetch ((sWord s h).task? h.slot)

/-- The part once the instruction has been fetched, and the cause and ESR bits of an exception of the fetch. -/
def sFetch (s : State) (h : SHead) : Part × Option (Nat × Nat) := (sWord s h).fetchS h.slot

/-- The part as the operation of an instruction finds it. -/
def sPart (s : State) (h : SHead) : Part := (sFetch s h).1

/-- The slot as the operation of an instruction finds it. -/
def sSlot (s : State) (h : SHead) : CoreSlot := (sPart s h).slot h.slot

/-- A slot issues a sound instruction: the slot runs, the word is fetched without a fault, and its unused fields are 0. -/
def sRuns (s : State) (h : SHead) : Prop :=
  s.part.alive = true ∧ (s.part.at h.t).issues h.slot = true ∧ h.junk = false ∧ (sFetch s h).2 = none

/-- An instruction completes and, beside its fetch, changes its slot alone. -/
def Slots (i : Instr) (h : SHead) (s : State) (y : CoreSlot) : Prop := Does i s (fun p => p = (sPart s h).setSlot h.slot y)

/-- The same with a free value taken. -/
def SlotsFree (i : Instr) (h : SHead) (s : State) (P : CoreSlot → Prop) : Prop :=
  Does i s (fun p => ∃ y n, P y ∧ p = { (sPart s h).setSlot h.slot y with freeCount := n })

/-- The bytes of an access of a slot are checked with no fault: the part after the checks, and the physical parts. -/
def sAccess (s : State) (h : SHead) (va : Word) (n unit : Nat) (acc : Acc) (read : Bool) (q : Part) (l : List Piece) : Prop :=
  sRuns s h ∧ 0 < n ∧ (sPart s h).xlateAll h.slot va.toNat n acc read = (q, l) ∧ dataFault l = none ∧
  storesRegs ((sPart s h).task? h.slot) acc l = false ∧ (l.any (·.dev) = true → va.toNat % unit = 0)

/-- The numbers that the runtime and the ring keep of tasks, slots, channels and modules lie in their ranges, and the image
of a change is a valid one. -/
def Part.ranged (p : Part) : Prop :=
  (∀ x ∈ p.cyc.tasks, x.desc.id < 32 ∧ x.desc.slot < 3) ∧
  (∀ c, p.cyc.change = some c → imageFault c.img = none ∧ c.op < 8) ∧
  ∀ r ∈ p.ring.reqs ++ p.ring.waits, (∀ c, r.use = .dma c → c < 16) ∧ ∀ m, r.use = .module m → m < 64

/-- A frame that arrives is kept: its header and its trailer are sound, its epoch is this node's (a node without an address
takes promenade frames of any epoch), it left at most 40 µs ago, and its type and class are among Table 11.2's (R308, R316,
R317). -/
def Part.ringGood (q : Part) (f : RingFrame) : Prop :=
  let x := hdrOf f.hdr
  hdrField f.hdr 0 16 = hcrc f.hdr ∧ (x.epoch = q.epoch ∨ (x.typ = 11 ∧ q.bit Reg.RING_STAT 31 = false)) ∧
  q.frameAge x ≤ 4000 ∧ ringTypes.contains x.typ = true ∧ classOk x = true ∧ f.crc.toNat = frameCrc f.hdr f.payload

/-- A frame is for this node, and not one that this node sent. -/
def Part.ringMine (q : Part) (f : RingFrame) : Prop :=
  let x := hdrOf f.hdr
  (x.dst = 127 ∨ (x.dst = q.node ∧ q.bit Reg.RING_STAT 31 = true)) ∧ ¬ (x.src = q.node ∧ q.bit Reg.RING_STAT 31 = true)

/-- A kept frame of this node's, of a type, whose HOPS stay below 128 here (R308). -/
def Part.ringTakes (q : Part) (f : RingFrame) (typ : Nat) : Prop :=
  (hdrOf f.hdr).typ = typ ∧ q.ringGood f ∧ q.ringMine f ∧ (hdrOf f.hdr).hops < 127

/-- From `q` to `p` local tempo has met ring time `d` ahead of it (R372): equal within 0.5 ns; taken at once beyond TSNAP
while no group and no timebase runs; else slewing. -/
def Part.followed (q p : Part) (d : Int) : Prop :=
  let runs := q.groupRuns .A || q.groupRuns .B || q.tbRuns .A || q.tbRuns .B
  let snap := usec (q.reg Reg.TIME_TSNAP).toNat
  let locked := p.time.off = 0 ∧ p.time.slewAt = none ∧ p.bit Reg.TIME_STAT 27 = true ∧ p.bit Reg.TIME_STAT 26 = false ∧
    p.reg Reg.TIME_LTDIFF = 0
  (d.natAbs < 32768 → locked ∧ p.now = q.now) ∧
  (32768 ≤ d.natAbs → snap < d.natAbs → runs = false → locked ∧ p.now = ((q.now : Int) + d).toNat) ∧
  (32768 ≤ d.natAbs → d.natAbs ≤ snap ∨ runs = true → p.time.off = d ∧ p.time.slewAt = some (q.time.slewAt.getD q.now) ∧
    p.bit Reg.TIME_STAT 27 = false ∧ p.bit Reg.TIME_STAT 26 = true ∧ p.now = q.now)

/-- From `q` to `p` channel `c` has raised a channel fault of a code: both channels are in the safe state, shown, a load
has failed, and the first fault is kept (R393, R394, R404). -/
def Part.safeFaulted (q p : Part) (c code : Nat) : Prop :=
  p.safe.fault = true ∧ p.safe.load = none ∧ p.reg Reg.SAFE_OUT = 0 ∧ p.bit Reg.SAFE_STAT 31 = true ∧
  p.bit Reg.SAFE_STAT 30 = true ∧ (∀ k < 2, (p.sch k).sto = true ∧ (p.sch k).outs = 0) ∧
  (q.safe.fault = false → p.fld Reg.SAFE_FAULT 24 8 = code ∧ p.fld Reg.SAFE_FAULT 22 2 = c + 1)

/-- What any reset leaves of a part (R445, R452): the registers that a reset keeps, eMRAM but for lines that were not
written back, the fuses and what has been retired; every other register at its reset value, every other byte blank. -/
def Part.wasReset (s p : Part) : Prop :=
  let vault := [Reg.PWR_VAULT, Reg.PWR_RTC_SLO, Reg.PWR_RTC_SHI, Reg.PWR_RTC_NS]
  let partly := [Reg.SPARE_HEALTH, Reg.CYC_STAT, Reg.CLK_STAT, Reg.MMU_SLOTMAP, Reg.PWR_RSTCAUSE]
  (∀ off, off ∉ keptRegs → off ∉ partly → off ∉ (List.range 8).map Reg.CLE_LSTAT → p.reg off = ({} : Part).reg off) ∧
  (∀ off ∈ keptRegs, off ∉ vault → p.reg off = s.reg off) ∧
  (s.cyc.dirty = [] → ∀ a, inEmram a = true → p.byte a = s.byte a) ∧ (∀ a, inEmram a = false → p.byte a = memBlank a) ∧
  p.trust.ownerFuse = s.trust.ownerFuse ∧ p.trust.v0Revoked = s.trust.v0Revoked ∧ p.health.retired = s.health.retired

end Sys2Proof.Machine
end

