-- ==== Sys2Proof/WellFormed.lean ====
section
/-! DEFINITION. Which operands a command may carry: the bounds that the rules of its step set and that the operand types
do not already hold. The meanings are total; outside these bounds a command names nothing that can occur. -/

namespace Sys2Proof

/-- A ring frame: 0 to 256 payload bytes (R308). -/
def RingFrame.wf (f : RingFrame) : Bool := f.payload.length ≤ 256

/-- What the error codes find lies in the local address space (R32, R271). -/
def EccFind.wf (e : EccFind) : Bool := e.addr < 2 ^ 40

/-- All findings lie in the local address space. -/
def eccWf (l : List EccFind) : Bool := l.all EccFind.wf

/-- What an instruction of a service slot carries. -/
def SHead.wf (h : SHead) : Bool := eccWf h.ecc

/-- Nodes 1 to 64 (R308). -/
def nodeWf (n : Nat) : Bool := 1 ≤ n && n ≤ 64

/-- A mirror frame carries at most the 256 words of the parameter file and the four bands of its group (R346). -/
def MirrorFrame.wf (f : MirrorFrame) : Bool := f.spw.length ≤ 256 && f.bands.length ≤ 4

/-- Hop distances of a reply, and addresses and hop distances of an assignment, are those of a ring of at most 64 nodes
(R305, R313). -/
def PromMsg.wf : PromMsg → Bool
  | .start e => e < 16
  | .reply _ e w => e.all (· ≤ 64) && w.all (· ≤ 64)
  | .assign e a d _ => e < 16 && a.all (fun x => nodeWf x.2) && d.all (fun x => nodeWf x.1 && x.2 ≤ 64)

/-- A notice names a node of the ring (R320). -/
def LinkMsg.wf : LinkMsg → Bool
  | .broken n => nodeWf n
  | .heal n _ => nodeWf n
  | .reset => true
  | .joined => true

/-- How many monitors a period reads (Table 17.8). -/
def MonKind.count : MonKind → Nat
  | .temp => 10
  | .volt => 24
  | .pm => 16

/-- An access of the host port over PCIe: 1 to `most` bytes within 4 KiB (R327). -/
def pcieWf (addr n most : Nat) : Bool := 1 ≤ n && n ≤ most && addr % 4096 + n ≤ 4096

/-- The commands whose operands the rules bound further than their types. -/
def Instr.wf : Instr → Bool
  | .registerWrite _ off _ _ _ => off.toNat % 4 = 0
  | .pairLoRead _ off => off.toNat % 4 = 0
  | .pairHiRead _ off => off.toNat % 4 = 0
  | .pairLoWrite _ off _ => off.toNat % 4 = 0
  | .pairHiWrite _ off _ _ => off.toNat % 4 = 0
  | .stagedWrite _ off _ => off.toNat % 4 = 0
  | .tempoTick _ _ edges => edges.all (fun e => e.1 < 28)
  | .gbusResponse _ data => data.length ≤ 7
  | .xspiCommandDone _ _ data => data.length ≤ 16
  | .dmaDescriptorFetch _ ecc => eccWf ecc
  | .dmaBeat _ ecc _ => eccWf ecc
  | .scrubPass _ found => eccWf found
  | .standbySelftestStep _ found _ => eccWf found
  | .remoteModuleRead _ ecc _ => eccWf ecc
  | .tagGapSkip src _ ecc _ => nodeWf src.toNat && eccWf ecc
  | .longOperationComplete _ _ found _ => eccWf found
  | .ringRd f ecc _ => f.wf && eccWf ecc
  | .ringWr f ecc _ => f.wf && eccWf ecc
  | .ringWrb f ecc _ => f.wf && eccWf ecc
  | .ringMsg f ecc _ => f.wf && eccWf ecc
  | .ringCpl f _ => f.wf
  | .ringTempo f _ _ _ => f.wf
  | .ringPair f _ _ => f.wf
  | .ringBar f _ _ => f.wf
  | .ringProm f m _ => f.wf && m.wf
  | .ringStat f _ _ => f.wf
  | .ringLink f m => f.wf && m.wf
  | .mirrorFrame (.inl f) _ _ => f.wf
  | .requestTimeout dst _ _ => nodeWf dst.toNat
  | .hostPcieRead _ addr n ecc _ => pcieWf addr.toNat n 512 && eccWf ecc
  | .hostPcieWrite _ addr data _ => pcieWf addr.toNat data.length 512
  | .hspiWrite _ ws _ => 1 ≤ ws.length && ws.length ≤ 64
  | .hspiRead _ _ ecc _ => eccWf ecc
  | .monitorSample kind xs _ => xs.length = kind.count
  | .sAdd o => o.h.wf
  | .sSub o => o.h.wf
  | .sAnd o => o.h.wf
  | .sOr o => o.h.wf
  | .sXor o => o.h.wf
  | .sShl o => o.h.wf
  | .sShr o => o.h.wf
  | .sSar o => o.h.wf
  | .sRor o => o.h.wf
  | .sMul o => o.h.wf
  | .sMulh o => o.h.wf
  | .sDiv o => o.h.wf
  | .sRem o => o.h.wf
  | .sCmp o => o.h.wf
  | .sLdhi h _ _ => h.wf
  | .sFadd o => o.h.wf
  | .sFsub o => o.h.wf
  | .sFmul o => o.h.wf
  | .sFdiv o => o.h.wf
  | .sFma o => o.h.wf
  | .sFsqrt o => o.h.wf
  | .sFmin o => o.h.wf
  | .sFmax o => o.h.wf
  | .sFcmp o => o.h.wf
  | .sFconvert o _ => o.h.wf
  | .sFmove o _ => o.h.wf
  | .sLd o => o.h.wf
  | .sSt o => o.h.wf
  | .sFld o => o.h.wf
  | .sFst o => o.h.wf
  | .sLdgrp o => o.h.wf
  | .sStgrp o => o.h.wf
  | .sLdrv o => o.h.wf
  | .sStcv o => o.h.wf
  | .sAtadd o => o.h.wf
  | .sAtswp o => o.h.wf
  | .sAtcmp o => o.h.wf
  | .sMcpy h _ => h.wf
  | .sGo h _ _ => h.wf
  | .sGol h _ => h.wf
  | .sTcall h _ => h.wf
  | .sDbrk h => h.wf
  | .sXret h => h.wf
  | .sSrd o => o.h.wf
  | .sSwr o => o.h.wf
  | .sDrain h => h.wf
  | .sIrfs h => h.wf
  | .sXlinvAll o => o.h.wf
  | .sXlinvAsid o => o.h.wf
  | .sXlinvVa o => o.h.wf
  | .sXlinvPageAsid o => o.h.wf
  | .sIdle h => h.wf
  | _ => true

end Sys2Proof
end

