-- ==== Sys2Proof/Certificates/Slice0/Obligations.lean ====
section
/-! DEFINITION. The statements about the part that are to be proved. -/

open Sys2Proof Sys2Proof.Machine

/-- A step takes the command at the front of the queue and runs it with the rest; with nothing waiting the part idles
(idling is the model's choice: log entry 2). -/
def Obligations.StepRunsFrontCommand : Prop :=
  (∀ (c : Instr) (rest : List Instr) (s : State), s.pending = c :: rest → step s = exec c { s with pending := rest }) ∧
  (∀ s : State, s.pending = [] → step s = .next s)

/-- The spec gives every step an effect (95_what_each_step_holds.md), so that no step ends the machine. -/
def Obligations.EveryStepGoesOn : Prop :=
  (∀ s : State, ∃ t, step s = .next t ∧ t.pending = s.pending.tail) ∧ (∀ (i : Instr) (s : State), completes i s)

/-- While the part is held in reset (R432, R446, R450) no command acts but those of the reset logic, the monitors and the
vault (R447): the model's reading, log entry 24. -/
def Obligations.ResetHoldsThePart : Prop :=
  ∀ (i : Instr) (s : State), s.part.clk.held.isSome = true →
    (∀ b t, i ≠ .powerOnReset b t) → (∀ t, i ≠ .refclkReturn t) → (∀ r t, i ≠ .supplyReset r t) →
    (∀ k xs t, i ≠ .monitorSample k xs t) → (∀ t, i ≠ .vaultWake t) → (∀ c t, i ≠ .tamper c t) →
      Idles i s ∧ (∀ rest, s.pending = i :: rest → step s = .next { s with pending := rest })

/-- An invariant of the model: registers and memory stay in canonical form (log entries 3 and 5). -/
def Obligations.CanonicalFormKept : Prop :=
  ∀ s t : State, s.canonical → step s = .next t → t.canonical

/-- The invariant holds right after reset, where nothing waits and nothing has been sent. -/
def Obligations.ResetIsCanonical : Prop :=
  State.reset.canonical ∧ State.reset.pending = [] ∧ State.reset.part.out = []

/-- R24: at reset each staged copy equals its committed reset value; with it, reset values of Tables 4.16, 7.10, 7.14, 8.6, 2.6
and 1.17, and role 0 (R41). -/
def Obligations.ResetValues : Prop :=
  (∀ off r, rowAt off = some r → r.st ≠ 0 → State.reset.part.staged off = State.reset.part.reg off) ∧
  State.reset.part.reg (Reg.CLE_RGN 0 0) = 0x8000FFFF ∧
  State.reset.part.reg (Reg.PWM_TBCFG 0) = 0x80000000 ∧
  State.reset.part.reg (Reg.GATE_CCFG 0) = 0x0A000190 ∧
  State.reset.part.reg (Reg.POS_CFG 0) = 0x04CC3005 ∧
  State.reset.part.reg (Reg.CLE_PW 0 0) = 0x0360C600 ∧
  State.reset.part.reg Reg.SYS_POOL = 0x1818 ∧
  State.reset.part.role = 0 ∧ State.reset.part.floor = false

/-- R278: the identities and slots of tasks lie in the ranges of Table 10.1, and the requests of the ring name channels and
modules that exist; the premise of statements about stops. -/
def Obligations.RangesKept : Prop :=
  State.reset.part.ranged ∧ ∀ s t : State, s.part.ranged → step s = .next t → t.part.ranged

/-- R11 and R469: what a write stores, bit by bit, for a register whose write is no step of its own. -/
def Obligations.RegisterWriteByAccessCode : Prop :=
  ∀ (ini : Initiator) (off : BitVec 24) (v hw : Word) (t : Instant) (s : State) (r : RegRow),
    s.part.alive = true → rowAt off.toNat = some r → aliasOf off.toNat = none → r.st = 0 → r.joint = false →
    (s.part.at t).writeAct ini off.toNat v = none →
    Does (.registerWrite ini off v hw t) s (fun p =>
      (∀ i < 32, r.rw.testBit i = true → r.w1c.testBit i = false → r.w1s.testBit i = false →
        bitAt (p.reg off.toNat) i = bitAt v i) ∧
      (∀ i < 32, r.w1c.testBit i = true → r.rw.testBit i = false → r.w1s.testBit i = false →
        bitAt (p.reg off.toNat) i = ((bitAt (s.part.reg off.toNat) i && !bitAt v i) || bitAt hw i)) ∧
      (∀ i < 32, r.rw.testBit i = false → r.w1c.testBit i = false → r.w1s.testBit i = false →
        bitAt (p.reg off.toNat) i = bitAt (s.part.reg off.toNat) i) ∧
      RegsOnly s.part p [off.toNat])

/-- R10, clause by clause; the last clause is that of the W1C pairs. -/
def Obligations.PairsAreReadAndWrittenWhole : Prop :=
  (∀ (ini : Initiator) (off : BitVec 24) (s : State), s.part.alive = true → pairAt off.toNat = .lo →
    Does (.pairLoRead ini off) s (fun p =>
      p.bus.rdata = s.part.peek off.toNat ∧ p.bus.rok = true ∧
      sFind p.bus.latch (heldKey ini (off.toNat + 4)) = some (s.part.peek (off.toNat + 4)) ∧
      (∀ k, k ≠ heldKey ini (off.toNat + 4) → k ≠ heldKey ini (off.toNat + 8) →
        sFind p.bus.latch k = sFind s.part.bus.latch k) ∧
      p = { s.part with bus := { p.bus with held := s.part.bus.held } })) ∧
  (∀ (ini : Initiator) (off : BitVec 24) (s : State) (v : Word), s.part.alive = true → pairAt off.toNat = .hi →
    sFind s.part.bus.latch (heldKey ini off.toNat) = some v →
    Does (.pairHiRead ini off) s (fun p =>
      p.bus.rdata = v ∧ p.bus.rok = true ∧ sFind p.bus.latch (heldKey ini off.toNat) = none ∧
      (∀ k, k ≠ heldKey ini off.toNat → sFind p.bus.latch k = sFind s.part.bus.latch k) ∧
      p = { s.part with bus := { p.bus with held := s.part.bus.held } })) ∧
  (∀ (ini : Initiator) (off : BitVec 24) (s : State), s.part.alive = true → pairAt off.toNat = .hi →
    sFind s.part.bus.latch (heldKey ini off.toNat) = none →
    Does (.pairHiRead ini off) s (fun p =>
      p = { s.part with bus := { s.part.bus with rdata := s.part.peek off.toNat, rok := true } })) ∧
  (∀ (ini : Initiator) (off : BitVec 24) (v : Word) (s : State) (r : RegRow), s.part.alive = true →
    rowAt off.toNat = some r → aliasOf off.toNat = none → r.joint = true → r.pair = .lo →
    (∀ q < 24, off.toNat = Reg.PWM_CMPA q → s.part.bit (Reg.PWM_PCFG q) 29 = true) →
    Does (.pairLoWrite ini off v) s (fun p =>
      p.held ini off.toNat = some v ∧
      (∀ k, k ≠ heldKey ini off.toNat → sFind p.bus.held k = sFind s.part.bus.held k) ∧
      p = { s.part with bus := { s.part.bus with held := p.bus.held } })) ∧
  (∀ (ini : Initiator) (lo : Nat) (off : BitVec 24) (v : Word) (t : Instant) (s : State) (a b : RegRow),
    s.part.alive = true →
    lo ∈ [Reg.SEC_DBGADDR_LO, Reg.PAIR_OPENT_LO, Reg.CLE_XTIME_LO 0, Reg.CLE_XTIME_LO 1, Reg.ETH_RXBUF_LO 0,
      Reg.ETH_RXBUF_LO 1] ++ (List.range 8).map Reg.OP_RBUF_LO →
    off.toNat = lo + 4 → rowAt lo = some a → rowAt (lo + 4) = some b →
    Does (.pairHiWrite ini off v t) s (fun p =>
      p.reg lo &&& BitVec.ofNat 32 a.rw = (s.part.held ini lo).getD (s.part.reg lo) &&& BitVec.ofNat 32 a.rw ∧
      p.reg (lo + 4) &&& BitVec.ofNat 32 b.rw = v &&& BitVec.ofNat 32 b.rw ∧
      p.held ini lo = none ∧ (∀ k, k ≠ heldKey ini lo → sFind p.bus.held k = sFind s.part.bus.held k) ∧
      RegsBut s.part p [lo, lo + 4] ∧
      p = { s.part with regs := p.regs, now := max s.part.now t, bus := { s.part.bus with held := p.bus.held } })) ∧
  (∀ (ini : Initiator) (g : Grp) (off : BitVec 24) (v : Word) (t : Instant) (s : State), s.part.alive = true →
    off.toNat = Reg.PWM_ANCHOR_HI g.ix →
    Does (.pairHiWrite ini off v t) s (fun p =>
      p.staged (Reg.PWM_ANCHOR_HI g.ix) = v ∧
      p.staged (Reg.PWM_ANCHOR_LO g.ix) =
        (s.part.held ini (Reg.PWM_ANCHOR_LO g.ix)).getD (s.part.staged (Reg.PWM_ANCHOR_LO g.ix)) ∧
      p.held ini (Reg.PWM_ANCHOR_LO g.ix) = none ∧
      RegsBut s.part p [stagedOff (Reg.PWM_ANCHOR_LO g.ix), stagedOff (Reg.PWM_ANCHOR_HI g.ix)])) ∧
  (∀ (ini : Initiator) (off : BitVec 24) (v : Word) (t : Instant) (s : State), s.part.alive = true →
    off.toNat ∈ [Reg.HOST_SUMMARY_LO, Reg.HOST_SUMMARY_HI, Reg.CLE_NANF_LO 0, Reg.CLE_NANF_HI 0, Reg.CLE_NANF_LO 1,
      Reg.CLE_NANF_HI 1] →
    Does (.registerWrite ini off v 0 t) s (fun p =>
      p.reg off.toNat = s.part.reg off.toNat &&& ~~~v ∧ RegsOnly s.part p [off.toNat]))

/-- R24 to R30: staged writes, GO, refusals, and a move without a tick. -/
def Obligations.CommitsMoveSnapshots : Prop :=
  (∀ (ini : Initiator) (off : BitVec 24) (v : Word) (s : State) (r : RegRow), s.part.alive = true →
    rowAt (baseOff off.toNat) = some r → r.st ≠ 0 → r.pair = .single →
    Does (.stagedWrite ini off v) s (fun p =>
      p.staged (baseOff off.toNat) = v &&& BitVec.ofNat 32 r.st ∧
      RegsOnly s.part p [stagedOff (baseOff off.toNat)])) ∧
  -- the low half of a staged pair is held, and its high half takes both
  (∀ (ini : Initiator) (off : BitVec 24) (v : Word) (s : State) (r : RegRow), s.part.alive = true →
    rowAt (baseOff off.toNat) = some r → r.st ≠ 0 →
    let b := baseOff off.toNat
    (r.pair = .lo → Does (.stagedWrite ini off v) s (fun p => p.held ini b = some v ∧
      p = { s.part with bus := { s.part.bus with held := p.bus.held } })) ∧
    (r.pair = .hi → s.part.held ini (b - 4) = none → Does (.stagedWrite ini off v) s (fun p =>
      p.staged b = v &&& BitVec.ofNat 32 r.st ∧ RegsOnly s.part p [stagedOff b])) ∧
    (∀ l, r.pair = .hi → 4 ≤ b → s.part.held ini (b - 4) = some l → Does (.stagedWrite ini off v) s (fun p =>
      p.staged b = v &&& BitVec.ofNat 32 r.st ∧ p.staged (b - 4) = l &&& BitVec.ofNat 32 r.st ∧ p.held ini (b - 4) = none ∧
      RegsBut s.part p [stagedOff b, stagedOff (b - 4)]))) ∧
  (∀ (u : CUnit) (tag : BitVec 8) (t : Instant) (s : State), s.part.alive = true → s.part.commitPending u = true →
    Does (.commitGo u tag t) s (fun p =>
      p.fld (unitStat u) 0 2 = 3 ∧ p.fld (unitStat u) 16 8 = 7 ∧ p.fld (unitStat u) 24 8 = tag.toNat ∧
      RegsOnly s.part p [unitStat u])) ∧
  (∀ (u : CUnit) (tag : BitVec 8) (t : Instant) (s : State) (c o : Nat), s.part.alive = true →
    s.part.commitPending u = false → (s.part.at t).unitCheck [u] u = some (c, o) →
    Does (.commitGo u tag t) s (fun p =>
      p.fld (unitStat u) 0 2 = 3 ∧ p.fld (unitStat u) 16 8 = c % 256 ∧ p.fld (unitStat u) 2 14 = o / 4 % 2 ^ 14 ∧
      p.fld (unitStat u) 24 8 = tag.toNat ∧ RegsOnly s.part p [unitStat u])) ∧
  (∀ (u : CUnit) (tag : BitVec 8) (t : Instant) (s : State), s.part.alive = true →
    s.part.commitPending u = false → (s.part.at t).unitCheck [u] u = none →
    Does (.commitGo u tag t) s (fun p =>
      (∃ snap, p.commits = s.part.commits ++ [{ unit := u, tag := tag.toNat, snap := snap }] ∧
        snap.map (·.1) = ((blockRows (unitBlock u)).flatMap stRegs).filter (s.part.inUnit u) ∧
        ∀ e ∈ snap, e.2 = s.part.staged e.1) ∧
      p.fld (unitStat u) 0 2 = 1 ∧ p.fld (unitStat u) 16 8 = 0 ∧ p.fld (unitStat u) 24 8 = tag.toNat ∧
      RegsBut s.part p [unitStat u] ∧
      p = { s.part with regs := p.regs, now := p.now, commits := p.commits })) ∧
  (∀ (u : CUnit) (t : Instant) (s : State) (c : PendCommit), s.part.alive = true →
    s.part.commits.find? (fun c => c.unit = u) = some c → s.part.sourceRuns u = false →
    let q := { s.part.at t with commits := s.part.commits.filter (fun x => x.unit ≠ u) }
    (c.snap.map (·.1)).Nodup →
    Does (.commitMove u t) s (fun p => p.fld (unitStat u) 0 2 = 2 ∧ p.fld (unitStat u) 16 8 = 0 ∧
      (∀ e ∈ c.snap, (q.placeSnap c.snap).reg e.1 = e.2) ∧
      p = ((q.placeSnap c.snap).unitMoved s.part.reg u).showMoved (unitStat u, u.grp?))) ∧
  (∀ (u : CUnit) (t : Instant) (s : State) (c : PendCommit), s.part.alive = true →
    u ∈ [.auxadc, .ramp, .nvm, .cyc, .ring, .eth, .spare, .pwr, .mon] →
    s.part.commits.find? (fun c => c.unit = u) = some c → (c.snap.map (·.1)).Nodup → unitStat u ∉ c.snap.map (·.1) →
    Does (.commitMove u t) s (fun p =>
      (∀ e ∈ c.snap, p.reg e.1 = e.2) ∧
      RegsBut s.part p (unitStat u :: c.snap.map (·.1)) ∧
      p.commits = s.part.commits.filter (fun x => x.unit ≠ u) ∧
      p.fld (unitStat u) 24 8 = s.part.fld (unitStat u) 24 8 ∧
      p = { s.part with regs := p.regs, now := p.now, commits := p.commits })) ∧
  (∀ (u : CUnit) (t : Instant) (s : State), s.part.alive = true → s.part.sourceRuns u = true →
    Idles (.commitMove u t) s)

/-- R31: the joint commit. -/
def Obligations.JointCommitIsOneSet : Prop :=
  (∀ (mask tag : BitVec 8) (t : Instant) (s : State), s.part.alive = true →
    let us := (jointUnits.zipIdx.filter (fun e => mask.toNat.testBit e.2)).map (·.1)
    (s.part.joint.isSome = true ∨ (∃ u ∈ us, s.part.commitPending u = true)) →
    Does (.sysJcommitGo mask tag t) s (fun p =>
      p.reg Reg.SYS_JCSTAT = cstatWord tag.toNat 7 0 3 ∧ RegsOnly s.part p [Reg.SYS_JCSTAT])) ∧
  (∀ (mask tag : BitVec 8) (t : Instant) (s : State), s.part.alive = true →
    let us := (jointUnits.zipIdx.filter (fun e => mask.toNat.testBit e.2)).map (·.1)
    s.part.joint = none → (∀ u ∈ us, s.part.commitPending u = false) →
    (∃ u ∈ us, u.grp? = some .A) → (∃ u ∈ us, u.grp? = some .B) →
    Does (.sysJcommitGo mask tag t) s (fun p =>
      p.reg Reg.SYS_JCSTAT = cstatWord tag.toNat 8 0 3 ∧ RegsOnly s.part p [Reg.SYS_JCSTAT])) ∧
  (∀ (mask tag : BitVec 8) (t : Instant) (s : State) (c o : Nat), s.part.alive = true →
    let us := (jointUnits.zipIdx.filter (fun e => mask.toNat.testBit e.2)).map (·.1)
    s.part.joint = none → (∀ u ∈ us, s.part.commitPending u = false) →
    ((∀ u ∈ us, u.grp? ≠ some .A) ∨ (∀ u ∈ us, u.grp? ≠ some .B)) →
    us.findSome? ((s.part.at t).unitCheck us) = some (c, o) →
    Does (.sysJcommitGo mask tag t) s (fun p =>
      p.reg Reg.SYS_JCSTAT = cstatWord tag.toNat c o 3 ∧ RegsOnly s.part p [Reg.SYS_JCSTAT])) ∧
  (∀ (mask tag : BitVec 8) (t : Instant) (s : State), s.part.alive = true →
    let us := (jointUnits.zipIdx.filter (fun e => mask.toNat.testBit e.2)).map (·.1)
    s.part.joint = none → (∀ u ∈ us, s.part.commitPending u = false) →
    ((∀ u ∈ us, u.grp? ≠ some .A) ∨ (∀ u ∈ us, u.grp? ≠ some .B)) →
    us.findSome? ((s.part.at t).unitCheck us) = none →
    Does (.sysJcommitGo mask tag t) s (fun p =>
      (∃ j, p.joint = some j ∧ j.tag = tag.toNat ∧ j.parts.map (·.unit) = us ∧ j.grp = (us.filterMap CUnit.grp?).head? ∧
        ∀ c ∈ j.parts, c.snap.map (·.1) = ((blockRows (unitBlock c.unit)).flatMap stRegs).filter (s.part.inUnit c.unit) ∧
          ∀ e ∈ c.snap, e.2 = s.part.staged e.1) ∧
      p.reg Reg.SYS_JCSTAT = cstatWord tag.toNat 0 0 1 ∧ RegsBut s.part p [Reg.SYS_JCSTAT] ∧
      p = { s.part with regs := p.regs, now := p.now, joint := p.joint })) ∧
  (∀ (t : Instant) (s : State) (j : JointCommit), s.part.alive = true → s.part.joint = some j →
    (j.grp = none ∨ ∃ g, j.grp = some g ∧ s.part.tbRuns g = false) →
    let q := j.parts.foldl (fun p c => p.placeSnap c.snap) (s.part.at t)
    Does (.jointCommitMove t) s (fun p =>
      p.joint = none ∧ p.fld Reg.SYS_JCSTAT 0 2 = 2 ∧ p.fld Reg.SYS_JCSTAT 16 8 = 0 ∧
      ((j.parts.flatMap (fun c => c.snap.map (·.1))).Nodup → ∀ c ∈ j.parts, ∀ e ∈ c.snap, q.reg e.1 = e.2) ∧
      p = { j.parts.foldl (fun (r : Part) (c : PendCommit) => r.unitMoved s.part.reg c.unit) q with joint := none }.showMoved (Reg.SYS_JCSTAT, j.grp))) ∧
  (∀ (t : Instant) (s : State) (j : JointCommit) (g : Grp), s.part.alive = true → s.part.joint = some j →
    j.grp = some g → s.part.tbRuns g = true → Idles (.jointCommitMove t) s)

/-- R33, R40, R42 and R43: the rows of the system block and of the general-purpose pins. -/
def Obligations.SystemAndPins : Prop :=
  (∀ (ini : Initiator) (addr : Addr) (wr : Bool) (v : Word) (s : State), s.part.alive = true →
    Does (.decodeErrorAccess ini addr wr v) s (fun p =>
      p.bit Reg.SYS_DECERR 0 = true ∧ p.fld Reg.SYS_DECERR 4 4 = ini.code ∧
      p.fld Reg.SYS_DECERR 16 16 = min (s.part.fld Reg.SYS_DECERR 16 16 + 1) 0xFFFF ∧
      p.reg Reg.SYS_DECERR_ADDR_LO = addr.setWidth 32 ∧
      p.reg Reg.SYS_DECERR_ADDR_HI = (addr >>> 32).setWidth 32 ∧
      (wr = false → p.bus.rdata = 0) ∧ (wr = true → p.bus = s.part.bus) ∧
      RegsBut s.part p [Reg.SYS_DECERR, Reg.SYS_DECERR_ADDR_LO, Reg.SYS_DECERR_ADDR_HI] ∧
      p = { s.part with regs := p.regs, bus := p.bus })) ∧
  (∀ (v : Word) (t : Instant) (s : State), v ≠ 0x53575253 → Idles (.sysSwrst v t) s) ∧
  (∀ (t : Instant) (s : State), s.part.clk.held = none → (∀ a, s.part.bus.swrst = some a → a + msec 1 < t) →
    Does (.sysSwrst 0x53575253 t) s (fun p =>
      p = { s.part with now := max s.part.now t, bus := { s.part.bus with swrst := some t } })) ∧
  (∀ (t a : Instant) (s : State), s.part.clk.held = none → s.part.bus.swrst = some a → t ≤ a + msec 1 →
    Does (.sysSwrst 0x53575253 t) s (fun p =>
      p = (s.part.restart 5 0 t).boot t ∧ (s.part.restart 5 0 t).reg Reg.PWR_RSTCAUSE = 0x05000000)) ∧
  (∀ (k : Fin 9) (s : State), s.part.alive = true →
    Does (.sysOccRead k.castSucc) s (fun p =>
      p.bus.rdata = s.part.reg (Reg.SYS_OCC k) ∧
      p.fld (Reg.SYS_OCC k) 16 8 = s.part.fld (Reg.SYS_OCC k) 0 8 ∧
      p.fld (Reg.SYS_OCC k) 0 16 = s.part.fld (Reg.SYS_OCC k) 0 16 ∧
      RegsBut s.part p [Reg.SYS_OCC k] ∧ p = { s.part with regs := p.regs, bus := p.bus })) ∧
  (∀ (s : State), s.part.alive = true →
    Does (.sysOccRead 9) s (fun p =>
      p.bus.rdata = s.part.reg Reg.SYS_POOL ∧ p.fld Reg.SYS_POOL 8 8 = s.part.fld Reg.SYS_POOL 0 8 ∧
      p.fld Reg.SYS_POOL 0 8 = s.part.fld Reg.SYS_POOL 0 8 ∧
      RegsBut s.part p [Reg.SYS_POOL] ∧ p = { s.part with regs := p.regs, bus := p.bus })) ∧
  (∀ (ini : Initiator) (s : State), s.part.alive = true → countOf s.part.bus.resv ini.ix < reservedEntries ini →
    Does (.transactionEntryGrant (some ini) []) s (fun p =>
      countOf p.bus.resv ini.ix = countOf s.part.bus.resv ini.ix + 1 ∧ p.bus.pool = s.part.bus.pool ∧
      p.fld Reg.SYS_POOL 0 8 = s.part.fld Reg.SYS_POOL 0 8 ∧
      RegsBut s.part p [Reg.SYS_OCC ini.code, Reg.SYS_POOL] ∧ p = { s.part with regs := p.regs, bus := p.bus })) ∧
  (∀ (ini : Initiator) (s : State), s.part.alive = true → reservedEntries ini ≤ countOf s.part.bus.resv ini.ix →
    0 < s.part.fld Reg.SYS_POOL 0 8 →
    Does (.transactionEntryGrant (some ini) []) s (fun p =>
      countOf p.bus.pool ini.ix = countOf s.part.bus.pool ini.ix + 1 ∧ p.bus.resv = s.part.bus.resv ∧
      p.fld Reg.SYS_POOL 0 8 = s.part.fld Reg.SYS_POOL 0 8 - 1 ∧
      RegsBut s.part p [Reg.SYS_OCC ini.code, Reg.SYS_POOL] ∧ p = { s.part with regs := p.regs, bus := p.bus })) ∧
  (∀ (ini : Initiator) (s : State), s.part.alive = true → reservedEntries ini ≤ countOf s.part.bus.resv ini.ix →
    s.part.fld Reg.SYS_POOL 0 8 = 0 →
    Does (.transactionEntryGrant (some ini) []) s (fun p =>
      0 < countOf p.bus.waiting ini.ix ∧ p.bus.resv = s.part.bus.resv ∧ p.bus.pool = s.part.bus.pool ∧
      p = { s.part with bus := p.bus })) ∧
  (∀ (ini : Option Initiator) (e : Initiator) (es : List Initiator) (s : State), s.part.alive = true →
    let q := s.part.endTransaction e
    exec (.transactionEntryGrant ini (e :: es)) s = exec (.transactionEntryGrant ini es) { s with part := q } ∧
    Does (.transactionEntryGrant none [e]) s (fun p => p = q) ∧
    (0 < countOf s.part.bus.pool e.ix → s.part.fld Reg.SYS_POOL 0 8 < 255 →
      countOf q.bus.pool e.ix = countOf s.part.bus.pool e.ix - 1 ∧ q.bus.resv = s.part.bus.resv ∧
      q.fld Reg.SYS_POOL 0 8 = s.part.fld Reg.SYS_POOL 0 8 + 1) ∧
    (countOf s.part.bus.pool e.ix = 0 →
      countOf q.bus.resv e.ix = countOf s.part.bus.resv e.ix - 1 ∧ q.bus.pool = s.part.bus.pool ∧
      q.fld Reg.SYS_POOL 0 8 = s.part.fld Reg.SYS_POOL 0 8) ∧
    RegsBut s.part q [Reg.SYS_OCC e.code, Reg.SYS_POOL] ∧ q = { s.part with regs := q.regs, bus := q.bus }) ∧
  (∀ (pin : Fin 32) (level : Bool) (s : State), s.part.alive = true →
    let new := xor level (s.part.bit (Reg.GPIO_CFG pin) 25)
    let old := s.part.bit Reg.GPIO_IN pin
    Does (.gpioEdge pin level) s (fun p =>
      p.bit Reg.GPIO_IN pin = new ∧
      p.bit Reg.GPIO_EVT pin = (s.part.bit Reg.GPIO_EVT pin ||
        (new && !old && s.part.bit (Reg.GPIO_CFG pin) 26) || (!new && old && s.part.bit (Reg.GPIO_CFG pin) 27)) ∧
      (∀ i < 32, i ≠ pin.val → p.bit Reg.GPIO_IN i = s.part.bit Reg.GPIO_IN i ∧
        p.bit Reg.GPIO_EVT i = s.part.bit Reg.GPIO_EVT i) ∧
      RegsOnly s.part p [Reg.GPIO_IN, Reg.GPIO_EVT])) ∧
  (∀ (kind : LatchWrite) (v : Word) (s : State), s.part.alive = true →
    Does (.gpioLatchWrite kind v) s (fun p =>
      (∀ i < 32, s.part.bit Reg.GPIO_OWN i = false → p.bit Reg.GPIO_OUT i = (match kind with
        | .out => bitAt v i
        | .set => s.part.bit Reg.GPIO_OUT i || bitAt v i
        | .clr => s.part.bit Reg.GPIO_OUT i && !bitAt v i)) ∧
      (∀ i < 32, s.part.bit Reg.GPIO_OWN i = true → p.bit Reg.GPIO_OUT i = s.part.bit Reg.GPIO_OUT i ∧
        p.bit Reg.GPIO_REF i = (s.part.bit Reg.GPIO_REF i || (kind = .out || bitAt v i))) ∧
      (∀ i < 32, s.part.bit Reg.GPIO_OWN i = false → p.bit Reg.GPIO_REF i = s.part.bit Reg.GPIO_REF i) ∧
      RegsOnly s.part p [Reg.GPIO_OUT, Reg.GPIO_REF]))

/-- R79, R81 to R84: the commands of Table 3.6, with their answers and entry states. -/
def Obligations.GridCommands : Prop :=
  ∀ (g : Grp) (s : State), s.part.alive = true → s.part.gridOpen g = true →
    let x := (s.part.cg g).grid
    let w := s.part.gw g 256
    let goes := fun (i : Instr) (y : GridState) => Does i s (fun p => p = s.part.setGrid g y)
    let ok := fun (m : Nat) => { x with mode := m, seqAck := bits w 24 8, rej := 0, acted := true }
    let no := fun (r : Nat) => { x with seqAck := bits w 24 8, rej := r }
    let vHold := ofFp (x.faultWords.getD 5 0)
    let half := pu / 2
    bits w 24 8 ≠ x.seqAck →
    (x.acted = true →
      (bits w 0 8 = 0 → goes (.seqcmdOff g) (no 2)) ∧ (bits w 0 8 = 1 → goes (.seqcmdCharge g) (no 2)) ∧
      (bits w 0 8 = 2 → goes (.seqcmdReady g) (no 2)) ∧ (bits w 0 8 = 3 → goes (.seqcmdForm g) (no 2)) ∧
      (bits w 0 8 = 4 → goes (.seqcmdSync g) (no 2)) ∧ (bits w 0 8 = 5 → goes (.seqcmdOnline g) (no 2)) ∧
      (bits w 0 8 = 7 → goes (.seqcmdIsland g) (no 2)) ∧ (bits w 0 8 = 8 → goes (.seqcmdTrip g) (no 2))) ∧
    (x.acted = false → s.part.gridTripsNow g x = false →
      (bits w 0 8 = 8 → 0x10 ≤ bits w 16 8 → bits w 16 8 ≤ 0x16 → x.mode ≠ 0 → x.mode ≠ 8 →
        goes (.seqcmdTrip g) { ok 8 with cause := bits w 16 8 }) ∧
      (bits w 0 8 = 8 → (bits w 16 8 < 0x10 ∨ 0x16 < bits w 16 8) → goes (.seqcmdTrip g) (no 4)) ∧
      (bits w 0 8 = 8 → 0x10 ≤ bits w 16 8 → bits w 16 8 ≤ 0x16 → x.mode = 0 → goes (.seqcmdTrip g) (no 1))) ∧
    (x.acted = false → s.part.gridTripsNow g x = false → s.part.gridOwn g x = none →
      (bits w 0 8 = 0 → goes (.seqcmdOff g) (if x.mode ∈ [1, 2, 8] then ok 0 else no 1)) ∧
      (bits w 0 8 = 1 → goes (.seqcmdCharge g)
        (if x.mode ≠ 0 then no 1 else if s.part.role = 1 ∨ s.part.role = 4 then ok 1 else no 3)) ∧
      (bits w 0 8 = 2 → goes (.seqcmdReady g) (if x.mode ∈ [1, 3, 4, 5, 6, 7, 8] then ok 2 else no 1)) ∧
      (bits w 0 8 = 3 → goes (.seqcmdForm g)
        (if x.mode ≠ 2 then no 1
        else if bitAt w 8 = true ∧ x.meas.v1m < vHold then
          { ok 3 with
            w := x.meas.wset, term := { x.term with w := x.meas.wset, th := x.th }, rampAt := (s.part.cg g).t0,
            premag := bitAt (s.part.gw g 0) 7, tbs := s.part.gw g 81 }
        else no 3)) ∧
      (bits w 0 8 = 4 → goes (.seqcmdSync g)
        (if x.mode ≠ 2 then no 1 else if bitAt w 8 = false ∧ half ≤ x.meas.vb then ok 4 else no 3)) ∧
      (∀ i ∈ [(5, Instr.seqcmdOnline g), (7, Instr.seqcmdIsland g)], bits w 0 8 = i.1 → goes i.2
        (if x.mode ≠ 2 then no 1
        else if bitAt w 8 = true ∧ half ≤ x.meas.v1m ∧ (s.part.gridE g x - x.meas.v1m).natAbs ≤ pu / 20 then
          ok (if bitAt w 9 then 5 else 7)
        else no 3)))

/-- R59, R82, R84 and R94 to R96: what falls due in a sample. -/
def Obligations.GridTimedEvents : Prop :=
  ∀ (g : Grp) (s : State), s.part.alive = true → s.part.gridOpen g = true →
    let x := (s.part.cg g).grid
    let now := (s.part.cg g).t0
    let home := if bitAt (s.part.gw g 256) 9 then 5 else 7
    let goes := fun (i : Instr) (y : GridState) => Does i s (fun p => p = s.part.setGrid g y)
    let first := x.acted = false ∧ s.part.gridTripsNow g x = false ∧ s.part.gridTripWaits g x = false
    let again := fun (e : Option GridEpisode) => e.map (fun e => { e with beyond := none })
    (∀ (e : GridEpisode) (b : Instant), x.mode ∈ [5, 6, 7] → x.acted = false → bitAt (gridProf x 0) 16 = true →
      x.uv = some e → e.beyond = some b → s.part.periodsSince g 1 b = true →
      goes (.profileViolation g) { x with mode := 8, cause := 1, acted := true }) ∧
    (∀ (e : GridEpisode) (b : Instant), x.mode ∈ [5, 6, 7] → x.acted = false → bitAt (gridProf x 0) 16 = true →
      x.uv = none → x.ov = some e → e.beyond = some b → s.part.periodsSince g 1 b = true →
      goes (.profileViolation g) { x with mode := 8, cause := 2, acted := true }) ∧
    (∀ (e : GridEpisode) (b : Instant), x.mode ∈ [5, 6, 7] → x.acted = false → bitAt (gridProf x 0) 16 = false →
      x.uv = some e → e.beyond = some b → s.part.periodsSince g 1 b = true →
      Does (.profileViolation g) s (fun p =>
        p.cle = (s.part.setGrid g { x with uv := again x.uv }).cle ∧
        p.log = { time := s.part.ringNow, code := .profileViolation, args := [g.ix, 1] } :: s.part.log)) ∧
    (x.mode ∉ [5, 6, 7] → Idles (.profileViolation g) s) ∧
    (∀ (e : GridEpisode) (a : Instant), x.uv = some e → e.inside = some a → s.part.periodsSince g 1 a = true →
      x.ov = none → goes (.profileEpisodeEnd g) { x with uv := none }) ∧
    (∀ (e : GridEpisode) (a : Instant), x.ov = some e → e.inside = some a → s.part.periodsSince g 1 a = true →
      x.uv = none → goes (.profileEpisodeEnd g) { x with ov := none }) ∧
    (∀ e : GridEpisode, x.uv = some e → e.inside = none → x.ov = none → goes (.profileEpisodeEnd g) x) ∧
    (∀ a : Instant, first → x.mode = 6 → x.uv = none → x.ov = none → x.freeAt = some a →
      s.part.periodsSince g 1 a = true → s.part.gridTrigger g x = false →
      goes (.rideEnd g) { x with mode := home, acted := true }) ∧
    (x.mode ≠ 6 ∨ x.uv.isSome = true ∨ x.ov.isSome = true → Idles (.rideEnd g) s) ∧
    (first → x.mode = 3 → x.premag = false → fpScaled x.tbs ≤ tauUnits (now - x.rampAt) →
      goes (.formRampComplete g) { x with mode := home, acted := true }) ∧
    (tauUnits (now - x.rampAt) < fpScaled x.tbs → Idles (.formRampComplete g) s) ∧
    (x.mode = 3 → x.premag = true → s.part.periodsSince g 10 x.rampAt = true →
      goes (.premagnetisationEnd g) { x with premag := false, rampAt := now }) ∧
    (s.part.periodsSince g 10 x.rampAt = false → Idles (.premagnetisationEnd g) s) ∧
    (∀ a : Instant, x.winAt = some a → fpScaled (x.faultWords.getD 2 0) ≤ tauUnits (now - a) →
      goes (.transientWindowEnd g) { x with winAt := none, fall := some (now, ofFp (x.faultWords.getD 1 0)) }) ∧
    (∀ a : Instant, x.winAt = some a → tauUnits (now - a) < fpScaled (x.faultWords.getD 2 0) →
      Idles (.transientWindowEnd g) s) ∧
    (∀ a : Instant, x.quietAt = some a → a + sec 10 ≤ now → x.winAt = none →
      goes (.transientRearm g) { x with armed := true }) ∧
    (∀ a : Instant, x.quietAt = some a → now < a + sec 10 → Idles (.transientRearm g) s)

/-- R79, R88, R89, R96, R101, R102: the host interface of the sequencing library. -/
def Obligations.LibraryHostCommands : Prop :=
  ∀ (t : Instant) (g : Grp) (s : State), s.part.alive = true → s.part.libGrp = some g →
    let m := s.part.epMode g
    let lib := s.part.lib
    let r := Reg.CLE_SEQCMD g.ix
    let buf := [Reg.CYC_CHGSTAT, Reg.CYC_STALLS, Reg.CYC_EVT, Reg.CYC_DIRTY, Reg.NVM_STAT, Reg.NVM_WEARMAX,
      Reg.NVM_WEARADDR, Reg.NVM_EVT]
    let asked := fun n : Word => s.part.loadWord libBase = n
    let sent := fun (p : Part) (req : Nat) =>
      p.fld r 0 8 = req ∧ p.fld r 16 8 = 0 ∧ p.fld r 24 8 = (lib.seq + 1) % 256 ∧ p.lib.seq = (lib.seq + 1) % 256 ∧
      p.bit r 8 = s.part.bit r 8 ∧ p.bit r 9 = s.part.bit r 9 ∧ RegsBut s.part p (r :: buf)
    let silent := fun (p : Part) => p.lib = lib ∧ RegsBut s.part p buf
    let cleared := fun (p : Part) => ∀ k < 4, p.byte (libBase + k) = 0
    let begun := fun (ph : LibPhase) => { lib with
      phase := ph, since := t, held := none, dead := none, inRange := none, fbAt := none, rampEnd := none }
    (asked 1 → m = 0 → Does (.seqHostStart t) s (fun p => sent p 1 ∧ cleared p ∧
      p.lib = { begun .charge with seq := (lib.seq + 1) % 256, kpc := true, kmOn := false, startOn := true, vdc := [] })) ∧
    (asked 1 → m = 2 → Does (.seqHostStart t) s (fun p => p.lib = begun .slot ∧ RegsBut s.part p buf ∧ cleared p)) ∧
    (asked 1 → m ≠ 0 → m ≠ 2 → Does (.seqHostStart t) s (fun p => silent p ∧ cleared p ∧ p.byte (libBase + 6) = 1)) ∧
    (asked 4 → m = 0 → Does (.seqHostCharge t) s (fun p => sent p 1 ∧ cleared p ∧
      p.lib = { begun .charge with seq := (lib.seq + 1) % 256, kpc := true, kmOn := false, startOn := false, vdc := [] })) ∧
    (asked 4 → m ≠ 0 → Does (.seqHostCharge t) s (fun p => silent p ∧ cleared p ∧ p.byte (libBase + 6) = 1)) ∧
    (asked 5 → m ∈ [1, 2, 8] → Does (.seqHostOff t) s (fun p => sent p 0 ∧ cleared p ∧
      p.lib = { begun .idle with seq := (lib.seq + 1) % 256 })) ∧
    (asked 5 → m ∉ [1, 2, 8] → Does (.seqHostOff t) s (fun p => silent p ∧ cleared p ∧ p.byte (libBase + 6) = 1)) ∧
    (asked 2 → m ∈ [3, 4, 5, 7] → Does (.seqHostStop t) s (fun p =>
      p.lib = begun .stopping ∧ RegsBut s.part p buf ∧ cleared p)) ∧
    (asked 2 → m = 6 → Does (.seqHostStop t) s (fun p => p = s.part.at t)) ∧
    (asked 2 → m ∉ [3, 4, 5, 6, 7] → Does (.seqHostStop t) s (fun p => silent p ∧ cleared p ∧ p.byte (libBase + 6) = 1)) ∧
    (asked 3 → m = 8 → lib.fb.cb1 = false → s.part.fld Reg.GATE_LATCH 0 24 = 0 → s.part.stoHold = false →
      Does (.seqHostReset t) s (fun p => cleared p ∧ p.lib = { lib with seq := (lib.seq + 1) % 256 } ∧
        sent p (if 70 * s.part.libQ 0 ≤ 100 * s.part.epQ g 10 ∧ 100 * s.part.epQ g 10 ≤ 125 * s.part.libQ 0 then 2 else 0))) ∧
    (asked 3 → (m ≠ 8 ∨ lib.fb.cb1 = true ∨ s.part.fld Reg.GATE_LATCH 0 24 ≠ 0 ∨ s.part.stoHold = true) →
      Does (.seqHostReset t) s (fun p => silent p ∧ cleared p ∧ p.byte (libBase + 6) = 1)) ∧
    (let staged := (List.range 16).map (fun k => s.part.loadWord (libBase + 0x40 + 4 * k))
     let v := s.part.loadWord (libBase + 8)
     (v ≠ lib.tcommit → libFault staged = none →
       Does (.seqTcommit t) s (fun p => p = { s.part.at t with lib := { lib with tcommit := v, words := staged } })) ∧
     (∀ k, v ≠ lib.tcommit → libFault staged = some k →
       Does (.seqTcommit t) s (fun p => p.lib = { lib with tcommit := v } ∧ p.byte (libBase + 5) = BitVec.ofNat 8 (16 + k) ∧
         p.byte (libBase + 6) = 2 ∧ RegsBut s.part p buf)) ∧
     (v = lib.tcommit → Does (.seqTcommit t) s (fun p => p = s.part.at t)))

/-- R89 to R92, R101, R102: what falls due in the sequencing library. -/
def Obligations.LibraryTimers : Prop :=
  ∀ (t : Instant) (g : Grp) (s : State), s.part.alive = true → s.part.libGrp = some g →
    let m := s.part.epMode g
    let lib := s.part.lib
    let r := Reg.CLE_SEQCMD g.ix
    let buf := [Reg.CYC_CHGSTAT, Reg.CYC_STALLS, Reg.CYC_EVT, Reg.CYC_DIRTY, Reg.NVM_STAT, Reg.NVM_WEARMAX,
      Reg.NVM_WEARADDR, Reg.NVM_EVT]
    let waits := fun (i : Instr) => Does i s (fun p => p = s.part.at t)
    let writes := fun (p : Part) (req cause : Nat) =>
      p.fld r 0 8 = req ∧ p.fld r 16 8 = cause ∧ p.fld r 24 8 = (lib.seq + 1) % 256 ∧ p.bit r 8 = s.part.bit r 8 ∧
      p.bit r 9 = s.part.bit r 9
    let begun := fun (ph : LibPhase) => { lib with
      phase := ph, since := t, held := none, dead := none, inRange := none, fbAt := none, rampEnd := none,
      seq := (lib.seq + 1) % 256 }
    let closes := { lib with cb1 := true, cbAt := some t }
    (lib.phase = .charge → lib.kmOn = false → lib.since + s.part.libT 2 ≤ t →
      Does (.prechargeTimeout t) s (fun p => writes p 8 0x12 ∧ RegsBut s.part p [r] ∧
        p.lib = { begun .idle with kpc := false })) ∧
    (t < lib.since + s.part.libT 2 → waits (.prechargeTimeout t)) ∧
    (∀ a : Instant, m = 4 → lib.phase = .sync → lib.held = some a → sec 1 ≤ (t - a) * s.part.gridHz g →
      s.part.stoHold = false → lib.cb1 = false →
      Does (.syncWindowsHeld t) s (fun p => p = { s.part.at t with lib := closes })) ∧
    (∀ a : Instant, lib.held = some a → (t - a) * s.part.gridHz g < sec 1 → waits (.syncWindowsHeld t)) ∧
    (s.part.stoHold = true → waits (.syncWindowsHeld t)) ∧
    (∀ a : Instant, lib.cbAt = some a → a + s.part.libT 5 + msec 20 ≤ t → lib.fb.cb1 = false →
      Does (.cb1FeedbackTimeout t) s (fun p => writes p 8 0x13 ∧ RegsBut s.part p [r] ∧
        p.lib = { begun .idle with cbAt := none })) ∧
    (lib.fb.cb1 = true → waits (.cb1FeedbackTimeout t)) ∧
    (m = 4 → lib.phase = .sync → lib.cb1 = false → lib.since + s.part.libT 9 ≤ t →
      Does (.syncTimeout t) s (fun p => writes p 2 0 ∧ RegsBut s.part p (r :: buf) ∧ p.lib = begun .idle)) ∧
    (t < lib.since + s.part.libT 9 → waits (.syncTimeout t)) ∧
    (let due := lib.since + s.part.libWait g + s.part.libT 4
     let held := fun (x : Option Instant) => ∃ a, x = some a ∧ a + s.part.libT 4 ≤ t
     (m = 2 → lib.phase = .slot → due ≤ t → held lib.inRange →
       Does (.firstMoverSlotExpiry t) s (fun p => writes p 4 0 ∧ p.lib.phase = .sync ∧ p.lib.since = t ∧
         p.lib.dispatch.isSome = true ∧ p.reg (Reg.RAMP_TGT (4 * g.ix)) = 0 ∧ p.reg (Reg.RAMP_TGT (4 * g.ix + 1)) = 0)) ∧
     (∀ a : Instant, m = 2 → lib.phase = .slot → due ≤ t → ¬ held lib.inRange → lib.dead = some a →
       a + s.part.libT 4 ≤ t →
       Does (.firstMoverSlotExpiry t) s (fun p => p = { s.part.at t with lib := { lib with
         phase := .closing, since := t, held := none, dead := none, inRange := none, fbAt := none, rampEnd := none,
         cb1 := true, cbAt := some t } })) ∧
     (m = 2 → lib.phase = .slot → due ≤ t → ¬ held lib.inRange → lib.dead = none →
       Does (.firstMoverSlotExpiry t) s (fun p => p = { s.part.at t with lib := { lib with phase := .recheck } })) ∧
     (t < due → waits (.firstMoverSlotExpiry t))) ∧
    (∀ a : Instant, lib.phase = .stopping → m ≠ 6 → lib.rampEnd = some a → a + sec 2 ≤ t →
      Does (.stopTimeout t) s (fun p => writes p 2 0 ∧ RegsBut s.part p [r] ∧ p.lib = begun .opening)) ∧
    (∀ a : Instant, lib.rampEnd = some a → t < a + sec 2 → waits (.stopTimeout t)) ∧
    (∀ a : Instant, m ∈ [3, 4, 5, 6, 7] → lib.out = some a → a + msec 10 ≤ t →
      Does (.dcLinkOutOfBand t) s (fun p => writes p 8 0x14 ∧ RegsBut s.part p [r] ∧
        p.lib = { begun .idle with out := none })) ∧
    (∀ a : Instant, lib.out = some a → t < a + msec 10 → waits (.dcLinkOutOfBand t))

/-- R17, R22, R23: the tick of a group (instants: log entry 12). -/
def Obligations.SampleTick : Prop :=
  ∀ (g : Grp) (t : Instant) (edges : List (Nat × Nat)) (s : State), s.part.alive = true →
    let tb := s.part.tb g
    let now := s.part.updateTime g t
    (s.part.tbRuns g = false → Idles (.tempoTick g t edges) s) ∧
    (tb.stopReq = true → tb.apex = false → Idles (.tempoTick g t edges) s) ∧
    (now = none → Idles (.tempoTick g t edges) s) ∧
    (∀ u, s.part.tbRuns g = true → (tb.stopReq = false ∨ tb.apex = true) → now = some u →
      Does (.tempoTick g t edges) s (fun p =>
        (p.tb g).last = u ∧ (p.tb g).first = false ∧
        (∀ c ∈ p.commits, c.unit ≠ .cle g ∧ c.unit ≠ .sense g))) ∧
    (∀ u, s.part.tbRuns g = true → (tb.stopReq = false ∨ tb.apex = true) → now = some u →
      s.part.groupRuns g = true → s.part.commits = [] → s.part.joint = none → (s.part.cg g).exch = none →
      (s.part.cg g).load = none → (s.part.cg g).haltNext = false → (s.part.cg g).runReq = none →
      s.part.pair_.armed = none → s.part.pair_.openAt = none →
      Does (.tempoTick g t edges) s (fun p =>
        p.groupRuns g = true ∧ (p.cg g).open_ = true ∧ (p.cg g).t0 = u ∧ (p.cg g).winClosed = false ∧
        (p.cg g).voter = {} ∧ p.pair (Reg.CLE_SCNT_LO g.ix) = (s.part.pair (Reg.CLE_SCNT_LO g.ix) + 1) % 2 ^ 64 ∧
        ∀ n ∈ s.part.members g, (p.lane n).cycle = 0 ∧ (p.lane n).out = [] ∧ (p.lane n).ended = false ∧
          (p.lane n).crc = 0xFFFFFFFF ∧ (p.lane n).f = 0 ∧ (p.lane n).fprev = (s.part.lane n).f ∧
          (p.lane n).v = (s.part.lane n).v ∧ (p.lane n).data = (s.part.lane n).data))

/-- R113, R121 and R18: one word of the voter, and the close of the duty window. -/
def Obligations.VoterWord : Prop :=
  ∀ (g : Grp) (s : State), s.part.alive = true →
    let c := s.part.cg g
    let ms := s.part.members g
    let i := c.voter.decided.length
    let ws := ms.filterMap (fun n => (s.part.lane n).out[i]?)
    let taken := fun (d : Option VoteWord) (bad : Bool) => s.part.onCg g (fun c =>
      { c with voter := { decided := c.voter.decided ++ [d], noMaj := c.voter.noMaj || bad } })
    let same := ∀ n ∈ ms, (s.part.lane n).differs c.voter.decided = false
    (c.open_ = false → Idles (.voterWord g) s) ∧
    (∀ w, c.open_ = true → same → agreed ws = some w → (∀ x ∈ ws, x = w) → w.val = none →
      Does (.voterWord g) s (fun p => p = taken (some w) false)) ∧
    (∀ w k x, c.open_ = true → same → agreed ws = some w → (∀ x ∈ ws, x = w) → w.val = some x → k < 64 →
      w.addr = 0x10000 + k → s.part.epType g k ≠ 0 →
      Does (.voterWord g) s (fun p =>
        p = (taken (some w) false).onCg g (fun c => { c with ep := sSet (fun _ => 0) c.ep k x }))) ∧
    (∀ w, c.open_ = true → same → agreed ws = some w →
      Does (.voterWord g) s (fun p => ∀ n ∈ ms, ∀ x, (s.part.lane n).out[i]? = some x →
        (x ≠ w → p.laneState n = 2 ∧ p.bit (Reg.CLE_GEVT g.ix) 9 = true) ∧ (x = w → p.laneState n = 1))) ∧
    (c.open_ = true → same → agreed ws = none → 2 ≤ ms.length → ws.length = ms.length →
      Does (.voterWord g) s (fun p => p = taken none true)) ∧
    (s.part.groupRuns g = true →
      Does (.pwmWindowClose g) s (fun p => p = s.part.onCg g (fun c => { c with winClosed := true }))) ∧
    (s.part.groupRuns g = false → Idles (.pwmWindowClose g) s)

/-- R111, R114, R122 and R123: Table 4.5, and lateness. -/
def Obligations.SignatureDecision : Prop :=
  (∀ (g : Grp) (t : Instant) (s : State), s.part.alive = true →
    let c := s.part.cg g
    let ms := s.part.members g
    let crc := fun n => (s.part.lane n).crc
    let ready := c.open_ = true ∧ c.t0 ≤ t ∧ (∀ n ∈ ms, (s.part.lane n).ended = true) ∧ c.voter.noMaj = false ∧
      (∀ n ∈ ms, (s.part.lane n).out.length ≤ c.voter.decided.length) ∧
      (∀ x, c.load = some x → x.lane < 8 ∧ ∀ k, x.slot = some k → k < 8)
    (∀ a b d, ready → ms = [a, b, d] → crc a = crc b → crc b = crc d →
      Does (.signatureComparison g t) s (fun p =>
        p.gmode g = 1 ∧ (p.cg g).open_ = false ∧ (p.cg g).prevNoMaj = false ∧ ∀ n ∈ ms, p.laneState n = 1)) ∧
    (∀ a b d n, ready → ms = [a, b, d] → n ∈ ms → (∀ m ∈ ms, m ≠ n → crc m ≠ crc n) →
      (∀ m ∈ ms, ∀ k ∈ ms, m ≠ n → k ≠ n → crc m = crc k) →
      Does (.signatureComparison g t) s (fun p =>
        p.gmode g = 2 ∧ (p.cg g).open_ = false ∧ (p.cg g).prevNoMaj = false ∧ p.bit (Reg.CLE_GEVT g.ix) 9 = true ∧
        (p.laneState n = 3 ∨ p.laneState n = 6) ∧ ∀ m ∈ ms, m ≠ n → p.laneState m = 1)) ∧
    (∀ a b, ready → ms = [a, b] → crc a = crc b →
      Does (.signatureComparison g t) s (fun p =>
        p.gmode g = 2 ∧ (p.cg g).open_ = false ∧ (p.cg g).prevNoMaj = false ∧ ∀ n ∈ ms, p.laneState n = 1)) ∧
    (∀ a b, ready → ms = [a, b] → crc a ≠ crc b →
      Does (.signatureComparison g t) s (fun p =>
        p.gmode g = 3 ∧ (p.cg g).open_ = false ∧ (p.cg g).prevNoMaj = true ∧ p.bit (Reg.CLE_GEVT g.ix) 10 = true ∧
        p.fld (Reg.CLE_DUPCNT g.ix) 0 32 = min (s.part.fld (Reg.CLE_DUPCNT g.ix) 0 32 + 1) (2 ^ 32 - 1) ∧
        (c.prevNoMaj = true → (p.cg g).haltNext = true) ∧ (c.prevNoMaj = false → (p.cg g).haltNext = c.haltNext))) ∧
    ((c.open_ = false ∨ ((∃ n ∈ ms, (s.part.lane n).ended = false) ∧ t < s.part.lateAt g)) →
      Idles (.signatureComparison g t) s)) ∧
  (∀ (n : Fin 8) (t : Instant) (s : State), s.part.alive = true →
    let g := s.part.laneGrp n
    (s.part.laneState n = 1 → (s.part.cg g).open_ = true → (s.part.lane n).ended = false → s.part.lateAt g ≤ t →
      Does (.laneLate n t) s (fun p =>
        p.laneState n = 2 ∧ p.fld (Reg.CLE_LSTAT n) 12 4 = 3 ∧ p.bit (Reg.CLE_GEVT g.ix) 6 = true ∧
        (∀ m : Fin 8, m ≠ n → p.laneState m = s.part.laneState m) ∧
        RegsBut s.part p [Reg.CLE_LSTAT n, Reg.CLE_GEVT g.ix, Reg.CLE_GSTAT g.ix])) ∧
    ((s.part.laneState n ≠ 1 ∨ (s.part.cg g).open_ = false ∨ (s.part.lane n).ended = true ∨ t < s.part.lateAt g) →
      Does (.laneLate n t) s (fun p => p = s.part.at t)))

/-- R103, R115, R116, R118: the life of a lane. -/
def Obligations.LaneReserves : Prop :=
  (∀ (n : Fin 8) (parity : Bool) (t : Instant) (s : State), s.part.alive = true →
    let g := s.part.laneGrp n
    let st := s.part.laneState n
    let code := if parity then 2 else 1
    (st = 6 → Does (.laneHardFault n parity t) s (fun p => p = s.part.at t)) ∧
    ((st = 1 ∨ st = 2) → (s.part.cg g).open_ = true →
      Does (.laneHardFault n parity t) s (fun p => p.laneState n = 2 ∧ p.fld (Reg.CLE_LSTAT n) 12 4 = code ∧
        RegsBut s.part p [Reg.CLE_LSTAT n, Reg.CLE_GSTAT g.ix])) ∧
    ((st = 1 ∨ st = 2) → (s.part.cg g).open_ = false →
      Does (.laneHardFault n parity t) s (fun p => p.laneState n = 6 ∧ p.fld (Reg.CLE_LSTAT n) 12 4 = code ∧
        p.bit (Reg.CLE_GEVT g.ix) 7 = true ∧ p.bit Reg.SPARE_EVT 0 = true ∧
        RegsBut s.part p [Reg.CLE_LSTAT n, Reg.CLE_GSTAT g.ix, Reg.CLE_GEVT g.ix, Reg.SPARE_EVT])) ∧
    (st ∉ [1, 2, 5, 6] →
      Does (.laneHardFault n parity t) s (fun p => p.laneState n = 6 ∧ p.fld (Reg.CLE_LSTAT n) 12 4 = code ∧
        RegsBut s.part p [Reg.CLE_LSTAT n, Reg.SPARE_EVT])) ∧
    (st = 5 → (∀ x k, (s.part.cg g).load = some x → x.slot = some k → k < 8) →
      Does (.laneHardFault n parity t) s (fun p => p.laneState n = 6 ∧ p.fld (Reg.CLE_LSTAT n) 12 4 = code ∧
        (p.cg g).load = none))) ∧
  (∀ (n : Fin 8) (pass : Bool) (s : State), s.part.alive = true →
    (s.part.laneState n ≠ 3 → Idles (.laneBistComplete n pass) s) ∧
    (s.part.laneState n = 3 → pass = true →
      Does (.laneBistComplete n pass) s (fun p => p = s.part.setFld (Reg.CLE_LSTAT n) 0 4 4)) ∧
    (s.part.laneState n = 3 → pass = false →
      Does (.laneBistComplete n pass) s (fun p => p.laneState n = 6 ∧ p.fld (Reg.CLE_LSTAT n) 12 4 = 4 ∧
        p.bit (Reg.CLE_GEVT (s.part.laneGrp n).ix) 7 = true ∧ p.bit Reg.SPARE_EVT 0 = true))) ∧
  (∀ (n : Fin 8) (t w : Instant) (s : State), s.part.alive = true → (s.part.lane n).win = some w →
    Does (.mismatchWindowClose n t) s (fun p =>
      p.lane n = { s.part.lane n with win := if w + sec 3600 ≤ t then none else some w } ∧
      (∀ m : Fin 8, m ≠ n → p.lane m = s.part.lane m) ∧ p = { s.part.at t with lanes := p.lanes })) ∧
  (∀ (n : Fin 8) (s : State), s.part.alive = true →
    Does (.laneEccCorrected n) s (fun p =>
      p.fld (Reg.CLE_LECC n) 0 32 = min (s.part.fld (Reg.CLE_LECC n) 0 32 + 1) (2 ^ 32 - 1) ∧
      RegsBut s.part p [Reg.CLE_LECC n] ∧ p = { s.part with regs := p.regs, health := p.health })) ∧
  (∀ (g : Grp) (s : State) (x : Loading) (src : Nat), s.part.alive = true → (s.part.cg g).load = some x → x.lane < 8 →
    (s.part.members g).head? = some src →
    Does (.reserveCopyComplete g) s (fun p =>
      p.lane x.lane = { s.part.lane x.lane with
        data := (s.part.lane src).data, coef := (s.part.lane src).coef, code := (s.part.lane src).code } ∧
      (∀ m, m ≠ x.lane → p.lane m = s.part.lane m) ∧ (p.cg g).load = some { x with copied := true } ∧
      p = { s.part with lanes := p.lanes, cle := p.cle })) ∧
  (∀ (g : Grp) (s : State), s.part.alive = true → (s.part.cg g).load = none → Idles (.reserveCopyComplete g) s)

/-- R126, R137: RUN of CLE_GCTL, and the end of a fade. -/
def Obligations.RunAndFade : Prop :=
  ∀ (g : Grp) (s : State), s.part.alive = true →
    let c := s.part.cg g
    let run := fun b => s.part.setFld (Reg.CLE_GCTL g.ix) 0 1 b
    (s.part.groupRuns g = true →
      Does (.cleRunStart g) s (fun p => p = (run 1).onCg g (fun c => { c with runReq := none }))) ∧
    (s.part.groupRuns g = false → (c.loaded = true ∨ c.exch.isSome = true) →
      Does (.cleRunStart g) s (fun p => p = (run 1).onCg g (fun c => { c with runReq := some true }))) ∧
    (s.part.groupRuns g = false → c.loaded = false → c.exch = none →
      Does (.cleRunStart g) s (fun p => p.bit (Reg.CLE_GCTL g.ix) 0 = true ∧ p.fld (Reg.CLE_XSTAT g.ix) 8 8 = 9 ∧
        p.groupRuns g = false ∧ RegsOnly s.part p [Reg.CLE_GCTL g.ix, Reg.CLE_XSTAT g.ix])) ∧
    (Does (.cleRunStop g) s (fun p => p.bit (Reg.CLE_GCTL g.ix) 0 = false ∧
      (p.cg g).runReq = (if s.part.gmode g = 0 then none else some false) ∧
      p = (run 0).onCg g (fun c => { c with runReq := (p.cg g).runReq }))) ∧
    (c.fadeK ≠ 0 → c.fadeN ≤ c.fadeK → c.open_ = false →
      Does (.fadeEnd g) s (fun p => (p.cg g).fadeK = 0 ∧ (p.cg g).fadeJustEnded = decide (1 < c.fadeN) ∧
        p.fld (Reg.CLE_REGION g.ix) 16 9 = 0 ∧ p.bit (Reg.CLE_GSTAT g.ix) 5 = false ∧
        RegsBut s.part p [Reg.CLE_REGION g.ix, Reg.CLE_GSTAT g.ix])) ∧
    ((c.fadeK = 0 ∨ c.fadeK < c.fadeN ∨ c.open_ = true) → Idles (.fadeEnd g) s)

/-- R129 to R132: the rows of the injection generator, the capture and the correlator. -/
def Obligations.ProbeCommands : Prop :=
  ∀ (g : Grp) (s : State), s.part.alive = true →
    let ctl := Reg.CLE_CAPCTL g.ix
    let b := (s.part.cg g).probe
    let with_ := fun (p : Part) (x : Probe) => p.onCg g (fun c => { c with probe := x })
    let total := 2 ^ s.part.fld (Reg.CLE_CORRCFG g.ix) 0 5 * (s.part.fld (Reg.CLE_CORRCFG g.ix) 8 8 + 1)
    (Does (.cstart g) s (fun p => p = with_ (s.part.setFld ctl 8 1 1) { b with restart := true, corrSample := 0, acc := [] })) ∧
    (s.part.bit ctl 8 = true → total ≤ b.corrSample →
      Does (.correlationDone g) s (fun p => p.bit ctl 8 = false ∧ p.bit (Reg.CLE_GEVT g.ix) 0 = true ∧
        (∀ i < 18 * s.part.tones g, sGet (fun _ => 0) (p.cg g).probe.words (0x10000 + i) =
          corrValue (sGet (fun _ => (0, 0)) b.acc i) total) ∧
        (∀ k < 0x10000, sGet (fun _ => 0) (p.cg g).probe.words k = sGet (fun _ => 0) b.words k) ∧
        RegsBut s.part p [ctl, Reg.CLE_GEVT g.ix] ∧ p = { s.part with regs := p.regs, cle := p.cle })) ∧
    ((s.part.bit ctl 8 = false ∨ b.corrSample < total) → Idles (.correlationDone g) s) ∧
    (Does (.capstart g) s (fun p => p.bit ctl 9 = true ∧ p.fld ctl 16 16 = 0 ∧
      (p.cg g).probe = { b with capEntry := 0, capDiv := 0 } ∧ RegsBut s.part p [ctl] ∧
      p = { s.part with regs := p.regs, cle := p.cle })) ∧
    (Does (.capstop g) s (fun p => p = s.part.setFld ctl 9 1 0)) ∧
    (s.part.bit (Reg.CLE_CAPCFG g.ix) 0 = false → 8192 ≤ b.capEntry →
      Does (.captureFull g) s (fun p => p = s.part.setFld ctl 9 1 0)) ∧
    ((s.part.bit (Reg.CLE_CAPCFG g.ix) 0 = true ∨ b.capEntry < 8192) → Idles (.captureFull g) s) ∧
    (∀ on : Bool, Does (.generatorEnable g on) s (fun p => p.bit ctl 3 = on ∧
      (p.cg g).probe = { b with n := if on = true ∧ s.part.bit ctl 3 = false then 0 else b.n } ∧
      RegsBut s.part p [ctl] ∧ p = { s.part with regs := p.regs, cle := p.cle })) ∧
    (let a := s.part.fld (Reg.CLE_CAPADDR g.ix) 0 17
     Does (.capdataRead g) s (fun p => p.bus.rdata = sGet (fun _ => 0) b.words a ∧
       p.fld (Reg.CLE_CAPADDR g.ix) 0 17 = (a + 1) % 2 ^ 17 ∧ RegsBut s.part p [Reg.CLE_CAPADDR g.ix] ∧
       p = { s.part with regs := p.regs, bus := p.bus }))

/-- R133 to R136: the rows of the admittance self-scan. -/
def Obligations.SelfScan : Prop :=
  ∀ (g : Grp) (t : Instant) (s : State), s.part.alive = true →
    let c := (s.part.cg g).scan
    let ws := s.part.scanWords g
    let (n, d) := s.part.tsSec g
    let ready := c.bg = true ∧ c.run = none ∧ s.part.gridRuns g = true ∧ s.part.opHolding (resOf 3 g.ix) = none ∧
      scanFault ws (s.part.reg (Reg.CLE_INJAMAX g.ix)) = none ∧ c.startAt + fpSeconds (ws.getD 1 0) ≤ t
    let quiet := { (s.part.cg g).probe with site := none, g := 0 }
    (ready → bitAt (ws.getD 0 0) 0 = true →
      Does (.scanPeriodExpiry g t) s (fun p => p = (s.part.at t).onCg g (fun x => { x with scan := { c with
        run := some { ws := ws, op := none, n := (scanBins ws n.toNat d).1, bins := (scanBins ws n.toNat d).2 },
        bg := true, startAt := t } }))) ∧
    (ready → bitAt (ws.getD 0 0) 0 = false →
      Does (.scanPeriodExpiry g t) s (fun p => p = s.part.onCg g (fun x => { x with scan := { c with
        run := none, bg := false } }))) ∧
    ((t < c.startAt + fpSeconds (ws.getD 1 0) ∨ (scanFault ws (s.part.reg (Reg.CLE_INJAMAX g.ix))).isSome = true) →
      Idles (.scanPeriodExpiry g t) s) ∧
    (∀ late (r : ScanRun), c.run = some r → 30 * r.n ≤ r.k → (s.part.cg g).open_ = false →
      Does (.scanComplete g late t) s (fun p => (p.cg g).scan.run = none ∧ (p.cg g).probe = quiet)) ∧
    (∀ late (r : ScanRun), c.run = some r → 30 * r.n ≤ r.k → (s.part.cg g).open_ = false → r.op = none →
      bitAt (r.ws.getD 0 0) 1 = false → bitAt (r.ws.getD 0 0) 2 = false →
      Does (.scanComplete g late t) s (fun p => p = (s.part.at t).onCg g (fun x =>
        { x with scan := { c with run := none }, probe := quiet }))) ∧
    (∀ late (r : ScanRun), c.run = some r → r.k < 30 * r.n → Idles (.scanComplete g late t) s) ∧
    (∀ late, c.run = none → Idles (.scanComplete g late t) s) ∧
    (∀ e ∈ [(1, Instr.scanRevertLast g t), (2, Instr.scanRevertAll g t)],
      let cmd := s.part.loadWord (scanBase g + 0x20)
      (cmd = BitVec.ofNat 32 e.1 → (s.part.cg g).exch = none → s.part.gridRuns g = true →
        (∃ x ∈ c.log, x.revert = false ∧ x.undone = false) →
        Does e.2 s (fun p => (s.part.bit (Reg.QUE_CFG 30) 31 = false → p.loadWord (scanBase g + 0x20) = 0) ∧
          p.fld (Reg.CLE_XSTAT g.ix) 0 4 ∈ [4, 5] ∧
          ∃ x, (p.cg g).exch = some x ∧ x.coefOnly = true ∧ x.at? = none)) ∧
      (cmd = BitVec.ofNat 32 e.1 → (s.part.cg g).exch = none → s.part.gridRuns g = true → c.log = [] →
        Does e.2 s (fun p => p.loadWord (scanBase g + 0x20) = 0 ∧ p.regs = s.part.regs ∧ p.cle = s.part.cle)) ∧
      (cmd ≠ BitVec.ofNat 32 e.1 → Does e.2 s (fun p => p = s.part.at t)))

/-- R154, R158, R159, R161, R162: the M operations of Table 5.2. -/
def Obligations.VArithmetic : Prop :=
  ∀ (o : VOp) (s : State), vActs s o →
    let l := vLane s o
    let d := o.d.toNat
    let a := l.vreg o.s1.toNat
    let b := l.vreg o.s2.toNat
    let c := l.vreg d
    let pd := o.d.toNat % 8
    let m := o.mod.toNat
    let gives := fun (i : Instr) (x : Word) => Lands i o s false 3 [.v d x]
    let sets := fun (i : Instr) (x : Bool) => Lands i o s false 3 [.p pd x]
    let joined := fun (x : Bool) => if m / 8 = 1 then l.preg d && x else if m / 8 = 2 then l.preg d || x else x
    Lands (.vNop o) o s false 1 [] ∧
    gives (.vFadd o) (fpAdd a b) ∧ gives (.vFsub o) (fpSub a b) ∧ gives (.vFmul o) (fpMul a b) ∧
    gives (.vFma o) (fpFma c a b) ∧ gives (.vFnma o) (fpFnma c a b) ∧
    gives (.vFmin o) (fpMin a b) ∧ gives (.vFmax o) (fpMax a b) ∧
    gives (.vFabs o) (fpAbs a) ∧ gives (.vFneg o) (fpNeg a) ∧ gives (.vFmov o) a ∧
    (m % 8 = 0 → sets (.vFcmp o) (joined (fpEq a b)) ∧ sets (.vIcmp o) (joined (decide (a = b)))) ∧
    (m % 8 = 1 → sets (.vFcmp o) (joined (!fpEq a b)) ∧ sets (.vIcmp o) (joined (decide (a ≠ b)))) ∧
    (m % 8 = 2 → sets (.vFcmp o) (joined (fpLt a b)) ∧ sets (.vIcmp o) (joined (decide (a < b)))) ∧
    (m % 8 = 3 → sets (.vFcmp o) (joined (fpLe a b)) ∧ sets (.vIcmp o) (joined (decide (a ≤ b)))) ∧
    (m % 8 = 4 → sets (.vFcmp o) (joined (fpLt b a)) ∧ sets (.vIcmp o) (joined (decide (b < a)))) ∧
    (m % 8 = 5 → sets (.vFcmp o) (joined (fpLe b a)) ∧ sets (.vIcmp o) (joined (decide (b ≤ a)))) ∧
    (m % 8 = 6 → sets (.vFcmp o) (joined (fpIsNan a || fpIsNan b))) ∧
    (m / 16 = 0 → gives (.vSel o) (if l.preg (m % 8) then a else b)) ∧
    (m / 16 = 1 → Lands (.vSel o) o s false 3 [.a pd (if l.preg (m % 8) then l.areg o.s1.toNat else l.areg o.s2.toNat)]) ∧
    (let hi := if m / 16 = 1 then l.vreg (o.s2.toNat + 1) else fpAbs b
     let lo := if m / 16 = 1 then b else fpNeg (fpAbs b)
     ((fpIsNan a = true ∨ fpIsNan lo = true ∨ fpIsNan hi = true) → gives (.vSat o) fpNan) ∧
     (fpIsNan lo = false → fpIsNan hi = false → fpLt hi a = true →
       Lands (.vSat o) o s false 3 [.v d (fpFlush hi), .flag (m % 16)]) ∧
     (fpIsNan lo = false → fpIsNan hi = false → fpLt hi a = false → fpLt a lo = true →
       Lands (.vSat o) o s false 3 [.v d (fpFlush lo), .flag (m % 16)]) ∧
     (fpIsNan a = false → fpIsNan lo = false → fpIsNan hi = false → fpLt hi a = false → fpLt a lo = false →
       gives (.vSat o) (fpFlush a))) ∧
    (l.fprev.testBit (m % 16) = true → Lands (.vIntg o) o s false 3 []) ∧
    (l.fprev.testBit (m % 16) = false → gives (.vIntg o) (fpFma c a b)) ∧
    ((m / 16 = 0 ∨ l.fprev.testBit (m % 16) = false) →
      Lands (.vAccd o) o s false 3 [.v d (accumulate c (l.vreg (d + 1)) (fpMul a b)).1,
        .v (d + 1) (accumulate c (l.vreg (d + 1)) (fpMul a b)).2]) ∧
    (m / 16 = 1 → l.fprev.testBit (m % 16) = true → Lands (.vAccd o) o s false 3 []) ∧
    (o.s1 = 0 → sets (.vFtst o) (l.f.testBit (m % 16))) ∧
    (o.s1 = 1 → sets (.vFtst o) (l.fprev.testBit (m % 16))) ∧
    (o.s1 = 2 → sets (.vFtst o) (s.part.cg (s.part.laneGrp o.lane)).first) ∧
    (let x := l.preg o.s1.toNat
     let y := l.preg o.s2.toNat
     let inv := decide (m / 4 % 2 = 1)
     (m % 4 = 0 → sets (.vPlog o) (xor (x && y) inv)) ∧ (m % 4 = 1 → sets (.vPlog o) (xor (x || y) inv)) ∧
     (m % 4 = 2 → sets (.vPlog o) (xor (xor x y) inv)) ∧ (m % 4 = 3 → sets (.vPlog o) (xor (x && !y) inv))) ∧
    gives (.vIand o) (a &&& b) ∧ gives (.vIor o) (a ||| b) ∧ gives (.vIxor o) (a ^^^ b) ∧
    gives (.vIshl o) (a <<< m) ∧ gives (.vIshr o) (a >>> m) ∧
    gives (.vPins o) (if l.preg o.s2.toNat then a ||| (1#32 <<< m) else a &&& ~~~(1#32 <<< m)) ∧
    gives (.vCvti o) (fpToInt a) ∧ gives (.vCvtf o) (fpOfInt a.toInt)

/-- R154 to R158, R160, R162: the L and X operations of Table 5.2. -/
def Obligations.VMemoryAndTransforms : Prop :=
  ∀ (o : VOp) (s : State), vActs s o →
    let l := vLane s o
    let g := s.part.laneGrp o.lane
    let c := s.part.cg g
    let d := o.d.toNat
    let n := o.s1.toNat
    let a := l.vreg n
    let b := l.vreg o.s2.toNat
    let m := o.mod.toNat
    let addr := n * 1024 + o.s2.toNat * 16 + m % 16
    let src := if m / 16 = 1 then l.areg d else l.vreg d
    let loads := fun (i : Instr) (x : Word) =>
      (m / 16 = 0 → Lands i o s false 2 [.v d x]) ∧ (m / 16 = 1 → Lands i o s false 2 [.a (d % 8) x])
    let z : Nat → Word := fun _ => 0
    loads (.vLd o) (l.dword addr) ∧ loads (.vIn o) (sGet z c.ip (addr % 64)) ∧
    Lands (.vLdp o) o s false 2 [.v d (sGet z c.pfile addr)] ∧
    (m / 16 = 1 → Lands (.vLdc o) o s false 2 [.v d (l.cword (addr / 1024 % 16) (addr % 1024))]) ∧
    (m / 16 = 0 → (c.fadeK = 0 ∨ c.fadeN ≤ c.fadeK) →
      Lands (.vLdc o) o s false 2 [.v d (l.cword (s.part.fld (Reg.CLE_REGION g.ix) 4 4) (addr % 1024))]) ∧
    Lands (.vSt o) o s false 1 [.store addr src] ∧
    Lands (.vOut o) o s false 1 [.vote { addr := 0x10000 + addr % 64, val := some src }] ∧
    Lands (.vPwmw o) o s false 1 [.vote { addr := 0x10100 + addr % 64, val := some (l.vreg d) }] ∧
    Lands (.vSincos o) o s true 6 [.v d (fpCosSin (l.areg n)).1, .v (d + 1) (fpCosSin (l.areg n)).2] ∧
    Lands (.vSqrt o) o s true 8 [.v d (fpSqrt a)] ∧ Lands (.vRecip o) o s true 6 [.v d (fpRecip a)] ∧
    Lands (.vAtan2 o) o s true 10 [.a (d % 8) (fpAtan2 a b)] ∧
    (let r := fpClarke a (l.vreg (n + 1)) (l.vreg (n + 2))
     Lands (.vClarke o) o s true 4 [.v d r.1, .v (d + 1) r.2.1, .v (d + 2) r.2.2]) ∧
    (let r := fpPark a (l.vreg (n + 1)) (l.areg o.s2.toNat)
     Lands (.vPark o) o s true 7 [.v d r.1, .v (d + 1) r.2]) ∧
    (let r := fpIpark a (l.vreg (n + 1)) (l.areg o.s2.toNat)
     Lands (.vIpark o) o s true 7 [.v d r.1, .v (d + 1) r.2]) ∧
    (let base := 0xC000 + 2048 * (o.s2.toNat % 4)
     let len := min (max (l.dword base).toNat 2) 1023
     let w := (l.dword (base + 1)).toNat
     let ix := if len ≤ w then 0 else w
     let r := fpSeqSplit a (l.vreg (n + 1)) (l.dword (base + 2 + 2 * ix)) (l.dword (base + 2 + 2 * ix + 1))
     Lands (.vSeq o) o s true 4 [.v d r.1, .v (d + 1) r.2.1, .v (d + 2) r.2.2.1, .v (d + 3) r.2.2.2,
       .store (base + 2 + 2 * ix) a, .store (base + 2 + 2 * ix + 1) (l.vreg (n + 1)),
       .store (base + 1) (BitVec.ofNat 32 ((ix + 1) % len))]) ∧
    (let r := fun k => l.vreg (n + k)
     let w := fpFma (r 2) (r 4) (fpFnma (fpFma (r 0) (r 5) (fpSub (r 1) (r 2))) (r 6) (fpSub (r 2) (r 3)))
     (m % 2 = 1 → Lands (.vSwing o) o s true 4 [.v (n + 2) w]) ∧
     (m % 2 = 0 → Lands (.vSwing o) o s true 4 [.v (n + 2) w, .a (d % 8) (angleAdd (l.areg d) (fpMul (r 7) w))])) ∧
    (let r := fpLimit a (l.vreg (n + 1)) b
     (r.2.2 = true → Lands (.vLimv o) o s true 6 [.v d r.1, .v (d + 1) r.2.1, .flag (m % 16)]) ∧
     (r.2.2 = false → Lands (.vLimv o) o s true 6 [.v d r.1, .v (d + 1) r.2.1])) ∧
    ((c.fadeK = 0 ∨ c.fadeN ≤ c.fadeK) →
      let k := o.s2.toNat
      let co := fun i => l.cword (s.part.fld (Reg.CLE_REGION g.ix) 4 4) (5 * k + i)
      let r := fpBiquad (co 0) (co 1) (co 2) (co 3) (co 4) (l.dword (0xFF80 + 2 * k)) (l.dword (0xFF80 + 2 * k + 1)) a
      Lands (.vBiq o) o s true 4 [.v d r.1, .store (0xFF80 + 2 * k) r.2.1, .store (0xFF80 + 2 * k + 1) r.2.2]) ∧
    (c.probe.site = none → (s.part.fld (Reg.CLE_INJCFG g.ix) 24 8).testBit (o.s2.toNat % 8) = true →
      Lands (.vInj o) o s true 3 [.v d (fpAdd a c.probe.g)]) ∧
    (c.probe.site = none → (s.part.fld (Reg.CLE_INJCFG g.ix) 24 8).testBit (o.s2.toNat % 8) = false →
      Lands (.vInj o) o s true 3 [.v d a]) ∧
    Lands (.vAadd o) o s true 3 [.a (d % 8) (angleAdd (l.areg n) b)] ∧
    Lands (.vAdif o) o s true 3 [.v d (angleDiff (l.areg n) (l.areg o.s2.toNat))]

/-- R113, R114, R118, R161, R162, R164: what holds of every operation. -/
def Obligations.VTimingAndGuards : Prop :=
  (∀ (f : VOp → Instr) (o : VOp) (s : State),
    f ∈ [Instr.vNop, .vFadd, .vFsub, .vFmul, .vFma, .vFnma, .vFmin, .vFmax, .vFabs, .vFneg, .vFmov, .vFcmp, .vSel,
      .vSat, .vIntg, .vAccd, .vFtst, .vPlog, .vIand, .vIor, .vIxor, .vIshl, .vIshr, .vIcmp, .vPins, .vCvti, .vCvtf, .vLd,
      .vSt, .vLdc, .vLdp, .vIn, .vSincos, .vSqrt, .vRecip, .vAtan2, .vClarke, .vPark, .vIpark, .vSeq, .vSwing, .vLimv,
      .vBiq, .vInj, .vAadd, .vAdif] →
    (s.part.laneRuns o.lane = false → Idles (f o) s) ∧
    (s.part.alive = true → s.part.laneRuns o.lane = true → (vLane s o).preg o.p.toNat = false →
      Does (f o) s (fun p => p = s.part.ranLane o.lane (vLane s o)))) ∧
  (∀ (o : VOp) (s : State), s.part.alive = true → s.part.laneRuns o.lane = true → (vLane s o).preg o.p.toNat = false →
    Lands (.vOut o) o s false 1 [.vote { addr := 0x10000 + vAddr o % 64, val := none }] ∧
    Lands (.vPwmw o) o s false 1 [.vote { addr := 0x10100 + vAddr o % 64, val := none }]) ∧
  (∀ (o : VOp) (s : State), s.part.laneRuns o.lane = false → Idles (.vOut o) s ∧ Idles (.vPwmw o) s) ∧
  (∀ (o : VOp) (s : State) (i : Instr) (isX : Bool) (lat r : Nat) (x : Word),
    Lands i o s isX lat [.v r x] → (vLane s o).inflight = [] →
    Does i s (fun p =>
      (∀ c < o.bundle.toNat + lat, ∀ k, ((p.lane o.lane).upTo c).vreg k = (vLane s o).vreg k) ∧
      (∀ c ≥ o.bundle.toNat + lat, ((p.lane o.lane).upTo c).vreg r = x ∧
        (∀ k, k ≠ r → ((p.lane o.lane).upTo c).vreg k = (vLane s o).vreg k)) ∧
      (∀ c, ((p.lane o.lane).upTo c).data = (vLane s o).data ∧ ((p.lane o.lane).upTo c).a = (vLane s o).a ∧
        ((p.lane o.lane).upTo c).f = (vLane s o).f ∧ ((p.lane o.lane).upTo c).crc = (vLane s o).crc))) ∧
  (∀ (l : Lane) (due a b : Nat) (x y : Word), l.inflight = [] →
    (((l.launch due true [.store a x]).launch due false [.store b y]).upTo due).crc =
      (((l.launch due false [.store b y]).launch due true [.store a x]).upTo due).crc) ∧
  (∀ (o : VOp) (s : State), s.part.alive = true → s.part.laneRuns o.lane = true →
    let l := (s.part.lane o.lane).upTo (o.bundle.toNat + 16)
    let crc := BitVec.ofNat 32 (crcBytes crc32cPoly l.crc.toNat l.sigTail) ^^^ 0xFFFFFFFF
    let q := s.part.ranLane o.lane { l with ended := true, cycle := o.bundle.toNat + 1, crc := crc }
    Does (.vSampleEnd o) s (fun p => p.reg (Reg.CLE_LSIG o.lane) = crc ∧ p.lanes = q.lanes ∧
      RegsBut s.part p [Reg.CLE_LSIG o.lane] ∧ p = { s.part with regs := p.regs, lanes := p.lanes })) ∧
  (∀ (p : Part) (n : Fin 8) (l : Lane),
    (p.ranLane n l).lane n = l ∧ p.ranLane n l = { p with lanes := (p.ranLane n l).lanes } ∧
    (∀ k : Fin 8, k ≠ n → (∀ x, (p.cg (p.laneGrp n)).load = some x → (p.members (p.laneGrp n)).head? = some n.val →
      x.lane ≠ k) → (p.ranLane n l).lane k = p.lane k) ∧
    (∀ x, (p.cg (p.laneGrp n)).load = some x → (p.members (p.laneGrp n)).head? = some n.val → x.lane ≠ n → x.lane < 8 →
      (p.ranLane n l).lane x.lane =
        { p.lane x.lane with data := followWords (p.lane n).data l.data (p.lane x.lane).data })) ∧
  (∀ (a : Nat) (w : Word) (m d : WordFile), followWords m m d = d ∧
    (w ≠ 0 → followWords [] [(a, w)] d = sSet (fun _ => 0) d a w)) ∧
  (∀ (o : VOp) (s : State), s.part.laneRuns o.lane = false → Idles (.vSampleEnd o) s) ∧
  -- slot words
  (slotOps.map (·.1)).Nodup ∧
  (∀ (lane : Fin 8) (bundle : BitVec 13) (d s1 s2 : BitVec 6) (p : BitVec 3) (mod : BitVec 5),
    (∀ e ∈ slotOps, decodeSlotWord lane bundle (BitVec.ofNat 6 e.1 ++ d ++ s1 ++ s2 ++ p ++ mod) =
      some (e.2 { lane := lane, bundle := bundle, d := d, s1 := s1, s2 := s2, p := p, mod := mod })) ∧
    ∀ op : BitVec 6, (∀ e ∈ slotOps, e.1 ≠ op.toNat) → decodeSlotWord lane bundle (op ++ d ++ s1 ++ s2 ++ p ++ mod) = none) ∧
  decodeSlotWord 0 7 0b00111001100010100101010000000001 =
    some (.vIntg { lane := 0, bundle := 7, d := 24, s1 := 41, s2 := 20, p := 0, mod := 1 })

/-- R149, R150, R151, R153: what the arithmetic of the lanes and cores keeps to. -/
def Obligations.FloatingPoint : Prop :=
  (∀ a b c : Word, (fpIsNan a = true ∨ fpIsNan b = true) →
    fpAdd a b = fpNan ∧ fpSub a b = fpNan ∧ fpMul a b = fpNan ∧ fpFma c a b = fpNan ∧ fpFnma c a b = fpNan ∧
    fpDiv a b = fpNan ∧ fpMin a b = fpNan ∧ fpMax a b = fpNan) ∧
  fpAdd 0x7F800000 0xFF800000 = 0x7FC00000 ∧ fpSub 0x7F800000 0x7F800000 = 0x7FC00000 ∧
  (∀ a : Word, a = 0 ∨ a = 0x80000000 → fpMul a 0x7F800000 = 0x7FC00000 ∧ fpMul 0xFF800000 a = 0x7FC00000) ∧
  (∀ a b : Word, fpAdd (fpFlush a) (fpFlush b) = fpAdd a b ∧ fpMul (fpFlush a) (fpFlush b) = fpMul a b ∧
    fpDiv (fpFlush a) (fpFlush b) = fpDiv a b) ∧
  (∀ a b : Word, fpFlush (fpAdd a b) = fpAdd a b ∧ fpFlush (fpMul a b) = fpMul a b ∧ fpFlush (fpDiv a b) = fpDiv a b ∧
    fpFlush (fpMin a b) = fpMin a b ∧ fpFlush (fpMax a b) = fpMax a b) ∧
  (∀ a b : Word, fpAdd a b = fpAdd b a ∧ fpMul a b = fpMul b a) ∧
  (∀ a ∈ ([0, 0x80000000] : List Word), ∀ b ∈ ([0, 0x80000000] : List Word), a ≠ b →
    fpMin a b = 0x80000000 ∧ fpMax a b = 0) ∧
  (∀ a b : Word, (fpIsNan a = true ∨ fpIsNan b = true) →
    fpRel 0 a b = false ∧ fpRel 1 a b = true ∧ fpRel 2 a b = false ∧ fpRel 3 a b = false ∧ fpRel 4 a b = false ∧
    fpRel 5 a b = false ∧ fpRel 6 a b = true) ∧
  (∀ a : Word, fpIsNan a = true → fpToInt a = 0) ∧ fpToInt 0x7F800000 = 0x7FFFFFFF ∧ fpToInt 0xFF800000 = 0x80000000 ∧
  fpRecip 0 = 0x7F800000 ∧ fpRecip 0x80000000 = 0xFF800000 ∧ fpRecip 0x7F800000 = 0 ∧ fpRecip 0xFF800000 = 0x80000000 ∧
  (∀ a : Word, bitAt a 31 = true → bits a 23 8 ≠ 0 → fpSqrt a = fpNan)

/-- R188 to R192: the rows of the protection comparators. -/
def Obligations.ProtectionComparators : Prop :=
  (∀ (k : Fin 14) (t : Instant) (s : State), s.part.alive = true →
    let rt := s.part.ringOf t
    (s.part.pcOn k = true → s.part.bit Reg.PROT_STAT k = false →
      Does (.comparatorTripCrossing k t) s (fun p =>
        p.bit Reg.PROT_STAT k = true ∧ p.reg (Reg.PROT_TS_LO k) = BitVec.ofNat 32 (instNs rt) ∧
        (∀ l < 24, s.part.legOn l = true → (s.part.sourceLegs k).testBit l = true →
          ((s.part.leg l).blankEnd ≤ t → p.latched l = true) ∧
          (t < (s.part.leg l).blankEnd → p.latched l = s.part.latched l ∧ { leg := l, src := k, t := t } ∈ p.sense.held)) ∧
        (∀ l < 24, (s.part.sourceLegs k).testBit l = false → p.latched l = s.part.latched l))) ∧
    ((s.part.pcOn k = false ∨ s.part.bit Reg.PROT_STAT k = true) →
      Does (.comparatorTripCrossing k t) s (fun p => p = s.part.at t)) ∧
    (s.part.pcOn k = true → s.part.bit Reg.PROT_STAT (16 + k) = false →
      Does (.comparatorHardCrossing k t) s (fun p =>
        p.bit Reg.PROT_STAT (16 + k) = true ∧ p.reg (Reg.PROT_HTS_LO k) = BitVec.ofNat 32 (instNs rt) ∧
        (∀ l < 24, s.part.legOn l = true → (s.part.sourceLegs k).testBit l = true → p.latched l = true) ∧
        (∀ l < 24, (s.part.sourceLegs k).testBit l = false → p.latched l = s.part.latched l))) ∧
    ((s.part.pcOn k = false ∨ s.part.bit Reg.PROT_STAT (16 + k) = true) →
      Does (.comparatorHardCrossing k t) s (fun p => p = s.part.at t)) ∧
    (∀ hard : Bool, s.part.pcReleases k hard = true →
      Does (.comparatorRelease k hard) s (fun p =>
        p.bit Reg.PROT_STAT (if hard then 16 + k else k) = false ∧
        (∀ x ∈ p.sense.standing, ¬ (x.src = k ∧ x.cls = hard.toNat)) ∧ RegsBut s.part p [Reg.PROT_STAT])) ∧
    (∀ hard : Bool, s.part.pcReleases k hard = false → Idles (.comparatorRelease k hard) s)) ∧
  (∀ (l : Fin 24) (t : Instant) (s : State), s.part.alive = true →
    let mine := s.part.sense.held.filter (fun h => h.leg = l.val)
    (t < (s.part.leg l).blankEnd → Does (.blankingEnd l t) s (fun p => p = s.part.at t)) ∧
    ((s.part.leg l).blankEnd ≤ t → (∃ h ∈ mine, s.part.stands h.src = true) →
      Does (.blankingEnd l t) s (fun p => p.latched l = true ∧ ∀ h ∈ p.sense.held, h.leg ≠ l)) ∧
    (∀ h : HeldTrip, (s.part.leg l).blankEnd ≤ t → mine = [h] → s.part.stands h.src = false → h.src < 14 →
      Does (.blankingEnd l t) s (fun p =>
        p.sense.held = s.part.sense.held.filter (fun h => h.leg ≠ l.val) ∧
        p.fld (Reg.PROT_BLKCNT h.src) 0 32 = min (s.part.fld (Reg.PROT_BLKCNT h.src) 0 32 + 1) (2 ^ 32 - 1) ∧
        RegsBut s.part p [Reg.PROT_BLKCNT h.src]))) ∧
  (∀ (v : Word) (s : State), s.part.alive = true →
    (bitAt v 0 = true → Does (.protFrearm v) s (fun p =>
      p.reg Reg.PROT_FLEGS = 0 ∧ p.reg Reg.PROT_FFIRST = 0 ∧ (∀ l < 24, p.reg (Reg.PROT_FSRC l) = 0) ∧
      RegsOnly s.part p ([Reg.PROT_FLEGS, Reg.PROT_FFIRST] ++ (List.range 24).map Reg.PROT_FSRC))) ∧
    (bitAt v 0 = false → Idles (.protFrearm v) s)) ∧
  (∀ (r : Fin 2) (v : Word) (t : Instant) (s : State), s.part.alive = true →
    let k := bits v 0 4
    let fs := [Reg.PROT_TRIP, Reg.PROT_HARD, Reg.PROT_LEGS, Reg.PROT_CFG]
    (bitAt v 31 = true → k < 14 → k ≠ 12 + r →
      Does (.protReserveMap r v t) s (fun p =>
        (∀ f ∈ fs, p.reg (f (12 + r)) = s.part.reg (f k) ∧ p.staged (f (12 + r)) = s.part.reg (f k)) ∧
        p.reg (Reg.PROT_RSVMAP r) = v &&& 0x8000000F ∧ (r.val, t + usec 10) ∈ p.sense.armUntil ∧
        12 + r.val ∉ p.sense.disarmed ∧
        RegsBut s.part p (Reg.PROT_RSVMAP r :: fs.map (· (12 + r)) ++ fs.map (fun f => stagedOff (f (12 + r)))))) ∧
    (bitAt v 31 = false → s.part.bit (Reg.PROT_RSVMAP r) 31 = true →
      Does (.protReserveMap r v t) s (fun p =>
        p.reg (Reg.PROT_RSVMAP r) = v &&& 0x8000000F ∧ 12 + r.val ∈ p.sense.disarmed ∧
        p.bit Reg.PROT_STAT (12 + r) = false ∧ p.bit Reg.PROT_STAT (28 + r) = false ∧
        RegsBut s.part p [Reg.PROT_RSVMAP r, Reg.PROT_STAT])) ∧
    (let target := s.part.fld (Reg.PROT_RSVMAP r) 0 4
     (∃ a, (r.val, a) ∈ s.part.sense.armUntil ∧ a ≤ t) →
      Does (.protReserveArmEnd r t) s (fun p =>
        target ∈ p.sense.disarmed ∧ (∀ e ∈ p.sense.armUntil, e.1 ≠ r.val) ∧ p.bit Reg.PROT_STAT target = false ∧
        p.bit Reg.PROT_STAT (16 + target) = false ∧
        p.reg Reg.SPARE_LAST = BitVec.ofNat 32 (7 * 2 ^ 24 + target * 65536 + (12 + r) * 256 + 5))) ∧
    ((∀ a, (r.val, a) ∈ s.part.sense.armUntil → t < a) →
      Does (.protReserveArmEnd r t) s (fun p => p = s.part.at t)))

/-- R173 to R186: the rows of the sigma-delta channels and of the AUXADC. -/
def Obligations.SensingChannels : Prop :=
  (∀ (n : Fin 28) (t : Instant) (s : State), s.part.alive = true →
    let st := Reg.SENSE_STAT n
    let ev := Reg.SENSE_EVT n
    let live := s.part.sdRuns n = true ∧ s.part.bit st 30 = false
    (live → Does (.modulatorClkloss n t) s (fun p =>
      p.bit st 30 = true ∧ p.bit ev 7 = true ∧
      (∀ m, s.part.sdAs n = some m → s.part.bit (Reg.SENSE_CFG m) 26 = true →
        ∀ l < 24, s.part.legOn l = true → (s.part.sourceLegs (0x80 + m)).testBit l = true → p.latched l = true) ∧
      ((s.part.sdAs n = none ∨ ∃ m, s.part.sdAs n = some m ∧ s.part.bit (Reg.SENSE_CFG m) 26 = false) →
        RegsBut s.part p [st, ev]))) ∧
    (s.part.sdRuns n = true → s.part.bit st 30 = true → Does (.modulatorClkloss n t) s (fun p =>
      p = (s.part.at t).setSd n { s.part.sdCh n with lossFresh := true })) ∧
    (s.part.sdRuns n = false → Does (.modulatorClkloss n t) s (fun p => p = s.part.at t)) ∧
    (s.part.sdRuns n = true → s.part.bit (Reg.SENSE_CFG (s.part.sdCfg n)) 29 = true → Does (.manchesterViolation n t) s (fun p =>
      p.fld (Reg.SENSE_MVCNT n) 0 32 = min (s.part.fld (Reg.SENSE_MVCNT n) 0 32 + 1) (2 ^ 32 - 1) ∧ p.bit ev 4 = true ∧
      (p.sdCh n).mviol = (s.part.sdCh n).mviol + 1 ∧
      (16 ≤ (s.part.sdCh n).mviol → p.bit st 30 = true) ∧
      ((s.part.sdCh n).mviol < 16 → RegsBut s.part p [ev, Reg.SENSE_MVCNT n]))) ∧
    ((s.part.sdRuns n = false ∨ s.part.bit (Reg.SENSE_CFG (s.part.sdCfg n)) 29 = false) → Does (.manchesterViolation n t) s (fun p => p = s.part.at t)) ∧
    (s.part.sdRuns n = true → Does (.stuck n) s (fun p =>
      p.bit st 27 = true ∧ p.bit ev 5 = true ∧ RegsOnly s.part p [st, ev])) ∧
    (s.part.sdRuns n = false → Idles (.stuck n) s) ∧
    (∀ line : SdLine (BitVec 15), live → Does (.fastPathOutput n line t) s (fun p =>
      let x := sincDensity 2 8 (bitList (s.part.sdLine n line))
      (p.sdCh n).fastX = x ∧ p.reg (Reg.SENSE_FAST n) = s.part.sdScale n x)) ∧
    (∀ line : SdLine (BitVec 15), ¬ live → Does (.fastPathOutput n line t) s (fun p => p = s.part.at t)) ∧
    (∀ line : SdLine (List Bool), live → Does (.fineOutput n line t) s (fun p =>
      let x := (chainOf (s.part.reg (Reg.SENSE_CFG (s.part.sdCfg n)))).density (s.part.sdLine n line)
      let y := s.part.sdScale n x
      (p.sdCh n).fineX = x ∧ (p.sdCh n).fineY = y ∧
      (s.part.sdAs n = some n.val → ∀ w < 2, p.bit st w = (s.part.bit (Reg.SENSE_WCFG n w) 0 &&
        windowHolds (s.part.reg (Reg.SENSE_WCFG n w)) (s.part.reg (Reg.SENSE_WLO n w)) (s.part.reg (Reg.SENSE_WHI n w)) y)))) ∧
    (∀ line : SdLine (List Bool), ¬ live → Does (.fineOutput n line t) s (fun p => p = s.part.at t)) ∧
    (let passed := fun (clocks : Nat) => (s.part.sdCh n).unsAt + s.part.modClocks n (clocks - 1) ≤ (s.part.at t).now
     let fine := (chainOf (s.part.reg (Reg.SENSE_CFG (s.part.sdCfg n)))).settling
     (passed fine → Does (.settlingEnd n (false, t)) s (fun p => p.bit st 28 = false ∧ p.bit st 26 = false ∧
       RegsOnly s.part p [st])) ∧
     (¬ passed fine → Does (.settlingEnd n (false, t)) s (fun p => p = s.part.at t)) ∧
     (passed 16 → Does (.settlingEnd n (true, t)) s (fun p => p = (s.part.at t).setSd n { s.part.sdCh n with fastUns := false })) ∧
     (¬ passed 16 → Does (.settlingEnd n (true, t)) s (fun p => p = s.part.at t)))) ∧
  (∀ (r : Fin 4) (s : State) (n : Nat) (slot : Option Nat), s.part.alive = true → (s.part.sdRsv r).req = some (n, slot) →
    (n < 64 → Idles (.senseSwapTimeout r) s) ∧
    (64 ≤ n → (∀ k, slot = some k → k < 8) → Does (.senseSwapTimeout r) s (fun p =>
      (p.sdRsv r).req = none ∧ p.rsvState r = 3 ∧ (∀ k, slot = some k → p.opState k = 4)))) ∧
  (∀ (code : BitVec 16) (t : Instant) (s : State), s.part.alive = true →
    let x := s.part.sense.aux
    (x.busy = none → Does (.auxadcConversionDone code t) s (fun p => p = s.part.at t)) ∧
    (∀ c, x.busy = some c → t < c.start + nsec 500 → Does (.auxadcConversionDone code t) s (fun p => p = s.part.at t)) ∧
    (∀ c, x.busy = some c → c.start + nsec 500 ≤ t → Does (.auxadcConversionDone code t) s (fun p =>
      let i := c.input
      let tr := Config.auxTrim (s.part.reg (Reg.AUXADC_TRIM i))
      let y := (s.part.at t).auxKick { x with busy := none }
      (i < 16 → p.reg (Reg.AUXADC_RES i) = scaleY (s.part.reg (Reg.AUXADC_SCALE i)) tr.1 tr.2
        (s.part.reg (Reg.AUXADC_UOFF i)) (fpOfRat code.toNat 65536)) ∧
      p.fld Reg.AUXADC_STAT 0 16 = (s.part.fld Reg.AUXADC_STAT 0 16 + 1) % 65536 ∧
      p.sense.aux = y ∧ p.bit Reg.AUXADC_STAT 31 = y.busy.isSome)) ∧
    (∀ k q, x.busy = none → x.queue = k :: q →
      s.part.auxKick x = { x with busy := some { slot := k, input := s.part.fld (Reg.AUXADC_SEQ k) 0 4, start := s.part.now },
                                  queue := q }) ∧
    (let slots := (List.range 16).filter (fun k => s.part.bit (Reg.AUXADC_SEQ k) 31 && s.part.fld (Reg.AUXADC_SEQ k) 16 2 = 2)
     (s.part.freeDue t = true → Does (.auxadcFreerun t) s (fun p =>
       p.sense.aux = (s.part.at t).auxKick { x with
         idle := x.idle ++ slots.filter (fun k => !x.idle.contains k), lastFree := some t } ∧
       RegsBut s.part p [Reg.AUXADC_STAT])) ∧
     (s.part.freeDue t = false → Does (.auxadcFreerun t) s (fun p => p = s.part.at t))))

/-- R210, R215, R217, R219: gate faults and latch clears. -/
def Obligations.GateFaults : Prop :=
  (∀ (c : Fin 56) (t : Instant) (s : State), s.part.alive = true →
    let st := Reg.GATE_CHSTAT c
    let judged := s.part.chanChecked c = true ∧ s.part.stoHold = false
    let old := s.part.edgeAt c + s.part.tout c
    let partner := 2 * (s.part.chanHome c / 2) + 1 - s.part.chanHome c % 2
    let both := s.part.ret partner = true
    let faulted := fun (p : Part) (kind : Nat) =>
      p.fld st 0 16 = min (s.part.fld st 0 16 + 1) 65535 ∧
      (s.part.floor = true → p.bit st 31 = true ∧ p.fld st 16 4 = kind ∧
        ∀ l, s.part.legOfPair (s.part.chanHome c / 2) = some l → p.latched l = true) ∧
      (s.part.floor = false → p.reg Reg.GATE_LATCH = s.part.reg Reg.GATE_LATCH)
    (∀ level : Bool, let on := xor level (s.part.bit (Reg.GATE_CCFG c) 30)
      (s.part.gs c = on → Does (.gsReturn c level t) s (fun p => p = s.part.at t)) ∧
      (s.part.gs c ≠ on → s.part.chanHome c < 48 → Does (.gsReturn c level t) s (fun p =>
        p.gs c = on ∧ (∀ k < 56, k ≠ c.val → p.gs k = s.part.gs k) ∧
        (judged → old < t → (on = false ∨ ¬ both) → faulted p 3) ∧
        (judged → t ≤ old → on = true → both → faulted p 4) ∧
        ((¬ judged ∨ (t ≤ old ∧ (on = false ∨ ¬ both))) → p.reg st = s.part.reg st ∧
          p.reg Reg.GATE_LATCH = s.part.reg Reg.GATE_LATCH)))) ∧
    (judged → old ≤ t → s.part.gs c ≠ s.part.gt c → c.val ∉ s.part.pwm.shown →
      Does (.gateTimeout c t) s (fun p => faulted p (if s.part.gt c then 1 else 2))) ∧
    ((¬ judged ∨ t < old ∨ s.part.gs c = s.part.gt c ∨ c.val ∈ s.part.pwm.shown) → Does (.gateTimeout c t) s (fun p => p = s.part.at t)) ∧
    (s.part.chanChecked c = true → s.part.replaced c = false → Does (.padFault c true t) s (fun p => faulted p 5 ∧ c.val ∈ p.pwm.padBad)) ∧
    ((s.part.chanChecked c = false ∨ s.part.replaced c = true) → Does (.padFault c true t) s (fun p => c.val ∈ p.pwm.padBad ∧ p.regs = s.part.regs)) ∧
    (Does (.padFault c false t) s (fun p => c.val ∉ p.pwm.padBad ∧ p.regs = s.part.regs))) ∧
  (∀ (l : Fin 24) (t : Instant) (s : State), s.part.alive = true →
    let v : Word := BitVec.ofNat 32 (2 ^ l.val)
    let g := s.part.legGrp l
    (s.part.latched l = false → Does (.gateTripclr v t) s (fun p => p = s.part.at t)) ∧
    (s.part.latched l = true → s.part.tripStands l t = true →
      Does (.gateTripclr v t) s (fun p => p = (s.part.at t).setFld Reg.GATE_CLRREF l 1 1)) ∧
    (s.part.latched l = true → s.part.tripStands l t = false → s.part.tbRuns g = true →
      Does (.gateTripclr v t) s (fun p => p.bit Reg.GATE_CLRREF l = false ∧ p.latched l = true ∧
        (p.leg l).clearing = some (s.part.nextBoundary g) ∧ RegsBut s.part p [Reg.GATE_CLRREF])) ∧
    (s.part.latched l = true → s.part.tripStands l t = false → s.part.tbRuns g = false →
      Does (.gateTripclr v t) s (fun p => p.latched l = false ∧ p.bit Reg.GATE_SOFTOUT l = false ∧
        ∀ k < 24, k ≠ l.val → p.latched k = s.part.latched k)) ∧
    (∀ b, (s.part.leg l).clearing = some b → b ≤ t →
      Does (.tripLatchClear l t) s (fun p => p.latched l = false ∧ p.bit Reg.GATE_SOFTOUT l = false ∧
        (p.leg l).clearing = none ∧ ∀ k < 24, k ≠ l.val → p.latched k = s.part.latched k)) ∧
    ((∀ b, (s.part.leg l).clearing = some b → t < b) → Does (.tripLatchClear l t) s (fun p => p = s.part.at t))) ∧
  (∀ (v : Word) (s : State), s.part.alive = true →
    Does (.gateFrearm v) s (fun p => p = if bitAt v 0 = true then s.part.setReg Reg.GATE_FFIRST 0 else s.part))

/-- R221 and R222: gate reserves and the gate status buses. -/
def Obligations.GateReservesAndBuses : Prop :=
  (∀ (r : Fin 8) (t : Instant) (s : State), s.part.alive = true →
    let x := s.part.gateSwap r
    let c := s.part.fld (Reg.GATE_RSVMAP r) 0 6
    let due := x.phase = .compare ∧ 8 ≤ x.agree ∧ (s.part.at t).edgeNear c (t - usec 2) (t + usec 2) = false
    let slotOk := ∀ k, x.slot = some k → k < 8
    (due → Does (.gateReserveSelect r t) s (fun p => p = (s.part.at t).setGateSwap r { x with phase := .selected, selAt := t })) ∧
    (¬ due → Does (.gateReserveSelect r t) s (fun p => p = s.part.at t)) ∧
    (x.phase = .selected → x.selAt + usec 1 ≤ t → slotOk →
      Does (.gateReserveTargetOff r t) s (fun p => (p.gateSwap r).phase = .inService ∧ p.bit (Reg.GATE_CHSTAT c) 30 = true ∧
        p.reg Reg.SPARE_LAST = BitVec.ofNat 32 (6 * 2 ^ 24 + c * 65536 + (48 + r) * 256 + x.cause) ∧
        (∀ k, x.slot = some k → p.opState k = 3))) ∧
    ((x.phase ≠ .selected ∨ t < x.selAt + usec 1) → Does (.gateReserveTargetOff r t) s (fun p => p = s.part.at t)) ∧
    (x.phase = .compare → 64 ≤ x.periods → slotOk →
      Does (.gateSwapTimeout r) s (fun p => p.gateSwap r = {} ∧ p.gt (48 + r) = false ∧ (∀ k, x.slot = some k → p.opState k = 4))) ∧
    ((x.phase ≠ .compare ∨ x.periods < 64) → Idles (.gateSwapTimeout r) s)) ∧
  (∀ (n : Fin 2) (s : State), s.part.alive = true →
    let x := s.part.gbus n
    let cfg := Reg.GATE_GBCFG n
    let st := Reg.GATE_GBSTAT n
    ((s.part.bit cfg 31 = false ∨ x.req.isSome = true) → Idles (.gbusPoll n) s) ∧
    (∀ c rest, s.part.bit cfg 31 = true → x.req = none → x.faults = c :: rest →
      Does (.gbusPoll n) s (fun p => p = s.part.setGbus n { x with
        req := some (.fault c, s.part.fld (Reg.GATE_GADDR c) 0 5, s.part.fld cfg 16 8), faults := rest,
        sent := gbusRequest (s.part.fld (Reg.GATE_GADDR c) 0 5) (s.part.fld cfg 16 8) })) ∧
    (∀ k i, s.part.bit cfg 31 = true → x.req = none → x.faults = [] → i < 32 → k = (x.next + i) % 32 →
      s.part.bit (Reg.GATE_GBPOLL n k) 31 = true → (∀ j < i, s.part.bit (Reg.GATE_GBPOLL n ((x.next + j) % 32)) 31 = false) →
      Does (.gbusPoll n) s (fun p => p = s.part.setGbus n { x with
        req := some (.poll k, s.part.fld (Reg.GATE_GBPOLL n k) 8 5, s.part.fld (Reg.GATE_GBPOLL n k) 0 8),
        next := (k + 1) % 32,
        sent := gbusRequest (s.part.fld (Reg.GATE_GBPOLL n k) 8 5) (s.part.fld (Reg.GATE_GBPOLL n k) 0 8) })) ∧
    (∀ a r : Nat, gbusRequest a r = [BitVec.ofNat 8 a, BitVec.ofNat 8 r,
      BitVec.ofNat 8 (crc8 [BitVec.ofNat 8 a, BitVec.ofNat 8 r])]) ∧
    (∀ data, x.req = none → Idles (.gbusResponse n data) s) ∧
    (∀ (k addr reg : Nat) (d3 d2 d1 d0 : Byte), x.req = some (.poll k, addr, reg) → addr < 32 → reg < 256 →
      let body : List Byte := [BitVec.ofNat 8 (addr + 0x80), BitVec.ofNat 8 reg, d3, d2, d1, d0]
      Does (.gbusResponse n (body ++ [BitVec.ofNat 8 (crc8 body)])) s (fun p =>
        p = (s.part.setGbus n { x with req := none }).setReg (Reg.GATE_GBRES n k) (d3 ++ d2 ++ d1 ++ d0))) ∧
    (∀ (k : GbusReq) (addr reg : Nat) (body : List Byte), x.req = some (k, addr, reg) → body.length = 6 →
      ((body.getD 0 0).toNat ≠ addr + 0x80 ∨ (body.getD 1 0).toNat ≠ reg) →
      Idles (.gbusResponse n (body ++ [BitVec.ofNat 8 (crc8 body)])) s) ∧
    (∀ (q : GbusReq × Nat × Nat) (data : List Byte), x.req = some q →
      (data.length ≠ 7 ∨ crc8 (data.take 6) ≠ (data.getD 6 0).toNat) →
      Does (.gbusResponse n data) s (fun p => p.gbus n = { x with req := none } ∧
        p.fld st 16 16 = min (s.part.fld st 16 16 + 1) 65535 ∧ RegsBut s.part p [st])) ∧
    (x.req.isSome = true → Does (.gbusTimeout n) s (fun p => p.gbus n = { x with req := none } ∧
      p.fld st 0 16 = min (s.part.fld st 0 16 + 1) 65535 ∧ RegsBut s.part p [st])) ∧
    (x.req = none → Idles (.gbusTimeout n) s))

/-- R198, R199, R201: the rows of the timebases. -/
def Obligations.Timebases : Prop :=
  (∀ (g : Grp) (t : Instant) (s : State), s.part.alive = true →
    let ctl := Reg.PWM_TBCTL g.ix
    let st := Reg.PWM_TBSTAT g.ix
    let tb := s.part.tb g
    let start := t + usec 2
    let anchored : Int := sec (s.part.pair (Reg.PWM_ANCHOR_LO g.ix)) + s.part.fld (Reg.PWM_PHASE g.ix) 0 29 * tdcStep
    let now := s.part.updateTime g t
    (s.part.tbRuns g = false → s.part.bit (Reg.PWM_TBCFG g.ix) 31 = false →
      Does (.timebaseStart g t) s (fun p => p.tb g = { base := start, k := 0, last := start } ∧ p.tbRuns g = true ∧
        p.bit ctl 0 = true ∧ p.bit st 29 = false ∧ p.bit st 30 = false ∧ RegsBut s.part p [ctl, st])) ∧
    (s.part.tbRuns g = false → s.part.bit (Reg.PWM_TBCFG g.ix) 31 = true →
      Does (.timebaseStart g t) s (fun p =>
        p.tb g = { base := anchored, k := firstBoundary (s.part.period g) anchored start, last := start } ∧
        p.tbRuns g = true ∧ p.bit ctl 0 = true ∧ p.bit st 30 = true ∧ RegsBut s.part p [ctl, st])) ∧
    (s.part.tbRuns g = true → Does (.timebaseStart g t) s (fun p =>
      p.tb g = { tb with stopReq := false } ∧ p.tbRuns g = true ∧ RegsBut s.part p [ctl, st])) ∧
    (s.part.tbRuns g = false → Does (.timebaseStop g t) s (fun p => p = (s.part.at t).setFld ctl 0 1 0)) ∧
    (s.part.tbRuns g = true → s.part.groupRuns g = true →
      Does (.timebaseStop g t) s (fun p => p = (s.part.at t).setFld st 29 1 1)) ∧
    (s.part.tbRuns g = true → s.part.groupRuns g = false →
      Does (.timebaseStop g t) s (fun p => p.tb g = { tb with stopReq := true } ∧ p.bit ctl 0 = false ∧
        p.tbRuns g = true ∧ p.bit st 29 = false ∧ RegsBut s.part p [ctl, st])) ∧
    ((s.part.tbRuns g = false ∨ tb.stopReq = false ∨ tb.apex = true ∨ now = none) → Idles (.timebaseStopBoundary g t) s) ∧
    (∀ u, s.part.tbRuns g = true → tb.stopReq = true → tb.apex = false → now = some u → s.part.commits = [] →
      s.part.joint = none →
      Does (.timebaseStopBoundary g t) s (fun p => p.tbRuns g = false ∧ p.tb g = {} ∧
        (∀ q < 24, s.part.pairGrp q = g → p.reg (Reg.PWM_CARRYA q) = 0 ∧ p.reg (Reg.PWM_CARRYB q) = 0) ∧
        p.reg Reg.GATE_LATCH = s.part.reg Reg.GATE_LATCH ∧ p.reg Reg.GATE_SOFTOUT = s.part.reg Reg.GATE_SOFTOUT))) ∧
  (∀ (t : Instant) (s : State), s.part.alive = true →
    Does (.delayLineRefresh false t) s (fun p => p = (s.part.at t).setFld Reg.PWM_DLSTAT 31 1 1) ∧
    Does (.delayLineRefresh true t) s (fun p => p.bit Reg.PWM_DLSTAT 31 = false ∧
      p.fld Reg.PWM_DLSTAT 0 16 = (s.part.fld Reg.PWM_DLSTAT 0 16 + 1) % 65536 ∧ RegsBut s.part p [Reg.PWM_DLSTAT]))

/-- R208: software writes of compares. -/
def Obligations.CompareWrites : Prop :=
  ∀ (ini : Initiator) (q : Fin 24) (v : Word) (t : Instant) (s : State), s.part.alive = true →
    let g := s.part.pairGrp q
    let src := s.part.bit (Reg.PWM_PCFG q) 29
    let a := (s.part.held ini (Reg.PWM_CMPA q)).getD (s.part.reg (Reg.PWM_CMPA q))
    let late := s.part.tbRuns g = true ∧ s.part.nextUpdate g ≤ t
    let close := s.part.tbRuns g = true ∧ s.part.nextUpdate g < t + nsec 200
    let n := (s.part.reg (Reg.PWM_USEQ g.ix)).toNat
    (src = false → Does (.pwmCmpaWrite ini q v) s (fun p => p = s.part.setFld (Reg.PWM_WSTAT q) 2 1 1)) ∧
    (src = true → Does (.pwmCmpaWrite ini q v) s (fun p => p.held ini (Reg.PWM_CMPA q) = some v ∧
      p = { s.part with bus := { s.part.bus with held := p.bus.held } })) ∧
    (src = false → Does (.pwmCmpbWrite ini q v t) s (fun p => p = (s.part.at t).setFld (Reg.PWM_WSTAT q) 2 1 1)) ∧
    (src = true → ¬ late → Does (.pwmCmpbWrite ini q v t) s (fun p =>
      p.reg (Reg.PWM_CMPA q) = a ∧ p.reg (Reg.PWM_CMPB q) = v ∧ p.held ini (Reg.PWM_CMPA q) = none ∧
      p.fld (Reg.PWM_WSTAT q) 16 16 = (n + 1) % 65536 ∧ p.bit (Reg.PWM_WSTAT q) 1 = true ∧
      (p.bit (Reg.PWM_WSTAT q) 0 = true ↔ close) ∧ p.pwm = s.part.pwm ∧
      RegsBut s.part p [Reg.PWM_CMPA q, Reg.PWM_CMPB q, Reg.PWM_WSTAT q])) ∧
    (src = true → late → Does (.pwmCmpbWrite ini q v t) s (fun p =>
      (p.tb g).deferred = (s.part.tb g).deferred.filter (fun e => e.1 ≠ q.val) ++ [(q.val, (a, v))] ∧
      p.held ini (Reg.PWM_CMPA q) = none ∧ p.fld (Reg.PWM_WSTAT q) 16 16 = (n + 2) % 65536 ∧
      RegsBut s.part p [Reg.PWM_WSTAT q]))

/-- R209, R212, R213: what the leg state machines may command. -/
def Obligations.GateHandshake : Prop :=
  ∀ (l : Fin 24) (t : Instant) (s : State) (i : Instr), i ∈ [.pwmEdge l t, .deadTimeExpiry l t, .npcDwellEnd l t] →
    s.part.alive = true → s.part.legP0 l < 24 →
    (s.part.legNpc l = true → s.part.legP1 l < 24 ∧ s.part.legP1 l ≠ s.part.legP0 l) →
    let a := s.part.legP0 l
    let b := s.part.legP1 l
    let up := 2 * a
    let lo := 2 * a + 1
    let npc := s.part.legNpc l = true
    let sig := if i = .pwmEdge l t then (s.part.sig (2 * a)).due t else s.part.sig (2 * a)
    let clear := fun (q d : Nat) => s.part.gt d = false ∧ s.part.ret d = false ∧
      s.part.edgeAt d + s.part.fld (Reg.PWM_DT q) 0 17 * tdcStep ≤ t
    let simple := s.part.legOn l = true ∧ s.part.legNpc l = false
    (s.part.legOn l = false → Does i s (fun p => ∀ c < 64, p.gt c = s.part.gt c)) ∧
    Does i s (fun p =>
      (∀ q, (q = a ∨ (npc ∧ q = b)) → ∀ c d, ((c = 2 * q ∧ d = 2 * q + 1) ∨ (c = 2 * q + 1 ∧ d = 2 * q)) →
        p.gt c = true → s.part.gt c = false →
        p.gt d = false ∧ p.ret d = false ∧ p.edgeAt d + p.fld (Reg.PWM_DT q) 0 17 * tdcStep ≤ t) ∧
      (npc → p.gt (2 * a) = true → s.part.gt (2 * a) = false → p.gt (2 * b) = true ∧ p.ret (2 * b) = true) ∧
      (npc → p.gt (2 * b + 1) = true → s.part.gt (2 * b + 1) = false → p.gt (2 * a + 1) = true ∧ p.ret (2 * a + 1) = true) ∧
      (∀ c < 48, c / 2 ≠ a → ¬ (npc ∧ c / 2 = b) → p.gt c = s.part.gt c)) ∧
    (simple → s.part.legMode l = .off → Does i s (fun p => p.gt up = false ∧ p.gt lo = false)) ∧
    (simple → s.part.legMode l = .asc → Does i s (fun p => p.gt up = false ∧
      (s.part.gt lo = true → p.gt lo = true) ∧ (clear a up → p.gt lo = true))) ∧
    (simple → s.part.legMode l = .run → sig.live = true → sig.lvl = false → Does i s (fun p => p.gt up = false)) ∧
    (simple → s.part.legMode l = .run → sig.live = true → sig.lvl = true → clear a lo →
      Does i s (fun p => p.gt up = true ∧ (s.part.pairIndep a = false → p.gt lo = false))) ∧
    (s.part.legOn l = true → npc → s.part.legMode l = .run → (s.part.leg l).fromZ = false → (s.part.leg l).want = 5 →
      sig.live = true → sig.lvl = true → s.part.bit (Reg.PWM_ACMPA a) 31 = true →
      [s.part.gt up, s.part.gt lo, s.part.gt (2 * b), s.part.gt (2 * b + 1)] = [false, true, true, false] →
      [s.part.ret up, s.part.ret lo] = [false, true] →
      s.part.edgeAt up + s.part.fld (Reg.PWM_DT a) 0 17 * tdcStep ≤ t →
      let dwelt := (s.part.leg l).oAt + max (s.part.fld (Reg.PWM_MINPW a) 0 16) (s.part.fld (Reg.PWM_MINPW b) 0 16) * tdcStep ≤ t
      (((s.part.leg l).direct ≠ 5 ∨ dwelt) → Does i s (fun p => p.gt (2 * b) = false)) ∧
      ((s.part.leg l).direct = 5 → ¬ dwelt → Does i s (fun p => p.gt (2 * b) = true)))

/-- R228 to R234, R238: the rows of the position interfaces (roundings: log entry 17). -/
def Obligations.PositionInterfaces : Prop :=
  ∀ (n : Fin 4) (t : Instant) (s : State), s.part.alive = true →
    let x := s.part.pif n
    let count := Reg.POS_COUNT n
    let turns := Reg.POS_TURNS n
    let evt := Reg.POS_EVT n
    let st := Reg.POS_STAT n
    let c := s.part.posCount n
    let cpr := s.part.cpr n
    let on := s.part.posOn n = true
    let cfg := s.part.reg (Reg.POS_CFG n)
    -- quadrature
    (∀ a b z : Bool,
      (on → s.part.posMode n < 2 → a ≠ x.a → b ≠ x.b → Does (.quadratureEdge n a b z t) s (fun p =>
        p.pif n = { x with a := a, b := b, z := z } ∧ p.bit evt 5 = true ∧ p.bit st 30 = true ∧
        p.reg (Reg.POS_ILLCNT n) = BitVec.ofNat 32 (min (2 ^ 32 - 1) ((s.part.reg (Reg.POS_ILLCNT n)).toNat + 1)) ∧
        RegsBut s.part p [Reg.POS_ILLCNT n, evt, st])) ∧
      ((a ≠ x.a ↔ b = x.b) → on → s.part.posMode n = 0 → c < cpr →
        let leads := if a ≠ x.a then decide (a ≠ b) else decide (a = b)
        let up := leads != bitAt cfg 27
        let c' := if up then (if c + 1 = cpr then 0 else c + 1) else (if c = 0 then cpr - 1 else c - 1)
        let turn : Int := if up then (if c + 1 = cpr then 1 else 0) else (if c = 0 then -1 else 0)
        Does (.quadratureEdge n a b z t) s (fun p =>
          (p.pif n).a = a ∧ (p.pif n).b = b ∧ (p.pif n).z = z ∧ p.posCount n = c' ∧
          (p.reg turns).toInt = ((s.part.reg turns).toInt + turn).bmod (2 ^ 32) ∧ p.bit st 26 = !up ∧
          (s.part.posArmed n = false → RegsBut s.part p [count, turns, st]) ∧
          (∀ k, s.part.posArmed n = true → k < s.part.posLen n → x.fired.contains k = false →
            (s.part.reg (Reg.POS_LIST n k)).toNat = c' → s.part.fld (Reg.POS_CMPCFG n) 28 2 ∈ [0, if up then 1 else 2] →
            (p.pif n).pulse = some (t + nsec (10 * s.part.fld (Reg.POS_CMPCFG n) 0 10)) ∧ p.bit evt 0 = true ∧
            p.bit st 24 = true ∧
            min 65535 (s.part.fld (Reg.POS_CMPSTAT n) 16 16 + 1) ≤ p.fld (Reg.POS_CMPSTAT n) 16 16))) ∧
      (s.part.posOn n = false → Does (.quadratureEdge n a b z t) s (fun p =>
        p = (s.part.at t).setPif n { x with a := a, b := b, z := z }))) ∧
    -- index
    (let d := wrapCount cpr ((c : Int) - (s.part.reg (Reg.POS_IDXPOS n)).toNat)
     let tol := s.part.fld (Reg.POS_IDXWIN n) 24 8
     let mis := Reg.POS_IDXMIS n
     let k := min 255 (s.part.fld mis 0 8 + 1)
     let pol := bits cfg 24 2
     let moves := pol = 1 ∨ (2 ≤ pol ∧ d.natAbs ≤ s.part.fld (Reg.POS_IDXWIN n) 0 24)
     let isIndex := on ∧ bitAt cfg 21 = true ∧ x.z = true ∧ x.a = bitAt cfg 23 ∧ x.b = bitAt cfg 22
     (isIndex → d.natAbs ≤ tol → Does (.indexEvent n t) s (fun p => p.fld mis 0 8 = 0 ∧ p.bit st 30 = false ∧
        p.bit st 25 = true ∧ p.pif n = x ∧ RegsBut s.part p [mis, st])) ∧
     (isIndex → tol < d.natAbs → Does (.indexEvent n t) s (fun p =>
        p.log = { time := (s.part.at t).ringNow, code := .indexMismatch,
                  args := [n, (wordOfInt d).toNat, if moves then 1 else 0] } :: s.part.log ∧
        p.reg (Reg.POS_IDXDEV n) = wordOfInt d ∧ p.bit evt 6 = true ∧ p.fld mis 0 8 = k ∧
        p.fld mis 16 16 = min 65535 (s.part.fld mis 16 16 + 1) ∧ (bits cfg 12 4 ≤ k → p.bit evt 7 = true) ∧
        (k < bits cfg 12 4 → p.bit evt 7 = s.part.bit evt 7) ∧
        (moves → p.posCount n = (s.part.reg (Reg.POS_IDXPOS n)).toNat % cpr ∧ p.bit st 30 = false ∧ p.bit st 25 = true) ∧
        (¬ moves → p.reg count = s.part.reg count ∧ p.reg st = s.part.reg st ∧ p.pif n = x) ∧
        RegsBut s.part p [mis, Reg.POS_IDXDEV n, evt, st, count, Reg.QUE_PIDX 30])) ∧
     (¬ isIndex → Does (.indexEvent n t) s (fun p => p = s.part.at t))) ∧
    -- sin/cos
    (∀ sn cs : BitVec 14, on → s.part.posMode n = 1 → c < cpr →
      let sv := adcValue sn (x.trims.getD 0 0) (x.trims.getD 1 0)
      let cv := adcValue cs (x.trims.getD 2 0) (x.trims.getD 3 0)
      let phi := if bitAt cfg 27 then ~~~fpAtan2 sv cv else fpAtan2 sv cv
      let sub := bits cfg 16 4
      let off := ((bits phi 30 2 : Int) - x.q) % 4
      let q := if off = 1 then x.q + 1 else if off = 3 then x.q - 1 else x.q
      let amp := amplitude sv cv
      let win := s.part.reg (Reg.POS_AMPWIN n)
      let inside := (bits win 0 16 : Int) * 2 ^ 149 ≤ fpScaled amp * 65536 ∧ fpScaled amp * 65536 ≤ (bits win 16 16 : Int) * 2 ^ 149
      Does (.sincosConversion n sn cs t) s (fun p =>
        (p.pif n).q = q ∧ (p.posCount n : Int) = (q * 2 ^ (sub - 2) + bits phi 0 30 / 2 ^ (32 - sub) + x.off) % cpr ∧
        p.reg (Reg.POS_AMP n) = amp ∧ p.bit st 31 = true ∧ (off = 2 → p.bit evt 4 = true ∧ p.bit st 30 = true) ∧
        (¬ inside → x.ampOut = 3 → p.bit evt 3 = true ∧ p.bit st 28 = true ∧ p.bit st 30 = true) ∧
        (inside → 3 ≤ x.ampIn → p.bit st 28 = false) ∧ (off = 0 → p.bit st 28 = false → p.bit st 30 = false) ∧
        (s.part.posArmed n = false → RegsBut s.part p [count, turns, evt, st, Reg.POS_AMP n]))) ∧
    -- serial
    (on → s.part.posMode n = 2 →
      Does (.serialFrameStart n t) s (fun p => p = (s.part.at t).setPif n { x with frame := some t })) ∧
    (s.part.posMode n ≠ 2 → Does (.serialFrameStart n t) s (fun p => p = s.part.at t)) ∧
    (∀ (raw : Word) (high : Bool) (ts : Instant), x.frame = some ts → c < cpr →
      let nb := s.part.fld (Reg.POS_SER n) 0 6
      let pb := s.part.fld (Reg.POS_SER n) 8 6
      let g := raw.toNat % 2 ^ nb / 2 ^ (nb - pb)
      let v := (if s.part.bit (Reg.POS_SER n) 15 then grayDecode pb g else g) % cpr
      let pred := predict (s.part.tsUnits (if bitAt cfg 30 then .B else .A)) x.th x.w * cpr / 2 ^ 64
      let bad := high = false ∨
        (x.first = false ∧ (s.part.reg (Reg.POS_MAXJUMP n)).toNat < (wrapCount cpr ((v : Int) - pred)).natAbs)
      Does (.serialFrameDone n raw high t) s (fun p =>
        (p.reg (Reg.POS_SERRAW n)).toNat = raw.toNat % 2 ^ nb % 2 ^ 32 ∧ (p.pif n).frame = none ∧
        (bad → p.bit evt 2 = true ∧ p.bit st 27 = true ∧ p.bit st 30 = true ∧ p.reg count = s.part.reg count ∧
          (p.pif n).rejects = x.rejects + 1 ∧ (bits cfg 12 4 ≤ x.rejects + 1 → p.bit evt 7 = true)) ∧
        (¬ bad → p.posCount n = v ∧ p.bit st 27 = false ∧ p.bit st 30 = false ∧ p.bit st 31 = true ∧
          (p.pif n).rejects = 0))) ∧
    -- compare lists
    (∀ v : Word, bitAt v 0 = false → Does (.posArm n v) s (fun p => p = s.part.setFld (Reg.POS_CMPCTL n) 0 1 0)) ∧
    (∀ v : Word, bitAt v 0 = true →
      ((∃ k < s.part.posLen n, cpr ≤ (s.part.reg (Reg.POS_LIST n k)).toNat) →
        Does (.posArm n v) s (fun p => p = s.part.setFld evt 1 1 1)) ∧
      ((∀ k < s.part.posLen n, (s.part.reg (Reg.POS_LIST n k)).toNat < cpr) →
        Does (.posArm n v) s (fun p => p = (s.part.setPif n { x with fired := [] }).setFld (Reg.POS_CMPCTL n) 0 1 1))) ∧
    (∀ (k : Fin 64) (v : Word),
      (s.part.posArmed n = true → Does (.posListWrite n k v) s (fun p => p = s.part.setFld evt 1 1 1)) ∧
      (s.part.posArmed n = false → Does (.posListWrite n k v) s (fun p => p = s.part.setReg (Reg.POS_LIST n k) v))) ∧
    (∀ e, x.pulse = some e → e ≤ t →
      Does (.pcmpPulseEnd n t) s (fun p => p = (s.part.at t).setPif n { x with pulse := none })) ∧
    ((∀ e, x.pulse = some e → t < e) → Does (.pcmpPulseEnd n t) s (fun p => p = s.part.at t))

/-- R241: the rows of the ramps, and what the next tick makes of them. -/
def Obligations.RampCommands : Prop :=
  (∀ (c : Fin 16) (v : Word) (s : State), s.part.alive = true →
    let x := s.part.ramp c
    let stat := Reg.RAMP_STAT c
    (fpFinite v = true → Does (.rampTgtWrite c v) s (fun p => p.reg (Reg.RAMP_TGT c) = v ∧ p.bit stat 25 = false ∧
      p.ramp c = { x with newTgt := true } ∧ p.freeCount = s.part.freeCount ∧ p.mem = s.part.mem ∧
      (∀ k ≠ c.val, p.ramp k = s.part.ramp k) ∧ RegsBut s.part p [Reg.RAMP_TGT c, stat])) ∧
    (fpFinite v = false → Does (.rampTgtWrite c v) s (fun p => p = s.part.setFld stat 25 1 1)) ∧
    Does (.rampSet c) s (fun p => p = s.part.setRamp c { x with set := true }) ∧
    Does (.rampHold c) s (fun p => p = s.part.setRamp c { x with hold := some true }) ∧
    Does (.rampRelease c) s (fun p => p = s.part.setRamp c { x with hold := some false })) ∧
  (∀ (c : Fin 16) (p : Part),
    ((p.ramp c).newTgt = true → ((p.rampDue c).ramp c).tgt = p.reg (Reg.RAMP_TGT c)) ∧
    ((p.ramp c).newTgt = false → ((p.rampDue c).ramp c).tgt = (p.ramp c).tgt) ∧
    ((p.ramp c).set = true → ((p.rampDue c).ramp c).y = rampOf ((p.rampDue c).ramp c).tgt ∧
      ((p.rampDue c).ramp c).v = 0 ∧ ((p.rampDue c).ramp c).a = 0) ∧
    ((p.ramp c).hold = some true → ((p.rampDue c).ramp c).held = true) ∧
    ((p.ramp c).hold = some false → ((p.rampDue c).ramp c).held = false) ∧
    ((p.rampDue c).ramp c).newTgt = false ∧ ((p.rampDue c).ramp c).set = false ∧ ((p.rampDue c).ramp c).hold = none)

/-- R249, R262: core pairs and contexts. -/
def Obligations.CorePairs : Prop :=
  (∀ (k : Fin 3) (t : Instant) (s : State), s.part.alive = true →
    let q := s.part.slotPair k
    let r := s.part.slotPair 3
    let again := ∃ a, (s.part.cpair q).last = some a ∧ t ≤ a + sec 3600
    let common := fun (p : Part) => p.fld Reg.MMU_LSCNT 0 32 = min (2 ^ 32 - 1) (s.part.fld Reg.MMU_LSCNT 0 32 + 1) ∧
      (p.cpair q).last = some t ∧ (again → (p.cpair q).retired = true ∧ (p.cpair q).testing = false) ∧
      (¬ again → (p.cpair q).testing = true ∧ (p.cpair q).retired = (s.part.cpair q).retired)
    (q < 4 → s.part.slotWaits k = false → r ≠ 15 → Does (.lockstepMismatch k t) s (fun p => common p ∧
      p.slotPair k = r ∧ p.slotPair 3 = 15 ∧ p.slot k = { s.part.slot k with tlb := [], il1 := [], resv := (p.slot k).resv } ∧
      (∀ j < 3, j ≠ k.val → p.slotPair j = s.part.slotPair j ∧ p.slot j = { s.part.slot j with resv := (p.slot j).resv }) ∧
      p.fld Reg.MMU_SWAPCNT 0 32 = min (2 ^ 32 - 1) (s.part.fld Reg.MMU_SWAPCNT 0 32 + 1) ∧
      p.bit Reg.HOST_STATUS_LO 4 = true)) ∧
    (q < 4 → s.part.slotWaits k = false → r = 15 → Does (.lockstepMismatch k t) s (fun p => common p ∧
      p.slotPair k = q ∧ p.slot k = { s.part.slot k with resv := (p.slot k).resv } ∧ p.issues k = false)) ∧
    ((4 ≤ q ∨ s.part.slotWaits k = true) → Idles (.lockstepMismatch k t) s)) ∧
  (∀ (q : Fin 4) (s : State), s.part.alive = true →
    let x := s.part.cpair q
    (x.testing = false → ∀ b, Idles (.corePairBistComplete q b) s) ∧
    (x.testing = true → (∀ k : Fin 3, s.part.core.waits = [(k.val, q.val)] →
        Does (.corePairBistComplete q true) s (fun p => p.slotPair k = q ∧ p.core.waits = [] ∧
          p.cpair q = { x with testing := false } ∧ p.slot k = { s.part.slot k with tlb := [], il1 := [] } ∧
          RegsBut s.part p [Reg.MMU_SLOTMAP])) ∧
      (s.part.core.waits = [] → s.part.slotPair 3 = 15 →
        Does (.corePairBistComplete q true) s (fun p =>
          p = (s.part.setCpair q { x with testing := false }).setFld Reg.MMU_SLOTMAP 12 4 q)) ∧
      (s.part.core.waits = [] → Does (.corePairBistComplete q false) s (fun p =>
        p.cpair q = { x with testing := false, retired := true } ∧ p.bit Reg.SPARE_EVT 0 = true ∧
        RegsBut s.part p [Reg.SPARE_EVT])))) ∧
  (∀ (ini : Initiator) (k : Fin 3) (lo hi : Word) (s : State), s.part.alive = true →
    let own := ∃ j : Fin 4, ini = .core j ∧ s.part.slotPair k = j.val ∧ bitAt (s.part.slot k).pstat 0 = true
    let ctx := Reg.MMU_CTX_LO k
    (own → Does (.mmuCtxWrite ini k lo hi) s (fun p =>
      p = (s.part.setReg ctx (lo &&& 0xFFFFC0FF)).setReg (ctx + 4) (hi &&& 0xFF) ∧
      p.ttbOf ctx = (lo.toNat / 2 ^ 14 * 2 ^ 14 + hi.toNat % 256 * 2 ^ 32, lo.toNat % 256))) ∧
    (¬ own → Does (.mmuCtxWrite ini k lo hi) s (fun p => p.reg ctx = s.part.reg ctx ∧ p.reg (ctx + 4) = s.part.reg (ctx + 4) ∧
      p.bit Reg.SYS_DECERR 0 = true ∧ p.fld Reg.SYS_DECERR 4 4 = ini.code ∧
      RegsOnly s.part p [Reg.SYS_DECERR, Reg.SYS_DECERR_ADDR_LO, Reg.SYS_DECERR_ADDR_HI])))

/-- R264 to R269: queues and DMA. -/
def Obligations.QueuesAndDma : Prop :=
  (∀ (ini : Initiator) (q : Fin 32) (v : BitVec 16) (s : State), s.part.alive = true →
    let core := ∃ j, ini = .core j
    let shared := 16 ≤ q.val ∧ q.val < 20
    let soft := q.val < 20 ∨ q.val ∈ [22, 23, 24, 26]
    let pidx := s.part.fld (Reg.QUE_PIDX q) 0 16
    let cidx := s.part.fld (Reg.QUE_CIDX q) 0 16
    let size := 2 ^ s.part.fld (Reg.QUE_CFG q) 24 4
    -- software queues but for the ring's transmit queues, and those too while they are off
    let quiet := q.val ≠ 22 ∧ q.val ≠ 23 ∨ s.part.bit (Reg.QUE_CFG q) 31 = false
    (soft → ¬ (shared ∧ core) → quiet → (v.toNat + 65536 - cidx) % 65536 ≤ size →
      Does (.queuePidxWrite ini q v) s (fun p => p = s.part.setFld (Reg.QUE_PIDX q) 0 16 v.toNat)) ∧
    (soft → ¬ (shared ∧ core) → quiet → size < (v.toNat + 65536 - cidx) % 65536 →
      Does (.queuePidxWrite ini q v) s (fun p => p = s.part.setFld (Reg.QUE_CFG q) 30 1 1)) ∧
    -- one entry of a transmit queue that asks for a write in another node
    (¬ quiet → pidx = cidx → v.toNat = (cidx + 1) % 65536 →
      let e := s.part.queueBytes q cidx
      let a := Config.ringEntry e
      let dst := a.2.1 % 128
      let data := a.2.2.2.2.take 256
      a.1 = 2 → 0 < dst → dst ≤ 64 → s.part.isSelf dst = false →
      Does (.queuePidxWrite ini q v) s (fun p =>
        p = ((s.part.setFld (Reg.QUE_PIDX q) 0 16 v.toNat).setFld (Reg.QUE_CIDX q) 0 16 v.toNat).request
          { typ := 2, cls := if q.val = 23 then 4 else 3, dst := dst, addr := a.2.2.1 % 2 ^ 41, len := data.length, data := data, use := .queue e })) ∧
    -- every entry that the new index makes ready, in order
    (¬ quiet → (v.toNat + 65536 - cidx) % 65536 ≤ size →
      let after := s.part.setFld (Reg.QUE_PIDX q) 0 16 v.toNat
      Does (.queuePidxWrite ini q v) s (fun p => p = after.ringTransmit q (after.queueFill q))) ∧
    (¬ quiet → size < (v.toNat + 65536 - cidx) % 65536 →
      let after := s.part.setFld (Reg.QUE_CFG q) 30 1 1
      Does (.queuePidxWrite ini q v) s (fun p => p = after.ringTransmit q (after.queueFill q))) ∧
    (∀ (p : Part) (n : Nat), p.ringTransmit q (n + 1) = (if p.bit (Reg.QUE_CFG q) 31 = false ∨ p.queueFill q = 0 then p else
      let i := p.fld (Reg.QUE_CIDX q) 0 16
      ((p.setFld (Reg.QUE_CIDX q) 0 16 (i + 1)).ringAsk q (p.queueBytes q i)).ringTransmit q n)) ∧
    ((¬ soft ∨ (shared ∧ core)) → Idles (.queuePidxWrite ini q v) s) ∧
    ((¬ soft ∨ (shared ∧ core)) → (pidx + 65536 - v.toNat) % 65536 ≤ size →
      Does (.queueCidxWrite ini q v) s (fun p => p = s.part.setFld (Reg.QUE_CIDX q) 0 16 v.toNat)) ∧
    ((¬ soft ∨ (shared ∧ core)) → size < (pidx + 65536 - v.toNat) % 65536 →
      Does (.queueCidxWrite ini q v) s (fun p => p = s.part.setFld (Reg.QUE_CFG q) 30 1 1)) ∧
    (soft → ¬ (shared ∧ core) → Idles (.queueCidxWrite ini q v) s)) ∧
  (∀ (c : Fin 16) (s : State), s.part.alive = true →
    let ctl := Reg.DMA_CTL c
    let stat := Reg.DMA_STAT c
    let x := s.part.dmaCh c
    let cidx := s.part.fld (Reg.QUE_CIDX c) 0 16
    let a := s.part.queueEntry c cidx
    let d := s.part.loadBytes a 32
    let w0 := s.part.loadWord a
    let ready := s.part.bit ctl 0 = true ∧ s.part.bit stat 30 = false ∧ x.desc = none ∧ s.part.bit (Reg.QUE_CFG c) 31 = true ∧
      s.part.queueFill c ≠ 0
    let sound := ∀ o ∈ [0, 8, 16, 24], s.part.poisoned (a + o) = false
    -- reading a descriptor
    (¬ ready → Idles (.dmaDescriptorFetch c []) s) ∧
    (ready → ¬ sound → Does (.dmaDescriptorFetch c []) s (fun p => p.bit stat 30 = true ∧ (p.dmaCh c).descErr = true ∧
      p.reg (Reg.DMA_FINFO c) = BitVec.ofNat 32 (9 * 2 ^ 24 + 2 ^ 18 + 2 ^ 17) ∧ p.mem = s.part.mem ∧
      p.fld (Reg.QUE_CIDX c) 0 16 = cidx ∧ (∀ k < 3, (p.slot k).pend.getLsbD c = true))) ∧
    (ready → sound → bitAt w0 31 = false → Does (.dmaDescriptorFetch c []) s (fun p => p = s.part.setFld stat 0 16 cidx)) ∧
    (ready → sound → bitAt w0 31 = true → descFault d (s.part.dmaTask c) = none →
      Does (.dmaDescriptorFetch c []) s (fun p => p.dmaCh c = { x with desc := some d, crc := 0xFFFFFFFF } ∧
        p.pair (Reg.DMA_CSRC_LO c) = s.part.load (a + 8) 8 ∧ p.pair (Reg.DMA_CDST_LO c) = s.part.load (a + 16) 8 ∧
        p.fld (Reg.DMA_CREM c) 0 25 = bits (s.part.loadWord (a + 4)) 0 25 ∧ p.bit stat 31 = true ∧
        p.fld stat 0 16 = cidx ∧ p.mem = s.part.mem ∧
        RegsBut s.part p [stat, Reg.DMA_CSRC_LO c, Reg.DMA_CSRC_HI c, Reg.DMA_CDST_LO c, Reg.DMA_CDST_HI c, Reg.DMA_CREM c])) ∧
    (∀ e, ready → sound → bitAt w0 31 = true → descFault d (s.part.dmaTask c) = some e →
      Does (.dmaDescriptorFetch c []) s (fun p => (p.dmaCh c).desc = none ∧
        p.loadWord a = w0 &&& 0x7FFFFFFF ∧ p.loadWord (a + 0x18) = 0 ∧ p.loadWord (a + 0x1C) = BitVec.ofNat 32 (e * 2 ^ 24) ∧
        p.fld (Reg.QUE_CIDX c) 0 16 = (cidx + 1) % 65536 ∧
        (∀ b, ¬ (a ≤ b ∧ b < a + 4) → ¬ (a + 0x18 ≤ b ∧ b < a + 0x20) → p.byte b = s.part.byte b))) ∧
    -- whatever bit errors the reading finds
    (∀ ecc : List EccFind, ready →
      let y := (s.part.setFld stat 0 16 cidx).eccFind (ecc.filter (fun e => a ≤ e.addr && e.addr < a + 32))
      let whole := ∀ o ∈ [0, 8, 16, 24], y.poisoned (a + o) = false
      let d := y.loadBytes a 32
      let q := (((((y.setDma c { x with desc := some d, crc := 0xFFFFFFFF }).setBit stat 31 true).setPair (Reg.DMA_CSRC_LO c)
        (descAddr d 8)).setPair (Reg.DMA_CDST_LO c) (descAddr d 16)).setFld (Reg.DMA_CREM c) 0 25 (bits (descWord d 4) 0 25))
      (whole → bitAt (descWord d 0) 31 = false → Does (.dmaDescriptorFetch c ecc) s (fun p => p = y)) ∧
      (whole → bitAt (descWord d 0) 31 = true → descFault d (q.dmaTask c) = none → Does (.dmaDescriptorFetch c ecc) s (fun p => p = q)) ∧
      (∀ e, whole → bitAt (descWord d 0) 31 = true → descFault d (q.dmaTask c) = some e →
        Does (.dmaDescriptorFetch c ecc) s (fun p => p = q.descDone c e)) ∧
      (∀ o, [0, 8, 16, 24].find? (fun o => y.poisoned (a + o)) = some o → Does (.dmaDescriptorFetch c ecc) s (fun p =>
        p = ((y.eccFatal (a + o)).setDma c { x with descErr := true }).dmaHalt c 9 0 (a % 2 ^ 32) false true))) ∧
    -- commands
    (∀ on : Bool, Does (.dmaEnWrite c on) s (fun p => p = { s.part with regs := p.regs } ∧ p.bit ctl 0 = on ∧
      p.bit stat 31 = (on && x.desc.isSome) ∧ RegsBut s.part p [ctl, stat])) ∧
    (s.part.bit stat 30 = false → Idles (.dmaResume c) s ∧ Idles (.dmaSkip c) s ∧ Idles (.dmaAbort c) s) ∧
    (s.part.bit stat 30 = true →
      let asid := s.part.fld (Reg.DMA_TTB_LO c) 0 8
      let now := s.part.queueEntry c (s.part.fld stat 0 16)
      let ends := fun (p : Part) (d : List Byte) (code : Nat) => (p.dmaCh c).desc = none ∧
        bitAt (p.loadWord now) 31 = false ∧ p.loadWord (now + 0x1C) = BitVec.ofNat 32 (code * 2 ^ 24) ∧
        p.loadWord (now + 0x18) = BitVec.ofNat 32 (bits (descWord d 4) 0 25 - s.part.fld (Reg.DMA_CREM c) 0 25) ∧
        p.fld (Reg.QUE_CIDX c) 0 16 = (cidx + 1) % 65536 ∧ p.bit stat 30 = false
      Does (.dmaResume c) s (fun p => p.bit stat 30 = false ∧ (p.dmaCh c).desc = x.desc ∧ p.mem = s.part.mem ∧
        p.core.iotlb = s.part.core.iotlb.filter (fun e => !e.hits (s.part.reg (Reg.DMA_FVA c)).toNat asid) ∧
        RegsBut s.part p [stat, Reg.MMU_IOSTAT]) ∧
      (x.descErr = true → Does (.dmaSkip c) s (fun p => p.bit stat 30 = false ∧ p.mem = s.part.mem ∧
        p.fld (Reg.QUE_CIDX c) 0 16 = (cidx + 1) % 65536)) ∧
      (∀ d, x.descErr = false → x.desc = some d → Does (.dmaSkip c) s (fun p => ends p d
        (if s.part.fld (Reg.DMA_FINFO c) 24 8 = 8 then 2 else if s.part.fld (Reg.DMA_FINFO c) 24 8 = 9 then 3 else 1))) ∧
      (∀ d, x.descErr = false → x.desc = some d → Does (.dmaAbort c) s (fun p => ends p d 7 ∧ p.bit ctl 0 = false)) ∧
      (x.descErr = true → Does (.dmaAbort c) s (fun p => (p.dmaCh c).desc = none ∧ bitAt (p.loadWord now) 31 = false ∧
        p.loadWord (now + 0x18) = 0 ∧ p.loadWord (now + 0x1C) = 0x07000000 ∧ p.bit stat 30 = false ∧ p.bit ctl 0 = false ∧
        p.fld (Reg.QUE_CIDX c) 0 16 = (cidx + 1) % 65536)))) ∧
  -- beats
  (∀ (c : Fin 16) (t : Instant) (s : State), s.part.alive = true → s.part.dmaGranted c t = true → s.part.cycState ≠ 5 →
    let q := (s.part.at t).dmaTake c t
    let op := q.dmaOp c
    let n := q.beatLen c
    let src := q.pair (Reg.DMA_CSRC_LO c)
    let dst := q.pair (Reg.DMA_CDST_LO c)
    let rem := q.fld (Reg.DMA_CREM c) 0 25
    let sram := fun (l : List (Nat × Nat)) => ∀ e ∈ l, inSram e.1 = true ∧ inSram (e.1 + e.2) = true
    let moved := fun (p : Part) (adv : Nat) => (n < rem → p.fld (Reg.DMA_CREM c) 0 25 = rem - n ∧
        p.pair (Reg.DMA_CSRC_LO c) = (src + adv) % 2 ^ 64 ∧ p.pair (Reg.DMA_CDST_LO c) = (dst + n) % 2 ^ 64 ∧
        (p.dmaCh c).desc = (s.part.dmaCh c).desc) ∧
      (n = rem → (p.dmaCh c).desc = none ∧ bitAt (p.loadWord (q.descAt c)) 31 = false ∧
        p.loadWord (q.descAt c + 0x1C) = 0 ∧
        p.fld (Reg.QUE_CIDX c) 0 16 = (s.part.fld (Reg.QUE_CIDX c) 0 16 + 1) % 65536 ∧
        p.reg (Reg.DMA_NDONE c) = s.part.reg (Reg.DMA_NDONE c) + 1) ∧
      p.reg (Reg.DMA_NBEAT c) = s.part.reg (Reg.DMA_NBEAT c) + 1
    let halts := fun (r : Part) (f : Nat × Nat × Nat) (wr : Bool) => Does (.dmaBeat c [] t) s (fun p =>
      p.bit (Reg.DMA_STAT c) 30 = true ∧ p.mem = r.mem ∧ p.reg (Reg.DMA_FVA c) = BitVec.ofNat 32 f.2.2 ∧
      p.reg (Reg.DMA_FINFO c) = BitVec.ofNat 32 (f.1 * 2 ^ 24 + f.2.1 + 2 ^ 18 + wr.toNat * 2 ^ 16) ∧
      p.fld (Reg.DMA_CREM c) 0 25 = rem ∧ p.pair (Reg.DMA_CSRC_LO c) = src ∧ p.pair (Reg.DMA_CDST_LO c) = dst ∧
      (p.dmaCh c).desc = (s.part.dmaCh c).desc ∧ (∀ k < 3, (p.slot k).pend.getLsbD c = true))
    n ≤ 64 ∧ (op ≠ 2 → dst % 64 + n ≤ 64) ∧
    (∀ q1 f, op ≠ 1 → q.dmaPlace c src n .read = (q1, .error f) → halts q1 f false) ∧
    (∀ q1 q2 l f, op = 0 → n ≠ 0 → q.dmaPlace c src n .read = (q1, .ok l) → q1.dmaPlace c dst n .write = (q2, .error f) →
      halts q2 f true) ∧
    (∀ q1 q2 l a, op = 0 → n ≠ 0 → q.dmaPlace c src n .read = (q1, .ok (.here l)) →
      q1.dmaPlace c dst n .write = (q2, .ok (.here [(a, n)])) → sram ((a, n) :: l) → q2.dmaPoison l = none →
      Does (.dmaBeat c [] t) s (fun p => moved p n ∧
        (n < rem → p.loadBytes a n = l.flatMap (fun e => q.loadBytes e.1 e.2) ∧
          ∀ b, ¬ (a ≤ b ∧ b < a + n) → p.byte b = s.part.byte b))) ∧
    (∀ q1 a, op = 1 → n ≠ 0 → q.dmaPlace c dst n .write = (q1, .ok (.here [(a, n)])) → sram [(a, n)] →
      Does (.dmaBeat c [] t) s (fun p => moved p 0 ∧
        (n < rem → (∀ i < n, p.byte (a + i) = (bytesOf 4 (src % 2 ^ 32)).getD ((q.dmaLen c - rem + i) % 4) 0) ∧
          ∀ b, ¬ (a ≤ b ∧ b < a + n) → p.byte b = s.part.byte b))) ∧
    -- every granted beat whose addresses are sound, wherever they lie
    (let m := q.beatWrites c n
     let held := fun (r : Part) (d : DmaPlace) => r.setDma c { r.dmaCh c with beat := some (match d with
       | .here l => { n := n, dst := l, uses := r.beatUses c dst m }
       | .ring a => { n := n, remote := some a }) }
     let placed := fun (r : Part) => if m = 0 then (r, Except.ok (DmaPlace.here [])) else r.dmaPlace c dst m .write
     (∀ r d ecc, op = 1 → placed q = (r, .ok d) →
       Does (.dmaBeat c ecc t) s (fun p => p = (held r d).beatData c ((held r d).fillBytes c n))) ∧
     (∀ r r' d a ecc, op ≠ 1 → q.dmaPlace c src n .read = (r, .ok (.ring a)) → placed r = (r', .ok d) →
       Does (.dmaBeat c ecc t) s (fun p => p = (held r' d).dmaRequest c 1 a ((n + 3) / 4 * 4) [])) ∧
     (∀ r r' d l, ∀ ecc : List EccFind, op ≠ 1 → q.dmaPlace c src n .read = (r, .ok (.here l)) → placed r = (r', .ok d) →
       let y := (held r' d).eccFind (ecc.filter (fun e =>
         l.any (fun x => x.1 < e.addr / 8 * 8 + 8 && e.addr / 8 * 8 < x.1 + x.2)))
       y.dmaPoison l = none →
       Does (.dmaBeat c ecc t) s (fun p => p = (y.dmaRead c l).1.beatData c (y.dmaRead c l).2)))) ∧
  (∀ (c : Fin 16) (ecc : List EccFind) (t : Instant) (s : State),
    (s.part.dmaGranted c t = false ∨ s.part.cycState = 5) → Idles (.dmaBeat c ecc t) s)

/-- R271 to R273, R277, R288: upkeep of the memories. -/
def Obligations.MemoryUpkeep : Prop :=
  (∀ (addr : Addr) (s : State), s.part.alive = true →
    let a := addr.toNat
    let size := if inEmram a then 2048 else 1024
    let row := a / size * size
    let hits := (s.part.mem.rowEcc.filter (fun e => e.1 = row ∧ s.part.now ≤ e.2.2 + sec 86400)).length
    let due := (∃ w ∈ s.part.mem.poison, row ≤ w ∧ w < row + size) ∨ s.part.fld Reg.MMU_SPTHR 0 4 ≤ hits
    let used := s.part.fld Reg.MMU_SROWS 0 8
    let usedM := s.part.fld Reg.MMU_MROWS 0 16
    (due → inSram a = true → Does (.rowReplace addr) s (fun p => p.mem = { s.part.mem with rowEcc := p.mem.rowEcc } ∧
      (∀ e ∈ p.mem.rowEcc, e.1 ≠ row) ∧
      p.fld Reg.MMU_SROWS 0 8 = (if used < s.part.fld Reg.MMU_SROWS 16 8 then used + 1 else used) ∧
      RegsBut s.part p [Reg.MMU_SROWS])) ∧
    (due → inEmram a = true → Does (.rowReplace addr) s (fun p => p.mem = { s.part.mem with rowEcc := p.mem.rowEcc } ∧
      (∀ e ∈ p.mem.rowEcc, e.1 ≠ row) ∧
      p.fld Reg.MMU_MROWS 0 16 = (if usedM < s.part.fld Reg.MMU_MROWS 16 16 then usedM + 1 else usedM) ∧
      RegsBut s.part p [Reg.MMU_MROWS])) ∧
    ((¬ due ∨ (inSram a = false ∧ inEmram a = false)) → Idles (.rowReplace addr) s)) ∧
  (∀ (em : Bool) (found : List EccFind) (s : State), s.part.alive = true →
    let inside := found.filter (fun e => if em then inEmram e.addr else inSram e.addr)
    let sat := fun (r : Nat) (fatal : Bool) =>
      min (2 ^ 32 - 1) ((s.part.reg r).toNat + (inside.filter (fun e => e.fatal = fatal)).length)
    Does (.scrubPass em found) s (fun p =>
      p.fld Reg.MMU_SCRUBSTAT (if em then 16 else 0) 16 = (s.part.fld Reg.MMU_SCRUBSTAT (if em then 16 else 0) 16 + 1) % 65536 ∧
      (∀ e ∈ inside, e.fatal = true → p.poisoned e.addr = true) ∧ (∀ a, p.byte a = s.part.byte a) ∧
      (em = false → (p.reg Reg.MMU_SECE).toNat = sat Reg.MMU_SECE false ∧ (p.reg Reg.MMU_SEUE).toNat = sat Reg.MMU_SEUE true ∧
        RegsBut s.part p [Reg.MMU_SCRUBSTAT, Reg.MMU_SECE, Reg.MMU_SEUE, Reg.MMU_SEADDR_LO, Reg.MMU_SEADDR_HI]) ∧
      (em = true → (p.reg Reg.MMU_MECE).toNat = sat Reg.MMU_MECE false ∧ (p.reg Reg.MMU_MEUE).toNat = sat Reg.MMU_MEUE true ∧
        RegsBut s.part p [Reg.MMU_SCRUBSTAT, Reg.MMU_MECE, Reg.MMU_MEUE, Reg.MMU_MEADDR_LO, Reg.MMU_MEADDR_HI, Reg.NVM_EVT,
          Reg.NVM_WEARMAX, Reg.NVM_WEARADDR]))) ∧
  (∀ s : State, s.part.alive = true →
    (s.part.cyc.dirty = [] → Idles .retentionWriteback s) ∧
    (∀ l ls, s.part.cyc.dirty = l :: ls → Does .retentionWriteback s (fun p => p.cyc = { s.part.cyc with dirty := ls } ∧
      p.fld Reg.NVM_STAT 0 13 = ls.length % 2 ^ 13 ∧ p.fld Reg.CYC_DIRTY 0 13 = ls.length % 2 ^ 13 ∧
      (∀ i < 8, sGet (fun _ => 0) p.mem.wear (64 * l + 8 * i) = sGet (fun _ => 0) s.part.mem.wear (64 * l + 8 * i) + 1) ∧
      p.mem = { s.part.mem with wear := p.mem.wear } ∧
      RegsBut s.part p [Reg.CYC_DIRTY, Reg.NVM_STAT, Reg.NVM_EVT, Reg.NVM_WEARMAX, Reg.NVM_WEARADDR]))) ∧
  (∀ (addr : Addr) (s : State), s.part.alive = true →
    let a := addr.toNat
    let refused := Does (.emramProtectedWrite addr) s (fun p =>
      p = (s.part.setFld Reg.NVM_EVT 3 1 1).setPair Reg.NVM_WPADDR_LO a)
    (0x21400000 ≤ a → a < 0x21800000 → refused) ∧ (0x23D00000 ≤ a → a < 0x23D10000 → refused) ∧
    (0x23C00000 ≤ a → a < 0x23D00000 → s.part.trust.ownerFuse.isSome = true → refused) ∧
    (∀ i, protBit a = some i → inEmram a = true → s.part.bit Reg.NVM_WPROT i = true → i < 4 ∨ i = 7 → refused) ∧
    (inEmram a = false ∨ s.part.emramProtected a = false → Idles (.emramProtectedWrite addr) s)) ∧
  (∀ (v : Word) (s : State), s.part.alive = true →
    (bitAt v 31 = true → s.part.bit Reg.NVM_XSTAT 31 = false → Does (.xspiCommand v) s (fun p =>
      p.core = { s.part.core with xcmd := some (v, s.part.reg Reg.NVM_XADDR,
                                                (List.range 16).map (fun k => s.part.reg (Reg.NVM_XDATA k))) } ∧
      p.bit Reg.NVM_XSTAT 31 = true ∧ p.bit Reg.NVM_STAT 29 = true ∧ RegsBut s.part p [Reg.NVM_XSTAT, Reg.NVM_STAT])) ∧
    (bitAt v 31 = false ∨ s.part.bit Reg.NVM_XSTAT 31 = true → Idles (.xspiCommand v) s)) ∧
  (∀ (ok : Bool) (status : Byte) (data : List Word) (s : State), s.part.alive = true →
    (s.part.core.xcmd = none → Idles (.xspiCommandDone ok status data) s) ∧
    (∀ v a ws, s.part.core.xcmd = some (v, a, ws) → Does (.xspiCommandDone ok status data) s (fun p =>
      p.core = { s.part.core with xcmd := none } ∧ p.bit Reg.NVM_XSTAT 31 = false ∧ p.bit Reg.NVM_XSTAT 30 = !ok ∧
      p.fld Reg.NVM_XSTAT 0 8 = status.toNat ∧ p.bit Reg.NVM_STAT 29 = false ∧
      p.bit Reg.NVM_EVT (if ok then 0 else 2) = true ∧
      (bitAt v 30 = false → ∀ (k : Nat) (w : Word), k < (bits v 16 6 + 4) / 4 → data[k]? = some w → p.reg (Reg.NVM_XDATA k) = w) ∧
      (bitAt v 30 = true → RegsBut s.part p [Reg.NVM_XSTAT, Reg.NVM_STAT, Reg.NVM_EVT]))))

/-- R251, Table 9.2: the integer rows. -/
def Obligations.SlotIntegers : Prop :=
  (∀ (s : State) (h : SHead), sRuns s h → h.ecc = [] →
    let k := h.slot
    let p := sPart s h
    p = { s.part with regs := p.regs, core := p.core, freeCount := p.freeCount, now := max s.part.now h.t } ∧
    RegsBut s.part p [Reg.MMU_TLBHIT k, Reg.MMU_TLBMISS k] ∧ (∀ j < 3, j ≠ k.val → p.slot j = s.part.slot j) ∧
    p.slot k = { s.part.slot k with run := .running, tlb := (p.slot k).tlb }) ∧
  (∀ (o : SAlu) (s : State), sRuns s o.h →
    let x := sSlot s o.h
    let a := x.gr o.rs1
    let b := match o.src with
      | .inl r => x.gr r
      | .inr i => i.signExtend 32
    let flagged := o.setF = true ∧ ∃ r, o.src = .inl r
    let sum : SFlags := ⟨(a + b).msb, a + b = 0, decide (2 ^ 32 ≤ a.toNat + b.toNat),
      decide (a.toInt + b.toInt < -2 ^ 31 ∨ 2 ^ 31 ≤ a.toInt + b.toInt)⟩
    let dif : SFlags := ⟨(a - b).msb, a = b, decide (a.toNat < b.toNat),
      decide (a.toInt - b.toInt < -2 ^ 31 ∨ 2 ^ 31 ≤ a.toInt - b.toInt)⟩
    let shift := fun (w : Word) => if b.toNat < 32 then some w else none
    let agree := fun (f : Int → Int → Int) =>
      if wordOfInt (f a.toInt b.toInt) = wordOfInt (f a.toNat b.toNat) then some (wordOfInt (f a.toInt b.toInt)) else none
    let puts := fun (y : CoreSlot) (v : Word) (f : SFlags) =>
      (flagged → y = { (x.setGr o.rd v).setFlags f with pc := x.pc + 4 }) ∧
      (¬ flagged → y = { x.setGr o.rd v with pc := x.pc + 4 })
    (∀ e ∈ ([(.sAdd o, some (a + b), some sum), (.sSub o, some (a - b), some dif), (.sAnd o, some (a &&& b), none),
        (.sOr o, some (a ||| b), none), (.sXor o, some (a ^^^ b), none), (.sShl o, shift (a <<< b.toNat), none),
        (.sShr o, shift (a >>> b.toNat), none), (.sSar o, shift (a.sshiftRight b.toNat), none),
        (.sRor o, some (a.rotateRight (b.toNat % 32)), none), (.sMul o, some (a * b), none),
        (.sMulh o, agree (fun u v => u * v / 2 ^ 32), none)] : List (Instr × Option Word × Option SFlags)),
      SlotsFree e.1 o.h s (fun y => ∃ v f, puts y v f ∧ (∀ w, e.2.1 = some w → v = w) ∧ (∀ g, e.2.2 = some g → f = g))) ∧
    (∀ e ∈ ([(.sDiv o, Int.tdiv), (.sRem o, Int.tmod)] : List (Instr × (Int → Int → Int))),
      (b ≠ 0 → SlotsFree e.1 o.h s (fun y => ∃ v f, puts y v f ∧ (∀ w, agree e.2 = some w → v = w))) ∧
      (b = 0 → SlotsFree e.1 o.h s (fun y => ∃ f y', puts y' 0 f ∧ y = { y' with v := true }))) ∧
    Slots (.sCmp o) o.h s { x.setFlags dif with pc := x.pc + 4 }) ∧
  (∀ (h : SHead) (rd : Fin 16) (imm : BitVec 18) (s : State), sRuns s h →
    let x := sSlot s h
    Slots (.sLdhi h rd imm) h s { x.setGr rd (imm.setWidth 32 <<< 14) with pc := x.pc + 4 })

/-- R251, Table 9.2: the FP32 rows. -/
def Obligations.SlotFloats : Prop :=
  ∀ (o : SFp) (s : State), sRuns s o.h →
    let x := sSlot s o.h
    let a := x.fr o.rs1
    let b := x.fr o.rs2
    let w := x.gr o.rs1
    let z := fpScaled a / 2 ^ 149
    (∀ e ∈ ([(.sFadd o, fpAdd a b), (.sFsub o, fpSub a b), (.sFmul o, fpMul a b), (.sFdiv o, fpDiv a b),
        (.sFma o, fpFma (x.fr o.rd) a b), (.sFsqrt o, fpSqrt a), (.sFmin o, fpMin a b),
        (.sFmax o, fpMax a b)] : List (Instr × Word)),
      Slots e.1 o.h s { x.setFr o.rd e.2 with pc := x.pc + 4 }) ∧
    ((fpIsNan a = true ∨ fpIsNan b = true) →
      Slots (.sFcmp o) o.h s { x with n := false, z := false, c := false, v := true, pc := x.pc + 4 }) ∧
    (fpIsNan a = false → fpIsNan b = false →
      Slots (.sFcmp o) o.h s { x with n := fpLt a b, z := fpEq a b, c := fpLt a b, v := false, pc := x.pc + 4 }) ∧
    Slots (.sFmove o true) o.h s { x.setFr o.rd w with pc := x.pc + 4 } ∧
    Slots (.sFmove o false) o.h s { x.setGr o.rd a with pc := x.pc + 4 } ∧
    SlotsFree (.sFconvert o true) o.h s (fun y => ∃ v, y = { x.setGr o.rd v with pc := x.pc + 4 } ∧
      (fpFinite a = true → fpScaled a = z * 2 ^ 149 → -2 ^ 31 ≤ z → z < 2 ^ 31 → v.toInt = z)) ∧
    SlotsFree (.sFconvert o false) o.h s (fun y => ∃ v, y = { x.setFr o.rd v with pc := x.pc + 4 } ∧
      (w.msb = false → v = fpOfInt w.toNat))

/-- R250, R252 to R255, R257: exceptions of a slot. -/
def Obligations.SlotExceptions : Prop :=
  let flagBits := fun (x : CoreSlot) =>
    [x.n, x.z, x.c, x.v] = [bitAt x.saved 7, bitAt x.saved 6, bitAt x.saved 5, bitAt x.saved 4] ∧
    bits x.saved 0 3 = bits x.pstat 0 3 ∧ bits x.saved 8 24 = 0 ∧ bitAt x.saved 3 = false
  (∀ (x : CoreSlot) (cause info : Nat) (eva epc : Word), flagBits x ∧
    x.enter cause info eva epc = { x with
      epc := epc, esr := BitVec.ofNat 32 (cause * 2 ^ 24 + info), eva := eva, esave := x.saved, pstat := 5
      pc := x.evbar + BitVec.ofNat 32 (0x40 * cause), resv := none, run := .running }) ∧
  (∀ (i : Instr) (h : SHead) (s : State), sHead? i = some h → s.part.alive = true →
    let k := h.slot
    let q := s.part.at h.t
    let p := sPart s h
    let x := sSlot s h
    (q.issues k = false → Does i s (fun p => p = q)) ∧
    (q.issues k = true → bitAt x.pstat 2 = false →
      let fails := fun (cause l : Nat) =>
        let info := l * 2 ^ 20 + 2 ^ 17
        p = (sXlat s h).1 ∧
        Does i s (fun r => r = ((p.setSlot k (x.enter cause info x.pc x.pc)).setReg (Reg.MMU_FVA k) x.pc).setReg
          (Reg.MMU_FINFO k) (BitVec.ofNat 32 (cause * 2 ^ 24 + info)))
      (∀ l, (sXlat s h).2 = .error (.trans, l) → fails 1 l) ∧ (∀ l, (sXlat s h).2 = .error (.walk, l) → fails 0xB l) ∧
      (∀ a, (sXlat s h).2 = .ok a →
        let y := (sXlat s h).1
        let held := a.attr = 0 ∧ a.pa ∈ (y.slot k).il1
        let bad := (inSram a.pa = true ∨ inEmram a.pa = true) ∧ y.poisoned a.pa = true
        (a.ok = false → fails 2 a.level) ∧
        (a.ok = true → ¬ held → bad → p = y.eccFatal a.pa ∧ Slots i h s (x.enter 3 (2 ^ 17) x.pc x.pc)) ∧
        (a.ok = true → held ∨ ¬ bad → (sFetch s h).2 = none ∧ (a.attr = 0 → a.pa ∈ (p.slot k).il1) ∧
          (h.junk = true → Slots i h s (x.enter 4 4 0 x.pc)))))) ∧
  (∀ (h : SHead) (s : State), sRuns s h →
    let k := h.slot
    let x := sSlot s h
    let exl := bitAt x.pstat 2
    let task := bitAt x.pstat 0 = false
    (exl = false →
      (∀ code, Slots (.sTcall h code) h s (x.enter 5 code.toNat 0 (x.pc + 4))) ∧
      Slots (.sDbrk h) h s (x.enter 0xC 0 0 x.pc) ∧
      (task → Slots (.sXret h) h s (x.enter 4 1 0 x.pc) ∧ Slots (.sIdle h) h s (x.enter 4 1 0 x.pc) ∧
        (∀ o : SCsr, o.h = h → Slots (.sSwr o) h s (x.enter 4 1 0 x.pc) ∧
          (o.csr ≠ 0x020 → o.csr ≠ 0x021 → Slots (.sSrd o) h s (x.enter 4 1 0 x.pc))) ∧
        (∀ o : SInv, o.h = h → ∀ i ∈ [.sXlinvAll o, .sXlinvAsid o, .sXlinvVa o, .sXlinvPageAsid o],
          Slots i h s (x.enter 4 1 0 x.pc))) ∧
      (∀ off, Slots (.sGo h 15 off) h s (x.enter 4 3 0 x.pc)) ∧
      (∀ o : SMem, o.h = h → o.size = 3 → ∀ i ∈ [.sLd o, .sSt o], Slots i h s (x.enter 4 3 0 x.pc))) ∧
    (exl = true → s.part.ranged →
      let double := fun (i : Instr) (epc : Word) (esr : Nat) => Does i s (fun p =>
        (p.slot k).run = .doubleFault ∧ (p.slot k).resv = none ∧ p.issues k = false ∧
        p.fld Reg.MMU_DBLFLT (8 * k) 8 = min 255 ((sPart s h).fld Reg.MMU_DBLFLT (8 * k) 8 + 1) ∧
        p.bit Reg.HOST_STATUS_LO 7 = true ∧
        { time := (sPart s h).ringNow, code := .doubleFault, args := [k, epc.toNat, esr] } ∈ p.log)
      double (.sDbrk h) x.pc (0xC * 2 ^ 24) ∧ ∀ code, double (.sTcall h code) (x.pc + 4) (5 * 2 ^ 24 + code.toNat)) ∧
    (¬ task → Slots (.sXret h) h s { x with
      n := bitAt x.esave 7, z := bitAt x.esave 6, c := bitAt x.esave 5, v := bitAt x.esave 4
      pstat := x.esave &&& 7, pc := x.epc })) ∧
  (∀ (k : Fin 3) (i : Fin 64) (t : Instant) (s : State), s.part.alive = true →
    let q := s.part.at t
    let x := q.slot k
    let takes := (x.run = .running ∨ x.run = .idle) ∧ q.slotWaits k = false ∧ q.slotPair k < 4 ∧ bitAt x.pstat 1 = true ∧
      x.ien.getLsbD i = true ∧ (q.ipend k).getLsbD i = true
    (takes → Does (.interruptTaken k i t) s (fun p =>
      p = q.setSlot k { x.enter 0x10 i 0 x.pc with pend := x.pend &&& ~~~(1#64 <<< i.val) })) ∧
    (¬ takes → Does (.interruptTaken k i t) s (fun p => p = q)))

/-- R251, R260, Tables 9.3 and 9.14: control and system rows. -/
def Obligations.SlotControl : Prop :=
  ∀ (h : SHead) (s : State), sRuns s h →
    let k := h.slot
    let q := sPart s h
    let x := sSlot s h
    let next := { x with pc := x.pc + 4 }
    let monitor := bitAt x.pstat 0 = true
    (∀ (test : BitVec 4) (off : BitVec 22),
      let tests := [true, x.z, !x.z, x.c, !x.c, !x.c && !x.z, x.c || x.z, x.n != x.v, x.n == x.v, !x.z && x.n == x.v,
        x.z || x.n != x.v, x.n, !x.n, x.v, !x.v]
      let goal := BitVec.ofInt 32 (x.pc.toNat + 4 * off.toInt)
      (tests[test.toNat]? = some true → Slots (.sGo h test off) h s { x with pc := goal }) ∧
      (tests[test.toNat]? = some false → Slots (.sGo h test off) h s next) ∧
      Slots (.sGol h off) h s { x.setGr 15 (x.pc + 4) with pc := goal }) ∧
    Slots (.sDrain h) h s next ∧ Slots (.sIrfs h) h s { next with il1 := [] } ∧
    (monitor → Slots (.sIdle h) h s { next with run := .idle }) ∧
    (∀ o : SCsr, o.h = h →
      let cyc := (q.now - q.core.cyc0) * 600000000 / sec 1
      let w := x.gr o.r
      (monitor ∨ o.csr = 0x020 ∨ o.csr = 0x021 → ∀ e ∈ ([(0x000, x.pstat &&& 7), (0x001, x.epc), (0x002, x.esr),
          (0x003, x.eva), (0x004, x.esave), (0x005, x.evbar), (0x008, x.ien.setWidth 32), (0x009, (x.ien >>> 32).setWidth 32),
          (0x00A, (q.ipend k).setWidth 32), (0x00B, (q.ipend k >>> 32).setWidth 32), (0x020, BitVec.ofNat 32 cyc),
          (0x021, BitVec.ofNat 32 (cyc / 2 ^ 32))] : List (BitVec 12 × Word)),
        o.csr = e.1 → SlotsFree (.sSrd o) h s (fun y => y = next.setGr o.r e.2)) ∧
      (monitor → ∀ e ∈ ([(0x000, { next with pstat := w &&& 7 }), (0x001, { next with epc := w }),
          (0x002, { next with esr := w }), (0x003, { next with eva := w }), (0x004, { next with esave := w &&& 0xF7 }),
          (0x005, { next with evbar := w &&& 0xFFFFF000 }),
          (0x008, { next with ien := x.ien >>> 32 <<< 32 ||| w.setWidth 64 }),
          (0x009, { next with ien := (x.ien.setWidth 32).setWidth 64 ||| w.setWidth 64 <<< 32 }),
          (0x00A, next), (0x00B, next), (0x020, next), (0x021, next)] : List (BitVec 12 × CoreSlot)),
        o.csr = e.1 → Slots (.sSwr o) h s e.2)) ∧
    (∀ o : SInv, o.h = h → monitor →
      let key := x.gr o.rs
      let page := fun (e : TlbEntry) => decide (e.page = key.toNat / (if e.big then 2 ^ 20 else 2 ^ 12))
      let mine := fun (e : TlbEntry) => decide (e.asid = key.toNat % 256)
      ∀ e ∈ ([(.sXlinvAll o, fun _ => true), (.sXlinvAsid o, fun e => !e.glob && mine e), (.sXlinvVa o, page),
          (.sXlinvPageAsid o, fun e => page e && (e.glob || mine e))] : List (Instr × (TlbEntry → Bool))),
        let keep := fun (l : List TlbEntry) => l.filter (fun t => !e.2 t)
        (o.shared = false → Slots e.1 h s { next with tlb := keep x.tlb }) ∧
        let gone := fun (p : Part) => (∀ j < 3, (p.slot j).tlb = keep (q.slot j).tlb) ∧ p.core.iotlb = keep q.core.iotlb
        let used := ∃ c < 16, ∃ b, (q.dmaCh c).beat = some b ∧ ∃ t ∈ b.uses, e.2 t = true
        (o.shared = true → q.core.shoots = [] → ¬ used → Does e.1 s (fun p => gone p ∧ p.core.shoots = [] ∧
          p.slot k = { next with tlb := keep x.tlb, run := .running } ∧
          p.fld Reg.MMU_SHOOT 0 16 = (q.fld Reg.MMU_SHOOT 0 16 + 1) % 65536 ∧ p.mem = q.mem ∧
          RegsBut q p [Reg.MMU_SHOOT, Reg.MMU_IOSTAT])) ∧
        (o.shared = true → q.core.shoots = [] → used → Does e.1 s (fun p => gone p ∧ p.core.shoots.length = 1 ∧
          p.slot k = { x with tlb := keep x.tlb, run := .shoot } ∧ p.issues k = false ∧ p.mem = q.mem ∧
          RegsBut q p [Reg.MMU_IOSTAT])) ∧
        -- behind one that is in progress
        (o.shared = true → q.core.shoots ≠ [] →
          let sfn := match e.1 with
            | .sXlinvAll _ => 0
            | .sXlinvAsid _ => 1
            | .sXlinvVa _ => 2
            | _ => 3
          let y := (q.countWrap Reg.MMU_SHOOT 16 16).setSlot k { x with run := .shoot }
          let l : List Shoot := q.core.shoots ++ [{ slot := k, sfn := sfn, key := key }]
          Does e.1 s (fun p => p = ({ y with core := { y.core with shoots := l } } : Part).shootFront 3)))

/-- R251, R254, R256: the memory rows. -/
def Obligations.SlotMemory : Prop :=
  (∀ (q : Part) (k : Nat) (l : List Piece), (∀ x ∈ l, inSram x.pa = true ∧ inSram (x.pa + x.n) = true) →
    q.readPieces k l = (q, l.flatMap (fun x => q.loadBytes x.pa x.n)) ∧
    (∀ bs : List Byte, bs.length = (l.map (·.n)).sum → (∀ a, (∀ x ∈ l, ¬ (x.pa ≤ a ∧ a < x.pa + x.n)) →
      (q.writePieces k bs l).byte a = q.byte a) ∧ (q.writePieces k bs l).regs = q.regs ∧
      (∀ x, l = [x] → (q.writePieces k bs l).loadBytes x.pa x.n = bs))) ∧
  (∀ (p : Part) (k : Nat) (va : Word) (n unit : Nat) (acc : Acc) (read : Bool) (act : Part → List Piece → Part), 0 < n →
    let q := (p.xlateAll k va.toNat n acc read).1
    let l := (p.xlateAll k va.toNat n acc read).2
    let regs := (p.slot k).pstat.getLsbD 0 = false ∧ acc = .write ∧ ∃ x ∈ l, inRegs x.pa = true
    (regs → ∀ strict, p.access k va n unit strict acc read act = q.illegal k 1) ∧
    (¬ regs → (l.any (·.dev) = true → va.toNat % unit = 0) → ∀ e, dataFault l = some e →
      p.access k va n unit false acc read act = q.raiseFault k e)) ∧
  (∀ (o : SMem) (s : State) (q : Part) (l : List Piece),
    let k := o.h.slot
    let x := sSlot s o.h
    let va : Word := x.gr o.rb + o.off.signExtend 32
    let n := 2 ^ o.size.toNat
    let r := q.readPieces k l
    let old : Word := BitVec.ofNat 32 (numOf r.2)
    let put := fun (p : Part) (rt : Word) => p.setSlot k { (p.slot k).setGr o.rt rt with pc := (p.slot k).pc + 4 }
    (o.size = 2 → sAccess s o.h va 4 4 .read true q l → Does (.sLd o) s (fun p =>
      p = { put r.1 old with freeCount := r.1.freeCount + 1 })) ∧
    (o.size = 0 ∨ o.size = 1 → sAccess s o.h va n n .read true q l → Does (.sLd o) s (fun p => ∃ upper : Nat,
      p = { put r.1 (BitVec.ofNat 32 (numOf r.2 + upper * 2 ^ (8 * n))) with freeCount := r.1.freeCount + 1 })) ∧
    (o.size ≠ 3 → sAccess s o.h va n n .write false q l → Does (.sSt o) s (fun p =>
      let w := q.writePieces k (bytesOf n (x.gr o.rt).toNat) l
      p = w.setSlot k { w.slot k with pc := (w.slot k).pc + 4 })) ∧
    (sAccess s o.h va 4 4 .read true q l → Does (.sFld o) s (fun p =>
      p = r.1.setSlot k { (r.1.slot k).setFr o.rt old with pc := (r.1.slot k).pc + 4 })) ∧
    (sAccess s o.h va 4 4 .write false q l → Does (.sFst o) s (fun p =>
      let w := q.writePieces k (bytesOf 4 (x.fr o.rt).toNat) l
      p = w.setSlot k { w.slot k with pc := (w.slot k).pc + 4 })) ∧
    (va.toNat % 4 = 0 → sAccess s o.h va 4 4 .read true q l → Does (.sLdrv o) s (fun p =>
      p = r.1.setSlot k { (r.1.slot k).setGr o.rt old with pc := (r.1.slot k).pc + 4, resv := some (pieceAddr l) })) ∧
    (va.toNat % 4 = 0 → sAccess s o.h va 4 4 .write false q l →
      let holds := (q.slot k).resv = some (pieceAddr l)
      (holds → Does (.sStcv o) s (fun p =>
        let w := q.writePieces k (bytesOf 4 ((q.slot k).gr o.rt).toNat) l
        p = w.setSlot k { (w.slot k).setGr o.rt 1 with pc := (w.slot k).pc + 4, resv := none })) ∧
      (¬ holds → Does (.sStcv o) s (fun p =>
        p = q.setSlot k { (q.slot k).setGr o.rt 0 with pc := (q.slot k).pc + 4, resv := none }))) ∧
    (va.toNat % 4 = 0 → sAccess s o.h va 4 4 .write true q l →
      let rt := (r.1.slot k).gr o.rt
      Does (.sAtadd o) s (fun p => p = put (r.1.writePieces k (bytesOf 4 (old + rt).toNat) l) old) ∧
      Does (.sAtswp o) s (fun p => p = put (r.1.writePieces k (bytesOf 4 rt.toNat) l) old) ∧
      (old = (r.1.slot k).gr 0 → Does (.sAtcmp o) s (fun p => p = put (r.1.writePieces k (bytesOf 4 rt.toNat) l) old)) ∧
      (old ≠ (r.1.slot k).gr 0 → Does (.sAtcmp o) s (fun p => p = put r.1 old))) ∧
    (sRuns s o.h → bitAt (q.slot k).pstat 2 = false → va.toNat % 4 ≠ 0 →
      ((sPart s o.h).xlateAll k va.toNat 4 .read true = (q, l) →
        Does (.sLdrv o) s (fun p => p = q.setSlot k ((q.slot k).enter 6 0 va (q.slot k).pc))) ∧
      (∀ e ∈ ([(.sStcv o, false), (.sAtadd o, true), (.sAtswp o, true), (.sAtcmp o, true)] : List (Instr × Bool)),
        (sPart s o.h).xlateAll k va.toNat 4 .write e.2 = (q, l) → storesRegs ((sPart s o.h).task? k) .write l = false →
        Does e.1 s (fun p => p = q.setSlot k ((q.slot k).enter 6 (2 ^ 16) va (q.slot k).pc)))) ∧
    (∀ e, sRuns s o.h → o.size ≠ 3 → bitAt (q.slot k).pstat 2 = false → (sPart s o.h).xlateAll k va.toNat n .read true = (q, l) →
      (l.any (·.dev) = true → va.toNat % n = 0) → dataFault l = some e → e.word = none →
      Does (.sLd o) s (fun p => p.slot k = (q.slot k).enter e.cause e.info e.eva (q.slot k).pc ∧ p.mem = q.mem ∧
        RegsBut q p [Reg.MMU_FVA k, Reg.MMU_FINFO k]))) ∧
  (∀ (o : SGrp) (s : State) (q : Part) (l : List Piece),
    let k := o.h.slot
    let x := sSlot s o.h
    let va := x.gr o.rb
    let regs : List (Fin 16) := (List.finRange 16).filter (fun i => o.mask.getLsbD i)
    (sAccess s o.h va (4 * regs.length) 4 .read true q l → Does (.sLdgrp o) s (fun p =>
      let r := q.readPieces k l
      let f := fun (i : Fin 16) => (regs.findIdx? (· = i)).elim ((r.1.slot k).gr i) (fun j =>
        BitVec.ofNat 32 (numOf ((r.2.drop (4 * j)).take 4)))
      p = r.1.setSlot k { r.1.slot k with w := Vector.ofFn f, pc := (r.1.slot k).pc + 4 })) ∧
    (sAccess s o.h va (4 * regs.length) 4 .write false q l → Does (.sStgrp o) s (fun p =>
      let w := q.writePieces k (regs.flatMap (fun i => bytesOf 4 (x.gr i).toNat)) l
      p = w.setSlot k { w.slot k with pc := (w.slot k).pc + 4 })) ∧
    (sRuns s o.h → o.mask = 0 → Slots (.sLdgrp o) o.h s { x with pc := x.pc + 4 } ∧
      Slots (.sStgrp o) o.h s { x with pc := x.pc + 4 })) ∧
  (∀ (h : SHead) (units : Nat) (s : State) (q q' : Part) (rs : List Piece) (w : Piece), sRuns s h → 0 < units →
    let k := h.slot
    let x := sSlot s h
    let n := min (x.gr 3).toNat (64 - (x.gr 1).toNat % 64)
    (x.gr 3 = 0 → Slots (.sMcpy h units) h s { x with pc := x.pc + 4 }) ∧
    (x.gr 3 ≠ 0 → (sPart s h).xlateAll k (x.gr 2).toNat n .read true = (q, rs) →
      q.xlateAll k (x.gr 1).toNat n .write false = (q', [w]) → dataFault (w :: rs) = none →
      (∀ y ∈ w :: rs, y.dev = false ∧ inSram y.pa = true ∧ inSram (y.pa + y.n) = true) →
      n = (x.gr 3).toNat ∨ units = 1 →
      Does (.sMcpy h units) s (fun p =>
        let pairs := (rs.flatMap (fun y => (List.range y.n).map (y.pa + ·))).zip ((List.range w.n).map (w.pa + ·))
        let m := BitVec.ofNat 32 n
        (p.slot k).w = (((q'.slot k).w.set 1 (x.gr 1 + m)).set 2 (x.gr 2 + m)).set 3 (x.gr 3 - m) ∧
        (p.slot k).pc = (if n = (x.gr 3).toNat then x.pc + 4 else x.pc) ∧ p.regs = q'.regs ∧
        (∀ a, p.byte a = (pairs.foldl (fun m e => m.setByte e.2 (m.byte e.1)) q').byte a)))) ∧
  -- a unit wherever its checked parts lie, and the units after it
  (∀ (h : SHead) (units : Nat) (s : State) (q q' : Part) (rs ws : List Piece), sRuns s h →
    let k := h.slot
    let x := sSlot s h
    let n := min (x.gr 3).toNat (64 - (x.gr 1).toNat % 64)
    let m := BitVec.ofNat 32 n
    x.gr 3 ≠ 0 → (sPart s h).xlateAll k (x.gr 2).toNat n .read true = (q, rs) →
    q.xlateAll k (x.gr 1).toNat n .write false = (q', ws) → storesRegs ((sPart s h).task? k) .write ws = false →
    (rs.any (·.dev) = true → (x.gr 2).toNat % 4 = 0) → (ws.any (·.dev) = true → (x.gr 1).toNat % 4 = 0) →
    dataFault (rs ++ ws) = none → dataFault (ws ++ rs) = none →
    let r := q'.readPieces k rs
    let moved := (r.1.writePieces k (ascending (pieceBytes rs) (pieceBytes ws) r.2) ws).onSlot k (fun y =>
      ((y.setGr 1 (x.gr 1 + m)).setGr 2 (x.gr 2 + m)).setGr 3 (y.gr 3 - m))
    (∀ j, units = j + 1 → Does (.sMcpy h units) s (fun p => p = moved.copyUnits k j)) ∧
    ∀ j (p : Part), p.copyUnits k j = (if (p.slot k).gr 3 = 0 then p.setSlot k { p.slot k with pc := (p.slot k).pc + 4 } else
      match j with
      | 0 => p
      | i + 1 => if (p.copyUnit k).2 = true then (p.copyUnit k).1.copyUnits k i else (p.copyUnit k).1))

/-- R279 to R286, R290: cycles, modules and snapshots. -/
def Obligations.TaskCycles : Prop :=
  (∀ (k : Fin 32) (t start : Instant) (s : State) (x : CycTask), s.part.alive = true → s.part.ranged →
    s.part.task k = some x → s.part.cycRuns = true →
    let d := x.desc
    let idle := s.part.taskState k = 1
    let stat := Reg.CYC_TSTAT k
    let starts := t ≤ start ∧ s.part.slotFree d = true ∧ s.part.exportWindow d = true
    let released := fun (p : Part) (next : Instant) (held : Bool) => ∃ y, p.task k = some y ∧ y.desc = d ∧ y.next = next ∧ y.relAt = t ∧
      y.last = some t ∧ y.held = held ∧ (starts → p.taskState k = 3) ∧ (¬ starts → p.taskState k = 2) ∧
      (starts → 32 ≤ d.isize → (∀ i ∈ d.ins, 8 ≤ i.word) →
        wordAt y.inImg 0 = BitVec.ofNat 32 x.cycles ∧ bitAt (wordAt y.inImg 1) 0 = x.first ∧ bitAt (wordAt y.inImg 1) 1 = x.ovr ∧
        bitAt (wordAt y.inImg 1) 3 = x.intr ∧ bits (wordAt y.inImg 1) 8 8 = x.cause % 256 ∧
        wordAt y.inImg 2 = BitVec.ofNat 32 (instNs t) ∧ wordAt y.inImg 3 = BitVec.ofNat 32 (instSec t) ∧
        (wordAt y.inImg 6).toNat = min (2 ^ 32 - 1) ((start - t) / 65536) ∧
        (∀ i ∈ d.ins, (∀ j ∈ d.ins, j.word = i.word ∨ j.word + 1 = i.word → j = i) → 4 * i.word + 4 ≤ d.isize →
          (∀ f, s.part.forceOf i.ident = some f → wordAt y.inImg i.word = BitVec.ofNat 32 f.value) ∧
          (s.part.forceOf i.ident = none →
            (i.src = .gpio → wordAt y.inImg i.word = s.part.reg Reg.GPIO_IN) ∧
            (∀ g e, i.src = .ep g e → g < 2 → e < 64 → wordAt y.inImg i.word = s.part.reg (Reg.CLE_EP g e)))))
    (d.cyclic = true → t = x.next → idle → Does (.taskRelease k t start) s (fun p =>
      released p (t + d.period) x.held)) ∧
    (d.cyclic = true → t = x.next → ¬ idle → Does (.taskRelease k t start) s (fun p =>
      p.task k = some { x with next := t + d.period, ovr := true } ∧ p.taskState k = s.part.taskState k ∧
      p.fld stat 0 16 = min 65535 (s.part.fld stat 0 16 + 1) ∧ p.bit Reg.CYC_EVT 6 = true ∧
      RegsBut s.part p [stat, Reg.CYC_EVT])) ∧
    (d.cyclic = false ∨ (t ≠ x.next ∧ t ≠ x.relAt) → Idles (.taskRelease k t start) s) ∧
    (d.cyclic = false →
      let due := idle ∧ ∀ l, x.last = some l → l + d.minia ≤ t
      (due → x.held = false → Does (.eventTaskRelease k true t start) s (fun p => released p x.next false)) ∧
      (due → x.held = true → Does (.eventTaskRelease k false t start) s (fun p => released p x.next false)) ∧
      (¬ due → x.held = false → Does (.eventTaskRelease k true t start) s (fun p =>
        p = (s.part.atRing t).setTask { x with held := true })) ∧
      (x.held = true → Does (.eventTaskRelease k true t start) s (fun p => p = (s.part.atRing t).setFld Reg.CYC_EVT 5 1 1)))) ∧
  (∀ (k : Fin 32) (out : List Byte) (timers : List (Nat × Option Instant)) (edges : List (Nat × Bool))
      (lines : List (BitVec 12)) (t : Instant) (s : State) (x : CycTask), s.part.alive = true → s.part.ranged → s.part.task k = some x →
    let ends := s.part.cycRuns = true ∧ s.part.taskState k = 3 ∧ x.relAt ≤ t ∧ 
      (s.part.atRing t).copyWindow x.desc (s.part.atRing t).now = true
    let us := min (2 ^ 32 - 1) ((t - x.relAt) / usec 1)
    (¬ ends → Idles (.taskBodyEnd k out timers edges lines t) s) ∧
    (ends → Does (.taskBodyEnd k out timers edges lines t) s (fun p =>
      (∃ y, p.task k = some y ∧ y.cycles = (x.cycles + 1) % 2 ^ 32 ∧ y.desc = x.desc ∧
        (∀ m, libTask x.desc = some m → s.part.cyc.forces = [] → m.syncOk.2 < 32 → 4 * m.syncOk.1 + 4 ≤ x.desc.osize →
          imageBit y.outImg m.syncOk = p.lib.syncOk)) ∧ p.taskState k = 1 ∧
      p.reg (Reg.CYC_TCYC k) = s.part.reg (Reg.CYC_TCYC k) + 1 ∧ (p.reg (Reg.CYC_TLAST k)).toNat = us ∧
      (p.reg (Reg.CYC_TMAX k)).toNat = max us (s.part.reg (Reg.CYC_TMAX k)).toNat ∧ p.cyc.lastEnd = t ∧
      ((s.part.atRing t).mute = true → p.reg Reg.GPIO_OUT = s.part.reg Reg.GPIO_OUT ∧ p.ramps = s.part.ramps ∧ p.out = s.part.out ∧
        ∀ g < 2, p.reg (Reg.CLE_SEQCMD g) = s.part.reg (Reg.CLE_SEQCMD g) ∧
          ∀ j < 16, p.reg (Reg.CLE_SPW g j) = s.part.reg (Reg.CLE_SPW g j)) ∧
      ((s.part.atRing t).mute = false → libTask x.desc = none → ∀ o ∈ x.desc.outs, s.part.ioSize o.ident = 4 →
        (∀ j ∈ x.desc.outs, j.word = o.word ∨ j.word + 1 = o.word ∨ j.dst = o.dst → j = o) →
        4 * o.word + 4 ≤ x.desc.osize → 4 * o.word + 4 ≤ out.length → ∀ w : Word,
        w = (match s.part.forceOf o.ident with
          | some f => BitVec.ofNat 32 f.value
          | none => BitVec.ofNat 32 (numOf ((out.drop (4 * o.word)).take 4))) →
        (∀ i, o.dst = .pin i → p.bit Reg.GPIO_OUT i = decide (w ≠ 0)) ∧
        (∀ g j, o.dst = .spw g j → p.reg (Reg.CLE_SPW g j) = w) ∧ (∀ g, o.dst = .seqcmd g → p.reg (Reg.CLE_SEQCMD g) = w) ∧
        (∀ c, o.dst = .rampTgt c → fpFinite w = true → p.reg (Reg.RAMP_TGT c) = w ∧ (p.ramp c).newTgt = true))))) ∧
  (∀ (m : Fin 64) (t : Instant) (s : State) (x : CycModule), s.part.alive = true → s.part.remote m = some x →
    let old := s.part.remoteData m
    let may := if x.input = true then s.part.cycRuns = true
      else s.part.cycState ≠ 5 ∧ s.part.mute = false ∧ old.ready = true
    let due := may ∧ ∀ a, old.last = some a → a + x.period ≤ t
    let sent := old.data.take x.size
    let here := x.node = 0 ∨ (x.node = s.part.node ∧ s.part.bit Reg.RING_STAT 31 = true)
    let stat := Reg.CYC_RMSTAT m
    let asked := fun (p : Part) (typ len : Nat) => ∃ r ∈ p.ring.waits ++ p.ring.reqs, r.use = .module m ∧ r.typ = typ ∧
      r.cls = 2 ∧ r.dst = x.node ∧ r.addr = x.addr ∧ r.len = len
    (x.input = true → due → ¬ here → x.node ≤ 64 → x.addr.testBit 40 = false →
      Does (.remoteModuleRead m [] t) s (fun p => asked p 1 ((x.size + 3) / 4 * 4) ∧ (p.remoteData m).last = some t)) ∧
    (x.input = true → due → here → inSram x.addr = true → inSram (x.addr + x.size) = true →
      (∀ a, s.part.poisoned a = false) → Does (.remoteModuleRead m [] t) s (fun p =>
        (p.remoteData m).data = s.part.loadBytes x.addr x.size ∧ (p.remoteData m).good = some p.ringNow ∧
        p.bit stat 30 = false ∧ p.fld stat 0 16 = 0)) ∧
    -- whatever memory or registers this node's address names
    (x.input = true → due → here → ∀ ecc,
      let y := ((s.part.atRing t).setRemote { old with last := some t }).nodeRead .ring x.addr x.size ecc
      Does (.remoteModuleRead m ecc t) s (fun p => p = if y.status = 0 then y.part.moduleGood m y.data else y.part)) ∧
    (x.input = true → due → ¬ here → 65 ≤ x.node ∨ x.addr.testBit 40 = true → ∀ ecc,
      Does (.remoteModuleRead m ecc t) s (fun p => p = (s.part.atRing t).setRemote { old with last := some t })) ∧
    (¬ (x.input = true ∧ due) → ∀ ecc, Idles (.remoteModuleRead m ecc t) s) ∧
    (x.input = false → due → ¬ here → x.node ≤ 64 → x.addr.testBit 40 = false →
      Does (.remoteModuleSend m t) s (fun p => asked p 2 sent.length ∧ (p.remoteData m).last = some t)) ∧
    (x.input = false → due → here → inSram x.addr = true → inSram (x.addr + sent.length) = true →
      Does (.remoteModuleSend m t) s (fun p => p.loadBytes x.addr sent.length = sent ∧ p.bit stat 29 = false)) ∧
    (let z := (s.part.atRing t).setRemote { old with last := some t }
     let y := z.nodeWrite .ring x.addr sent
     let own := y.part.setBit stat 29 (y.status ≠ 0)
     (x.input = false → due → here → Does (.remoteModuleSend m t) s (fun p => p = own)) ∧
     (x.input = false → due → ¬ here → (65 ≤ x.node ∧ x.node ≤ 126) ∨ x.addr.testBit 40 = true →
       Does (.remoteModuleSend m t) s (fun p => p = z.setBit stat 29 true)) ∧
     (x.input = false → due → ¬ here → x.node = 127 → x.addr.testBit 40 = false → Does (.remoteModuleSend m t) s (fun p =>
       p = own.moduleRequest m { typ := 3, cls := 2, dst := 127, addr := x.addr, len := sent.length, data := sent, use := .module m }))) ∧
    (¬ (x.input = false ∧ due) → Idles (.remoteModuleSend m t) s) ∧
    (∀ g, old.good = some g →
      let old' := x.input = true ∧ s.part.cycRuns = true ∧ g + s.part.fld Reg.CYC_RIOCFG 0 8 * x.period < t ∧ s.part.bit stat 30 = false
      (old' → Does (.remoteModuleStale m t) s (fun p => p.bit stat 30 = true ∧ p.bit Reg.CYC_EVT 4 = true ∧
        p.remoteData m = old ∧ RegsBut s.part p [stat, Reg.CYC_EVT])) ∧
      (¬ old' → Idles (.remoteModuleStale m t) s))) ∧
  (∀ (t : Instant) (s : State), s.part.alive = true →
    (t % msec 1 = 0 → Does (.cleSnapshot t) s (fun p =>
      ∃ x, p.cyc.snaps = (x :: s.part.cyc.snaps).take 2 ∧ x.seq = ((s.part.cyc.snaps.map (·.seq)).headD 0 + 1) % 2 ^ 32 ∧
        x.time = t ∧ x.ramps = s.part.ramps.toList ∧ p.reg Reg.CYC_SNAPSEQ = BitVec.ofNat 32 x.seq ∧
        x.groups.map (fun y => (y.group, y.scnt, y.exports, y.region)) =
          (([Grp.A, Grp.B] : List Grp).filter (fun g => s.part.groupRuns g)).map (fun g =>
            (g.ix, s.part.pair (Reg.CLE_SCNT_LO g.ix), (List.range 64).map (fun j => s.part.reg (Reg.CLE_EP g.ix j)),
              s.part.reg (Reg.CLE_REGION g.ix))) ∧ RegsBut s.part p [Reg.CYC_SNAPSEQ])) ∧
    (t % msec 1 ≠ 0 → Idles (.cleSnapshot t) s))

/-- R279, R291 to R293, R301 to R303: starts and stops. -/
def Obligations.RuntimeStops : Prop :=
  ∀ (t : Instant) (s : State), s.part.alive = true → s.part.ranged →
    let slot := s.part.fld Reg.CYC_STAT 25 1
    let img := s.part.cycImageAt slot
    let ok := s.part.cyc.verified.contains slot = true ∧ imageFault img = none
    let warm := s.part.cyc.retained = some img.id
    let safe := fun (p : Part) (im : CycImage) (own : CycTarget → Bool) =>
      (∀ e ∈ im.pinSafe, own (.pin e.1) = true → (∀ f ∈ im.pinSafe, f.1 = e.1 → f = e) → p.bit Reg.GPIO_OUT e.1 = e.2) ∧
      (∀ e ∈ im.spwSafe, own (.spw e.1 e.2.1) = true → (∀ f ∈ im.spwSafe, f.1 = e.1 → f.2.1 = e.2.1 → f = e) →
        p.reg (Reg.CLE_SPW e.1 e.2.1) = e.2.2) ∧
      (∀ e ∈ im.rampSafe, own (.rampTgt e.1) = true → fpFinite e.2 = true → (∀ f ∈ im.rampSafe, f.1 = e.1 → f = e) →
        p.reg (Reg.RAMP_TGT e.1) = e.2 ∧ (p.ramp e.1).newTgt = true) ∧
      (∀ g < 2, p.reg (Reg.CLE_SEQCMD g) = s.part.reg (Reg.CLE_SEQCMD g))
    let started := fun (p : Part) (cause : Nat) =>
      p.cycState = 1 ∧ p.cyc.img = img ∧ p.cyc.retained = some img.id ∧ p.fld Reg.CYC_STAT 0 6 = img.tasks.length % 64 ∧
      p.fld Reg.CYC_IMGID 16 16 = img.id % 65536 ∧ p.cyc.tasks.map (·.desc) = img.tasks ∧
      (∀ x ∈ p.cyc.tasks, p.taskState x.desc.id = 1 ∧ x.cause = (if warm then cause else 1) ∧ x.first = true ∧
        (x.desc.cyclic = true → t + msec 1 ≤ x.next ∧ x.next < t + msec 1 + x.desc.period ∧
          (x.next - t / sec 1 * sec 1) % x.desc.period = 0)) ∧
      safe p img (fun _ => true) ∧ (∀ k < 3, (s.part.slot k).run = .halted → (p.slot k).run = .running) ∧
      (warm → p.mem.bytes = s.part.mem.bytes) ∧
      (¬ warm → ∀ e ∈ img.init, (∀ f ∈ img.init, f.1 = e.1 → f = e) → p.byte (s.part.varBase + e.1) = e.2)
    let stopped := fun (p : Part) (state cause : Nat) =>
      p.cycState = state ∧ p.fld Reg.CYC_STAT 16 8 = cause ∧ p.cyc.change = none ∧
      (∀ x ∈ s.part.cyc.tasks, p.taskState x.desc.id = 5) ∧
      (∀ c, s.part.cyc.change = some c → p.opState c.op = 4 ∧ p.fld Reg.CYC_CHGSTAT 24 8 = 0x15)
    -- START, RESTART, STOP
    (s.part.cycState = 0 → ok → Does (.cycStart t) s (fun p => started p (if s.part.fld Reg.CYC_STAT 16 8 = 4 then 4 else 2))) ∧
    (s.part.cycState ≠ 0 → Idles (.cycStart t) s) ∧
    (s.part.cycState = 4 → ok → Does (.cycRestart t) s (fun p => started p 3)) ∧
    (s.part.cycState = 0 → ok → Does (.cycRestart t) s (fun p => started p 4)) ∧
    (s.part.cycState ≠ 0 → s.part.cycState ≠ 4 → Idles (.cycRestart t) s) ∧
    (s.part.cycState = 0 → ¬ ok → Does (.cycStart t) s (fun p => p = s.part.atRing t) ∧
      Does (.cycRestart t) s (fun p => p = s.part.atRing t)) ∧
    (s.part.cycRuns = true → Does (.cycStop t) s (fun p => stopped p 0 4 ∧ safe p s.part.cyc.img s.part.ownedOut)) ∧
    (s.part.cycRuns = false → Idles (.cycStop t) s) ∧
    -- the watchdog
    (∀ (k : Fin 32) (x : CycTask), s.part.task k = some x →
      let late := s.part.cycRuns = true ∧ s.part.taskState k ∈ [2, 3, 4] ∧
        x.relAt + (if x.desc.cyclic then x.desc.wdmult * x.desc.period else x.desc.deadline) ≤ t
      (late → Does (.watchdogFire k t) s (fun p => stopped p 4 3 ∧ safe p s.part.cyc.img s.part.ownedOut ∧
        p.bit Reg.CYC_EVT 7 = true ∧ p.bit Reg.HOST_STATUS_LO 7 = true ∧
        (∃ e ∈ p.log, e.code = .watchdog ∧ e.args = [k.val, x.relAt]) ∧
        (s.part.role = 1 → s.part.bit Reg.CYC_WDCFG 0 = true → p.pair_.cutReq = true ∧
          ∃ i r, OutMsg.pair s.part.pair_.callerNode (.request i r) ∈ p.out))) ∧
      (¬ late → Idles (.watchdogFire k t) s)) ∧
    -- power failure
    (s.part.cyc.pfail ≠ none → Idles (.pfailAssert t) s) ∧
    (s.part.cyc.pfail = none → Does (.pfailAssert t) s (fun p => p.cycState = 5 ∧ p.cyc.pfail = some t ∧
      p.cyc.pfPrev = s.part.cycState ∧
      (∀ k < 3, (p.slot k).run = .halted ∧ (p.slot k).pend.getLsbD 48 = true) ∧ p.bit Reg.CYC_PFSTAT 31 = true ∧
      p.bit Reg.CYC_PFSTAT 30 = false ∧ p.reg Reg.CYC_PFTIME_LO = BitVec.ofNat 32 (instNs t) ∧ p.bit Reg.CYC_EVT 8 = true ∧
      p.safe.pfail = true ∧ (∀ c < 2, (p.sch c).sto = true) ∧ p.bit Reg.SAFE_STAT 31 = true ∧
      (s.part.cycRuns = true → (∀ x ∈ s.part.cyc.tasks, p.taskState x.desc.id = 5) ∧
        ∀ e ∈ s.part.cyc.img.pinSafe, (∀ f ∈ s.part.cyc.img.pinSafe, f.1 = e.1 → f = e) → p.bit Reg.GPIO_OUT e.1 = e.2))) ∧
    (∀ t0, s.part.cyc.pfail = some t0 → s.part.bit Reg.CYC_PFSTAT 30 = false → Does (.pfailFlushComplete t) s (fun p =>
      p.cyc.dirty = [] ∧ p.mem.bytes = s.part.mem.bytes ∧ p.bit Reg.CYC_PFSTAT 30 = true ∧
      p.fld Reg.CYC_PFSTAT 0 16 = min 0xFFFF ((t - t0) / usec 1) ∧ p.cycState = s.part.cycState)) ∧
    (s.part.cyc.pfail = none → Idles (.pfailFlushComplete t) s ∧ Idles (.pfailRelease t) s) ∧
    (s.part.cyc.pfail ≠ none → Does (.pfailRelease t) s (fun p => p.cyc.pfail = none ∧ p.safe.pfail = false ∧
      (s.part.bit Reg.CYC_PFSTAT 30 = false → p.bit Reg.CYC_PFSTAT 30 = true) ∧
      (s.part.cyc.pfPrev ∈ [1, 2, 3] → ok → started p 2) ∧
      (s.part.cyc.pfPrev = 0 → p.cycState = 0 ∧ ∀ k < 3, (p.slot k).run = .running)))

/-- R294 to R300, R335: forces and on-line change. -/
def Obligations.ForcesAndChange : Prop :=
  (∀ s : State, s.part.alive = true →
    let cidx := s.part.fld (Reg.QUE_CIDX 16) 0 16
    let a := s.part.queueEntry 16 cidx
    let cmd := (s.part.byte (a + 3)).toNat
    let waits := s.part.bit (Reg.QUE_CFG 16) 31 = true ∧ s.part.queueFill 16 ≠ 0
    let ident := s.part.load (a + 8) 8
    let typ := (s.part.byte (a + 0x10)).toNat
    let value := s.part.load (a + 0x18) 8
    let others := s.part.cyc.forces.filter (fun f => f.ident ≠ ident)
    let rows := [(Instr.forceSet, 1), (.forceRel, 2), (.forceRelall, 3), (.forceList, 4)]
    let answers := fun (i : Instr) (res : Nat) (forces : List CycForce) => Does i s (fun p =>
      p.loadWord (a + 4) = BitVec.ofNat 32 (2 ^ 31 + res) ∧ p.fld (Reg.QUE_CIDX 16) 0 16 = (cidx + 1) % 65536 ∧
      p.cyc = { s.part.cyc with forces := forces } ∧ RegsBut s.part p [Reg.QUE_CIDX 16] ∧
      (∀ b, ¬ (a + 4 ≤ b ∧ b < a + 8) → p.byte b = s.part.byte b))
    (¬ waits → ∀ e ∈ rows, Idles e.1 s) ∧
    (waits → (∀ e ∈ rows, cmd ≠ e.2 → 1 ≤ cmd → cmd ≤ 4 → Idles e.1 s) ∧
      (∀ e ∈ rows, cmd = 0 ∨ 4 < cmd → answers e.1 1 s.part.cyc.forces) ∧
      (cmd = 1 → (s.part.cycVar ident = none → answers .forceSet 2 s.part.cyc.forces) ∧
        (∀ v, s.part.cycVar ident = some v →
          (v.typ ≠ typ → answers .forceSet 3 s.part.cyc.forces) ∧
          (v.typ = typ → 256 ≤ others.length → answers .forceSet 4 s.part.cyc.forces) ∧
          (v.typ = typ → others.length < 256 →
            answers .forceSet 0 (others ++ [{ ident := ident, typ := typ, value := value }])))) ∧
      (cmd = 2 → (s.part.forceOf ident = none → answers .forceRel 2 s.part.cyc.forces) ∧
        (s.part.forceOf ident ≠ none → answers .forceRel 0 others)) ∧
      (cmd = 3 → answers .forceRelall 0 []) ∧
      (cmd = 4 → inSram value = true → inSram (value + 24 * s.part.cyc.forces.length) = true →
        value + 24 * s.part.cyc.forces.length ≤ a + 4 ∨ a + 8 ≤ value → Does .forceList s (fun p =>
          p.loadWord (a + 4) = 0x80000000 ∧ p.fld (Reg.QUE_CIDX 16) 0 16 = (cidx + 1) % 65536 ∧
          p.loadBytes value (24 * s.part.cyc.forces.length) =
            s.part.cyc.forces.flatMap (fun f => bytesOf 8 f.ident ++ bytesOf 8 f.typ ++ bytesOf 8 f.value))))) ∧
  (∀ (t : Instant) (s : State), s.part.alive = true → s.part.ranged →
    (s.part.cyc.change = none → Idles (.precopyDone t) s ∧ Idles (.onlineSwitch t) s ∧ Idles (.switchWindowExpiry t) s) ∧
    (∀ c, s.part.cyc.change = some c →
      let area := s.part.fld Reg.CYC_STAT 26 1
      let other := varArea (1 - area)
      let copied := s.part.cycState = 2 ∧ c.window = none ∧ c.since + nsec ((c.img.map.map (·.size)).sum * 1000 / 64) ≤ t
      let pause := usec 3 + nsec (40 * c.marked.length)
      let due := (∃ w, c.window = some w ∧ t ≤ w) ∧ t = s.part.cyc.lastEnd ∧ c.marked.length + s.part.cyc.dirty.length ≤ 4096 ∧
        ∀ x ∈ s.part.cyc.tasks, s.part.taskState x.desc.id = 1 ∧ x.held = false ∧
          (x.desc.cyclic = true → t + pause + usec 10 < x.next)
      let lives := fun (f : CycForce) => c.img.map.any (fun m => m.ident = f.ident) &&
        c.img.vars.any (fun v => v.ident = f.ident && v.typ = f.typ)
      (copied → Does (.precopyDone t) s (fun p =>
        (∃ c', p.cyc.change = some c' ∧ c'.window = some (t + msec 500) ∧ c'.img = c.img ∧ c'.op = c.op) ∧
        p.cycState = 1 ∧ p.bit Reg.CYC_STAT 27 = true ∧ (∀ k < 3, (p.slot k).pend.getLsbD 51 = true) ∧
        ((∀ v ∈ c.img.vars, ∃ m ∈ c.img.map, m.ident = v.ident) → (∀ m ∈ c.img.map, m.old + m.size ≤ 0x300000 ∧ m.new + m.size ≤ 0x300000) →
          List.Pairwise (fun m n => m.new + m.size ≤ n.new ∨ n.new + n.size ≤ m.new) c.img.map →
          ∀ m ∈ c.img.map, p.loadBytes (other + m.new) m.size = s.part.loadBytes (varArea area + m.old) m.size))) ∧
      (¬ copied → Idles (.precopyDone t) s) ∧
      (due → Does (.onlineSwitch t) s (fun p => p.cyc.img = c.img ∧ p.cyc.change = none ∧ p.cycState = 1 ∧
        p.fld Reg.CYC_STAT 26 1 = 1 - area ∧ p.fld Reg.CYC_STAT 25 1 = 1 - s.part.fld Reg.CYC_STAT 25 1 ∧
        p.bit Reg.CYC_STAT 27 = false ∧ p.bit Reg.CYC_EVT 3 = true ∧ p.opState c.op = 3 ∧
        p.fld Reg.CYC_PAUSE 0 16 = min 0xFFFF (pause / nsec 10) ∧ p.cyc.forces = s.part.cyc.forces.filter lives ∧
        p.cyc.timers = c.img.timers.map (fun i => (s.part.cyc.timers.find? (fun e => e.1 = i)).getD (i, none)) ∧
        p.cyc.edges = c.img.edges.map (fun i => (s.part.cyc.edges.find? (fun e => e.1 = i)).getD (i, none)) ∧
        p.cyc.tasks.map (·.desc) = c.img.tasks ∧
        (∀ f ∈ s.part.cyc.forces, lives f = false → p.bit Reg.CYC_EVT 1 = true ∧
          ∃ e ∈ p.log, e.code = .forceReleased ∧ e.args = [f.ident]) ∧
        (∀ y ∈ p.cyc.tasks, p.taskState y.desc.id = 1 ∧
          (∀ x, s.part.cyc.tasks.find? (fun x => x.desc.id = y.desc.id) = some x → x.desc.cyclic = true → y.desc.cyclic = true →
            x.desc.period = y.desc.period → y.next = x.next ∧ (x.desc.code ≠ y.desc.code → y.cause = 5)) ∧
          ((∀ x ∈ s.part.cyc.tasks, x.desc.id ≠ y.desc.id) → y.cause = 5 ∧ y.first = true ∧
            (y.desc.cyclic = true → t + pause + msec 1 ≤ y.next ∧ y.next < t + pause + msec 1 + y.desc.period))))) ∧
      (¬ due → Idles (.onlineSwitch t) s) ∧
      ((∃ w, c.window = some w ∧ w ≤ t) → Does (.switchWindowExpiry t) s (fun p => p.cyc.change = none ∧
        p.fld Reg.CYC_CHGSTAT 24 8 = 0x14 ∧ p.bit Reg.CYC_EVT 2 = true ∧ p.opState c.op = 4 ∧ p.bit Reg.CYC_STAT 27 = false ∧
        p.cyc = { s.part.cyc with change := none })) ∧
      (¬ (∃ w, c.window = some w ∧ w ≤ t) → Idles (.switchWindowExpiry t) s)))

/-- R309, R318, R319, R327, R328: requests, completions and host accesses. -/
def Obligations.RingRequests : Prop :=
  (∀ (f : RingFrame) (t : Instant) (s : State), s.part.alive = true →
    let x := hdrOf f.hdr
    let q := s.part.at t
    let bcast := decide (x.dst = 127)
    let src := q.ringSrc x.src bcast
    let seen := ∃ e ∈ src.seen, e.1 = x.tag ∧ e.2.1 = x.epoch ∧ q.now < e.2.2 + usec 50
    let gap := match src.next with
      | none => 0
      | some n => (x.tag + 256 - n) % 256
    let rows : List (Instr × Nat) := [(.ringRd f [] t, 1), (.ringWr f [] t, 2), (.ringWrb f [] t, 3), (.ringMsg f [] t, 5)]
    let runs := fun (typ : Nat) => q.ringTakes f typ ∧ ¬ seen ∧ gap = 0 ∧ src.held = []
    let moved := fun (p : Part) => (p.ringSrc x.src bcast).next = some ((x.tag + 1) % 256) ∧ (p.ringSrc x.src bcast).held = []
    let answered := fun (p : Part) (bs : List Byte) (status : Nat) =>
      (q.portOk 0 = true ∨ q.portOk 1 = true) → x.dst ≠ 127 → x.src ≠ 127 → ∃ port w, OutMsg.ring port (hdrWord
        { dst := x.src, src := q.node, epoch := q.epoch, tag := x.tag, typ := 4, cls := x.cls, len := bs.length, status := status,
          addr := x.addr, dept := deptOf q.ringNow, wrapped := w }) bs ∈ p.out
    let n := min 256 x.len
    let stored := fun (p : Part) => p.loadBytes x.addr f.payload.length = f.payload ∧
      ∀ b, ¬ (x.addr ≤ b ∧ b < x.addr + f.payload.length) → p.byte b = q.byte b
    let sram := fun (k : Nat) => inSram x.addr = true ∧ inSram (x.addr + k) = true
    (∀ e ∈ rows, q.ringTakes f e.2 → seen → Does e.1 s (fun p =>
      p.fld Reg.RING_DUPCNT 0 32 = min (2 ^ 32 - 1) (q.fld Reg.RING_DUPCNT 0 32 + 1) ∧ p.ring = q.ring ∧ p.mem = q.mem ∧
      RegsBut q p [Reg.RING_DUPCNT])) ∧
    (∀ e ∈ rows, q.ringTakes f e.2 → ¬ seen → 0 < gap → gap < 128 → Does e.1 s (fun p =>
      (p.ringSrc x.src bcast).held = src.held ++ [f] ∧ (p.ringSrc x.src bcast).next = src.next ∧ p.mem = q.mem ∧ RegsBut q p [])) ∧
    (runs 1 → sram n → (∀ b, q.poisoned b = false) → Does (.ringRd f [] t) s (fun p => moved p ∧ p.mem = q.mem ∧ RegsBut q p [] ∧
      answered p (q.loadBytes x.addr n) 0)) ∧
    (runs 1 → x.addr.testBit 40 = true → Does (.ringRd f [] t) s (fun p => moved p ∧ p.mem = q.mem ∧
      p.fld Reg.RING_ADDRERR 0 32 = min (2 ^ 32 - 1) (q.fld Reg.RING_ADDRERR 0 32 + 1) ∧ RegsBut q p [Reg.RING_ADDRERR] ∧
      answered p (List.replicate n 0) 1)) ∧
    (runs 2 → sram f.payload.length → Does (.ringWr f [] t) s (fun p => moved p ∧ stored p ∧ RegsBut q p [] ∧ answered p [] 0)) ∧
    (runs 3 → sram f.payload.length → Does (.ringWrb f [] t) s (fun p => moved p ∧ stored p ∧ RegsBut q p [] ∧
      (x.dst ≠ 127 → p.out = q.out))) ∧
    (let ok := q.bit (Reg.QUE_CFG 20) 31 = true ∧ q.queueFill 20 < q.queueSize 20
     let i := q.fld (Reg.QUE_PIDX 20) 0 16
     let k := min f.payload.length (q.fld (Reg.QUE_CFG 20) 16 8 * 16)
     (runs 5 → ok → Does (.ringMsg f [] t) s (fun p => moved p ∧ p.fld (Reg.QUE_PIDX 20) 0 16 = (i + 1) % 65536 ∧
        p.loadBytes (q.queueEntry 20 i) k = f.payload.take k ∧ RegsBut q p [Reg.QUE_PIDX 20] ∧ answered p [] 0)) ∧
     (runs 5 → ¬ ok → Does (.ringMsg f [] t) s (fun p => moved p ∧ p.mem = q.mem ∧ RegsBut q p [Reg.QUE_PIDX 20] ∧
        answered p [] 2))) ∧
    -- every request in its turn, whatever its address names, and those held behind it
    (let noted : RingSource := { src with seen := (x.tag, x.epoch, q.now) :: src.seen.filter (fun e => q.now < e.2.2 + usec 50) }
     -- a broadcast has gone on by the other port
     let w := (q.ringTake f).1
     let y := w.setRingSrc { noted with next := some ((x.tag + 1) % 256) }
     let late := w.setRingSrc noted
     let count := fun (a : NodeAnswer) => a.part.when (a.status = 1) (·.countSat Reg.RING_ADDRERR 0 32)
     let acts : List (Instr × Nat × (Part → List EccFind → Part)) := [
       (.ringRd f [] t, 1, fun r ecc => if x.dst = 127 then r.complete x { part := r, data := List.replicate n 0, status := 2 } true
         else (count (r.nodeRead .ring x.addr n ecc)).complete x (r.nodeRead .ring x.addr n ecc) true),
       (.ringWr f [] t, 2, fun r _ => (count (r.nodeWrite .ring x.addr f.payload)).complete x (r.nodeWrite .ring x.addr f.payload) false),
       (.ringWrb f [] t, 3, fun r _ => count (r.nodeWrite .ring x.addr f.payload)),
       (.ringMsg f [] t, 5, fun r _ => (r.takeMsg f.payload).part.complete x (r.takeMsg f.payload) false)]
     ∀ e ∈ acts, q.ringTakes f e.2.1 → ¬ seen → (x.dst ≠ 127 → w = q) ∧
       (gap = 0 → Does e.1 s (fun p => p = (e.2.2 y []).drainHeld x.src bcast [] src.held.length)) ∧
       (128 ≤ gap → Does e.1 s (fun p => p = e.2.2 late [])) ∧
       (∀ r ecc, r.execRequest f ecc = e.2.2 r ecc) ∧
       ∀ ecc, gap = 0 →
         (e.2.1 = 1 → Does (.ringRd f ecc t) s (fun p => p = (e.2.2 y ecc).drainHeld x.src bcast ecc src.held.length)) ∧
         (e.2.1 = 2 → Does (.ringWr f ecc t) s (fun p => p = (e.2.2 y ecc).drainHeld x.src bcast ecc src.held.length)) ∧
         (e.2.1 = 3 → Does (.ringWrb f ecc t) s (fun p => p = (e.2.2 y ecc).drainHeld x.src bcast ecc src.held.length)) ∧
         (e.2.1 = 5 → Does (.ringMsg f ecc t) s (fun p => p = (e.2.2 y ecc).drainHeld x.src bcast ecc src.held.length))) ∧
    -- completions
    (let done := fun (r : RingReq) => decide (r.dst = x.src) && decide (r.tag = x.tag) && decide (r.epoch = x.epoch)
     (q.ringTakes f 4 → x.dst ≠ 127 → (∀ r ∈ q.ring.reqs, done r = false) → Does (.ringCpl f t) s (fun p =>
        p.fld Reg.RING_LATECNT 0 32 = min (2 ^ 32 - 1) (q.fld Reg.RING_LATECNT 0 32 + 1) ∧ RegsOnly q p [Reg.RING_LATECNT])) ∧
     -- a completion of any request ends it, at its channel, module, host or queue, and lets those that waited leave
     (∀ r, q.ringTakes f 4 → x.dst ≠ 127 → q.ring.reqs.find? done = some r →
        let y := q.onRing (fun z => { z with reqs := z.reqs.filter (fun o => o ≠ r) })
        let ended : Part := match r.use with
          | .dma c => if x.status ≠ 0 then y.descDone c 6
            else if r.typ = 1 then y.beatData c (f.payload.take (((y.dmaCh c).beat.map DmaBeat.n).getD 0))
            else y.beatEnd c (((y.dmaCh c).beat.map DmaBeat.n).getD 0)
          | .module m => if x.status ≠ 0 then (if r.typ = 2 then y.setBit (Reg.CYC_RMSTAT m) 29 true else y)
            else if r.typ = 1 then y.moduleGood m (f.payload.take (((y.remote m).map CycModule.size).getD 256))
            else y.setBit (Reg.CYC_RMSTAT m) 29 false
          | .host acc i => y.hostPiece acc i (if x.status = 0 then f.payload else []) x.status
          | .hspi i => y.hspiPiece i (if x.status = 0 then f.payload else []) x.status
          | .queue e => y.produce 21 (Config.ringCompletion e x.status (if x.status = 0 ∧ r.typ = 1 then f.payload else []))
        Does (.ringCpl f t) s (fun p => p = ended.pump)) ∧
     (∀ r (m : Fin 64) y, q.ringTakes f 4 → q.ring.reqs.find? done = some r → r.use = .module m → q.remote m = some y →
        (x.status = 0 → r.typ = 1 → Does (.ringCpl f t) s (fun p => (p.remoteData m).data = f.payload.take y.size ∧
          (p.remoteData m).good = some q.ringNow ∧ p.bit (Reg.CYC_RMSTAT m) 30 = false ∧ RegsBut q p [Reg.CYC_RMSTAT m])) ∧
        (x.status = 0 → r.typ = 2 → Does (.ringCpl f t) s (fun p => p.bit (Reg.CYC_RMSTAT m) 29 = false ∧
          RegsBut q p [Reg.CYC_RMSTAT m])) ∧
        (x.status ≠ 0 → r.typ = 2 → Does (.ringCpl f t) s (fun p => p.bit (Reg.CYC_RMSTAT m) 29 = true ∧
          RegsBut q p [Reg.CYC_RMSTAT m]))))) ∧
  -- gaps and timeouts
  (∀ (src tag : Nat) (bcast : Bool) (t : Instant) (s : State), s.part.alive = true → src < 128 → tag < 256 →
    let q := s.part.at t
    let y := q.ringSrc src bcast
    let skip := Instr.tagGapSkip (BitVec.ofNat 7 src) bcast [] t
    let out := Instr.requestTimeout (BitVec.ofNat 7 src) (BitVec.ofNat 8 tag) t
    (∀ n f, y.next = some n → y.held = [f] → (hdrOf f.hdr).typ = 3 →
      let x := hdrOf f.hdr
      (4000 ≤ q.frameAge x → inSram x.addr = true → inSram (x.addr + f.payload.length) = true → Does skip s (fun p =>
        p.fld Reg.RING_GAPSKIP 0 32 = min (2 ^ 32 - 1) (q.fld Reg.RING_GAPSKIP 0 32 + 1) ∧ RegsBut q p [Reg.RING_GAPSKIP] ∧
        p.loadBytes x.addr f.payload.length = f.payload ∧ (p.ringSrc src bcast).held = [] ∧
        (p.ringSrc src bcast).next = some ((x.tag + 1) % 256))) ∧
      (q.frameAge x < 4000 → Does skip s (fun p => p = q))) ∧
    -- the held request that comes first in tag order, and those it lets run
    (∀ n f, y.next = some n → f ∈ y.held → (∀ g ∈ y.held, g = f ∨ (tagOf f + 256 - n) % 256 < (tagOf g + 256 - n) % 256) →
      (q.frameAge (hdrOf f.hdr) < 4000 → Does skip s (fun p => p = q)) ∧
      (4000 ≤ q.frameAge (hdrOf f.hdr) → ∀ ecc, Does (.tagGapSkip (BitVec.ofNat 7 src) bcast ecc t) s (fun p =>
        p = ((q.setRingSrc { y with next := some (tagOf f) }).countSat Reg.RING_GAPSKIP 0 32).drainHeld src bcast ecc y.held.length))) ∧
    (y.next = none ∨ y.held = [] → Does skip s (fun p => p = q)) ∧
    (let late := fun (r : RingReq) => decide (r.dst = src) && decide (r.tag = tag) && decide (r.left + usec 50 ≤ t)
     ((∀ r ∈ s.part.ring.reqs, late r = false) → Idles out s) ∧
     (∀ r, s.part.ring.reqs.find? late = some r →
        let z := q.onRing (fun w => { w with reqs := w.reqs.filter (fun o => o ≠ r) })
        let ended : Part := match r.use with
          | .dma c => z.descDone c 6
          | .module m => if r.typ = 2 then z.setBit (Reg.CYC_RMSTAT m) 29 true else z
          | .host acc i => z.hostPiece acc i [] 5
          | .hspi i => z.hspiPiece i [] 5
          | .queue e => z.produce 21 (Config.ringCompletion e 5 [])
        Does out s (fun p => p = ended.pump)) ∧
     (∀ r (m : Fin 64), s.part.ring.reqs.find? late = some r → r.use = .module m → r.typ = 2 → Does out s (fun p =>
        p.bit (Reg.CYC_RMSTAT m) 29 = true ∧ RegsBut s.part p [Reg.CYC_RMSTAT m])) ∧
     (∀ r i a, s.part.ring.reqs.find? late = some r → r.use = .hspi i → s.part.ring.hspi = some a → a.left = 1 → a.status = 0 →
        Does out s (fun p => p.ring.hspi = none ∧ p.ring.hspiStatus = 5 ∧ p.bit Reg.HOST_ERR 30 = true ∧
          p.fld Reg.HOST_ERR 0 4 = 5)))) ∧
  -- PCIe
  (∀ (bar2 : Bool) (addr : BitVec 34) (n : Nat) (data : List Byte) (t : Instant) (s : State), s.part.alive = true →
    let q := s.part.at t
    let node := (hostWindow bar2 addr.toNat).1
    let o := (hostWindow bar2 addr.toNat).2
    let a := 0x10000000 + (o - 0x1000000)
    let fits := fun (k : Nat) => q.bit Reg.HOST_LINK 31 = true ∧ 1 ≤ k ∧ addr.toNat % 4096 + k ≤ 4096
    let sram := fun (k : Nat) => 0x1000000 ≤ o ∧ o + k ≤ 0x1800000
    let read := Instr.hostPcieRead bar2 addr n [] t
    let write := Instr.hostPcieWrite bar2 addr data t
    let asked := fun (p : Part) (typ len : Nat) (bs : List Byte) => p.ring.hostCount = q.ring.hostCount + 1 ∧
      ∃ r ∈ p.ring.waits ++ p.ring.reqs, r.use = .host q.ring.hostCount 0 ∧ r.typ = typ ∧ r.cls = 3 ∧ r.dst = node ∧ r.addr = a ∧
        r.len = len ∧ r.data = bs
    (¬ fits n ∨ 512 < n → Does read s (fun p => p = q)) ∧
    (fits n → n ≤ 512 → sram n → q.isSelf node = true → (∀ b, q.poisoned b = false) → Does read s (fun p =>
      p = q.send (.host (q.loadBytes a n)))) ∧
    (fits n → n ≤ 256 → sram n → q.isSelf node = false → q.bit Reg.RING_STAT 30 = true → Does read s (fun p =>
      asked p 1 ((n + 3) / 4 * 4) [])) ∧
    (fits n → n ≤ 512 → sram n → q.isSelf node = false → q.bit Reg.RING_STAT 30 = false → Does read s (fun p =>
      p.bit Reg.HOST_ERR 28 = true ∧ p.out = .host (List.replicate n 0) :: q.out ∧ p.mem = q.mem)) ∧
    -- whatever the window names
    (let acc := fun (w : Bool) (k : Nat) (la : Nat) =>
       ({ addr := (if q.isSelf node then 0 else node) * 2 ^ 41 + la, write := w, data := List.replicate k 0 } : HostAcc)
     (∀ ecc la, fits n → n ≤ 512 → windowAddr o = some la →
       let read := Instr.hostPcieRead bar2 addr n ecc t
       (q.isSelf node = true →
         let y := q.nodeRead .host la n ecc
         Does read s (fun p => p = y.part.hostDone { acc false n la with data := y.data, status := y.status })) ∧
       (q.isSelf node = false → q.bit Reg.RING_STAT 30 = false → Does read s (fun p => p = q.hostConflict (acc false n la))) ∧
       (q.isSelf node = false → q.bit Reg.RING_STAT 30 = true →
         let l := if n ≤ 256 then [(0, n)] else [(0, 256), (256, n - 256)]
         let a0 : HostAcc := { acc false n la with id := q.ring.hostCount, left := l.length }
         let y := q.onRing (fun r => { r with hostCount := q.ring.hostCount + 1, pcie := r.pcie ++ [a0] })
         Does read s (fun p => p = l.foldl (fun p e => p.request { typ := 1, cls := 3, dst := node, addr := la + e.1, len := (e.2 + 3) / 4 * 4, data := [], use := .host q.ring.hostCount e.1 }) y))) ∧
     (∀ la, fits data.length → data.length ≤ 256 → windowAddr o = some la →
       (q.isSelf node = true →
         let y := q.nodeWrite .host la data
         Does write s (fun p => p = y.part.hostDone { acc true data.length la with data := [], status := y.status })) ∧
       (q.isSelf node = false → q.bit Reg.RING_STAT 30 = false → Does write s (fun p => p = q.hostConflict (acc true data.length la))) ∧
       (q.isSelf node = false → q.bit Reg.RING_STAT 30 = true →
         let a0 : HostAcc := { acc true data.length la with id := q.ring.hostCount, left := 1 }
         let y := q.onRing (fun r => { r with hostCount := q.ring.hostCount + 1, pcie := r.pcie ++ [a0] })
         Does write s (fun p => p = y.request { typ := 2, cls := 3, dst := node, addr := la, len := data.length, data := data, use := .host q.ring.hostCount 0 }))) ∧
     (fits n → n ≤ 512 → windowAddr o = none → Does read s (fun p =>
        p.out = .host (List.replicate n 0) :: q.out ∧ p.mem = q.mem ∧ (q.isSelf node = true → p.bit Reg.SYS_DECERR 0 = true))) ∧
     (fits data.length → data.length ≤ 256 → windowAddr o = none → Does write s (fun p =>
        p.out = q.out ∧ p.mem = q.mem ∧ (q.isSelf node = true → p.bit Reg.SYS_DECERR 0 = true)))) ∧
    (256 < data.length → Idles write s) ∧
    (data.length ≤ 256 → ¬ fits data.length → Does write s (fun p => p = q)) ∧
    (fits data.length → data.length ≤ 256 → sram data.length → q.isSelf node = true → Does write s (fun p =>
      p.loadBytes a data.length = data ∧ RegsBut q p [] ∧ p.out = q.out ∧
      ∀ b, ¬ (a ≤ b ∧ b < a + data.length) → p.byte b = q.byte b)) ∧
    (fits data.length → data.length ≤ 256 → sram data.length → q.isSelf node = false → q.bit Reg.RING_STAT 30 = true →
      Does write s (fun p => asked p 2 data.length data))) ∧
  -- the host SPI port
  (∀ (addr : BitVec 48) (n : Fin 64) (ws : List Word) (t : Instant) (s : State), s.part.clk.held = none →
    let q := s.part.at t
    let a := addr.toNat % 2 ^ 41
    let mine := addr.toNat / 2 ^ 41 = 0
    let busy := q.ring.hspi ≠ none
    let write := Instr.hspiWrite addr ws t
    let read := Instr.hspiRead addr n [] t
    let ok := 1 ≤ ws.length ∧ ws.length ≤ 64
    let refused := fun (p : Part) => p.ring = { q.ring with hspiErr := true } ∧ p.mem = q.mem ∧ RegsBut q p [Reg.HOST_LINK]
    (¬ ok → Idles write s) ∧ (ok → busy → Does write s refused) ∧ (busy → Does read s refused) ∧
    (ok → ¬ busy → mine → inSram a = true → inSram (a + 4 * ws.length) = true → Does write s (fun p =>
      p.loadBytes a (4 * ws.length) = ws.flatMap (fun w => bytesOf 4 w.toNat) ∧ p.ring.hspiStatus = 0 ∧ p.ring.hspiErr = false ∧
      p.bit Reg.HOST_LINK 23 = true ∧ RegsBut q p [Reg.HOST_LINK])) ∧
    (¬ busy → mine → inSram a = true → inSram (a + 4 * (n.val + 1)) = true → (∀ b, q.poisoned b = false) → Does read s (fun p =>
      p.ring.hspiWords = (List.range (n.val + 1)).map (fun i => q.loadWord (a + 4 * i)) ∧ p.ring.hspiStatus = 0 ∧
      p.bit Reg.HOST_LINK 23 = true ∧ p.mem = q.mem ∧ RegsBut q p [Reg.HOST_LINK])) ∧
    -- wherever the address lies
    (let node := addr.toNat / 2 ^ 41
     let y := (if q.bit Reg.HOST_LINK 23 = true then q else (q.setBit Reg.HOST_LINK 23 true).irq 61).onRing
       (fun x => { x with hspiErr := false })
     let acc := fun (w : Bool) (k : Nat) => ({ addr := addr.toNat, write := w, data := List.replicate k 0, left := 1 } : HostAcc)
     let bs := ws.flatMap (fun w => bytesOf 4 w.toNat)
     let len := 4 * ws.length
     let rlen := 4 * (n.val + 1)
     let one := q.bit Reg.RING_STAT 30 = true
     (ok → ¬ busy →
       (q.isSelf node = true →
         let z := y.nodeWrite .host a bs
         Does write s (fun p => p = z.part.hspiDone { acc true len with data := [], status := z.status })) ∧
       (one → q.isSelf node = false → node ≤ 64 → a.testBit 40 = false → Does write s (fun p =>
         p = (y.onRing (fun r => { r with hspi := some (acc true len) })).request
           { typ := 2, cls := 3, dst := node, addr := a, len := len, data := bs, use := .hspi 0 })) ∧
       (one → node = 127 → a.testBit 40 = false → q.isSelf node = false → Does write s (fun p =>
         p = ((y.request { typ := 3, cls := 3, dst := 127, addr := a, len := len, data := bs, use := .hspi 0 }).busWrite .host a
           bs).hspiDone { acc true len with data := [] })) ∧
       (¬ one → q.isSelf node = false → Does write s (fun p => ∃ st < 16, p.ring.hspiStatus = st ∧ p.mem = y.mem ∧
         p.ring.reqs = y.ring.reqs ∧ p.ring.waits = y.ring.waits ∧ p.out = y.out ∧ p.bit Reg.HOST_ERR 28 = true)) ∧
       (one → q.isSelf node = false → (65 ≤ node ∧ node ≤ 126) ∨ a.testBit 40 = true →
         Does write s (fun p => p = y.hspiDone { acc true len with status := 1 }))) ∧
     (¬ busy →
       (q.isSelf node = true → ∀ ecc,
         let z := y.nodeRead .host a rlen ecc
         Does (.hspiRead addr n ecc t) s (fun p => p = z.part.hspiDone { acc false rlen with data := z.data, status := z.status })) ∧
       (one → q.isSelf node = false → node ≤ 64 → a.testBit 40 = false → ∀ ecc, Does (.hspiRead addr n ecc t) s (fun p =>
         p = (y.onRing (fun r => { r with hspi := some (acc false rlen) })).request
           { typ := 1, cls := 3, dst := node, addr := a, len := rlen, data := [], use := .hspi 0 })))) ∧
    Does (.hspiStatus t) s (fun p => ∃ w, p.out = .hspi [w] :: q.out ∧ bitAt w 31 = q.ring.hspi.isSome ∧
      bitAt w 30 = q.ring.hspiErr ∧ bits w 16 4 = q.ring.hspiStatus % 16 ∧
      (¬ busy → q.ring.hspiWords.length ≤ 64 → bits w 0 7 = q.ring.hspiWords.length) ∧ RegsBut q p [Reg.HOST_LINK]) ∧
    Does (.hspiData t) s (fun p => p.out = .hspi q.ring.hspiWords :: q.out ∧ RegsBut q p [Reg.HOST_LINK]))

/-- R306, R307, R312, R315, R320 to R325, R329 to R331: links and the state that a ring shares. -/
def Obligations.LinksAndStatus : Prop :=
  (∀ (port : Fin 2) (lane : Fin 3) (errs : Nat) (t : Instant) (s : State), s.part.alive = true →
    let p0 := s.part
    let st := Reg.RING_PSTAT port.val
    let she := Reg.RING_SHERR port.val
    let map := p0.fld st 20 2
    let used := if lane = 2 then map ≠ 0 else map ≠ lane.val + 1
    let moves := p0.bit Reg.RING_CFG 30 = true ∧ map = 0 ∧ lane.val < 2 ∧ p0.bit st 26 = true
    let shown := fun (p : Part) => p.bit st (24 + lane.val) = false ∧
      (p.reg she).toNat = min (2 ^ 32 - 1) ((p0.reg she).toNat + errs)
    (¬ used → Does (.ringLaneFail port lane errs) s (fun p => shown p ∧ RegsOnly p0 p [st, she])) ∧
    (used → moves → Does (.ringLaneFail port lane errs) s (fun p => shown p ∧ (port.val, lane.val) ∈ p.ring.swapDue ∧
      RegsBut p0 p [st, she])) ∧
    (used → ¬ moves → Does (.ringLaneFail port lane errs) s (fun p => shown p ∧ p.bit st 19 = true ∧ p.bit Reg.RING_EVT 9 = true ∧
      p.ring = p0.ring ∧ RegsBut p0 p [st, she, Reg.RING_EVT])) ∧
    (let due := p0.ring.swapDue.find? (fun e => e.1 = port.val)
     (due = none → Idles (.ringLaneSwap port t) s) ∧
     (due = some (port.val, lane.val) → lane.val < 2 → p0.bit st 26 = true → map = 0 → Does (.ringLaneSwap port t) s (fun p =>
        p.fld st 20 2 = lane.val + 1 ∧ p.bit Reg.RING_EVT 8 = true ∧ p.bit Reg.SPARE_EVT 1 = true ∧
        p.bit Reg.HOST_STATUS_LO 4 = true ∧ p.rsvLog.head?.map (fun e => (e.cls, e.unit, e.rsv, e.cause)) =
          some (4, 2 * port.val + lane.val, 4 + port.val, 1) ∧ (port.val, lane.val) ∉ p.ring.swapDue)) ∧
     (due = some (port.val, lane.val) → p0.bit st 26 = false ∨ map ≠ 0 → Does (.ringLaneSwap port t) s (fun p =>
        p.bit st 19 = true ∧ p.bit Reg.RING_EVT 9 = true ∧ RegsBut p0 p [st, Reg.RING_EVT]))) ∧
    Does (.hopReplay port errs) s (fun p => RegsOnly p0 p [Reg.RING_REPLAY port.val] ∧
      (p.reg (Reg.RING_REPLAY port.val)).toNat = min (2 ^ 32 - 1) ((p0.reg (Reg.RING_REPLAY port.val)).toNat + errs)) ∧
    -- links
    (p0.bit st 31 = false → Idles (.linkDown port t) s) ∧
    (p0.bit st 31 = true → Does (.linkDown port t) s (fun p => p.bit st 31 = false ∧ p.bit st 30 = true ∧
      p.bit Reg.RING_STAT 27 = true ∧ p.bit Reg.RING_EVT 7 = true ∧ OutMsg.notice (.broken (p0.linkNode port)) ∈ p.out ∧
      (p0.linkNode port ≠ 0 → p0.linkNode port ∈ p.ring.cuts) ∧ RegsBut p0 p [st, Reg.RING_STAT, Reg.RING_EVT])) ∧
    (let up := p0.bit st 31 = true ∧ p0.bit st 30 = true ∧ ∃ e, p0.ring.upAt.find? (fun e => e.1 = port.val) = some e ∧ e.2 + msec 1 ≤ t
     (¬ up → Idles (.linkHeal port t) s) ∧
     (up → Does (.linkHeal port t) s (fun p => p.bit st 30 = false ∧ p.bit Reg.RING_EVT 6 = true ∧
        (∀ m, m ∈ p.ring.cuts ↔ m ≠ p0.linkNode port ∧ m ∈ p0.ring.cuts) ∧
        OutMsg.notice (.heal (p0.linkNode port) (p0.at t).ringNow) ∈ p.out)))) ∧
  -- host ports, the switch of a promenade, ring reset
  (∀ (pcie : Option (Fin 8 × Fin 16)) (lowest : Bool) (east west : BitVec 3) (t : Instant) (s : State), s.part.alive = true →
    let q := s.part.at t
    let hspi := q.bit Reg.HOST_LINK 23
    let node1 := lowest && (pcie.isSome || hspi)
    let started := fun (p : Part) => p.ring.prom = true ∧ p.bit Reg.RING_STAT 29 = true ∧ p.ring.replies = [] ∧
      OutMsg.prom (.start p.ring.promEpoch) ∈ p.out
    let cleared := fun (p : Part) => p.ring.reqs = [] ∧ p.ring.waits = [] ∧ p.ring.tags = [] ∧ p.ring.cuts = [] ∧ p.ring.bar = none ∧
      p.ring.retrain = true ∧ p.bit Reg.RING_BARSTAT 31 = false ∧ ∀ y < 2, p.bit (Reg.RING_PSTAT y) 31 = false
    Does (.hostPortLive pcie lowest t) s (fun p => p.bit Reg.HOST_LINK 31 = pcie.isSome ∧
      (∀ e, pcie = some e → p.fld Reg.HOST_LINK 28 3 = e.1 ∧ p.fld Reg.HOST_LINK 24 4 = e.2) ∧
      p.bit Reg.HOST_LINK 22 = node1 ∧ p.bit Reg.RING_STAT 30 = node1 ∧ p.bit Reg.TIME_STAT 28 = node1 ∧
      (node1 = true → p.fld Reg.RING_STAT 0 7 = 1 ∧ p.bit Reg.RING_STAT 31 = true ∧ p.bit Reg.RING_STAT 28 = true ∧
        (q.bit Reg.RING_STAT 30 = false → q.bit Reg.RING_CFG 31 = true → started p)) ∧
      (node1 = false → pcie.isSome = true ∨ hspi = true → p.bit Reg.HOST_ERR 28 = true)) ∧
    ((s.part.ring.switch = none ∨ ∃ w, s.part.ring.switch = some w ∧ t < w.at_) → Idles (.promenadeSwitch t) s) ∧
    (∀ w, s.part.ring.switch = some w → w.at_ ≤ t → s.part.ranged → Does (.promenadeSwitch t) s (fun p =>
      p.fld Reg.RING_STAT 0 7 = w.addr % 128 ∧ p.bit Reg.RING_STAT 31 = decide (w.addr ≠ 0) ∧
      p.fld Reg.RING_STAT 12 4 = w.epoch % 16 ∧ p.fld Reg.RING_STAT 16 7 = w.nodes % 128 ∧ p.bit Reg.RING_STAT 29 = false ∧
      p.bit Reg.RING_BARSTAT 31 = false ∧ p.ring.prom = false ∧ p.ring.switch = none ∧ p.ring.east = w.east ∧
      p.ring.nodes = w.nodes ∧ p.ring.bar = none ∧ p.bit Reg.RING_EVT 5 = true ∧ (w.addr = 0 → p.bit Reg.RING_EVT 3 = true) ∧
      (∀ k < 8, (s.part.op k).code = 0x0C → s.part.opState k = 2 → p.opState k = 3))) ∧
    (s.part.bit Reg.RING_STAT 30 = false → Idles (.ringReset t) s) ∧
    (s.part.bit Reg.RING_STAT 30 = true → s.part.ranged → Does (.ringReset t) s (fun p => cleared p ∧ .notice .reset ∈ p.out)) ∧
    (s.part.ring.retrain = false → Idles (.ringRetrainComplete east west t) s) ∧
    (s.part.ring.retrain = true → Does (.ringRetrainComplete east west t) s (fun p => p.ring.retrain = false ∧
      (∀ y < 2, p.fld (Reg.RING_PSTAT y) 24 3 = (if y = 0 then east else west).toNat ∧
        p.bit (Reg.RING_PSTAT y) 31 = decide ((if y = 0 then east else west) ≠ 0) ∧ p.fld (Reg.RING_PSTAT y) 19 3 = 0) ∧
      (s.part.bit Reg.RING_STAT 30 = true → started p)))) ∧
  -- ring time
  (∀ (port : Fin 2) (dly : BitVec 24) (lanes : BitVec 3) (farm : Bool) (d : Int) (t : Instant) (s : State), s.part.alive = true →
    let q := s.part.at t
    let st := Reg.RING_PSTAT port.val
    let i := Instr.timeOrderedSet port dly lanes farm d t
    let silent := ∀ y < 2, ∀ e, s.part.ring.tos.find? (fun e => e.1 = y) = some e → e.2 + usec 10 ≤ t
    let lost := silent ∧ s.part.bit Reg.RING_STAT 28 = true ∧ s.part.bit Reg.RING_STAT 30 = false
    (lanes = 0 → Idles i s) ∧
    (lanes ≠ 0 → Does i s (fun p => p.reg (Reg.RING_DLY port.val) = dly.setWidth 32 ∧ p.fld st 24 3 = lanes.toNat ∧
      p.bit st 31 = true ∧ p.cap.farm = farm ∧ p.ring.tos.find? (fun e => e.1 = port.val) = some (port.val, t) ∧
      (p.bit (Reg.RING_PSTAT 0) 29 = !p.bit (Reg.RING_PSTAT 1) 29) ∧
      (q.bit st 31 = true ∨ q.bit Reg.RING_STAT 31 = true → p.out = q.out) ∧
      (q.bit st 31 = false → q.bit Reg.RING_STAT 31 = false → p.out = .notice .joined :: q.out) ∧
      (p.bit st 29 = true → q.bit Reg.RING_STAT 28 = true → q.bit Reg.RING_STAT 30 = false → q.followed p d) ∧
      (p.bit st 29 = false ∨ q.bit Reg.RING_STAT 28 = false ∨ q.bit Reg.RING_STAT 30 = true → p.time = q.time ∧ p.now = q.now))) ∧
    (lost → Does (.timeLoss t) s (fun p => p.bit Reg.RING_STAT 28 = false ∧ p.bit Reg.TIME_STAT 27 = false ∧
      p.bit Reg.TIME_STAT 26 = false ∧ p.fld Reg.SYS_STATUS 29 3 = 7 ∧ p.bit Reg.RING_EVT 1 = true ∧ p.time.slewAt = none ∧
      p.time.off = q.time.off ∧ RegsBut q p [Reg.RING_STAT, Reg.TIME_STAT, Reg.SYS_STATUS, Reg.RING_EVT])) ∧
    (¬ lost → Idles (.timeLoss t) s)) ∧
  -- HOST_STATUS and snapshots
  (∀ (v : Word) (t : Instant) (s : State), s.part.alive = true →
    let q := s.part.at t
    let st := Reg.HOST_STATUS_LO
    let n := q.hostStatus
    let same := q.ring.statusAt ≠ 0 ∧ q.now < q.ring.statusAt + nsec 100
    let seq := (q.fld Reg.HOST_STATUS_HI 16 16 + if same then 0 else 1) % 65536
    Does (.hostFlagclr v) s (fun p => (∀ k < 3, p.bit st (4 + k) = (s.part.bit st (4 + k) && !bitAt v (4 + k))) ∧
      p.bit st 7 = (s.part.bit st 7 && (!bitAt v 7 || s.part.faultStands)) ∧ RegsOnly { s.part with ring := p.ring } p [st]) ∧
    (n / 2 ^ 40 = q.node ∧ n / 2 ^ 36 % 16 = q.epoch ∧ n / 2 ^ 32 % 16 = q.role ∧ n / 2 ^ 24 % 256 = q.hostMode % 256 ∧
      n / 2 ^ 16 % 256 = q.grade % 256 ∧ (∀ k < 8, n.testBit (8 + k) = decide (q.opState k = 1 ∨ q.opState k = 2)) ∧
      n / 16 % 16 = q.fld st 4 4 ∧ n.testBit 1 = q.bit Reg.CYC_STAT 27) ∧
    (n = q.ring.status → Does (.hostStatusChange t) s (fun p => p = q)) ∧
    (n ≠ q.ring.status → Does (.hostStatusChange t) s (fun p => p.fld Reg.HOST_STATUS_HI 16 16 = seq ∧ p.ring.status = n ∧
      (q.bit Reg.RING_STAT 30 = true → p.load 0x107FF000 8 = seq * 2 ^ 48 + n ∧ p.out = q.out ∧ p.bit Reg.HOST_SUMMARY_LO 0 = true) ∧
      (q.bit Reg.RING_STAT 30 = false → p.out = .stat (BitVec.ofNat 64 (seq * 2 ^ 48 + n)) :: q.out ∧ p.mem = q.mem))) ∧
    (let w := s.part.atRing t
     let r := Reg.RING_SNAPSTAT
     let due := w.bit r 31 = true ∧ instOf (w.reg Reg.RING_SNAPT_HI).toNat (w.reg Reg.RING_SNAPT_LO).toNat ≤
       instOf (instSec w.ringNow % 2 ^ 32) (instNs w.ringNow) + nsec 1 ∧
       instOf (instSec w.ringNow % 2 ^ 32) (instNs w.ringNow) ≤
         instOf (w.reg Reg.RING_SNAPT_HI).toNat (w.reg Reg.RING_SNAPT_LO).toNat + nsec 1
     (¬ due → Does (.snapshotTake t) s (fun p => p = w)) ∧
     (due → Does (.snapshotTake t) s (fun p => p.bit r 31 = false ∧ p.bit r 30 = true ∧
        p.fld r 0 16 = (w.fld r 0 16 + 1) % 65536 ∧ p.loadWord 0x107FF400 = w.reg Reg.RING_SNAPT_LO ∧
        p.loadWord 0x107FF404 = w.reg Reg.RING_SNAPT_HI ∧ p.loadWord 0x107FF408 = BitVec.ofNat 32 ((w.fld r 0 16 + 1) % 65536) ∧
        (∀ g < 2, p.loadWord (0x107FF418 + 4 * g) = w.reg (Reg.CLE_SCNT_LO g) ∧
          ∀ k < 64, p.loadWord (0x107FF420 + 256 * g + 4 * k) = w.reg (Reg.CLE_EP g k)) ∧
        (∀ k < 28, p.loadWord (0x107FF620 + 4 * k) = w.reg (Reg.SENSE_FAST k)) ∧
        (∀ k < 4, p.loadWord (0x107FF690 + 4 * k) = w.reg (Reg.POS_COUNT k)) ∧
        (∀ c < 16, p.loadWord (0x107FF6B0 + 4 * c) = w.reg (Reg.RAMP_OUT c)) ∧
        ∀ k < 3, (p.slot k).pend.getLsbD 59 = true))))

/-- R332 to R334 and the rules of each operation. -/
def Obligations.LongOperations : Prop :=
  ∀ (k : Fin 8) (tag : Byte) (t : Instant) (s : State), s.part.alive = true →
    let p0 := s.part.at t
    let lo := Reg.OP_STATUS_LO k.val
    let hi := Reg.OP_STATUS_HI k.val
    let arg := fun (n : Nat) => p0.reg (Reg.OP_ARG k.val n)
    let rbuf := p0.pair (Reg.OP_RBUF_LO k.val)
    let rlen := p0.fld (Reg.OP_RLEN k.val) 0 24
    let state := p0.opState k
    let rows : List (Instr × Nat) := [(.imageVerify k tag t, 1), (.imageActivate k tag t, 2), (.figureExchange k tag t, 3),
      (.recordRead k tag t, 4), (.admittanceScan k tag t, 5), (.bist k tag t, 6), (.scrub k tag t, 7), (.calWrite k tag t, 8),
      (.healthReport k tag t, 9), (.attest k tag t, 10), (.reserveSwap k tag t, 11), (.promenade k tag t, 12),
      (.safetyConfig k tag t, 13)]
    let failed := fun (p : Part) (gerr err : Nat) => p.opState k = 4 ∧ p.fld lo 24 4 = gerr ∧ p.fld hi 16 8 = err
    let works := fun (p : Part) (gerr err : Nat) => p.opState k = 2 ∧ (p.op k).facts = [gerr, err]
    let gives := fun (i : Instr) (bs : List Byte) (P : Part → Prop) =>
      (p0.opBufOk k 0 = false → Does i s (fun p => failed p 2 0)) ∧
      (p0.opBufOk k 0 = true → bs.length ≤ rlen → Does i s (fun p => works p 0 0 ∧ P p ∧ p.fld lo 0 24 = bs.length ∧
        p.loadBytes rbuf bs.length = bs)) ∧
      (p0.opBufOk k 0 = true → rlen < bs.length → Does i s (fun p => failed p 6 0 ∧ p.fld lo 0 24 = rlen ∧
        p.loadBytes rbuf rlen = bs.take rlen))
    let free := state = 0 ∧ (∀ j < 8, p0.opState j ≠ 2) ∧ (p0.cg .A).exch = none ∧ (p0.cg .B).exch = none ∧
      ∀ n < 8, p0.laneState n ≠ 5
    -- asking
    (state ≠ 0 → ∀ e ∈ rows, Does e.1 s (fun p => p.bit Reg.HOST_ERR 29 = true ∧ p.ops = p0.ops ∧ RegsBut p0 p [Reg.HOST_ERR])) ∧
    (state = 0 → ∀ j < 8, p0.opState j = 2 → (p0.op j).res = some (resOf 7 (bits (arg 0) 0 1)) → Does (.scrub k tag t) s (fun p =>
      p.opState k = 1 ∧ (p.op k).code = 7 ∧ p.fld hi 24 8 = tag.toNat ∧ RegsBut p0 p [lo, hi])) ∧
    -- an operation starts at once unless its resource is held; else it waits
    (let begun := fun (code : Nat) =>
       let g := (arg 0).toNat % 2
       let args := (List.range 4).map arg ++ [p0.reg (Reg.CLE_XSRC g), p0.reg (Reg.CLE_XTIME_LO g), p0.reg (Reg.CLE_XTIME_HI g)]
       let y := (p0.irq 60).setOp k { code := code, args := args, order := p0.opCount }
       ({ y with opCount := p0.opCount + 1 } : Part).setReg lo (BitVec.ofNat 32 (2 ^ 28)) |>.setReg hi
         (BitVec.ofNat 32 (tag.toNat * 2 ^ 24))
     let runs := fun (code : Nat) => ((begun code).setOp k { (begun code).op k with res := (begun code).opResource k, facts := [] }).setOpState k 2
     let starts := fun (code : Nat) => state = 0 ∧ (begun code).opBlocked k = false
     (∀ e ∈ rows, state = 0 → (begun e.2).opBlocked k = true → Does e.1 s (fun p => p = begun e.2)) ∧
     -- RECORD_READ of a closed record whose result does not touch a capture area in use
     (∀ r, starts 4 →
       let q := runs 4
       let len := q.fld (Reg.OP_RLEN k.val) 0 24
       let clear := ∀ u < 2, q.capOn u = true → 0x30000000 + (capRegion q.reg u).2 ≤ rbuf ∨ rbuf + len ≤ 0x30000000 + (capRegion q.reg u).1
       q.record? (arg 0) = some r → clear →
       let at_ := if r.buf.isSome then r.addr else r.emram.getD r.addr
       let n := if bitAt (arg 1) 0 then 256 + 224 * (bits (q.loadWord (at_ + 8)) 0 6 + 1) else r.size
       Does (.recordRead k tag t) s (fun p => p = (q.onRecord (arg 0) (fun r =>
         { r with holds := k.val :: r.holds.filter (fun s => s ≠ k.val) })).opGives k (q.loadBytes at_ n))) ∧
     -- ADMITTANCE_SCAN on the group that runs the grid figure, A first
     (∀ g : Grp, starts 5 → (runs 5).groupRuns g = true → (runs 5).gridRuns g = true →
       (g = .B → (runs 5).groupRuns .A = false ∨ (runs 5).gridRuns .A = false) →
       scanFault ((runs 5).scanWords g) ((runs 5).reg (Reg.CLE_INJAMAX g.ix)) = none → p0.opBufOk k 0 = true →
       Does (.admittanceScan k tag t) s (fun p => p = (runs 5).scanStart g (some k.val) (runs 5).now)) ∧
     -- BIST of any units, none of which is in service
     (starts 6 → p0.opBufOk k 0 = true →
       (∀ n < 32, bitAt (arg 1) n = true → ∃ c, (runs 6).bistUnit (arg 0).toNat (n + if (arg 0).toNat = 6 then 24 else 0) = some (false, c)) →
       Does (.bist k tag t) s (fun p => p = (runs 6).setOp k { (runs 6).op k with facts := [0, 0] })) ∧
     (starts 6 → (∀ n < 32, bitAt (arg 1) n = true → ((runs 6).bistUnit (arg 0).toNat (n + if (arg 0).toNat = 6 then 24 else 0)).isSome = true) →
       (∃ n < 32, bitAt (arg 1) n = true ∧ ∃ c, (runs 6).bistUnit (arg 0).toNat (n + if (arg 0).toNat = 6 then 24 else 0) = some (true, c)) →
       Does (.bist k tag t) s (fun p => p = (runs 6).opFail k 7 5)) ∧
     -- RESERVE_SWAP of a unit in service by a reserve that may take its place, class by class
     (∀ r, starts 11 →
       let q := runs 11
       let cls := bits (arg 0) 24 8
       let u := bits (arg 0) 8 8
       let retire := bitAt (arg 1) 0
       q.swapReserve cls u (bits (arg 0) 0 8) = .ok r → q.swapServes cls u = true → (cls = 1 → q.laneState u = 1) →
       q.swapBlocked cls u = false →
       let done : Part := match cls with
         | 1 => q.startLoad (q.laneGrp u) { lane := r, unit := u, cause := 5, leaving := some retire, slot := some k.val }
         | 2 => (q.pairExchange u 5 retire).opDone k
         | 3 => (q.pllSwap 5 retire).opDone k
         | 4 => (((q.setFld (Reg.RING_PSTAT (u / 2)) 20 2 (u % 2 + 1)).ringEvt 8).noteSwap 4 u r 5).swapDone 4 u (some k.val)
         | 5 => q.setSdRsv (r - 24) { q.sdRsv (r - 24) with req := some (0, some k.val) }
         | 6 => q.gateSwapStart (r - 48) 5 (some k.val) q.now
         | _ => q.protMap (r - 12) (BitVec.ofNat 32 (2 ^ 31 + u)) q.now
       Does (.reserveSwap k tag t) s (fun p => p = done)) ∧
     -- FIGURE_EXCHANGE of a sound image, at once or for a ring time, with or without the waiting set
     (starts 3 →
       let q := runs 3
       let g : Grp := if bitAt (arg 0) 0 then .B else .A
       let src := p0.reg (Reg.CLE_XSRC g.ix)
       let ns := p0.reg (Reg.CLE_XTIME_LO g.ix)
       let sc := p0.reg (Reg.CLE_XTIME_HI g.ix)
       let fig := bits src 0 1
       let coef := decide (bits src 4 2 = 1)
       let img := q.readImage (figSlotBase fig)
       let y := (q.setReg (Reg.CLE_XSTAT g.ix) 0).setFld (Reg.CLE_XSTAT g.ix) 16 16 (bits (imgWord img 8) 0 16)
       let now := decide (ns = 0 ∧ sc = 0)
       let next := if coef then y else y.onCg g (·.withImage img)
       arg 0 >>> 1 = 0 → arg 1 = 0 → arg 2 = 0 → arg 3 = 0 → bits src 4 2 < 2 → ns.toNat < 1000000000 →
       y.figSigned fig = true → bits (imgWord img 0x0C) 0 8 = 0xB1 → loaderCheck img coef (q.tsUnits g) = none →
       (coef = true → (y.cg g).loaded = true) → (now = true ∨ y.exchLate g (q.ringFull sc.toNat ns.toNat) = false) →
       (bitAt src 8 = true → next.unitCheck [.cle g] (.cle g) = none) →
       let x : Exchange := { img := img, coefOnly := coef, at? := if now then none else some (q.ringFull sc.toNat ns.toNat),
                             commit := if bitAt src 8 then some (y.snapOf (.cle g)) else none, op := some k.val, fig := fig }
       let z := (y.loadFigure g img coef).onCg g (fun c => { c with exch := some x })
       Does (.figureExchange k tag t) s (fun p =>
         p = (((z.setFld (Reg.CLE_XSTAT g.ix) 0 4 4).measure (5 + fig) (z.figDigest fig)).gapArm g).showGroup g))) ∧
    (free →
      -- images
      (let slot := bits (arg 0) 0 1
       let e := p0.areaSigned (cycSlotBase slot) 0x800000
       let img := p0.cycImageAt slot
       let err := if p0.signedOk e.1 e.2 = false then 1 else if img.step ≠ 0xB1 then 2 else (imageFault img).getD 0
       let i := Instr.imageActivate k tag t
       let known := p0.cyc.verified.contains slot = true
       let online := bitAt (arg 1) 0 = true
       Does (.imageVerify k tag t) s (fun p => works p (if err = 0 then 0 else 7) err ∧ (slot ∈ p.cyc.verified ↔ err = 0)) ∧
       (¬ known → Does i s (fun p => failed p 2 0)) ∧
       (known → ¬ online → p0.cycRuns = true → Does i s (fun p => failed p 3 0)) ∧
       (known → ¬ online → p0.cycRuns = false → Does i s (fun p => works p 0 0 ∧ p.fld Reg.CYC_STAT 25 1 = slot)) ∧
       (known → online → p0.cyc.change ≠ none → Does i s (fun p => failed p 7 0x16)) ∧
       (known → online → p0.cyc.change = none → p0.cycRuns = false → Does i s (fun p => failed p 3 0)) ∧
       (known → online → p0.cyc.change = none → p0.cycRuns = true → slot ≠ p0.cycSlot →
         (∀ c, changeFault p0.cyc.img img = some c → Does i s (fun p => failed p 7 c ∧ p.cyc = p0.cyc)) ∧
         (changeFault p0.cyc.img img = none → Does i s (fun p => p.opState k = 2 ∧ p.cycState = 2 ∧
           p.fld Reg.CYC_IMGID 0 16 = img.id % 65536 ∧ ∃ c, p.cyc.change = some c ∧ c.img = img ∧ c.op = k.val ∧ c.window = none ∧
           c.since = p0.ringNow)))) ∧
      -- figures
      (let g : Grp := if bitAt (arg 0) 0 then .B else .A
       let src := p0.reg (Reg.CLE_XSRC g.ix)
       let fig := bits src 0 1
       let coef := decide (bits src 4 2 = 1)
       let img := p0.readImage (figSlotBase fig)
       let i := Instr.figureExchange k tag t
       let sound := arg 0 >>> 1 = 0 ∧ arg 1 = 0 ∧ arg 2 = 0 ∧ arg 3 = 0 ∧ bits src 4 2 < 2 ∧
         p0.reg (Reg.CLE_XTIME_LO g.ix) = 0 ∧ p0.reg (Reg.CLE_XTIME_HI g.ix) = 0
       (arg 1 ≠ 0 ∨ 2 ≤ bits src 4 2 → Does i s (fun p => failed p 2 0)) ∧
       (sound → p0.figSigned fig = false → Does i s (fun p => failed p 7 1 ∧ p.fld (Reg.CLE_XSTAT g.ix) 0 4 = 7 ∧
         p.fld (Reg.CLE_XSTAT g.ix) 8 8 = 1)) ∧
       (sound → p0.figSigned fig = true → bits (imgWord img 0x0C) 0 8 = 0xB1 → loaderCheck img coef (p0.tsUnits g) = none →
         (coef = true → (p0.cg g).loaded = true) → bitAt src 8 = false → p0.groupRuns g = false → Does i s (fun p =>
           p.opState k = 2 ∧ p.fld (Reg.CLE_XSTAT g.ix) 0 4 = 4 ∧ p.bit (Reg.CLE_GSTAT g.ix) 6 = true ∧
           ∃ x, (p.cg g).exch = some x ∧ x.img = img ∧ x.coefOnly = coef ∧ x.at? = none ∧ x.commit = none ∧ x.op = some k.val))) ∧
      -- records and scans
      (p0.capOn 0 = false → p0.capOn 1 = false →
        (∀ r, p0.record? (arg 0) = some r → bitAt (arg 1) 0 = false →
          gives (.recordRead k tag t) (p0.loadBytes (if r.buf.isSome then r.addr else r.emram.getD r.addr) r.size)
            (fun p => ∃ y, p.record? (arg 0) = some y ∧ k.val ∈ y.holds)) ∧
        (p0.record? (arg 0) = none → (p0.capUnit 0).rcd = none → (p0.capUnit 1).rcd = none →
          Does (.recordRead k tag t) s (fun p => failed p 7 1))) ∧
      ((∀ g, p0.groupRuns g = false ∨ p0.gridRuns g = false) → Does (.admittanceScan k tag t) s (fun p => failed p 3 0)) ∧
      (p0.groupRuns .A = true → p0.gridRuns .A = true → p0.opBufOk k 0 = true →
        (∀ e, scanFault (p0.scanWords .A) (p0.reg (Reg.CLE_INJAMAX 0)) = some e → Does (.admittanceScan k tag t) s (fun p =>
          failed p 7 (e % 256))) ∧
        (scanFault (p0.scanWords .A) (p0.reg (Reg.CLE_INJAMAX 0)) = none → Does (.admittanceScan k tag t) s (fun p =>
          p.opState k = 2 ∧ (p.cg .A).scan.run.map (·.op) = some (some k.val)))) ∧
      -- units and memories
      (∀ n < 8, arg 0 = 1 → arg 1 = BitVec.ofNat 32 (2 ^ n) → p0.opBufOk k 0 = true →
        (p0.laneState n = 4 → Does (.bist k tag t) s (fun p => works p 0 0)) ∧
        (p0.laneState n = 1 → Does (.bist k tag t) s (fun p => failed p 7 5))) ∧
      Does (.scrub k tag t) s (fun p => works p 0 0 ∧ p.fld hi 24 8 = tag.toNat ∧ RegsBut p0 p [lo, hi] ∧ p.mem = p0.mem) ∧
      (let a := (arg 0).toNat
       let pg := p0.loadBytes a 0x10000
       let word := fun (o n : Nat) => numOf ((pg.drop o).take n)
       let gen := (p0.loadWord (calBase + 0x10)).toNat
       let i := Instr.calWrite k tag t
       (a % 4096 ≠ 0 ∨ a < 0x10000000 ∨ 0x10800000 < a + 0x10000 → Does i s (fun p => failed p 2 0)) ∧
       (a % 4096 = 0 → 0x10000000 ≤ a → a + 0x10000 ≤ 0x10800000 →
         (word 0 4 ≠ 0x5456434C → Does i s (fun p => failed p 7 1)) ∧
         (word 0 4 = 0x5456434C → word 4 4 = 1 → calCrcOk pg = true → (arg 1).toNat = gen → word 8 8 = p0.uid.toNat →
           Does i s (fun p => works p 0 0 ∧ p.health.calStaged = true ∧
             p.loadWord (calStage + 0x10) = BitVec.ofNat 32 (gen + 1) ∧ p.loadBytes calStage 0x10 = pg.take 0x10)))) ∧
      -- reports
      gives (.healthReport k tag t) (p0.healthReport (bits (arg 0) 0 2)) (fun _ => True) ∧
      gives (.attest k tag t) (p0.attest ((List.range 4).flatMap (fun n => bytesOf 4 (arg n).toNat))) (fun _ => True) ∧
      -- reserves, promenade and safety configuration
      (let u := bits (arg 0) 8 8
       let st := Reg.RING_PSTAT (u / 2)
       let i := Instr.reserveSwap k tag t
       (bits (arg 0) 24 8 = 0 ∨ 7 < bits (arg 0) 24 8 → Does i s (fun p => failed p 7 1)) ∧
       (bits (arg 0) 24 8 = 4 → bits (arg 0) 0 8 = 0xFF → u < 4 → p0.fld st 20 2 = 0 → p0.unitRetired 4 (4 + u / 2) = false →
         p0.bit st 26 = true → p0.swapBlocked 4 u = false → Does i s (fun p => p.opState k = 3 ∧ p.fld st 20 2 = u % 2 + 1 ∧
           p.bit Reg.RING_EVT 8 = true ∧ p.bit Reg.SPARE_EVT 1 = true ∧
           (bitAt (arg 1) 0 = true → p.unitRetired 4 u = true)))) ∧
      (p0.bit Reg.RING_STAT 30 = true → Does (.promenade k tag t) s (fun p => p.opState k = 2 ∧ p.ring.prom = true ∧
        p.bit Reg.RING_STAT 29 = true ∧ OutMsg.prom (.start p.ring.promEpoch) ∈ p.out)) ∧
      (p0.bit Reg.RING_STAT 30 = false → Does (.promenade k tag t) s (fun p => failed p 3 0)) ∧
      (let a := (arg 0).toNat
       let bs := p0.loadBytes a (0x1000 + sigBytes)
       let tab := bs.take 0x1000
       let sto := (p0.sch 0).sto = true ∧ (p0.sch 1).sto = true
       let i := Instr.safetyConfig k tag t
       0x10000000 ≤ a → a + 0x1000 + sigBytes ≤ 0x10800000 → p0.opBufOk k 16 = true →
         (¬ sto → Does i s (fun p => failed p 7 3)) ∧
         (sto → p0.ownerSigned (sha3 tab) (bs.drop 0x1000) = false → Does i s (fun p => failed p 7 1)) ∧
         (sto → p0.ownerSigned (sha3 tab) (bs.drop 0x1000) = true → tableCrcOk tab = false → Does i s (fun p => failed p 7 2)) ∧
         (sto → p0.ownerSigned (sha3 tab) (bs.drop 0x1000) = true → tableCrcOk tab = true → tableFault (tableWords tab 1024) = none →
           16 ≤ rlen → Does i s (fun p => p.opState k = 2 ∧ p.safe.load = some (tab, k.val, t) ∧ p.fld Reg.SAFE_STAT 27 2 = 2)))) ∧
    -- waiting, cancelling, releasing
    (state ≠ 1 → Idles (.opDequeue k t) s) ∧
    (state = 1 → (∀ j < 8, j ≠ k.val → p0.opState j ≠ 1 ∧ p0.opState j ≠ 2) → (p0.op k).code = 7 → Does (.opDequeue k t) s (fun p =>
      works p 0 0 ∧ RegsBut p0 p [lo])) ∧
    (state = 1 → s.part.opBlocked k = false → (∀ j < 8, j ≠ k.val → p0.opState j ≠ 1) → Does (.opDequeue k t) s (fun p =>
      p = p0.opStart k t)) ∧
    (state = 2 → (p0.opUndo k).2 = true → Does (.opCancel k t) s (fun p => p = (p0.opUndo k).1.opFail k 4 0)) ∧
    (state ≠ 1 → state ≠ 2 → Idles (.opCancel k t) s) ∧
    (state = 1 ∨ (state = 2 ∧ (p0.op k).code = 7) → Does (.opCancel k t) s (fun p => failed p 4 0 ∧ RegsBut p0 p [lo, hi])) ∧
    (∀ c, state = 2 → (p0.op k).code = 2 → p0.cyc.change = some c → p0.ranged → Does (.opCancel k t) s (fun p => failed p 4 0 ∧
      p.cyc.change = none)) ∧
    (state ≠ 3 → state ≠ 4 → Idles (.opRelease k) s) ∧
    (state = 3 ∨ state = 4 → Does (.opRelease k) s (fun p => p.reg lo = 0 ∧ p.reg hi = 0 ∧ p.op k = {} ∧
      ∀ r ∈ p.cap.records, k.val ∉ r.holds)) ∧
    -- ends
    (∀ (fails : BitVec 32) (found : List EccFind),
      let i := Instr.longOperationComplete k fails found t
      let code := (p0.op k).code
      (state ≠ 2 ∨ (∀ a b, (p0.op k).facts ≠ [a, b]) → Idles i s) ∧
      (∀ g e, state = 2 → (p0.op k).facts = [g, e] → 0 < g → g < 16 → e < 256 → Does i s (fun p =>
        failed p g (if g = 7 then e else 0) ∧ RegsBut p0 p [lo, hi])) ∧
      (∀ e, state = 2 → (p0.op k).facts = [0, e] →
        (code ∉ [4, 6, 7, 8] → Does i s (fun p => p.opState k = 3 ∧ p.fld hi 0 16 = 65535 ∧ RegsBut p0 p [lo, hi] ∧ p.mem = p0.mem)) ∧
        (code = 4 → bitAt (p0.opArg k 1) 0 = false → bitAt (p0.opArg k 1) 1 = false → Does i s (fun p => p.opState k = 3 ∧
          ∀ r ∈ p.cap.records, r.id = p0.opArg k 0 → r.read = true)) ∧
        (code = 8 → Does i s (fun p => p.opState k = 3 ∧ p.health.calStaged = false ∧
          p.loadBytes calBase 0x10000 = p0.loadBytes calStage 0x10000)) ∧
        (let y := p0.setOp k { p0.op k with facts := [] }
         (code = 6 → Does i s (fun p => p = if (y.bistDone k fails).opState k = 2 then (y.bistDone k fails).opDone k else y.bistDone k fails)) ∧
         (code = 7 → Does i s (fun p => p = (y.scrubPass (bitAt (p0.opArg k 0) 0) found).opDone k)) ∧
         (code = 4 → Does i s (fun p =>
           let r := if bitAt (p0.opArg k 1) 0 = false then y.onRecord (p0.opArg k 0) (fun r => { r with read := true }) else y
           p = (if bitAt (p0.opArg k 1) 1 = true then r.deleteRecord (p0.opArg k 0) else r).opDone k)))))

/-- R308, R311 to R317, R320, R323 to R325, R331: frames that arrive. -/
def Obligations.RingFrames : Prop :=
  ∀ (f : RingFrame) (ecc : List EccFind) (lo hi : Word) (t at0 : Instant) (pm : PairMsg) (id : Byte) (rel last : Bool)
    (pr : PromMsg) (st : BitVec 64) (lm : LinkMsg) (s : State), s.part.alive = true →
    let x := hdrOf f.hdr
    let now := s.part.at t
    let q0 := s.part
    let rows : List (Instr × Nat × Part) := [(.ringRd f ecc t, 1, now), (.ringWr f ecc t, 2, now), (.ringWrb f ecc t, 3, now),
      (.ringCpl f t, 4, now), (.ringMsg f ecc t, 5, now), (.ringTempo f lo hi t, 8, q0), (.ringPair f pm t, 9, q0),
      (.ringBar f id rel, 10, q0), (.ringProm f pr last, 11, q0), (.ringStat f st at0, 12, q0), (.ringLink f lm, 13, q0)]
    let armed := fun (p : Part) =>
      let due := instOf hi.toNat lo.toNat ≤ instOf (instSec now.ringNow % 2 ^ 32) (instNs now.ringNow)
      (nsValid lo = false → p = now) ∧
      (nsValid lo = true → p.reg Reg.RING_SNAPT_LO = lo ∧ p.reg Reg.RING_SNAPT_HI = hi ∧
        p.bit Reg.RING_SNAPSTAT 31 = decide (¬ due) ∧ p.bit Reg.RING_SNAPSTAT 29 = decide due ∧
        (¬ due → p.bit Reg.RING_SNAPSTAT 30 = false) ∧ (due → p.bit Reg.RING_EVT 2 = true) ∧
        RegsBut q0 p [Reg.RING_SNAPT_LO, Reg.RING_SNAPT_HI, Reg.RING_SNAPSTAT, Reg.RING_EVT])
    let released := fun (p : Part) (n : Nat) => p.fld Reg.RING_BARSTAT 16 8 = n ∧
      p.fld Reg.RING_BARSTAT 0 16 = (q0.fld Reg.RING_BARSTAT 0 16 + 1) % 65536 ∧ p.ring.bar ≠ some n
    let promStarted := fun (p : Part) =>
      let e := ((if q0.ring.prom = true then q0.ring.promEpoch else q0.epoch) + 1) % 16
      p.ring.prom = true ∧ p.ring.promEpoch = e ∧ p.ring.replies = [] ∧ p.bit Reg.RING_STAT 29 = true ∧ OutMsg.prom (.start e) ∈ p.out
    -- every type
    (∀ e ∈ rows,
      let q := e.2.2
      let counts := fun (p : Part) (off : Nat) => p.fld off 0 32 = min (2 ^ 32 - 1) (q.fld off 0 32 + 1) ∧ RegsOnly q p [off]
      let hdrOk := hdrField f.hdr 0 16 = hcrc f.hdr
      let epochOk := x.epoch = q.epoch ∨ (x.typ = 11 ∧ q.bit Reg.RING_STAT 31 = false)
      let young := (deptOf q.ringNow + 2 ^ 14 - x.dept) % 2 ^ 14 ≤ 4000
      let known := x.typ ∈ ringTypes ∧ classOk x = true
      let own := x.src = q.node ∧ q.bit Reg.RING_STAT 31 = true
      let alone := x.dst = q.node ∧ x.dst ≠ 127 ∧ q.bit Reg.RING_STAT 31 = true
      let other := 1 - f.port.val
      let ends := own ∨ alone ∨ (x.dst = 127 ∧ q.portOk other = false) ∨ 127 ≤ x.hops
      let on := { x with hops := x.hops + 1 }
      (x.typ ≠ e.2.1 → x.typ ∈ ringTypes → Does e.1 s (fun p => p = q)) ∧
      (x.typ = e.2.1 ∨ x.typ ∉ ringTypes →
        (¬ hdrOk → Does e.1 s (fun p => p = q)) ∧
        (hdrOk → ¬ epochOk → Does e.1 s (fun p => counts p Reg.RING_STALECNT)) ∧
        (hdrOk → epochOk → ¬ young → Does e.1 s (fun p => counts p Reg.RING_AGEDROP)) ∧
        (hdrOk → epochOk → young → ¬ known → Does e.1 s (fun p =>
          p.fld Reg.RING_FMTERR 0 32 = min (2 ^ 32 - 1) (q.fld Reg.RING_FMTERR 0 32 + 1) ∧ p.bit Reg.RING_EVT 0 = true ∧
          RegsBut q p [Reg.RING_FMTERR, Reg.RING_EVT] ∧ ∀ k < 3, (p.slot k).pend.getLsbD 56 = true)) ∧
        (hdrOk → epochOk → young → known → f.crc.toNat ≠ frameCrc f.hdr f.payload →
          Does e.1 s (fun p => counts p (Reg.RING_CRCERR f.port.val))) ∧
        (q.ringGood f → 127 ≤ x.hops → Does e.1 s (fun p => p = q)) ∧
        (q.ringGood f → ¬ q.ringMine f →
          (ends → Does e.1 s (fun p => p = q)) ∧
          (¬ ends → q.portOk other = true → Does e.1 s (fun p => p = q.send (.ring other (hdrWord on) f.payload))) ∧
          (¬ ends → q.portOk other = false → q.portOk f.port.val = true → Does e.1 s (fun p =>
            p = q.send (.ring f.port.val (hdrWord { on with wrapped := true }) f.payload))) ∧
          (¬ ends → q.portOk other = false → q.portOk f.port.val = false → Does e.1 s (fun p => p = q))))) ∧
    -- schedules and what a PAIR frame carries
    (q0.ringTakes f 8 → Does (.ringTempo f lo hi t) s armed) ∧ Does (.snapshotArm lo hi t) s armed ∧
    (q0.ringTakes f 9 → x.dst ≠ 127 →
      (∀ k b h, pm = .heartbeat k b h → exec (.ringPair f pm t) s = exec (.memberHeartbeat k b h t) s) ∧
      (∀ b, pm = .caller b → exec (.ringPair f pm t) s = exec (.callerHeartbeat b t) s ∧
        Does (.ringPair f pm t) s (fun p => p.pair_.gradeThr = b.gradeThr ∧ p.pair_.lastCaller = t)) ∧
      (∀ k r, pm = .request k r → exec (.ringPair f pm t) s = exec (.cutinRequest k r t) s) ∧
      (∀ d, pm = .decision d → exec (.ringPair f pm t) s = exec (.cutinDecision d t) s) ∧
      (∀ m b, pm = .mirror m b → exec (.ringPair f pm t) s = exec (.mirrorFrame (.inl m) b t) s) ∧
      (∀ m, pm = .cyclic m → exec (.ringPair f pm t) s = exec (.mirrorFrame (.inr m) true t) s)) ∧
    -- barriers
    (let one := q0.bit Reg.RING_STAT 30 = true
     let all := fun (n src : Nat) => ∀ m ∈ 1 :: q0.ring.east.map (·.1), m = src ∨ (n, m) ∈ q0.ring.arrived
     (q0.ringTakes f 10 → rel = true → Does (.ringBar f id rel) s (fun p => released p id.toNat ∧
        (q0.ring.bar ≠ some id.toNat → p.ring = q0.ring) ∧ RegsBut q0 p [Reg.RING_BARSTAT])) ∧
     (q0.ringTakes f 10 → rel = false → ¬ one → Does (.ringBar f id rel) s (fun p => p.ring = q0.ring ∧ RegsBut q0 p [])) ∧
     (q0.ringTakes f 10 → rel = false → one → ¬ all id.toNat x.src → Does (.ringBar f id rel) s (fun p =>
        (id.toNat, x.src) ∈ p.ring.arrived ∧ p.ring.bar = q0.ring.bar ∧ RegsBut q0 p [])) ∧
     (q0.ringTakes f 10 → rel = false → one → all id.toNat x.src → Does (.ringBar f id rel) s (fun p =>
        released p id.toNat ∧ OutMsg.barrier id.toNat true ∈ p.out ∧ ∀ m, (id.toNat, m) ∉ p.ring.arrived)) ∧
     (¬ one ∨ ¬ all id.toNat 1 → Does (.barrierArrive id) s (fun p => p.ring.bar = some id.toNat ∧
        p.bit Reg.RING_BARSTAT 31 = true ∧ p.out = .barrier id.toNat false :: q0.out ∧ RegsBut q0 p [Reg.RING_BARSTAT])) ∧
     (one → all id.toNat 1 → Does (.barrierArrive id) s (fun p => released p id.toNat ∧ p.bit Reg.RING_BARSTAT 31 = false ∧
        p.out = .barrier id.toNat true :: .barrier id.toNat false :: q0.out))) ∧
    -- promenades
    (q0.ringTakes f 11 →
      let one := q0.bit Reg.RING_STAT 30 = true
      (∀ e, pr = .start e → (one → Does (.ringProm f pr last) s (fun p => p.ring = q0.ring ∧ RegsBut q0 p [])) ∧
        (¬ one → Does (.ringProm f pr last) s (fun p => p.ring.prom = true ∧ p.ring.promEpoch = e ∧ p.ring.switch = none ∧
          p.bit Reg.RING_STAT 29 = true ∧ OutMsg.prom (.reply q0.uid (if f.port = 1 then some (x.hops + 1) else none)
            (if f.port = 0 then some (x.hops + 1) else none)) ∈ p.out ∧ RegsBut q0 p [Reg.RING_STAT]))) ∧
      (∀ u a b, pr = .reply u a b → one → q0.ring.prom = true →
        let rs := q0.ring.replies.filter (fun y => y.uid ≠ u) ++ [{ uid := u, east := a, west := b }]
        (last = false → Does (.ringProm f pr last) s (fun p => p.ring = { q0.ring with replies := rs } ∧ RegsBut q0 p [])) ∧
        (last = true → Does (.ringProm f pr last) s (fun p => ∃ addrs east,
          OutMsg.prom (.assign q0.ring.promEpoch addrs east (q0.ringNow + msec 1)) ∈ p.out ∧
          p.ring.switch = some { addr := 1, epoch := q0.ring.promEpoch, nodes := addrs.length + 1, east := east,
                                 at_ := q0.ringNow + msec 1 } ∧
          addrs.map (·.1) = (promOrder rs).map (·.uid) ∧ (∀ y ∈ addrs, y.2 ≤ 64) ∧
          (∀ y ∈ addrs, ∀ z ∈ addrs, y.2 = z.2 → y.2 = 0 ∨ y.1 = z.1)))) ∧
      (∀ e addrs east w, pr = .assign e addrs east w → ¬ one → q0.ring.prom = true → e = q0.ring.promEpoch →
        Does (.ringProm f pr last) s (fun p => ∃ sw, p.ring.switch = some sw ∧ sw.epoch = e ∧ sw.at_ = w ∧ sw.east = east ∧
          (∀ y, addrs.find? (fun z => z.1 = q0.uid) = some y → sw.addr = y.2) ∧
          ((∀ z ∈ addrs, z.1 ≠ q0.uid) → sw.addr = 0) ∧ RegsBut q0 p []))) ∧
    -- status and notices
    (q0.ringTakes f 12 →
      let a := 0x107FF000 + 16 * (x.src - 1)
      (q0.bit Reg.RING_STAT 30 = true → 1 ≤ x.src → x.src ≤ 64 → Does (.ringStat f st at0) s (fun p =>
        p.load a 8 = st.toNat ∧ p.loadWord (a + 8) = BitVec.ofNat 32 (instNs at0) ∧ p.loadWord (a + 12) = BitVec.ofNat 32 (instSec at0) ∧
        p.pair Reg.HOST_SUMMARY_LO = q0.pair Reg.HOST_SUMMARY_LO ||| 2 ^ (x.src - 1) ∧
        RegsBut q0 p [Reg.HOST_SUMMARY_LO, Reg.HOST_SUMMARY_LO + 4] ∧ ∀ b, ¬ (a ≤ b ∧ b < a + 16) → p.byte b = q0.byte b)) ∧
      (q0.bit Reg.RING_STAT 30 = false ∨ x.src = 0 ∨ 64 < x.src → Does (.ringStat f st at0) s (fun p =>
        p.mem = q0.mem ∧ RegsBut q0 p []))) ∧
    (q0.ringTakes f 13 →
      (∀ n, lm = .broken n → n ≠ 0 → Does (.ringLink f lm) s (fun p =>
        (∀ m, m ∈ p.ring.cuts ↔ m = n ∨ m ∈ q0.ring.cuts) ∧ p.bit Reg.RING_STAT 27 = true ∧ RegsBut q0 p [Reg.RING_STAT])) ∧
      (∀ n w, lm = .heal n w → n ∈ q0.ring.cuts → Does (.ringLink f lm) s (fun p =>
        (∀ m, m ∈ p.ring.cuts ↔ m ≠ n ∧ m ∈ q0.ring.cuts) ∧ p.bit Reg.RING_EVT 6 = true ∧
        RegsBut q0 p [Reg.RING_STAT, Reg.RING_EVT, Reg.RING_PSTAT 0, Reg.RING_PSTAT 1])) ∧
      (∀ n w, lm = .heal n w → n ∉ q0.ring.cuts → Does (.ringLink f lm) s (fun p => p.ring = q0.ring ∧ RegsBut q0 p [])) ∧
      (lm = .reset → q0.ranged → Does (.ringLink f lm) s (fun p => p.ring.reqs = [] ∧ p.ring.waits = [] ∧ p.ring.tags = [] ∧
        p.ring.cuts = [] ∧ p.ring.retrain = true ∧ p.ring.prom = q0.ring.prom ∧ p.ring.switch = none ∧
        ∀ y < 2, p.bit (Reg.RING_PSTAT y) 31 = false)) ∧
      (lm = .joined → q0.bit Reg.RING_CFG 31 = true → q0.bit Reg.RING_STAT 30 = true → Does (.ringLink f lm) s promStarted) ∧
      (lm = .joined → q0.bit Reg.RING_CFG 31 = false ∨ q0.bit Reg.RING_STAT 30 = false → Does (.ringLink f lm) s (fun p =>
        p.ring = q0.ring ∧ RegsBut q0 p [])))

/-- R350, R352 to R356, R358: the caller, and the standby's self-test. -/
def Obligations.CallerAndSelfTest : Prop :=
  ∀ (k : Fin 4) (t : Instant) (s : State), s.part.alive = true →
    let q := s.part.at t
    let on := q.callOn k
    let evt := Reg.PAIR_CALLEVT k.val
    let cst := Reg.PAIR_CALLSTAT k.val
    let thr := q.fld (Reg.PAIR_CALLCFG k.val) 0 8
    let level := q.callLevel k
    let judged := fun (a p : Part) (g : CallTrigger) =>
      let x := a.callPair k
      let stand := x.side (!a.callLevel k)
      let lost := fun (b : Bool) => a.hbMiss ≤ (x.side b).misses
      let busy := x.armed ≠ none ∨ x.moved ≠ none
      let fit := (∃ h, stand.hb = some h ∧ h.eligible = true) ∧ ¬ lost (!a.callLevel k)
      (a.callOn k = false ∨ busy → p = a) ∧
      (a.callOn k = true → ¬ busy → lost false ∧ lost true → p.bit evt 2 = true ∧ p.pair_ = a.pair_ ∧ RegsOnly a p [evt]) ∧
      (a.callOn k = true → ¬ busy → ¬ (lost false ∧ lost true) → ¬ fit → p.bit evt 3 = true ∧ RegsBut a p [evt] ∧
        (p.callPair k).again = some g ∧ (p.callPair k).armed = none) ∧
      (a.callOn k = true → ¬ busy → fit → ∃ tc grp, (p.callPair k).armed = some (tc, grp, !a.callLevel k, g) ∧
        (p.callPair k).again = none ∧ p.bit evt 0 = true ∧ p.fld cst 0 16 = (a.fld cst 0 16 + 1) % 65536 ∧ RegsBut a p [evt, cst] ∧
        (∀ b, OutMsg.pair (a.callNode k b) (.decision { tc := tc, grp := grp, side := !a.callLevel k }) ∈ p.out) ∧
        (∀ r t0, g = .request r → r.t0 = some t0 → tc = t0 + 2 * r.ts ∧ grp = r.grp) ∧
        ((∀ r, g = .request r → r.t0 = none) → grp = a.floorGrp ∧ a.ringOf t + max (x.side (a.callLevel k)).ts stand.ts ≤ tc))
    -- triggers
    (∀ r, Does (.cutinRequest k r t) s (fun p => judged q p (.request r))) ∧ Does (.callerSwap k t) s (fun p => judged q p .swap) ∧
    (∀ (b : Bool) (h : Heartbeat),
      let i := Instr.memberHeartbeat k b h t
      let old := (q.callPair k).side b
      let seen := fun (p : Part) => ((p.callPair k).side b).hb = some h ∧ ((p.callPair k).side b).misses = 0 ∧
        ((p.callPair k).side b).ts = (match old.hb with
          | some o => if o.tick < h.tick then h.tick - o.tick else old.ts
          | none => old.ts) ∧
        p.fld cst (if b then 20 else 16) 4 = 0 ∧
        (b = level → h.role = 1 → (p.callPair k).moved = none)
      let weak := b = level ∧ h.grade < thr
      (on = false → Idles i s) ∧
      (on = true → (q.callPair k).again = none → ¬ weak → Does i s (fun p => seen p ∧ RegsBut q p [cst] ∧ p.out = q.out)) ∧
      (on = true → (q.callPair k).again = none → weak → Does i s (fun p => ∃ a, seen a ∧ RegsBut q a [cst] ∧ judged a p .grade)) ∧
      (∀ g, on = true → (q.callPair k).again = some g → ¬ weak → Does i s (fun p => ∃ a, seen a ∧ RegsBut q a [cst] ∧
        (a.callPair k).again = none ∧ judged a p g))) ∧
    (∀ (b : Bool) (tick : Instant),
      let i := Instr.heartbeatMiss k b tick t
      let old := (q.callPair k).side b
      let counts := on = true ∧ old.judged < tick ∧ tick + max (old.ts / 2) (usec 7) ≤ q.ringOf t ∧ (q.callPair k).resume ≤ tick
      let missed := fun (p : Part) => (p.callPair k).side b = { old with misses := old.misses + 1, judged := tick } ∧
        p.fld cst (if b then 20 else 16) 4 = min 15 (old.misses + 1)
      let out := q.hbMiss ≤ old.misses + 1
      let both := out ∧ q.hbMiss ≤ ((q.callPair k).side (!b)).misses
      (¬ counts → Idles i s) ∧
      (counts → ¬ out ∨ (¬ both ∧ b ≠ level) → Does i s (fun p => missed p ∧ RegsBut q p [cst])) ∧
      (counts → both → Does i s (fun p => missed p ∧ p.bit evt 2 = true ∧ RegsBut q p [cst, evt])) ∧
      (counts → out → ¬ both → b = level → Does i s (fun p => ∃ a, missed a ∧ RegsBut q a [cst] ∧ judged a p .missed))) ∧
    -- the call line
    (∀ a, (q.callPair k).armed = some a → a.1 ≤ q.ringOf t + nsec 1 → q.ringOf t ≤ a.1 + nsec 1 → Does (.cutinCallChange k t) s (fun p =>
      p.callLevel k = a.2.2.1 ∧ (p.callPair k).armed = none ∧ (p.callPair k).moved = some a ∧ RegsBut q p [cst])) ∧
    ((∀ a, (q.callPair k).armed = some a → q.ringOf t + nsec 1 < a.1 ∨ a.1 + nsec 1 < q.ringOf t) → Idles (.cutinCallChange k t) s) ∧
    (∀ tc grp b g, (q.callPair k).moved = some (tc, grp, b, g) →
      let shows := fun (y fl : Bool) => ∃ h, ((q.callPair k).side y).hb = some h ∧ tc ≤ h.tick ∧ h.floor = fl
      let stays := shows b false ∧ shows (!b) true ∧ tc < q.ringOf t ∧
        ((q.callPair k).side b).tickFrom (q.ringOf t - nsec 1) ≤ q.ringOf t + nsec 1
      (stays → Does (.cutfailRestore k t) s (fun p => ∃ a, a.callLevel k = !b ∧ a.bit evt 1 = true ∧ (a.callPair k).moved = none ∧
        RegsBut q a [cst, evt] ∧ judged a p g)) ∧
      (¬ stays → Idles (.cutfailRestore k t) s)) ∧
    ((q.callPair k).moved = none → Idles (.cutfailRestore k t) s) ∧
    -- heartbeats of the caller
    (on = false ∨ (∃ a, (q.callPair k).sent = some a ∧ t < a + msec 1) → Idles (.callerHeartbeatSend k t) s) ∧
    (on = true → (∀ a, (q.callPair k).sent = some a → a + msec 1 ≤ t) → Does (.callerHeartbeatSend k t) s (fun p => ∃ c : CallerBeat, p.out = .pair (q.callNode k true) (.caller c) ::
      .pair (q.callNode k false) (.caller c) :: q.out ∧ c.k = k.val ∧ c.level = level ∧ c.gradeThr = thr ∧ c.sent = q.ringOf t ∧
      c.tc = (q.callPair k).armed.map (·.1) ∧ RegsBut q p [])) ∧
    (∀ c : CallerBeat, Does (.callerHeartbeat c t) s (fun p => p.pair_.gradeThr = c.gradeThr ∧ p.pair_.lastCaller = t ∧
      p.pair_.callerNode = c.node ∧ p.pair_.callerPair.val = c.k % 4 ∧ p.bit Reg.PAIR_STAT 25 = false ∧ RegsBut q p [Reg.PAIR_STAT])) ∧
    (let gone := (q.role = 1 ∨ q.role = 2) ∧ q.bit Reg.PAIR_STAT 25 = false ∧ q.pair_.lastCaller + msec (q.fld Reg.PAIR_CFG 8 8) ≤ t
     (gone → Does (.callerLost t) s (fun p => p.bit Reg.PAIR_STAT 25 = true ∧ p.bit Reg.PAIR_EVT 5 = true ∧
        RegsBut q p [Reg.PAIR_STAT, Reg.PAIR_EVT])) ∧
     (¬ gone → Idles (.callerLost t) s)) ∧
    (∀ d : CutDecision,
      let takes := (q.role = 1 ∨ q.role = 2) ∧ q.ringOf t + nsec 500 ≤ d.tc
      (¬ takes → Does (.cutinDecision d t) s (fun p => p = q)) ∧
      (takes → Does (.cutinDecision d t) s (fun p => p.bit Reg.PAIR_STAT 27 = true ∧ RegsBut q p [Reg.PAIR_STAT] ∧
        p.pair_.armed = some { tc := d.tc, grp := d.grp, incoming := d.side = q.bit Reg.PAIR_CFG 31 } ∧
        p.pair_.step = (if q.pair_.step = 3 then 4 else q.pair_.step)))) ∧
    -- the self-test
    (∀ (pass : Bool) (found : List EccFind),
      let i := Instr.standbySelftestStep pass found t
      let stst := Reg.PAIR_STSTAT
      (q.role ≠ 2 → Idles i s) ∧
      (q.role = 2 → q.nextTest q.pair_.step q.pair_.unit = none → Does i s (fun p => p.pair_.step = 1 ∧ p.pair_.unit = 0 ∧
        p.fld stst 0 16 = (q.fld stst 0 16 + 1) % 65536 ∧ p.fld stst 28 4 = 0 ∧ RegsBut q p [stst])) ∧
      (∀ n u, q.role = 2 → q.nextTest q.pair_.step q.pair_.unit = some (n, u) →
        let taken := fun (p : Part) => p.pair_.step = n ∧ p.pair_.unit = u + 1 ∧ p.fld stst 28 4 = n
        (n ≠ 2 → pass = true → Does i s (fun p => taken p ∧ 64 * n + u ∉ p.health.stFail ∧ p.bit Reg.PAIR_EVT 0 = q.bit Reg.PAIR_EVT 0)) ∧
        (n ≠ 2 → pass = false → Does i s (fun p => taken p ∧ 64 * n + u ∈ p.health.stFail ∧ p.bit Reg.PAIR_EVT 0 = true ∧
          p.fld stst 24 4 = n)) ∧
        (n = 1 → ∀ r, q.freeLane (q.laneGrp u) = some r → Does i s (fun p => p.pair_.heldLane = some u ∧ p.laneState r = 5 ∧
          (p.cg (q.laneGrp u)).load.map (fun y => (y.lane, y.unit, y.bist)) = some (r, u, true))) ∧
        (n = 2 → found = [] → Does i s (fun p => taken p ∧ p.fld Reg.MMU_SCRUBSTAT 0 16 = (q.fld Reg.MMU_SCRUBSTAT 0 16 + 1) % 65536 ∧
          p.fld Reg.MMU_SCRUBSTAT 16 16 = (q.fld Reg.MMU_SCRUBSTAT 16 16 + 1) % 65536 ∧ 128 + u ∉ p.health.stFail))))

/-- R339 to R348, R354, R357: what a pair member does at its lines and with its twin's frames. -/
def Obligations.FloorAndMirror : Prop :=
  ∀ (lvl : Bool) (t : Instant) (s : State), s.part.alive = true →
    let q := s.part.at t
    let x := q.pair_
    let st := Reg.PAIR_STAT
    let evt := Reg.PAIR_EVT
    let side := q.bit Reg.PAIR_CFG 31
    let released := fun (p : Part) => p.floor = false ∧ p.bit Reg.GATE_STAT 31 = false
    let completed := fun (p : Part) (tc : Instant) => p.bit evt 7 = true ∧ p.bit Reg.HOST_STATUS_LO 5 = true ∧
      p.reg Reg.PAIR_LASTCUT_LO = BitVec.ofNat 32 (instNs tc) ∧ p.reg (Reg.PAIR_LASTCUT_LO + 4) = BitVec.ofNat 32 (instSec tc) ∧
      p.pair_.armed = none ∧ p.pair_.taken = none ∧ p.pair_.cutReq = false ∧ (∀ g < 2, p.bit (Reg.CLE_GSTAT g) 7 = false) ∧
      ∃ e ∈ p.log, e.code = .cutin ∧ e.args = [tc]
    let out := ∃ a, x.armed = some a ∧ a.incoming = false ∧ a.tc ≤ q.ringOf t
    let outAt := (x.armed.map (·.tc)).getD 0
    let due := (∃ a, x.armed = some a ∧ a.tc ≤ q.ringOf t) ∨ x.taken ≠ none ∨ x.openTick ≠ none
    -- CALL_IN
    (let i := Instr.callInChange lvl t
     let ok := lvl = side
     let quiet := q.role = 4 ∨ lvl = q.bit st 29
     let yields := q.floor = true ∧ ¬ ok ∧ q.floorIn = true
     Does i s (fun p => p.bit st 29 = lvl ∧ p.bit st 28 = decide ok) ∧
     (quiet → Does i s (fun p => RegsBut q p [st] ∧ p.floor = q.floor ∧ p.role = q.role)) ∧
     (¬ quiet → out → yields → Does i s (fun p => released p ∧ p.role = 2 ∧ p.reg Reg.PAIR_ROLE &&& 0xF = 2 ∧ completed p outAt)) ∧
     (¬ quiet → out → ¬ yields → Does i s (fun p => RegsBut q p [st] ∧ p.floor = q.floor ∧ p.role = q.role)) ∧
     (¬ quiet → ¬ out → yields → Does i s (fun p => released p ∧ p.role = q.role)) ∧
     (∀ tc, ¬ quiet → ¬ out → x.taken = some tc → q.floor = true → ok → q.floorIn = false → Does i s (fun p =>
        completed p tc ∧ p.floor = true ∧ p.role = q.role)) ∧
     (¬ quiet → ¬ out → ¬ yields → ¬ due → Does i s (fun p => p.bit evt 8 = true ∧ p.floor = q.floor ∧ p.role = q.role ∧
        RegsBut q p [st, evt]))) ∧
    -- FLOOR_IN
    (let i := Instr.floorInChange lvl t
     let ok := q.permitted = true
     Does i s (fun p => p.bit st 30 = lvl) ∧
     (lvl = q.floorIn → Does i s (fun p => p.pair_ = x ∧ RegsBut q p [])) ∧
     (lvl = true → q.floorIn = false → out → q.floor = true → ¬ ok → Does i s (fun p => released p ∧ p.role = 2 ∧ completed p outAt)) ∧
     (lvl = true → q.floorIn = false → ¬ (out ∧ q.floor = true ∧ ¬ ok) → Does i s (fun p => p.floor = q.floor ∧ RegsBut q p [st] ∧
        (q.floor = true → p.pair_.both = some t))) ∧
     (∀ b, lvl = false → q.floorIn = true → x.both = some b → x.taken = none → x.openTick = none → Does i s (fun p =>
        p.pair_.both = none ∧ p.fld Reg.PAIR_OVLP 0 16 = min 0xFFFF ((t - b) / tdcStep) ∧
        p.fld Reg.PAIR_OVLP 16 16 = max (min 0xFFFF ((t - b) / tdcStep)) (q.fld Reg.PAIR_OVLP 16 16) ∧
        RegsBut q p [st, Reg.PAIR_OVLP])) ∧
     (∀ tc, lvl = false → q.floorIn = true → x.taken = some tc → q.floor = true → ok → Does i s (fun p => completed p tc)) ∧
     (lvl = false → q.floorIn = true → x.openTick ≠ none → q.floor = true → ok → Does i s (fun p => p.bit evt 1 = true ∧
        p.pair_.openTick = none))) ∧
    -- what the lines time
    (let clash := ∃ b, s.part.pair_.both = some b ∧ b + nsec 400 ≤ t
     let yes := s.part.floor = true ∧ s.part.floorIn = true ∧ clash
     (yes → Does (.floorConflict t) s (fun p => released p ∧ p.bit evt 9 = true ∧ p.pair_.taken = none ∧ p.pair_.openTick = none ∧
        p.role = q.role)) ∧
     (¬ yes → Idles (.floorConflict t) s)) ∧
    (let yes := (s.part.floor = false ∨ s.part.permitted = false) ∧
       ∃ tc, s.part.pair_.taken = some tc ∧ tc + nsec 295 ≤ s.part.ringOf t
     (yes → Does (.cutinPermitTimeout t) s (fun p => p.floor = false ∧ (s.part.floor = true → released p) ∧ p.role = 2 ∧ p.bit evt 6 = true ∧ p.pair_.armed = none ∧
        p.pair_.taken = none ∧ p.bit st 27 = false)) ∧
     (¬ yes → Idles (.cutinPermitTimeout t) s)) ∧
    (let i := Instr.openFloorRelease t
     (s.part.pair_.openTick = none → Idles i s) ∧
     (∀ t0, s.part.pair_.openTick = some t0 →
       (t < t0 + nsec 295 → Idles i s) ∧
       (t0 + nsec 295 ≤ t → q.permitted = false → Does i s (fun p => p.floor = false ∧ p.bit evt 1 = true ∧ p.pair_.openTick = none)) ∧
       (t0 + nsec 295 ≤ t → q.permitted = true → q.floorIn = false → Does i s (fun p => p.floor = q.floor ∧ p.bit evt 1 = true ∧
         p.pair_.openTick = none ∧ RegsBut q p [evt])) ∧
       (t0 + nsec 295 ≤ t → q.permitted = true → q.floorIn = true → Does i s (fun p => p = q)))) ∧
    (let at0 := q.ringFull (q.reg Reg.PAIR_OPENT_HI).toNat (q.reg Reg.PAIR_OPENT_LO).toNat
     let ignored := 1000000000 ≤ (q.reg Reg.PAIR_OPENT_LO).toNat ∨ (q.role ≠ 1 ∧ q.role ≠ 2) ∨ at0 < q.ringOf t + usec 10 ∨ x.armed ≠ none
     (ignored → Does (.pairOpen t) s (fun p => p.bit evt 10 = true ∧ p.pair_ = x ∧ RegsBut q p [evt])) ∧
     (¬ ignored → Does (.pairOpen t) s (fun p => p.pair_.openAt = some at0 ∧ p.bit st 26 = true ∧ RegsBut q p [st]))) ∧
    Does (.pairReq t) s (fun p => p.pair_.cutReq = true ∧ RegsBut q p [] ∧
      ∃ r, p.out = .pair x.callerNode (.request x.callerPair r) :: q.out ∧ r.grp = q.floorGrp ∧ r.t0 = none) ∧
    -- the partner link
    (let link := fun (p : Part) (m : Nat) => p.pair_.lanesUp = m ∧ p.bit st 23 = decide (m ≠ 0) ∧
       p.bit st 22 = decide (m = 1 ∨ m = 2) ∧ p.bit st 21 = decide (m = 0) ∧ RegsBut q p [st]
     (∀ lane : Fin 2, Does (.partnerLaneFail lane t) s (fun p => link p ((x.lanesUp &&& (3 ^^^ 2 ^ lane.val)) % 4))) ∧
     (∀ lanes : BitVec 2, Does (.partnerLinkReturn lanes t) s (fun p => link p ((x.lanesUp ||| lanes.toNat) % 4)))) ∧
    -- mirror frames
    (∀ (f : MirrorFrame) (m : CycMirror) (ok : Bool),
      let i := Instr.mirrorFrame (.inl f) ok t
      let g := f.grp
      let ours := f.fig = q.figId g ∧ q.groupRuns g = true
      let timely := f.t0 = q.ringOf (q.cg g).t0 ∧ t + nsec 100 ≤ q.nextUpdate g
      let differs := ∃ o, vget none x.own g.ix = some o ∧ { o with scnt := f.scnt } ≠ f
      let counts := fun (p : Part) (off k : Nat) => p.fld off 0 32 = min (2 ^ 32 - 1) (q.fld off 0 32 + 1) ∧ p.bit evt k = true ∧
        RegsOnly q p [off, evt]
      (s.part.role ≠ 2 → Idles i s ∧ Idles (.mirrorFrame (.inr m) ok t) s) ∧ (ok = false → Idles i s ∧ Idles (.mirrorFrame (.inr m) ok t) s) ∧
      (s.part.role = 2 → ok = true →
        (¬ ours → Does i s (fun p => counts p Reg.PAIR_MIDERR 4)) ∧
        (ours → ¬ timely → Does i s (fun p => counts p Reg.PAIR_MLATE 3)) ∧
        (ours → timely → (q.cg g).open_ = true → Does i s (fun p => vget none p.pair_.wait g.ix = some f ∧ RegsBut q p [])) ∧
        (ours → timely → (q.cg g).open_ = false → Does i s (fun p => p.reg Reg.PAIR_MCNT = q.reg Reg.PAIR_MCNT + 1 ∧
          (∀ j < 16, p.reg (Reg.CLE_SPW g.ix j) = f.spw.getD j 0) ∧ p.reg (Reg.CLE_SEQCMD g.ix) = f.seqcmd ∧
          p.reg (Reg.CLE_REGION g.ix) = f.region ∧ (p.cg g).bands = f.bands ∧ (p.cg g).fadeN = f.fadeN ∧
          vget none p.pair_.age g.ix = some 0 ∧ vget none p.pair_.wait g.ix = none ∧
          (differs → p.fld Reg.PAIR_MDIFF 0 32 = min (2 ^ 32 - 1) (q.fld Reg.PAIR_MDIFF 0 32 + 1) ∧ p.bit evt 2 = true) ∧
          (¬ differs → p.reg Reg.PAIR_MDIFF = q.reg Reg.PAIR_MDIFF))) ∧
        (m.image ≠ q.cyc.img.id → Does (.mirrorFrame (.inr m) ok t) s (fun p => counts p Reg.PAIR_MIDERR 4)) ∧
        (m.image = q.cyc.img.id → Does (.mirrorFrame (.inr m) ok t) s (fun p => RegsBut q p [] ∧ p.mem = q.mem ∧
          (∀ e ∈ m.vals, e ∈ p.cyc.mirrored) ∧ (m.task, q.ringNow) ∈ p.pair_.cyclicAt))))

/-- R361 to R366, R370 to R375: time and Ethernet. -/
def Obligations.TimeAndEthernet : Prop :=
  (∀ (v : Word) (d : Int) (t : Instant) (s : State), s.part.alive = true →
    let q := s.part.at t
    let i := Instr.servoUpdate v t
    let st := Reg.TIME_STAT
    let evt := Reg.TIME_EVT
    let one := q.bit Reg.RING_STAT 30 = true
    let lim : Int := (q.reg Reg.TIME_FMAX).toNat * pu
    let int := clampInt (-lim) lim (q.time.int + qMul (ofFp (q.reg Reg.TIME_KI)) (ofFp v))
    let y := clampInt (-lim) lim (qMul (ofFp (q.reg Reg.TIME_KP)) (ofFp v) + int)
    let below := if (fpScaled v).natAbs < (q.reg Reg.TIME_LOCKTHR).toNat * 2 ^ 149 then min 16 (q.time.below + 1) else 0
    let counted := fun (p : Part) => p.reg Reg.TIME_SRVOFS = v ∧ p.reg Reg.TIME_SRVCNT = q.reg Reg.TIME_SRVCNT + 1 ∧ p.time.last = some q.now
    -- the servo
    (q.bit Reg.TIME_CFG 31 = false → Does i s (fun p => p.reg Reg.TIME_SRVOFS = v ∧ RegsOnly q p [Reg.TIME_SRVOFS])) ∧
    (q.bit Reg.TIME_CFG 31 = true → fpFinite v = false → Does i s (fun p => p.reg Reg.TIME_SRVOFS = v ∧ p.bit evt 3 = true ∧
      RegsOnly q p [Reg.TIME_SRVOFS, evt])) ∧
    (q.bit Reg.TIME_CFG 31 = true → fpFinite v = true → ¬ one → Does i s (fun p => counted p ∧ p.fld st 29 3 = 4 ∧
      p.time.int = q.time.int ∧ RegsBut q p [Reg.TIME_SRVOFS, Reg.TIME_SRVCNT, st, evt])) ∧
    (q.bit Reg.TIME_CFG 31 = true → fpFinite v = true → one → Does i s (fun p => counted p ∧ p.time.int = int ∧ p.time.below = below ∧
      p.fld st 29 3 = (if below = 16 then 2 else 1) ∧ p.reg Reg.TIME_FADJ = wordOfInt (y * 256 / pu) ∧
      (q.fld st 29 3 = 2 → below ≠ 16 → p.bit evt 2 = true) ∧
      RegsBut q p [Reg.TIME_SRVOFS, Reg.TIME_SRVCNT, Reg.TIME_FADJ, st, evt])) ∧
    (let old := s.part.fld st 29 3
     let silent := (old = 1 ∨ old = 2) ∧ ∃ a, s.part.time.last = some a ∧ a + sec (s.part.fld Reg.TIME_CFG 8 8) ≤ t
     (silent → Does (.servoHoldover t) s (fun p => p.fld st 29 3 = 3 ∧ p.bit evt 1 = true ∧ (old = 2 → p.bit evt 2 = true) ∧
        p.time.int = (if old = 1 then 0 else q.time.int) ∧ p.time.below = 0 ∧ RegsBut q p [st, evt])) ∧
     (¬ silent → Idles (.servoHoldover t) s)) ∧
    -- ring time and local tempo
    (let may := one ∧ q.bit Reg.TIME_CFG 30 = true
     let move := (q.reg Reg.TIME_STEP_S).toInt * sec 1 + (q.reg Reg.TIME_STEP_NS).toInt * nsec 1
     (may → Does (.timeStep t) s (fun p => p.bit evt 0 = true ∧ q.followed p (q.time.off + move))) ∧
     (¬ may → Does (.timeStep t) s (fun p => p.bit evt 4 = true ∧ RegsOnly q p [evt]))) ∧
    (let held := q.bit Reg.RING_STAT 28 = false
     (held → Does (.tempoRestore d t) s (fun p => p.bit Reg.RING_STAT 28 = true ∧ p.fld Reg.SYS_STATUS 29 3 = 0 ∧ q.followed p d)) ∧
     (¬ held → Idles (.tempoRestore d t) s)) ∧
    (let near := ∃ a, s.part.time.slewAt = some a ∧
       (s.part.time.off.natAbs - 32768) * 1000000 ≤ (t - a) * s.part.fld Reg.TIME_CFG 0 8
     (near → Does (.localTempoLock t) s (fun p => q.followed p 0)) ∧ (¬ near → Idles (.localTempoLock t) s)) ∧
    Does (.timeNowRead t) s (fun p => p.bus.rdata = BitVec.ofNat 32 (instNs q.now) ∧ p.bus.rok = true ∧
      p.reg Reg.TIME_NOW_NS = BitVec.ofNat 32 (instNs q.now) ∧ p.reg Reg.TIME_NOW_SLO = BitVec.ofNat 32 (instSec q.now) ∧
      p.reg Reg.TIME_NOW_SHI = BitVec.ofNat 32 (instSec q.now / 2 ^ 32) ∧ p.reg Reg.TIME_NOW_FR = BitVec.ofNat 32 (instFr q.now) ∧
      RegsBut q p [Reg.TIME_NOW_NS, Reg.TIME_NOW_SLO, Reg.TIME_NOW_SHI, Reg.TIME_NOW_FR])) ∧
  -- ports
  (∀ (port : Fin 2) (up fault ok : Bool) (f : List Byte) (t egress : Instant) (s : State), s.part.alive = true →
    let q := s.part.at t
    let st := Reg.ETH_PSTAT port.val
    let cfg := Reg.ETH_PCFG port.val
    let evt := Reg.ETH_PEVT port.val
    let rx := Instr.ethFrameReceive port f ok t egress
    let one := fun (p : Part) (off : Nat) => p.fld off 0 32 = min (2 ^ 32 - 1) (q.fld off 0 32 + 1)
    Does (.ethLinkChange port up fault) s (fun p => p.bit st 31 = up ∧ p.bit st 30 = s.part.bit cfg 30 ∧ p.bit st 28 = fault ∧
      p.bit st 29 = (up && s.part.bit cfg 29) ∧ (s.part.bit st 31 ≠ up → p.bit evt 3 = true) ∧ RegsOnly s.part p [st, evt]) ∧
    (q.ethUp port = false → Idles rx s) ∧
    (q.ethUp port = true →
      let sound := 60 ≤ f.length ∧ f.length ≤ 1518 ∧ netNum f (typeAt f) 2 ≠ 0x8808
      let n := 25 + 2 * port.val
      let i := q.fld (Reg.QUE_PIDX n) 0 16
      let room := q.bit (Reg.QUE_CFG n) 31 = true ∧ q.queueFill n < q.queueSize n
      let buf := q.pair (Reg.ETH_RXBUF_LO port.val) % 2 ^ 40 / 2048 * 2048 + i % q.queueSize n * 0x800
      let slot := q.queueEntry n i
      let other := 1 - port.val
      (ok = false → Does rx s (fun p => one p (Reg.ETH_RXCRC port.val) ∧ RegsOnly q p [Reg.ETH_RXCRC port.val])) ∧
      (ok = true → ¬ sound → Does rx s (fun p => one p (Reg.ETH_RXDROP port.val) ∧ p.bit evt 0 = true ∧
        RegsOnly q p [Reg.ETH_RXDROP port.val, evt])) ∧
      (ok = true → sound →
        let ts : Instant := q.ringNow - psec (q.reg (Reg.ETH_PDLYRX port.val)).toNat
        let y := q.countSat (Reg.ETH_RXOK port.val) 0 32
        let z := if ptpKind f = some 2 then y.onEth (fun x => { x with pdReq := (port.val, ts) :: x.pdReq.filter (fun e => e.1 ≠ port.val) }) else y
        let l := z.learn port f
        let status := if (ptpKind f).isSome then 1 else 0
        let on := l.forward port f ts (egress - t + q.ringNow)
        (q.redMode = 1 → Does rx s (fun p => p = z.rxPrp port f ts)) ∧
        (2 ≤ q.redMode → Does rx s (fun p => p = z.rxHsr port f ts (egress - t + q.ringNow))) ∧
        (q.redMode = 0 → frameDst f = q.mac → Does rx s (fun p => p = l.deliver port f status ts)) ∧
        (∀ e, q.redMode = 0 → frameDst f ≠ q.mac → isGroup (frameDst f) = false →
          l.eth.macs.find? (fun e => e.mac = frameDst f && l.now < e.seen + sec 300) = some e → Does rx s (fun p => p = if e.port = port.val then l else on)) ∧
        (q.redMode = 0 → frameDst f ≠ q.mac →
          isGroup (frameDst f) = true ∨ l.eth.macs.find? (fun e => e.mac = frameDst f && l.now < e.seen + sec 300) = none →
          Does rx s (fun p => p = on.deliver port f status ts))) ∧
      (ok = true → sound → ptpKind f = none →
        (q.redMode = 0 → frameDst f = q.mac →
          (room → Does rx s (fun p => one p (Reg.ETH_RXOK port.val) ∧ p.fld (Reg.QUE_PIDX n) 0 16 = (i + 1) % 65536 ∧ p.out = q.out ∧
            (buf + f.length ≤ slot ∨ slot + 32 ≤ buf → p.loadBytes buf f.length = f))) ∧
          (¬ room → Does rx s (fun p => one p (Reg.ETH_RXOK port.val) ∧ one p (Reg.ETH_RXDROP port.val) ∧ p.mem = q.mem))) ∧
        (∀ e, q.redMode = 0 → frameDst f ≠ q.mac → isGroup (frameDst f) = false → frameSrc f ≠ frameDst f →
          q.eth.macs.length < 1024 → q.eth.macs.find? (fun e => e.mac = frameDst f && q.now < e.seen + sec 300) = some e →
          (e.port = port.val → Does rx s (fun p => one p (Reg.ETH_RXOK port.val) ∧ p.out = q.out ∧ p.mem = q.mem)) ∧
          (e.port = other → q.ethUp other = true → q.bit (Reg.ETH_PCFG other) 27 = false → Does rx s (fun p =>
            one p (Reg.ETH_RXOK port.val) ∧ one p (Reg.ETH_TXOK other) ∧ p.mem = q.mem ∧
            p.out = .eth other (egress - t + q.ringNow) f :: q.out))) ∧
        (q.redMode = 1 → netNum f (f.length - 2) 2 = 0x88FB → netNum f (f.length - 4) 2 = (10 + port.val) * 4096 + (f.length - 14) →
          (q.dupFind (frameSrc f) (netNum f (f.length - 6) 2)).isSome = true → Does rx s (fun p =>
            one p (Reg.ETH_RXOK port.val) ∧ one p (Reg.ETH_DUPDISC port.val) ∧ p.mem = q.mem ∧ p.out = q.out)))) ∧
    -- transmit entries
    (let n := 24 + 2 * port.val
     let i := q.fld (Reg.QUE_CIDX n) 0 16
     let a := q.queueEntry n i
     let w0 := q.loadWord a
     let frame := q.loadBytes (q.load (a + 8) 5) (bits w0 0 11)
     let tx := Instr.ethTxEntry port t
     let launch := Instr.ethLaunch port t
     let finish := fun (p : Part) (status : Nat) => p.fld (Reg.QUE_CIDX n) 0 16 = (i + 1) % 65536 ∧
       bits (p.loadWord a) 16 8 = status ∧ bitAt (p.loadWord a) 31 = false
     let sent := fun (p : Part) (status : Nat) => finish p status ∧ p.out = .eth port.val t frame :: q.out ∧
       one p (Reg.ETH_TXOK port.val)
     let plain := q.redMode = 0 ∧ q.ethUp port = true ∧ bitAt w0 29 = false
     let lt := instOf (q.load (a + 0x14) 4) (q.load (a + 0x10) 4)
     let now := instOf (instSec q.now % 2 ^ 32) (instNs q.now)
     (s.part.txHead port = none → Idles tx s ∧ Idles launch s) ∧
     (s.part.txHead port = some a →
       (q.txRefused port a = true → Does tx s (fun p => finish p 3 ∧ p.out = q.out)) ∧
       (q.txRefused port a = false → bitAt w0 28 = true → Does tx s (fun p => p = q)) ∧
       (q.txRefused port a = false → bitAt w0 28 = false → ((q.txPorts port).any q.ethUp) = true → Does tx s (fun p =>
         p = q.txSend port a 0 t)) ∧
       (q.txRefused port a = false → bitAt w0 28 = false → ((q.txPorts port).any q.ethUp) = false → Does tx s (fun p => p = q)) ∧
       (∀ n, let stamp := q.ringNow + psec (q.reg (Reg.ETH_PDLYTX port.val)).toNat
         let one := bitAt w0 29
         let step := q.bit (Reg.ETH_PCFG port.val) 28
         q.txSend port a n t = ((q.txFrame port (if (one && step) = true then q.insertStamp port frame stamp else frame) t).txDone port
           (if (one && !step) = true then 4 else n) (if (one || bitAt w0 30) = true then some stamp else none))) ∧
       (q.txRefused port a = false → bitAt w0 28 = false → plain → Does tx s (fun p => sent p 0)) ∧
       (bitAt w0 28 = false → Does launch s (fun p => p = q)) ∧
       (bitAt w0 28 = true → q.txRefused port a = false → plain →
         (now + sec 10 < lt → Does launch s (fun p => finish p 3 ∧ p.out = q.out)) ∧
         (now + nsec 8 < lt → lt ≤ now + sec 10 → Does launch s (fun p => p = q)) ∧
         (lt ≤ now + nsec 8 → now ≤ lt + nsec 8 → Does launch s (fun p => sent p 0)) ∧
         (lt + nsec 8 < now → bitAt w0 27 = true → Does launch s (fun p => finish p 2 ∧ p.out = q.out)) ∧
         (lt + nsec 8 < now → bitAt w0 27 = false → Does launch s (fun p => sent p 1 ∧ one p (Reg.ETH_TXLATE port.val) ∧
           p.bit evt 1 = true))))) ∧
    (let recent := ∃ a, s.part.eth.supAt = some a ∧ t < a + sec 2
     (s.part.redMode ≠ 1 ∨ recent → Idles (.prpSupervision t) s) ∧
     (s.part.redMode = 1 → ¬ recent → Does (.prpSupervision t) s (fun p => p.eth.supAt = some q.now ∧
        p.eth.supSeq = (q.eth.supSeq + 1) % 65536 ∧ (q.ethUp port = true → ∃ g, OutMsg.eth port.val t g ∈ p.out ∧
          g.take 12 = netBytes 6 0x01154E000100 ++ netBytes 6 q.mac)))) ∧
    (∀ mac : BitVec 48, Does (.macAgeing mac t) s (fun p => RegsOnly { q with eth := p.eth } p [] ∧ p.eth.dups = q.eth.dups ∧
      ∀ e, e ∈ p.eth.macs ↔ e ∈ q.eth.macs ∧ ¬ (e.mac = mac.toNat ∧ e.seen + sec 300 ≤ t))))

/-- R376 to R388: the recorder. -/
def Obligations.Recorder : Prop :=
  (∀ (v : Word) (t : Instant) (s : State), s.part.alive = true →
    let q := s.part.at t
    let i := Instr.capSwtrig v t
    let T := q.ringOf t
    let watches := fun (k : Nat) => q.bit (Reg.CAP_TCFG k) 31 = true ∧ q.fld (Reg.CAP_TCFG k) 0 12 = 0x420
    (bitAt v 0 = false → Does i s (fun p => p = q)) ∧
    (bitAt v 0 = true → Does i s (fun p => p.mem = q.mem ∧ ∀ j < 16,
      (watches j → p.fld (Reg.CAP_TSTAT j) 0 16 = (q.fld (Reg.CAP_TSTAT j) 0 16 + 1) % 65536 ∧
        p.reg (Reg.CAP_TTIME_LO j) = BitVec.ofNat 32 (instNs T) ∧ p.reg (Reg.CAP_TTIME_LO j + 4) = BitVec.ofNat 32 (instSec T) ∧
        p.reg (Reg.CAP_TTIME_LO j + 8) = BitVec.ofNat 32 (instFr T / 0x1400 * 0x1400)) ∧
      (¬ watches j → p.reg (Reg.CAP_TSTAT j) = q.reg (Reg.CAP_TSTAT j)))) ∧
    (∀ k < 16, ∀ u < 2, bitAt v 0 = true → (∀ j < 16, watches j ↔ j = k) → q.capOn u = true → q.bit (Reg.CAP_UCFG u) k = true →
      (q.capUnit u).buf ≠ none →
      let x := q.capUnit u
      let idx := (T + q.capTsmp u - 1) / q.capTsmp u
      (x.rcd = none → x.minIdx ≤ idx → Does i s (fun p => ∃ r, (p.capUnit u).rcd = some r ∧ r.unit = u ∧ r.trig = k ∧ r.t = T ∧
        r.trigIdx = idx ∧ r.lastIdx = idx + q.capPost u - 1 ∧ r.prot = q.bit (Reg.CAP_TCFG k) 30)) ∧
      (x.rcd = none → idx < x.minIdx → Does i s (fun p => (p.capUnit u).rcd = none)) ∧
      (∀ r, x.rcd = some r → idx ≤ r.lastIdx → r.xtrg.length < 8 → Does i s (fun p => ∃ y, (p.capUnit u).rcd = some y ∧
        y.xtrg = r.xtrg ++ [(k, T)] ∧ y.trigIdx = r.trigIdx ∧ r.lastIdx ≤ y.lastIdx)) ∧
      (∀ r, x.rcd = some r → r.lastIdx < idx → Does i s (fun p => (p.capUnit u).rcd = some r ∧ (p.capUnit u).later = x.later ++ [(k, T)])))) ∧
  -- samples and closing
  (∀ (u : Fin 2) (t : Instant) (s : State), s.part.alive = true →
    let w := s.part.atRing t
    let x := w.capUnit u
    let nch := w.capNch u
    let i := Instr.acquisitionSample u t
    let due := w.capOn u = true ∧ t % w.capTsmp u = 0
    (¬ due → Does i s (fun p => p = w)) ∧
    (due → Does i s (fun p => ∃ y, (p.capUnit u).ring.head? = some y ∧ y.idx = t / w.capTsmp u ∧ y.vals.length = nch ∧
      (∀ c < nch, let v := w.capValue (w.fld (Reg.CAP_USRC u c) 0 12)
        y.vals[c]? = some (v.1, v.2 + if fpIsNan v.1 then 16 else 0)) ∧
      (p.capUnit u).ring.tail = (if x.rcd.isSome then x.ring else x.ring.take (w.capPre u + ringSlack - 1)) ∧
      RegsBut w p [Reg.CAP_USTAT u] ∧ p.mem = w.mem)) ∧
    (let ends := ∃ r b, x.rcd = some r ∧ x.buf = some b ∧ ∃ y ∈ x.ring, y.idx = r.lastIdx
     (¬ ends → Does (.recordClose u t) s (fun p => p = w)) ∧
     (∀ r b, x.rcd = some r → x.buf = some b → (∃ y ∈ x.ring, y.idx = r.lastIdx) → x.later = [] →
       let ss := (w.recSamples u r).1 ++ (w.recSamples u r).2
       let data := ss.flatMap (fun y => y.vals.flatMap (fun v => bytesOf 4 v.1.toNat))
       let a := w.bufAddr u b
       let id := BitVec.ofNat 32 (u.val * 2 ^ 31 + x.seq % 2 ^ 24)
       Does (.recordClose u t) s (fun p => (p.capUnit u).rcd = none ∧ (p.capUnit u).seq = x.seq + 1 ∧
         (p.capUnit u).minIdx = r.lastIdx + 1 ∧ p.reg (Reg.CAP_ULAST u) = id ∧ p.bit (Reg.CAP_UEVT u) 0 = true ∧
         ((w.recSamples u r).1.length < w.capPre u → p.bit (Reg.CAP_UEVT u) 2 = true) ∧
         p.fld (Reg.CAP_USTAT u) 0 16 = (w.fld (Reg.CAP_USTAT u) 0 16 + 1) % 65536 ∧
         p.loadWord a = 0x54565243 ∧ p.loadWord (a + 4) = id ∧ p.loadWord (a + 12) = w.reg (Reg.CAP_TSMP u) ∧
         p.loadWord (a + 16) = BitVec.ofNat 32 (w.recSamples u r).1.length ∧
         p.loadWord (a + 20) = BitVec.ofNat 32 (w.recSamples u r).2.length ∧
         p.loadWord (a + 0xFC) = BitVec.ofNat 32 (crc32c (p.loadBytes a 0xFC)) ∧
         p.loadBytes (a + 256 + 224 * nch) data.length = data)))) ∧
  -- a record closes whatever has fired since, and those firings start the next one
  (∀ (u : Fin 2) (t : Instant) (s : State) (r : OpenRec) (b : Nat), s.part.alive = true →
    let w := s.part.atRing t
    let x := w.capUnit u
    x.rcd = some r → x.buf = some b → (∃ y ∈ x.ring, y.idx = r.lastIdx) →
    let a := w.bufAddr u b
    let id := BitVec.ofNat 32 (u.val * 2 ^ 31 + x.seq % 2 ^ 24)
    let ss := (w.recSamples u r).1 ++ (w.recSamples u r).2
    let data := ss.flatMap (fun y => y.vals.flatMap (fun v => bytesOf 4 v.1.toNat))
    Does (.recordClose u t) s (fun p => (p.capUnit u).seq = x.seq + 1 ∧ (p.capUnit u).minIdx = r.lastIdx + 1 ∧
      p.reg (Reg.CAP_ULAST u) = id ∧ p.bit (Reg.CAP_UEVT u) 0 = true ∧ p.loadWord a = 0x54565243 ∧ p.loadWord (a + 4) = id ∧
      p.loadBytes (a + 256 + 224 * w.capNch u) data.length = data)) ∧
  -- measurements and copies
  (∀ (id : Word) (t : Instant) (s : State), s.part.alive = true →
    let w := s.part.atRing t
    let i := Instr.measurementsDone id t
    (w.record? id = none → Does i s (fun p => p = w)) ∧
    (∀ r, w.record? id = some r →
      let a := r.addr
      let nch := bits (w.loadWord (a + 8)) 0 6 + 1
      let n := (w.loadWord (a + 0x10)).toNat + (w.loadWord (a + 0x14)).toNat
      let que := if bitAt (w.loadWord (a + 8)) 6 then 29 else 28
      (r.measured = true → Does i s (fun p => p = w)) ∧
      (r.measured = false → Does i s (fun p => (∃ y, p.record? id = some y ∧ y.measured = true) ∧
        (w.bit (Reg.QUE_CFG que) 31 = true → w.queueFill que < w.queueSize que →
          p.fld (Reg.QUE_PIDX que) 0 16 = (w.fld (Reg.QUE_PIDX que) 0 16 + 1) % 65536) ∧
        (w.bit (Reg.QUE_CFG que) 31 = false → p.loadWord (a + 0xFC) = BitVec.ofNat 32 (crc32c (p.loadBytes a 0xFC)) ∧
          ∀ c < nch, let xs := w.recChannel a nch n c
            (∀ y ∈ xs, fpFinite y = true) →
            p.loadWord (a + 256 + 224 * c) = (sampleStats xs).1 ∧ p.loadWord (a + 260 + 224 * c) = (sampleStats xs).2.1 ∧
            p.loadWord (a + 264 + 224 * c) = (sampleStats xs).2.2.1 ∧ p.loadWord (a + 268 + 224 * c) = (sampleStats xs).2.2.2)))) ∧
    (let j := Instr.recordCopyDone id
     let p0 := s.part
     (p0.record? id = none → Idles j s) ∧
     (∀ r, p0.record? id = some r →
       let ready := r.prot = true ∧ r.emram = none ∧ r.measured = true ∧ p0.nextCopy = some id
       (¬ ready → Idles j s) ∧
       (ready → p0.findExtent r.size = none → Does j s (fun p => p.bit (Reg.CAP_UEVT r.unit) 1 = true ∧
         RegsOnly p0 p [Reg.CAP_UEVT r.unit])) ∧
       (∀ a, ready → p0.findExtent r.size = some a → Does j s (fun p => (∃ y, p.record? id = some y ∧ y.emram = some a) ∧
         p.cap.records.map (·.id) = p0.cap.records.map (·.id))) ∧
       (ready → (∀ y ∈ p0.cap.records, y.emram = none) → 256 ≤ r.size → extentBytes r.size ≤ recordArea → 0x30000000 ≤ r.addr →
         r.addr + r.size ≤ 0x30800000 → Does j s (fun p => (∃ y, p.record? id = some y ∧ y.emram = some 0x22010000) ∧
           p.loadBytes 0x22010100 (r.size - 256) = p0.loadBytes (r.addr + 256) (r.size - 256) ∧
           bitAt (p.loadWord 0x22010034) 0 = true ∧ bitAt (p.loadWord (r.addr + 0x34)) 0 = true)))) ∧
    (let p0 := s.part
     let id := p0.reg Reg.CAP_RECSEL
     (p0.record? id = none → Idles .capProtect s ∧ Idles .capDelete s) ∧
     (∀ r, p0.record? id = some r →
       (r.buf = none → Idles .capProtect s) ∧
       (r.buf ≠ none → Does .capProtect s (fun p => (∃ y, p.record? id = some y ∧ y.prot = true) ∧
         bitAt (p.loadWord (r.addr + 0x34)) 3 = true ∧ p.loadWord (r.addr + 0xFC) = BitVec.ofNat 32 (crc32c (p.loadBytes r.addr 0xFC)) ∧
         RegsBut p0 p [])) ∧
       (r.holds ≠ [] → Does .capDelete s (fun p => (∃ y, p.record? id = some y ∧ y.deleting = true) ∧ p.mem = p0.mem)) ∧
       (r.holds = [] → r.unit < 2 → Does .capDelete s (fun p => p.record? id = none ∧ p.mem = p0.mem ∧
         RegsBut p0 p [Reg.CAP_EMSTAT, Reg.CAP_USTAT r.unit])))))

/-- R392 to R408: the safety channels. The slot of a table that awaits its key is one of the eight. -/
def Obligations.SafetyChannels : Prop :=
  (∀ (ch : Fin 2) (pins : BitVec 16) (cf : BitVec 8) (outs : BitVec 7) (t : Instant) (s : State), s.part.alive = true →
    (∀ e, s.part.safe.load = some e → e.2.1 < 8) →
    let q := s.part.at t
    let x := q.sch ch
    let low := fun (k : Nat) => q.safe.pulses.any (fun e => e.1 = 2 * ch.val + k && e.2 ≤ t && t < e.2 + usec 200)
    let bad := outs.toNat ≠ x.outs + (if low 0 = true then 0 else 32) + (if low 1 = true then 0 else 64)
    Does (.safetyInputSample ch pins cf outs t) s (fun p =>
      (∀ k < 16, let y := x.pin k
        let z := (p.sch ch).pin k
        let lvl := pins.getLsbD k
        let on := bitAt (q.inCfg (k / 2)) 31
        let w := q.sw (0x44 + 16 * (k / 2))
        let filt := usec (100 * bits w 0 5)
        let pulse := fun (s0 : Instant) => ∃ o, q.pinSource k = some o ∧ q.safe.pulses.find? (fun e => e.1 = o) = some (o, s0)
        (on = false → z = y) ∧
        (on = true → (¬ ∃ s0, pulse s0) → (lvl = true ∨ q.pinSource k ≠ none) →
          (lvl = y.raw → y.since + filt ≤ t → z.lvl = lvl ∧ z.known = true) ∧
          (lvl ≠ y.raw → 0 < filt → z.lvl = y.lvl ∧ z.raw = lvl ∧ z.since = t)) ∧
        (on = true → q.pinSource k = none → lvl = false → y.raw = true → t < y.low.getD t + usec (10 * bits w 8 8) →
          z = { y with low := some (y.low.getD t) }) ∧
        (∀ s0, on = true → pulse s0 → (t ≤ s0 + usec 600 → z = { y with seen := y.seen || !lvl }) ∧
          (s0 + usec 600 < t → z.test = !y.seen))) ∧
      (∀ j < 8, let a := p.pinShows (p.sch ch) (2 * j)
        let b := p.pinShows (p.sch ch) (2 * j + 1)
        let y := x.inp j
        let z := (p.sch ch).inp j
        z.disc = (if y.disc = 1 ∧ a = true ∧ b = true then 2 else if y.disc = 2 ∧ a = false ∧ b = false then 0 else y.disc) ∧
        (bitAt (q.inCfg j) 31 = true → bits (q.inCfg j) 29 2 ≠ 2 → z.apart = if a ≠ b then some (y.apart.getD t) else none)) ∧
      (∀ n < 4, let a := cf.getLsbD (2 * n)
        let b := cf.getLsbD (2 * n + 1)
        let y := x.cont n
        let z := (p.sch ch).cont n
        let fb := if bitAt (q.ctCfg n) 29 then a else !a
        (bitAt (q.ctCfg n) 31 = true → a = b → z.fb = some fb ∧
          (y.fb = some (!fb) → y.since + msec (bits (q.ctCfg n) 0 9) < t → z.spur = true ∧
            ((p.sch ch).stoDue = true ∨ (p.sch ch).sto = true))) ∧
        (bitAt (q.ctCfg n) 31 = false ∨ a ≠ b → z.fb = y.fb ∧ z.spur = y.spur)) ∧
      (¬ bad → (p.sch ch).bad = none) ∧ (bad → x.bad = none → (p.sch ch).bad = some t) ∧
      (∀ s0, bad → x.bad = some s0 → s0 + usec 300 ≤ t → q.safe.fault = false → q.safeFaulted p ch 5))) ∧
  -- cycles
  (∀ (ch : Fin 2) (selfOk : Bool) (t : Instant) (s : State), s.part.alive = true →
    (∀ e, s.part.safe.load = some e → e.2.1 < 8) →
    let q := s.part.at t
    let x := q.sch ch
    let req := q.reg Reg.SYS_SAFEREQ
    let x1 := q.lockStep { x with req := req, req1 := q.reg Reg.SYS_SAFEREQ_1, fresh := 0, cycles := x.cycles + 1,
                                  frameCycles := x.frameCycles + 1 } t
    let cause := fun (f : Nat) => f ∈ q.fns ∧ q.fnCause x1 f = true
    let m := fun (a : Nat) => q.axisMeasure ch a
    Does (.safetyCycle ch selfOk t) s (fun p => let z := p.sch ch
      z.cycles = x.cycles + 1 ∧ z.req = req ∧ z.req1 = q.reg Reg.SYS_SAFEREQ_1 ∧
      (selfOk = true → z.frame = some (p.safeFrame ch)) ∧ (selfOk = false → q.safeFaulted p ch 4) ∧
      (∀ f, cause f → z.demand.testBit f = true ∧ p.bit Reg.SAFE_STAT f = true ∧
        (x.demand.testBit f = false → bitAt (q.fnCfg f) 28 = false ∨ bits (q.fnCfg f) 24 2 = 0 ∨ x.sto = true →
          z.sto = true ∧ z.outs % 2 = 0) ∧
        (∀ a < 2, x.demand.testBit f = false → bitAt (q.fnCfg f) 28 = true → bitAt (q.fnCfg f) (24 + a) = true → x.sto = false →
          bitAt (q.axCfg a 0) 31 = true → (x.axis a).ss1 = none → z.sto = true ∨ (z.axis a).ss1 = some (t, m a))) ∧
      (∀ a < 2, ∀ t0 m0, bitAt (q.axCfg a 0) 31 = true → (x.axis a).ss1 = some (t0, m0) →
        (q.envelopeOk a (m a) m0 (t - t0) = false → z.sto = true ∧ z.outs % 2 = 0 ∧ (z.axis a).fail = true) ∧
        (q.envelopeOk a (m a) m0 (t - t0) = true → z.sto = true ∨ (z.axis a).ready =
          (fpFinite (m a) && decide (((fpScaled (m a)).natAbs : Int) ≤ fpScaled (q.axCfg a 3))))) ∧
      (∀ f ∈ q.fns, (∀ g, ¬ cause g) → bitAt req 15 = true → bitAt x.req 15 = false → bitAt (q.fnCfg f) 27 = true →
        x.demand.testBit f = true → q.fnFault x1 f = false → z.rst.testBit f = true) ∧
      (∀ f g, cause g → x.demand.testBit g = false → x.rst.testBit f = false → z.rst.testBit f = false) ∧
      (∀ n < 4, bitAt (q.ctCfg n) 30 = false → ((z.cont n).cmd = true ↔ p.safeState = false ∧ bitAt (q.ctCfg n) 31 = true ∧
        bitAt req (8 + n) = true ∧ z.sto = false ∧ (∀ f ∈ q.fnsOf n, z.demand.testBit f = false) ∧ (z.cont n).weld = false ∧
        (z.cont n).late = false ∧ (z.cont n).spur = false)) ∧
      (selfOk = true → x.sto = true → x.clear = true → x.demand = 0 → x.stoDue = false → x.lockFault = 0 →
        (∀ f, ¬ cause f) → (∀ a < 2, (x.axis a).ss1 = none) → (∀ n < 4, (x.cont n).weld = false ∧ (x.cont n).spur = false) →
        q.safeState = false → q.inputsKnown x = true → z.sto = false ∧ z.outs % 2 = 1))) ∧
  -- frames
  (∀ (ch : Fin 2) (t : Instant) (s : State), s.part.alive = true → (∀ e, s.part.safe.load = some e → e.2.1 < 8) →
    let q := s.part.at t
    let x := q.sch ch
    let me := q.safeFrame ch
    (x.got + usec 2500 ≤ t → Does (.safetyFrameLost ch t) s (fun p => q.safeFaulted p ch 2)) ∧
    (t < x.got + usec 2500 → Idles (.safetyFrameLost ch t) s) ∧
    ((q.sch (1 - ch.val)).frame = none → Does (.safetyComparisonFrame ch t) s (fun p => p = q)) ∧
    (∀ o, (q.sch (1 - ch.val)).frame = some o → Does (.safetyComparisonFrame ch t) s (fun p => let z := p.sch ch
      let differ := me.pins ≠ o.pins ∨ me.outs ≠ o.outs ∨ me.cycles + 1 < o.cycles ∨ o.cycles + 1 < me.cycles
      let apart := ∃ a < 2, bitAt (q.axCfg a 0) 31 = true ∧
        fpLe (fpAbs (fpSub (x.axis a).m (o.axes.getD a 0))) (q.axCfg a 4) = false
      let slow := 100 ≤ x.frames + 1 ∧ (x.frameCycles < 98 ∨ 102 < x.frameCycles)
      z.got = t ∧ p.reg Reg.SAFE_CMPCNT = q.reg Reg.SAFE_CMPCNT + 1 ∧
      (∀ f ∈ q.fns, o.demand.testBit f = true → o.rst.testBit f = false → x.rst.testBit f = false → z.demand.testBit f = true) ∧
      (∀ f ∈ q.fns, x.rst.testBit f = true → o.rst.testBit f = true → z.demand.testBit f = false) ∧
      (∀ a < 2, (x.axis a).ss1 ≠ none → (x.axis a).ready = true → o.ready.getD a false = true → z.stoDue = true ∨ z.sto = true) ∧
      (¬ differ → z.diffs = 0) ∧ (differ → z.diffs = x.diffs + 1) ∧ (¬ apart → z.axDiffs = 0) ∧ (apart → z.axDiffs = x.axDiffs + 1) ∧
      (me.crc ≠ o.crc ∨ (1 ≤ x.diffs ∧ differ) ∨ (1 ≤ x.axDiffs ∧ apart) → q.safeFaulted p ch 1) ∧
      (me.crc = o.crc → ¬ differ → ¬ apart → slow → q.safeFaulted p ch 3) ∧
      (me.crc = o.crc → ¬ differ → ¬ apart → ¬ slow → p.safe.fault = q.safe.fault)))) ∧
  -- pulses, and what takes its time
  (∀ (o : Fin 4) (t : Instant) (s : State), s.part.alive = true →
    let other := ∃ e ∈ s.part.safe.pulses, e.1 ≠ o.val ∧ e.2 ≤ t ∧ t < e.2 + usec 200
    (other → Idles (.testPulse o t) s) ∧
    (¬ other → Does (.testPulse o t) s (fun p =>
      p.safe.pulses = (o.val, t) :: s.part.safe.pulses.filter (fun e => e.1 ≠ o.val) ∧
      p = { s.part.at t with safe := p.safe } ∧ p.safe.cfg = s.part.safe.cfg ∧
      ∀ c < 2, ∀ k < 16, (p.sch c).pin k =
        if s.part.pinSource k = some o.val ∧ bitAt (s.part.inCfg (k / 2)) 31 = true then { (s.part.sch c).pin k with seen := false }
        else (s.part.sch c).pin k))) ∧
  (∀ (ch : Fin 2) (k : Fin 8) (t : Instant) (s : State), s.part.alive = true →
    let q := s.part
    let x := q.sch ch
    let long := ∃ s0, (x.inp k).apart = some s0 ∧ s0 + msec (bits (q.inCfg k) 0 9) < t ∧ (x.inp k).disc = 0
    (¬ long → Idles (.inputDiscrepancy ch k t) s) ∧
    (long → Does (.inputDiscrepancy ch k t) s (fun p => ((p.sch ch).inp k).disc = 1 ∧
      (bitAt (q.inCfg k) 31 = true → p.inputDemands (p.sch ch) k = true ∧ p.bit Reg.SAFE_INSTAT (24 + k.val) = true ∧
        p.bit Reg.SAFE_INSTAT (16 + k.val) = true))) ∧
    ((x.pin (2 * k.val)).press = none → Idles (.resetInput ch k t) s) ∧
    (∀ a b, (x.pin (2 * k.val)).press = some (a, b) → Does (.resetInput ch k t) s (fun p =>
      ((p.sch ch).pin (2 * k.val)).press = none ∧
      ((b < a + msec 100 ∨ a + sec 3 < b) → (p.sch ch).rst = x.rst ∧ (p.sch ch).demand = x.demand) ∧
      (a + msec 100 ≤ b → b ≤ a + sec 3 → ∀ f ∈ q.fns, bits (q.fnCfg f) 4 3 = k.val → bits (q.inCfg k) 29 2 = 2 →
        x.demand.testBit f = true → x.fresh = 0 → q.fnCause x f = false → q.fnFault x f = false →
        (p.sch ch).rst.testBit f = true)))) ∧
  (∀ (ch : Fin 2) (a : Fin 2) (t : Instant) (s : State), s.part.alive = true →
    let x := s.part.sch ch
    let due := ∃ t0 m0, (x.axis a).ss1 = some (t0, m0) ∧ t0 + fpSeconds (s.part.axCfg a 5) ≤ t
    (¬ due → Idles (.ss1Timeout ch a t) s) ∧
    (due → Does (.ss1Timeout ch a t) s (fun p => (p.sch ch).sto = true ∧ (p.sch ch).outs % 2 = 0 ∧
      ((p.sch ch).axis a).fail = true ∧ p.bit (Reg.SAFE_AXSTAT a) 28 = true ∧ p.bit Reg.SAFE_STAT 31 = true))) ∧
  (∀ (ch : Fin 2) (f : Fin 16) (t : Instant) (s : State), s.part.alive = true →
    let q := s.part
    let x := q.sch ch
    let due := ∃ e, x.unlocked.find? (fun e => e.1 = f.val) = some e ∧
      e.2 + msec (bits (q.inCfg (bits (q.fnCfg f) 8 3)) 0 9) < t ∧ x.lockFault.testBit f = false
    (¬ due → Idles (.lockfault ch f t) s) ∧
    (due → Does (.lockfault ch f t) s (fun p => (p.sch ch).stoDue = true ∧ (p.sch ch).lockFault.testBit f = true ∧
      (p.sch ch).demand.testBit f = true ∧ p.fld (Reg.SAFE_FNSTAT f) 0 8 = 0x40 ∧ p.bit (Reg.SAFE_FNSTAT f) 31 = true))) ∧
  (∀ (ch : Fin 2) (n : Fin 4) (t : Instant) (s : State), s.part.alive = true →
    let q := s.part
    let y := (q.sch ch).cont n
    let due := bitAt (q.ctCfg n) 31 = true ∧ y.since + msec (bits (q.ctCfg n) 0 9) ≤ t
    let weld := y.cmd = false ∧ y.fb = some true ∧ y.weld = false
    let late := y.cmd = true ∧ y.fb ≠ some true ∧ y.late = false
    let i := Instr.contactorFeedbackTimeout ch n t
    (¬ (due ∧ (weld ∨ late)) → Idles i s) ∧
    (due → weld ∨ late → Does i s (fun p => let z := p.sch ch
      (weld → (z.cont n).weld = true ∧ z.stoDue = true) ∧ (late → (z.cont n).late = true) ∧
      (bitAt (q.ctCfg n) 30 = false → (z.cont n).cmd = false) ∧ ∀ f ∈ q.fnsOf n, z.demand.testBit f = true))) ∧
  -- requests and the key
  (∀ (d : BitVec 16) (c : BitVec 4) (on : Bool) (s : State), s.part.alive = true →
    let r := Reg.SYS_SAFEREQ
    Does (.safereqDemand d) s (fun p => RegsOnly s.part p [r] ∧ p.fld r 16 16 = d.toNat ∧ p.fld r 0 16 = s.part.fld r 0 16) ∧
    Does (.safereqReset on) s (fun p => RegsOnly s.part p [r] ∧ p.bit r 15 = on ∧ p.fld r 16 16 = s.part.fld r 16 16 ∧
      p.fld r 0 15 = s.part.fld r 0 15) ∧
    Does (.safereqClose c) s (fun p => RegsOnly s.part p [r] ∧ p.fld r 8 4 = c.toNat ∧ p.fld r 12 20 = s.part.fld r 12 20 ∧
      p.fld r 0 8 = s.part.fld r 0 8) ∧
    Does (.safereqUnlock d) s (fun p => RegsOnly s.part p [r, Reg.SYS_SAFEREQ_1] ∧ p.fld r 0 8 = d.toNat % 256 ∧
      p.fld r 8 24 = s.part.fld r 8 24 ∧ p.fld Reg.SYS_SAFEREQ_1 0 8 = d.toNat / 256)) ∧
  (∀ (t : Instant) (s : State), s.part.alive = true → (∀ e, s.part.safe.load = some e → e.2.1 < 8) →
    let q := s.part.at t
    let held := ∀ c < 2, ∃ a b, ((q.sch c).pin q.keyPin).press = some (a, b) ∧ a + sec 1 ≤ b ∧ b ≤ a + sec 5
    (¬ held → Does (.keyAck t) s (fun p => p = q)) ∧
    (held → s.part.safe.load = none → Does (.keyAck t) s (fun p => p.safe.cfg = q.safe.cfg ∧
      ∀ c < 2, (p.sch c).sto = (q.sch c).sto ∧ (p.sch c).demand = (q.sch c).demand)) ∧
    (∀ bs k t0, held → s.part.safe.load = some (bs, k, t0) → Does (.keyAck t) s (fun p =>
      let ws := tableWords bs 144
      p.safe.cfg = some ws ∧ p.safe.load = none ∧ p.reg Reg.SAFE_CFGID = tabWord ws 8 ∧ p.reg Reg.SAFE_CRC1 = tabWord ws 0x3C ∧
      p.reg Reg.SAFE_CRC2 = tabWord ws 0x3C ∧ p.bit Reg.SAFE_STAT 29 = false ∧ p.fld Reg.SAFE_STAT 27 2 = 0 ∧
      (∀ c < 2, (p.sch c).sto = true ∧ (p.sch c).outs % 2 = 0 ∧
        ∀ f < 16, (p.sch c).demand.testBit f = bitAt (tabWord ws (0xC0 + 16 * f)) 31) ∧ p.opState k = 3 ∧
      (s.part.bit (Reg.QUE_CFG 30) 31 = false → s.part.bit (Reg.QUE_CFG 31) 31 = false → bs.length ≤ 0x10000 →
        p.loadBytes 0x23C80000 bs.length = bs ∧ p.loadBytes 0x23C90000 bs.length = bs))) ∧
    (s.part.safe.load = none → Idles (.keyTimeout t) s) ∧
    (∀ bs k t0, s.part.safe.load = some (bs, k, t0) →
      (t < t0 + sec 300 → Idles (.keyTimeout t) s) ∧
      (t0 + sec 300 ≤ t → Does (.keyTimeout t) s (fun p => p.safe = { s.part.safe with load := none } ∧
        p.fld Reg.SAFE_STAT 27 2 = 0 ∧ p.opState k = 4 ∧ p.fld (Reg.OP_STATUS_LO k) 24 4 = 7 ∧
        p.fld (Reg.OP_STATUS_HI k) 16 8 = 5 ∧
        RegsBut s.part p [Reg.SAFE_STAT, Reg.OP_STATUS_LO k, Reg.OP_STATUS_HI k]))))

/-- R413, R414, R418, R419, R426, R429: evidence, drift, enrolment and debug tokens. -/
def Obligations.ReservesAndTrust : Prop :=
  (∀ (t : Instant) (s : State), s.part.alive = true →
    let q := s.part.at t
    let h := q.health
    let n := instSec q.ringNow
    let ended := fun (k : Nat) => ∃ o, h.sampled = some o ∧ o / k ≠ n / k
    let k := q.pllServes
    let sole := h.sampled ≠ some n ∧ ¬ ended 3600 ∧ q.evidence = [(3, 0, 2)]
    (h.sampled = some n → Does (.driftEvaluation t) s (fun p => p = q)) ∧
    (h.sampled ≠ some n → Does (.driftEvaluation t) s (fun p =>
      p.health.sampled = some n ∧
      (¬ ended 86400 → p.health.daySamples = h.daySamples + 1 ∧ p.health.days = h.days ∧ p.health.dayRecs = h.dayRecs) ∧
      (ended 3600 → ∀ m < 16, ∀ d, (h.hourAcc.getD m {}).mean = some d → p.reg (Reg.SPARE_PMDRIFT m) = toFp d ∧
        (h.calBad = false → fpFinite (toFp d) = true → (q.fld Reg.SPARE_DRIFT 0 16 : Int) * 2 ^ 149 ≤ fpScaled (toFp d) * 10000 →
          p.bit Reg.SPARE_EVT 3 = true)) ∧
      (ended 86400 → p.health.daySamples = 1 ∧ p.health.dayRecs = h.dayRecs + 1 ∧
        p.health.days = ((List.range 16).map (fun m => (h.dayAcc.getD m {}).mean) :: h.days).take 365 ∧
        (q.bit (Reg.QUE_CFG 30) 31 = false → q.reg Reg.SPARE_CFG = 0 →
          p.loadBytes (dayRecord h.dayRecs) 8 = bytesOf 4 h.dayAt ++ bytesOf 4 h.daySamples)) ∧
      (∀ e ∈ p.health.evidence, e ∉ h.evidence → ∃ x ∈ p.log, x.code = .evidence ∧ x.args = [e.1, e.2.1, e.2.2]) ∧
      (q.reg Reg.SPARE_CFG = 0 → p.health.swaps = h.swaps ∧ p.health.evidence = p.evidence))) ∧
    (sole → q.bit Reg.SPARE_CFG 3 = false ∨ q.swapBlocked 3 0 = true ∨ (∃ x ∈ h.swaps, x.1 = 3 ∧ q.now < x.2 + sec 60) →
      Does (.driftEvaluation t) s (fun p => p.pllServes = k ∧ p.health.swaps = h.swaps)) ∧
    (sole → q.bit Reg.SPARE_CFG 3 = true → q.swapBlocked 3 0 = false → (∀ x ∈ h.swaps, x.1 = 3 → x.2 + sec 60 ≤ q.now) →
      q.pllReady = true → fpLt (q.reg (Reg.SPARE_PMDRIFT (12 + k))) (q.reg (Reg.SPARE_PMDRIFT (13 - k))) = false →
      q.opHolding (resRsv 3 (1 - k)) = none →
      Does (.driftEvaluation t) s (fun p => p.pllServes = 1 - k ∧ p.pllRetired k = true ∧ p.bit (Reg.CLK_PLLCFG k) 31 = false ∧
        p.reg Reg.SPARE_LAST = BitVec.ofNat 32 (3 * 2 ^ 24 + (1 - k) * 256 + 2) ∧ p.bit Reg.SPARE_EVT 1 = true ∧
        p.health.swaps = (3, q.now) :: h.swaps.filter (fun x => x.1 ≠ 3)))) ∧
  (∀ (t : Instant) (s : State), s.part.alive = true →
    let q := s.part.at t
    let second := fun (w : Word) => ∃ e, q.trust.first = some e ∧ e.1 = w ∧ t ≤ e.2 + sec 1
    let begun := fun (w : Word) (p : Part) => p = { q with trust := { q.trust with first := some (w, t) } }
    (¬ second 0x4F574E52 → Does (.ownerEnroll t) s (begun 0x4F574E52)) ∧
    (second 0x4F574E52 → Does (.ownerEnroll t) s (fun p => p.trust.first = none ∧ p.mem = q.mem ∧
      (q.trust.ownerFuse = none → p.trust.ownerFuse = some (sha3 q.ownerKey) ∧ p.trust.ownerOk = true ∧
        p.bit Reg.SEC_STAT 30 = true ∧ RegsBut q p [Reg.SEC_STAT]) ∧
      (q.trust.ownerFuse ≠ none → p.trust = { q.trust with first := none } ∧ p.bit Reg.SEC_EVT 3 = true ∧
        RegsBut q p [Reg.SEC_EVT]))) ∧
    (¬ second 0x52564B30 → Does (.vendorKeyRevoke t) s (begun 0x52564B30)) ∧
    (second 0x52564B30 → Does (.vendorKeyRevoke t) s (fun p =>
      (q.bit Reg.SEC_STAT 27 = true → p.trust = { q.trust with first := none, v0Revoked := true } ∧ p.bit Reg.SEC_STAT 29 = true ∧
        RegsBut q p [Reg.SEC_STAT] ∧ ∀ d sig, p.vendorSigned d sig ≠ some 0) ∧
      (q.bit Reg.SEC_STAT 27 = false → p = { q with trust := { q.trust with first := none } })))) ∧
  (∀ s : State, s.part.alive = true →
    let q := s.part
    let token := q.loadBytes (q.pair Reg.SEC_DBGADDR_LO % 2 ^ 40) Config.tokenLen
    let good := q.trust.ownerOk = true ∧
      Config.tokenOk q.ownerKey token q.uid (q.reg Reg.SEC_DBGNONCE_HI ++ q.reg Reg.SEC_DBGNONCE_LO) = true
    let m := sha3 (q.measBytes ++ sha3 token)
    (good → Does .debugToken s (fun p => p.bit Reg.SEC_STAT 28 = true ∧ p.mem = q.mem ∧ p.trust = q.trust ∧
      (∀ j < 16, p.reg (Reg.SEC_MEAS j) = BitVec.ofNat 32 (numOf ((m.drop (4 * j)).take 4))) ∧
      (q.measLog.length < 256 → ∃ e, p.measLog = q.measLog ++ [e] ∧ e.kind = 8 ∧ e.digest = sha3 token))) ∧
    (¬ good → Does .debugToken s (fun p => p.bit Reg.SEC_EVT 2 = true ∧ RegsOnly q p [Reg.SEC_EVT])))

/-- R425, R432 to R453: clocks, resets and supplies. -/
def Obligations.ClocksAndSupplies : Prop :=
  (∀ (k : Fin 2) (early : Nat) (t : Instant) (s : State), s.part.alive = true →
    let g := s.part.guard early
    let x := g.pll k
    let counted := fun (p : Part) => 0 < early → p.bit Reg.CLK_EVT 5 = true ∧
      (p.reg Reg.CLK_GUARDCNT).toNat = min (2 ^ 32 - 1) ((s.part.reg Reg.CLK_GUARDCNT).toNat + early)
    let on := g.bit (Reg.CLK_PLLCFG k) 31 = true ∧ g.pllRetired k = false
    -- lock
    (¬ (∃ a, x.acq = some a ∧ a ≤ t ∧ t ≤ a + usec 60) → Does (.pllLock k early t) s (fun p => p = g ∧ counted p)) ∧
    (∀ a, x.acq = some a → a ≤ t → t ≤ a + usec 60 → Does (.pllLock k early t) s (fun p => counted p ∧
      p.pllLocked k = true ∧ p.pll k = { x with acq := none, lockAt := t, fails := 0 } ∧
      (g.bypass = false ∨ g.bit Reg.CLK_STAT 24 = true → p.bypass = g.bypass ∧ p.pllServes = g.pllServes) ∧
      (g.bypass = true → g.bit Reg.CLK_STAT 24 = false →
        (k.val = 0 ∨ (g.pllLocked 0 = false ∧ g.bit (Reg.CLK_PLLCFG 0) 31 = false) → p.bypass = false ∧ p.pllServes = k) ∧
        (k.val = 1 → g.pllLocked 0 = false → g.bit (Reg.CLK_PLLCFG 0) 31 = true → p.bypass = true)))) ∧
    -- failure
    (¬ (∃ a, x.acq = some a ∧ a + usec 60 < t) → Does (.pllAcquisitionFail k early t) s (fun p => p = g ∧ counted p)) ∧
    (∀ a, x.acq = some a → a + usec 60 < t → Does (.pllAcquisitionFail k early t) s (fun p => counted p ∧
      p.bit Reg.CLK_EVT 2 = true ∧ p.pllLocked k = false ∧
      (x.fails < 2 → (p.pll k).fails = x.fails + 1 ∧ (on → (p.pll k).acq = some t) ∧ p.pllRetired k = g.pllRetired k ∧
        p.bypass = g.bypass) ∧
      (2 ≤ x.fails → (p.pll k).acq = none ∧ p.pllRetired k = true ∧ p.bit (Reg.CLK_PLLCFG k) 31 = false ∧
        p.bit Reg.CLK_EVT 4 = true ∧
        (g.pllRetired (1 - k.val) = true → g.bit Reg.CLK_STAT 24 = false → p.bypass = true ∧ p.bit Reg.CLK_STAT 24 = true)))) ∧
    -- loss of lock
    (let n := g.pllServes
     let y := g.pll n
     let again := ∃ a, y.lost = some a ∧ t ≤ a + sec 3600
     (g.bypass = true ∨ g.pllLocked n = false → Does (.pllLossOfLock early t) s (fun p => p = g ∧ counted p)) ∧
     (g.bypass = false → g.pllLocked n = true → Does (.pllLossOfLock early t) s (fun p => counted p ∧
       p.bit Reg.CLK_EVT n = true ∧ (p.pll n).lost = some t ∧ p.pllLocked n = false ∧
       (again → p.pllRetired n = true ∧ p.bit (Reg.CLK_PLLCFG n) 31 = false ∧ (p.pll n).acq = none) ∧
       (¬ again → p.pllRetired n = g.pllRetired n ∧
         (g.bit (Reg.CLK_PLLCFG n) 31 = true → g.pllRetired n = false → (p.pll n).acq = some t)) ∧
       (g.pllLocked (1 - n) = true → p.pllServes = 1 - n ∧ p.bypass = false ∧ p.bit Reg.CLK_EVT 3 = true ∧
         (p.reg Reg.CLK_MOVECNT).toNat = min (2 ^ 32 - 1) ((g.reg Reg.CLK_MOVECNT).toNat + 1) ∧
         p.reg Reg.SPARE_LAST = BitVec.ofNat 32 (3 * 2 ^ 24 + (1 - n) * 256 + 1)) ∧
       (g.pllLocked (1 - n) = false → p.bypass = true ∧ p.bit Reg.CLK_STAT 24 = true ∧ ∀ c, p.groupRuns c = false))))) ∧
  (∀ (v : Word) (mhz : BitVec 16) (t : Instant) (s : State), s.part.alive = true →
    let q := s.part
    let r := 1 - q.pllServes
    let ready := q.bypass = false ∧ q.pllLocked r = true ∧ (q.pll r).lockAt + usec 100 ≤ t
    let k := bits v 6 1
    let ok := bitAt v 7 = true ∧ q.clk.band = none ∧ (q.bit (Reg.CLK_PLLCFG k) 31 = false ∨ q.bypass = true ∨ q.pllServes ≠ k)
    let ends := ∃ a b c, q.clk.band = some (a, b, c) ∧ c + usec 10 ≤ t
    (ready → Does (.pllReserveReady t) s (fun p => p = (q.at t).setBit Reg.CLK_STAT 28 true)) ∧
    (¬ ready → Idles (.pllReserveReady t) s) ∧
    (ok → Does (.bandMeasure v t) s (fun p => p.clk = { q.clk with band := some (k, bits v 0 6, t) } ∧
      p.bit Reg.CLK_BANDMEAS 31 = false ∧ RegsBut q p [Reg.CLK_BANDMEAS])) ∧
    (¬ ok → Idles (.bandMeasure v t) s) ∧
    (ends → Does (.bandMeasureDone mhz t) s (fun p => p.clk = { q.clk with band := none } ∧
      p.reg Reg.CLK_BANDMEAS = BitVec.ofNat 32 (2 ^ 31 + mhz.toNat) ∧ RegsBut q p [Reg.CLK_BANDMEAS])) ∧
    (¬ ends → Idles (.bandMeasureDone mhz t) s)) ∧
  -- sags
  (∀ (i : Fin 13) (sram deep : Bool) (t : Instant) (s : State), s.part.alive = true →
    let q := s.part
    let old := q.droop i sram
    let new := if deep then 2 else 1
    let shown := fun (p : Part) (n : Nat) =>
      let w := min (slowLimit i) (max n (q.droop i (!sram)))
      p.droop i sram = n ∧ p.bit Reg.CLK_SLOW i = decide (0 < w) ∧ p.bit Reg.CLK_SLOW (16 + i.val) = decide (w = 2)
    let up := fun (p : Part) (r lo : Nat) (c : Prop) =>
      (c → p.fld r lo 16 = min 65535 (q.fld r lo 16 + 1)) ∧ (¬ c → p.fld r lo 16 = q.fld r lo 16)
    (new ≤ old → Idles (.supplySag i sram deep t) s) ∧
    (old < new → Does (.supplySag i sram deep t) s (fun p => shown p new ∧
      up p (Reg.CLK_ISLCNT i) 0 (old = 0) ∧ up p (Reg.CLK_ISLCNT i) 16 (deep = true) ∧
      up p Reg.PWR_SAGCNT (if sram then 16 else 0) (∀ j < 13, q.droop j sram = 0) ∧
      RegsBut q p [Reg.CLK_SLOW, Reg.CLK_ISLCNT i, Reg.PWR_SAGCNT])) ∧
    (old = 0 → Idles (.sagRecovery i sram t) s) ∧
    (old ≠ 0 → Does (.sagRecovery i sram t) s (fun p => shown p (old - 1) ∧ RegsBut q p [Reg.CLK_SLOW]))) ∧
  -- monitors
  (∀ (j : Fin 24) (top : Bool) (s : State), s.part.alive = true →
    let r := if top then Reg.MON_VMAX j else Reg.MON_VMIN j
    Does (.monVminmaxRead j top) s (fun p => p.bus.rdata = s.part.reg r ∧ p.bus.rok = true ∧
      p.reg r = s.part.reg (Reg.MON_VOLT j) ∧ RegsBut s.part p [r])) ∧
  (∀ (xs : List Word) (t : Instant) (s : State), s.part.clk.held = none →
    let q := s.part.at t
    let temp := fun (i : Nat) => q.monTrim (0x210 + 8 * i) (xs.getD i 0)
    let volt := fun (j : Nat) => q.monTrim (0x260 + 8 * j) (xs.getD j 0)
    let warm := ∃ i < 10, fpLe (q.reg Reg.MON_TWARN) (temp i) = true
    let hot := ∃ i < 10, fpLe 0x430C0000 (temp i) = true
    Does (.monitorSample .temp xs t) s (fun p =>
      (∀ i < 10, p.reg (Reg.MON_TEMP i) = temp i ∧ p.bit Reg.MON_STAT i = fpLe (q.reg Reg.MON_TWARN) (temp i) ∧
        p.reg (Reg.MON_TMAX i) =
          if q.clk.tempUp = false ∨ fpLt (q.reg (Reg.MON_TMAX i)) (temp i) = true then temp i else q.reg (Reg.MON_TMAX i)) ∧
      (p.bit Reg.MON_STAT 31 = true ↔ warm) ∧ (warm → p.bit Reg.MON_EVT 0 = true) ∧
      (hot → p.clk.hot = some (q.clk.hot.getD t)) ∧ (¬ hot → p.clk.hot = none) ∧ p.clk.tempUp = true) ∧
    Does (.monitorSample .volt xs t) s (fun p =>
      (∀ j < 24, p.reg (Reg.MON_VOLT j) = volt j ∧
        p.reg (Reg.MON_VMIN j) = (if q.clk.voltUp = false ∨ fpLt (volt j) (q.reg (Reg.MON_VMIN j)) = true then volt j
          else q.reg (Reg.MON_VMIN j)) ∧
        p.reg (Reg.MON_VMAX j) = (if q.clk.voltUp = false ∨ fpLt (q.reg (Reg.MON_VMAX j)) (volt j) = true then volt j
          else q.reg (Reg.MON_VMAX j)) ∧
        (voltSteady q.clk.banks j (volt j) = false → p.bit Reg.MON_EVT 1 = true)) ∧
      p.bit Reg.PWR_VAULT 31 = voltSteady 0 23 (volt 23) ∧ p.clk.voltUp = true) ∧
    Does (.monitorSample .pm xs t) s (fun p =>
      (∀ i w, i < 16 → xs[i]? = some w → p.reg (Reg.MON_PMFREQ i) = w) ∧ RegsBut q p ((List.range 16).map Reg.MON_PMFREQ))) ∧
  (∀ (kind : MonKind) (xs : List Word) (c : Nat) (t : Instant) (s : State), s.part.clk.held = some c →
    let cold := ∀ i < 10, fpLt ((s.part.at t).monTrim (0x210 + 8 * i) (xs.getD i 0)) 0x42FA0000 = true
    (c ≠ 4 ∨ kind ≠ .temp → Idles (.monitorSample kind xs t) s) ∧
    (c = 4 → ¬ cold → Does (.monitorSample .temp xs t) s (fun p => p.clk.held = some 4)) ∧
    (c = 4 → cold → Does (.monitorSample .temp xs t) s (fun p => p.clk.held = none))) ∧
  -- resets
  (∀ (banks : BitVec 3) (rail : Fin 24) (t : Instant) (s : State),
    let q := s.part
    let held := q.clk.held
    let caused := fun (p : Part) (c : Nat) => p.clk.held = some c ∧ q.wasReset p ∧ p.fld Reg.PWR_RSTCAUSE 24 8 = c
    let vaultKept := fun (p : Part) => p.reg Reg.PWR_VAULT = q.reg Reg.PWR_VAULT ∧ p.clk.rtc = q.clk.rtc ∧ p.clk.onVbat = q.clk.onVbat
    let hot := held = none ∧ ∃ a, q.clk.hot = some a ∧ a + msec 1 ≤ t
    let ana := rail.val = 18 ∨ rail.val = 19
    let signer := q.vendorSigned (q.areaSigned fwArea.1 fwArea.2).1 (q.areaSigned fwArea.1 fwArea.2).2
    (held ≠ none → Idles (.refclkError t) s) ∧
    (held = none → Does (.refclkError t) s (fun p => caused p 3 ∧ vaultKept p)) ∧
    (¬ hot → Idles (.tempCritical t) s) ∧ (hot → Does (.tempCritical t) s (fun p => caused p 4 ∧ vaultKept p)) ∧
    (rail.val = 23 → Idles (.supplyReset rail t) s) ∧
    (rail.val ≠ 23 → Does (.supplyReset rail t) s (fun p => caused p 2 ∧ p.fld Reg.PWR_RSTCAUSE 0 5 = rail ∧
      (¬ ana → vaultKept p) ∧ (ana → p.clk.onVbat = true) ∧
      (ana → q.clk.onVbat = false → q.bit Reg.PWR_VCFG 0 = false → p.bit Reg.PWR_VAULT 30 = false ∧ p.clk.rtc = none))) ∧
    (held ≠ some 3 → Idles (.refclkReturn t) s) ∧
    (held = some 3 → Does (.refclkReturn t) s (fun p => p.clk.held = none ∧ p.reg Reg.PWR_RSTCAUSE = q.reg Reg.PWR_RSTCAUSE)) ∧
    Does (.powerOnReset banks t) s (fun p => p.clk.held = none ∧ p.clk.banks = banks ∧ p.clk.onVbat = false ∧
      p.fld Reg.PWR_RSTCAUSE 24 8 = (if held = some 2 then q.fld Reg.PWR_RSTCAUSE 24 8 else 1) ∧
      p.bit Reg.NVM_STAT 28 = banks.getLsbD 2 ∧ p.bit Reg.PWR_VAULT 0 = q.clk.ranVbat ∧
      p.trust.ownerFuse = q.trust.ownerFuse ∧ p.trust.v0Revoked = q.trust.v0Revoked ∧ p.bit Reg.SEC_STAT 29 = q.trust.v0Revoked ∧
      (q.cyc.dirty = [] → q.health.calStaged = false →
        (p.bit Reg.SEC_STAT 30 = true ↔ q.trust.ownerFuse = some (sha3 q.ownerKey)) ∧
        (signer = none → p.clk.romOnly = true ∧ p.bit Reg.SEC_EVT 1 = true) ∧
        (∀ k, signer = some k → p.bit Reg.SEC_STAT 31 = true ∧ p.bit Reg.SEC_STAT 27 = decide (k = 1) ∧
          (held ≠ some 2 → p.clk.romOnly = false))))) ∧
  -- the vault
  (∀ (crystal : Bool) (t : Instant) (s : State),
    let q := s.part
    let acts := q.clk.onVbat = true ∧ (crystal = false ∨ q.bit Reg.PWR_VCFG 0 = true)
    let whole := q.alive = true ∧ q.bit Reg.RING_STAT 28 = true ∧ t % sec 1 = 0
    (q.clk.onVbat = false → Idles (.vaultWake t) s) ∧
    (q.clk.onVbat = true → Does (.vaultWake t) s (fun p => p = { q.at t with clk := { q.clk with onVbat := false } })) ∧
    (¬ acts → Idles (.tamper crystal t) s) ∧
    (acts → Does (.tamper crystal t) s (fun p => p.bit Reg.PWR_VAULT 29 = true ∧ p.bit Reg.PWR_VAULT 30 = false ∧
      p.clk = { q.clk with rtc := none } ∧ p.pair Reg.PWR_RTC_SLO = q.rtcNow.1 % 2 ^ 64 ∧
      p.reg Reg.PWR_RTC_NS = BitVec.ofNat 32 q.rtcNow.2 ∧
      RegsBut q p [Reg.PWR_VAULT, Reg.PWR_RTC_SLO, Reg.PWR_RTC_SHI, Reg.PWR_RTC_NS])) ∧
    (¬ whole → Idles (.rtcSync t) s) ∧
    (whole → Does (.rtcSync t) s (fun p => p.rtcNow = (instSec t, 0) ∧ p.bit Reg.PWR_VAULT 30 = true ∧
      p.pair Reg.PWR_RTC_SLO = instSec t % 2 ^ 64 ∧ p.reg Reg.PWR_RTC_NS = 0 ∧
      RegsBut q p [Reg.PWR_VAULT, Reg.PWR_RTC_SLO, Reg.PWR_RTC_SHI, Reg.PWR_RTC_NS])))

/-- R78: MODE in HOST_STATUS. A group runs the figure while its MODE is that of a running group and its image in force is the
grid figure with its required ports. -/
def Obligations.HostMode : Prop :=
  ∀ (ini : Initiator) (s : State), s.part.alive = true →
    let runs := fun (g : Grp) => s.part.groupRuns g = true ∧ s.part.gridRuns g = true
    Does (.pairLoRead ini (BitVec.ofNat 24 Reg.HOST_STATUS_LO)) s (fun p => p.bus.rok = true ∧
      (runs .A → bits p.bus.rdata 24 8 = s.part.fld (Reg.CLE_EP 0 15) 0 8) ∧
      (¬ runs .A → runs .B → bits p.bus.rdata 24 8 = s.part.fld (Reg.CLE_EP 1 15) 0 8) ∧
      (¬ runs .A → ¬ runs .B → bits p.bus.rdata 24 8 = 0))

/-- R229: the illegal transition. -/
def Obligations.IllegalTransition : Prop :=
  ∀ (n : Fin 4) (a b z : Bool) (t : Instant) (s : State), s.part.alive = true → s.part.posOn n = true → s.part.posMode n < 2 →
    a ≠ (s.part.pif n).a → b ≠ (s.part.pif n).b →
    Does (.quadratureEdge n a b z t) s (fun p =>
      p.posCount n = s.part.posCount n ∧ p.reg (Reg.POS_TURNS n) = s.part.reg (Reg.POS_TURNS n) ∧
      (p.reg (Reg.POS_ILLCNT n)).toNat = min (2 ^ 32 - 1) ((s.part.reg (Reg.POS_ILLCNT n)).toNat + 1) ∧
      p.bit (Reg.POS_EVT n) 5 = true ∧ p.bit (Reg.POS_STAT n) 30 = true ∧
      p.pif n = { s.part.pif n with a := a, b := b, z := z } ∧
      RegsBut s.part p [Reg.POS_ILLCNT n, Reg.POS_EVT n, Reg.POS_STAT n])
end

