-- ==== Sys2Proof/Laws/Bits.lean ====
section
/-! SUPPORT. What the bit-field operations and the sparse keyed lists do: a field that was set reads as set, a field apart
from it as before; a key that was written reads as written, every other key as before, and the canonical form stands. -/

namespace Sys2Proof.Machine

/-- A word split at a field: the bits above it, the field, and the bits below. -/
theorem toNat_split (v : Word) (lo w : Nat) :
    v.toNat = v.toNat / 2 ^ (lo + w) * 2 ^ (lo + w) + bits v lo w * 2 ^ lo + v.toNat % 2 ^ lo := by
  unfold bits
  rw [Nat.shiftRight_eq_div_pow, Nat.pow_add]
  have h1 := Nat.div_add_mod v.toNat (2 ^ lo)
  have h2 := Nat.div_add_mod (v.toNat / 2 ^ lo) (2 ^ w)
  rw [Nat.div_div_eq_div_mul] at h2
  generalize v.toNat / (2 ^ lo * 2 ^ w) = a at *
  generalize v.toNat / 2 ^ lo % 2 ^ w = b at *
  generalize v.toNat / 2 ^ lo = c at *
  generalize v.toNat % 2 ^ lo = d at *
  subst h2
  rw [← h1]
  ring

theorem bits_lt (v : Word) (lo w : Nat) : bits v lo w < 2 ^ w := Nat.mod_lt _ (Nat.two_pow_pos w)

/-- The number of a word whose field was set. -/
theorem setBits_toNat (v : Word) (lo w n : Nat) (h : lo + w ≤ 32) :
    (setBits v lo w n).toNat = v.toNat / 2 ^ (lo + w) * 2 ^ (lo + w) + n % 2 ^ w * 2 ^ lo + v.toNat % 2 ^ lo := by
  have hs := toNat_split v lo w
  have hb := bits_lt v lo w
  have hn : n % 2 ^ w < 2 ^ w := Nat.mod_lt _ (Nat.two_pow_pos w)
  have hv : v.toNat < 2 ^ 32 := v.isLt
  unfold setBits
  rw [BitVec.toNat_ofNat, Nat.shiftLeft_eq, Nat.shiftLeft_eq]
  have hd : v.toNat % 2 ^ lo < 2 ^ lo := Nat.mod_lt _ (Nat.two_pow_pos lo)
  have hq : v.toNat / 2 ^ (lo + w) < 2 ^ (32 - (lo + w)) := by
    apply Nat.div_lt_of_lt_mul
    rw [← Nat.pow_add]
    have : lo + w + (32 - (lo + w)) = 32 := by omega
    rw [this]; exact hv
  have e1 : v.toNat - bits v lo w * 2 ^ lo + n % 2 ^ w * 2 ^ lo
      = v.toNat / 2 ^ (lo + w) * 2 ^ (lo + w) + n % 2 ^ w * 2 ^ lo + v.toNat % 2 ^ lo := by
    omega
  rw [e1]
  apply Nat.mod_eq_of_lt
  have e2 : (n % 2 ^ w + 1) * 2 ^ lo ≤ 2 ^ w * 2 ^ lo := Nat.mul_le_mul_right _ hn
  have e3 : (v.toNat / 2 ^ (lo + w) + 1) * 2 ^ (lo + w) ≤ 2 ^ (32 - (lo + w)) * 2 ^ (lo + w) :=
    Nat.mul_le_mul_right _ hq
  rw [← Nat.pow_add] at e3
  have e4 : 32 - (lo + w) + (lo + w) = 32 := by omega
  rw [e4] at e3
  have e5 : 2 ^ w * 2 ^ lo = 2 ^ (lo + w) := by rw [← Nat.pow_add]; congr 1; omega
  rw [e5] at e2
  have e6 := Nat.add_mul (n % 2 ^ w) 1 (2 ^ lo)
  have e7 := Nat.add_mul (v.toNat / 2 ^ (lo + w)) 1 (2 ^ (lo + w))
  omega

/-- Bit `i` of a word whose field was set. -/
theorem setBits_getLsbD (v : Word) (lo w n i : Nat) (h : lo + w ≤ 32) :
    (setBits v lo w n).getLsbD i = if lo ≤ i ∧ i < lo + w then n.testBit (i - lo) else v.getLsbD i := by
  rw [BitVec.getLsbD, setBits_toNat v lo w n h, BitVec.getLsbD]
  have hd : v.toNat % 2 ^ lo < 2 ^ lo := Nat.mod_lt _ (Nat.two_pow_pos lo)
  have hn : n % 2 ^ w < 2 ^ w := Nat.mod_lt _ (Nat.two_pow_pos w)
  have e : v.toNat / 2 ^ (lo + w) * 2 ^ (lo + w) + n % 2 ^ w * 2 ^ lo + v.toNat % 2 ^ lo
      = 2 ^ lo * (2 ^ w * (v.toNat / 2 ^ (lo + w)) + n % 2 ^ w) + v.toNat % 2 ^ lo := by
    rw [Nat.pow_add]; ring
  rw [e, Nat.testBit_two_pow_mul_add _ hd]
  split
  · rename_i hi
    rw [if_neg (by omega), Nat.testBit_mod_two_pow]
    simp [hi]
  · rename_i hi
    rw [Nat.testBit_two_pow_mul_add _ hn]
    split
    · rename_i hi2
      rw [if_pos (by omega), Nat.testBit_mod_two_pow]
      simp [hi2]
    · rename_i hi2
      rw [if_neg (by omega), Nat.testBit_div_two_pow]
      congr 1; omega

/-- A bit of a field. -/
theorem bits_testBit (v : Word) (lo w i : Nat) :
    (bits v lo w).testBit i = (decide (i < w) && v.getLsbD (lo + i)) := by
  unfold bits
  rw [Nat.testBit_mod_two_pow, Nat.testBit_shiftRight]
  rfl

/-- A field that was set reads as set. -/
theorem bits_setBits (v : Word) (lo w n : Nat) (h : lo + w ≤ 32) : bits (setBits v lo w n) lo w = n % 2 ^ w := by
  apply Nat.eq_of_testBit_eq
  intro i
  rw [bits_testBit, setBits_getLsbD v lo w n _ h, Nat.testBit_mod_two_pow]
  by_cases hi : i < w
  · simp [hi]
  · simp [hi]

/-- A field apart from the one that was set reads as before. -/
theorem bits_setBits_ne (v : Word) (lo w n lo' w' : Nat) (h : lo + w ≤ 32) (hd : lo' + w' ≤ lo ∨ lo + w ≤ lo') :
    bits (setBits v lo w n) lo' w' = bits v lo' w' := by
  apply Nat.eq_of_testBit_eq
  intro i
  rw [bits_testBit, bits_testBit, setBits_getLsbD v lo w n _ h]
  by_cases hi : i < w'
  · rw [if_neg (by omega)]
  · simp [hi]

/-- A bit apart from the field that was set reads as before. -/
theorem bitAt_setBits_ne (v : Word) (lo w n i : Nat) (h : lo + w ≤ 32) (hd : i < lo ∨ lo + w ≤ i) :
    bitAt (setBits v lo w n) i = bitAt v i := by
  unfold bitAt
  rw [setBits_getLsbD v lo w n i h, if_neg (by omega)]

/-- A bit inside the field that was set. -/
theorem bitAt_setBits (v : Word) (lo w n i : Nat) (h : lo + w ≤ 32) (hi : lo ≤ i ∧ i < lo + w) :
    bitAt (setBits v lo w n) i = n.testBit (i - lo) := by
  unfold bitAt
  rw [setBits_getLsbD v lo w n i h, if_pos hi]

/-- A bit that was set reads as set. -/
theorem bitAt_setBits_one (v : Word) (i : Nat) (b : Bool) (h : i < 32) :
    bitAt (setBits v i 1 b.toNat) i = b := by
  rw [bitAt_setBits v i 1 _ i (by omega) (by omega)]
  cases b <;> simp

/-- A field after another bit was set. -/
theorem bits_eq_of_bitAt (v u : Word) (lo w : Nat) (h : ∀ i, lo ≤ i → i < lo + w → bitAt v i = bitAt u i) :
    bits v lo w = bits u lo w := by
  apply Nat.eq_of_testBit_eq
  intro i
  rw [bits_testBit, bits_testBit]
  by_cases hi : i < w
  · have := h (lo + i) (by omega) (by omega)
    simp [hi]; simpa [bitAt] using this
  · simp [hi]

@[simp] theorem bitAt_and (a b : Word) (i : Nat) : bitAt (a &&& b) i = (bitAt a i && bitAt b i) :=
  BitVec.getLsbD_and

@[simp] theorem bitAt_or (a b : Word) (i : Nat) : bitAt (a ||| b) i = (bitAt a i || bitAt b i) := BitVec.getLsbD_or

theorem bitAt_not (a : Word) (i : Nat) (h : i < 32) : bitAt (~~~a) i = !bitAt a i := by
  simp [bitAt, h]

theorem bitAt_ofNat (n i : Nat) (h : i < 32) : bitAt (BitVec.ofNat 32 n) i = n.testBit i := by
  simp only [bitAt, BitVec.getLsbD_ofNat, h, decide_true, Bool.true_and]

/-- Two words with the same bits are the same word. -/
theorem word_ext (a b : Word) (h : ∀ i < 32, bitAt a i = bitAt b i) : a = b :=
  BitVec.eq_of_getLsbD_eq (fun i hi => h i hi)

/-! Sparse keyed lists. -/

variable {α : Type}

theorem sRising_weaken {o : Option Nat} {b : Nat} {l : List (Nat × α)} (h : sRising (some b) l = true)
    (ho : ∀ c, o = some c → c ≤ b) : sRising o l = true := by
  cases l with
  | nil => cases o <;> rfl
  | cons e l =>
    obtain ⟨a, v⟩ := e
    simp only [sRising, Bool.and_eq_true, decide_eq_true_eq] at h
    cases o with
    | none => exact h.2
    | some c =>
      have := ho c rfl
      simp only [sRising, Bool.and_eq_true, decide_eq_true_eq]
      exact ⟨by omega, h.2⟩

theorem sFind_sPut (l : List (Nat × α)) (k : Nat) (v : α) (k' : Nat) :
    sFind (sPut l k v) k' = if k' = k then some v else sFind l k' := by
  induction l with
  | nil => simp [sPut, sFind]
  | cons e l ih =>
    obtain ⟨a, w⟩ := e
    simp only [sPut]
    split
    · simp [sFind]
    · split
      · rename_i h1 h2
        subst h2
        by_cases h : k' = k <;> simp [sFind, h]
      · rename_i h1 h2
        simp only [sFind, ih]
        by_cases h : k' = k
        · subst h; simp [h2]
        · simp [h]

theorem sFind_sErase (l : List (Nat × α)) (k k' : Nat) :
    sFind (sErase l k) k' = if k' = k then none else sFind l k' := by
  induction l with
  | nil => simp [sErase, sFind]
  | cons e l ih =>
    obtain ⟨a, w⟩ := e
    simp only [sErase]
    split
    · rename_i h1
      subst h1
      rw [ih]
      by_cases h2 : k' = k <;> simp [sFind, h2]
    · rename_i h1
      simp only [sFind, ih]
      by_cases h3 : k' = k
      · subst h3; simp [h1]
      · simp [h3]

theorem sRising_sPut {o : Option Nat} {l : List (Nat × α)} (h : sRising o l = true) (k : Nat) (v : α)
    (hk : ∀ b, o = some b → b < k) : sRising o (sPut l k v) = true := by
  induction l generalizing o with
  | nil => cases o with
    | none => rfl
    | some b => simpa [sPut, sRising] using hk b rfl
  | cons e l ih =>
    obtain ⟨a, w⟩ := e
    have hl : sRising (some a) l = true := by
      cases o with
      | none => exact h
      | some b => simp only [sRising, Bool.and_eq_true] at h; exact h.2
    have ha : ∀ b, o = some b → b < a := by
      intro b hb; subst hb; simp only [sRising, Bool.and_eq_true, decide_eq_true_eq] at h; exact h.1
    have mk : ∀ (x : Nat × α) (l' : List (Nat × α)), (∀ b, o = some b → b < x.1) → sRising (some x.1) l' = true →
        sRising o (x :: l') = true := by
      intro x l' h1 h2
      cases o with
      | none => exact h2
      | some b => simp only [sRising, Bool.and_eq_true, decide_eq_true_eq]; exact ⟨h1 b rfl, h2⟩
    simp only [sPut]
    split
    · rename_i h1
      refine mk (k, v) _ hk ?_
      simp only [sRising, Bool.and_eq_true, decide_eq_true_eq]
      exact ⟨h1, hl⟩
    · split
      · rename_i h1 h2
        subst h2
        exact mk (k, v) _ hk hl
      · rename_i h1 h2
        refine mk (a, w) _ ha (ih hl ?_)
        intro b hb; cases hb; omega

theorem sRising_sErase {o : Option Nat} {l : List (Nat × α)} (h : sRising o l = true) (k : Nat) :
    sRising o (sErase l k) = true := by
  induction l generalizing o with
  | nil => exact h
  | cons e l ih =>
    obtain ⟨a, w⟩ := e
    have hl : sRising (some a) l = true := by
      cases o with
      | none => exact h
      | some b => simp only [sRising, Bool.and_eq_true] at h; exact h.2
    have ha : ∀ b, o = some b → b < a := by
      intro b hb; subst hb; simp only [sRising, Bool.and_eq_true, decide_eq_true_eq] at h; exact h.1
    simp only [sErase]
    split
    · exact ih (sRising_weaken hl (fun c hc => Nat.le_of_lt (ha c hc)))
    · cases o with
      | none => exact ih hl
      | some b => simp only [sRising, Bool.and_eq_true, decide_eq_true_eq]; exact ⟨ha b rfl, ih hl⟩

theorem mem_sPut {l : List (Nat × α)} {k : Nat} {v : α} {e : Nat × α} (h : e ∈ sPut l k v) : e = (k, v) ∨ e ∈ l := by
  induction l with
  | nil => simpa [sPut] using h
  | cons x l ih =>
    obtain ⟨a, w⟩ := x
    simp only [sPut] at h
    split at h
    · simpa using h
    · split at h
      · rcases List.mem_cons.1 h with h | h
        · exact .inl h
        · exact .inr (List.mem_cons_of_mem _ h)
      · rcases List.mem_cons.1 h with h | h
        · exact .inr (h ▸ List.mem_cons_self)
        · exact (ih h).imp id (List.mem_cons_of_mem _)

theorem mem_sErase {l : List (Nat × α)} {k : Nat} {e : Nat × α} (h : e ∈ sErase l k) : e ∈ l := by
  induction l with
  | nil => exact h
  | cons x l ih =>
    obtain ⟨a, w⟩ := x
    simp only [sErase] at h
    split at h
    · exact List.mem_cons_of_mem _ (ih h)
    · rcases List.mem_cons.1 h with h | h
      · exact h ▸ List.mem_cons_self
      · exact List.mem_cons_of_mem _ (ih h)

variable [DecidableEq α] {d : Nat → α}

theorem sCanon_iff {l : List (Nat × α)} : sCanon d l = true ↔ sRising none l = true ∧ ∀ e ∈ l, e.2 ≠ d e.1 := by
  simp [sCanon, List.all_eq_true]

/-- Writing keeps the canonical form. -/
theorem sCanon_sSet {l : List (Nat × α)} (h : sCanon d l = true) (k : Nat) (v : α) : sCanon d (sSet d l k v) = true := by
  rw [sCanon_iff] at h ⊢
  unfold sSet
  split
  · exact ⟨sRising_sErase h.1 k, fun e he => h.2 e (mem_sErase he)⟩
  · rename_i hv
    refine ⟨sRising_sPut h.1 k v (by simp), fun e he => ?_⟩
    rcases mem_sPut he with rfl | he
    · exact hv
    · exact h.2 e he

/-- A key reads as written, every other key as before. -/
@[simp] theorem sGet_sSet (d : Nat → α) (l : List (Nat × α)) (k : Nat) (v : α) (k' : Nat) :
    sGet d (sSet d l k v) k' = if k' = k then v else sGet d l k' := by
  unfold sGet sSet
  split
  · rename_i hv
    rw [sFind_sErase]
    by_cases hk : k' = k <;> simp [hk, hv]
  · rw [sFind_sPut]
    by_cases hk : k' = k <;> simp [hk]

/-- Two lists in canonical form that read alike are the same list. -/
theorem sCanon_ext_nil {l : List (Nat × α)} (h : sCanon d l = true) (hr : ∀ k, sGet d l k = d k) : l = [] := by
  rw [sCanon_iff] at h
  cases l with
  | nil => rfl
  | cons e l =>
    obtain ⟨a, v⟩ := e
    have := hr a
    simp [sGet, sFind] at this
    exact absurd this (h.2 (a, v) List.mem_cons_self)

end Sys2Proof.Machine
end

