-- ==== Sys2Proof/Laws/State.lean ====
section
/-! SUPPORT. What the primitive updates of the part leave alone: one lemma for each field and update, true by unfolding, so
that no later proof unfolds a record update. -/

namespace Sys2Proof.Machine

variable (p : Part)

@[simp] theorem Part.setReg_now (off : Nat) (v : Word) : (p.setReg off v).now = p.now := rfl
@[simp] theorem Part.setReg_freeCount (off : Nat) (v : Word) : (p.setReg off v).freeCount = p.freeCount := rfl
@[simp] theorem Part.setReg_bus (off : Nat) (v : Word) : (p.setReg off v).bus = p.bus := rfl
@[simp] theorem Part.setReg_commits (off : Nat) (v : Word) : (p.setReg off v).commits = p.commits := rfl
@[simp] theorem Part.setReg_joint (off : Nat) (v : Word) : (p.setReg off v).joint = p.joint := rfl
@[simp] theorem Part.setReg_log (off : Nat) (v : Word) : (p.setReg off v).log = p.log := rfl
@[simp] theorem Part.setReg_lanes (off : Nat) (v : Word) : (p.setReg off v).lanes = p.lanes := rfl
@[simp] theorem Part.setReg_cle (off : Nat) (v : Word) : (p.setReg off v).cle = p.cle := rfl
@[simp] theorem Part.setReg_gpioTask (off : Nat) (v : Word) : (p.setReg off v).gpioTask = p.gpioTask := rfl
@[simp] theorem Part.setReg_mem (off : Nat) (v : Word) : (p.setReg off v).mem = p.mem := rfl
@[simp] theorem Part.setReg_lib (off : Nat) (v : Word) : (p.setReg off v).lib = p.lib := rfl
@[simp] theorem Part.setReg_out (off : Nat) (v : Word) : (p.setReg off v).out = p.out := rfl
@[simp] theorem Part.setReg_sense (off : Nat) (v : Word) : (p.setReg off v).sense = p.sense := rfl
@[simp] theorem Part.setReg_pwm (off : Nat) (v : Word) : (p.setReg off v).pwm = p.pwm := rfl
@[simp] theorem Part.setReg_pos (off : Nat) (v : Word) : (p.setReg off v).pos = p.pos := rfl
@[simp] theorem Part.setReg_ramps (off : Nat) (v : Word) : (p.setReg off v).ramps = p.ramps := rfl
@[simp] theorem Part.setReg_core (off : Nat) (v : Word) : (p.setReg off v).core = p.core := rfl
@[simp] theorem Part.setReg_cyc (off : Nat) (v : Word) : (p.setReg off v).cyc = p.cyc := rfl
@[simp] theorem Part.setReg_ops (off : Nat) (v : Word) : (p.setReg off v).ops = p.ops := rfl
@[simp] theorem Part.setReg_opCount (off : Nat) (v : Word) : (p.setReg off v).opCount = p.opCount := rfl
@[simp] theorem Part.setReg_rsvLog (off : Nat) (v : Word) : (p.setReg off v).rsvLog = p.rsvLog := rfl
@[simp] theorem Part.setReg_pair_ (off : Nat) (v : Word) : (p.setReg off v).pair_ = p.pair_ := rfl
@[simp] theorem Part.setReg_ring (off : Nat) (v : Word) : (p.setReg off v).ring = p.ring := rfl
@[simp] theorem Part.setReg_time (off : Nat) (v : Word) : (p.setReg off v).time = p.time := rfl
@[simp] theorem Part.setReg_cap (off : Nat) (v : Word) : (p.setReg off v).cap = p.cap := rfl
@[simp] theorem Part.setReg_safe (off : Nat) (v : Word) : (p.setReg off v).safe = p.safe := rfl
@[simp] theorem Part.setReg_measLog (off : Nat) (v : Word) : (p.setReg off v).measLog = p.measLog := rfl
@[simp] theorem Part.setReg_health (off : Nat) (v : Word) : (p.setReg off v).health = p.health := rfl
@[simp] theorem Part.setReg_trust (off : Nat) (v : Word) : (p.setReg off v).trust = p.trust := rfl
@[simp] theorem Part.setReg_clk (off : Nat) (v : Word) : (p.setReg off v).clk = p.clk := rfl
@[simp] theorem Part.setReg_eth (off : Nat) (v : Word) : (p.setReg off v).eth = p.eth := rfl

@[simp] theorem Part.at_freeCount (t : Instant) : (p.at t).freeCount = p.freeCount := rfl
@[simp] theorem Part.at_regs (t : Instant) : (p.at t).regs = p.regs := rfl
@[simp] theorem Part.at_bus (t : Instant) : (p.at t).bus = p.bus := rfl
@[simp] theorem Part.at_commits (t : Instant) : (p.at t).commits = p.commits := rfl
@[simp] theorem Part.at_joint (t : Instant) : (p.at t).joint = p.joint := rfl
@[simp] theorem Part.at_log (t : Instant) : (p.at t).log = p.log := rfl
@[simp] theorem Part.at_lanes (t : Instant) : (p.at t).lanes = p.lanes := rfl
@[simp] theorem Part.at_cle (t : Instant) : (p.at t).cle = p.cle := rfl
@[simp] theorem Part.at_gpioTask (t : Instant) : (p.at t).gpioTask = p.gpioTask := rfl
@[simp] theorem Part.at_mem (t : Instant) : (p.at t).mem = p.mem := rfl
@[simp] theorem Part.at_lib (t : Instant) : (p.at t).lib = p.lib := rfl
@[simp] theorem Part.at_out (t : Instant) : (p.at t).out = p.out := rfl
@[simp] theorem Part.at_sense (t : Instant) : (p.at t).sense = p.sense := rfl
@[simp] theorem Part.at_pwm (t : Instant) : (p.at t).pwm = p.pwm := rfl
@[simp] theorem Part.at_pos (t : Instant) : (p.at t).pos = p.pos := rfl
@[simp] theorem Part.at_ramps (t : Instant) : (p.at t).ramps = p.ramps := rfl
@[simp] theorem Part.at_core (t : Instant) : (p.at t).core = p.core := rfl
@[simp] theorem Part.at_cyc (t : Instant) : (p.at t).cyc = p.cyc := rfl
@[simp] theorem Part.at_ops (t : Instant) : (p.at t).ops = p.ops := rfl
@[simp] theorem Part.at_opCount (t : Instant) : (p.at t).opCount = p.opCount := rfl
@[simp] theorem Part.at_rsvLog (t : Instant) : (p.at t).rsvLog = p.rsvLog := rfl
@[simp] theorem Part.at_pair_ (t : Instant) : (p.at t).pair_ = p.pair_ := rfl
@[simp] theorem Part.at_ring (t : Instant) : (p.at t).ring = p.ring := rfl
@[simp] theorem Part.at_time (t : Instant) : (p.at t).time = p.time := rfl
@[simp] theorem Part.at_cap (t : Instant) : (p.at t).cap = p.cap := rfl
@[simp] theorem Part.at_safe (t : Instant) : (p.at t).safe = p.safe := rfl
@[simp] theorem Part.at_measLog (t : Instant) : (p.at t).measLog = p.measLog := rfl
@[simp] theorem Part.at_health (t : Instant) : (p.at t).health = p.health := rfl
@[simp] theorem Part.at_trust (t : Instant) : (p.at t).trust = p.trust := rfl
@[simp] theorem Part.at_clk (t : Instant) : (p.at t).clk = p.clk := rfl
@[simp] theorem Part.at_eth (t : Instant) : (p.at t).eth = p.eth := rfl

@[simp] theorem Part.taken_now : (p.taken).now = p.now := rfl
@[simp] theorem Part.taken_regs : (p.taken).regs = p.regs := rfl
@[simp] theorem Part.taken_bus : (p.taken).bus = p.bus := rfl
@[simp] theorem Part.taken_commits : (p.taken).commits = p.commits := rfl
@[simp] theorem Part.taken_joint : (p.taken).joint = p.joint := rfl
@[simp] theorem Part.taken_log : (p.taken).log = p.log := rfl
@[simp] theorem Part.taken_lanes : (p.taken).lanes = p.lanes := rfl
@[simp] theorem Part.taken_cle : (p.taken).cle = p.cle := rfl
@[simp] theorem Part.taken_gpioTask : (p.taken).gpioTask = p.gpioTask := rfl
@[simp] theorem Part.taken_mem : (p.taken).mem = p.mem := rfl
@[simp] theorem Part.taken_lib : (p.taken).lib = p.lib := rfl
@[simp] theorem Part.taken_out : (p.taken).out = p.out := rfl
@[simp] theorem Part.taken_sense : (p.taken).sense = p.sense := rfl
@[simp] theorem Part.taken_pwm : (p.taken).pwm = p.pwm := rfl
@[simp] theorem Part.taken_pos : (p.taken).pos = p.pos := rfl
@[simp] theorem Part.taken_ramps : (p.taken).ramps = p.ramps := rfl
@[simp] theorem Part.taken_core : (p.taken).core = p.core := rfl
@[simp] theorem Part.taken_cyc : (p.taken).cyc = p.cyc := rfl
@[simp] theorem Part.taken_ops : (p.taken).ops = p.ops := rfl
@[simp] theorem Part.taken_opCount : (p.taken).opCount = p.opCount := rfl
@[simp] theorem Part.taken_rsvLog : (p.taken).rsvLog = p.rsvLog := rfl
@[simp] theorem Part.taken_pair_ : (p.taken).pair_ = p.pair_ := rfl
@[simp] theorem Part.taken_ring : (p.taken).ring = p.ring := rfl
@[simp] theorem Part.taken_time : (p.taken).time = p.time := rfl
@[simp] theorem Part.taken_cap : (p.taken).cap = p.cap := rfl
@[simp] theorem Part.taken_safe : (p.taken).safe = p.safe := rfl
@[simp] theorem Part.taken_measLog : (p.taken).measLog = p.measLog := rfl
@[simp] theorem Part.taken_health : (p.taken).health = p.health := rfl
@[simp] theorem Part.taken_trust : (p.taken).trust = p.trust := rfl
@[simp] theorem Part.taken_clk : (p.taken).clk = p.clk := rfl
@[simp] theorem Part.taken_eth : (p.taken).eth = p.eth := rfl

@[simp] theorem Part.setByte_now (a : Nat) (b : Byte) : (p.setByte a b).now = p.now := rfl
@[simp] theorem Part.setByte_freeCount (a : Nat) (b : Byte) : (p.setByte a b).freeCount = p.freeCount := rfl
@[simp] theorem Part.setByte_regs (a : Nat) (b : Byte) : (p.setByte a b).regs = p.regs := rfl
@[simp] theorem Part.setByte_bus (a : Nat) (b : Byte) : (p.setByte a b).bus = p.bus := rfl
@[simp] theorem Part.setByte_commits (a : Nat) (b : Byte) : (p.setByte a b).commits = p.commits := rfl
@[simp] theorem Part.setByte_joint (a : Nat) (b : Byte) : (p.setByte a b).joint = p.joint := rfl
@[simp] theorem Part.setByte_log (a : Nat) (b : Byte) : (p.setByte a b).log = p.log := rfl
@[simp] theorem Part.setByte_lanes (a : Nat) (b : Byte) : (p.setByte a b).lanes = p.lanes := rfl
@[simp] theorem Part.setByte_cle (a : Nat) (b : Byte) : (p.setByte a b).cle = p.cle := rfl
@[simp] theorem Part.setByte_gpioTask (a : Nat) (b : Byte) : (p.setByte a b).gpioTask = p.gpioTask := rfl
@[simp] theorem Part.setByte_lib (a : Nat) (b : Byte) : (p.setByte a b).lib = p.lib := rfl
@[simp] theorem Part.setByte_out (a : Nat) (b : Byte) : (p.setByte a b).out = p.out := rfl
@[simp] theorem Part.setByte_sense (a : Nat) (b : Byte) : (p.setByte a b).sense = p.sense := rfl
@[simp] theorem Part.setByte_pwm (a : Nat) (b : Byte) : (p.setByte a b).pwm = p.pwm := rfl
@[simp] theorem Part.setByte_pos (a : Nat) (b : Byte) : (p.setByte a b).pos = p.pos := rfl
@[simp] theorem Part.setByte_ramps (a : Nat) (b : Byte) : (p.setByte a b).ramps = p.ramps := rfl
@[simp] theorem Part.setByte_core (a : Nat) (b : Byte) : (p.setByte a b).core = p.core := rfl
@[simp] theorem Part.setByte_cyc (a : Nat) (b : Byte) : (p.setByte a b).cyc = p.cyc := rfl
@[simp] theorem Part.setByte_ops (a : Nat) (b : Byte) : (p.setByte a b).ops = p.ops := rfl
@[simp] theorem Part.setByte_opCount (a : Nat) (b : Byte) : (p.setByte a b).opCount = p.opCount := rfl
@[simp] theorem Part.setByte_rsvLog (a : Nat) (b : Byte) : (p.setByte a b).rsvLog = p.rsvLog := rfl
@[simp] theorem Part.setByte_pair_ (a : Nat) (b : Byte) : (p.setByte a b).pair_ = p.pair_ := rfl
@[simp] theorem Part.setByte_ring (a : Nat) (b : Byte) : (p.setByte a b).ring = p.ring := rfl
@[simp] theorem Part.setByte_time (a : Nat) (b : Byte) : (p.setByte a b).time = p.time := rfl
@[simp] theorem Part.setByte_cap (a : Nat) (b : Byte) : (p.setByte a b).cap = p.cap := rfl
@[simp] theorem Part.setByte_safe (a : Nat) (b : Byte) : (p.setByte a b).safe = p.safe := rfl
@[simp] theorem Part.setByte_measLog (a : Nat) (b : Byte) : (p.setByte a b).measLog = p.measLog := rfl
@[simp] theorem Part.setByte_health (a : Nat) (b : Byte) : (p.setByte a b).health = p.health := rfl
@[simp] theorem Part.setByte_trust (a : Nat) (b : Byte) : (p.setByte a b).trust = p.trust := rfl
@[simp] theorem Part.setByte_clk (a : Nat) (b : Byte) : (p.setByte a b).clk = p.clk := rfl
@[simp] theorem Part.setByte_eth (a : Nat) (b : Byte) : (p.setByte a b).eth = p.eth := rfl

@[simp] theorem Part.setLane_now (n : Nat) (l : Lane) : (p.setLane n l).now = p.now := rfl
@[simp] theorem Part.setLane_freeCount (n : Nat) (l : Lane) : (p.setLane n l).freeCount = p.freeCount := rfl
@[simp] theorem Part.setLane_regs (n : Nat) (l : Lane) : (p.setLane n l).regs = p.regs := rfl
@[simp] theorem Part.setLane_bus (n : Nat) (l : Lane) : (p.setLane n l).bus = p.bus := rfl
@[simp] theorem Part.setLane_commits (n : Nat) (l : Lane) : (p.setLane n l).commits = p.commits := rfl
@[simp] theorem Part.setLane_joint (n : Nat) (l : Lane) : (p.setLane n l).joint = p.joint := rfl
@[simp] theorem Part.setLane_log (n : Nat) (l : Lane) : (p.setLane n l).log = p.log := rfl
@[simp] theorem Part.setLane_cle (n : Nat) (l : Lane) : (p.setLane n l).cle = p.cle := rfl
@[simp] theorem Part.setLane_gpioTask (n : Nat) (l : Lane) : (p.setLane n l).gpioTask = p.gpioTask := rfl
@[simp] theorem Part.setLane_mem (n : Nat) (l : Lane) : (p.setLane n l).mem = p.mem := rfl
@[simp] theorem Part.setLane_lib (n : Nat) (l : Lane) : (p.setLane n l).lib = p.lib := rfl
@[simp] theorem Part.setLane_out (n : Nat) (l : Lane) : (p.setLane n l).out = p.out := rfl
@[simp] theorem Part.setLane_sense (n : Nat) (l : Lane) : (p.setLane n l).sense = p.sense := rfl
@[simp] theorem Part.setLane_pwm (n : Nat) (l : Lane) : (p.setLane n l).pwm = p.pwm := rfl
@[simp] theorem Part.setLane_pos (n : Nat) (l : Lane) : (p.setLane n l).pos = p.pos := rfl
@[simp] theorem Part.setLane_ramps (n : Nat) (l : Lane) : (p.setLane n l).ramps = p.ramps := rfl
@[simp] theorem Part.setLane_core (n : Nat) (l : Lane) : (p.setLane n l).core = p.core := rfl
@[simp] theorem Part.setLane_cyc (n : Nat) (l : Lane) : (p.setLane n l).cyc = p.cyc := rfl
@[simp] theorem Part.setLane_ops (n : Nat) (l : Lane) : (p.setLane n l).ops = p.ops := rfl
@[simp] theorem Part.setLane_opCount (n : Nat) (l : Lane) : (p.setLane n l).opCount = p.opCount := rfl
@[simp] theorem Part.setLane_rsvLog (n : Nat) (l : Lane) : (p.setLane n l).rsvLog = p.rsvLog := rfl
@[simp] theorem Part.setLane_pair_ (n : Nat) (l : Lane) : (p.setLane n l).pair_ = p.pair_ := rfl
@[simp] theorem Part.setLane_ring (n : Nat) (l : Lane) : (p.setLane n l).ring = p.ring := rfl
@[simp] theorem Part.setLane_time (n : Nat) (l : Lane) : (p.setLane n l).time = p.time := rfl
@[simp] theorem Part.setLane_cap (n : Nat) (l : Lane) : (p.setLane n l).cap = p.cap := rfl
@[simp] theorem Part.setLane_safe (n : Nat) (l : Lane) : (p.setLane n l).safe = p.safe := rfl
@[simp] theorem Part.setLane_measLog (n : Nat) (l : Lane) : (p.setLane n l).measLog = p.measLog := rfl
@[simp] theorem Part.setLane_health (n : Nat) (l : Lane) : (p.setLane n l).health = p.health := rfl
@[simp] theorem Part.setLane_trust (n : Nat) (l : Lane) : (p.setLane n l).trust = p.trust := rfl
@[simp] theorem Part.setLane_clk (n : Nat) (l : Lane) : (p.setLane n l).clk = p.clk := rfl
@[simp] theorem Part.setLane_eth (n : Nat) (l : Lane) : (p.setLane n l).eth = p.eth := rfl

@[simp] theorem Part.setCg_now (g : Grp) (c : CleGroup) : (p.setCg g c).now = p.now := rfl
@[simp] theorem Part.setCg_freeCount (g : Grp) (c : CleGroup) : (p.setCg g c).freeCount = p.freeCount := rfl
@[simp] theorem Part.setCg_regs (g : Grp) (c : CleGroup) : (p.setCg g c).regs = p.regs := rfl
@[simp] theorem Part.setCg_bus (g : Grp) (c : CleGroup) : (p.setCg g c).bus = p.bus := rfl
@[simp] theorem Part.setCg_commits (g : Grp) (c : CleGroup) : (p.setCg g c).commits = p.commits := rfl
@[simp] theorem Part.setCg_joint (g : Grp) (c : CleGroup) : (p.setCg g c).joint = p.joint := rfl
@[simp] theorem Part.setCg_log (g : Grp) (c : CleGroup) : (p.setCg g c).log = p.log := rfl
@[simp] theorem Part.setCg_lanes (g : Grp) (c : CleGroup) : (p.setCg g c).lanes = p.lanes := rfl
@[simp] theorem Part.setCg_gpioTask (g : Grp) (c : CleGroup) : (p.setCg g c).gpioTask = p.gpioTask := rfl
@[simp] theorem Part.setCg_mem (g : Grp) (c : CleGroup) : (p.setCg g c).mem = p.mem := rfl
@[simp] theorem Part.setCg_lib (g : Grp) (c : CleGroup) : (p.setCg g c).lib = p.lib := rfl
@[simp] theorem Part.setCg_out (g : Grp) (c : CleGroup) : (p.setCg g c).out = p.out := rfl
@[simp] theorem Part.setCg_sense (g : Grp) (c : CleGroup) : (p.setCg g c).sense = p.sense := rfl
@[simp] theorem Part.setCg_pwm (g : Grp) (c : CleGroup) : (p.setCg g c).pwm = p.pwm := rfl
@[simp] theorem Part.setCg_pos (g : Grp) (c : CleGroup) : (p.setCg g c).pos = p.pos := rfl
@[simp] theorem Part.setCg_ramps (g : Grp) (c : CleGroup) : (p.setCg g c).ramps = p.ramps := rfl
@[simp] theorem Part.setCg_core (g : Grp) (c : CleGroup) : (p.setCg g c).core = p.core := rfl
@[simp] theorem Part.setCg_cyc (g : Grp) (c : CleGroup) : (p.setCg g c).cyc = p.cyc := rfl
@[simp] theorem Part.setCg_ops (g : Grp) (c : CleGroup) : (p.setCg g c).ops = p.ops := rfl
@[simp] theorem Part.setCg_opCount (g : Grp) (c : CleGroup) : (p.setCg g c).opCount = p.opCount := rfl
@[simp] theorem Part.setCg_rsvLog (g : Grp) (c : CleGroup) : (p.setCg g c).rsvLog = p.rsvLog := rfl
@[simp] theorem Part.setCg_pair_ (g : Grp) (c : CleGroup) : (p.setCg g c).pair_ = p.pair_ := rfl
@[simp] theorem Part.setCg_ring (g : Grp) (c : CleGroup) : (p.setCg g c).ring = p.ring := rfl
@[simp] theorem Part.setCg_time (g : Grp) (c : CleGroup) : (p.setCg g c).time = p.time := rfl
@[simp] theorem Part.setCg_cap (g : Grp) (c : CleGroup) : (p.setCg g c).cap = p.cap := rfl
@[simp] theorem Part.setCg_safe (g : Grp) (c : CleGroup) : (p.setCg g c).safe = p.safe := rfl
@[simp] theorem Part.setCg_measLog (g : Grp) (c : CleGroup) : (p.setCg g c).measLog = p.measLog := rfl
@[simp] theorem Part.setCg_health (g : Grp) (c : CleGroup) : (p.setCg g c).health = p.health := rfl
@[simp] theorem Part.setCg_trust (g : Grp) (c : CleGroup) : (p.setCg g c).trust = p.trust := rfl
@[simp] theorem Part.setCg_clk (g : Grp) (c : CleGroup) : (p.setCg g c).clk = p.clk := rfl
@[simp] theorem Part.setCg_eth (g : Grp) (c : CleGroup) : (p.setCg g c).eth = p.eth := rfl

end Sys2Proof.Machine
end

