-- ==== Sys2Proof/Laws/Ops.lean ====
section
/-! SUPPORT. What the shared operations over registers and memory do: a register that was written reads as written and
every other as before, the register file and memory keep their canonical form, a stored byte reads back. -/

namespace Sys2Proof.Machine

variable {p : Part}

/-- A register after one was written. -/
@[simp] theorem Part.reg_setReg (p : Part) (a : Nat) (v : Word) (b : Nat) :
    (p.setReg a v).reg b = if b = a then v else p.reg b := sGet_sSet regReset p.regs a v b

@[simp] theorem Part.setReg_regsWf (h : p.regsWf = true) (a : Nat) (v : Word) : (p.setReg a v).regsWf = true :=
  sCanon_sSet h a v

@[simp] theorem Part.setFld_regsWf (h : p.regsWf = true) (a lo w n : Nat) : (p.setFld a lo w n).regsWf = true :=
  p.setReg_regsWf h a _

@[simp] theorem Part.setBit_regsWf (h : p.regsWf = true) (a i : Nat) (b : Bool) : (p.setBit a i b).regsWf = true :=
  p.setReg_regsWf h a _

@[simp] theorem Part.raise_regsWf (h : p.regsWf = true) (a i : Nat) : (p.raise a i).regsWf = true :=
  p.setReg_regsWf h a _

@[simp] theorem Part.raiseIf_regsWf (h : p.regsWf = true) (c : Bool) (a i : Nat) : (p.raiseIf c a i).regsWf = true := by
  cases c
  · exact h
  · exact p.setReg_regsWf h a _

@[simp] theorem Part.countSat_regsWf (h : p.regsWf = true) (a lo w : Nat) : (p.countSat a lo w).regsWf = true :=
  p.setReg_regsWf h a _

@[simp] theorem Part.countWrap_regsWf (h : p.regsWf = true) (a lo w : Nat) : (p.countWrap a lo w).regsWf = true :=
  p.setReg_regsWf h a _

@[simp] theorem Part.setPair_regsWf (h : p.regsWf = true) (a n : Nat) : (p.setPair a n).regsWf = true :=
  Part.setReg_regsWf (p.setReg_regsWf h a _) _ _

@[simp] theorem Part.setTime_regsWf (h : p.regsWf = true) (a : Nat) (t : Instant) : (p.setTime a t).regsWf = true :=
  Part.setReg_regsWf (p.setReg_regsWf h a _) _ _

@[simp] theorem Part.setStamp_regsWf (h : p.regsWf = true) (a : Nat) (t : Instant) : (p.setStamp a t).regsWf = true :=
  Part.setReg_regsWf (Part.setTime_regsWf h a t) _ _

/-- A register after a field was set. -/
@[simp] theorem Part.reg_setFld (p : Part) (a lo w n b : Nat) :
    (p.setFld a lo w n).reg b = if b = a then setBits (p.reg a) lo w n else p.reg b := Part.reg_setReg p a _ b

/-- A register after a bit was set. -/
@[simp] theorem Part.reg_setBit (p : Part) (a i : Nat) (x : Bool) (b : Nat) :
    (p.setBit a i x).reg b = if b = a then setBits (p.reg a) i 1 x.toNat else p.reg b := Part.reg_setReg p a _ b

/-- A field that was set reads as set. -/
theorem Part.fld_setFld_same (p : Part) (a lo w n : Nat) (hw : lo + w ≤ 32) :
    (p.setFld a lo w n).fld a lo w = n % 2 ^ w := by
  simp [Part.fld, Part.setFld, Part.reg_setReg, bits_setBits _ _ _ _ hw]

/-- A bit that was set reads as set. -/
theorem Part.bit_setBit_same (p : Part) (a i : Nat) (b : Bool) (hi : i < 32) :
    (p.setBit a i b).bit a i = b := by
  simp [Part.bit, Part.setBit, Part.setFld, Part.reg_setReg, bitAt_setBits_one _ _ _ hi]

/-- Reading a register after time has moved. -/
@[simp] theorem Part.reg_at (t : Instant) (off : Nat) : (p.at t).reg off = p.reg off := rfl

@[simp] theorem Part.regsWf_at (t : Instant) : (p.at t).regsWf = p.regsWf := rfl

/-! Memory. -/

/-- A byte after one was stored. -/
@[simp] theorem Part.byte_setByte (p : Part) (a : Nat) (v : Byte) (b : Nat) :
    (p.setByte a v).byte b = if b = a then v else p.byte b := sGet_sSet memBlank p.mem.bytes a v b

@[simp] theorem Part.setByte_memWf (h : p.mem.wf = true) (a : Nat) (v : Byte) : (p.setByte a v).mem.wf = true :=
  sCanon_sSet h a v

@[simp] theorem Part.placeBytes_memWf (h : p.mem.wf = true) (a : Nat) (bs : List Byte) :
    (p.placeBytes a bs).mem.wf = true := by
  induction bs generalizing p a with
  | nil => exact h
  | cons b bs ih => exact ih (Part.setByte_memWf h a b) (a + 1)

@[simp] theorem Part.breakResv_mem (p : Part) (a n : Nat) : (p.breakResv a n).mem = p.mem := by
  dsimp only [Part.breakResv]; split <;> rfl

@[simp] theorem Part.breakResv_regs (p : Part) (a n : Nat) : (p.breakResv a n).regs = p.regs := by
  dsimp only [Part.breakResv]; split <;> rfl

@[simp] theorem Part.placeBytes_regs (p : Part) (a : Nat) (bs : List Byte) : (p.placeBytes a bs).regs = p.regs := by
  induction bs generalizing p a with
  | nil => rfl
  | cons b bs ih => exact ih (p.setByte a b) (a + 1)

/-- Clearing the poison of words that are written whole changes that alone. -/
theorem Part.clearPoison_frame (p : Part) (a n : Nat) :
    (p.clearPoison a n).regs = p.regs ∧ (p.clearPoison a n).mem.bytes = p.mem.bytes := by
  dsimp only [Part.clearPoison]; split <;> exact ⟨rfl, rfl⟩

@[simp] theorem Part.clearPoison_regs (p : Part) (a n : Nat) : (p.clearPoison a n).regs = p.regs := (p.clearPoison_frame a n).1

@[simp] theorem Part.clearPoison_bytes (p : Part) (a n : Nat) : (p.clearPoison a n).mem.bytes = p.mem.bytes :=
  (p.clearPoison_frame a n).2

@[simp] theorem Part.storeBytes_regs (p : Part) (a : Nat) (bs : List Byte) : (p.storeBytes a bs).regs = p.regs := by
  simp [Part.storeBytes]

/-- Every store keeps the canonical form of memory. -/
@[simp] theorem Part.storeBytes_memWf (h : p.mem.wf = true) (a : Nat) (bs : List Byte) :
    (p.storeBytes a bs).mem.wf = true := by
  have := Part.placeBytes_memWf h a bs
  simpa [Part.storeBytes, MemState.wf] using this

@[simp] theorem Part.store_memWf (h : p.mem.wf = true) (a k n : Nat) : (p.store a k n).mem.wf = true :=
  Part.storeBytes_memWf h a _

@[simp] theorem Part.storeWord_memWf (h : p.mem.wf = true) (a : Nat) (w : Word) : (p.storeWord a w).mem.wf = true :=
  Part.store_memWf h a 4 _

/-- Bytes after some were placed. -/
theorem Part.byte_placeBytes (p : Part) (a : Nat) (bs : List Byte) (b : Nat) :
    (p.placeBytes a bs).byte b = if a ≤ b ∧ b < a + bs.length then bs.getD (b - a) 0 else p.byte b := by
  induction bs generalizing p a with
  | nil =>
    rw [if_neg (by simp)]; rfl
  | cons x bs ih =>
    simp only [Part.placeBytes]
    rw [ih, Part.byte_setByte]
    simp only [List.length_cons]
    by_cases h1 : b = a
    · subst h1
      rw [if_neg (by omega), if_pos rfl, if_pos (by omega)]; simp
    · by_cases h2 : a + 1 ≤ b ∧ b < a + 1 + bs.length
      · rw [if_pos h2, if_pos (by omega)]
        have : b - a = (b - (a + 1)) + 1 := by omega
        rw [this]; simp
      · rw [if_neg h2, if_neg h1, if_neg (by omega)]

@[simp] theorem Part.byte_breakResv (p : Part) (a n b : Nat) : (p.breakResv a n).byte b = p.byte b := by
  simp [Part.byte]

@[simp] theorem Part.byte_clearPoison (p : Part) (a n b : Nat) : (p.clearPoison a n).byte b = p.byte b := by
  simp [Part.byte]

/-- Bytes after a store: the stored ones read as stored, every other as before. -/
theorem Part.byte_storeBytes (p : Part) (a : Nat) (bs : List Byte) (b : Nat) :
    (p.storeBytes a bs).byte b = if a ≤ b ∧ b < a + bs.length then bs.getD (b - a) 0 else p.byte b := by
  simp [Part.storeBytes, Part.byte_placeBytes]

end Sys2Proof.Machine
end

