-- ==== Sys2Proof/Laws/Run.lean ====
section
/-! SUPPORT. What the three forms of a meaning do: change the part where it runs, or leave the state as it is; and how the
statements' words unfold. -/

namespace Sys2Proof.Machine

variable {s : State} {f : Part → Part}

/-- A meaning where the part runs. -/
theorem State.run_alive (h : s.part.alive = true) : s.run f = .next { s with part := f s.part } := by
  simp [State.run, h]

/-- A meaning while the part does not run. -/
theorem State.run_dead (h : s.part.alive = false) : s.run f = .next s := by
  simp [State.run, h]

/-- A part that is held in reset does not run. -/
theorem Part.alive_of_held {p : Part} (h : p.clk.held.isSome = true) : p.alive = false := by
  cases hh : p.clk.held <;> simp_all [Part.alive]

/-- A meaning of the host SPI port out of reset. -/
theorem State.runRom_out (h : s.part.clk.held = none) : s.runRom f = .next { s with part := f s.part } := by
  simp [State.runRom, h]

/-- A meaning of the host SPI port in reset. -/
theorem State.runRom_held (h : s.part.clk.held.isSome = true) : s.runRom f = .next s := by
  cases hh : s.part.clk.held <;> simp_all [State.runRom]

/-- A meaning of the reset logic. -/
theorem State.runAlways_eq : s.runAlways f = .next { s with part := f s.part } := rfl

/-- A command whose meaning runs completes with what its change gives. -/
theorem Does.of_run {i : Instr} {P : Part → Prop} (he : exec i s = s.run f) (h : s.part.alive = true) (hp : P (f s.part)) :
    Does i s P := ⟨f s.part, by rw [he, State.run_alive h], hp⟩

/-- A change that leaves the part as it is leaves the state as it is. -/
theorem Idles.of_run {i : Instr} (he : exec i s = s.run f) (hp : f s.part = s.part) : Idles i s := by
  unfold Idles
  rw [he]
  by_cases h : s.part.alive = true
  · rw [State.run_alive h, hp]
  · rw [State.run_dead (by simpa using h)]

/-- One register was written. -/
theorem RegsOnly.setReg (p : Part) (a : Nat) (v : Word) : RegsOnly p (p.setReg a v) [a] := by
  refine ⟨rfl, fun off h => ?_⟩
  simp only [List.mem_singleton] at h
  simp [h]

theorem RegsOnly.refl (p : Part) (l : List Nat) : RegsOnly p p l := ⟨rfl, fun _ _ => rfl⟩

/-- Two changes of registers one after the other. -/
theorem RegsOnly.trans {p q r : Part} {l : List Nat} (h1 : RegsOnly p q l) (h2 : RegsOnly q r l) : RegsOnly p r l := by
  refine ⟨?_, fun off h => by rw [h2.2 off h, h1.2 off h]⟩
  rw [h2.1, h1.1]

theorem RegsOnly.mono {p q : Part} {l m : List Nat} (h : RegsOnly p q l) (hm : ∀ x ∈ l, x ∈ m) : RegsOnly p q m :=
  ⟨h.1, fun off ho => h.2 off (fun hx => ho (hm off hx))⟩

theorem RegsOnly.at (p : Part) (t : Instant) (l : List Nat) : RegsOnly p (p.at t) l := ⟨rfl, fun _ _ => rfl⟩

end Sys2Proof.Machine
end

