-- ==== Sys2Proof/Tests/Slice0.lean ====
section
/-! SUPPORT. Tests: ill-formed commands that WellFormed refuses, one step of small states with results worked out from the
spec's tables, and for every statement with hypotheses states and operands that meet them. -/

namespace Sys2Proof.Tests

open Sys2Proof.Machine

set_option maxRecDepth 20000
set_option exponentiation.threshold 600

/-- A state with some registers set, everything else as after reset. -/
def rg (l : List (Nat × Nat)) : State := { part := { regs := l.map (fun e => (e.1, BitVec.ofNat 32 e.2)) } }

/-- The part of such a state. -/
def rp (l : List (Nat × Nat)) : Part := (rg l).part

/-- What a command leaves of the part. -/
def after (i : Instr) (s : State) : Part := partAfter i s

/-! Witnesses: the machine as a whole. -/

theorem test_witness_StepRunsFrontCommand :
    ({ State.reset with pending := [.sysOccRead 0] } : State).pending = .sysOccRead 0 :: [] ∧ State.reset.pending = [] := by
  decide

theorem test_witness_ResetHoldsThePart :
    let s : State := { part := { clk := { held := some 2 } }, pending := [.sysOccRead 0] }
    let i : Instr := .sysOccRead 0
    s.part.clk.held.isSome = true ∧ (∀ b t, i ≠ .powerOnReset b t) ∧ (∀ t, i ≠ .refclkReturn t) ∧
    (∀ r t, i ≠ .supplyReset r t) ∧ (∀ k xs t, i ≠ .monitorSample k xs t) ∧ (∀ t, i ≠ .vaultWake t) ∧
    (∀ c t, i ≠ .tamper c t) ∧ s.pending = i :: [] :=
  ⟨rfl, nofun, nofun, nofun, nofun, nofun, nofun, rfl⟩

theorem test_witness_CanonicalFormKept :
    State.reset.canonical ∧ step State.reset = .next State.reset := ⟨⟨by decide, by decide⟩, rfl⟩

theorem test_witness_ResetValues : (rowAt (Reg.PWM_TBCFG 1)).any (fun r => r.st ≠ 0) = true := by decide

/-- A task with the highest identity and slot. -/
def task31 : CycTask := { desc := ⟨31, true, 0, 2, 1000, 2, 0, 0, 0, 0, 0, 0, [], [], [], none⟩ }

theorem test_witness_RangesKept :
    let s : State := { part := { cyc := { tasks := [task31] } } }
    s.part.ranged ∧ step s = .next s :=
  ⟨⟨by decide, nofun, nofun⟩, rfl⟩

/-! Witnesses: registers, commits, the system block. -/

theorem test_witness_RegisterWriteByAccessCode :
    State.reset.part.alive = true ∧ aliasOf Reg.GPIO_EVT = none ∧ (State.reset.part.at 0).writeAct .host Reg.GPIO_EVT 1 = none ∧
    (rowAt Reg.GPIO_EVT).any (fun r => r.st = 0 && !r.joint) = true := by decide

theorem test_witness_PairsAreReadAndWrittenWhole :
    let h : State := { part := { bus := { latch := [(heldKey .host (Reg.SEC_DBGADDR_LO + 4), 7)] } } }
    State.reset.part.alive = true ∧ pairAt Reg.SEC_DBGADDR_LO = .lo ∧ pairAt (Reg.SEC_DBGADDR_LO + 4) = .hi ∧
    sFind h.part.bus.latch (heldKey .host (Reg.SEC_DBGADDR_LO + 4)) = some 7 ∧
    sFind State.reset.part.bus.latch (heldKey .host (Reg.SEC_DBGADDR_LO + 4)) = none ∧
    ((rowAt Reg.SEC_DBGADDR_LO).any (fun r => r.joint && r.pair = .lo)) = true ∧ aliasOf Reg.SEC_DBGADDR_LO = none ∧
    (rowAt (Reg.SEC_DBGADDR_LO + 4)).isSome = true ∧ (BitVec.ofNat 24 (Reg.PWM_ANCHOR_HI 1)).toNat = Reg.PWM_ANCHOR_HI 1 ∧
    (BitVec.ofNat 24 Reg.HOST_SUMMARY_HI).toNat = Reg.HOST_SUMMARY_HI := by decide

/-- A pending commit of the monitors' set, and of group A's pulses while its timebase runs. -/
def pend : Part := { (rp [(Reg.PWM_TBSTAT 0, 2 ^ 31)]) with
  commits := [{ unit := .mon, tag := 3, snap := [(Reg.MON_TWARN, 1)] }, { unit := .pwm .A, tag := 4, snap := [] }] }

theorem test_witness_CommitsMoveSnapshots :
    let s : State := { part := pend }
    s.part.alive = true ∧ (rowAt (baseOff (Reg.MON_TWARN + 0x8000))).any (fun r => r.st ≠ 0 && r.pair = .single) = true ∧
    (rowAt (Reg.PWM_ANCHOR_LO 1)).any (fun r => r.st ≠ 0 && r.pair = .lo) = true ∧
    (rowAt (Reg.PWM_ANCHOR_HI 1)).any (fun r => r.st ≠ 0 && r.pair = .hi) = true ∧
    s.part.commitPending .mon = true ∧ State.reset.part.commitPending .cyc = false ∧
    ((rp [(stagedOff Reg.CYC_RIOCFG, 0)]).at 0).unitCheck [.cyc] .cyc = some (1, Reg.CYC_RIOCFG) ∧
    (State.reset.part.at 0).unitCheck [.mon] .mon = none ∧
    s.part.commits.find? (fun c => c.unit = .mon) = some { unit := .mon, tag := 3, snap := [(Reg.MON_TWARN, 1)] } ∧
    s.part.sourceRuns .mon = false ∧ (([(Reg.MON_TWARN, (1 : Word))].map (·.1)).Nodup) ∧
    unitStat .mon ∉ [(Reg.MON_TWARN, (1 : Word))].map (·.1) ∧ s.part.sourceRuns (.pwm .A) = true := by decide

theorem test_witness_JointCommitIsOneSet :
    let us := fun (m : BitVec 8) => (jointUnits.zipIdx.filter (fun e => m.toNat.testBit e.2)).map (·.1)
    let j : Part := { joint := some { tag := 1, grp := none, parts := [] } }
    let k : Part := { (rp [(Reg.PWM_TBSTAT 0, 2 ^ 31)]) with joint := some { tag := 1, grp := some .A, parts := [] } }
    let z : Part := (rp [(stagedOff (Reg.PWM_PERIOD 0), 0)]).at 0
    State.reset.part.alive = true ∧ j.joint.isSome = true ∧ State.reset.part.joint = none ∧
    (∀ u ∈ us 0xFF, State.reset.part.commitPending u = false) ∧ (∃ u ∈ us 3, u.grp? = some .A) ∧ (∃ u ∈ us 3, u.grp? = some .B) ∧
    (∀ u ∈ us 0x10, u.grp? ≠ some .B) ∧ ((us 0x10).findSome? (z.unitCheck (us 0x10))).isSome = true ∧
    (us 0).findSome? ((State.reset.part.at 0).unitCheck (us 0)) = none ∧
    k.tbRuns .A = true ∧ j.tbRuns .A = false := by decide

theorem test_witness_SystemAndPins :
    let f : Part := { bus := { swrst := some 5, resv := [(20, 8)], pool := [(20, 1)] } }
    State.reset.part.clk.held = none ∧ (0 : Word) ≠ 0x53575253 ∧ (∀ a, State.reset.part.bus.swrst = some a → a + msec 1 < 0) ∧
    f.bus.swrst = some 5 ∧ 5 + msec 1 ≤ 5 + msec 1 ∧ countOf State.reset.part.bus.resv Initiator.host.ix < reservedEntries .host ∧
    reservedEntries .host ≤ countOf f.bus.resv Initiator.host.ix ∧ 0 < f.fld Reg.SYS_POOL 0 8 ∧
    { f with regs := [(Reg.SYS_POOL, 0)] }.fld Reg.SYS_POOL 0 8 = 0 ∧ 0 < countOf f.bus.pool Initiator.host.ix ∧
    f.fld Reg.SYS_POOL 0 8 < 255 ∧ countOf State.reset.part.bus.pool Initiator.host.ix = 0 := by decide

/-! Witnesses: grid figure and sequencing library. -/

/-- Group A runs a grid figure: its inputs have sources, a sample is open, parameter word 256 holds a command. -/
def gridS (cmd t0 : Nat) (x : GridState) (l : SeqLib) (mode : Nat) (mem : List Host.Cell) : State :=
  { part := { (rp (((List.range 17).map (fun k => (Reg.CLE_IPSRC 0 k, 1))) ++ [(Reg.CLE_EP 0 15, mode)])) with
      cle := vset (Vector.replicate 2 {}) 0
        { loaded := true, isGrid := true, open_ := true, t0 := t0, pfile := [(256, BitVec.ofNat 32 cmd)], grid := x }
      lib := l
      mem := { bytes := mem } } }

/-- The words 7, 11 to 15 in force, all 1, and a profile with RT_EN. -/
def gridX : GridState := { faultWords := List.replicate 6 0x3F800000, profile := [0x10000] }

theorem test_witness_GridCommands :
    let s := fun (cmd mode : Nat) (acted : Bool) => gridS (2 ^ 24 + cmd) 0 { gridX with mode := mode, acted := acted } {} 0 []
    let x := fun (s : State) => (s.part.cg .A).grid
    let w := fun (s : State) => s.part.gw .A 256
    (s 0 1 true).part.alive = true ∧ (s 0 1 true).part.gridOpen .A = true ∧ bits (w (s 0 1 true)) 24 8 ≠ (x (s 0 1 true)).seqAck ∧
    (x (s 0 1 true)).acted = true ∧
    (∀ c < 9, bits (w (s c 2 false)) 0 8 = c ∧ (x (s c 2 false)).acted = false ∧
      (s c 2 false).part.gridTripsNow .A (x (s c 2 false)) = false ∧ (s c 2 false).part.gridOwn .A (x (s c 2 false)) = none) ∧
    (let a := s (8 + 0x160000) 7 false
     bits (w a) 0 8 = 8 ∧ 0x10 ≤ bits (w a) 16 8 ∧ bits (w a) 16 8 ≤ 0x16 ∧ (x a).mode ≠ 0 ∧ (x a).mode ≠ 8 ∧
      a.part.gridTripsNow .A (x a) = false) ∧
    bits (w (s (8 + 0x170000) 7 false)) 16 8 = 0x17 ∧ (x (s (8 + 0x100000) 0 false)).mode = 0 := by decide

theorem test_witness_GridTimedEvents :
    let e : GridEpisode := { start := 0, beyond := some 0 }
    let n : GridEpisode := { start := 0, inside := some 0 }
    let s := fun (x : GridState) => gridS 0 (sec 10) x {} 0 []
    let up : GridState := { gridX with mode := 5, uv := some e }
    let down : GridState := { gridX with mode := 7, ov := some e }
    let logs : GridState := { gridX with mode := 6, uv := some e, profile := [0] }
    (s up).part.alive = true ∧ (s up).part.gridOpen .A = true ∧ (s up).part.periodsSince .A 1 0 = true ∧
    up.mode ∈ [5, 6, 7] ∧ up.acted = false ∧ bitAt (gridProf up 0) 16 = true ∧ down.uv = none ∧ down.ov = some e ∧
    bitAt (gridProf logs 0) 16 = false ∧ { gridX with uv := some n }.uv = some n ∧ n.inside = some 0 ∧
    (let r : GridState := { gridX with mode := 6, freeAt := some 0 }
     (s r).part.gridTripsNow .A r = false ∧ (s r).part.gridTripWaits .A r = false ∧
     r.uv = none ∧ r.ov = none) ∧
    (let f : GridState := { gridX with mode := 3, tbs := 0x41200000 }
     fpScaled f.tbs ≤ tauUnits (sec 10 - f.rampAt) ∧ tauUnits (sec 9 - f.rampAt) < fpScaled f.tbs ∧
     (s f).part.gridTripsNow .A f = false ∧ (s f).part.gridTripWaits .A f = false) ∧
    (s gridX).part.periodsSince .A 10 0 = true ∧ (s gridX).part.periodsSince .A 10 (sec 10) = false ∧
    fpScaled (gridX.faultWords.getD 2 0) ≤ tauUnits (sec 1) ∧ tauUnits (sec 1 - 1) < fpScaled (gridX.faultWords.getD 2 0) ∧
    (0 + sec 10 ≤ sec 10 ∧ sec 10 - 1 < 0 + sec 10) := by decide

theorem test_witness_LibraryHostCommands :
    let s := fun (c mode : Nat) => gridS 0 0 {} {} mode [(libBase, BitVec.ofNat 8 c)]
    (s 1 0).part.alive = true ∧ (s 1 0).part.libGrp = some .A ∧
    (∀ c ∈ [1, 2, 3, 4, 5], (s c 0).part.loadWord libBase = BitVec.ofNat 32 c) ∧
    (∀ m < 9, (s 1 m).part.epMode .A = m) ∧ (s 3 8).part.lib.fb.cb1 = false ∧ (s 3 8).part.fld Reg.GATE_LATCH 0 24 = 0 ∧
    (s 3 8).part.stoHold = false ∧ libFault libDefaults = none ∧ (libFault []).isSome = true ∧
    (s 1 0).part.loadWord (libBase + 8) = (s 1 0).part.lib.tcommit := by decide

theorem test_witness_LibraryTimers :
    let s := fun (l : SeqLib) (mode : Nat) => gridS 0 0 {} l mode []
    let q : SeqLib := { phase := .sync, held := some 0 }
    let f : SeqLib := { phase := .slot, inRange := some 0 }
    let d : SeqLib := { phase := .slot, dead := some 0 }
    let c := (s { phase := .charge } 1).part
    let n := ((s { f with words := libDefaults.set 15 1 } 2).part.setReg Reg.RING_STAT 0x80000001).setReg (Reg.RING_PSTAT 0) 0x80000000
    c.alive = true ∧ c.libGrp = some .A ∧ c.lib.phase = .charge ∧ c.lib.kmOn = false ∧ c.lib.since + c.libT 2 ≤ sec 100 ∧
    0 < c.lib.since + c.libT 2 ∧ (s q 4).part.epMode .A = 4 ∧ sec 1 ≤ (sec 1 - 0) * (s q 4).part.gridHz .A ∧
    (0 - 0) * (s q 4).part.gridHz .A < sec 1 ∧ (s q 4).part.stoHold = false ∧ q.cb1 = false ∧
    0 + c.libT 5 + msec 20 ≤ sec 100 ∧ 0 + c.libT 9 ≤ sec 3600 ∧
    (n.libWait .A + n.libT 4 ≤ sec 3600 ∧ 0 < n.libWait .A + n.libT 4 ∧ 0 + n.libT 4 ≤ sec 3600) ∧
    (f.inRange = some 0 ∧ d.inRange = none ∧ d.dead = some 0) ∧ 0 + sec 2 ≤ sec 2 ∧ sec 2 - 1 < 0 + sec 2 ∧
    0 + msec 10 ≤ msec 10 ∧ msec 10 - 1 < 0 + msec 10 := by decide

/-! Witnesses: the control-law engine and Heloryx-V. -/

/-- Lanes 0 to 2 in the states given, of group A; the group's state and mode; further registers. -/
def cleS (states : List Nat) (ls : List Lane) (c : CleGroup) (regs : List (Nat × Nat)) : State :=
  { part := { (rp (states.zipIdx.map (fun e => (Reg.CLE_LSTAT e.2, e.1)) ++ regs)) with
      lanes := Vector.ofFn (fun i => ls.getD i.val {})
      cle := vset (Vector.replicate 2 {}) 0 c } }

/-- The register MODE of group A: TMR. -/
def tmr : Nat × Nat := (Reg.CLE_GSTAT 0, 2 ^ 24)

theorem test_witness_SampleTick :
    let s : Part := { (rp [(Reg.PWM_TBSTAT 0, 2 ^ 31), tmr]) with }
    let u := s.nextUpdate .A
    State.reset.part.tbRuns .A = false ∧ s.alive = true ∧ s.tbRuns .A = true ∧ (s.tb .A).stopReq = false ∧
    s.updateTime .A u = some u ∧ s.updateTime .A (u + 2 * countUnits) = none ∧ s.groupRuns .A = true ∧ s.commits = [] ∧
    s.joint = none ∧ (s.cg .A).exch = none ∧ (s.cg .A).load = none ∧ (s.cg .A).haltNext = false ∧ (s.cg .A).runReq = none ∧
    s.pair_.armed = none ∧ s.pair_.openAt = none := by decide

theorem test_witness_VoterWord :
    let e : VoteWord := { addr := 0x1003F, val := some 5 }
    let n : VoteWord := { addr := 0x10000, val := none }
    let s := fun (a b c : VoteWord) => cleS [1, 1, 1] [{ out := [a] }, { out := [b] }, { out := [c] }]
      { open_ := true, loaded := true, img := [((0x100 + 8 * 63) / 4, 1)] } [tmr]
    let ws := fun (s : State) => (s.part.members .A).filterMap (fun n => (s.part.lane n).out[0]?)
    State.reset.part.alive = true ∧ (State.reset.part.cg .A).open_ = false ∧ (s n n n).part.alive = true ∧
    ((s n n n).part.cg .A).open_ = true ∧
    (∀ m ∈ (s n n e).part.members .A, ((s n n e).part.lane m).differs [] = false) ∧ agreed (ws (s n n n)) = some n ∧
    (∀ x ∈ ws (s n n n), x = n) ∧ n.val = none ∧ agreed (ws (s e e e)) = some e ∧ e.val = some 5 ∧ e.addr = 0x10000 + 63 ∧
    (s e e e).part.epType .A 63 ≠ 0 ∧ agreed (ws (s n n e)) = some n ∧ agreed (ws (s n e { e with val := some 6 })) = none ∧
    2 ≤ ((s n e e).part.members .A).length ∧ (s n n n).part.groupRuns .A = true ∧ State.reset.part.groupRuns .A = false := by
  decide

theorem test_witness_SignatureDecision :
    let s := fun (st : List Nat) (crcs : List Word) (c : CleGroup) =>
      cleS st (crcs.map (fun x => { crc := x, ended := true })) { c with open_ := true } [tmr]
    let a := s [1, 1, 1] [7, 7, 7] {}
    let b := s [1, 1, 1] [7, 9, 7] {}
    let d := s [1, 1] [7, 9] { prevNoMaj := true }
    let late := cleS [1, 1, 1] [] { open_ := true } [tmr]
    a.part.alive = true ∧ (a.part.cg .A).open_ = true ∧ (a.part.cg .A).t0 ≤ 0 ∧ (a.part.cg .A).voter.noMaj = false ∧
    a.part.members .A = [0, 1, 2] ∧ (∀ n ∈ a.part.members .A, (a.part.lane n).ended = true ∧ (a.part.lane n).crc = 7 ∧
      (a.part.lane n).out.length ≤ (a.part.cg .A).voter.decided.length) ∧ (a.part.cg .A).load = none ∧
    b.part.members .A = [0, 1, 2] ∧ (b.part.lane 1).crc ≠ (b.part.lane 0).crc ∧ (b.part.lane 0).crc = (b.part.lane 2).crc ∧
    d.part.members .A = [0, 1] ∧ (d.part.lane 0).crc ≠ (d.part.lane 1).crc ∧ (d.part.cg .A).prevNoMaj = true ∧
    late.part.laneState 0 = 1 ∧ (late.part.lane 0).ended = false ∧ 0 < late.part.lateAt .A := by decide

theorem test_witness_LaneReserves :
    let s := fun (o : Bool) (l : Option Loading) => cleS [1, 2, 6, 5, 3] [{ win := some 0 }] { open_ := o, load := l } [tmr]
    let x : Loading := { lane := 7, unit := 0, cause := 1 }
    (s true none).part.alive = true ∧ (s true none).part.laneState 0 = 1 ∧ (s true none).part.laneState 1 = 2 ∧
    (s true none).part.laneState 2 = 6 ∧ (s true none).part.laneState 3 = 5 ∧ (s true none).part.laneState 4 = 3 ∧
    (s true none).part.laneState 5 ∉ [1, 2, 5, 6] ∧ ((s true none).part.cg .A).open_ = true ∧
    ((s false none).part.cg .A).open_ = false ∧ ((s true none).part.lane 0).win = some 0 ∧
    ((s true (some x)).part.cg .A).load = some x ∧ x.lane < 8 ∧ ((s true none).part.members .A).head? = some 0 := by decide

theorem test_witness_RunAndFade :
    let s := cleS [1, 1, 1] [] { fadeK := 256, fadeN := 256 } [tmr]
    let q := cleS [] [] { loaded := true } []
    s.part.alive = true ∧ s.part.groupRuns .A = true ∧ q.part.groupRuns .A = false ∧ (q.part.cg .A).loaded = true ∧
    (State.reset.part.cg .A).loaded = false ∧ (State.reset.part.cg .A).exch = none ∧ (s.part.cg .A).fadeK ≠ 0 ∧
    (s.part.cg .A).fadeN ≤ (s.part.cg .A).fadeK ∧ (s.part.cg .A).open_ = false ∧ (State.reset.part.cg .A).fadeK = 0 := by decide

theorem test_witness_ProbeCommands :
    let ctl := Reg.CLE_CAPCTL 0
    let s := cleS [] [] { probe := { corrSample := 2 ^ 40, capEntry := 8192 } } [(ctl, 0x100)]
    s.part.alive = true ∧ s.part.bit ctl 8 = true ∧
    2 ^ s.part.fld (Reg.CLE_CORRCFG 0) 0 5 * (s.part.fld (Reg.CLE_CORRCFG 0) 8 8 + 1) ≤ (s.part.cg .A).probe.corrSample ∧
    State.reset.part.bit ctl 8 = false ∧ s.part.bit (Reg.CLE_CAPCFG 0) 0 = false ∧ 8192 ≤ (s.part.cg .A).probe.capEntry ∧
    (State.reset.part.cg .A).probe.capEntry < 8192 := by decide

theorem test_witness_CompareWrites : State.reset.part.alive = true := rfl

/-- A lane of group A that runs a sample, with predicate 1 false. -/
def vS (l : Lane) (c : CleGroup) : State := cleS [1, 1, 1] [l] { c with open_ := true } [tmr]

/-- An operation on lane 0 in bundle 8191. -/
def vO (d s1 s2 p mod : Nat) : VOp :=
  { lane := 0, bundle := 8191, d := BitVec.ofNat 6 d, s1 := BitVec.ofNat 6 s1, s2 := BitVec.ofNat 6 s2, p := BitVec.ofNat 3 p,
    mod := BitVec.ofNat 5 mod }

theorem test_witness_VArithmetic :
    (∀ m < 32, vActs (vS {} {}) (vO 63 63 63 0 m)) ∧
    (let l : Lane := { v := [(0, 0x40000000), (1, 0x3F800000)], fprev := 2 ^ 15 }
     let x := vLane (vS l {}) (vO 2 0 1 0 15)
     fpLt (fpAbs (x.vreg 1)) (x.vreg 0) = true ∧ fpLt (x.vreg 2) (fpNeg (fpAbs (x.vreg 1))) = false ∧
     fpLt (fpNeg (x.vreg 0)) (fpNeg (x.vreg 1)) = true ∧ x.fprev.testBit 15 = true ∧ x.fprev.testBit 14 = false) := by
  unfold vActs
  decide

theorem test_witness_VMemoryAndTransforms :
    let s := vS { v := [(0, 0x40000000)] } { fadeK := 256, fadeN := 256 }
    let o := vO 0 0 1 0 16
    s.part.alive = true ∧ s.part.laneRuns 0 = true ∧ (vLane s o).preg 0 = true ∧
    (s.part.cg .A).fadeN ≤ (s.part.cg .A).fadeK ∧ (s.part.cg .A).probe.site = none ∧
    (fpLimit 0x40000000 0 0x3F800000).2.2 = true ∧ (fpLimit 0 0 0x3F800000).2.2 = false := by decide

theorem test_witness_VTimingAndGuards :
    let s := vS {} {}
    State.reset.part.laneRuns 0 = false ∧ s.part.alive = true ∧ s.part.laneRuns 0 = true ∧
    (vLane s (vO 0 0 0 1 0)).preg 1 = false ∧ (vLane s (vO 0 0 0 0 0)).inflight = [] ∧ (s.part.lane 0).inflight = [] := by decide

theorem test_witness_FloatingPoint : fpIsNan 0x7FC00000 = true ∧ bitAt 0xBF800000 31 = true ∧ bits 0xBF800000 23 8 ≠ 0 := by
  decide

theorem test_witness_SelfScan :
    let run : ScanRun := { ws := [], op := none, n := 0, bins := [], k := 0 }
    let ok : List Host.Cell := []
    let bg := gridS 0 0 {} {} 0 ok
    let c := fun (x : SelfScan) => { bg with part := bg.part.onCg .A (fun g => { g with scan := x }) }
    let s := c { bg := true }
    let ws := s.part.scanWords .A
    s.part.alive = true ∧ (s.part.cg .A).scan.bg = true ∧ (s.part.cg .A).scan.run = none ∧ s.part.gridRuns .A = true ∧
    s.part.opHolding (resOf 3 0) = none ∧ 0 + fpSeconds (ws.getD 1 0) ≤ sec 3600 ∧ 0 < fpSeconds (ws.getD 1 0) ∧
    ((c { run := some run }).part.cg .A).scan.run = some run ∧ 30 * run.n ≤ run.k ∧ run.bins.length ≤ 0 ∧ (s.part.cg .A).exch = none ∧
    (s.part.cg .A).scan.log = [] ∧
    (let r := gridS 0 0 {} {} 0 [(scanBase .A + 0x20, 1)]
     r.part.loadWord (scanBase .A + 0x20) = 1 ∧ State.reset.part.loadWord (scanBase .A + 0x20) ≠ 1) := by decide

/-! Witnesses: protection, sensing, gates, timebases. -/

/-- Registers, the sensing state, the PWM state and the present instant. -/
def ioS (l : List (Nat × Nat)) (x : SenseState) (y : PwmState) (now : Nat) : State :=
  { part := { rp l with sense := x, pwm := y, now := now } }

/-- Leg 0 is enabled and lies on pair 0. -/
def leg0 : Nat × Nat := (Reg.PWM_LEGCFG 0, 2 ^ 31)

theorem test_witness_ProtectionComparators :
    let on := [(Reg.PROT_CFG 3, 2 ^ 31), (Reg.PROT_LEGS 3, 1), leg0]
    let held : HeldTrip := { leg := 0, src := 3, t := 0 }
    let st : Standing := { src := 3, cls := 0, t := 0 }
    let s := fun (r : List (Nat × Nat)) (x : SenseState) => ioS (r ++ on) x { legs := vset (Vector.replicate 24 {}) 0 { blankEnd := 10 } } 0
    (s [] {}).part.alive = true ∧ (s [] {}).part.pcOn 3 = true ∧ (s [] {}).part.bit Reg.PROT_STAT 3 = false ∧
    (s [] {}).part.bit Reg.PROT_STAT 19 = false ∧ (s [] {}).part.legOn 0 = true ∧
    ((s [] {}).part.sourceLegs 3).testBit 0 = true ∧ ((s [] {}).part.sourceLegs 3).testBit 1 = false ∧
    ((s [] {}).part.leg 0).blankEnd ≤ 10 ∧ 9 < ((s [] {}).part.leg 0).blankEnd ∧ (s [] {}).part.pcOn 4 = false ∧
    (s [(Reg.PROT_STAT, 0x80008)] {}).part.bit Reg.PROT_STAT 3 = true ∧
    (s [(Reg.PROT_STAT, 0x80008)] {}).part.bit Reg.PROT_STAT 19 = true ∧
    (s [] {}).part.pcReleases 3 false = true ∧ (s [(Reg.PROT_CFG 3, 2 ^ 31 + 2 ^ 30)] {}).part.pcReleases 3 false = true ∧
    (let a := (s [] { held := [held], standing := [st] }).part
     a.sense.held.filter (fun h => h.leg = 0) = [held] ∧ a.stands held.src = true) ∧
    (let a := (s [] { held := [held] }).part
     a.sense.held.filter (fun h => h.leg = 0) = [held] ∧ a.stands held.src = false ∧ held.src < 14) ∧
    (bitAt (0x80000003 : Word) 31 = true ∧ bits (0x80000003 : Word) 0 4 < 14 ∧ bits (0x80000003 : Word) 0 4 ≠ 12) ∧
    (s [(Reg.PROT_RSVMAP 0, 0x80000003)] {}).part.bit (Reg.PROT_RSVMAP 0) 31 = true ∧
    ((0, 5) ∈ (s [] { armUntil := [(0, 5)] }).part.sense.armUntil ∧ (5 : Nat) ≤ 5 ∧ (4 : Nat) < 5) := by decide

theorem test_witness_ComparatorWithoutBand :
    (ioS [(Reg.PROT_CFG 3, 0xA0000000), (Reg.PROT_STAT, 8), (Reg.PROT_TRIP 3, 0)] {} {} 0).part.pcReleases 3 false = false := by
  decide

theorem test_witness_SensingChannels :
    let on := (Reg.SENSE_CFG 0, 2 ^ 31)
    let s := fun (r : List (Nat × Nat)) (x : SenseState) (now : Nat) => ioS (r ++ [on, (Reg.SENSE_FMOD 0, 20000000), leg0]) x {} now
    let c := fun (x : SenseCh) => ({ ch := vset (Vector.replicate 28 {}) 0 x } : SenseState)
    let rs := fun (x : SenseRsv) => ({ rsv := vset (Vector.replicate 4 {}) 0 x } : SenseState)
    let a := (s [] {} 0).part
    let m := (s [(Reg.SENSE_CFG 0, 0xA4000000), (Reg.SENSE_FLEGS 0 0, 1)] {} 0).part
    a.alive = true ∧ a.sdRuns 0 = true ∧ a.bit (Reg.SENSE_STAT 0) 30 = false ∧ a.sdAs 0 = some 0 ∧ a.sdRuns 1 = false ∧
    a.bit (Reg.SENSE_CFG 0) 26 = false ∧ a.bit (Reg.SENSE_CFG (a.sdCfg 0)) 29 = false ∧
    (s [(Reg.SENSE_STAT 0, 2 ^ 30)] {} 0).part.bit (Reg.SENSE_STAT 0) 30 = true ∧
    (s [(Reg.SENSE_STAT 0, 2 ^ 30)] {} 0).part.sdRuns 0 = true ∧
    (m.sdRuns 0 = true ∧ m.bit (Reg.SENSE_CFG (m.sdCfg 0)) 29 = true ∧ m.bit (Reg.SENSE_CFG 0) 26 = true ∧ m.legOn 0 = true) ∧
    ((s [] (c { mviol := 16 }) 0).part.sdCh 0).mviol = 16 ∧ (a.sdCh 0).mviol = 0 ∧
    ((a.sdCh 0).unsAt + a.modClocks 0 15 ≤ ((s [] {} (sec 1)).part.at 0).now ∧ 0 < (a.sdCh 0).unsAt + a.modClocks 0 15) ∧
    ((s [] (rs { req := some (63, none) }) 0).part.sdRsv 0).req = some (63, none) ∧
    ((s [] (rs { req := some (64, some 7) }) 0).part.sdRsv 0).req = some (64, some 7) ∧
    (let y : AuxConv := { slot := 1, input := 15, start := 0 }
     (s [] { aux := { busy := some y } } 0).part.sense.aux.busy = some y ∧ y.start + nsec 500 ≤ nsec 500 ∧ nsec 499 < y.start + nsec 500 ∧
      y.input < 16 ∧ a.sense.aux.busy = none ∧ (s [] { aux := { queue := [2] } } 0).part.sense.aux.queue = 2 :: []) ∧
    (let f := (s [(Reg.AUXADC_FRPER, 100)] { aux := { lastFree := some 0 } } 0).part
     f.freeDue (sec 1) = true ∧ f.freeDue 0 = false) := by decide

/-! Witnesses: gates and timebases. -/

/-- Pair 0 is enabled and belongs to leg 0. -/
def pair0 : List (Nat × Nat) := [(Reg.PWM_PCFG 0, 2 ^ 31), leg0]

theorem test_witness_GateFaults :
    let s := fun (r : List (Nat × Nat)) (y : PwmState) => ioS (r ++ pair0 ++ [(Reg.PAIR_STAT, 2 ^ 31)]) {} y (sec 1)
    let a := (s [] {}).part
    let on := (s [(Reg.GATE_GT_LO, 1)] {}).part
    let l := fun (x : Leg) => ({ legs := vset (Vector.replicate 24 {}) 0 x } : PwmState)
    let lat := fun (r : List (Nat × Nat)) (y : PwmState) => (s (r ++ [(Reg.GATE_LATCH, 1)]) y).part
    a.alive = true ∧ a.chanChecked 0 = true ∧ a.stoHold = false ∧ a.chanHome 0 < 48 ∧ a.gs 0 = false ∧ a.gt 0 = false ∧
    a.edgeAt 0 + a.tout 0 ≤ sec 1 ∧ on.gt 0 = true ∧ on.gs 0 ≠ on.gt 0 ∧ 0 ∉ on.pwm.shown ∧ a.ret 1 = false ∧
    (s [(Reg.GATE_GS_LO, 2)] {}).part.ret 1 = true ∧ a.chanChecked 4 = false ∧
    (s [(Reg.GATE_CHSTAT 0, 2 ^ 30)] {}).part.replaced 0 = true ∧
    a.replaced 0 = false ∧ a.floor = true ∧ (rp pair0).floor = false ∧ a.legOfPair 0 = some 0 ∧
    a.latched 0 = false ∧ (lat [] {}).latched 0 = true ∧ (lat [] {}).tripStands 0 (sec 1) = false ∧
    (lat [] { padBad := [0] }).tripStands 0 (sec 1) = true ∧ (lat [] {}).tbRuns .A = false ∧
    (lat [(Reg.PWM_TBSTAT 0, 2 ^ 31)] {}).tbRuns ((lat [(Reg.PWM_TBSTAT 0, 2 ^ 31)] {}).legGrp 0) = true ∧
    ((lat [] (l { clearing := some 5 })).leg 0).clearing = some 5 := by decide

theorem test_witness_GateReservesAndBuses :
    let sw := fun (x : GateSwap) => (ioS [] {} { swaps := vset (Vector.replicate 8 {}) 0 x } 0).part
    let bu := fun (r : List (Nat × Nat)) (x : Gbus) => (ioS (r ++ [(Reg.GATE_GBCFG 0, 2 ^ 31)]) {} { bus := vset (Vector.replicate 2 {}) 0 x } 0).part
    let c := sw { phase := .compare, agree := 8, periods := 64, slot := some 7 }
    let q := bu [] { req := some (.poll 3, 31, 255) }
    c.alive = true ∧ (c.gateSwap 0).phase = .compare ∧ 8 ≤ (c.gateSwap 0).agree ∧ 64 ≤ (c.gateSwap 0).periods ∧
    (c.at (sec 1)).edgeNear 0 (sec 1 - usec 2) (sec 1 + usec 2) = false ∧ (sw { phase := .selected, selAt := 0 }).gateSwap 0 =
      { phase := .selected, selAt := 0 } ∧ 0 + usec 1 ≤ usec 1 ∧ usec 1 - 1 < 0 + usec 1 ∧
    (sw {}).gateSwap 0 = {} ∧ (sw { phase := .compare, periods := 63 }).gateSwap 0 = { phase := .compare, periods := 63 } ∧
    (bu [] {}).bit (Reg.GATE_GBCFG 0) 31 = true ∧ ((bu [] {}).gbus 0).req = none ∧ ((bu [] {}).gbus 0).faults = [] ∧
    ((bu [] { faults := [5] }).gbus 0).faults = 5 :: [] ∧ (sw {}).bit (Reg.GATE_GBCFG 0) 31 = false ∧
    (let b := bu [(Reg.GATE_GBPOLL 0 1, 2 ^ 31)] { next := 31 }
     1 = ((b.gbus 0).next + 2) % 32 ∧ b.bit (Reg.GATE_GBPOLL 0 1) 31 = true ∧
     ∀ j < 2, b.bit (Reg.GATE_GBPOLL 0 (((b.gbus 0).next + j) % 32)) 31 = false) ∧
    (q.gbus 0).req = some (.poll 3, 31, 255) ∧ 31 < 32 ∧ 255 < 256 ∧
    (let body : List Byte := [0x80, 0, 0, 0, 0, 0]
     body.length = 6 ∧ (body.getD 0 0).toNat ≠ 31 + 0x80) ∧
    (let bad : List Byte := [0x9F, 0xFF, 0, 0, 0, 0, 0]
     crc8 (bad.take 6) ≠ (bad.getD 6 0).toNat ∧ ([] : List Byte).length ≠ 7) := by decide

theorem test_witness_Timebases :
    let s := fun (r : List (Nat × Nat)) (x : Timebase) => (ioS r {} { tb := vset (Vector.replicate 2 {}) 0 x } 0).part
    let run := (Reg.PWM_TBSTAT 0, 2 ^ 31)
    let stop := s [run] { stopReq := true }
    (s [] {}).alive = true ∧ (s [] {}).tbRuns .A = false ∧ (s [(Reg.PWM_TBCFG 0, 0)] {}).bit (Reg.PWM_TBCFG 0) 31 = false ∧
    (s [(Reg.PWM_TBCFG 0, 2 ^ 31)] {}).bit (Reg.PWM_TBCFG 0) 31 = true ∧ (s [run] {}).tbRuns .A = true ∧
    (s [run] {}).groupRuns .A = false ∧ (s [run, tmr] {}).groupRuns .A = true ∧ (s [run] {}).updateTime .A (sec 1) = none ∧
    stop.tbRuns .A = true ∧ (stop.tb .A).stopReq = true ∧ (stop.tb .A).apex = false ∧
    stop.updateTime .A (stop.nextUpdate .A) = some (stop.nextUpdate .A) ∧ stop.commits = [] ∧ stop.joint = none := by decide

/-- Leg 0 on pair 0, an NPC leg with pair 1 beside it where `npc` holds, under the leg command RUN. -/
def legS (npc : Bool) (r : List (Nat × Nat)) (x : Leg) (z : Sig) (e : List (Nat × Nat)) : Part :=
  (ioS (r ++ [(Reg.PWM_LEGCFG 0, 2 ^ 31 + npc.toNat * (2 ^ 30 + 256)), (Reg.PWM_PCFG 0, 2 ^ 31), (Reg.PWM_PCFG 1, 2 ^ 31),
      (Reg.PWM_TBSTAT 0, 2 ^ 31), tmr]) {}
    { legs := vset (Vector.replicate 24 {}) 0 x, sigs := vset (Vector.replicate 48 {}) 0 z, edgeAt := e } 0).part

theorem test_witness_GateHandshake :
    let hi : Sig := { live := true, lvl := true }
    let lo : Sig := { live := true, lvl := false }
    let run := (Reg.PWM_ACMPB 0, 1)
    let asc := legS false [(Reg.PWM_ACMPB 0, 2), (Reg.GATE_GT_LO, 2)] {} hi []
    let a := legS false [run] {} hi []
    let b := legS true [run, (Reg.PWM_ACMPA 0, 2 ^ 31), (Reg.GATE_GT_LO, 6), (Reg.GATE_GS_LO, 2)] { want := 5, direct := 5, oAt := sec 9 } hi []
    a.alive = true ∧ a.legOn 0 = true ∧ a.legNpc 0 = false ∧ a.legP0 0 < 24 ∧ (rp []).legOn 0 = false ∧ a.legMode 0 = .run ∧
    (legS false [] {} hi []).legMode 0 = .off ∧ asc.legMode 0 = .asc ∧ asc.gt 1 = true ∧
    (a.gt 1 = false ∧ a.ret 1 = false ∧ a.edgeAt 1 + a.fld (Reg.PWM_DT 0) 0 17 * tdcStep ≤ sec 1) ∧ (hi.due 0).lvl = true ∧
    (hi.due 0).live = true ∧ lo.lvl = false ∧ a.pairIndep 0 = false ∧
    (b.legOn 0 = true ∧ b.legNpc 0 = true ∧ b.legP1 0 < 24 ∧ b.legP1 0 ≠ b.legP0 0 ∧ b.legMode 0 = .run ∧ (b.leg 0).fromZ = false ∧
      (b.leg 0).want = 5 ∧ (b.leg 0).direct = 5 ∧ b.bit (Reg.PWM_ACMPA 0) 31 = true ∧
      [b.gt 0, b.gt 1, b.gt 2, b.gt 3] = [false, true, true, false] ∧ [b.ret 0, b.ret 1] = [false, true] ∧
      b.edgeAt 0 + b.fld (Reg.PWM_DT 0) 0 17 * tdcStep ≤ sec 1 ∧
      ¬ (b.leg 0).oAt + max (b.fld (Reg.PWM_MINPW 0) 0 16) (b.fld (Reg.PWM_MINPW 1) 0 16) * tdcStep ≤ sec 1) := by decide

/-! Witnesses: position interfaces, ramps, the supervisory cores. -/

/-- Interface 0 enabled in a mode, with CPR 100 at a count, further registers and the interface's state. -/
def posS (mode count : Nat) (r : List (Nat × Nat)) (x : PosIf) : Part :=
  { (rp (r ++ [(Reg.POS_CFG 0, 2 ^ 31 + mode * 2 ^ 28 + 16 * 65536), (Reg.POS_CPR 0, 100), (Reg.POS_COUNT 0, count)])) with
    pos := vset (Vector.replicate 4 {}) 0 x }

theorem test_witness_PositionInterfaces :
    let quad := posS 0 99 [] { a := true, b := false }
    let idx := posS 0 99 [(Reg.POS_CFG 0, 2 ^ 31 + 0x1800000 + 2 ^ 21), (Reg.POS_IDXWIN 0, 0x01000000)] { a := true, z := true }
    let sin := posS 1 5 [] { ampOut := 3, ampIn := 3 }
    let ser := posS 2 5 [(Reg.POS_SER 0, 8 * 256 + 16)] { frame := some 0, first := false }
    let arm := posS 0 98 [(Reg.POS_CMPCTL 0, 1), (Reg.POS_CMPCFG 0, 65536), (Reg.POS_LIST 0 0, 99)] {}
    quad.alive = true ∧ quad.posOn 0 = true ∧ quad.posMode 0 = 0 ∧ quad.posCount 0 < quad.cpr 0 ∧ quad.posCount 0 + 1 = quad.cpr 0 ∧
    (rp []).posOn 0 = false ∧ quad.posArmed 0 = false ∧
    (idx.posOn 0 = true ∧ bitAt (idx.reg (Reg.POS_CFG 0)) 21 = true ∧ (idx.pif 0).z = true ∧
      (idx.pif 0).a = bitAt (idx.reg (Reg.POS_CFG 0)) 23 ∧ (idx.pif 0).b = bitAt (idx.reg (Reg.POS_CFG 0)) 22 ∧
      (wrapCount 100 (99 - 0)).natAbs ≤ idx.fld (Reg.POS_IDXWIN 0) 24 8 ∧
      ({ idx with regs := [] } : Part).posOn 0 = false) ∧
    (sin.posOn 0 = true ∧ sin.posMode 0 = 1 ∧ sin.posCount 0 < sin.cpr 0 ∧ (sin.pif 0).ampOut = 3 ∧ 3 ≤ (sin.pif 0).ampIn) ∧
    (ser.posOn 0 = true ∧ ser.posMode 0 = 2 ∧ (ser.pif 0).frame = some 0 ∧ (ser.pif 0).first = false ∧ ser.posCount 0 < ser.cpr 0) ∧
    (arm.posArmed 0 = true ∧ 0 < arm.posLen 0 ∧ (arm.pif 0).fired.contains 0 = false ∧ (arm.reg (Reg.POS_LIST 0 0)).toNat = 99 ∧
      arm.fld (Reg.POS_CMPCFG 0) 28 2 ∈ [0, 1]) ∧
    (∀ k < quad.posLen 0, (quad.reg (Reg.POS_LIST 0 k)).toNat < quad.cpr 0) ∧
    ((posS 0 0 [(Reg.POS_CMPCFG 0, 65536), (Reg.POS_LIST 0 0, 100)] {}).cpr 0 ≤ 100) ∧
    ((posS 0 0 [] { pulse := some 7 }).pif 0).pulse = some 7 := by decide

theorem test_witness_RampCommands :
    let p := fun (x : RampCh) => { (rp []) with ramps := vset (Vector.replicate 16 {}) 3 x }
    (rp []).alive = true ∧ fpFinite 0x3F800000 = true ∧ fpFinite 0x7F800000 = false ∧
    ((p { newTgt := true, set := true }).ramp 3).newTgt = true ∧ ((p { newTgt := true, set := true }).ramp 3).set = true ∧
    ((p { hold := some true }).ramp 3).hold = some true ∧ ((p { hold := some false }).ramp 3).hold = some false := by decide

/-- Slot 0 at the start of system SRAM, on a 1 MiB page of all rights in its TLB; the contents of memory. -/
def slotS (x : CoreSlot) (mem : List Host.Cell) (r : List (Nat × Nat)) : State :=
  let page : TlbEntry := { page := 0x100, big := true, asid := 0, glob := true, leaf := 0x10000000 + 0x1F * 2 ^ 40 }
  { part := { (rp r) with
      core := { slots := vset (Vector.replicate 3 {}) 0 { x with pc := 0x10000000, tlb := [page] } }
      mem := { bytes := mem } } }

/-- An instruction of slot 0 with no field left over and no bit error. -/
def sH : SHead := { slot := 0, junk := false, ecc := [], t := 0 }

theorem test_witness_sRuns : sRuns (slotS {} [] []) sH :=
  ⟨by decide, by decide, rfl, by decide⟩

theorem test_witness_SlotIntegers :
    let s := slotS { w := Vector.ofFn (fun i => if i = 2 then 3 else 0) } [] []
    sH.ecc = [] ∧ (sSlot s sH).gr 2 ≠ 0 ∧ (sSlot s sH).gr 1 = 0 ∧ (s.part.at 0).issues 0 = true := by decide

theorem test_witness_SlotFloats : fpIsNan 0 = false ∧ fpFinite 0x40000000 = true ∧ fpScaled 0x40000000 = 2 * 2 ^ 149 ∧
    (1 : Word).msb = false := by decide

theorem test_witness_SlotExceptions :
    let s := slotS {} [] []
    let m := slotS { pstat := 0 } [] []
    let e := slotS { pstat := 5 } [] []
    let i := slotS { pstat := 3, ien := 8, pend := 8 } [] []
    let bare : State := { part := { (rp []) with core := { slots := vset (Vector.replicate 3 {}) 0 { pc := 0x10000000 } } } }
    sHead? (.sDbrk sH) = some sH ∧ s.part.alive = true ∧ (s.part.at 0).issues 0 = true ∧
    (slotS {} [] [(Reg.MMU_SLOTMAP, 0xFFFF)]).part.issues 0 = false ∧ bitAt (sSlot s sH).pstat 2 = false ∧
    bitAt (sSlot m sH).pstat 0 = false ∧ bitAt (sSlot e sH).pstat 2 = true ∧ (sFetch m sH).2 = none ∧ (sFetch e sH).2 = none ∧
    (bare.part.at 0).issues 0 = true ∧
    (let q := i.part
     (q.slot 0).run = .running ∧ q.slotWaits 0 = false ∧ q.slotPair 0 < 4 ∧ bitAt (q.slot 0).pstat 1 = true ∧
     (q.slot 0).ien.getLsbD 3 = true ∧ (q.ipend 0).getLsbD 3 = true) := by decide

theorem test_witness_SlotControl :
    let s := slotS { tlb := [] } [] []
    let p := s.part
    bitAt (sSlot s sH).pstat 0 = true ∧ p.core.shoots = [] ∧ (p.dmaCh 0).beat = none ∧
    (let b := { p with core := { p.core with shoots := [{ slot := 1, sfn := 0, key := 0 }],
                                             dma := vset p.core.dma 0 { beat := some { n := 1, uses := (p.slot 0).tlb } } } }
     b.core.shoots ≠ [] ∧ ((b.dmaCh 0).beat.map (·.uses)) = some (p.slot 0).tlb) := by decide

/-- The physical part of an access of four bytes at 0x2000_0010. -/
def piece0 (s : State) (acc : Acc) (read : Bool) : Part × List Piece := (sPart s sH).xlateAll 0 0x10000010 4 acc read

theorem test_witness_SlotMemory_read (read : Bool) (acc : Acc) (h : acc = .read ∨ acc = .write) :
    let s := slotS {} [] []
    sAccess s sH 0x10000010 4 4 acc read (piece0 s acc read).1 (piece0 s acc read).2 := by
  obtain rfl | rfl := h <;> cases read <;> exact ⟨test_witness_sRuns, by decide, rfl, by decide, by decide, by decide⟩

theorem test_witness_SlotMemory :
    let s := slotS {} [] []
    let q := piece0 s .write false
    (∀ x ∈ q.2, inSram x.pa = true ∧ inSram (x.pa + x.n) = true) ∧ (0x10000010 : Word).toNat % 4 = 0 ∧
    (0x10000012 : Word).toNat % 4 ≠ 0 ∧ bitAt (q.1.slot 0).pstat 2 = false ∧
    (slotS { resv := some 0x10000010 } [] []).part.core.slots[0].resv = some (pieceAddr q.2) ∧
    (∃ e, dataFault ((sPart s sH).xlateAll 0 0 4 .read true).2 = some e ∧ e.word = none) := by
  refine ⟨by decide, by decide, by decide, by decide, by decide, ?_⟩
  exact ⟨_, rfl, rfl⟩

theorem test_witness_SlotCopies :
    let s := slotS { w := Vector.ofFn (fun i => if i = 1 then 0x10000100 else if i = 2 then 0x10000200 else 8) } [] []
    let x := sSlot s sH
    let n := min (x.gr 3).toNat (64 - (x.gr 1).toNat % 64)
    let a := (sPart s sH).xlateAll 0 (x.gr 2).toNat n .read true
    let b := a.1.xlateAll 0 (x.gr 1).toNat n .write false
    x.gr 3 ≠ 0 ∧ n = (x.gr 3).toNat ∧ b.2.length = 1 ∧ dataFault (b.2 ++ a.2) = none ∧
    (∀ y ∈ b.2 ++ a.2, y.dev = false ∧ inSram y.pa = true ∧ inSram (y.pa + y.n) = true) ∧
    storesRegs ((sPart s sH).task? 0) .write b.2 = false := by decide

/-! Witnesses: core pairs, queues, DMA, memories. -/

theorem test_witness_CorePairs :
    let s := fun (map : Nat) (c : CorePair) (w : List (Nat × Nat)) =>
      { (rp [(Reg.MMU_SLOTMAP, map)]) with core := { pairs := vset (Vector.replicate 4 {}) 0 c, waits := w } }
    let a := s 0x3210 {} []
    a.alive = true ∧ a.slotPair 0 < 4 ∧ a.slotWaits 0 = false ∧ a.slotPair 3 ≠ 15 ∧ (s 0xF210 {} []).slotPair 3 = 15 ∧
    (s 0x321F {} []).slotPair 0 = 15 ∧ ((s 0x3210 { last := some 5 } []).cpair 0).last = some 5 ∧
    ((s 0x3210 { testing := true } []).cpair 0).testing = true ∧ (a.cpair 0).testing = false ∧
    (s 0xF210 { testing := true } [(0, 0)]).core.waits = [(0, 0)] ∧ a.core.waits = [] ∧
    (a.slotPair 0 = 0 ∧ bitAt (a.slot 0).pstat 0 = true) := by decide

/-- Channel 0 with a queue of 16 descriptors of 32 bytes at the start of system SRAM, one of them unread, and what the
channel holds. -/
def dmaS (r : List (Nat × Nat)) (x : DmaCh) (mem : List Host.Cell) : Part :=
  { (rp (r ++ [(Reg.QUE_CFG 0, 2 ^ 31 + 4 * 2 ^ 24 + 2 * 2 ^ 16), (Reg.QUE_BASE_LO 0, 0x10000000), (Reg.QUE_PIDX 0, 1),
      (Reg.DMA_CTL 0, 1), (Reg.MMU_IOCTL, 1)])) with
    core := { dma := vset (Vector.replicate 16 {}) 0 x }
    mem := { bytes := mem } }

/-- A descriptor of `len` bytes between the physical addresses 0x1000_1000 and 0x1000_2000. -/
def descD (op len : Nat) : List Byte :=
  bytesOf 4 (2 ^ 31 + op * 2 ^ 24) ++ bytesOf 4 len ++ bytesOf 8 (2 ^ 63 + 0x10001000) ++ bytesOf 8 (2 ^ 63 + 0x10002000) ++
    bytesOf 8 0

/-- The channel in the middle of it. -/
def dmaRun (op len : Nat) : Part :=
  dmaS [(Reg.DMA_CFG 0, 256), (Reg.DMA_STAT 0, 2 ^ 31), (Reg.DMA_CREM 0, len), (Reg.DMA_CSRC_LO 0, 0x10001000),
    (Reg.DMA_CSRC_HI 0, 2 ^ 31), (Reg.DMA_CDST_LO 0, 0x10002000), (Reg.DMA_CDST_HI 0, 2 ^ 31)] { desc := some (descD op len) } []

theorem test_witness_Descriptors :
    let cells := fun (b : Byte) => ([(0x10000003, b), (0x10000004, 64)] : List Host.Cell)
    let s := dmaS [(Reg.DMA_CFG 0, 256)] {} (cells 0x80)
    s.alive = true ∧ s.bit (Reg.DMA_CTL 0) 0 = true ∧ s.bit (Reg.DMA_STAT 0) 30 = false ∧ (s.dmaCh 0).desc = none ∧
    s.bit (Reg.QUE_CFG 0) 31 = true ∧ s.queueFill 0 ≠ 0 ∧ (∀ o ∈ [0, 8, 16, 24], s.poisoned (s.queueEntry 0 0 + o) = false) ∧
    bitAt (s.loadWord (s.queueEntry 0 0)) 31 = true ∧ (descFault (s.loadBytes (s.queueEntry 0 0) 32) (s.dmaTask 0)) = none ∧
    bitAt ((dmaS [] {} (cells 0x7F)).loadWord 0x10000000) 31 = false ∧
    descFault ((dmaS [] {} (cells 0x83)).loadBytes 0x10000000 32) true = some 5 ∧ (rp []).bit (Reg.DMA_CTL 0) 0 = false ∧
    (let h := dmaS [(Reg.DMA_STAT 0, 2 ^ 30)] { desc := some (descD 0 64) } []
     h.bit (Reg.DMA_STAT 0) 30 = true ∧ (h.dmaCh 0).descErr = false ∧ (h.dmaCh 0).desc = some (descD 0 64)) ∧
    ((dmaS [(Reg.DMA_STAT 0, 2 ^ 30)] { descErr := true } []).dmaCh 0).descErr = true := by decide

theorem test_witness_QueuesAndDma :
    let w := fun (r : List (Nat × Nat)) => rp (r ++ [(Reg.QUE_CFG 0, 2 ^ 31 + 2 ^ 24), (Reg.QUE_CFG 22, 2 ^ 31 + 2 ^ 24)])
    (w []).alive = true ∧ 2 ^ (w []).fld (Reg.QUE_CFG 0) 24 4 = 2 ∧ (2 + 65536 - (w []).fld (Reg.QUE_CIDX 0) 0 16) % 65536 ≤ 2 ∧
    2 < (3 + 65536 - (w []).fld (Reg.QUE_CIDX 0) 0 16) % 65536 ∧ (w []).bit (Reg.QUE_CFG 22) 31 = true ∧
    (w []).fld (Reg.QUE_PIDX 22) 0 16 = (w []).fld (Reg.QUE_CIDX 22) 0 16 ∧
    ((w [(Reg.QUE_PIDX 20, 1)]).fld (Reg.QUE_PIDX 20) 0 16 + 65536 - 0) % 65536 ≤ 2 := by decide

theorem test_witness_DmaBeat :
    let s := dmaRun 0 64
    let q := (s.at 0).dmaTake 0 0
    s.alive = true ∧ s.dmaGranted 0 0 = true ∧ s.cycState ≠ 5 ∧ q.dmaOp 0 = 0 ∧ q.beatLen 0 = 64 ∧
    q.pair (Reg.DMA_CSRC_LO 0) = 2 ^ 63 + 0x10001000 ∧
    (q.dmaPlace 0 (2 ^ 63 + 0x10001000) 64 .read).2 = .ok (.here [(0x10001000, 64)]) ∧
    (q.dmaPlace 0 (2 ^ 63 + 0x10002000) 64 .write).2 = .ok (.here [(0x10002000, 64)]) ∧
    (∀ e ∈ [(0x10002000, 64), (0x10001000, 64)], inSram e.1 = true ∧ inSram (e.1 + e.2) = true) ∧
    q.dmaPoison [(0x10001000, 64)] = none ∧
    (let b := ((dmaRun 0 65).at 0).dmaTake 0 0
     b.beatLen 0 < b.fld (Reg.DMA_CREM 0) 0 25) ∧
    ((dmaRun 1 64).at 0).dmaOp 0 = 1 ∧ (rp []).dmaGranted 0 0 = false ∧
    (({ s with regs := (Reg.MMU_IOCTL, 0) :: s.regs } : Part).dmaPlace 0 (2 ^ 63) 1 .read).2 = .error (7, 0, 0) ∧
    (q.dmaPlace 0 (2 ^ 63 + 2 ^ 41 * 5) 64 .read).2 = .ok (.ring (2 ^ 41 * 5)) := by decide

theorem test_witness_MemoryUpkeep :
    let s := fun (r : List (Nat × Nat)) (m : MemState) => ({ (rp r) with mem := m } : Part)
    let bad := s [(Reg.MMU_SPTHR, 4)] { poison := [0x10000008] }
    bad.alive = true ∧ (∃ w ∈ bad.mem.poison, 0x10000000 ≤ w ∧ w < 0x10000000 + 1024) ∧ inSram 0x10000008 = true ∧
    (∃ w ∈ (s [] { poison := [0x20000800] }).mem.poison, 0x20000800 ≤ w ∧ w < 0x20000800 + 2048) ∧ inEmram 0x20000800 = true ∧
    ((s [(Reg.MMU_SPTHR, 4)] {}).fld Reg.MMU_SPTHR 0 4 = 4 ∧ inSram 0x20000800 = false) ∧
    (let d := ({ (rp []) with cyc := { dirty := [3, 4] } } : Part)
     d.cyc.dirty = 3 :: [4] ∧ (rp []).cyc.dirty = []) ∧
    (0x21400000 ≤ 0x217FFFFF ∧ 0x217FFFFF < 0x21800000) ∧ (0x23C00000 ≤ 0x23CFFFFF ∧ 0x23CFFFFF < 0x23D00000) ∧
    ({ (rp []) with trust := { ownerFuse := some [] } } : Part).trust.ownerFuse.isSome = true ∧
    (protBit 0x20000000 = some 0 ∧ (s [(Reg.NVM_WPROT, 1)] {}).bit Reg.NVM_WPROT 0 = true) ∧
    (s [(Reg.NVM_WPROT, 0)] {}).emramProtected 0x20000000 = false ∧
    (bitAt (0x80000000 : Word) 31 = true ∧ (s [] {}).bit Reg.NVM_XSTAT 31 = false ∧
      (s [(Reg.NVM_XSTAT, 2 ^ 31)] {}).bit Reg.NVM_XSTAT 31 = true) ∧
    ({ (rp []) with core := { xcmd := some (0x800F0000, 0, []) } } : Part).core.xcmd = some (0x800F0000, 0, []) := by decide

/-! Witnesses: the cyclic runtime. -/

/-- A cyclic task, number 31, of 1 ms with 32 bytes of inputs. -/
def descC : CycDesc :=
  { id := 31, cyclic := true, prio := 0, slot := 2, period := msec 1, wdmult := 2, src := 0, minia := 0, deadline := 0, isize := 40,
    osize := 4, code := 0, ins := [{ word := 8, ident := 7, src := .gpio }], outs := [{ word := 0, ident := 9, dst := .pin 3 }],
    uses := [] }

/-- An event task, number 30. -/
def descE : CycDesc := { descC with id := 30, cyclic := false, prio := 1, minia := 5, deadline := msec 1, outs := [] }

/-- A runtime that runs with both tasks; states of the two tasks. -/
def cycS (x : CycTask) (st30 st31 : Nat) (r : List (Nat × Nat)) (c : CycState) : Part :=
  { (rp (r ++ [(Reg.CYC_STAT, 2 ^ 28), (Reg.CYC_TSTAT 30, st30 * 2 ^ 28), (Reg.CYC_TSTAT 31, st31 * 2 ^ 28)])) with
    cyc := { c with tasks := [{ desc := descC, next := sec 1 }, x] } }

theorem test_witness_TaskCycles :
    let e : CycTask := { desc := descE }
    let p := cycS e 1 1 [] {}
    let b := cycS e 1 3 [] {}
    let inM : CycModule := { num := 63, node := 5, addr := 0x10000000, size := 3, input := true, period := msec 1, safe := [] }
    let rem := fun (m : CycModule) => cycS e 1 1 [] { img := { modules := [m] } }
    p.alive = true ∧ p.ranged ∧ p.task 31 = some { desc := descC, next := sec 1 } ∧ p.task 30 = some e ∧ p.cycRuns = true ∧
    p.taskState 31 = 1 ∧ descC.cyclic = true ∧ p.slotFree descC = true ∧ p.exportWindow descC = true ∧ 32 ≤ descC.isize ∧
    (∀ i ∈ descC.ins, 8 ≤ i.word ∧ 4 * i.word + 4 ≤ descC.isize) ∧ p.forceOf 7 = none ∧
    ({ p with cyc := { p.cyc with forces := [⟨7, 0, 5⟩] } } : Part).forceOf 7 = some ⟨7, 0, 5⟩ ∧ b.taskState 31 ≠ 1 ∧
    descE.cyclic = false ∧ p.taskState 30 = 1 ∧ e.last = none ∧ e.held = false ∧ (cycS { e with held := true } 1 1 [] {}).task 30 =
      some { e with held := true } ∧
    (b.cycRuns = true ∧ b.taskState 31 = 3 ∧ (b.atRing 0).copyWindow descC (b.atRing 0).now = true ∧ (b.atRing 0).mute = false ∧
      libTask descC = none ∧ b.ioSize 9 = 4) ∧
    (rp [(Reg.PAIR_STAT, 2)]).mute = true ∧
    ((rem inM).remote 63 = some inM ∧ (rem inM).cycRuns = true ∧ ((rem inM).remoteData 63).last = none ∧
      ¬ (inM.node = 0 ∨ (inM.node = (rem inM).node ∧ (rem inM).bit Reg.RING_STAT 31 = true)) ∧ inM.node ≤ 64 ∧
      inM.addr.testBit 40 = false ∧ inSram inM.addr = true ∧ inSram (inM.addr + inM.size) = true) ∧
    ((rem { inM with input := false }).cycState ≠ 5 ∧ (rem { inM with input := false }).mute = false ∧
      ((rem { inM with input := false }).remoteData 63).ready = true) ∧
    (let g := cycS e 1 1 [(Reg.CYC_RIOCFG, 3)] { img := { modules := [inM] }, remote := [{ num := 63, good := some 0 }] }
     (g.remoteData 63).good = some 0 ∧ 0 + g.fld Reg.CYC_RIOCFG 0 8 * inM.period < sec 1 ∧ g.bit (Reg.CYC_RMSTAT 63) 30 = false) ∧
    sec 1 % msec 1 = 0 ∧ (sec 1 + 1) % msec 1 ≠ 0 := by
  refine ⟨rfl, ⟨by decide, nofun, nofun⟩, ?_⟩
  decide

/-- What `Config.cycImage` reads from an empty slot is a free value: whether that image is sound is a hypothesis here too. -/
theorem test_witness_RuntimeStops (h : imageFault (Config.cycImage []) = none) :
    let e : CycTask := { desc := descE }
    let s := fun (r : List (Nat × Nat)) (c : CycState) => cycS e 1 1 (r ++ [(Reg.CYC_STAT, 0)]) { c with verified := [0] }
    (s [] {}).alive = true ∧ (s [] {}).ranged ∧ (s [] {}).cycState = 0 ∧ (s [] {}).cyc.verified.contains 0 = true ∧
    imageFault ((s [] {}).cycImageAt 0) = none ∧ (s [(Reg.CYC_STAT, 2 ^ 30)] {}).cycState = 4 ∧
    (s [(Reg.CYC_STAT, 2 ^ 28)] {}).cycRuns = true ∧
    (s [] { retained := some (Config.cycImage []).id }).cyc.retained = some ((s [] {}).cycImageAt 0).id ∧
    (let l := cycS e 3 1 [] {}
     l.cycRuns = true ∧ l.task 30 = some e ∧ l.taskState 30 ∈ [2, 3, 4] ∧ e.relAt + e.desc.deadline ≤ msec 1) ∧
    (s [] { pfail := some 4 }).cyc.pfail = some 4 ∧ (s [] {}).cyc.pfail = none ∧ (s [] {}).bit Reg.CYC_PFSTAT 30 = false ∧
    (s [] { pfail := some 4, pfPrev := 3 }).cyc.pfPrev ∈ [1, 2, 3] :=
  ⟨rfl, ⟨by decide, nofun, nofun⟩, by decide, by decide, h, by decide, by decide, rfl, by decide, rfl, rfl, by decide, by decide⟩

theorem test_witness_ForcesAndChange :
    let v : CycVar := { ident := 7, typ := 3, off := 0, size := 4, mirror := false }
    let q := fun (cmd : Byte) (forces : List CycForce) => { (rp [(Reg.QUE_CFG 16, 2 ^ 31 + 4 * 2 ^ 24 + 2 * 2 ^ 16),
        (Reg.QUE_BASE_LO 16, 0x10000000), (Reg.QUE_PIDX 16, 1)]) with
      mem := { bytes := [(0x10000003, cmd), (0x10000008, 7), (0x10000010, 3)] }
      cyc := { img := { vars := [v] }, forces := forces } }
    let f : CycForce := ⟨7, 3, 1⟩
    (q 1 []).alive = true ∧ (q 1 []).bit (Reg.QUE_CFG 16) 31 = true ∧ (q 1 []).queueFill 16 ≠ 0 ∧
    (∀ c ∈ [1, 2, 3, 4], ((q c []).byte 0x10000003).toNat = c.toNat) ∧ ((q 0 []).byte 0x10000003).toNat = 0 ∧
    (q 1 []).load 0x10000008 8 = 7 ∧ (q 1 []).cycVar 7 = some v ∧ (q 1 []).cycVar 8 = none ∧
    v.typ = ((q 1 []).byte 0x10000010).toNat ∧ v.typ ≠ 2 ∧ (q 1 []).cyc.forces.length < 256 ∧
    256 ≤ ((List.range 256).map (fun i => (⟨i + 8, 3, 0⟩ : CycForce))).length ∧ (q 2 [f]).forceOf 7 ≠ none ∧ (q 2 []).forceOf 7 = none ∧
    (rp []).queueFill 16 = 0 ∧
    (let c : CycChange := { img := {}, slot := 1, op := 7 }
     let w : CycChange := { c with window := some 9 }
     let p := fun (x : CycChange) (st : Nat) => cycS { desc := descE } 1 1 [(Reg.CYC_STAT, st * 2 ^ 28)] { change := some x, lastEnd := 9 }
     (p c 2).cyc.change = some c ∧ (p c 2).cycState = 2 ∧ c.window = none ∧ c.since + nsec ((c.img.map.map (·.size)).sum * 1000 / 64) ≤ 0 ∧
     (p w 1).cyc.change = some w ∧ w.window = some 9 ∧ (p w 1).cyc.lastEnd = 9 ∧ w.marked.length + (p w 1).cyc.dirty.length ≤ 4096 ∧
     (∀ x ∈ (p w 1).cyc.tasks, (p w 1).taskState x.desc.id = 1 ∧ x.held = false ∧
       (x.desc.cyclic = true → 9 + (usec 3 + nsec (40 * w.marked.length)) + usec 10 < x.next)) ∧
     (rp []).cyc.change = none) := by decide

/-! Witnesses: the ring and the hosts. -/

/-- A frame with sound codes. -/
def mkF (x : RingHdr) (payload : List Byte) : RingFrame :=
  { port := 0, hdr := hdrWord x, payload := payload, crc := BitVec.ofNat 32 (frameCrc (hdrWord x) payload) }

/-- A node with an address, its links up, further registers, and what the ring holds. -/
def nodeS (one : Bool) (r : List (Nat × Nat)) (x : RingState) : Part :=
  { (rp (r ++ [(Reg.RING_STAT, 2 ^ 31 + one.toNat * 2 ^ 30 + 3), (Reg.RING_PSTAT 0, 2 ^ 31), (Reg.RING_PSTAT 1, 2 ^ 31)])) with ring := x }

/-- The class of a type. -/
def clsOf (typ : Nat) : Nat := if typ = 8 ∨ typ = 13 then 0 else if typ = 12 then 3 else 1

/-- A frame of a type from node 5 to node 3. -/
def frameT (typ : Nat) : RingFrame := mkF { dst := 3, src := 5, typ := typ, cls := clsOf typ, addr := 0x10000000 } [1, 2, 3, 4]

theorem test_witness_ringTakes : ∀ typ ∈ ringTypes, (nodeS false [] {}).ringTakes (frameT typ) typ := by
  unfold Part.ringTakes Part.ringGood Part.ringMine
  decide

theorem test_witness_RingFrames :
    let q := nodeS false [] {}
    let one := nodeS true [] { prom := true, cuts := [4], bar := some 7, east := [(1, 0), (3, 1)], arrived := [(7, 3)] }
    q.alive = true ∧ hdrField (0 : BitVec 128) 0 16 ≠ hcrc 0 ∧ (hdrOf (mkF { epoch := 1, typ := 1 } []).hdr).epoch ≠ q.epoch ∧
    ¬ (deptOf q.ringNow + 2 ^ 14 - (hdrOf (mkF { dept := 5000 } []).hdr).dept) % 2 ^ 14 ≤ 4000 ∧ 0 ∉ ringTypes ∧
    ({ frameT 1 with crc := 0 } : RingFrame).crc.toNat ≠ frameCrc (frameT 1).hdr (frameT 1).payload ∧
    (hdrOf (mkF { hops := 127 } []).hdr).hops = 127 ∧ q.portOk 1 = true ∧ (nodeS false [(Reg.RING_PSTAT 1, 0)] {}).portOk 1 = false ∧
    (hdrOf (mkF { dst := 9, src := 5 } []).hdr).dst ≠ q.node ∧ nsValid 999999999 = true ∧ nsValid 1000000000 = false ∧
    one.bit Reg.RING_STAT 30 = true ∧ (∀ m ∈ 1 :: one.ring.east.map (·.1), m = 1 ∨ (7, m) ∈ one.ring.arrived) ∧
    one.ring.bar = some 7 ∧ one.ring.prom = true ∧ 4 ∈ one.ring.cuts ∧ 5 ∉ one.ring.cuts ∧ q.bit Reg.RING_STAT 30 = false ∧
    (nodeS true [(Reg.RING_CFG, 2 ^ 31)] {}).bit Reg.RING_CFG 31 = true ∧
    (nodeS true [(Reg.RING_CFG, 0)] {}).bit Reg.RING_CFG 31 = false := by decide

theorem test_witness_NodeRanged : (nodeS false [] {}).ranged := ⟨nofun, nofun, nofun⟩

theorem test_witness_RingRequests :
    let q := nodeS false [] {}
    let src : RingSource := { src := 5, bcast := false, next := some 0, seen := [(1, 0, 0)] }
    let w := nodeS false [] { srcs := [src] }
    let r : RingReq := { typ := 1, cls := 2, dst := 5, addr := 0, len := 4, data := [], use := .module 63 }
    let late := nodeS false [] { reqs := [r] }
    (q.ringSrc 5 false).next = none ∧ (w.ringSrc 5 false).next = some 0 ∧ (w.ringSrc 5 false).held = [] ∧
    (1, 0, 0) ∈ (w.ringSrc 5 false).seen ∧ w.now < 0 + usec 50 ∧ (hdrOf (frameT 1).hdr).tag = 0 ∧
    inSram 0x10000000 = true ∧ inSram (0x10000000 + 256) = true ∧ (0x10000000 + 2 ^ 40).testBit 40 = true ∧
    (nodeS false [(Reg.QUE_CFG 20, 2 ^ 31 + 2 ^ 24 + 2 ^ 16)] {}).bit (Reg.QUE_CFG 20) 31 = true ∧
    (nodeS false [(Reg.QUE_CFG 20, 2 ^ 31 + 2 ^ 24 + 2 ^ 16)] {}).queueFill 20 < 2 ∧
    late.ring.reqs.find? (fun r => decide (r.dst = 5) && decide (r.tag = 0) && decide (r.epoch = 0)) = some r ∧
    late.ring.reqs.find? (fun r => decide (r.dst = 5) && decide (r.tag = 0) && decide (r.left + usec 50 ≤ usec 50)) = some r ∧
    (∀ r ∈ q.ring.reqs, r.dst ≠ 5) ∧
    (let g := mkF { dst := 3, src := 5, typ := 3, cls := 1, addr := 0x10000000, tag := 2, dept := 0 } []
     let z : RingSource := { src with held := [g] }
     let h := (nodeS false [] { srcs := [z] }).at (usec 40)
     (h.ringSrc 5 false).held = [g] ∧ (hdrOf g.hdr).typ = 3 ∧ 4000 ≤ h.frameAge (hdrOf g.hdr) ∧
     ((nodeS false [] { srcs := [z] }).at (usec 39)).frameAge (hdrOf g.hdr) < 4000) ∧
    (let p := nodeS true [(Reg.HOST_LINK, 2 ^ 31)] {}
     p.bit Reg.HOST_LINK 31 = true ∧ q.bit Reg.HOST_LINK 31 = false ∧ (hostWindow false 0x1000010) = (0, 0x1000010) ∧
     windowAddr 0x1000010 = some 0x10000010 ∧ p.isSelf 0 = true ∧ p.isSelf 4 = false ∧ hostWindow true 0x31000010 = (4, 0x1000010) ∧
     windowAddr 0x8000000 = none ∧ 0x1000010 % 4096 + 256 ≤ 4096) ∧
    q.ring.hspi = none ∧ (nodeS false [] { hspi := some { addr := 0, write := false } }).ring.hspi ≠ none := by decide

theorem test_witness_LinksAndStatus :
    let s := fun (r : List (Nat × Nat)) (x : RingState) => nodeS false r x
    let up := s [(Reg.RING_PSTAT 0, 2 ^ 31 + 2 ^ 30)] { upAt := [(0, 0)] }
    let sp := s [(Reg.RING_CFG, 2 ^ 30), (Reg.RING_PSTAT 0, 2 ^ 31 + 2 ^ 26)] { swapDue := [(0, 1)] }
    let w : PromSwitch := { addr := 64, epoch := 15, nodes := 64, east := [], at_ := 5 }
    (s [] {}).alive = true ∧ sp.bit Reg.RING_CFG 30 = true ∧ sp.fld (Reg.RING_PSTAT 0) 20 2 = 0 ∧ sp.bit (Reg.RING_PSTAT 0) 26 = true ∧
    (s [] {}).bit (Reg.RING_PSTAT 0) 26 = false ∧ sp.ring.swapDue.find? (fun e => e.1 = 0) = some (0, 1) ∧
    (s [] {}).ring.swapDue.find? (fun e => e.1 = 0) = none ∧ (s [] {}).bit (Reg.RING_PSTAT 0) 31 = true ∧
    (rp []).bit (Reg.RING_PSTAT 0) 31 = false ∧ up.bit (Reg.RING_PSTAT 0) 31 = true ∧ up.bit (Reg.RING_PSTAT 0) 30 = true ∧
    up.ring.upAt.find? (fun e => e.1 = 0) = some (0, 0) ∧ 0 + msec 1 ≤ msec 1 ∧ (s [] { switch := some w }).ring.switch = some w ∧
    (s [] {}).ring.switch = none ∧ (s [] { retrain := true }).ring.retrain = true ∧ (s [] {}).ring.retrain = false ∧
    (s [] {}).ring.tos = [] ∧ (s [(Reg.RING_STAT, 2 ^ 28)] {}).bit Reg.RING_STAT 28 = true ∧
    (s [(Reg.RING_STAT, 2 ^ 28)] {}).bit Reg.RING_STAT 30 = false ∧ (s [] {}).hostStatus ≠ (s [] {}).ring.status ∧
    (s [] { status := (s [] {}).hostStatus }).hostStatus = (s [] { status := (s [] {}).hostStatus }).ring.status ∧
    (let z := (s [(Reg.RING_SNAPSTAT, 2 ^ 31)] {}).atRing 0
     z.bit Reg.RING_SNAPSTAT 31 = true ∧ instOf (z.reg Reg.RING_SNAPT_HI).toNat (z.reg Reg.RING_SNAPT_LO).toNat ≤
       instOf (instSec z.ringNow % 2 ^ 32) (instNs z.ringNow) + nsec 1) := by decide

theorem test_witness_LongOperations :
    let s := fun (r : List (Nat × Nat)) (x : OpSlot) => { (rp r) with ops := vset (Vector.replicate 8 {}) 7 x }
    let st := fun (n : Nat) => (Reg.OP_STATUS_LO 7, n * 2 ^ 28)
    let q := s [] {}
    q.alive = true ∧ q.opState 7 = 0 ∧ (∀ j < 8, q.opState j ≠ 2) ∧ (q.cg .A).exch = none ∧ (q.cg .B).exch = none ∧
    (∀ n < 8, q.laneState n ≠ 5) ∧ (s [st 1] {}).opState 7 = 1 ∧ (s [st 2] {}).opState 7 = 2 ∧ (s [st 3] {}).opState 7 = 3 ∧
    (s [st 4] {}).opState 7 = 4 ∧ ((s [st 2] { code := 7, facts := [0, 0], res := some (resOf 7 0) }).op 7).facts = [0, 0] ∧
    ((s [st 2] { code := 7, facts := [7, 255] }).op 7).facts = [7, 255] ∧
    ((s [(Reg.OP_STATUS_LO 0, 2 * 2 ^ 28)] {}).opState 0 = 2) ∧ q.opBufOk 7 0 = false ∧
    (s [(Reg.OP_RBUF_LO 7, 0x10000000), (Reg.OP_RLEN 7, 4096)] {}).opBufOk 7 0 = true ∧
    ({ q with cyc := { verified := [0] } } : Part).cyc.verified.contains 0 = true ∧ q.cyc.verified.contains 0 = false ∧
    (rp [(Reg.CYC_STAT, 2 ^ 28)]).cycRuns = true ∧ q.cycRuns = false ∧ q.capOn 0 = false ∧ q.capOn 1 = false ∧
    q.record? 0 = none ∧ (q.capUnit 0).rcd = none ∧ (∀ g ∈ ([.A, .B] : List Grp), q.groupRuns g = false) ∧
    (s [(Reg.OP_ARG 7 0, 1), (Reg.OP_ARG 7 1, 1), (Reg.CLE_LSTAT 0, 4)] {}).laneState 0 = 4 ∧
    bits ((s [(Reg.OP_ARG 7 0, 0x040002FF)] {}).reg (Reg.OP_ARG 7 0)) 24 8 = 4 ∧ 2 < 4 ∧
    (s [(Reg.RING_PSTAT 1, 2 ^ 26)] {}).bit (Reg.RING_PSTAT 1) 26 = true ∧ q.unitRetired 4 5 = false ∧ q.swapBlocked 4 2 = false ∧
    (nodeS true [] {}).bit Reg.RING_STAT 30 = true ∧ q.bit Reg.RING_STAT 30 = false ∧
    ((q.sch 0).sto = true ∧ (q.sch 1).sto = true) ∧
    (0x10000000 % 4096 = 0 ∧ 0x10000000 + 0x10000 ≤ 0x10800000) ∧ (s [st 1] { code := 7 }).opBlocked 7 = false := by decide

/-! Witnesses: pairs and callers. -/

/-- A member of a pair: PAIR_STAT, further registers, and what it holds. -/
def pairS (stat : Nat) (r : List (Nat × Nat)) (x : PairState) : Part :=
  { (rp (r ++ [(Reg.PAIR_STAT, stat)])) with pair_ := x }

theorem test_witness_FloorAndMirror :
    let floor := 2 ^ 31 + 2 ^ 30 + 2 ^ 28 + 1
    let p := pairS floor [] { both := some 0, taken := some 0, openTick := some 0, armed := some { tc := 0, grp := .A, incoming := false } }
    let f : MirrorFrame := { grp := .A, fig := 0, scnt := 1, t0 := 0, spw := [], seqcmd := 0, ramps := [], region := 0, bands := [],
                             fadeN := 1, fadeK := 0, words := [], grid := none }
    let sb := fun (r : List (Nat × Nat)) (x : PairState) (c : CleGroup) =>
      { pairS 2 r x with cle := vset (Vector.replicate 2 {}) 0 c, pwm := { tb := vset (Vector.replicate 2 {}) 0 { k := 1 } } }
    let run := [tmr, (Reg.PWM_TBSTAT 0, 2 ^ 31)]
    p.alive = true ∧ p.floor = true ∧ p.floorIn = true ∧ p.role = 1 ∧ p.permitted = true ∧ (pairS 1 [] {}).floor = false ∧
    (pairS (2 ^ 29 + 1) [] {}).permitted = false ∧ p.bit Reg.PAIR_CFG 31 = false ∧ (pairS 4 [] {}).role = 4 ∧
    (∃ a, p.pair_.armed = some a ∧ a.incoming = false ∧ a.tc ≤ p.ringOf 0) ∧ p.pair_.taken = some 0 ∧ p.pair_.openTick = some 0 ∧
    p.pair_.both = some 0 ∧ 0 + nsec 400 ≤ nsec 400 ∧ 0 + nsec 295 ≤ p.ringOf (nsec 295) ∧
    (let o := pairS 1 [(Reg.PAIR_OPENT_LO, 20000)] {}
     (o.reg Reg.PAIR_OPENT_LO).toNat < 1000000000 ∧ o.role = 1 ∧ o.pair_.armed = none ∧
     ¬ o.ringFull (o.reg Reg.PAIR_OPENT_HI).toNat (o.reg Reg.PAIR_OPENT_LO).toNat < o.ringOf 0 + usec 10) ∧
    (pairS 1 [(Reg.PAIR_OPENT_LO, 1000000000)] {}).reg Reg.PAIR_OPENT_LO = 1000000000 ∧
    (let a := sb run { own := vset (Vector.replicate 2 none) 0 (some { f with fig := 1 }) } {}
     a.role = 2 ∧ a.figId .A = 0 ∧ a.groupRuns .A = true ∧ (a.cg .A).open_ = false ∧ f.t0 = a.ringOf (a.cg .A).t0 ∧
     0 + nsec 100 ≤ a.nextUpdate .A ∧ vget none a.pair_.own 0 = some { f with fig := 1 } ∧
     ({ ({ f with fig := 1 } : MirrorFrame) with scnt := f.scnt } : MirrorFrame) ≠ f ∧ a.cyc.img.id = 0) ∧
    ((sb run {} { open_ := true }).cg .A).open_ = true ∧ (sb [] {} {}).groupRuns .A = false := by
  refine ⟨rfl, by decide, by decide, by decide, by decide, by decide, by decide, by decide, by decide, ⟨_, rfl, by decide⟩, ?_⟩
  decide

theorem test_witness_CallerAndSelfTest :
    let h : Heartbeat := { uid := 0, role := 1, grade := 200, floor := true, eligible := true, cutreq := false, figA := 0, figB := 0,
                           tick := sec 1 }
    let on := (Reg.PAIR_CALLCFG 3, 2 ^ 31 + 128)
    let c := fun (r : List (Nat × Nat)) (x : CallPair) =>
      { (rp (r ++ [on])) with pair_ := { callers := vset (Vector.replicate 4 {}) 3 x } }
    let sides := fun (a b : CallSide) => (#v[a, b] : Vector CallSide 2)
    let fit := c [] { sides := sides { hb := some h } { hb := some h } }
    let lost := c [] { sides := sides { misses := 255 } { misses := 255 } }
    let armed := c [] { armed := some (sec 1, .A, true, .swap) }
    let moved := c [] { moved := some (0, .A, true, .swap), sides := sides { hb := some h } { hb := some { h with floor := false } } }
    fit.alive = true ∧ fit.callOn 3 = true ∧ (rp []).callOn 3 = false ∧ (fit.callPair 3).armed = none ∧ (fit.callPair 3).moved = none ∧
    (∃ e, ((fit.callPair 3).side (!fit.callLevel 3)).hb = some e ∧ e.eligible = true) ∧
    ((fit.callPair 3).side true).misses < fit.hbMiss ∧ lost.hbMiss ≤ ((lost.callPair 3).side true).misses ∧
    lost.hbMiss ≤ ((lost.callPair 3).side false).misses ∧ (fit.callPair 3).again = none ∧
    ((c [] { again := some .swap }).callPair 3).again = some .swap ∧ h.grade < 201 ∧ ¬ h.grade < 128 ∧
    ((fit.callPair 3).side true).judged < sec 1 ∧ (fit.callPair 3).resume ≤ sec 1 ∧
    (armed.callPair 3).armed = some (sec 1, .A, true, .swap) ∧ sec 1 ≤ armed.ringOf (sec 1) + nsec 1 ∧
    (moved.callPair 3).moved = some (0, .A, true, .swap) ∧ ((moved.callPair 3).side true).hb = some { h with floor := false } ∧
    ((moved.callPair 3).side false).hb = some h ∧ (fit.callPair 3).sent = none ∧
    ((c [] { sent := some 0 }).callPair 3).sent = some 0 ∧ 0 < 0 + msec 1 ∧
    (let m := pairS 1 [(Reg.PAIR_CFG, 10 * 256)] {}
     m.role = 1 ∧ m.bit Reg.PAIR_STAT 25 = false ∧ m.pair_.lastCaller + msec (m.fld Reg.PAIR_CFG 8 8) ≤ msec 10 ∧
     m.ringOf 0 + nsec 500 ≤ nsec 500) ∧
    (pairS 1 [] {}).role ≠ 2 ∧ (pairS 2 [] {}).role = 2 ∧ (pairS 2 [] { step := 2 }).nextTest 2 0 = some (2, 0) ∧
    (pairS 2 [] {}).nextTest 8 0 = none := by
  refine ⟨rfl, by decide, by decide, by decide, by decide, ⟨_, rfl, by decide⟩, ?_⟩
  decide

/-! Witnesses: time, Ethernet, the recorder. -/

/-- Registers, the time state and the Ethernet state. -/
def ethS (r : List (Nat × Nat)) (x : TimeState) (y : EthState) (mem : List Host.Cell) : Part :=
  { (rp r) with time := x, eth := y, mem := { bytes := mem } }

theorem test_witness_TimeAndEthernet :
    let s := fun (r : List (Nat × Nat)) (x : TimeState) => ethS r x {} []
    let on := (Reg.TIME_CFG, 2 ^ 31 + 2 ^ 30)
    let one := s [on, (Reg.RING_STAT, 2 ^ 30)] {}
    let hold := s [(Reg.TIME_STAT, 2 ^ 29), (Reg.TIME_CFG, 256)] { last := some 0 }
    one.alive = true ∧ one.bit Reg.TIME_CFG 31 = true ∧ one.bit Reg.TIME_CFG 30 = true ∧ one.bit Reg.RING_STAT 30 = true ∧
    (s [(Reg.TIME_CFG, 0)] {}).bit Reg.TIME_CFG 31 = false ∧ fpFinite 0x3F800000 = true ∧ fpFinite 0x7FC00000 = false ∧
    (s [on, (Reg.RING_STAT, 0)] {}).bit Reg.RING_STAT 30 = false ∧ (s [(Reg.TIME_STAT, 2 ^ 30)] {}).fld Reg.TIME_STAT 29 3 = 2 ∧
    hold.fld Reg.TIME_STAT 29 3 = 1 ∧ hold.time.last = some 0 ∧ 0 + sec (hold.fld Reg.TIME_CFG 8 8) ≤ sec 1 ∧
    (s [(Reg.RING_STAT, 0)] {}).bit Reg.RING_STAT 28 = false ∧ (s [] { slewAt := some 0 }).time.slewAt = some 0 ∧
    ((s [] { slewAt := some 0 }).time.off.natAbs - 32768) * 1000000 ≤ 0 := by decide

/-- A frame of 60 bytes to a station, or with a type. -/
def ethF (dst typ : Nat) : List Byte := netBytes 6 dst ++ netBytes 6 1 ++ netBytes 2 typ ++ List.replicate 46 0

theorem test_witness_EthernetPorts :
    let up := (Reg.ETH_PSTAT 0, 2 ^ 31)
    let en := (Reg.ETH_PCFG 0, 2 ^ 31)
    let q := ethS [up, en, (Reg.ETH_MAC_LO, 7), (Reg.ETH_MAC_HI, 0), (Reg.QUE_CFG 25, 2 ^ 31 + 4 * 2 ^ 24 + 2 ^ 17)] {} {} []
    let k := ethS [up, en] {} { macs := [{ mac := 9, port := 1, seen := 0 }], supAt := some 0 } []
    let f := ethF 7 0x0800
    q.alive = true ∧ q.ethUp 0 = true ∧ (rp []).ethUp 0 = false ∧ 60 ≤ f.length ∧ f.length ≤ 1518 ∧ netNum f (typeAt f) 2 ≠ 0x8808 ∧
    netNum (ethF 7 0x8808) (typeAt (ethF 7 0x8808)) 2 = 0x8808 ∧ ([] : List Byte).length < 60 ∧ ptpKind f = none ∧
    frameDst f = 7 ∧ q.mac = 7 ∧ q.redMode = 0 ∧ q.bit (Reg.QUE_CFG 25) 31 = true ∧ q.queueFill 25 < q.queueSize 25 ∧
    frameDst (ethF 9 0x0800) = 9 ∧ isGroup 9 = false ∧ k.eth.macs.find? (fun e => e.mac = 9 && k.now < e.seen + sec 300) =
      some { mac := 9, port := 1, seen := 0 } ∧ isGroup 0x010000000000 = true ∧ k.eth.supAt = some 0 ∧ 0 < 0 + sec 2 ∧
    (rp [(Reg.ETH_SWCFG, 2 ^ 30)]).redMode = 1 ∧ (rp [(Reg.ETH_SWCFG, 2 ^ 31)]).redMode = 2 := by decide

theorem test_witness_EthernetSends :
    let q := fun (flags : Byte) => ethS [(Reg.ETH_PSTAT 0, 2 ^ 31), (Reg.ETH_PCFG 0, 2 ^ 31), (Reg.QUE_PIDX 24, 1),
        (Reg.QUE_CFG 24, 2 ^ 31 + 4 * 2 ^ 24 + 2 * 2 ^ 16), (Reg.QUE_BASE_LO 24, 0x10000000)] {} {}
      [(0x10000000, 60), (0x10000003, flags), (0x1000000B, 0x10)]
    (q 0x80).txHead 0 = some 0x10000000 ∧ (q 0x80).txRefused 0 0x10000000 = false ∧
    bitAt ((q 0x80).loadWord 0x10000000) 28 = false ∧ bitAt ((q 0x90).loadWord 0x10000000) 28 = true ∧
    bitAt ((q 0x80).loadWord 0x10000000) 29 = false ∧ ((q 0x80).txPorts 0).any (q 0x80).ethUp = true ∧ (rp []).txHead 0 = none ∧
    bitAt ((q 0x98).loadWord 0x10000000) 27 = true ∧
    instOf ((q 0x90).load 0x10000014 4) ((q 0x90).load 0x10000010 4) ≤ nsec 8 := by decide

/-- Unit 0 records one channel, pin 0, with trigger unit 15, and what it holds. -/
def capS (r : List (Nat × Nat)) (x : CapUnit) (rs : List CapRecord) : Part :=
  { (rp (r ++ [(Reg.CAP_UCFG 0, 2 ^ 31 + 2 ^ 15), (Reg.CAP_TCFG 15, 2 ^ 31 + 0x420)])) with
    cap := { units := vset (Vector.replicate 2 {}) 0 x, records := rs } }

theorem test_witness_Recorder :
    let q := capS [] {} []
    let o : OpenRec := { unit := 0, trig := 15, t := 0, trigIdx := 0, lastIdx := 3 }
    let w := capS [] { rcd := some o, ring := [{ idx := 3, vals := [] }] } []
    let r : CapRecord := { id := 5, unit := 0, buf := some 0, addr := 0x30000000, size := 1024, prot := true }
    let c := capS [(Reg.CAP_RECSEL, 5)] {} [r]
    let m := capS [(Reg.CAP_RECSEL, 5)] {} [{ r with measured := true }]
    q.alive = true ∧ q.bit (Reg.CAP_TCFG 15) 31 = true ∧ q.fld (Reg.CAP_TCFG 15) 0 12 = 0x420 ∧ q.capOn 0 = true ∧
    (∀ j < 16, (q.bit (Reg.CAP_TCFG j) 31 = true ∧ q.fld (Reg.CAP_TCFG j) 0 12 = 0x420) ↔ j = 15) ∧
    q.bit (Reg.CAP_UCFG 0) 15 = true ∧ (q.capUnit 0).buf ≠ none ∧ (q.capUnit 0).rcd = none ∧
    (capS [] { minIdx := 9 } []).capUnit 0 = { minIdx := 9 } ∧ (w.capUnit 0).rcd = some o ∧ o.xtrg.length < 8 ∧
    0 ≤ o.lastIdx ∧ o.lastIdx < 4 ∧ 0 % q.capTsmp 0 = 0 ∧ (rp []).capOn 0 = false ∧ (w.capUnit 0).buf = some 0 ∧
    (∃ y ∈ (w.capUnit 0).ring, y.idx = o.lastIdx) ∧ (w.capUnit 0).later = [] ∧ q.record? 5 = none ∧ c.record? 5 = some r ∧
    r.measured = false ∧ r.buf ≠ none ∧ r.holds = [] ∧ r.unit < 2 ∧ m.nextCopy = some 5 ∧ (m.findExtent 1024).isSome = true ∧
    (∀ y ∈ m.cap.records, y.emram = none) ∧ 256 ≤ r.size ∧ extentBytes r.size ≤ recordArea ∧ 0x30000000 ≤ r.addr ∧
    r.addr + r.size ≤ 0x30800000 ∧ (capS [] {} [{ r with holds := [7] }]).record? 5 = some { r with holds := [7] } := by decide

/-! Witnesses: safety, trust, clocks. -/

/-- A safety table whose words at some offsets are given. -/
def tabS (l : List (Nat × Nat)) : List Word :=
  (List.range 144).map (fun i => BitVec.ofNat 32 ((l.find? (fun e => e.1 = 4 * i)).elim 0 (·.2)))

/-- A part with such a table, its safety state and channel 0. -/
def safeS (l : List (Nat × Nat)) (x : SafeState) (c : SafeCh) : Part :=
  { (rp []) with safe := { x with cfg := some (tabS l), ch := vset x.ch 0 c } }

theorem test_witness_SafetyChannels :
    let inp := (0x40, 2 ^ 31)
    let p := fun (y : SafePin) => safeS [inp] {} { pins := vset (Vector.replicate 16 {}) 0 y }
    let a := p {}
    let pulsed := safeS [(0x40, 2 ^ 31 + 2 ^ 26)] { pulses := [(0, 0)] } {}
    a.alive = true ∧ a.safe.load = none ∧ bitAt (a.inCfg 0) 31 = true ∧ bitAt (a.inCfg 1) 31 = false ∧ a.pinSource 0 = none ∧
    pulsed.pinSource 0 = some 0 ∧ pulsed.safe.pulses.find? (fun e => e.1 = 0) = some (0, 0) ∧ usec 600 ≤ 0 + usec 600 ∧
    (a.sch 0).outs = 0 ∧ (0x60 : BitVec 7).toNat = 0 + 32 + 64 ∧ (0x61 : BitVec 7).toNat ≠ 0 + 32 + 64 ∧
    ((safeS [inp] {} { bad := some 0 }).sch 0).bad = some 0 ∧ 0 + usec 300 ≤ usec 300 ∧ a.safe.fault = false ∧
    (safeS [inp] { load := some ([], 7, 0) } {}).safe.load = some ([], 7, 0) ∧ 7 < 8 ∧
    (let f := safeS [(0xC0, 2 ^ 31 + 2 * 2 ^ 29 + 2 ^ 28 + 2 ^ 24 + 2 ^ 27), (0x200, 2 ^ 31)] {}
      { req := 2 ^ 16, sto := false, axes := vset (Vector.replicate 2 {}) 0 { ss1 := some (0, 0) } }
     0 ∈ f.fns ∧ f.fnCause (f.sch 0) 0 = true ∧ bitAt (f.fnCfg 0) 28 = true ∧ bitAt (f.fnCfg 0) 24 = true ∧ (f.sch 0).sto = false ∧
     bitAt (f.axCfg 0 0) 31 = true ∧ ((f.sch 0).axis 0).ss1 = some (0, 0) ∧ bitAt (f.fnCfg 0) 27 = true ∧ f.safeState = false) ∧
    (safeS [] {} { demand := 1 }).sch 0 = { demand := 1 } ∧ ((safeS [] {} {}).sch 1).frame = none ∧
    ((safeS [] {} { got := 0 }).sch 0).got + usec 2500 ≤ usec 2500 ∧
    ((safeS [inp] {} { inputs := vset (Vector.replicate 8 {}) 0 { apart := some 0 } }).sch 0).inp 0 = { apart := some 0 } ∧
    ((p { press := some (0, msec 100) }).sch 0).pin 0 = { press := some (0, msec 100) } ∧
    ((safeS [] {} { unlocked := [(3, 0)] }).sch 0).unlocked.find? (fun e => e.1 = 3) = some (3, 0) ∧
    (let c := safeS [(0x1C0, 2 ^ 31)] {} { conts := vset (Vector.replicate 4 {}) 0 { fb := some true } }
     bitAt (c.ctCfg 0) 31 = true ∧ ((c.sch 0).cont 0).cmd = false ∧ ((c.sch 0).cont 0).fb = some true ∧
     ((c.sch 0).cont 0).weld = false) := by decide

theorem test_witness_KeyHeld :
    let y : SafePin := { press := some (0, sec 1) }
    let c : SafeCh := { pins := vset (Vector.replicate 16 {}) 14 y }
    let p : Part := { (rp []) with safe := { ch := Vector.replicate 2 c, load := some ([], 7, 0) } }
    (∀ k < 2, ((p.sch k).pin p.keyPin).press = some (0, sec 1)) ∧ 0 + sec 1 ≤ sec 1 ∧ sec 1 ≤ 0 + sec 5 ∧ 0 + sec 300 ≤ sec 300 := by
  decide

theorem test_witness_ReservesAndTrust :
    let q := fun (r : List (Nat × Nat)) (h : HealthState) (t : TrustState) => ({ (rp r) with health := h, trust := t } : Part)
    let s := q [] { sampled := some 0 } {}
    s.alive = true ∧ s.health.sampled = some (instSec s.ringNow) ∧ s.health.sampled ≠ some (instSec (sec 1)) ∧
    0 / 3600 ≠ 3600 / 3600 ∧ 0 / 86400 ≠ 86400 / 86400 ∧
    ((q [] {} { first := some (0x4F574E52, 0) }).trust.first = some (0x4F574E52, 0)) ∧ sec 1 ≤ 0 + sec 1 ∧
    (q [] {} {}).trust.ownerFuse = none ∧ (q [] {} { ownerFuse := some [] }).trust.ownerFuse ≠ none ∧
    (q [(Reg.SEC_STAT, 2 ^ 27)] {} {}).bit Reg.SEC_STAT 27 = true ∧ (q [] {} {}).trust.ownerOk = false := by decide

/-- What a debug token must say is a free value of `Config`: that one holds is a hypothesis here too. -/
theorem test_witness_DebugToken (h : ∀ k t u n, Config.tokenOk k t u n = true) :
    let q : Part := { (rp []) with trust := { ownerOk := true } }
    q.trust.ownerOk = true ∧ Config.tokenOk q.ownerKey [] q.uid 0 = true ∧ q.measLog.length < 256 :=
  ⟨rfl, h _ _ _ _, by decide⟩

theorem test_witness_ClocksAndSupplies :
    let c := fun (r : List (Nat × Nat)) (x : ClkState) => ({ (rp r) with clk := x } : Part)
    let pl := fun (y : PllState) => ({ plls := vset (Vector.replicate 2 {}) 0 y } : ClkState)
    let a := c [] (pl { acq := some 0, fails := 2, lost := some 0 })
    let lock := c [(Reg.CLK_STAT, 3)] {}
    a.alive = true ∧ (a.pll 0).acq = some 0 ∧ usec 60 ≤ 0 + usec 60 ∧ 0 + usec 60 < usec 61 ∧ 2 ≤ (a.pll 0).fails ∧
    (c [(Reg.CLK_PLLCFG 0, 2 ^ 31)] {}).bit (Reg.CLK_PLLCFG 0) 31 = true ∧ (a.pll 0).lost = some 0 ∧ sec 3600 ≤ 0 + sec 3600 ∧
    bitAt (0x80 : Word) 7 = true ∧ a.clk.band = none ∧ (c [] { band := some (0, 0, 0) }).clk.band = some (0, 0, 0) ∧
    0 + usec 10 ≤ usec 10 ∧ (c [] { sag := [(0, 2)] }).clk.sag = [(0, 2)] ∧ a.droop 0 true = 0 ∧ a.clk.held = none ∧
    (c [] { held := some 4 }).clk.held = some 4 ∧ (c [] { held := some 3 }).clk.held ≠ none ∧
    (c [] { hot := some 0 }).clk.hot = some 0 ∧ 0 + msec 1 ≤ msec 1 ∧ (c [] { onVbat := true }).clk.onVbat = true ∧
    (rp [(Reg.RING_STAT, 2 ^ 28)]).bit Reg.RING_STAT 28 = true ∧ sec 2 % sec 1 = 0 ∧ a.cyc.dirty = [] ∧
    a.health.calStaged = false ∧ lock.alive = true := by decide

theorem test_witness_HostMode :
    let p := (gridS 0 0 {} {} 4 []).part
    p.alive = true ∧ p.gridRuns .A = true ∧
    ({ p with regs := (tmr.1, BitVec.ofNat 32 tmr.2) :: p.regs } : Part).groupRuns .A = true ∧ p.groupRuns .B = false := by decide

theorem test_witness_IllegalTransition :
    let p := posS 0 99 [] {}
    p.alive = true ∧ p.posOn 0 = true ∧ p.posMode 0 < 2 ∧ true ≠ (p.pif 0).a ∧ true ≠ (p.pif 0).b := by decide

/-! Operands that WellFormed refuses, one for each check, and the largest that it takes. -/

/-- A frame with a payload of `n` bytes. -/
def frameN (n : Nat) : RingFrame := mkF {} (List.replicate n 0)

/-- What the error codes find just outside the local address space. -/
def eccOut : List EccFind := [⟨2 ^ 40, false⟩]

/-- A grid figure's absent mirror frame with `n` words of the parameter file and `m` bands. -/
def mirrorN (n m : Nat) : MirrorFrame :=
  { grp := .A, fig := 0, scnt := 0, t0 := 0, spw := List.replicate n 0, seqcmd := 0, ramps := [], region := 0,
    bands := List.replicate m 0, fadeN := 0, fadeK := 0, words := [], grid := none }

theorem test_wf_register_offsets :
    [Instr.registerWrite .host 0x10002 0 0 0, .pairLoRead .host 1, .pairHiRead .host 2, .pairLoWrite .host 3 0,
      .pairHiWrite .host 6 0 0, .stagedWrite .host 0x10005 0].all (fun i => !i.wf) = true ∧
    (Instr.registerWrite .host 0xFFFFFC 0 0 0).wf = true := by decide

theorem test_wf_edge_channels :
    (Instr.tempoTick .A 0 [(28, 0)]).wf = false ∧ (Instr.tempoTick .A 0 [(27, 0)]).wf = true := by decide

theorem test_wf_lengths :
    (Instr.gbusResponse 0 (List.replicate 8 0)).wf = false ∧ (Instr.gbusResponse 0 (List.replicate 7 0)).wf = true ∧
    (Instr.xspiCommandDone true 0 (List.replicate 17 0)).wf = false ∧
    (Instr.xspiCommandDone true 0 (List.replicate 16 0)).wf = true ∧
    (Instr.hspiWrite 0 [] 0).wf = false ∧ (Instr.hspiWrite 0 (List.replicate 65 0) 0).wf = false ∧
    (Instr.hspiWrite 0 (List.replicate 64 0) 0).wf = true := by decide

theorem test_wf_found_errors :
    [Instr.dmaDescriptorFetch 0 eccOut, .dmaBeat 0 eccOut 0, .scrubPass false eccOut, .ringRd (frameN 0) eccOut 0,
      .sLd ⟨{ slot := 0, junk := false, ecc := eccOut, t := 0 }, 0, 0, 2, 0⟩, .sIdle { slot := 0, junk := false, ecc := eccOut, t := 0 },
      .hspiRead 0 1 eccOut 0, .remoteModuleRead 0 eccOut 0].all (fun i => !i.wf) = true ∧
    (Instr.scrubPass false [⟨2 ^ 40 - 1, true⟩]).wf = true := by decide

theorem test_wf_nodes :
    (Instr.tagGapSkip 0 false [] 0).wf = false ∧ (Instr.tagGapSkip 65 false [] 0).wf = false ∧
    (Instr.requestTimeout 65 0 0).wf = false ∧ (Instr.requestTimeout 64 0 0).wf = true := by decide

theorem test_wf_frames :
    (Instr.ringWr (frameN 257) [] 0).wf = false ∧ (Instr.ringWr (frameN 256) [] 0).wf = true ∧
    (Instr.ringProm (frameN 0) (.start 16) true).wf = false ∧
    (Instr.ringProm (frameN 0) (.reply 0 (some 65) none) true).wf = false ∧
    (Instr.ringProm (frameN 0) (.assign 0 [(0, 65)] [] 0) true).wf = false ∧
    (Instr.ringProm (frameN 0) (.assign 15 [(0, 64)] [(1, 64)] 0) true).wf = true ∧
    (Instr.ringLink (frameN 0) (.broken 0)).wf = false ∧ (Instr.ringLink (frameN 0) (.heal 64 0)).wf = true := by decide

theorem test_wf_mirror_frames :
    (Instr.mirrorFrame (.inl (mirrorN 257 4)) true 0).wf = false ∧ (Instr.mirrorFrame (.inl (mirrorN 256 5)) true 0).wf = false ∧
    (Instr.mirrorFrame (.inl (mirrorN 256 4)) true 0).wf = true := by decide

theorem test_wf_host_accesses :
    (Instr.hostPcieRead true 0 0 [] 0).wf = false ∧ (Instr.hostPcieRead true 0 513 [] 0).wf = false ∧
    (Instr.hostPcieRead true 0xFFF 2 [] 0).wf = false ∧ (Instr.hostPcieRead true 0xE00 512 [] 0).wf = true ∧
    (Instr.hostPcieWrite true 0xFFF [0, 0] 0).wf = false := by decide

theorem test_wf_monitors : (Instr.monitorSample .temp [] 0).wf = false ∧ MonKind.count .volt = 24 := by decide

/-! Slot words of Heloryx-V: the worked encoding of bundle 11 beside Table 5.5, and the first code of the X slot. -/

/-- An operation without a guard, by its fields. -/
def slotO (d s1 s2 : BitVec 6) (mod : BitVec 5) : VOp := { lane := 2, bundle := 11, d := d, s1 := s1, s2 := s2, p := 0, mod := mod }

theorem test_slot_word_intg : decodeSlotWord 2 11 0x398A5401 = some (.vIntg (slotO 24 41 20 1)) := by decide

theorem test_slot_word_intg_m1 : decodeSlotWord 2 11 0x399A5501 = some (.vIntg (slotO 25 41 21 1)) := by decide

theorem test_slot_word_ldc : decodeSlotWord 2 11 0x8A801408 = some (.vLdc (slotO 40 0 0x14 8)) := by decide

theorem test_slot_word_nop : decodeSlotWord 2 11 0 = some (.vNop (slotO 0 0 0 0)) := by decide

theorem test_slot_word_sincos : decodeSlotWord 2 11 0b11000000001000001100000000000000 = some (.vSincos (slotO 2 3 0 0)) := by
  decide

/-- 0x1B, 0x27 and 0x3E are not listed in Table 5.2. -/
theorem test_slot_word_reserved :
    decodeSlotWord 2 11 0x6C000000 = none ∧ decodeSlotWord 2 11 0x9C000000 = none ∧ decodeSlotWord 2 11 0xF8000000 = none := by
  decide

/-! One step each, with results worked out from the spec. -/

/-- R251: SUB sets no flag that it is not asked for, and wraps. -/
theorem test_sub_wraps :
    let i : Instr := .sSub { h := sH, rd := 3, rs1 := 1, src := .inl 2, setF := false }
    let s := slotS { w := Vector.ofFn (fun i => if i = 2 then 1 else 0) } [] []
    ((after i s).slot 0).gr 3 = 0xFFFFFFFF := by decide

/-- R43: a set write raises bits and leaves the others; a clear write lowers them. -/
theorem test_gpio_latch_set_and_clear :
    (after (.gpioLatchWrite .set 0x6) (rg [(Reg.GPIO_OUT, 9)])).reg Reg.GPIO_OUT = 15 ∧
    (after (.gpioLatchWrite .clr 0x9) (rg [(Reg.GPIO_OUT, 13)])).reg Reg.GPIO_OUT = 4 := by decide

end Sys2Proof.Tests
end

section
/-! PROOFS. What a write of one word does where no rule of its own governs it: bits by access code, the requests that it makes of
the ring, and low halves that their rule refuses. -/

namespace Sys2Proof.Machine

variable {p : Part} {ini : Initiator} {off : Nat} {v hw : Word} {r : RegRow}

theorem exec_registerWrite (ini : Initiator) (o : BitVec 24) (v hw : Word) (t : Instant) (s : State) :
    exec (.registerWrite ini o v hw t) s = s.run (fun p => (p.at t).regWrite ini o.toNat v hw) := by rfl

theorem exec_pairLoWrite (ini : Initiator) (o : BitVec 24) (v : Word) (s : State) :
    exec (.pairLoWrite ini o v) s = execPairLoWrite ini o v s := by rfl

theorem baseOff_of_aliasOf_none (h : aliasOf off = none) : baseOff off = off := by simp [baseOff, h]

/-- A register stored by its access code, bit by bit (R11). -/
theorem RegRow.bitAt_written (r : RegRow) (old v : Word) {i : Nat} (hi : i < 32) :
    bitAt (r.written old v) i =
      ((bif r.rw.testBit i then bitAt v i else bitAt old i) && !(bitAt v i && r.w1c.testBit i) ||
        bitAt v i && r.w1s.testBit i) := by
  cases hrw : r.rw.testBit i <;> simp [RegRow.written, bitAt_not _ _ hi, bitAt_ofNat _ _ hi, hrw]

/-- The same with the W1C bits that hardware sets in the same clock (R469). -/
theorem Part.bitAt_plainWrite (p : Part) (r : RegRow) (off : Nat) (v hw : Word) {i : Nat} (hi : i < 32) :
    bitAt ((p.plainWrite r off v hw).reg off) i =
      (bitAt (r.written (p.reg off) v) i || bitAt hw i && r.w1c.testBit i) := by
  simp [Part.plainWrite, bitAt_ofNat _ _ hi]

/-- The registers whose writes make requests of the ring have a rule of their own (R39, R269). -/
theorem Part.writeAct_ringQueue (p : Part) (ini : Initiator) (v : Word) {q : Nat} (hq : q ∈ [22, 23]) :
    (p.writeAct ini (Reg.QUE_PIDX q) v).isSome = true ∧ (p.writeAct ini (Reg.QUE_CFG q) v).isSome = true := by
  rcases List.mem_pair.1 hq with rfl | rfl <;> exact ⟨rfl, rfl⟩

/-- A write without a rule of its own makes no request of the ring. -/
theorem Part.ringSends_of_writeAct_none (h : p.writeAct ini off v = none) (q : Part) : q.ringSends off = q := by
  unfold Part.ringSends
  cases hf : [22, 23].find? (fun q => off = Reg.QUE_PIDX q || off = Reg.QUE_CFG q) with
  | none => rfl
  | some k =>
    obtain ⟨hpidx, hcfg⟩ := p.writeAct_ringQueue ini v (List.mem_of_find?_eq_some hf)
    have hk := List.find?_some hf
    simp only [Bool.or_eq_true, decide_eq_true_eq] at hk
    rcases hk with rfl | rfl <;> simp [h] at hpidx hcfg

theorem Part.regWrite_of_writeAct_none (h : p.writeAct ini off v = none) :
    p.regWrite ini off v hw = p.regPut ini off v hw := Part.ringSends_of_writeAct_none h _

section
variable (hrow : rowAt off = some r) (halias : aliasOf off = none) (hst : r.st = 0) (hact : p.writeAct ini off v = none)
include hrow halias hst hact

/-- A register that is no half of a 64-bit value, no ST register, and has no rule of its own. -/
theorem Part.regWrite_plain (hjoint : r.joint = false) : p.regWrite ini off v hw = p.plainWrite r off v hw := by
  simp [Part.regWrite_of_writeAct_none hact, Part.regPut, baseOff_of_aliasOf_none halias, hrow, hst, hact, hjoint]

/-- A write of a low half that its rule refuses does what the rule says and holds nothing. -/
theorem Part.regWrite_loRefused {q : Part} (hjoint : r.joint = true) (hlo : r.pair = .lo)
    (href : p.loRefused ini off = some q) : p.regWrite ini off v hw = q := by
  simp [Part.regWrite_of_writeAct_none hact, Part.regPut, baseOff_of_aliasOf_none halias, hrow, hst, hact, hjoint, hlo, href]

end

@[simp] theorem Part.decodeError_bus (p : Part) (ini : Initiator) (a : Nat) : (p.decodeError ini a).bus = p.bus := by
  simp [Part.decodeError, Part.countSat, Part.setBit, Part.setFld]

@[simp] theorem Part.held_decodeError (p : Part) (i ini : Initiator) (a o : Nat) :
    (p.decodeError ini a).held i o = p.held i o := by simp [Part.held]

/-- No slot is the host's, so that none of its writes comes from MONITOR. -/
theorem Part.monitorOf_host (p : Part) (k : Nat) : p.monitorOf .host k = false := by simp [Part.monitorOf]

/-- A write of MMU_CTX_0_LO by another than slot 0 in MONITOR is ignored and sets SYS_DECERR (R262). -/
theorem Part.loRefused_mmuCtx (h : p.monitorOf ini 0 = false) :
    p.loRefused ini (Reg.MMU_CTX_LO 0) = some (p.decodeError ini (regBase + Reg.MMU_CTX_LO 0)) := by
  simp [Part.loRefused, ixOf, Reg.QUE_BASE_LO, Reg.DMA_TTB_LO, Reg.MMU_CTX_LO, h]

/-- MMU_CTX_0_LO is the low half of an RW pair. -/
theorem rowAt_mmuCtx : ∃ r, rowAt (Reg.MMU_CTX_LO 0) = some r ∧ r.st = 0 ∧ r.joint = true ∧ r.pair = .lo := by
  have h : (rowAt (Reg.MMU_CTX_LO 0)).any (fun r => r.st = 0 && r.joint && r.pair = .lo) = true := by decide
  simpa [Option.any_eq_true, and_assoc] using h

/-- The host's write of MMU_CTX_0_LO is recorded as a decode error. -/
theorem exec_pairLoWrite_mmuCtx_host (v : Word) {s : State} (h : s.part.alive = true) :
    exec (.pairLoWrite .host (BitVec.ofNat 24 (Reg.MMU_CTX_LO 0)) v) s =
      .next { s with part := s.part.decodeError .host (regBase + Reg.MMU_CTX_LO 0) } := by
  obtain ⟨r, hrow, hst, hjoint, hlo⟩ := rowAt_mmuCtx
  have halias : aliasOf (Reg.MMU_CTX_LO 0) = none := by decide
  have hoff : (BitVec.ofNat 24 (Reg.MMU_CTX_LO 0)).toNat = Reg.MMU_CTX_LO 0 := by decide
  have hwrite : s.part.regWrite .host (Reg.MMU_CTX_LO 0) v 0#32 = s.part.decodeError .host (regBase + Reg.MMU_CTX_LO 0) :=
    Part.regWrite_loRefused hrow halias hst rfl hjoint hlo (Part.loRefused_mmuCtx (s.part.monitorOf_host 0))
  simp [exec_pairLoWrite, execPairLoWrite, State.run_alive h, hoff, baseOff_of_aliasOf_none halias, hrow, hjoint, hlo, hwrite]

end Sys2Proof.Machine
end

section
/-! PROOFS. The statements of 00_scope.md: reset, writes by access code, 64-bit pairs. -/

namespace Sys2Proof.Machine

/-- Settles O5: after reset neither the register file nor memory lists an entry. -/
theorem resetIsCanonical : Obligations.ResetIsCanonical := by
  have hregs : State.reset.part.regsWf = true := rfl
  have hmem : State.reset.part.mem.wf = true := rfl
  exact ⟨⟨hregs, hmem⟩, rfl, rfl⟩

/-- Settles O8: the write is `Part.plainWrite`, whose stored word is known bit by bit. -/
theorem registerWriteByAccessCode : Obligations.RegisterWriteByAccessCode := by
  unfold Obligations.RegisterWriteByAccessCode
  intro ini off v hw t s r halive hrow halias hst hjoint hact
  refine Does.of_run (exec_registerWrite ini off v hw t s) halive ?_
  rw [Part.regWrite_plain hrow halias hst hact hjoint]
  refine ⟨fun i hi hrw hw1c hw1s => ?rw, fun i hi hw1c hrw hw1s => ?w1c, fun i hi hrw hw1c hw1s => ?other, ?frame⟩
  case rw | w1c | other => simp [Part.bitAt_plainWrite, RegRow.bitAt_written, hi, hrw, hw1c, hw1s]
  case frame => exact (RegsOnly.at s.part t _).trans (RegsOnly.setReg _ _ _)

/-- Refutes O9: its clause on writes of a _LO register takes in low halves whose own rule refuses the write. In the state after
reset the host's write of MMU_CTX_0_LO is ignored and sets SYS_DECERR (R262), so that nothing is held. -/
theorem not_pairsAreReadAndWrittenWhole : ¬ Obligations.PairsAreReadAndWrittenWhole := by
  unfold Obligations.PairsAreReadAndWrittenWhole
  rintro ⟨-, -, -, hloWrite, -⟩
  obtain ⟨r, hrow, -, hjoint, hlo⟩ := rowAt_mmuCtx
  have hcmpa (q : Nat) : Reg.MMU_CTX_LO 0 ≠ Reg.PWM_CMPA q := by unfold Reg.MMU_CTX_LO Reg.PWM_CMPA; omega
  obtain ⟨p, hexec, hheld, -⟩ := hloWrite .host (BitVec.ofNat 24 (Reg.MMU_CTX_LO 0)) 1 State.reset r rfl hrow (by decide)
    hjoint hlo (fun q _ h => absurd h (hcmpa q))
  have hp : State.reset.part.decodeError .host (regBase + Reg.MMU_CTX_LO 0) = p := by
    have h := (exec_pairLoWrite_mmuCtx_host 1 rfl).symm.trans hexec
    injection h with h
    exact congrArg State.part h
  have hnone : State.reset.part.held .host (Reg.MMU_CTX_LO 0) = none := rfl
  rw [← hp, Part.held_decodeError] at hheld
  exact absurd (hnone.symm.trans hheld) (by simp)

end Sys2Proof.Machine
end

section
/-! PROOFS. The canonical form of registers and memory as one predicate of the part, and the rules by which a meaning keeps
it: the two writes, a change of other fields, branches and folds. -/

namespace Sys2Proof.Machine

/-- The register file and memory of a part are in canonical form (log entries 3 and 5). -/
structure Part.Canon (p : Part) : Prop where
  regs : p.regsWf = true
  mem : p.mem.wf = true

theorem State.canonical_iff (s : State) : s.canonical ↔ s.part.Canon := ⟨fun h => ⟨h.1, h.2⟩, fun h => ⟨h.1, h.2⟩⟩

/-- A list without some of its entries rises as well. -/
theorem sRising_filter {α : Type} {f : Nat × α → Bool} {l : List (Nat × α)} {o : Option Nat} (h : sRising o l = true) :
    sRising o (l.filter f) = true := by
  induction l generalizing o with
  | nil => exact h
  | cons e l ih =>
    obtain ⟨a, v⟩ := e
    obtain ⟨hb, hl⟩ : (∀ b, o = some b → b < a) ∧ sRising (some a) l = true := by
      cases o <;> simpa [sRising] using h
    rw [List.filter_cons]
    split
    · cases o <;> simp_all [sRising]
    · exact ih (sRising_weaken hl (fun b hb' => (hb b hb').le))

theorem sCanon_filter {α : Type} [DecidableEq α] {d : Nat → α} {f : Nat × α → Bool} {l : List (Nat × α)}
    (h : sCanon d l = true) : sCanon d (l.filter f) = true := by
  rw [sCanon_iff] at h ⊢
  exact ⟨sRising_filter h.1, fun e he => h.2 e (List.mem_of_mem_filter he)⟩

section
variable {p : Part} (h : p.Canon)
include h

section
variable {now : Instant} {freeCount opCount : Nat} {bus : BusState} {commits : List PendCommit} {joint : Option JointCommit}
  {log : List LogEntry} {lanes : Vector Lane 8} {cle : Vector CleGroup 2} {gpioTask : Word} {lib : SeqLib}
  {out : List OutMsg} {sense : SenseState} {pwm : PwmState} {pos : Vector PosIf 4} {ramps : Vector RampCh 16}
  {core : CoreState} {cyc : CycState} {ops : Vector OpSlot 8} {rsvLog : List RsvEntry} {pair_ : PairState} {ring : RingState}
  {time : TimeState} {cap : CapState} {safe : SafeState} {measLog : List MeasEntry} {health : HealthState}
  {trust : TrustState} {clk : ClkState} {eth : EthState}

/-- A change of other fields than the registers and memory. -/
theorem Part.Canon.frame :
    ({ now, freeCount, regs := p.regs, bus, commits, joint, log, lanes, cle, gpioTask, mem := p.mem,
       lib, out, sense, pwm, pos, ramps, core, cyc, ops, opCount, rsvLog, pair_, ring, time, cap, safe, measLog, health,
       trust, clk, eth } : Part).Canon := ⟨h.regs, h.mem⟩

/-- A change of other fields than the registers and the bytes of memory. -/
theorem Part.Canon.memFrame {poison : List Nat} {wear : List (Nat × Nat)} {rowEcc : List (Nat × Nat × Nat)} :
    ({ now, freeCount, regs := p.regs, bus, commits, joint, log, lanes, cle, gpioTask,
       mem := { bytes := p.mem.bytes, poison, wear, rowEcc }, lib, out, sense, pwm, pos, ramps, core, cyc, ops, opCount, rsvLog,
       pair_, ring, time, cap, safe, measLog, health, trust, clk, eth } : Part).Canon := ⟨h.regs, h.mem⟩

end

theorem Part.Canon.setReg {off : Nat} {v : Word} : (p.setReg off v).Canon := ⟨p.setReg_regsWf h.regs off v, h.mem⟩

theorem Part.Canon.setByte {a : Nat} {b : Byte} : (p.setByte a b).Canon := ⟨h.regs, p.setByte_memWf h.mem a b⟩

theorem Part.Canon.foldl {α : Type} {f : Part → α → Part} (hf : ∀ q a, q.Canon → (f q a).Canon) {l : List α} :
    (l.foldl f p).Canon := by
  induction l generalizing p with
  | nil => exact h
  | cons a l ih => exact ih (hf p a h)

end

theorem Part.Canon.ite {c : Prop} [Decidable c] {p q : Part} (hp : p.Canon) (hq : q.Canon) :
    (if c then p else q).Canon := by
  split <;> assumption

/-- A choice by the constructor of an option. -/
theorem Part.Canon.elim {α : Type} {o : Option α} {p : Part} {f : α → Part} (hp : p.Canon) (hf : ∀ a, (f a).Canon) :
    (o.elim p f).Canon := by
  cases o
  · exact hp
  · exact hf _

section
variable {α β : Type}

/-- The branches of a meaning that also gives an answer. -/
theorem Part.Canon.iteFst {c : Prop} [Decidable c] {x y : Part × α} (hx : x.1.Canon) (hy : y.1.Canon) :
    (if c then x else y).1.Canon := by
  split <;> assumption

theorem Part.Canon.foldlFst {f : Part × α → β → Part × α} {x : Part × α} (h : x.1.Canon)
    (hf : ∀ x b, x.1.Canon → (f x b).1.Canon) {l : List β} : (l.foldl f x).1.Canon := by
  induction l generalizing x with
  | nil => exact h
  | cons b l ih => exact ih (hf x b h)

end

/-- The part of an answer that is known to be a pair. -/
theorem Part.Canon.of_fst {α : Type} {x : Part × α} {q : Part} {a : α} (hx : x = (q, a)) (h : x.1.Canon) : q.Canon := by
  subst hx
  exact h

/-- The part of the data of a read is in canonical form. -/
def BusData.Canon (d : BusData) : Prop := d.part.Canon

theorem BusData.Canon.foldl {β : Type} {f : BusData → β → BusData} {x : BusData} (h : x.Canon)
    (hf : ∀ x b, x.Canon → (f x b).Canon) {l : List β} : (l.foldl f x).Canon := by
  induction l generalizing x with
  | nil => exact h
  | cons b l ih => exact ih (hf x b h)

/-- A part that may be missing is in canonical form where it is there. -/
def CanonOpt (o : Option Part) : Prop := ∀ q, o = some q → q.Canon

theorem CanonOpt.ofNone : CanonOpt none := by
  rintro _ ⟨⟩

theorem CanonOpt.ofSome {p : Part} (h : p.Canon) : CanonOpt (some p) := by
  rintro _ ⟨⟩
  exact h

theorem CanonOpt.ite {c : Prop} [Decidable c] {o r : Option Part} (ho : CanonOpt o) (hr : CanonOpt r) :
    CanonOpt (if c then o else r) := by
  split <;> assumption

theorem CanonOpt.map {α : Type} {o : Option α} {f : α → Part} (hf : ∀ a, (f a).Canon) : CanonOpt (o.map f) := by
  cases o
  · exact .ofNone
  · exact .ofSome (hf _)

theorem CanonOpt.orElse {o r : Option Part} (ho : CanonOpt o) (hr : CanonOpt r) : CanonOpt (o <|> r) := by
  cases o
  · exact hr
  · exact ho

theorem CanonOpt.getD {o : Option Part} {p : Part} (ho : CanonOpt o) (h : p.Canon) : (o.getD p).Canon := by
  cases o
  · exact h
  · exact ho _ rfl

/-- An outcome whose next state, if there is one, is in canonical form. -/
def KeepsCanon (o : Host.Outcome State Fault Refusal) : Prop := ∀ t, o = .next t → t.part.Canon

section
variable {s : State} {f : Part → Part} (hs : s.part.Canon) (hf : ∀ p, p.Canon → (f p).Canon)
include hs hf

/-- The three forms of a meaning. -/
theorem State.run_canon : KeepsCanon (s.run f) := by
  rintro _ ⟨⟩
  exact .ite (hf _ hs) hs

theorem State.runRom_canon : KeepsCanon (s.runRom f) := by
  rintro _ ⟨⟩
  exact .ite (hf _ hs) hs

theorem State.runAlways_canon : KeepsCanon (s.runAlways f) := by
  rintro _ ⟨⟩
  exact hf _ hs

end

end Sys2Proof.Machine
end

section
/-! PROOFS. Every operation and meaning of the model keeps the canonical form. -/

namespace Sys2Proof.Machine

section
variable {p : Part} (h : p.Canon)
include h

/-! The meanings of Machine/Ops. -/

theorem Part.Canon.setFld {off lo w n : Nat} : (p.setFld off lo w n).Canon := h.setReg

theorem Part.Canon.setBit {off i : Nat} {b : Bool} : (p.setBit off i b).Canon := h.setFld

theorem Part.Canon.raise {off i : Nat} : (p.raise off i).Canon := h.setBit

theorem Part.Canon.raiseIf {c : Bool} {off i : Nat} : (p.raiseIf c off i).Canon := .ite h.raise h

theorem Part.Canon.countSat {off lo w : Nat} : (p.countSat off lo w).Canon := h.setFld

theorem Part.Canon.countWrap {off lo w : Nat} : (p.countWrap off lo w).Canon := h.setFld

theorem Part.Canon.setPair {lo n : Nat} : (p.setPair lo n).Canon := h.setReg.setReg

theorem Part.Canon.when {c : Bool} {f : Part → Part} (hf : ∀ q, q.Canon → (f q).Canon) : (p.when c f).Canon :=
  .ite (hf _ h) h

theorem Part.Canon.each {α : Type} {l : List α} {f : Part → α → Part} (hf : ∀ q x1, q.Canon → (f q x1).Canon) :
    (p.each l f).Canon :=
  h.foldl (fun _ _ hq => hf _ _ hq)

theorem Part.Canon.at {t : Instant} : (p.at t).Canon := h.frame

theorem Part.Canon.atRing {t : Instant} : (p.atRing t).Canon := h.at

theorem Part.Canon.setTime {lo : Nat} {t : Instant} : (p.setTime lo t).Canon := h.setReg.setReg

theorem Part.Canon.setStamp {lo : Nat} {t : Instant} : (p.setStamp lo t).Canon := h.setTime.setReg

theorem Part.Canon.taken : p.taken.Canon := h.frame

theorem Part.Canon.setLane {n : Nat} {l : Lane} : (p.setLane n l).Canon := h.frame

theorem Part.Canon.setCg {g : Grp} {c : CleGroup} : (p.setCg g c).Canon := h.frame

theorem Part.Canon.placeBytes {a : Nat} {bs : List Byte} : (p.placeBytes a bs).Canon := by
  induction bs generalizing p a with
  | nil => exact h
  | cons b bs ih => exact ih h.setByte

theorem Part.Canon.breakResv {a n : Nat} : (p.breakResv a n).Canon := .ite h.frame h

theorem Part.Canon.clearPoison {a n : Nat} : (p.clearPoison a n).Canon := .ite h h.memFrame

theorem Part.Canon.storeBytes {a : Nat} {bs : List Byte} : (p.storeBytes a bs).Canon := h.placeBytes.clearPoison.breakResv

theorem Part.Canon.store {a k n : Nat} : (p.store a k n).Canon := h.storeBytes

theorem Part.Canon.storeWord {a : Nat} {w : Word} : (p.storeWord a w).Canon := h.store

theorem Part.Canon.produce {q : Nat} {entry : List Byte} : (p.produce q entry).Canon :=
  .ite h (.ite h.countSat h.storeBytes.setFld)

theorem Part.Canon.logEvent {code : LogCode} {args : List Nat} : (p.logEvent code args).Canon := h.frame.taken.produce

theorem Part.Canon.hostFault : p.hostFault.Canon := h.setBit

theorem Part.Canon.hostWarning : p.hostWarning.Canon := h.setBit

theorem Part.Canon.hostCutin : p.hostCutin.Canon := h.setBit

theorem Part.Canon.hostReserve : p.hostReserve.Canon := h.setBit

/-! The meanings of Machine/Status. -/

theorem Part.Canon.showMoved {e : Nat × Option Grp} : (p.showMoved e).Canon := h.setReg

theorem Part.Canon.placeSnap {snap : WordFile} : (p.placeSnap snap).Canon := h.each (fun _ _ hq => hq.setReg)

theorem Part.Canon.cleMoved {g : Grp} {old : Nat → Word} : (p.cleMoved g old).Canon := .ite h.setCg h

theorem Part.Canon.cleStopMove {g : Grp} : (p.cleStopMove g).Canon := by
  dsimp only [Part.cleStopMove]
  split; exacts [h, h.frame.placeSnap.cleMoved.showMoved]

/-! The meanings of Machine/Sys. -/

theorem Part.Canon.decodeError {ini : Initiator} {addr : Nat} : (p.decodeError ini addr).Canon :=
  h.countSat.setFld.setBit.setReg.setReg

theorem Part.Canon.answer {w : Word} {ok : Bool} : (p.answer w ok).Canon := h.frame

theorem Part.Canon.showOcc {code : Nat} : (p.showOcc code).Canon := h.setFld.setFld.setFld.setFld

theorem Part.Canon.endTransaction {ini : Initiator} : (p.endTransaction ini).Canon :=
  .ite h.frame.setFld.showOcc h.frame.showOcc

theorem Part.Canon.askEntry {ini : Initiator} : (p.askEntry ini).Canon :=
  .ite h.frame.showOcc (.ite h.frame.setFld.showOcc (.ite h h.frame))

theorem Part.Canon.occRead {i : Nat} : (p.occRead i).Canon := .ite h.answer.setFld h.answer.setFld

theorem Part.Canon.gpioLevel {pin : Nat} {level : Bool} : (p.gpioLevel pin level).Canon := h.setBit.raiseIf

theorem Part.Canon.gpioMoved {old : Nat → Word} : (p.gpioMoved old).Canon :=
  h.each (fun _ _ hq => hq.when (fun _ hr => hr.setBit))

theorem Part.Canon.gpioLatch {kind : LatchWrite} {v : Word} : (p.gpioLatch kind v).Canon := h.setReg.setReg

/-! The meanings of Machine/Mmu. -/

theorem Part.Canon.wearWord {a : Nat} : (p.wearWord a).Canon := .raiseIf (.ite h.memFrame.setReg.setReg h.memFrame)

theorem Part.Canon.wearRange {a n : Nat} : (p.wearRange a n).Canon := h.each (fun _ _ hq => hq.wearWord)

theorem Part.Canon.eccCorrected {a : Nat} : (p.eccCorrected a).Canon :=
  .memFrame (.ite h.countSat.setPair.wearWord h.countSat.setPair)

theorem Part.Canon.eccMark {a : Nat} : (p.eccMark a).Canon := .ite h h.memFrame

theorem Part.Canon.eccFatal {a : Nat} : (p.eccFatal a).Canon := .eccMark (.ite h.countSat.setPair h.countSat.setPair)

theorem Part.Canon.eccFind {l : List EccFind} : (p.eccFind l).Canon :=
  h.each (fun _ _ hq => .ite hq (.ite hq.eccMark hq.eccCorrected))

theorem Part.Canon.setSlot {k : Nat} {x : CoreSlot} : (p.setSlot k x).Canon := h.frame

theorem Part.Canon.irq {i : Nat} : (p.irq i).Canon := h.each (fun _ _ hq => hq.setSlot)

theorem Part.Canon.walked {ttb va : Nat} : (p.walked ttb va).1.Canon := by
  have h1 : ((p.walk ttb va).bad.elim p p.eccFatal).Canon := h.elim fun _ => h.eccFatal
  unfold Part.walked
  extract_lets
  split
  · exact h1.countSat
  · exact h1

theorem Part.Canon.tlbPut {l : List TlbEntry} {cap : Nat} {e : TlbEntry} : (p.tlbPut l cap e).1.Canon := by
  dsimp only [Part.tlbPut]
  split; exacts [h, h.taken]

theorem Part.Canon.slotXlate {k va : Nat} {acc : Acc} {task : Bool} : (p.slotXlate k va acc task).1.Canon := by
  unfold Part.slotXlate
  split
  extract_lets judge p1
  have h1 : p1.Canon := h.countWrap
  split
  · exact h.countWrap
  · split
    next q e hq => exact .of_fst hq h1.walked
    next q leaf big hq => exact (Part.Canon.of_fst hq h1.walked).tlbPut.frame

theorem Part.Canon.setIotlb {l : List TlbEntry} : (p.setIotlb l).Canon := h.frame.setFld

theorem Part.Canon.ioXlate {c va : Nat} {acc : Acc} {task : Bool} : (p.ioXlate c va acc task).1.Canon := by
  unfold Part.ioXlate
  split
  extract_lets judge p1
  have h1 : p1.Canon := h.countWrap
  split
  · exact h
  · split
    · exact h.countWrap
    · split
      next q e hq => exact .of_fst hq h1.walked
      next q leaf big hq => exact (Part.Canon.of_fst hq h1.walked).tlbPut.setIotlb

theorem Part.Canon.invSlot {j sfn : Nat} {key : Word} : (p.invSlot j sfn key).Canon := h.setSlot

theorem Part.Canon.setDma {c : Nat} {x : DmaCh} : (p.setDma c x).Canon := h.frame

theorem Part.Canon.passOver {k : Nat} : (p.passOver k).Canon := h.setSlot

theorem Part.Canon.shootDone {k : Nat} : (p.shootDone k).Canon := .ite h.setSlot.countWrap h

theorem Part.Canon.shootFront {n : Nat} : (p.shootFront n).Canon := by
  induction n generalizing p with
  | zero => exact h
  | succ n ih =>
    unfold Part.shootFront
    split
    · exact h
    next x l _ =>
      have hx (u : Part × List Nat) (hu : u.1.Canon) :
          (if u.2.isEmpty then (({ u.1 with core := { u.1.core with shoots := l } }).shootDone x.slot).shootFront n
            else { u.1 with core := { u.1.core with shoots := { x with users := some u.2 } :: l } }).Canon :=
        .ite (ih hu.frame.shootDone) hu.frame
      apply hx
      split; exacts [h, (h.each fun _ _ hq => hq.invSlot).setIotlb]

theorem Part.Canon.beatGone {c : Nat} : (p.beatGone c).Canon := .ite h.setDma h.setDma.shootFront

theorem Part.Canon.invalidate {k sfn : Nat} {key : Word} {shared : Bool} : (p.invalidate k sfn key shared).Canon :=
  .ite (h.when (fun _ hq => hq.countWrap)).setSlot.frame.shootFront h.invSlot.passOver

theorem Part.Canon.ctxWrite {ini : Initiator} {k : Nat} {lo hi : Word} : (p.ctxWrite ini k lo hi).Canon :=
  .ite h.setReg.setReg h.decodeError

theorem Part.Canon.ttb1Write {ini : Initiator} {k : Nat} {lo hi : Word} : (p.ttb1Write ini k lo hi).Canon :=
  .ite h.setReg.setReg h.decodeError

theorem Part.Canon.emStore {a : Nat} {bs : List Byte} : (p.emStore a bs).Canon := h.storeBytes.wearRange

theorem Part.Canon.rowReplace {a : Nat} : (p.rowReplace a).Canon :=
  .ite h (.ite (.ite h.memFrame.setFld h.memFrame) (.ite h.memFrame.setFld h.memFrame))

theorem Part.Canon.scrubPass {emram : Bool} {found : List EccFind} : (p.scrubPass emram found).Canon :=
  (h.each (fun _ _ hq => .ite hq.eccFatal hq.eccCorrected)).countWrap

/-! The meanings of Machine/Cap. -/

theorem Part.Canon.setCapUnit {u : Nat} {x : CapUnit} : (p.setCapUnit u x).Canon := h.frame

theorem Part.Canon.capShow {u : Nat} : (p.capShow u).Canon := h.setReg

theorem Part.Canon.emShow : p.emShow.Canon := h.setReg

theorem Part.Canon.takeBuf {u : Nat} : (p.takeBuf u).Canon := by
  dsimp only [Part.takeBuf]
  split; exacts [h.setCapUnit, h.frame.setCapUnit]

theorem Part.Canon.capFire {tr : Nat} {t : Instant} {u : Nat} : (p.capFire tr t u).Canon :=
  .ite h (by
    dsimp only
    split
    · exact .ite (h.when (fun _ hq => hq.takeBuf)).setCapUnit (h.when (fun _ hq => hq.takeBuf)).setCapUnit
    · exact .ite (h.when (fun _ hq => hq.takeBuf)).setReg.raise (.ite (h.when (fun _ hq => hq.takeBuf)) (h.when (fun _ hq =>
          hq.takeBuf)).setCapUnit))

theorem Part.Canon.trigFire {tr : Nat} {t : Instant} : (p.trigFire tr t).Canon :=
  h.countWrap.setStamp.capFire.capFire.capShow.capShow

theorem Part.Canon.setTrig {tr : Nat} {x : TrigUnit} : (p.setTrig tr x).Canon := h.frame.setBit

theorem Part.Canon.capLevel {src : Nat} {t : Instant} {v : Word} : (p.capLevel src t v).Canon := by
  unfold Part.capLevel
  extract_lets t on r
  have hr : r.1.Canon := .foldlFst h fun _ _ hq => by dsimp only; exact hq.setTrig
  clear_value r
  exact hr.each fun _ _ hq => hq.trigFire

theorem Part.Canon.capEvent {src : Nat} {t : Instant} : (p.capEvent src t).Canon := h.each (fun _ _ hq => hq.trigFire)

theorem Part.Canon.swTrig {v : Word} {t : Instant} : (p.swTrig v t).Canon := h.at.when (fun _ hq => hq.capEvent)

theorem Part.Canon.capSample {u : Nat} {t : Instant} : (p.capSample u t).Canon := .ite h.atRing h.atRing.setCapUnit.capShow

theorem Part.Canon.putHeader {a : Nat} {h_ : List Byte} : (p.putHeader a h_).Canon := h.storeBytes.store

theorem Part.Canon.closeRecord {u : Nat} {t : Instant} : (p.closeRecord u t).Canon := by
  dsimp only [Part.closeRecord]
  split
  · exact .ite h.atRing (h.atRing.putHeader.storeBytes.frame.setCapUnit.takeBuf.setReg.countWrap.raise.raiseIf.each
        (fun _ _ hq => hq.capFire)).capShow
  · exact h.atRing

theorem Part.Canon.measureChannel {a nch n tsmp : Nat} {freq : Word} {valid : Bool} {c : Nat} :
    (p.measureChannel a nch n tsmp freq valid c).Canon :=
  .storeWord (.each (.ite (.storeWord (.ite (.storeWord (.ite (.storeWord (.ite h.storeWord h.storeWord.taken)) (.taken
    (.storeWord (.ite h.storeWord h.storeWord.taken))))) (.taken (.storeWord (.ite (.storeWord (.ite h.storeWord
    h.storeWord.taken)) (.taken (.storeWord (.ite h.storeWord h.storeWord.taken)))))))) (.taken (.storeWord (.ite
    (.storeWord (.ite (.storeWord (.ite h.storeWord h.storeWord.taken)) (.taken (.storeWord (.ite h.storeWord
    h.storeWord.taken))))) (.taken (.storeWord (.ite (.storeWord (.ite h.storeWord h.storeWord.taken)) (.taken (.storeWord
    (.ite h.storeWord h.storeWord.taken)))))))))) (fun _ _ hq => .ite hq.storeWord hq.storeWord.taken))

theorem Part.Canon.measured {id : Word} {t : Instant} : (p.measured id t).Canon := by
  dsimp only [Part.measured]
  split
  · exact h.atRing
  · exact .ite h.atRing ((h.atRing.when (fun _ hq => hq.taken)).each (fun _ _ hq =>
        hq.measureChannel)).putHeader.frame.produce

theorem Part.Canon.copyRecord {id : Word} : (p.copyRecord id).Canon := by
  dsimp only [Part.copyRecord]
  split; exacts [h, .ite h (by split; exacts [h.raise, h.emStore.putHeader.putHeader.emStore.taken.frame.emShow.capShow])]

theorem Part.Canon.capProtect : p.capProtect.Canon := by
  dsimp only [Part.capProtect]
  split; exacts [h, .ite h h.putHeader.frame]

theorem Part.Canon.deleteRecord {id : Word} : (p.deleteRecord id).Canon := by
  dsimp only [Part.deleteRecord]
  split; exacts [h, .ite h.frame h.frame.emShow.capShow]

theorem Part.Canon.releaseRecords {slot : Nat} : (p.releaseRecords slot).Canon :=
  h.each (fun _ _ hq => hq.frame.when (fun _ hr => hr.deleteRecord))

theorem Part.Canon.capMoved {old : Nat → Word} : (p.capMoved old).Canon :=
  ((h.each (fun _ _ hq => .capShow (.ite hq.setCapUnit.takeBuf (.ite hq.setCapUnit hq)))).each (fun _ _ hq => .ite
    hq.setTrig hq)).setReg

/-! The meanings of Machine/Pwm. -/

theorem Part.Canon.setTb {g : Grp} {x : Timebase} : (p.setTb g x).Canon := h.frame

theorem Part.Canon.tbStart {g : Grp} {t : Instant} : (p.tbStart g t).Canon := by
  unfold Part.tbStart
  extract_lets p1
  have h1 : p1.Canon := h.at.setBit.setBit
  exact .ite h1.setTb h1.setTb.setBit.setBit

theorem Part.Canon.tbStopReq {g : Grp} {t : Instant} : (p.tbStopReq g t).Canon :=
  .ite h.at.setBit (.ite h.at.setBit h.at.setTb.setBit.setBit)

theorem Part.Canon.votedDuty {g : Grp} {q : Nat} {sel : Bool} {x : Word} : (p.votedDuty g q sel x).Canon :=
  .ite h.countSat (.ite h.setReg h.setReg)

theorem Part.Canon.restoreHold {g : Grp} : (p.restoreHold g).Canon := h.each (fun _ _ hq => hq.setReg.setReg)

theorem Part.Canon.dropHeld {ini : Initiator} {off : Nat} : (p.dropHeld ini off).Canon := h.frame

theorem Part.Canon.putHeld {ini : Initiator} {off : Nat} {v : Word} : (p.putHeld ini off v).Canon := h.frame

theorem Part.Canon.cmpaWrite {ini : Initiator} {q : Nat} {v : Word} : (p.cmpaWrite ini q v).Canon := .ite h.setBit h.putHeld

theorem Part.Canon.placeShadow {q : Nat} {a b : Word} : (p.placeShadow q a b).Canon := h.setReg.setReg

theorem Part.Canon.cmpbWrite {ini : Initiator} {q : Nat} {v : Word} {t : Instant} : (p.cmpbWrite ini q v t).Canon :=
  .ite h.at.setBit (.ite h.at.dropHeld.setReg.setTb h.at.dropHeld.setReg.placeShadow)

theorem Part.Canon.transfer {g : Grp} : (p.transfer g).Canon :=
  ((h.each (fun _ _ hq => hq.setReg.setReg.frame.when (fun _ hr => hr.setBit))).each (fun _ _ hq =>
    hq.placeShadow)).setTb.setReg

theorem Part.Canon.setSig {k : Nat} {x : Sig} : (p.setSig k x).Canon := h.frame

theorem Part.Canon.clearPair {q : Nat} : (p.clearPair q).Canon := h.setReg.setReg.setSig.setSig

theorem Part.Canon.schedSig {g : Grp} {q : Nat} {sel : Bool} {k : ℤ} {apex : Bool} {u : Instant} {comp : Bool} :
    (p.schedSig g q sel k apex u comp).Canon :=
  h.setSig.setReg.setReg

/-! The meanings of Machine/Leg. -/

theorem Part.Canon.setLeg {l : Nat} {x : Leg} : (p.setLeg l x).Canon := h.frame

theorem Part.Canon.noteShown {c : Nat} {edge : Bool} : (p.noteShown c edge).Canon := h.frame

theorem Part.Canon.setGt {c : Nat} {lvl : Bool} {t : Instant} : (p.setGt c lvl t).Canon := h.setBit.frame.noteShown

theorem Part.Canon.command {l c : Nat} {lvl : Bool} {t : Instant} : (p.command l c lvl t).Canon :=
  (h.setGt.each (fun _ _ hq => hq.setGt)).setLeg

theorem Part.Canon.noteLeg {l : Nat} {v : LegView} {before : Nat} {t : Instant} : (p.noteLeg l v before t).Canon :=
  h.setLeg.setFld

theorem Part.Canon.issueLeg {l : Nat} {v : LegView} {want : List Bool} {t : Instant} {k : Nat} :
    (p.issueLeg l v want t k).Canon := by
  induction k generalizing p with
  | zero => exact h
  | succ k ih =>
    dsimp only [Part.issueLeg]
    split
    · exact h.setLeg
    · exact ih h.setLeg.command.noteLeg

theorem Part.Canon.countHeld {l : Nat} {v : LegView} {want : List Bool} {t : Instant} : (p.countHeld l v want t).Canon :=
  .ite h h.setLeg.setFld

theorem Part.Canon.evalLeg {t : Instant} {l : Nat} : (p.evalLeg t l).Canon :=
  .ite h (h.when (fun _ hq => hq.clearPair)).setLeg.countHeld.issueLeg

theorem Part.Canon.evalLegs {t : Instant} : (p.evalLegs t).Canon := h.each (fun _ _ hq => hq.evalLeg)

theorem Part.Canon.latchLeg {t : Instant} {l : Nat} : (p.latchLeg t l).Canon := h.setBit.setBit.hostFault.setLeg.evalLeg

theorem Part.Canon.unlatchLeg {t : Instant} {l : Nat} : (p.unlatchLeg t l).Canon := h.setBit.setBit.evalLeg

theorem Part.Canon.scheduleLeg {g : Grp} {k : ℤ} {apex : Bool} {u : Instant} {l : Nat} :
    (p.scheduleLeg g k apex u l).Canon :=
  .ite h.clearPair (.ite h.schedSig.schedSig h.schedSig)

theorem Part.Canon.scheduleGroup {g : Grp} {k : ℤ} {apex : Bool} {u : Instant} : (p.scheduleGroup g k apex u).Canon :=
  (h.each (fun _ _ hq => hq.scheduleLeg)).each (fun _ _ hq => hq.setSig.setSig.evalLeg)

theorem Part.Canon.pwmEdge {l : Nat} {t : Instant} : (p.pwmEdge l t).Canon := h.at.setSig.setSig.evalLeg

theorem Part.Canon.tbStopped {g : Grp} {t : Instant} : (p.tbStopped g t).Canon :=
  (h.setTb.setFld.each (fun _ _ hq => hq.clearPair)).each (fun _ _ hq => hq.evalLeg)

/-! The meanings of Machine/OpSlot. -/

theorem Part.Canon.setOp {k : Nat} {x : OpSlot} : (p.setOp k x).Canon := h.frame

theorem Part.Canon.setOpState {k n : Nat} : (p.setOpState k n).Canon := h.setFld

theorem Part.Canon.opDone {k : Nat} : (p.opDone k).Canon := h.setOpState.setFld

theorem Part.Canon.opFail {k gerr err : Nat} : (p.opFail k gerr err).Canon := h.setOpState.setFld.setFld

theorem Part.Canon.opResult {k : Nat} {bs : List Byte} : (p.opResult k bs).Canon := by
  unfold Part.opResult
  extract_lets _ _ _ p1
  have h1 : p1.Canon := h.storeBytes.setFld
  exact .ite h1.opFail h1

theorem Part.Canon.opDone? {a : Option Nat} : (p.opDone? a).Canon := by
  dsimp only [Part.opDone?]
  split; exacts [h.opDone, h]

theorem Part.Canon.opErr? {err : Nat} {a : Option Nat} : (p.opErr? err a).Canon := by
  dsimp only [Part.opErr?]
  split; exacts [h.opFail, h]

theorem Part.Canon.noteSwap {cls unit rsv cause : Nat} : (p.noteSwap cls unit rsv cause).Canon :=
  h.setReg.frame.raise.hostReserve.logEvent

theorem Part.Canon.noteRetire {cls unit cause : Nat} : (p.noteRetire cls unit cause).Canon := h.frame.raise

theorem Part.Canon.retireUnit {cls unit cause : Nat} : (p.retireUnit cls unit cause).Canon := .ite h h.frame.noteRetire

theorem Part.Canon.swapDone {cls unit : Nat} {a : Option Nat} : (p.swapDone cls unit a).Canon := by
  dsimp only [Part.swapDone]
  split; exacts [(h.when (fun _ hq => hq.retireUnit)).opDone, h]

/-! The meanings of Machine/Prot. -/

theorem Part.Canon.stand {src cls : Nat} {t : Instant} : (p.stand src cls t).Canon := h.frame

theorem Part.Canon.unstand {src cls : Nat} : (p.unstand src cls).Canon := h.frame

theorem Part.Canon.askDrivers {l : Nat} : (p.askDrivers l).Canon := h.each (fun _ _ hq => hq.frame)

theorem Part.Canon.report {cause : Nat} : (p.report cause).Canon := h.frame

theorem Part.Canon.protFirst {l cls src : Nat} {stamp : Instant} : (p.protFirst l cls src stamp).Canon :=
  .ite h.frame.setReg h

theorem Part.Canon.keepLatch {l : Nat} : (p.keepLatch l).Canon := h.setLeg

theorem Part.Canon.tripLeg {l src cls : Nat} {held : Bool} {t : Instant} : (p.tripLeg l src cls held t).Canon := by
  unfold Part.tripLeg
  extract_lets _ _ p1
  have h1 : p1.Canon := h.keepLatch.when (fun _ hq => hq.latchLeg.askDrivers.report)
  exact .ite h1 (h1.setBit.setStamp.setReg.protFirst.when (fun _ hq => hq.capEvent))

theorem Part.Canon.tripLegs {mask src cls : Nat} {t : Instant} : (p.tripLegs mask src cls t).Canon :=
  h.each (fun _ _ hq => hq.tripLeg)

theorem Part.Canon.tripBlanked {mask src : Nat} {t : Instant} : (p.tripBlanked mask src t).Canon :=
  h.each (fun _ _ hq => .ite hq.frame hq.tripLeg)

theorem Part.Canon.pcTrip {k : Nat} {t : Instant} : (p.pcTrip k t).Canon := .ite h.at h.at.setBit.setStamp.stand.tripBlanked

theorem Part.Canon.pcHard {k : Nat} {t : Instant} : (p.pcHard k t).Canon := .ite h.at h.at.setBit.setStamp.stand.tripLegs

theorem Part.Canon.pcRelease {k : Nat} {hard : Bool} : (p.pcRelease k hard).Canon := .ite h h.setBit.unstand

theorem Part.Canon.blankingEnd {l : Nat} {t : Instant} : (p.blankingEnd l t).Canon :=
  .ite h.at (h.at.frame.each (fun _ _ hq => .ite hq.tripLeg (.ite hq.setReg hq)))

theorem Part.Canon.protRearm : p.protRearm.Canon := h.setReg.setReg.each (fun _ _ hq => hq.setReg)

theorem Part.Canon.protMap {r : Nat} {v : Word} {t : Instant} : (p.protMap r v t).Canon :=
  .ite h.at.setReg.setReg.setReg.setReg.setReg.setReg.setReg.setReg.setReg.frame (.ite
    h.at.setReg.frame.setBit.setBit.unstand.unstand h.at.setReg)

theorem Part.Canon.protArmEnd {r : Nat} {t : Instant} : (p.protArmEnd r t).Canon :=
  .ite h.at.frame.setBit.setBit.unstand.unstand.noteSwap.swapDone h.at

theorem Part.Canon.protMoved {old : Nat → Word} : (p.protMoved old).Canon :=
  h.each (fun _ _ hq => .ite (.unstand (.setBit (.ite hq.setBit.unstand hq))) (.ite hq.setBit.unstand hq))

/-! The meanings of Machine/Sense. -/

theorem Part.Canon.setSd {n : Nat} {x : SenseCh} : (p.setSd n x).Canon := h.frame

theorem Part.Canon.setSdRsv {r : Nat} {x : SenseRsv} : (p.setSdRsv r x).Canon := h.frame

theorem Part.Canon.window {m w : Nat} {y : Word} {t : Instant} : (p.window m w y t).Canon := by
  unfold Part.window
  extract_lets _ _ _ _ _ _ _ p1
  have h1 : p1.Canon := h.setSd.setBit.raiseIf.when (fun _ hq => hq.logEvent)
  exact .ite h1 (.ite h1.unstand.unstand (.ite h1 (.ite h1.stand.tripLegs h1.stand.tripBlanked)))

theorem Part.Canon.fastOutput {n : Nat} {bs : List Bool} {t : Instant} : (p.fastOutput n bs t).Canon :=
  .ite h.at (by
    dsimp only
    split
    · exact h.at.setSd.setReg.when (fun _ hq => hq.setBit)
    · exact (h.at.setSd.setReg.when (fun _ hq => hq.setBit)).window.window.capLevel)

theorem Part.Canon.fineOutput {n : Nat} {bs : List Bool} {t : Instant} : (p.fineOutput n bs t).Canon :=
  .ite h.at (by dsimp only; split; exacts [h.at.setSd, h.at.setSd.window.window.capLevel])

theorem Part.Canon.showSubst {n : Nat} : (p.showSubst n).Canon := h.setBit

theorem Part.Canon.unsettle {n : Nat} : (p.unsettle n).Canon := h.setBit.showSubst.setSd

theorem Part.Canon.settled {n : Nat} {fast : Bool} : (p.settled n fast).Canon := .ite h (.ite h.setSd h.setBit.showSubst)

theorem Part.Canon.clkLoss {n : Nat} {t : Instant} : (p.clkLoss n t).Canon :=
  .ite h.at (.ite h.at.setSd (by
    dsimp only; split; exacts [h.at.setBit.raise.setSd, .ite h.at.setBit.raise.setSd h.at.setBit.raise.setSd.stand.tripLegs]
    ))

theorem Part.Canon.mviolation {n : Nat} {t : Instant} : (p.mviolation n t).Canon :=
  .ite h.at (h.at.setReg.raise.setSd.when (fun _ hq => hq.clkLoss))

theorem Part.Canon.sdSwap {r cause : Nat} : (p.sdSwap r cause).Canon :=
  h.setFld.setFld.setBit.setSdRsv.unstand.noteSwap.swapDone

theorem Part.Canon.rsvTick {r : Nat} : (p.rsvTick r).Canon := by
  unfold Part.rsvTick
  extract_lets _ _ _ _ _ p1
  have h1 : p1.Canon := h.setFld.raiseIf
  exact .ite h1.setSdRsv.sdSwap (.ite h1.setSdRsv.sdSwap h1.setSdRsv)

theorem Part.Canon.sdSwapTimeout {r : Nat} : (p.sdSwapTimeout r).Canon := by
  dsimp only [Part.sdSwapTimeout]
  split; exacts [.ite h h.setSdRsv.setFld.opErr?, h]

theorem Part.Canon.sdTick {q : Part} {n count : Nat} {first : Bool} : (p.sdTick q n count first).Canon := by
  unfold Part.sdTick
  extract_lets ch st p1 _ _ p2
  have h1 : p1.Canon := by unfold p1; split; exacts [h.setReg.setReg, h]
  have h2 : p2.Canon := h1.settled.settled
  exact .setSd (.setReg (.setReg (.ite h2.setBit.unsettle (.ite (h2.setBit.raiseIf.when (fun _ hq =>
    hq.unsettle)).setBit.unstand.unsettle (h2.setBit.raiseIf.when (fun _ hq => hq.unsettle))))))

theorem Part.Canon.senseTick {q : Part} {g : Grp} {edges : List (Nat × Nat)} {first : Bool} :
    (p.senseTick q g edges first).Canon :=
  (h.each (fun _ _ hq => hq.sdTick)).each (fun _ _ hq => hq.rsvTick)

theorem Part.Canon.showDelay {n : Nat} : (p.showDelay n).Canon := h.setReg

theorem Part.Canon.senseMoved {old : Nat → Word} : (p.senseMoved old).Canon :=
  (h.each (fun _ _ hq => .ite (hq.each (fun _ _ hr => .ite hr.unstand hr.unstand.unstand)) (.each (.ite (hq.each
    (fun _ _ hr => .ite hr.unstand hr.unstand.unstand)).setBit.showDelay.unsettle (hq.each (fun _ _ hr => .ite hr.unstand
    hr.unstand.unstand)).setBit.showDelay.showSubst) (fun _ _ hr => .ite hr.showDelay.unsettle
    hr.showDelay.showSubst)))).each (fun _ _ hq => .ite hq (hq.when (fun _ hr =>
    hr.setBit)).setReg.setSdRsv.unsettle.showDelay)

theorem Part.Canon.setAux {x : AuxState} : (p.setAux x).Canon := by
  dsimp only [Part.setAux]
  split; exacts [h.frame.setBit.setFld, h.frame.setBit]

theorem Part.Canon.auxTick {g : Grp} : (p.auxTick g).Canon := h.setAux

theorem Part.Canon.auxDone {code : BitVec 16} {t : Instant} : (p.auxDone code t).Canon := by
  dsimp only [Part.auxDone]
  split; exacts [h.at, .ite h.at h.at.setReg.countWrap.setAux.capLevel]

/-! The meanings of Machine/Gate. -/

theorem Part.Canon.setGateSwap {r : Nat} {x : GateSwap} : (p.setGateSwap r x).Canon := h.frame

theorem Part.Canon.gateFirst {c kind : Nat} {t : Instant} : (p.gateFirst c kind t).Canon := .ite h.frame.setReg h

theorem Part.Canon.gateFault {c kind : Nat} {t : Instant} : (p.gateFault c kind t).Canon :=
  .ite h.countSat (by
    dsimp only
    split
    · exact h.countSat.setBit.setFld.setStamp
    · exact (h.countSat.setBit.setFld.setStamp.gateFirst.keepLatch.when (fun _ hq =>
          hq.latchLeg.report)).askDrivers.hostFault.when (fun _ hq => hq.capEvent))

theorem Part.Canon.evalChan {c : Nat} {t : Instant} : (p.evalChan c t).Canon := by
  dsimp only [Part.evalChan]
  split; exacts [h.evalLeg, h]

theorem Part.Canon.compareReturns {c : Nat} {t : Instant} : (p.compareReturns c t).Canon :=
  h.each (fun _ _ hq => .ite hq (.ite hq.setGateSwap hq.setGateSwap))

theorem Part.Canon.gsReturn {c : Nat} {level : Bool} {t : Instant} : (p.gsReturn c level t).Canon :=
  .ite h.at ((h.at.setBit.noteShown.compareReturns.when (fun _ hq => hq.gateFault)).when (fun _ hq => hq.gateFault)).evalChan

theorem Part.Canon.gateTimeout {c : Nat} {t : Instant} : (p.gateTimeout c t).Canon := .ite h.at h.at.gateFault

theorem Part.Canon.padFault {c : Nat} {bad : Bool} {t : Instant} : (p.padFault c bad t).Canon :=
  .ite h.at.frame.gateFault.frame h.at.frame

theorem Part.Canon.tripClear {t : Instant} {l : Nat} : (p.tripClear t l).Canon :=
  .ite h (.ite h.setBit (.ite h.setBit.setLeg h.setBit.unlatchLeg))

theorem Part.Canon.gateTripClr {v : Word} {t : Instant} : (p.gateTripClr v t).Canon := h.at.each (fun _ _ hq => hq.tripClear)

theorem Part.Canon.latchClear {l : Nat} {t : Instant} : (p.latchClear l t).Canon := by
  dsimp only [Part.latchClear]
  split; exacts [.ite h.at.setLeg.unlatchLeg h.at, h.at]

theorem Part.Canon.gateRearm {v : Word} : (p.gateRearm v).Canon := h.when (fun _ hq => hq.setReg)

theorem Part.Canon.gateSwapStart {r cause : Nat} {slot : Option Nat} {t : Instant} :
    (p.gateSwapStart r cause slot t).Canon :=
  h.setGateSwap.setGt

theorem Part.Canon.gateSwapPeriod {g : Grp} : (p.gateSwapPeriod g).Canon := h.each (fun _ _ hq => .ite hq hq.setGateSwap)

theorem Part.Canon.dlRefresh {rangeOk : Bool} {t : Instant} : (p.dlRefresh rangeOk t).Canon :=
  .ite h.at.setBit h.at.frame.setBit.countWrap

theorem Part.Canon.gateSelect {r : Nat} {t : Instant} : (p.gateSelect r t).Canon := .ite h.at.setGateSwap h.at

theorem Part.Canon.gateTargetOff {r : Nat} {t : Instant} : (p.gateTargetOff r t).Canon :=
  .ite h.at.setGateSwap.setBit.noteSwap.swapDone h.at

theorem Part.Canon.gateRsvOff {r : Nat} : (p.gateRsvOff r).Canon := h.setGateSwap.when (fun _ hq => hq.setGt)

theorem Part.Canon.gateSwapTimeout {r : Nat} : (p.gateSwapTimeout r).Canon := .ite h.gateRsvOff.opErr? h

theorem Part.Canon.showOwn : p.showOwn.Canon := h.setReg

theorem Part.Canon.setGbus {n : Nat} {x : Gbus} : (p.setGbus n x).Canon := h.frame

theorem Part.Canon.gbusAsk {n : Nat} {x : Gbus} {k : GbusReq} {addr reg : Nat} : (p.gbusAsk n x k addr reg).Canon :=
  h.setGbus

theorem Part.Canon.gbusPoll {n : Nat} : (p.gbusPoll n).Canon := by
  unfold Part.gbusPoll
  refine .ite h ?_
  split
  · exact h.gbusAsk
  · dsimp only
    split
    · exact h
    · exact h.gbusAsk

theorem Part.Canon.gbusResponse {n : Nat} {data : List Byte} : (p.gbusResponse n data).Canon := by
  dsimp only [Part.gbusResponse]
  split; exacts [h, .ite h.setGbus.countSat (.ite h (by split; exacts [h.setGbus.setReg, h.setGbus.setReg]))]

theorem Part.Canon.gateMoved {old : Nat → Word} : (p.gateMoved old).Canon :=
  (h.each (fun _ _ hq => .ite hq (hq.when (fun _ hr => hr.setBit)).gateRsvOff)).showOwn.evalLegs

theorem Part.Canon.pwmMoved {g : Grp} : (p.pwmMoved g).Canon := by
  unfold Part.pwmMoved
  extract_lets _ p1 p2
  have h1 : p1.Canon := h.each (fun _ _ hq => hq.setReg.setReg)
  have h2 : p2.Canon := h1.each (fun _ _ hq => hq.setGt)
  exact .ite h2 h2.evalLegs

/-! The meanings of Machine/Pos. -/

theorem Part.Canon.setPif {n : Nat} {x : PosIf} : (p.setPif n x).Canon := h.frame

theorem Part.Canon.uncert {n : Nat} {b : Bool} : (p.uncert n b).Canon := h.setBit

theorem Part.Canon.posFault {n : Nat} : (p.posFault n).Canon := h.raise

theorem Part.Canon.fireEntry {n k : Nat} {t ts : Instant} : (p.fireEntry n k t ts).Canon :=
  h.setPif.raise.countSat.setFld.setBit.capEvent

theorem Part.Canon.compareMove {n c : Nat} {d : ℤ} {t ts : Instant} : (p.compareMove n c d t ts).Canon :=
  .ite h (.ite (.ite (h.each (fun _ _ hq => hq.fireEntry)).setBit (h.each (fun _ _ hq => hq.fireEntry))) (h.each
    (fun _ _ hq => hq.fireEntry)).setPif)

theorem Part.Canon.moveCount {n : Nat} {d : ℤ} {t ts : Instant} : (p.moveCount n d t ts).Canon :=
  .ite h h.setReg.setReg.setBit.compareMove

theorem Part.Canon.posArm {n : Nat} {v : Word} : (p.posArm n v).Canon := .ite h.setBit (.ite h.raise h.setPif.setBit)

theorem Part.Canon.posListWrite {n k : Nat} {v : Word} : (p.posListWrite n k v).Canon := .ite h.raise h.setReg

theorem Part.Canon.quadEdge {n : Nat} {a b z : Bool} {t : Instant} : (p.quadEdge n a b z t).Canon :=
  .ite h.at.setPif (.ite h.at.setPif.setReg.raise.uncert (.ite h.at.setPif.moveCount h.at.setPif.setPif))

theorem Part.Canon.indexAccepted {n : Nat} : (p.indexAccepted n).Canon := h.uncert.setBit

theorem Part.Canon.realign {n : Nat} {d : ℤ} : (p.realign n d).Canon := h.setReg.setPif

theorem Part.Canon.indexEvent {n : Nat} {t : Instant} : (p.indexEvent n t).Canon :=
  .ite h.at (.ite h.at.setFld.indexAccepted (.ite (h.at.logEvent.setReg.raise.countSat.setFld.when (fun _ hq =>
    hq.posFault)).realign.indexAccepted (h.at.logEvent.setReg.raise.countSat.setFld.when (fun _ hq => hq.posFault))))

theorem Part.Canon.ampCheck {n : Nat} {amp : Word} : (p.ampCheck n amp).Canon := by
  unfold Part.ampCheck
  extract_lets _ _ _ _ _ p1
  have h1 : p1.Canon := h.setPif.setReg
  exact .ite h1.setBit.raise.uncert (.ite h1.setBit h1)

theorem Part.Canon.sincos {n : Nat} {sn cs : BitVec 14} {t : Instant} : (p.sincos n sn cs t).Canon :=
  .ite h.at (.ite (h.at.when (fun _ hq => hq.raise.uncert)).setPif.moveCount.ampCheck.setBit.uncert (h.at.when (fun _ hq =>
    hq.raise.uncert)).setPif.moveCount.ampCheck.setBit)

theorem Part.Canon.serialReject {n : Nat} {cl : Option SerClass} : (p.serialReject n cl).Canon :=
  h.setPif.setBit.raise.uncert.when (fun _ hq => hq.posFault)

theorem Part.Canon.serialDone {n : Nat} {raw : Word} {datHigh : Bool} {t : Instant} : (p.serialDone n raw datHigh t).Canon :=
  by
  dsimp only [Part.serialDone]
  split
  · exact h.at
  · exact .ite h.at.setReg.serialReject (.ite h.at.setReg.serialReject h.at.setReg.setPif.moveCount.setBit.uncert.setBit)

theorem Part.Canon.latchStatus {n : Nat} : (p.latchStatus n).Canon := h.setPif

theorem Part.Canon.posUpdate {n : Nat} : (p.posUpdate n).Canon :=
  .ite h ((h.when (fun _ hq => hq.serialReject)).when (fun _ hq => hq.setBit)).setPif.setReg.setReg.setReg

theorem Part.Canon.posTick {n : Nat} : (p.posTick n).Canon := h.posUpdate.latchStatus.setBit

theorem Part.Canon.posTicks {g : Grp} : (p.posTicks g).Canon := h.each (fun _ _ hq => hq.posTick)

theorem Part.Canon.posMoved {old : Nat → Word} : (p.posMoved old).Canon :=
  h.each (fun _ _ hq => .ite hq.setPif ((hq.setPif.setPif.when (fun _ hr => hr.setFld)).when (fun _ hr => hr.setBit)).setReg)

/-! The meanings of Machine/HelV. -/

theorem Part.Canon.ranLane {n : Nat} {l : Lane} : (p.ranLane n l).Canon := by
  dsimp only [Part.ranLane]
  split; exacts [.ite h.setLane.setLane h.setLane, h.setLane]

theorem Part.Canon.issue {o : VOp} {isX : Bool} {f : VCtx → Lane → VResult} : (p.issue o isX f).Canon :=
  .ite (.ite h.ranLane h.ranLane) h

theorem Part.Canon.issueVote {o : VOp} {addr : Nat} : (p.issueVote o addr).Canon := .ite h.ranLane h

theorem Part.Canon.sampleEnd {o : VOp} : (p.sampleEnd o).Canon := .ite h.ranLane.setReg h

/-! The meanings of Machine/Cle. -/

theorem Part.Canon.setGmode {g : Grp} {m : Nat} : (p.setGmode g m).Canon := h.setFld

theorem Part.Canon.setLaneState {n st : Nat} : (p.setLaneState n st).Canon := h.setFld

theorem Part.Canon.showGroup {g : Grp} : (p.showGroup g).Canon := h.setFld.setFld.setBit.setBit.setBit

theorem Part.Canon.showMode {g : Grp} : (p.showMode g).Canon := h.setGmode

theorem Part.Canon.retireLane {n cause : Nat} : (p.retireLane n cause).Canon := h.raiseIf.setLaneState.noteRetire

theorem Part.Canon.abandonLoad {g : Grp} : (p.abandonLoad g).Canon := by
  dsimp only [Part.abandonLoad]
  split; exacts [h, (h.when (fun _ hq => hq.setLaneState)).setCg.opErr?.showGroup]

theorem Part.Canon.startLoad {g : Grp} {x : Loading} : (p.startLoad g x).Canon := h.setLaneState.setBit.setCg.showGroup

theorem Part.Canon.chooseSpare {g : Grp} : (p.chooseSpare g).Canon := by
  unfold Part.chooseSpare
  extract_lets c p1
  have h1 : p1.Canon := h.setCg
  refine .ite h ?_
  split
  · exact .ite h1.startLoad h1
  · exact h1

theorem Part.Canon.copyComplete {g : Grp} : (p.copyComplete g).Canon := by
  dsimp only [Part.copyComplete]
  split; exacts [h.setLane.setCg, h]

theorem Part.Canon.copyRegisters {g : Grp} : (p.copyRegisters g).Canon := by
  dsimp only [Part.copyRegisters]
  split; exacts [.ite h.setLane.setCg h, h]

theorem Part.Canon.joinLane {g : Grp} : (p.joinLane g).Canon := by
  dsimp only [Part.joinLane]
  split
  · exact h
  · exact .showGroup (.opDone? (.when (.raise (.showMode (.setCg (by
        split
        · exact h.setLaneState.when (fun _ hq => hq.retireLane)
        · exact h.setLaneState.when (fun _ hq => hq.setLaneState)
        · exact h.setLaneState)))) (fun _ hq => hq.noteSwap)))

theorem Part.Canon.outvote {g : Grp} {n : Nat} : (p.outvote g n).Canon :=
  h.setLaneState.raise.countSat.setLane.setCg.showGroup

theorem Part.Canon.laneFault {n code : Nat} : (p.laneFault n code).Canon :=
  .ite h (.ite (.ite h.setFld.setCg.setLaneState.setLane.showGroup (h.setFld.setCg.retireLane.when (fun _ hq =>
    hq.showMode)).showGroup) (.ite h.setFld.abandonLoad.retireLane.showGroup h.setFld.retireLane))

theorem Part.Canon.laneLate {n : Nat} {t : Instant} : (p.laneLate n t).Canon := .ite h.laneFault.raise h

theorem Part.Canon.bistEnd {n : Nat} {pass : Bool} : (p.bistEnd n pass).Canon :=
  .ite h (.ite h.setLaneState (.ite h.setFld.raise.retireLane.frame.raise.setFld h.setFld.raise.retireLane))

theorem Part.Canon.settleMasked {n : Nat} : (p.settleMasked n).Canon :=
  .ite h.retireLane (by split; exacts [.ite h.retireLane h.setLane.setTime.setLaneState, h.setLane.setTime.setLaneState])

theorem Part.Canon.applyWord {g : Grp} {w : VoteWord} : (p.applyWord g w).Canon := by
  dsimp only [Part.applyWord]
  split; exacts [h, .ite (h.when (fun _ hq => .ite hq.raise hq.raise)).setCg (.ite h h.raiseIf.votedDuty)]

theorem Part.Canon.maskDiffering {g : Grp} : (p.maskDiffering g).Canon := h.each (fun _ _ hq => .ite hq.outvote hq)

theorem Part.Canon.voteWord {g : Grp} {final : Bool} : (p.voteWord g final).Canon :=
  .ite h (by
    dsimp only; split; exacts [h.maskDiffering.setCg.applyWord.maskDiffering, .ite h.maskDiffering.setCg h.maskDiffering])

theorem Part.Canon.voteRest {g : Grp} : (p.voteRest g).Canon := h.each (fun _ _ hq => hq.voteWord)

theorem Part.Canon.fillPorts {g : Grp} : (p.fillPorts g).Canon := h.setCg

theorem Part.Canon.showFade {g : Grp} : (p.showFade g).Canon := h.setFld.showGroup

theorem Part.Canon.changeRegion {g : Grp} {r bank fade : Nat} {deferred : Bool} :
    (p.changeRegion g r bank fade deferred).Canon :=
  h.setFld.setFld.setFld.raise.raiseIf.setCg.logEvent

theorem Part.Canon.regionTick {g : Grp} : (p.regionTick g).Canon :=
  .showFade (.ite h.setCg (by split; exacts [h.setCg.raise, .ite h.setCg h.setCg.changeRegion]))

theorem Part.Canon.scanTick {g : Grp} {r : ScanRun} : (p.scanTick g r).Canon :=
  .ite h.setCg.setCg (.ite h.setCg h.setCg.setCg.raiseIf)

theorem Part.Canon.genTick {g : Grp} : (p.genTick g).Canon := by
  dsimp only [Part.genTick]
  split; exacts [h.scanTick, .ite h.setCg.raiseIf h.setCg]

theorem Part.Canon.captureSample {g : Grp} : (p.captureSample g).Canon := .ite h (.ite h.setCg (.ite h h.setCg.setFld))

theorem Part.Canon.correlateSample {g : Grp} : (p.correlateSample g).Canon := .ite h h.setCg

theorem Part.Canon.cstart {g : Grp} : (p.cstart g).Canon := h.setBit.setCg

theorem Part.Canon.correlationDone {g : Grp} : (p.correlationDone g).Canon := .ite h h.setCg.setBit.raise

theorem Part.Canon.capStart {g : Grp} : (p.capStart g).Canon := h.setBit.setFld.setCg

theorem Part.Canon.capStop {g : Grp} : (p.capStop g).Canon := h.setBit

theorem Part.Canon.genEnable {g : Grp} {on : Bool} : (p.genEnable g on).Canon := h.setBit.when (fun _ hq => hq.setCg)

theorem Part.Canon.capDataRead {g : Grp} : (p.capDataRead g).Canon := h.answer.setFld

theorem Part.Canon.runStart {g : Grp} : (p.runStart g).Canon := .ite h.setBit.setCg (.ite h.setBit.setCg h.setBit.setFld)

theorem Part.Canon.runStop {g : Grp} : (p.runStop g).Canon := h.setBit.setCg

theorem Part.Canon.releaseLanes {g : Grp} : (p.releaseLanes g).Canon := h.each (fun _ _ hq => hq.setLaneState)

theorem Part.Canon.stopGroup {g : Grp} {m : Nat} {hold : Bool} {t : Instant} : (p.stopGroup g m hold t).Canon :=
  (h.abandonLoad.releaseLanes.setCg.setGmode.setBit.showGroup.each (fun _ _ hq => hq.evalLeg)).cleStopMove

theorem Part.Canon.haltGroup {g : Grp} {hold : Bool} {t : Instant} : (p.haltGroup g hold t).Canon :=
  h.stopGroup.raise.hostFault

theorem Part.Canon.startGroup {g : Grp} : (p.startGroup g).Canon :=
  .ite h.setCg.setFld (.ite h.setCg ((h.setCg.each (fun _ _ hq => hq.setLane.setLaneState.setBit)).each (fun _ _ hq =>
    hq.setReg)).setCg.setPair.setFld.setReg.showMode.showFade)

theorem Part.Canon.beginSample {g : Grp} {t : Instant} : (p.beginSample g t).Canon :=
  (h.each (fun _ _ hq => hq.setLane)).setCg.setPair.showGroup

theorem Part.Canon.gapWrites {g : Grp} {x : Exchange} : (p.gapWrites g x).Canon := h.each (fun _ _ hq => hq.setLane)

theorem Part.Canon.gapDecide {g : Grp} : (p.gapDecide g).Canon := by
  dsimp only [Part.gapDecide]
  split; exacts [h, .ite h (.ite h.setCg.setFld h.gapWrites.setCg)]

theorem Part.Canon.gapArm {g : Grp} : (p.gapArm g).Canon := h.when (fun _ hq => hq.gapDecide)

theorem Part.Canon.setCommitted {off : Nat} {w : Word} : (p.setCommitted off w).Canon := by
  dsimp only [Part.setCommitted]
  split; exacts [h.setReg, h]

theorem Part.Canon.moveWords {g : Grp} {x : Exchange} : (p.moveWords g x).Canon :=
  .ite h (h.each (fun _ _ hq => .ite hq hq.setCommitted))

theorem Part.Canon.switchFigure {g : Grp} {x : Exchange} : (p.switchFigure g x).Canon :=
  .showGroup (.opDone? (.setFld (.ite h.setCg h.setCg.setReg.setReg)))

/-! The meanings of Machine/GridFig. -/

theorem Part.Canon.setGrid {g : Grp} {x : GridState} : (p.setGrid g x).Canon := h.setCg

theorem Part.Canon.gridMeasure {g : Grp} : (p.gridMeasure g).Canon := .ite h h.setGrid

theorem Part.Canon.gridCommand {g : Grp} {req : Nat} : (p.gridCommand g req).Canon :=
  .ite h (.ite h.setGrid (.ite (.ite h.setGrid (.ite h.setGrid (.ite h.setGrid (.ite h.setGrid h.setGrid)))) (.ite h.setGrid
    (by
    split; exacts [h.setGrid, h.setGrid]))))

theorem Part.Canon.gridMove {g : Grp} {to_ : Nat} : (p.gridMove g to_).Canon := h.setGrid

theorem Part.Canon.gridWrites {g : Grp} {x : GridState} : (p.gridWrites g x).Canon :=
  h.each (fun _ _ hq => .ite (.ite hq.votedDuty.votedDuty hq.votedDuty) hq.votedDuty.votedDuty)

theorem Part.Canon.gridFinish {g : Grp} : (p.gridFinish g).Canon := .ite h h.setGrid.setCg.gridWrites

/-! The meanings of Machine/Sha3. -/

theorem Part.Canon.measure {kind : Nat} {d : List Byte} : (p.measure kind d).Canon := by
  unfold Part.measure
  extract_lets _ p1
  have h1 : p1.Canon := h.each (fun _ _ hq => hq.setReg)
  exact .ite h1.raise h1.raise.frame.countSat

/-! The meanings of Machine/Safe. -/

theorem Part.Canon.setSch {c : Nat} {x : SafeCh} : (p.setSch c x).Canon := h.frame

theorem Part.Canon.safeLog {code c obj : Nat} : (p.safeLog code c obj).Canon := h.taken.produce

theorem Part.Canon.fnNote {f code : Nat} : (p.fnNote f code).Canon := h.setFld

theorem Part.Canon.demandFns {c : Nat} {fs : List Nat} {log : Bool} {t : Instant} : (p.demandFns c fs log t).Canon :=
  h.each (fun _ _ hq => .ite (hq.when (fun _ hr => hr.safeLog.fnNote)).setSch.setSch (hq.when (fun _ hr =>
    hr.safeLog.fnNote)).setSch.setSch)

theorem Part.Canon.safeOutputs {c : Nat} {t : Instant} : (p.safeOutputs c t).Canon := h.setSch

theorem Part.Canon.showSafe {t : Instant} : (p.showSafe t).Canon := by
  unfold Part.showSafe
  extract_lets _ _ _ _ _ _ p1 _ _ _ _ _ p2 p3
  have h1 : p1.Canon := h.setReg.setBit.setBit.setBit.setFld.setFld
  have h2 : p2.Canon := h1.setReg.setReg.each (fun _ _ hq => hq.setBit.setBit.setBit)
  have h3 : p3.Canon := h2.each (fun _ _ hq => hq.setBit.setBit.setBit.setBit.setReg.setReg)
  exact .ite h3 h3.setBit.evalLegs

theorem Part.Canon.safeFault {c code : Nat} {t : Instant} : (p.safeFault c code t).Canon := by
  unfold Part.safeFault
  extract_lets _ p1 p2 slot _ p3 p4 p5
  have h3 : p3.Canon := (h.safeLog.when fun _ hq => hq.setReg).frame
  have h4 : p4.Canon := h3.opErr?.when fun _ hq => hq.setFld
  exact (h4.each fun _ _ hq => hq.setSch.safeOutputs).showSafe

theorem Part.Canon.safeEnd {c : Nat} {t : Instant} : (p.safeEnd c t).Canon := h.safeOutputs.showSafe

theorem Part.Canon.contSample {c cf : Nat} {t : Instant} {n : Nat} : (p.contSample c cf t n).Canon :=
  .ite h (by dsimp only; split; exacts [h, .ite h.setSch.safeLog.setSch.demandFns h.setSch])

theorem Part.Canon.safeSample {c pins cf outs : Nat} {t : Instant} : (p.safeSample c pins cf outs t).Canon := by
  unfold Part.safeSample
  extract_lets _ _ _ _ _ _ _ p1 p2
  have h1 : p1.Canon := h.at.setSch.each (fun _ _ hq => hq.safeLog)
  have h2 : p2.Canon := h1.each (fun _ _ hq => hq.contSample)
  split; exacts [.ite h2.safeFault h2.showSafe, h2.showSafe]

theorem Part.Canon.safeReset {c : Nat} {fs : List Nat} : (p.safeReset c fs).Canon :=
  h.each (fun _ _ hq => hq.safeLog.fnNote.setSch)

theorem Part.Canon.axisStep {c : Nat} {t : Instant} {a : Nat} : (p.axisStep c t a).Canon := by
  dsimp only [Part.axisStep]
  split; exacts [h.setSch, .ite h.setSch h.setSch.safeLog]

theorem Part.Canon.reaction {c : Nat} {t : Instant} : (p.reaction c t).Canon := h.setReg

theorem Part.Canon.cycleEnd {c : Nat} {t : Instant} : (p.cycleEnd c t).Canon := .ite h.reaction.setSch (.ite h.setSch h)

theorem Part.Canon.safeCycle {c : Nat} {selfOk : Bool} {t : Instant} : (p.safeCycle c selfOk t).Canon := by
  unfold Part.safeCycle
  extract_lets _ _ _ _ _ p1 _ p2 p3
  have h1 : p1.Canon := h.at.setSch.setSch.each (fun _ _ hq => hq.axisStep)
  have h2 : p2.Canon := h1.demandFns.when (fun _ hq => hq.safeReset)
  have h3 : p3.Canon := h2.cycleEnd.safeOutputs
  exact .ite h3.setSch.showSafe h3.setSch.safeFault

theorem Part.Canon.oscillator {c : Nat} {t : Instant} : (p.oscillator c t).Canon :=
  .ite h.setSch (.ite h.setSch.safeFault h.setSch)

theorem Part.Canon.safeCompare {c : Nat} {t : Instant} : (p.safeCompare c t).Canon := by
  dsimp only [Part.safeCompare]
  split; exacts [h.at, .safeEnd (.oscillator (.ite h.at.demandFns.setSch.setReg.safeFault h.at.demandFns.setSch.setReg))]

theorem Part.Canon.testPulse {o : Nat} {t : Instant} : (p.testPulse o t).Canon :=
  .ite h (h.at.frame.each (fun _ _ hq => hq.setSch))

theorem Part.Canon.discrepancy {c i : Nat} {t : Instant} : (p.discrepancy c i t).Canon := by
  dsimp only [Part.discrepancy]
  split; exacts [.ite h.at.setSch.safeLog.showSafe h, h]

theorem Part.Canon.ss1Timeout {c a : Nat} {t : Instant} : (p.ss1Timeout c a t).Canon := by
  dsimp only [Part.ss1Timeout]
  split; exacts [.ite h.at.setSch.safeLog.safeEnd h, h]

theorem Part.Canon.lockFault {c f : Nat} {t : Instant} : (p.lockFault c f t).Canon := by
  dsimp only [Part.lockFault]
  split; exacts [.ite h.at.setSch.demandFns.safeLog.fnNote.showSafe h, h]

theorem Part.Canon.resetInput {c i : Nat} {t : Instant} : (p.resetInput c i t).Canon := by
  dsimp only [Part.resetInput]
  split; exacts [.ite h.at.setSch.safeReset.showSafe h.at.setSch, h]

theorem Part.Canon.contTimeout {c n : Nat} {t : Instant} : (p.contTimeout c n t).Canon :=
  .ite h (.ite h.at.setSch.demandFns.safeLog.safeEnd (.ite h.at.setSch.demandFns.safeLog.safeEnd h))

theorem Part.Canon.takeTable {bs : List Byte} {t : Instant} : (p.takeTable bs t).Canon :=
  (h.frame.each (fun _ _ hq => hq.setSch)).setReg.setReg.setReg.setBit

theorem Part.Canon.stayInSto : p.stayInSto.Canon := h.each (fun _ _ hq => hq.setSch)

theorem Part.Canon.keyAck {t : Instant} : (p.keyAck t).Canon :=
  .ite h.at (by
    dsimp only
    split
    · exact (h.at.each (fun _ _ hq => hq.setSch)).taken.safeLog
    · exact ((h.at.each (fun _ _ hq =>
          hq.setSch)).emStore.emStore.frame.takeTable.stayInSto.measure.safeLog.safeLog.setFld.opDone.each (fun _ _ hq =>
          hq.safeOutputs)).showSafe)

theorem Part.Canon.safePfail {t : Instant} : (p.safePfail t).Canon :=
  (h.frame.each (fun _ _ hq => hq.safeLog.demandFns.setSch.safeOutputs)).showSafe

/-! The meanings of Machine/Ramp. -/

theorem Part.Canon.setRamp {c : Nat} {x : RampCh} : (p.setRamp c x).Canon := h.frame

theorem Part.Canon.rampTarget {c : Nat} {v : Word} : (p.rampTarget c v).Canon := .ite h.setBit h.setReg.setBit.setRamp

theorem Part.Canon.rampSet {c : Nat} : (p.rampSet c).Canon := h.setRamp

theorem Part.Canon.rampHold {c : Nat} {on : Bool} : (p.rampHold c on).Canon := h.setRamp

theorem Part.Canon.rampDue {c : Nat} : (p.rampDue c).Canon :=
  .ite h.setRamp (.ite h.setRamp (.ite h.setRamp (.ite h.setRamp.raise h.setRamp)))

theorem Part.Canon.rampTick {c : Nat} {g : Grp} : (p.rampTick c g).Canon :=
  (h.rampDue.when (fun _ hq => hq.raise.logEvent)).setBit.setRamp.setReg.setReg.setBit.setBit.setBit

theorem Part.Canon.rampTicks {g : Grp} : (p.rampTicks g).Canon := .ite (h.each (fun _ _ hq => hq.rampTick)) h

/-! The meanings of Machine/Pair. -/

theorem Part.Canon.send {m : OutMsg} : (p.send m).Canon := h.frame

theorem Part.Canon.showPair : p.showPair.Canon := h.setBit.setBit.setBit

theorem Part.Canon.setRole {r : Nat} : (p.setRole r).Canon := h.setFld.setFld.setFld

theorem Part.Canon.overlapEnd {t : Instant} : (p.overlapEnd t).Canon := by
  dsimp only [Part.overlapEnd]
  split; exacts [h, h.frame.setFld.setFld]

theorem Part.Canon.takeFloor {t : Instant} : (p.takeFloor t).Canon := h.setBit.setBit.setBit.when (fun _ hq => hq.frame)

theorem Part.Canon.endDefer {t : Instant} : (p.endDefer t).Canon := (h.each (fun _ _ hq => hq.setCg)).evalLegs

theorem Part.Canon.releaseFloor {t : Instant} : (p.releaseFloor t).Canon := .ite h h.setBit.setBit.overlapEnd.endDefer

theorem Part.Canon.cutDone {tc : Instant} : (p.cutDone tc).Canon :=
  (h.each (fun _ _ hq => hq.setBit)).raise.hostCutin.setTime.logEvent.frame.showPair

theorem Part.Canon.incomingDone : p.incomingDone.Canon := by
  dsimp only [Part.incomingDone]
  split; exacts [.ite h.cutDone h, h]

theorem Part.Canon.outgoingRelease {tc t : Instant} : (p.outgoingRelease tc t).Canon := h.releaseFloor.setRole.cutDone

theorem Part.Canon.holdModules : p.holdModules.Canon := h.frame

theorem Part.Canon.floorTick {g : Grp} {t : Instant} : (p.floorTick g t).Canon := by
  unfold Part.floorTick
  extract_lets _ _ p1 _ _ _ _ _ p2
  have h1 : p1.Canon := .ite h.frame.showPair.endDefer h
  have h2 : p2.Canon := h1.when (fun _ hq => hq.frame)
  exact .ite h2 (.ite h2.takeFloor.setRole.holdModules.frame.showPair.incomingDone (.ite (.ite h2.frame.showPair (.showPair
      (.frame (.ite (h2.frame.when (fun _ hq => hq.frame)) h2.frame.takeFloor)))) (.ite h2 (.ite h2.releaseFloor (.ite
      h2.takeFloor (.ite h2.takeFloor h2))))))

theorem Part.Canon.callIn {lvl : Bool} {t : Instant} : (p.callIn lvl t).Canon := by
  unfold Part.callIn
  extract_lets _ _ p1
  have h1 : p1.Canon := h.at.setBit.showPair
  refine .ite h1 ?_
  split
  · exact .ite h1.outgoingRelease h1
  · exact .ite h1.releaseFloor (.ite h1.incomingDone h1.raise)

theorem Part.Canon.floorInChange {lvl : Bool} {t : Instant} : (p.floorInChange lvl t).Canon :=
  .ite h.at.setBit (.ite (by
    dsimp only
    split
    · exact .ite (h.at.setBit.when (fun _ hq => hq.frame)).outgoingRelease (h.at.setBit.when (fun _ hq => hq.frame))
    · exact h.at.setBit.when (fun _ hq => hq.frame)) (.ite h.at.setBit.overlapEnd.incomingDone.raise.frame
    h.at.setBit.overlapEnd.incomingDone))

theorem Part.Canon.pairOpen {t : Instant} : (p.pairOpen t).Canon := .ite h.at.raise h.at.frame.showPair

theorem Part.Canon.requestCut {g : Grp} {t0 : Option Instant} : (p.requestCut g t0).Canon := h.send

theorem Part.Canon.pairReq {t : Instant} : (p.pairReq t).Canon := h.at.frame.requestCut

theorem Part.Canon.sendMirror {g : Grp} : (p.sendMirror g).Canon := .ite h.send h.send

theorem Part.Canon.applyMirror {g : Grp} {f : MirrorFrame} : (p.applyMirror g f).Canon :=
  (((h.each (fun _ _ hq => hq.setLane)).each (fun _ _ hq => hq.setRamp)).each (fun _ _ hq =>
    hq.setReg)).setReg.setReg.setCg.frame.setReg

theorem Part.Canon.compareMirror {g : Grp} {f : MirrorFrame} : (p.compareMirror g f).Canon := by
  dsimp only [Part.compareMirror]
  split; exacts [.ite h h.countSat.raise, h]

theorem Part.Canon.mirrorAtEnd {g : Grp} : (p.mirrorAtEnd g).Canon := by
  dsimp only [Part.mirrorAtEnd]
  split; exacts [.ite h.frame.compareMirror.applyMirror h.frame.frame.countSat.raise, h.frame]

theorem Part.Canon.mirrorFrame {f : MirrorFrame} {crcOk : Bool} {t : Instant} : (p.mirrorFrame f crcOk t).Canon :=
  .ite h (.ite h.at.countSat.raise (.ite h.at.countSat.raise (.ite h.at.frame h.at.compareMirror.applyMirror)))

theorem Part.Canon.cyclicMirror {m : CycMirror} {t : Instant} : (p.cyclicMirror m t).Canon :=
  .ite h (.ite h.at.countSat.raise h.at.frame.frame)

theorem Part.Canon.mirrorIn {f : MirrorFrame ⊕ CycMirror} {crcOk : Bool} {t : Instant} : (p.mirrorIn f crcOk t).Canon := by
  dsimp only [Part.mirrorIn]
  split; exacts [h.mirrorFrame, h.when (fun _ hq => hq.cyclicMirror)]

theorem Part.Canon.showLink {lanes : Nat} : (p.showLink lanes).Canon := h.frame.setBit.setBit.setBit

theorem Part.Canon.sendHeartbeat {g : Grp} {t : Instant} : (p.sendHeartbeat g t).Canon := .ite h.setBit.send h.setBit

theorem Part.Canon.callerBeat {b : CallerBeat} {t : Instant} : (p.callerBeat b t).Canon := h.at.frame.setBit

theorem Part.Canon.cutDecision {d : CutDecision} {t : Instant} : (p.cutDecision d t).Canon := .ite h.at h.at.frame.showPair

theorem Part.Canon.setCallPair {k : Nat} {x : CallPair} : (p.setCallPair k x).Canon := h.frame

theorem Part.Canon.showCall {k : Nat} : (p.showCall k).Canon := h.setFld.setFld

theorem Part.Canon.judge {k : Nat} {g : CallTrigger} {t : Instant} : (p.judge k g t).Canon :=
  .ite h (.ite h.raise (.ite h.raise.setCallPair h.setCallPair.raise.countWrap.send.send))

theorem Part.Canon.memberBeat {k : Nat} {side : Bool} {h_ : Heartbeat} {t : Instant} : (p.memberBeat k side h_ t).Canon :=
  .ite h (.ite (.judge (by
    split; exacts [h.at.setCallPair.showCall.setCallPair.judge, h.at.setCallPair.showCall])) (by
    split; exacts [h.at.setCallPair.showCall.setCallPair.judge, h.at.setCallPair.showCall]))

theorem Part.Canon.beatMissed {k : Nat} {side : Bool} {tick t : Instant} : (p.beatMissed k side tick t).Canon :=
  .ite h (.ite h.at.setCallPair.showCall (.ite h.at.setCallPair.showCall.raise (.ite h.at.setCallPair.showCall.judge
    h.at.setCallPair.showCall)))

theorem Part.Canon.callerSend {k : Nat} {t : Instant} : (p.callerSend k t).Canon := .ite h h.at.setCallPair.send.send

theorem Part.Canon.callChange {k : Nat} {t : Instant} : (p.callChange k t).Canon := by
  dsimp only [Part.callChange]
  split; exacts [.ite h h.at.setBit.setCallPair, h]

theorem Part.Canon.callRestore {k : Nat} {t : Instant} : (p.callRestore k t).Canon := by
  dsimp only [Part.callRestore]
  split; exacts [.ite h.at.setBit.raise.setCallPair.judge h, h]

theorem Part.Canon.selfTest {pass : Bool} {found : List EccFind} {t : Instant} : (p.selfTest pass found t).Canon :=
  .ite h (by
    dsimp only
    split
    · exact h.at.frame.countWrap.setFld
    · exact .ite (.frame (.ite (by
          split
          · exact .frame (.startLoad (.ite h.at.frame.setFld.scrubPass.scrubPass h.at.frame.setFld))
          · exact .ite h.at.frame.setFld.scrubPass.scrubPass h.at.frame.setFld) (.ite h.at.frame.setFld.scrubPass.scrubPass
          h.at.frame.setFld))) (.setFld (.raise (.frame (.ite (by
          split
          · exact .frame (.startLoad (.ite h.at.frame.setFld.scrubPass.scrubPass h.at.frame.setFld))
          · exact .ite h.at.frame.setFld.scrubPass.scrubPass h.at.frame.setFld) (.ite h.at.frame.setFld.scrubPass.scrubPass
          h.at.frame.setFld))))))

theorem Part.Canon.pairMoved {old : Nat → Word} : (p.pairMoved old).Canon :=
  (h.setFld.showPair.frame.when (fun _ hq => hq.each (fun _ _ hr => hr.when (fun _ hs => hs.runStop)))).each (fun _ _ hq =>
    .ite hq hq.setBit.setCallPair.showCall)

theorem Part.Canon.pairMsg {m : PairMsg} {t : Instant} : (p.pairMsg m t).Canon := by
  dsimp only [Part.pairMsg]
  split; exacts [h.memberBeat, h.callerBeat, h.at.judge, h.cutDecision, h.mirrorFrame, h.cyclicMirror]

/-! The meanings of Machine/RingReq. -/

theorem Part.Canon.ringEvt {i : Nat} : (p.ringEvt i).Canon := h.raise.irq

theorem Part.Canon.emit {q : Nat} {x : RingHdr} {payload : List Byte} : (p.emit q x payload).Canon :=
  .ite h.send (.ite h.send h)

theorem Part.Canon.originate {x : RingHdr} {payload : List Byte} : (p.originate x payload).Canon :=
  .ite h.emit (.ite (.ite (.send (.ite h.send h)) (.ite h.send h)) h.emit)

theorem Part.Canon.leave {r : RingReq} : (p.leave r).Canon := by
  unfold Part.leave
  extract_lets _ _ p1
  have h1 : p1.Canon := h.frame.originate
  exact .ite h1.frame h1.frame

theorem Part.Canon.pump : p.pump.Canon := h.frame.each (fun _ _ hq => .ite hq.frame hq.leave)

theorem Part.Canon.request {r : RingReq} : (p.request r).Canon := h.frame.pump

/-! The meanings of Machine/Queue. -/

theorem Part.Canon.queueErr {q : Nat} : (p.queueErr q).Canon := h.setBit

theorem Part.Canon.pidxWrite {ini : Initiator} {q v : Nat} : (p.pidxWrite ini q v).Canon := .ite h (.ite h.queueErr h.setFld)

theorem Part.Canon.cidxWrite {ini : Initiator} {q v : Nat} : (p.cidxWrite ini q v).Canon := .ite h (.ite h.queueErr h.setFld)

theorem Part.Canon.queueBaseWrite {q lo hi : Nat} : (p.queueBaseWrite q lo hi).Canon := .ite h.queueErr h.setReg.setReg

theorem Part.Canon.queueCfgWrite {q : Nat} {v : Word} : (p.queueCfgWrite q v).Canon := by
  unfold Part.queueCfgWrite
  extract_lets _ _ _ _ p1
  have h1 : p1.Canon := h.setBit.setBit
  exact .ite h1.setFld.queueErr h1.setFld.setFld

theorem Part.Canon.descDone {c status : Nat} : (p.descDone c status).Canon := by
  dsimp only [Part.descDone]
  split
  · exact h
  · exact .ite (.irq (.ite h.storeWord.storeWord.storeWord.setFld.setDma.beatGone.setBit.countWrap
        h.storeWord.storeWord.storeWord.setFld.setDma.beatGone.setBit)) (.ite
        h.storeWord.storeWord.storeWord.setFld.setDma.beatGone.setBit.countWrap
        h.storeWord.storeWord.storeWord.setFld.setDma.beatGone.setBit)

theorem Part.Canon.dmaHalt {c cause at_ va : Nat} {wr fetch : Bool} : (p.dmaHalt c cause at_ va wr fetch).Canon :=
  h.setBit.setReg.setReg.countSat.setReg.irq

theorem Part.Canon.descFetch {c : Nat} {ecc : List EccFind} : (p.descFetch c ecc).Canon :=
  .ite h (by
    dsimp only
    split
    · exact h.setFld.eccFind.eccFatal.setDma.dmaHalt
    · exact .ite h.setFld.eccFind (by
          split
          · exact h.setFld.eccFind.setDma.setBit.setPair.setPair.setFld.descDone
          · exact h.setFld.eccFind.setDma.setBit.setPair.setPair.setFld))

theorem Part.Canon.dmaUnhalt {c : Nat} : (p.dmaUnhalt c).Canon := h.setBit.setDma

theorem Part.Canon.dmaResume {c : Nat} : (p.dmaResume c).Canon := .ite h h.dmaUnhalt.setIotlb

theorem Part.Canon.dmaSkip {c : Nat} : (p.dmaSkip c).Canon := .ite h (.ite h.setFld.dmaUnhalt h.dmaUnhalt.descDone)

theorem Part.Canon.dmaAbort {c : Nat} : (p.dmaAbort c).Canon :=
  .ite h (.setBit (.descDone (.dmaUnhalt (.ite h.setDma.setFld h))))

theorem Part.Canon.dmaEn {c : Nat} {on : Bool} : (p.dmaEn c on).Canon := h.setBit.setBit.setBit

/-! The meanings of Machine/Nvm. -/

theorem Part.Canon.showDirty : p.showDirty.Canon := h.setFld.setFld.setFld

theorem Part.Canon.writeBack : p.writeBack.Canon := by
  dsimp only [Part.writeBack]
  split; exacts [h, h.frame.wearRange.showDirty]

theorem Part.Canon.dirtyLine {l : Nat} : (p.dirtyLine l).Canon := by
  unfold Part.dirtyLine
  extract_lets _ _ p1
  have h1 : p1.Canon := by unfold p1; split; exacts [.ite h h.frame.setFld, h]
  exact .ite h1 (.showDirty (.frame (.ite h1.countSat.raise.writeBack h1)))

theorem Part.Canon.retain {a : Nat} {bs : List Byte} : (p.retain a bs).Canon :=
  h.storeBytes.each (fun _ _ hq => hq.dirtyLine)

theorem Part.Canon.protRefuse {a : Nat} : (p.protRefuse a).Canon := h.raise.setPair

theorem Part.Canon.emramWrite {a : Nat} {bs : List Byte} : (p.emramWrite a bs).Canon := by
  dsimp only [Part.emramWrite]
  split; exacts [h.protRefuse, .ite h.retain h.storeBytes.wearRange]

theorem Part.Canon.xspiCommand {v : Word} : (p.xspiCommand v).Canon := .ite h h.frame.setBit.setBit

/-! The meanings of Machine/SeqLib. -/

theorem Part.Canon.libSend {g : Grp} {req cause : Nat} : (p.libSend g req cause).Canon := h.frame.setFld.setFld.setFld

theorem Part.Canon.libReport {cmd result word : Nat} : (p.libReport cmd result word).Canon := h.retain

theorem Part.Canon.libPhase {ph : LibPhase} {t : Instant} : (p.libPhase ph t).Canon := h.frame

theorem Part.Canon.libTrip {g : Grp} {cause : Nat} {t : Instant} : (p.libTrip g cause t).Canon := h.libSend.libPhase

theorem Part.Canon.libTarget {g : Grp} {k : Nat} {x : Word} : (p.libTarget g k x).Canon := .ite h h.rampTarget

theorem Part.Canon.libOverride {g : Grp} {ps qs : Word} : (p.libOverride g ps qs).Canon :=
  .libTarget (.libTarget (.ite h h.frame))

theorem Part.Canon.libRestore {g : Grp} : (p.libRestore g).Canon := by
  dsimp only [Part.libRestore]
  split; exacts [h, h.rampTarget.rampTarget.rampTarget.frame]

theorem Part.Canon.libSteer {g : Grp} {w : ℤ} {delta : Word} : (p.libSteer g w delta).Canon := h.rampTarget.setRamp

theorem Part.Canon.libClose {t : Instant} : (p.libClose t).Canon := h.frame

theorem Part.Canon.libSync {g : Grp} {t : Instant} : (p.libSync g t).Canon := h.libSend.libPhase.libOverride

theorem Part.Canon.libPhaseStep {g : Grp} {i : SwitchIn} {m : Nat} {t : Instant} : (p.libPhaseStep g i m t).Canon := by
  unfold Part.libPhaseStep
  extract_lets x _ _ p1 p2 _ _ _ _ _ p3 p4 _ p5
  have h2 : p2.Canon := h.libOverride.libTarget.libSteer
  have h4 : p4.Canon := h.libTarget.libTarget.frame
  have h5 : p5.Canon := h.libOverride
  split
  · exact .ite h.libPhase (.ite h.libSend.frame (.ite h.frame h))
  · exact .ite h (.ite h.libSync h)
  · exact .ite h (.ite h.libSync (.ite h.libPhase h))
  · split; exacts [.ite h.frame h, .libPhase (.ite h.libSend h.libSend)]
  · exact .ite h2.frame (.ite h.libPhase.frame h)
  · exact .ite h (.ite h4.libSend.libPhase h4)
  · exact .ite h.libPhase.frame h
  · exact .ite (.ite h5.libSteer.frame h5) (.ite h.libRestore h)

theorem Part.Canon.libCycle {i : SwitchIn} {t : Instant} : (p.libCycle i t).Canon := by
  dsimp only [Part.libCycle]
  split
  · exact h.frame
  · exact .frame (.frame (by
        split
        · exact h.setBit.setBit.frame.libTrip
        · exact .ite h.setBit.setBit.frame.libPhase.frame h.setBit.setBit.frame.libPhaseStep))

theorem Part.Canon.libHost {cmd : Nat} {allowed : Grp → Nat → Bool}
    {act : Grp → Nat → Part → Part} (hact : ∀ x0 x1 q, q.Canon → (act x0 x1 q).Canon) :
    (p.libHost cmd allowed act).Canon :=
  by
  dsimp only [Part.libHost]
  split; exacts [h, .ite h (.ite (hact _ _ _ h.retain.libReport) h.retain.libReport)]

theorem Part.Canon.libCharge {g : Grp} {goOn : Bool} {t : Instant} : (p.libCharge g goOn t).Canon := h.libSend.libPhase.frame

/-! The meanings of Machine/Cyc. -/

theorem Part.Canon.setCycState {n : Nat} : (p.setCycState n).Canon := h.setFld

theorem Part.Canon.setVar {ident n : Nat} : (p.setVar ident n).Canon := by
  dsimp only [Part.setVar]
  split; exacts [h.retain, h]

theorem Part.Canon.applyForces {d : CycDesc} : (p.applyForces d).Canon := h.each (fun _ _ hq => .ite hq.setVar hq)

theorem Part.Canon.setTask {x : CycTask} : (p.setTask x).Canon := h.frame

theorem Part.Canon.setTaskState {k n : Nat} : (p.setTaskState k n).Canon := h.setFld

theorem Part.Canon.setRemote {x : CycRemote} : (p.setRemote x).Canon := h.frame

theorem Part.Canon.dispatch {k : Nat} {start : Instant} : (p.dispatch k start).Canon := by
  dsimp only [Part.dispatch]
  split
  · exact h
  · exact .ite h (.setTaskState (.setTask (.applyForces (.ite ((h.atRing.each (fun _ _ hq => .ite hq.setTaskState hq)).each
        (fun _ _ hq => .ite hq.setVar hq)) (h.atRing.each (fun _ _ hq => .ite hq.setTaskState hq))))))

theorem Part.Canon.taskRelease {k : Nat} {t start : Instant} : (p.taskRelease k t start).Canon := by
  dsimp only [Part.taskRelease]
  split
  · exact h
  · exact .ite h (.ite (.ite h.atRing.irq.setTask.setTaskState.dispatch h.atRing.irq.setTask.countSat.raise) (.ite
        h.dispatch h))

theorem Part.Canon.eventRelease {k : Nat} {rise : Bool} {t start : Instant} : (p.eventRelease k rise t start).Canon := by
  dsimp only [Part.eventRelease]
  split
  · exact h
  · exact .ite h (.ite (.ite h.atRing.setTask.setTaskState.dispatch (.ite h.atRing.setTask h.atRing.raise)) (.ite
        h.atRing.setTask.setTaskState.dispatch (.ite h.dispatch h)))

theorem Part.Canon.moduleBytes {m off : Nat} {bs : List Byte} : (p.moduleBytes m off bs).Canon := h.setRemote

theorem Part.Canon.cycOutput {o : CycTarget} {bs : List Byte} : (p.cycOutput o bs).Canon := by
  dsimp only [Part.cycOutput]
  split; exacts [h.setBit, h.moduleBytes, h.setReg, h.rampTarget, h.setRamp, h.setReg]

theorem Part.Canon.sendCyclic {d : CycDesc} : (p.sendCyclic d).Canon := .ite h (.ite h.send h.send)

theorem Part.Canon.resumeTask {slot : Nat} : (p.resumeTask slot).Canon := by
  dsimp only [Part.resumeTask]
  split; exacts [h, .ite h h.setTaskState]

theorem Part.Canon.libBody {m : LibMap} {inImg out : List Byte} : (p.libBody m inImg out).1.Canon := .ite h h.libCycle

theorem Part.Canon.bodyEnd {k : Nat} {out : List Byte} {timers : List (Nat × Option Instant)} {edges : List (Nat × Bool)}
    {lines : List (BitVec 12)} {t : Instant} :
    (p.bodyEnd k out timers edges lines t).Canon :=
  by
  dsimp only [Part.bodyEnd]
  split
  · exact h
  · exact .ite h (.sendCyclic (.resumeTask (.frame (.setReg (.setReg (.countWrap (.setTaskState (.setTask (.frame (.ite
        (.each (.applyForces (by
        split; exacts [(h.atRing.each (fun _ _ hq => hq.dirtyLine)).libBody, h.atRing.each (fun _ _ hq => hq.dirtyLine)]))
        (fun _ _ hq => hq.setVar)) (.each (.each (.applyForces (by
        split; exacts [(h.atRing.each (fun _ _ hq => hq.dirtyLine)).libBody, h.atRing.each (fun _ _ hq => hq.dirtyLine)]))
        (fun _ _ hq => hq.setVar)) (fun _ _ hq => hq.cycOutput))))))))))))

theorem Part.Canon.safePins : p.safePins.Canon := h.each (fun _ _ hq => hq.setBit)

theorem Part.Canon.safeOf {img : CycImage} {which : CycTarget → Bool} : (p.safeOf img which).Canon :=
  (((h.each (fun _ _ hq => .ite hq.setBit hq)).each (fun _ _ hq => .ite hq (hq.each (fun _ _ hr => .ite hr.moduleBytes
    hr)))).each (fun _ _ hq => .ite hq.setReg hq)).each (fun _ _ hq => .ite hq.rampTarget hq)

theorem Part.Canon.safeOuts {which : CycTarget → Bool} : (p.safeOuts which).Canon := h.safeOf

theorem Part.Canon.takePins : p.takePins.Canon := h.frame.showOwn

theorem Part.Canon.stopTasks : p.stopTasks.Canon :=
  (h.frame.each (fun _ _ hq => hq.setSlot)).each (fun _ _ hq => hq.setTaskState)

theorem Part.Canon.changeAbort {err : Nat} : (p.changeAbort err).Canon := by
  dsimp only [Part.changeAbort]
  split; exacts [h, .irq (.raise (.ite h.frame.opFail.setFld.setBit.setFld.setCycState h.frame.opFail.setFld.setBit.setFld))]

theorem Part.Canon.showTask {x : CycTask} : (p.showTask x).Canon := h.setReg

theorem Part.Canon.startModule {m : CycModule} : (p.startModule m).Canon := h.setReg.setRemote

theorem Part.Canon.dropModules : p.dropModules.Canon := h.each (fun _ _ hq => .ite hq hq.setReg)

theorem Part.Canon.startModules : p.startModules.Canon := h.dropModules.each (fun _ _ hq => hq.startModule)

theorem Part.Canon.slotRecover {k : Nat} : (p.slotRecover k).Canon := by
  dsimp only [Part.slotRecover]
  split; exacts [h.setSlot, h.taken.setSlot, h]

theorem Part.Canon.cycStart {cause : Nat} {t : Instant} : (p.cycStart cause t).Canon :=
  .ite h (.setReg (.setFld (.setCycState (.each (.takePins (.safeOuts (.startModules (.each (.each (.ite h.frame
    ((h.frame.each (fun _ _ hq => hq.retain)).each (fun _ _ hq => hq.retain))) (fun _ _ hq => hq.setTaskState))
    (fun _ _ hq => hq.showTask))))) (fun _ _ hq => hq.slotRecover)))))

theorem Part.Canon.cycGo {t : Instant} : (p.cycGo t).Canon := h.when (fun _ hq => hq.atRing.cycStart)

theorem Part.Canon.cycHalt {st cause : Nat} : (p.cycHalt st cause).Canon :=
  h.changeAbort.stopTasks.setCycState.setFld.safeOuts

theorem Part.Canon.cycStop {t : Instant} : (p.cycStop t).Canon := h.when (fun _ hq => hq.atRing.cycHalt)

theorem Part.Canon.cycRestart {t : Instant} : (p.cycRestart t).Canon := h.when (fun _ hq => hq.atRing.cycStart)

theorem Part.Canon.wdFire {cause task : Nat} {rel : Instant} : (p.wdFire cause task rel).Canon :=
  (h.cycHalt.when (fun _ hq => hq.frame.requestCut)).raise.raiseIf.irq.hostFault.logEvent

theorem Part.Canon.showAge {m : Nat} {t : Instant} : (p.showAge m t).Canon := by
  dsimp only [Part.showAge]
  split; exacts [h.setFld, h]

/-! The meanings of Machine/CycChange. -/

theorem Part.Canon.pfailAssert {t : Instant} : (p.pfailAssert t).Canon :=
  .ite h (.safePfail (.setTime (.setReg (.irq (.raise (.setCycState (.each (.ite
    h.atRing.changeAbort.frame.stopTasks.setFld.safePins h.atRing.changeAbort.frame) (fun _ _ hq => hq.setSlot))))))))

theorem Part.Canon.flushDone {t : Instant} : (p.flushDone t).Canon := by
  dsimp only [Part.flushDone]
  split; exacts [h, .ite h (h.each (fun _ _ hq => hq.wearRange)).frame.showDirty.setBit.setFld]

theorem Part.Canon.pfailRelease {t : Instant} : (p.pfailRelease t).Canon :=
  .ite h (.ite h.atRing.flushDone.frame.setCycState.frame.cycStart (.ite (h.atRing.flushDone.frame.setCycState.frame.each
    (fun _ _ hq => hq.setSlot)) h.atRing.flushDone.frame.setCycState.frame))

theorem Part.Canon.hostCmd {code : Nat} {act : Nat → Part → Part × Nat} (hact : ∀ a q, q.Canon → (act a q).1.Canon) :
    (p.hostCmd code act).Canon := by
  have hact' (a : Nat) (c : Prop) [Decidable c] : (if c then act a p else (p, 1)).1.Canon := .iteFst (hact a p h) h
  exact .ite h (.ite h (hact' _ _).storeBytes.setFld)

theorem Part.Canon.forceSet {a : Nat} : (p.forceSet a).1.Canon := by
  dsimp only [Part.forceSet]
  split; exacts [h, by split; exacts [h, by split; exacts [h, h.frame]]]

theorem Part.Canon.copyVar {m : CycMap} : (p.copyVar m).Canon := h.retain

theorem Part.Canon.precopyDone {t : Instant} : (p.precopyDone t).Canon := by
  dsimp only [Part.precopyDone]
  split
  · exact h
  · exact .ite h (((h.atRing.each (fun _ _ hq => hq.copyVar)).each (fun _ _ hq => hq.retain)).each (fun _ _ hq =>
        hq.retain)).frame.setBit.setCycState.irq

theorem Part.Canon.rekeyForces {img : CycImage} : (p.rekeyForces img).Canon := h.frame.each (fun _ _ hq => hq.raise.logEvent)

theorem Part.Canon.onlineSwitch {t : Instant} : (p.onlineSwitch t).Canon := by
  dsimp only [Part.onlineSwitch]
  split
  · exact h
  · exact .ite h ((((h.each (fun _ _ hq => hq.copyVar)).rekeyForces.frame.each (fun _ _ hq => .ite hq hq.setTaskState)).each
        (fun _ _ hq => hq.showTask.setFld)).dropModules.each (fun _ _ hq => .ite hq
      hq.startModule)).safeOf.safeOuts.takePins.setReg.setBit.setCycState.setFld.setReg.setFld.setFld.raise.irq.opDone.atRing

/-! The meanings of Machine/Ring. -/

theorem Part.Canon.ringTake {f : RingFrame} : (p.ringTake f).1.Canon := by
  dsimp only [Part.ringTake]
  split
  · exact h
  · split
    · exact h.countSat
    · split
      · exact h.countSat
      · split; exacts [h.countSat.ringEvt, by split; exacts [h.countSat, by split; exacts [h, .ite h h.emit]]]

theorem Part.Canon.laneFail {q lane errs : Nat} : (p.laneFail q lane errs).Canon := by
  unfold Part.laneFail
  extract_lets _ _ _ p1
  have h1 : p1.Canon := h.setBit.setReg
  exact .ite h1 (.ite h1.frame h1.setBit.ringEvt)

theorem Part.Canon.showWrap : p.showWrap.Canon := h.setBit

theorem Part.Canon.unwrap {n : Nat} : (p.unwrap n).Canon := (h.frame.each (fun _ _ hq => .ite hq.setBit hq)).showWrap.ringEvt

theorem Part.Canon.showDiff : p.showDiff.Canon := h.setReg

theorem Part.Canon.tempoFollow {d : ℤ} : (p.tempoFollow d).Canon :=
  .ite h.frame.setBit.setBit.showDiff (.ite h.frame.frame.setBit.setBit.showDiff h.frame.setBit.setBit.showDiff)

theorem Part.Canon.tempoHold {on : Bool} : (p.tempoHold on).Canon := h.setFld

theorem Part.Canon.timeSet {q dly lanes : Nat} {farm : Bool} {d : ℤ} {t : Instant} :
    (p.timeSet q dly lanes farm d t).Canon :=
  .ite h (.ite (.tempoFollow (.frame (.setBit (.setBit (.ite h.at.setReg.setFld.setBit.frame
    h.at.setReg.setFld.setBit.frame.send))))) (.frame (.setBit (.setBit (.ite h.at.setReg.setFld.setBit.frame
    h.at.setReg.setFld.setBit.frame.send)))))

theorem Part.Canon.hostErr {addr status : Nat} : (p.hostErr addr status).Canon := h.setBit.setFld.setFld.setPair

theorem Part.Canon.hostDone {x : HostAcc} : (p.hostDone x).Canon := by
  unfold Part.hostDone
  extract_lets p1
  have h1 : p1.Canon := .ite h h.hostErr
  exact .ite h1 h1.send

theorem Part.Canon.hspiDone {x : HostAcc} : (p.hspiDone x).Canon := .frame (.ite h h.hostErr)

theorem Part.Canon.hostPiece {acc at_ : Nat} {data : List Byte} {status : Nat} : (p.hostPiece acc at_ data status).Canon :=
  by
  dsimp only [Part.hostPiece]
  split; exacts [h, .ite h.frame.hostDone h.frame]

theorem Part.Canon.hspiPiece {at_ : Nat} {data : List Byte} {status : Nat} : (p.hspiPiece at_ data status).Canon := by
  dsimp only [Part.hspiPiece]
  split; exacts [h, .ite h.hspiDone h.frame]

theorem Part.Canon.moduleGood {m : Nat} {data : List Byte} : (p.moduleGood m data).Canon := h.setRemote.setBit.setFld

theorem Part.Canon.requestFailed {r : RingReq} {status : Nat} : (p.requestFailed r status).Canon := by
  dsimp only [Part.requestFailed]
  split; exacts [h.descDone, .ite h.setBit h, h.hostPiece, h.hspiPiece, h.produce]

theorem Part.Canon.endRequests {status : Nat} : (p.endRequests status).Canon := h.frame.each (fun _ _ hq => hq.requestFailed)

theorem Part.Canon.hostLive {pcie : Option (Nat × Nat)} {lowest : Bool} : (p.hostLive pcie lowest).Canon := by
  unfold Part.hostLive
  extract_lets p1 _ _ _ _ p2
  have h1 : p1.Canon := by unfold p1; split; exacts [h.setBit.setFld.setFld, h.setFld]
  have h2 : p2.Canon := h1.irq.setBit.setBit.setBit
  exact .ite (h2.setFld.setBit.setBit.tempoHold.when (fun _ hq => hq.tempoFollow)) (.ite h2.setBit h2)

theorem Part.Canon.promStart : p.promStart.Canon := .ite h h.frame.setBit.send

theorem Part.Canon.promAssign : p.promAssign.Canon := .send (.frame (.ite h.ringEvt h))

theorem Part.Canon.promFrame {q : Nat} {x : RingHdr} {m : PromMsg} {last : Bool} : (p.promFrame q x m last).Canon := by
  dsimp only [Part.promFrame]
  split; exacts [.ite h h.frame.setBit.send, .ite h (.ite h.frame.promAssign h.frame), .ite h h.frame]

theorem Part.Canon.promSwitch {t : Instant} : (p.promSwitch t).Canon := by
  dsimp only [Part.promSwitch]
  split
  · exact h
  · exact .ite h (.pump (.each (.irq (.ringEvt (.ite
        (h.atRing.endRequests.setFld.setBit.setFld.setFld.setBit.setBit.frame.frame.each (fun _ _ hq =>
        hq.showCall)).ringEvt (h.atRing.endRequests.setFld.setBit.setFld.setFld.setBit.setBit.frame.frame.each
        (fun _ _ hq => hq.showCall))))) (fun _ _ hq => .ite hq.opDone hq)))

theorem Part.Canon.ringReset : p.ringReset.Canon :=
  ((h.endRequests.each (fun _ _ hq => hq.requestFailed)).frame.each (fun _ _ hq => hq.setFld)).setBit.showWrap

theorem Part.Canon.rreset {t : Instant} : (p.rreset t).Canon := .ite h.at.send.ringReset h

theorem Part.Canon.linkNotice {m : LinkMsg} : (p.linkNotice m).Canon := by
  dsimp only [Part.linkNotice]
  split; exacts [h.frame.showWrap, .ite h.unwrap h, h.ringReset, .ite h.promStart h]

theorem Part.Canon.barRelease {id : Nat} : (p.barRelease id).Canon := by
  unfold Part.barRelease
  extract_lets p1
  have h1 : p1.Canon := h.setFld.countWrap.irq
  exact .ite h1.frame.setBit h1

theorem Part.Canon.barArrived {id node : Nat} : (p.barArrived id node).Canon := .ite h.frame.frame.send.barRelease h.frame

theorem Part.Canon.barArrive {id : Nat} : (p.barArrive id).Canon := h.frame.setBit.send.when (fun _ hq => hq.barArrived)

theorem Part.Canon.snapArm {lo hi : Word} : (p.snapArm lo hi).Canon :=
  .ite h (.ite h.setReg.setReg.setBit.setBit.ringEvt h.setReg.setReg.setBit.setBit.setBit)

theorem Part.Canon.mirrorStat {n status : Nat} {t : Instant} : (p.mirrorStat n status t).Canon :=
  .ite h h.storeBytes.setPair.irq

theorem Part.Canon.statusChange {t : Instant} : (p.statusChange t).Canon :=
  .ite h.at (.ite h.at.setFld.frame.mirrorStat h.at.setFld.frame.send)

theorem Part.Canon.flagClr {v : Word} : (p.flagClr v).Canon := .ite h.setFld.frame h.setFld

theorem Part.Canon.snapTake {t : Instant} : (p.snapTake t).Canon :=
  .ite h.atRing h.atRing.storeBytes.storeBytes.setBit.setBit.setFld.irq.capEvent

/-! The meanings of Machine/Sec. -/

theorem Part.Canon.enrollWrite {w : Word} {t : Instant} {act : Part → Part} (hact : ∀ q, q.Canon → (act q).Canon) :
    (p.enrollWrite w t act).Canon :=
  h.at.frame.when (fun _ hq => hact _ hq)

theorem Part.Canon.enroll : p.enroll.Canon := .ite h.raise h.frame.setBit

theorem Part.Canon.revoke : p.revoke.Canon := .ite h.frame.setBit h

theorem Part.Canon.secEnroll {v : Word} {t : Instant} : (p.secEnroll v t).Canon :=
  .ite (h.enrollWrite (fun _ hq => hq.enroll)) (.ite (h.enrollWrite (fun _ hq => hq.revoke)) h.at.frame)

theorem Part.Canon.debugToken : p.debugToken.Canon := .ite h.setBit.measure h.raise

/-! The meanings of Machine/Clk. -/

theorem Part.Canon.setPll {k : Nat} {x : PllState} : (p.setPll k x).Canon := h.frame

theorem Part.Canon.showCko : p.showCko.Canon := h.setBit

theorem Part.Canon.pllAcquire {k : Nat} {t : Instant} : (p.pllAcquire k t).Canon := h.setPll.setBit.setBit

theorem Part.Canon.pllRetire {k cause : Nat} : (p.pllRetire k cause).Canon :=
  h.setPll.setBit.setBit.setBit.setBit.raise.noteRetire

theorem Part.Canon.pllFail {t : Instant} : (p.pllFail t).Canon :=
  (h.setBit.setBit.showCko.each (fun _ _ hq => hq.when (fun _ hr => hr.haltGroup))).releaseFloor

theorem Part.Canon.pllMove {k : Nat} : (p.pllMove k).Canon := h.setBit.setBit.countSat.raise

theorem Part.Canon.pllSettle {t : Instant} : (p.pllSettle t).1.Canon := by
  dsimp only [Part.pllSettle]
  split; exacts [h, by split; exacts [h.pllMove, h.pllFail]]

theorem Part.Canon.leaveBypass : p.leaveBypass.Canon :=
  .ite h (.ite h.setBit.setBit.showCko (.ite h.setBit.setBit.showCko h))

theorem Part.Canon.pllLock {k : Nat} {t : Instant} : (p.pllLock k t).Canon := by
  dsimp only [Part.pllLock]
  split; exacts [.ite h.at.setPll.setBit.leaveBypass h, h]

theorem Part.Canon.guard {n : Nat} : (p.guard n).Canon := .ite h h.setReg.raise

theorem Part.Canon.pllAcqFail {k : Nat} {t : Instant} : (p.pllAcqFail k t).Canon := by
  dsimp only [Part.pllAcqFail]
  split
  · exact .ite (.ite h.at.setPll.raise.pllAcquire (h.at.setPll.raise.pllRetire.leaveBypass.when (fun _ hq => hq.pllFail))) h
  · exact h

theorem Part.Canon.pllLoss {t : Instant} : (p.pllLoss t).Canon :=
  .ite h (.when (.pllSettle (.ite h.at.raise.setPll.pllRetire h.at.raise.setPll.pllAcquire)) (fun _ hq => hq.noteSwap))

theorem Part.Canon.bandMeasure {v : Word} {t : Instant} : (p.bandMeasure v t).Canon := .ite h h.at.setBit.frame

theorem Part.Canon.setDroop {i : Nat} {sram : Bool} {n : Nat} : (p.setDroop i sram n).Canon := h.frame.setBit.setBit

theorem Part.Canon.sag {i : Nat} {sram deep : Bool} {t : Instant} : (p.sag i sram deep t).Canon :=
  .ite h (((h.at.when (fun _ hq => hq.countSat)).when (fun _ hq => hq.countSat)).when (fun _ hq => hq.countSat)).setDroop

theorem Part.Canon.sampleTemps {xs : List Word} {t : Instant} : (p.sampleTemps xs t).Canon :=
  ((h.each (fun _ _ hq => hq.setReg.setReg)).setFld.setBit.when (fun _ hq => hq.raise.hostWarning)).frame

theorem Part.Canon.sampleVolts {xs : List Word} : (p.sampleVolts xs).Canon :=
  (h.each (fun _ _ hq => hq.setReg.setReg.setReg)).raiseIf.setBit.frame

theorem Part.Canon.samplePms {xs : List Word} : (p.samplePms xs).Canon := h.each (fun _ _ hq => hq.setReg)

theorem Part.Canon.monitor {kind : MonKind} {xs : List Word} {t : Instant} : (p.monitor kind xs t).Canon := by
  dsimp only [Part.monitor]
  split; exacts [h.at.sampleTemps, h.at.sampleVolts, h.at.samplePms]

theorem Part.Canon.vminmaxRead {j : Nat} {max : Bool} : (p.vminmaxRead j max).Canon := h.answer.setReg

theorem Part.Canon.toVbat : p.toVbat.Canon := .ite h.frame h.frame.setPair.setReg.setBit.frame

theorem Part.Canon.tamper {crystal : Bool} {t : Instant} : (p.tamper crystal t).Canon :=
  .ite h h.setPair.setReg.at.frame.setBit.setBit

theorem Part.Canon.clkMoved {old : Nat → Word} : (p.clkMoved old).Canon :=
  (h.each (fun _ _ hq => hq.when (fun _ hr => (hr.when (fun _ hs => hs.setBit)).setPll.pllAcquire))).pllSettle.showCko

/-! The meanings of Machine/Cores. -/

theorem Part.Canon.setCpair {q : Nat} {x : CorePair} : (p.setCpair q x).Canon := h.frame

theorem Part.Canon.setSlotPair {k q : Nat} : (p.setSlotPair k q).Canon := h.setFld

theorem Part.Canon.pairTakes {k q : Nat} : (p.pairTakes k q).Canon := h.setSlotPair.setSlot.frame

theorem Part.Canon.pairSwap {k cause : Nat} : (p.pairSwap k cause).Canon := h.pairTakes.setSlotPair.countSat.noteSwap

theorem Part.Canon.pairRetire {q cause : Nat} : (p.pairRetire q cause).Canon := h.setCpair.noteRetire

theorem Part.Canon.pairReady {q : Nat} : (p.pairReady q).Canon := by
  dsimp only [Part.pairReady]
  split; exacts [h.pairTakes, .ite h (by split; exacts [h.setSlotPair.pairSwap, h.setSlotPair])]

theorem Part.Canon.lockstep {k : Nat} {t : Instant} : (p.lockstep k t).Canon :=
  .ite h (.ite (h.at.countSat.logEvent.setCpair.when (fun _ hq => hq.pairRetire)).pairSwap
    (h.at.countSat.logEvent.setCpair.when (fun _ hq => hq.pairRetire)).frame)

theorem Part.Canon.pairTested {q : Nat} {pass : Bool} : (p.pairTested q pass).Canon :=
  .ite h (.ite h.setCpair.pairReady (by
    dsimp only; split; exacts [h.pairRetire.when (fun _ hq => hq.pairSwap), h.pairRetire]))

theorem Part.Canon.pairExchange {k cause : Nat} {retire : Bool} : (p.pairExchange k cause retire).Canon :=
  .ite h.pairSwap.pairRetire h.pairSwap.setSlotPair

/-! The meanings of Machine/Spare. -/

theorem Part.Canon.pllSwap {cause : Nat} {retire : Bool} : (p.pllSwap cause retire).Canon :=
  .noteSwap (.ite h.pllMove.pllRetire h.pllMove.setBit)

theorem Part.Canon.evidenceSwap {e : Nat × Nat × Nat} : (p.evidenceSwap e).Canon :=
  .ite h (by
    split
    · exact h
    · exact .ite h (by split; exacts [h.frame.startLoad, h.frame.pairExchange, h.frame.pllSwap, h.frame.gateSwapStart]))

theorem Part.Canon.checkEvidence : p.checkEvidence.Canon :=
  (h.each (fun _ _ hq => hq.logEvent)).frame.each (fun _ _ hq => hq.when (fun _ hr => hr.evidenceSwap))

theorem Part.Canon.closeHour : p.closeHour.Canon :=
  h.frame.each (fun _ _ hq => by split; exacts [hq, hq.setReg.when (fun _ hr => hr.raise.logEvent)])

theorem Part.Canon.estimateLife : p.estimateLife.Canon := (h.each (fun _ _ hq => hq.setReg)).setFld.raiseIf

theorem Part.Canon.closeDay : p.closeDay.Canon := h.emStore.taken.frame.estimateLife

theorem Part.Canon.closeMonth : p.closeMonth.Canon := h.emStore.taken.frame

theorem Part.Canon.driftEval {t : Instant} : (p.driftEval t).Canon :=
  .ite h.at (((h.at.when (fun _ hq => hq.closeHour)).when (fun _ hq => hq.closeDay)).when (fun _ hq =>
    hq.closeMonth)).frame.checkEvidence

/-! The meanings of Machine/Boot. -/

theorem Part.Canon.loadTrims : p.loadTrims.Canon :=
  ((h.each (fun _ _ hq => hq.setSd)).each (fun _ _ hq => hq.setReg)).each (fun _ _ hq => hq.frame)

theorem Part.Canon.checkCal : p.checkCal.Canon := .loadTrims (.raiseIf (.frame (.ite h.emStore.emStore.frame h)))

theorem Part.Canon.loseDirty : p.loseDirty.Canon := h.each (fun _ _ hq => hq.each (fun _ _ hr => hr.storeBytes.taken))

theorem Part.Canon.cold : p.cold.Canon := by
  unfold Part.cold
  extract_lets _ _ _ _ _ _ _ mem _ _ q
  have hq : q.Canon := ⟨rfl, sCanon_filter h.mem⟩
  exact ((((hq.each (fun _ _ hq => hq.setReg)).setFld.setFld.each (fun _ _ hq => hq.when (fun _ hr => hr.setReg))).each
    (fun _ _ hq => hq.setFld)).setReg)

theorem Part.Canon.restart {cause rail : Nat} {t : Instant} : (p.restart cause rail t).Canon := h.at.loseDirty.cold.setReg

theorem Part.Canon.holdReset {cause rail : Nat} {t : Instant} : (p.holdReset cause rail t).Canon := h.restart.frame

theorem Part.Canon.bootKeys : p.bootKeys.Canon := h.frame.setBit.setBit.setReg.setReg.taken

theorem Part.Canon.bootSafety {t : Instant} : (p.bootSafety t).Canon := by
  dsimp only [Part.bootSafety]
  split; exacts [h.takeTable, h.setBit]

theorem Part.Canon.bootMeasure {fw : List Byte} : (p.bootMeasure fw).Canon := by
  unfold Part.bootMeasure
  extract_lets p1 p2 p3
  have h1 : p1.Canon := h.measure.measure
  have h2 : p2.Canon := by unfold p2; split; exacts [h1.measure, h1]
  have h3 : p3.Canon := h2.measure
  exact h3.measure.measure

theorem Part.Canon.warmStart : p.warmStart.Canon := h.frame.when (fun _ hq => hq.cycStart)

theorem Part.Canon.boot {t : Instant} : (p.boot t).Canon := by
  unfold Part.boot
  extract_lets p1 _ p2 p3 _ p4 p5
  have h5 : p5.Canon := h.at.frame.setBit.setBit.frame.checkCal.bootKeys.bootSafety
  generalize p5.areaSigned fwArea.1 fwArea.2 = x
  split
  split; exacts [h5.setBit.setBit.bootMeasure.estimateLife.warmStart, h5.raise.frame]

theorem Part.Canon.swrst {v : Word} {t : Instant} : (p.swrst v t).Canon := .ite h (.ite h.restart.boot h.at.frame)

/-! The meanings of Machine/Time. -/

theorem Part.Canon.setServo {n : Nat} : (p.setServo n).Canon := h.raiseIf.setFld

theorem Part.Canon.servoUpdate {v : Word} {t : Instant} : (p.servoUpdate v t).Canon :=
  .ite h.at.setReg (.ite h.at.setReg.raise (.ite (h.at.setReg.countWrap.when (fun _ hq => hq.frame)).setServo
    (h.at.setReg.countWrap.when (fun _ hq => hq.frame)).frame.setServo.setReg))

theorem Part.Canon.timeStep {t : Instant} : (p.timeStep t).Canon := .ite h.at.raise h.at.raise.tempoFollow

theorem Part.Canon.timeNow {t : Instant} : (p.timeNow t).Canon := h.at.setReg.setReg.setReg.setReg.answer

theorem Part.Canon.timeMoved : p.timeMoved.Canon := .ite h h.setServo

/-! The meanings of Machine/Eth. -/

theorem Part.Canon.rxDrop {q : Nat} : (p.rxDrop q).Canon := h.countSat.raise

theorem Part.Canon.ethLink {q : Nat} {up fault : Bool} : (p.ethLink q up fault).Canon :=
  h.setBit.setBit.setBit.setBit.raiseIf

theorem Part.Canon.learn {q : Nat} {f : List Byte} : (p.learn q f).Canon := .ite h h.frame

theorem Part.Canon.dupPut {src seq q : Nat} : (p.dupPut src seq q).Canon := h.frame

theorem Part.Canon.deliver {q : Nat} {f : List Byte} {status : Nat} {ts : Instant} : (p.deliver q f status ts).Canon :=
  .ite h.rxDrop.produce h.storeBytes.produce

theorem Part.Canon.forward {q : Nat} {f : List Byte} {ts egress : Instant} : (p.forward q f ts egress).Canon :=
  .ite h h.countSat.send

theorem Part.Canon.rxIndep {q : Nat} {f : List Byte} {ts egress : Instant} : (p.rxIndep q f ts egress).Canon :=
  .ite h.learn.deliver (by split; exacts [.ite h.learn h.learn.forward, h.learn.forward.deliver])

theorem Part.Canon.rxPrp {q : Nat} {f : List Byte} {ts : Instant} : (p.rxPrp q f ts).Canon :=
  .ite h.deliver (.ite (.deliver (.ite h.countSat.raise h)) (.ite (.countSat (.ite h.countSat.raise h)) (.deliver (.dupPut
    (.ite h.countSat.raise h)))))

theorem Part.Canon.rxHsr {q : Nat} {f : List Byte} {ts egress : Instant} : (p.rxHsr q f ts egress).Canon :=
  .ite (.ite h.deliver h) (.ite h (.ite (.when (.ite h h.forward.countSat) (fun _ hq => hq.countSat)) (.ite (.deliver (.ite
    (.ite h h.forward.countSat) (.dupPut (.ite h h.forward.countSat)))) (.ite (.ite h h.forward.countSat) (.dupPut (.ite h
    h.forward.countSat))))))

theorem Part.Canon.ethRx {q : Nat} {f : List Byte} {fcsOk : Bool} {t egress : Instant} :
    (p.ethRx q f fcsOk t egress).Canon :=
  .ite h (.ite h.at.countSat (.ite h.at.rxDrop (by
    dsimp only
    split
    · exact .rxIndep (.ite h.at.countSat.frame h.at.countSat)
    · exact .rxPrp (.ite h.at.countSat.frame h.at.countSat)
    · exact .rxHsr (.ite h.at.countSat.frame h.at.countSat))))

theorem Part.Canon.txFrame {q : Nat} {f : List Byte} {t : Instant} : (p.txFrame q f t).Canon :=
  (h.each (fun _ _ hq => hq.countSat.send)).when (fun _ hq => hq.frame)

theorem Part.Canon.txDone {q status : Nat} {stamp : Option Instant} : (p.txDone q status stamp).Canon :=
  .setFld (by split; exacts [h.storeBytes.storeBytes.storeBytes, h.storeBytes])

theorem Part.Canon.txSend {q a status : Nat} {t : Instant} : (p.txSend q a status t).Canon := h.txFrame.txDone

theorem Part.Canon.txEntry {q : Nat} {t : Instant} : (p.txEntry q t).Canon := by
  dsimp only [Part.txEntry]
  split; exacts [h, .ite h.at.txDone (.ite h.at h.at.txSend)]

theorem Part.Canon.txLaunch {q : Nat} {t : Instant} : (p.txLaunch q t).Canon := by
  dsimp only [Part.txLaunch]
  split
  · exact h
  · exact .ite h.at (.ite h.at.txDone (.ite h.at (.ite h.at.txSend (.ite h.at.txDone h.at.countSat.raise.txSend))))

theorem Part.Canon.supervise {t : Instant} : (p.supervise t).Canon := .ite h h.at.frame.txFrame

/-! The meanings of Machine/Commit. -/

theorem Part.Canon.unitMoved {old : Nat → Word} {a : CUnit} : (p.unitMoved old a).Canon := by
  dsimp only [Part.unitMoved]
  split
  · exact h.cleMoved
  · exact h.senseMoved
  · exact h.pwmMoved
  · exact h.posMoved
  · exact h.capMoved
  · exact h.gpioMoved.showOwn
  · exact h.protMoved
  · exact h.gateMoved
  · exact h.pairMoved
  · exact h.timeMoved
  · exact h.clkMoved
  · exact h

theorem Part.Canon.moveSnap {u : CUnit} {snap : WordFile} : (p.moveSnap u snap).Canon := h.placeSnap.unitMoved

theorem Part.Canon.commitGo {u : CUnit} {tag : Nat} {t : Instant} : (p.commitGo u tag t).Canon :=
  .ite h.at.setReg (by split; exacts [h.at.setReg, h.at.frame.setReg])

theorem Part.Canon.movePending {c : PendCommit} : (p.movePending c).Canon := h.frame.moveSnap

theorem Part.Canon.moveNow {c : PendCommit} : (p.moveNow c).Canon := h.movePending.showMoved

theorem Part.Canon.jointGo {mask tag : Nat} {t : Instant} : (p.jointGo mask tag t).Canon :=
  .ite h.at.setReg (.ite h.at.setReg (by split; exacts [h.at.setReg, h.at.frame.setReg]))

theorem Part.Canon.moveJoint {j : JointCommit} : (p.moveJoint j).Canon :=
  ((h.each (fun _ _ hq => hq.placeSnap)).each (fun _ _ hq => hq.unitMoved)).frame

theorem Part.Canon.moveStopped : p.moveStopped.Canon := by
  unfold Part.moveStopped
  extract_lets p1
  have h1 : p1.Canon := h.each (fun _ _ hq => .ite hq hq.moveNow)
  split; exacts [.ite h1.moveJoint.showMoved h1, h1]

theorem Part.Canon.tickMoves {g : Grp} {boundary : Bool} : (p.tickMoves g boundary).1.Canon := by
  unfold Part.tickMoves
  extract_lets _ p1 _
  have h1 : p1.Canon := h.each (fun _ _ hq => hq.movePending)
  split; exacts [by split; exacts [h1.moveJoint, h1], h1]

/-! The meanings of Machine/Scan. -/

theorem Part.Canon.scanStart {g : Grp} {op : Option Nat} {t : Instant} : (p.scanStart g op t).Canon := h.at.setCg

theorem Part.Canon.scanDrop {g : Grp} : (p.scanDrop g).Canon := h.setCg

theorem Part.Canon.scanCorrelate {g : Grp} : (p.scanCorrelate g).Canon := by
  unfold Part.scanCorrelate
  extract_lets c
  split
  · extract_lets _ _ _ acc
    clear_value acc
    exact .ite h h.setCg
  · exact h

theorem Part.Canon.armRetune {g : Grp} {img : WordFile} {rv : Word} {x : Retune} : (p.armRetune g img rv x).Canon :=
  h.setCg.setFld.gapArm.showGroup.setCg.logEvent

theorem Part.Canon.retune {g : Grp} {ws : List Word} {late : Bool} {l : List ScanResult} : (p.retune g ws late l).Canon :=
  .ite h h.armRetune

theorem Part.Canon.scanComplete {g : Grp} {late : Bool} {t : Instant} : (p.scanComplete g late t).Canon := by
  dsimp only [Part.scanComplete]
  split
  · exact h
  · exact .ite h (.retune (by
        split; exacts [.ite h.at.setCg.setCg.opResult.opDone h.at.setCg.setCg.opResult, h.at.setCg.setCg]))

theorem Part.Canon.scanRevert {g : Grp} {cmd : Nat} : (p.scanRevert g cmd).Canon :=
  .ite h (by dsimp only; split; exacts [h.storeBytes, h.storeBytes.setCg.armRetune])

/-! The meanings of Machine/LongOp. -/

theorem Part.Canon.opWaits {k gerr err : Nat} : (p.opWaits k gerr err).Canon := h.setOp

theorem Part.Canon.opGives {k : Nat} {bs : List Byte} : (p.opGives k bs).Canon :=
  .ite h.opFail (.ite h.opResult.opWaits h.opResult)

theorem Part.Canon.opVerify {k : Nat} : (p.opVerify k).Canon := h.frame.opWaits

theorem Part.Canon.opActivate {k : Nat} : (p.opActivate k).Canon :=
  .ite h.opFail (.ite (.ite h.opFail (.ite h.opFail (.ite h.opFail (by
    dsimp only; split; exacts [h.opFail, h.frame.setCycState.setFld.measure])))) (.ite h.opFail h.setFld.measure.opWaits))

theorem Part.Canon.exchFail {k : Nat} {g : Grp} {err : Nat} : (p.exchFail k g err).Canon := h.setFld.setFld.opFail.showGroup

theorem Part.Canon.loadFigure {g : Grp} {img : WordFile} {coef : Bool} : (p.loadFigure g img coef).Canon :=
  .ite h (h.each (fun _ _ hq => hq.setLane))

theorem Part.Canon.opExchange {k : Nat} : (p.opExchange k).Canon :=
  .ite h.opFail (.ite h.setReg.setFld.exchFail (.ite h.setReg.setFld.exchFail (by
    split
    · exact .exchFail (by split; exacts [.ite h.setReg.setFld.opResult h.setReg.setFld, h.setReg.setFld])
    · exact .ite h.setReg.setFld.exchFail (.ite h.setReg.setFld.exchFail (by
          split; exacts [h.setReg.setFld.setReg.exchFail, h.setReg.setFld.loadFigure.setCg.setFld.measure.gapArm.showGroup]))
    )))

theorem Part.Canon.opRecord {k : Nat} : (p.opRecord k).Canon :=
  .ite h.opFail (by split; exacts [h.opFail, h.frame.opGives])

theorem Part.Canon.opScan {k : Nat} : (p.opScan k).Canon := by
  dsimp only [Part.opScan]
  split; exacts [h.opFail, by split; exacts [h.opFail, .ite h.scanStart h.opFail]]

theorem Part.Canon.opBist {k : Nat} : (p.opBist k).Canon := .ite h.opFail (.ite h.opFail (.ite h.opWaits h.opFail))

theorem Part.Canon.bistRetire {cls n : Nat} : (p.bistRetire cls n).Canon := by
  dsimp only [Part.bistRetire]
  split; exacts [h.setFld.retireLane, h.pairRetire, h.retireUnit]

theorem Part.Canon.bistDone {k : Nat} {fails : BitVec 32} : (p.bistDone k fails).Canon :=
  (h.each (fun _ _ hq => hq.bistRetire)).opResult

theorem Part.Canon.opCal {k : Nat} : (p.opCal k).Canon :=
  .ite h.opFail (.ite h.opFail (.ite h.opFail (.ite h.opFail (.ite h.opFail h.emStore.frame.opWaits))))

theorem Part.Canon.calDone : p.calDone.Canon := by
  unfold Part.calDone
  extract_lets p1 p2 _ p3
  have h1 : p2.Canon := h.emStore.emStore
  have h2 : p3.Canon := h1.frame
  exact h2.loadTrims.measure

theorem Part.Canon.opSwap {k : Nat} : (p.opSwap k).Canon := by
  dsimp only [Part.opSwap]
  split
  · exact h.opFail
  · exact .ite h.opFail (.ite h.opFail (by
        split
        · exact h.startLoad
        · exact h.pairExchange.opDone
        · exact h.pllSwap.opDone
        · exact h.setFld.ringEvt.noteSwap.swapDone
        · exact h.setSdRsv
        · exact h.gateSwapStart
        · exact h.protMap))

theorem Part.Canon.opSafety {k : Nat} {t : Instant} : (p.opSafety k t).Canon :=
  .ite h.opFail (.ite h.opFail (.ite h.opFail (.ite h.opFail (by
    split; exacts [h.opResult.opFail, .ite h.opResult h.opResult.frame.setFld]))))

theorem Part.Canon.opStart {k : Nat} {t : Instant} : (p.opStart k t).Canon := by
  unfold Part.opStart
  extract_lets _ p1
  have h1 : p1.Canon := h.setOp.setOpState
  split
  · exact h1.opVerify
  · exact h1.opActivate
  · exact h1.opExchange
  · exact h1.opRecord
  · exact h1.opScan
  · exact h1.opBist
  · exact h1.opWaits
  · exact h1.opCal
  · exact h1.opGives
  · exact h1.opGives
  · exact h1.opSwap
  · exact .ite h1.promStart h1.opFail
  · exact h1.opSafety
  · exact h1.opFail

theorem Part.Canon.opCmd {k code tag : Nat} {t : Instant} : (p.opCmd k code tag t).Canon :=
  .ite h.at.irq.setBit (.ite h.at.irq.setOp.frame.setReg.setReg h.at.irq.setOp.frame.setReg.setReg.opStart)

theorem Part.Canon.opDequeue {k : Nat} {t : Instant} : (p.opDequeue k t).Canon := .ite h.at.opStart h

theorem Part.Canon.opUndo {k : Nat} : (p.opUndo k).1.Canon := by
  unfold Part.opUndo
  split
  · split; exacts [h.changeAbort, h]
  · extract_lets
    split
    · split; exacts [h, h.setCg.setFld.setFld.showGroup]
    · exact h
  · exact h.each (fun _ _ hq => .ite hq.scanDrop hq)
  · dsimp only
    exact h.frame.emStore
  · dsimp only
    exact (((h.each (fun _ _ hq => .ite hq.abandonLoad hq)).each (fun _ _ hq => .ite hq.setSdRsv hq)).each (fun _ _ hq =>
        .ite hq.setGateSwap hq)).each (fun _ _ hq => .ite hq.protMap hq)
  · exact h.frame.setFld
  · exact h

theorem Part.Canon.opCancel {k : Nat} {t : Instant} : (p.opCancel k t).Canon :=
  .ite h.at.opFail (.ite (.ite h.at.opUndo.opFail h.at.opUndo) h)

theorem Part.Canon.opRelease {k : Nat} : (p.opRelease k).Canon := .ite h.releaseRecords.setReg.setReg.setOp h

theorem Part.Canon.opComplete {k : Nat} {fails : BitVec 32} {found : List EccFind} {t : Instant} :
    (p.opComplete k fails found t).Canon :=
  by
  dsimp only [Part.opComplete]
  split
  · exact .ite h (.ite h.at.setOp.opFail (by
        split
        · exact ((h.at.setOp.when (fun _ hq => hq.frame)).when (fun _ hq => hq.deleteRecord)).opDone
        · exact .ite h.at.setOp.bistDone.opDone h.at.setOp.bistDone
        · exact h.at.setOp.scrubPass.opDone
        · exact h.at.setOp.calDone.opDone
        · exact h.at.setOp.opDone))
  · exact h

/-! The meanings of Machine/Bus. -/

theorem Part.Canon.putLatch {ini : Initiator} {off : Nat} {v : Word} : (p.putLatch ini off v).Canon := h.frame

theorem Part.Canon.readLo {ini : Initiator} {off : Nat} : (p.readLo ini off).1.Canon := .ite h.putLatch.putLatch h.putLatch

theorem Part.Canon.readHi {ini : Initiator} {off : Nat} : (p.readHi ini off).1.Canon := by
  dsimp only [Part.readHi]
  split; exacts [h.frame, h]

theorem Part.Canon.readAct {off : Nat} : CanonOpt (p.readAct off) := by
  unfold Part.readAct
  split
  · exact .map fun _ => h.occRead
  · exact .orElse (.map fun _ => h.vminmaxRead) (.map fun _ => h.vminmaxRead)
  · exact .ite (.ofSome h.capDataRead) (.ite (.ofSome h.capDataRead) .ofNone)
  · exact .ite (.ofSome h.timeNow) .ofNone
  · exact .ofNone

theorem Part.Canon.regRead {ini : Initiator} {off : Nat} : (p.regRead ini off).1.Canon := by
  unfold Part.regRead
  split
  · exact h.decodeError
  · split
    next q hq => exact h.readAct q hq
    next =>
      split
      · exact h.readLo
      · exact h.readHi
      · exact h.readHi
      · exact h

theorem Part.Canon.dmaClosed {ini : Initiator} {c off : Nat} {f : Part → Part} (hf : ∀ q, q.Canon → (f q).Canon) :
    (p.dmaClosed ini c off f).Canon :=
  .ite h.decodeError (hf _ h)

theorem Part.Canon.dmaCtl {c : Nat} {v : Word} : (p.dmaCtl c v).Canon :=
  .ite (.dmaAbort (.ite h h.dmaEn)) (.ite (.dmaSkip (.ite h h.dmaEn)) (.ite (.dmaResume (.ite h h.dmaEn)) (.ite h h.dmaEn)))

theorem Part.Canon.capCtl {g : Grp} {v : Word} : (p.capCtl g v).Canon :=
  ((h.genEnable.when (fun _ hq => hq.cstart)).when (fun _ hq => hq.capStart)).when (fun _ hq => hq.capStop)

theorem Part.Canon.writeAct {ini : Initiator} {off : Nat} {v : Word} : CanonOpt (p.writeAct ini off v) := by
  unfold Part.writeAct
  extract_lets t
  split
  · exact .ofSome (h.when fun _ hq => hq.commitGo)
  · split
    · exact .ite (.ofSome h.swrst) (.ite (.ofSome (h.when fun _ hq => hq.jointGo)) .ofNone)
    · exact .ite (.ofSome h.bandMeasure) .ofNone
    · exact .ite (.ofSome h.secEnroll) (.ite (.ofSome (h.when fun _ hq => hq.debugToken)) .ofNone)
    · exact .ite (.ofSome h.xspiCommand) .ofNone
    · exact .ite (.ofSome h.flagClr) (.orElse (.map fun _ => h.opCmd)
        (.map fun _ => (h.when fun _ hq => hq.opCancel).when fun _ hq => hq.opRelease))
    · exact .orElse (.map fun _ => h.queueCfgWrite) (.orElse (.map fun _ => h.pidxWrite) (.map fun _ => h.cidxWrite))
    · exact .orElse (.map fun _ => h.dmaCtl) (.map fun _ => h.dmaClosed fun _ hq => hq.setReg)
    · exact .ite (.ofSome (((h.when fun _ hq => hq.cycStop).when fun _ hq => hq.cycGo).when fun _ hq => hq.cycRestart))
        .ofNone
    · exact .orElse (.map fun _ => h.capCtl) (.map fun _ => .ite h.runStart h.runStop)
    · exact .ite (.ofSome (h.when fun _ hq => hq.protRearm)) (.map fun _ => h.protMap)
    · exact .orElse (.map fun _ => .ite h.tbStart h.tbStopReq) (.orElse (.map fun _ => h.cmpaWrite)
        (.map fun _ => h.cmpbWrite))
    · exact .ite (.ofSome h.gateTripClr) (.ite (.ofSome h.gateRearm) .ofNone)
    · exact .orElse (.map fun _ => h.posArm) (.map fun _ => h.posListWrite)
    · exact .orElse (.map fun _ => h.rampTarget)
        (.map fun _ => ((h.when fun _ hq => hq.rampSet).when fun _ hq => hq.rampHold).when fun _ hq => hq.rampHold)
    · exact .ite (.ofSome h.swTrig)
        (.ite (.ofSome ((h.when fun _ hq => hq.capProtect).when fun _ hq => hq.deleteRecord)) .ofNone)
    · exact .ite (.ofSome (h.when fun _ hq => hq.rreset)) (.ite (.ofSome (h.when fun _ hq => hq.barArrive)) .ofNone)
    · exact .ite (.ofSome ((h.when fun _ hq => hq.pairOpen).when fun _ hq => hq.pairReq))
        (.map fun _ => h.when fun _ hq => hq.judge)
    · exact .ite (.ofSome h.servoUpdate) (.ite (.ofSome (h.when fun _ hq => hq.timeStep)) .ofNone)
    · exact .ite (.ofSome h.gpioLatch) (.ite (.ofSome h.gpioLatch) (.ite (.ofSome h.gpioLatch) .ofNone))
    · exact .ofNone

theorem Part.Canon.pairAct {ini : Initiator} {lo : Nat} {l h_ : Word} : (p.pairAct ini lo l h_).Canon := by
  dsimp only [Part.pairAct]
  split
  · exact h.queueBaseWrite
  · exact h.dmaClosed (fun _ hq => by split; exacts [hq.setReg.setReg, hq])
  · exact h.ctxWrite
  · exact h.ttb1Write
  · exact .ite h.snapArm (by split; exacts [h.setReg.setReg, h])

theorem Part.Canon.plainWrite {r : RegRow} {off : Nat} {v hw : Word} : (p.plainWrite r off v hw).Canon := h.setReg

theorem Part.Canon.stageWrite {ini : Initiator} {r : RegRow} {off : Nat} {v : Word} : (p.stageWrite ini r off v).Canon := by
  dsimp only [Part.stageWrite]
  split; exacts [h.putHeld, by split; exacts [h.dropHeld.setReg.setReg, h.setReg], h.setReg]

theorem Part.Canon.writeHi {ini : Initiator} {off : Nat} {v : Word} : (p.writeHi ini off v).Canon := by
  dsimp only [Part.writeHi]
  split; exacts [h.dropHeld.pairAct, h.pairAct]

theorem Part.Canon.keepSet {r : RegRow} {off : Nat} {hw : Word} : (p.keepSet r off hw).Canon := .ite h h.setReg

theorem Part.Canon.loRefused {ini : Initiator} {off : Nat} : CanonOpt (p.loRefused ini off) := by
  unfold Part.loRefused
  extract_lets err
  have herr : err.Canon := h.decodeError
  split
  · exact .ite (.ofSome h.queueErr) .ofNone
  · exact .ite (.ofSome herr) .ofNone
  · exact .ite .ofNone (.ofSome herr)
  · exact .ite .ofNone (.ofSome herr)
  · exact .ofNone

theorem Part.Canon.regPut {ini : Initiator} {off : Nat} {v hw : Word} : (p.regPut ini off v hw).Canon := by
  unfold Part.regPut
  split
  · exact h.decodeError
  · refine .ite h.stageWrite ?_
    split
    next q hq => exact (h.writeAct q hq).keepSet
    next => exact .ite (h.loRefused.getD h.putHeld) (.ite h.writeHi h.plainWrite)

theorem Part.Canon.freeBytes {n : Nat} : (p.freeBytes n).1.Canon := h.frame

theorem Part.Canon.busRead {ini : Initiator} {a n : Nat} : (p.busRead ini a n).part.Canon := by
  have h0 : BusData.Canon ⟨p, [], false⟩ := h
  unfold Part.busRead
  split
  · extract_lets bad poison p1
    have h1 : p1.Canon := h.elim fun _ => h.eccFatal
    split
    · exact h1
    · split; exacts [h1.freeBytes, h1]
  · split
    · refine BusData.Canon.foldl h0 fun d e hq => ?_
      split
      next hx => exact .of_fst hx (Part.Canon.regRead hq)
    · split
      · exact h
      · split
        · refine BusData.Canon.foldl h0 fun d e hq => ?_
          extract_lets o
          split; exacts [hq, Part.Canon.decodeError hq]
        · split; exacts [h.freeBytes, h.decodeError]

theorem Part.Canon.busStore {ini : Initiator} {a : Nat} {bs : List Byte}
    {reg : Part → Nat → Word → Part} (hreg : ∀ q x1 x2, q.Canon → (reg q x1 x2).Canon) :
    (p.busStore ini a bs reg).Canon :=
  .ite h.emramWrite (.ite h.storeBytes (.ite (h.foldl (fun _ _ hq => hreg _ _ _ hq)) (.ite (h.each (fun _ _ hq =>
    hq.decodeError)) (.ite h h.decodeError))))

theorem Part.Canon.nodeRead {ini : Initiator} {a n : Nat} {ecc : List EccFind} : (p.nodeRead ini a n ecc).part.Canon := by
  dsimp only [Part.nodeRead]
  split; exacts [h, h.eccFind.busRead]

theorem Part.Canon.nodeStore {ini : Initiator} {a : Nat} {bs : List Byte}
    {reg : Part → Nat → Word → Part} (hreg : ∀ q x1 x2, q.Canon → (reg q x1 x2).Canon) :
    (p.nodeStore ini a bs reg).part.Canon :=
  by
  dsimp only [Part.nodeStore]
  split; exacts [h, h.busStore (fun _ _ _ hq => hreg _ _ _ hq)]

theorem Part.Canon.takeMsg {bs : List Byte} : (p.takeMsg bs).part.Canon := h.freeBytes.produce

theorem Part.Canon.ringAnswer {entry : List Byte} {status : Nat} {data : List Byte} :
    (p.ringAnswer entry status data).Canon :=
  h.produce

theorem Part.Canon.ringSelf {entry : List Byte} {typ addr len : Nat} {data : List Byte} :
    (p.ringSelf entry typ addr len data).Canon :=
  .ite (by
    split; exacts [h.nodeRead, by split; exacts [h.takeMsg, h.nodeStore (fun _ _ _ hq => hq.regPut)]]) (.ringAnswer (by
    split; exacts [h.nodeRead, by split; exacts [h.takeMsg, h.nodeStore (fun _ _ _ hq => hq.regPut)]]))

theorem Part.Canon.ringAsk {q : Nat} {entry : List Byte} : (p.ringAsk q entry).Canon :=
  .ite h.ringAnswer (.ite h.ringSelf.request (.ite h.ringSelf (by split; exacts [h.ringAnswer, h.request])))

theorem Part.Canon.ringTransmit {q n : Nat} : (p.ringTransmit q n).Canon := by
  induction n generalizing p with
  | zero => exact h
  | succ n ih => exact .ite h (ih h.setFld.ringAsk)

theorem Part.Canon.ringSends {off : Nat} : (p.ringSends off).Canon := by
  dsimp only [Part.ringSends]
  split; exacts [h.ringTransmit, h]

theorem Part.Canon.regWrite {ini : Initiator} {off : Nat} {v hw : Word} : (p.regWrite ini off v hw).Canon :=
  h.regPut.ringSends

theorem Part.Canon.busWrite {ini : Initiator} {a : Nat} {bs : List Byte} : (p.busWrite ini a bs).Canon :=
  h.busStore (fun _ _ _ hq => hq.regWrite)

theorem Part.Canon.nodeWrite {ini : Initiator} {a : Nat} {bs : List Byte} : (p.nodeWrite ini a bs).part.Canon :=
  h.nodeStore (fun _ _ _ hq => hq.regWrite)

/-! The meanings of Machine/CleSample. -/

theorem Part.Canon.maskLate {g : Grp} {t : Instant} : (p.maskLate g t).Canon := h.each (fun _ _ hq => hq.laneLate)

theorem Part.Canon.publish {g : Grp} : (p.publish g).Canon :=
  (h.each (fun _ _ hq => hq.setReg)).each (fun _ _ hq => hq.when (fun _ hr => hr.capLevel))

theorem Part.Canon.noMajority {g : Grp} {t : Instant} : (p.noMajority g t).Canon := by
  unfold Part.noMajority
  extract_lets _ _ p1
  have h1 : p1.Canon := h.setGmode.raise.restoreHold.countSat.abandonLoad
  exact .capEvent (.ite h1.setCg.setBit.requestCut h1.setCg)

theorem Part.Canon.majority {g : Grp} {bad : List Nat} : (p.majority g bad).Canon :=
  (h.each (fun _ _ hq => hq.outvote)).setCg.setBit.showMode.copyRegisters.chooseSpare

theorem Part.Canon.noteEnd {g : Grp} {t : Instant} : (p.noteEnd g t).Canon := h.setFld.setFld

theorem Part.Canon.compareSigs {g : Grp} {t : Instant} : (p.compareSigs g t).Canon := by
  unfold Part.compareSigs
  extract_lets p1 a d p2 p3 b p4 
  have h2 : p2.Canon := h.maskLate.voteRest.noteEnd.gridFinish
  clear_value d
  have h3 : p3.Canon := by unfold p3; split; exacts [h2.majority, h2.noMajority]
  have h4 : p4.Canon := (h3.each fun _ _ hq => hq.settleMasked).publish
  exact ((h4.captureSample.correlateSample.scanCorrelate.setCg.gapDecide.when fun _ hq => hq.sendMirror).when
    fun _ hq => hq.mirrorAtEnd).showGroup

/-! The meanings of Machine/HelS. -/

theorem Part.Canon.doubleFault {k : Nat} {epc esr : Word} : (p.doubleFault k epc esr).Canon :=
  h.countSat.hostFault.logEvent.wdFire.setSlot

theorem Part.Canon.except {k cause info : Nat} {eva epc : Word} : (p.except k cause info eva epc).Canon :=
  .ite h.doubleFault (.ite h.setSlot.setReg.setReg h.setSlot)

theorem Part.Canon.fault {k cause info : Nat} {eva : Word} : (p.fault k cause info eva).Canon := h.except

theorem Part.Canon.illegal {k detail : Nat} : (p.illegal k detail).Canon := h.fault

theorem Part.Canon.takeIrq {k i : Nat} : (p.takeIrq k i).Canon := .ite h.setSlot h

theorem Part.Canon.instrWord {k pa attr : Nat} : (p.instrWord k pa attr).1.Canon := by
  dsimp only [Part.instrWord]
  split; exacts [h, by split; exacts [h.eccFatal, by split; exacts [h, by split; exacts [h.setSlot, h.taken.setSlot]]]]

theorem Part.Canon.fetchS {k : Nat} : (p.fetchS k).1.Canon := by
  dsimp only [Part.fetchS]
  split; exacts [h.slotXlate, by split; exacts [h.slotXlate, h.slotXlate.instrWord]]

theorem Part.Canon.issueS {h_ : SHead} {act : Part → Nat → Part} (hact : ∀ q x1, q.Canon → (act q x1).Canon) :
    (p.issueS h_ act).Canon :=
  .ite h.at (by
    dsimp only
    split
    · exact h.at.setSlot.eccFind.fetchS.fault
    · exact .ite h.at.setSlot.eccFind.fetchS.illegal (hact _ _ h.at.setSlot.eccFind.fetchS))

theorem Part.Canon.retire {k : Nat} {f : CoreSlot → CoreSlot} : (p.retire k f).Canon := h.setSlot

theorem Part.Canon.monitorOnly {k : Nat} {act : Part → Part} (hact : ∀ q, q.Canon → (act q).Canon) :
    (p.monitorOnly k act).Canon :=
  .ite h.illegal (hact _ h)

/-! The meanings of Machine/HelMem. -/

theorem Part.Canon.partXlate {k va n : Nat} {acc : Acc} {read second : Bool} :
    (p.partXlate k va n acc read second).1.Canon :=
  by
  dsimp only [Part.partXlate]
  split; exacts [h.slotXlate, h.slotXlate]

theorem Part.Canon.xlateAll {k va n : Nat} {acc : Acc} {read : Bool} : (p.xlateAll k va n acc read).1.Canon := by
  dsimp only [Part.xlateAll]
  split; exacts [h, h.partXlate, h.partXlate.partXlate]

theorem Part.Canon.raiseFault {k : Nat} {e : AccFault} : (p.raiseFault k e).Canon :=
  .fault (h.elim fun _ => h.eccFatal)

theorem Part.Canon.access {k : Nat} {va : Word} {n unit : Nat} {strict : Bool} {acc : Acc} {read : Bool}
    {act : Part → List Piece → Part} (hact : ∀ q l, q.Canon → (act q l).Canon) :
    (p.access k va n unit strict acc read act).Canon := by
  unfold Part.access
  generalize hx : (if n = 0 then (p, []) else p.xlateAll k va.toNat n acc read) = x
  have h1 : x.1.Canon := hx ▸ .iteFst h h.xlateAll
  refine .ite h1.illegal (.ite h1.fault ?_)
  split
  · exact h1.raiseFault
  · exact hact _ _ h1

theorem Part.Canon.readPieces {k : Nat} {l : List Piece} : (p.readPieces k l).1.Canon :=
  .foldlFst h (fun _ _ hq => hq.busRead)

theorem Part.Canon.writePieces {k : Nat} {bs : List Byte} {l : List Piece} : (p.writePieces k bs l).Canon := by
  induction l generalizing p bs with
  | nil => exact h
  | cons x l ih => exact ih h.busWrite

theorem Part.Canon.copyUnit {k : Nat} : (p.copyUnit k).1.Canon := by
  dsimp only [Part.copyUnit]
  split
  · exact h.xlateAll.xlateAll.illegal
  · split
    · exact h.xlateAll.xlateAll.fault
    · split; exacts [h.xlateAll.xlateAll.raiseFault, h.xlateAll.xlateAll.readPieces.writePieces.setSlot]

theorem Part.Canon.copyUnits {k n : Nat} : (p.copyUnits k n).Canon := by
  induction n generalizing p with
  | zero => exact .ite h.retire h
  | succ n ih => exact .ite h.retire (.ite (ih h.copyUnit) h.copyUnit)

/-! The meanings of Machine/DmaBeat. -/

theorem Part.Canon.dmaTake {c : Nat} {t : Instant} : (p.dmaTake c t).Canon :=
  (h.each (fun _ _ hq => .ite hq.setBit (.ite (hq.setBit.when (fun _ hr => hr.countWrap)) hq))).frame

theorem Part.Canon.ioParts {c : Nat} {acc : Acc} {l : List (Nat × Nat)} : (p.ioParts c acc l).1.Canon := by
  induction l generalizing p with
  | nil => exact h
  | cons x l ih =>
    obtain ⟨va, n⟩ := x
    have hx := h.ioXlate (c := c) (va := va) (acc := acc) (task := p.dmaTask c)
    dsimp only [Part.ioParts]
    split
    · exact hx
    · exact hx
    · exact hx
    · exact ih hx

theorem Part.Canon.dmaPlace {c a n : Nat} {acc : Acc} : (p.dmaPlace c a n acc).1.Canon := by
  dsimp only [Part.dmaPlace]
  split; exacts [h, by split; exacts [h, h.ioParts]]

theorem Part.Canon.dmaRead {c : Nat} {l : List (Nat × Nat)} : (p.dmaRead c l).1.Canon := by
  induction l generalizing p with
  | nil => exact h
  | cons x l ih => exact ih h.busRead

theorem Part.Canon.dmaWrite {c : Nat} {bs : List Byte} {l : List (Nat × Nat)} : (p.dmaWrite c bs l).Canon := by
  induction l generalizing p bs with
  | nil => exact h
  | cons x l ih => exact ih h.busWrite

theorem Part.Canon.beatEnd {c n : Nat} : (p.beatEnd c n).Canon := by
  unfold Part.beatEnd
  extract_lets _ p1 p2 p3
  have h1 : p1.Canon := h.beatGone.countWrap
  have h2 : p2.Canon := .ite h1 h1.setPair
  have h3 : p3.Canon := .ite h2 h2.setPair
  exact .ite h3.setFld.descDone h3.setFld

theorem Part.Canon.dmaRequest {c typ a len : Nat} {bs : List Byte} : (p.dmaRequest c typ a len bs).Canon :=
  .ite h.descDone h.request

theorem Part.Canon.beatData {c : Nat} {bs : List Byte} : (p.beatData c bs).Canon := by
  dsimp only [Part.beatData]
  split
  · exact h
  · split
    · exact .ite (.beatEnd (.busWrite (.request (.ite h.setDma h)))) (.dmaRequest (.ite h.setDma h))
    · exact .beatEnd (.dmaWrite (.ite h.setDma h))

theorem Part.Canon.beatFault {c : Nat} {f : Nat × Nat × Nat} {wr : Bool} : (p.beatFault c f wr).Canon := h.dmaHalt

theorem Part.Canon.beat {c : Nat} {ecc : List EccFind} : (p.beat c ecc).Canon := by
  have hplace (q : Part) (hq : q.Canon) (n a : Nat) (acc : Acc) (b : Prop) [Decidable b] :
    (if b then (q, .ok (.here [])) else q.dmaPlace c a n acc).1.Canon := .iteFst hq hq.dmaPlace
  unfold Part.beat
  extract_lets n m csrc 
  split
  next q src hq =>
  have h1 : q.Canon := .of_fst hq (hplace p h _ _ _ _)
  split
  · exact h1.beatFault
  · extract_lets cdst
    split
    next q src hq =>
    have h2 : q.Canon := .of_fst hq (hplace _ h1 _ _ _ _)
    split
    · exact h2.beatFault
    · extract_lets b _ p1
      have h3 : p1.Canon := h2.setDma
      refine .ite h3.beatData ?_
      split
      · exact h3.dmaRequest
      · extract_lets p2
        have h4 : p2.Canon := h3.eccFind
        split
        · exact h4.eccFatal.beatGone.beatFault
        · exact h4.dmaRead.beatData

/-! The meanings of Machine/RingExec. -/

omit h in
theorem NodeAnswer.counted_canon {x : NodeAnswer} (h : x.part.Canon) : x.counted.part.Canon := h.when fun _ hq => hq.countSat

theorem Part.Canon.complete {x : RingHdr} {a : NodeAnswer} {withData : Bool} : (p.complete x a withData).Canon := h.originate

theorem Part.Canon.execRequest {f : RingFrame} {ecc : List EccFind} : (p.execRequest f ecc).Canon := by
  have hw : (p.nodeWrite .ring (hdrOf f.hdr).addr f.payload).counted.part.Canon := NodeAnswer.counted_canon h.nodeWrite
  unfold Part.execRequest
  extract_lets x n a b c
  have ha : a.part.Canon := by unfold a; split; exacts [h, NodeAnswer.counted_canon h.nodeRead]
  split
  · exact ha.complete
  · exact hw.complete
  · exact hw
  · exact h.takeMsg.complete
  · exact h

theorem Part.Canon.setRingSrc {x : RingSource} : (p.setRingSrc x).Canon := h.frame

theorem Part.Canon.drainHeld {src : Nat} {bcast : Bool} {ecc : List EccFind} {n : Nat} :
    (p.drainHeld src bcast ecc n).Canon := by
  induction n generalizing p with
  | zero => exact h
  | succ n ih =>
    dsimp only [Part.drainHeld]
    split
    · exact h
    · exact ih h.setRingSrc.execRequest

theorem Part.Canon.receive {f : RingFrame} {x : RingHdr} {ecc : List EccFind} : (p.receive f x ecc).Canon :=
  .ite h.countSat (.ite h.setRingSrc.execRequest.drainHeld (.ite h.setRingSrc h.setRingSrc.execRequest))

theorem Part.Canon.gapSkip {src : Nat} {bcast : Bool} {ecc : List EccFind} : (p.gapSkip src bcast ecc).Canon := by
  dsimp only [Part.gapSkip]
  split; exacts [h, by split; exacts [h, .ite h h.setRingSrc.countSat.drainHeld]]

theorem Part.Canon.requestDone {r : RingReq} {data : List Byte} : (p.requestDone r data).Canon := by
  dsimp only [Part.requestDone]
  split; exacts [.ite h.beatData h.beatEnd, .ite h.moduleGood h.setBit, h.hostPiece, h.hspiPiece, h.ringAnswer]

theorem Part.Canon.completion {f : RingFrame} {x : RingHdr} : (p.completion f x).Canon := by
  dsimp only [Part.completion]
  split; exacts [h.countSat, .pump (.ite h.frame.requestDone h.frame.requestFailed)]

theorem Part.Canon.moduleRequest {m : Nat} {r : RingReq} : (p.moduleRequest m r).Canon := h.frame.request

theorem Part.Canon.moduleRead {x : CycModule} {ecc : List EccFind} : (p.moduleRead x ecc).Canon :=
  .ite (.ite h.nodeRead.moduleGood h.nodeRead) (.ite h h.moduleRequest)

theorem Part.Canon.moduleSend {x : CycModule} : (p.moduleSend x).Canon :=
  .ite h.nodeWrite.setBit (.ite h.setBit (.ite h.nodeWrite.setBit.moduleRequest h.moduleRequest))

/-! The meanings of Machine/HostPort. -/

theorem Part.Canon.hostNew : p.hostNew.2.Canon := h.frame

theorem Part.Canon.hostConflict {x : HostAcc} : (p.hostConflict x).Canon := by
  unfold Part.hostConflict
  extract_lets _ p1
  have h1 : p1.Canon := h.taken.setBit.setFld.setFld
  exact .ite h1.setPair h1.setPair.send

theorem Part.Canon.hostCarry {x : HostAcc} {node a : Nat} {bs : List Byte} {ecc : List EccFind} :
    (p.hostCarry x node a bs ecc).Canon :=
  .ite (.hostDone (by
    split; exacts [h.nodeWrite, h.nodeRead])) (.ite h.hostConflict (h.hostNew.frame.each (fun _ _ hq => hq.request)))

theorem Part.Canon.hostAccess {bar2 write : Bool} {addr n : Nat} {bs : List Byte} {ecc : List EccFind} :
    (p.hostAccess bar2 write addr n bs ecc).Canon :=
  .ite h (by split; exacts [h.hostCarry, .ite (.ite h.taken.decodeError h) (.send (.ite h.taken.decodeError h))])

theorem Part.Canon.hspiLive : p.hspiLive.Canon := .ite h h.setBit.irq

theorem Part.Canon.hspiStart {go : Part → Part} (hgo : ∀ q, q.Canon → (go q).Canon) : (p.hspiStart go).Canon :=
  .ite h.hspiLive.frame (hgo _ h.hspiLive.frame)

theorem Part.Canon.hspiCarry {addr : Nat} {write : Bool} {n : Nat} {bs : List Byte} {ecc : List EccFind} :
    (p.hspiCarry addr write n bs ecc).Canon :=
  .ite (.hspiDone (by
    split; exacts [h.nodeWrite, h.nodeRead])) (.ite h.hostConflict.frame (.ite h.request.busWrite.hspiDone (by
    split; exacts [h.hspiDone, .ite h.hspiDone h.frame.request])))

/-! The meanings of Machine/Tick. -/

theorem Part.Canon.tickCommits {g : Grp} {boundary : Bool} {x : Option Exchange} : (p.tickCommits g boundary x).1.Canon := by
  have h1 : (p.tickMoves g boundary).1.Canon := h.tickMoves
  unfold Part.tickCommits
  split
  next q shows hq =>
  have h2 : q.Canon := .of_fst hq h1
  split
  · exact h2
  · dsimp only
    split <;> dsimp only
    · exact h2.moveWords.moveSnap
    · exact h2.moveWords

theorem Part.Canon.tickInputs {q : Part} {g : Grp} {edges : List (Nat × Nat)} {first : Bool} :
    (p.tickInputs q g edges first).Canon :=
  h.senseTick.auxTick.posTicks.rampTicks.fillPorts

theorem Part.Canon.tickStops {g : Grp} {t : Instant} : (p.tickStops g t).Canon := .ite h.haltGroup (.ite h.stopGroup h)

theorem Part.Canon.tickFigure {g : Grp} {x : Option Exchange} {t : Instant} : (p.tickFigure g x t).Canon := by
  unfold Part.tickFigure
  extract_lets p1 p2 p3 q p4
  have h2 : p2.Canon := (h.when fun _ hq => hq.regionTick).setCg
  have h3 : p3.Canon := by unfold p3; split; exacts [h2.switchFigure, h2.when fun _ hq => hq.joinLane]
  have h4 : p4.Canon := .ite (h3.startGroup.when fun _ hq => hq.regionTick) h3
  exact .ite h4.beginSample.gridMeasure.genTick h4

theorem Part.Canon.tick {g : Grp} {t : Instant} {edges : List (Nat × Nat)} : (p.tick g t edges).Canon :=
  ((h.tickCommits.transfer.when (fun _ hq => hq.gateSwapPeriod)).each (fun _ _ hq =>
    hq.showMoved)).floorTick.tickInputs.tickStops.tickFigure.scheduleGroup.sendHeartbeat.setTb

end

end Sys2Proof.Machine
end

section
/-! PROOFS. Every command keeps the canonical form, and with it every step. -/

namespace Sys2Proof.Machine

section
variable {s : State} (hs : s.part.Canon)
include hs

/-- The forms of a slot's command. -/
theorem State.issueS_canon {o : SHead} {act : Part → Nat → Part} (ha : ∀ p k, p.Canon → (act p k).Canon) :
    KeepsCanon (s.issueS o act) := State.run_canon hs fun _ h => h.issueS ha

theorem State.alu_canon {o : SAlu} {f : BitVec 64 → Word → Word → Word × SFlags} : KeepsCanon (s.alu o f) :=
  State.issueS_canon hs fun _ _ h => h.taken.retire

theorem State.alu0_canon {o : SAlu} {f : BitVec 64 → Word → Word → Word} : KeepsCanon (s.alu0 o f) := State.alu_canon hs

theorem State.divide_canon {o : SAlu} {f : Int → Int → Int} : KeepsCanon (s.divide o f) :=
  State.issueS_canon hs fun _ _ h => h.taken.retire

theorem State.fp_canon {o : SFp} {f : CoreSlot → Word → Word → Word} : KeepsCanon (s.fp o f) :=
  State.issueS_canon hs fun _ _ h => h.retire

theorem State.sized_canon {o : SMem} {act : Part → Nat → Part} (ha : ∀ p k, p.Canon → (act p k).Canon) :
    KeepsCanon (s.sized o act) := State.issueS_canon hs fun _ _ h => .ite h.illegal (ha _ _ h)

theorem State.atomic_canon {o : SMem} {acc : Acc} {read : Bool} {act : Part → Nat → List Piece → Part}
    (ha : ∀ p k l, p.Canon → (act p k l).Canon) : KeepsCanon (s.atomic o acc read act) :=
  State.issueS_canon hs fun _ _ h => h.access fun _ _ hq => ha _ _ _ hq

theorem State.exchange_canon {o : SMem} {new : CoreSlot → Word → Option Word} : KeepsCanon (s.exchange o new) := by
  refine State.atomic_canon hs fun p k l h => ?_
  have h1 : (p.readPieces k l).1.Canon := h.readPieces
  refine Part.Canon.retire ?_
  split; exacts [h1.writePieces, h1]

theorem State.xlinv_canon {o : SInv} {sfn : Nat} : KeepsCanon (s.xlinv o sfn) :=
  State.issueS_canon hs fun _ _ h => h.monitorOnly fun _ hq => hq.invalidate

theorem execRegisterWrite_canon {ini off v hwSet t} : KeepsCanon (execRegisterWrite ini off v hwSet t s) :=
  State.run_canon hs fun _ h => h.at.regWrite

theorem execPairLoRead_canon {ini off} : KeepsCanon (execPairLoRead ini off s) := by
  refine State.run_canon hs fun p h => ?_
  dsimp only
  split; exacts [h.readLo.answer, h]

theorem execPairHiRead_canon {ini off} : KeepsCanon (execPairHiRead ini off s) := by
  refine State.run_canon hs fun p h => ?_
  dsimp only
  split; exacts [h.readHi.answer, h]

theorem execPairLoWrite_canon {ini off v} : KeepsCanon (execPairLoWrite ini off v s) := by
  refine State.run_canon hs fun _ h => ?_
  split; exacts [.ite h.regWrite h, h]

theorem execPairHiWrite_canon {ini off v t} : KeepsCanon (execPairHiWrite ini off v t s) := by
  refine State.run_canon hs fun _ h => ?_
  split; exacts [.ite h.at.regWrite h, h]

theorem execStagedWrite_canon {ini off v} : KeepsCanon (execStagedWrite ini off v s) := by
  refine State.run_canon hs fun _ h => ?_
  split; exacts [.ite h h.stageWrite, h]

theorem execCommitGo_canon {u tag t} : KeepsCanon (execCommitGo u tag t s) := State.run_canon hs fun _ h => h.commitGo

theorem execCommitMove_canon {u t} : KeepsCanon (execCommitMove u t s) := by
  refine State.run_canon hs fun _ h => ?_
  split; exacts [.ite h h.at.moveNow, h]

theorem execSysJcommitGo_canon {mask tag t} : KeepsCanon (execSysJcommitGo mask tag t s) :=
  State.run_canon hs fun _ h => h.jointGo

theorem execJointCommitMove_canon {t} : KeepsCanon (execJointCommitMove t s) := by
  refine State.run_canon hs fun _ h => ?_
  split; exacts [.ite h.at.moveJoint.showMoved h, h]

theorem execDecodeErrorAccess_canon {ini addr isWrite v} : KeepsCanon (execDecodeErrorAccess ini addr isWrite v s) :=
  State.run_canon hs fun _ h => h.decodeError.when (fun _ hq => hq.answer)

theorem execSysSwrst_canon {v t} : KeepsCanon (execSysSwrst v t s) := State.runRom_canon hs fun _ h => h.swrst

theorem execSysOccRead_canon {reg} : KeepsCanon (execSysOccRead reg s) := State.run_canon hs fun _ h => h.occRead

theorem execTransactionEntryGrant_canon {ini ends} : KeepsCanon (execTransactionEntryGrant ini ends s) := by
  refine State.run_canon hs fun _ h => ?_
  extract_lets p1
  have h1 : p1.Canon := h.each (fun _ _ hq => hq.endTransaction)
  split; exacts [h1.askEntry, h1]

theorem execGpioEdge_canon {pin level} : KeepsCanon (execGpioEdge pin level s) := State.run_canon hs fun _ h => h.gpioLevel

theorem execGpioLatchWrite_canon {kind v} : KeepsCanon (execGpioLatchWrite kind v s) :=
  State.run_canon hs fun _ h => h.gpioLatch

theorem execTempoTick_canon {g t edges} : KeepsCanon (execTempoTick g t edges s) :=
  State.run_canon hs fun _ h => .ite h (by split; exacts [h.at.tick, h])

theorem execTransientWindowEnd_canon {g} : KeepsCanon (execTransientWindowEnd g s) := by
  refine State.run_canon hs fun _ h => ?_
  dsimp only
  split; exacts [.ite h.setGrid h, h]

theorem execTransientRearm_canon {g} : KeepsCanon (execTransientRearm g s) :=
  State.run_canon hs fun _ h => h.when (fun _ hq => hq.setGrid)

theorem execProfileViolation_canon {g} : KeepsCanon (execProfileViolation g s) := by
  refine State.run_canon hs fun _ h => ?_
  dsimp only
  split; exacts [.ite h (.ite h.setGrid h.setGrid.logEvent), h]

theorem execProfileEpisodeEnd_canon {g} : KeepsCanon (execProfileEpisodeEnd g s) :=
  State.run_canon hs fun _ h => h.when (fun _ hq => hq.setGrid)

theorem execRideEnd_canon {g} : KeepsCanon (execRideEnd g s) :=
  State.run_canon hs fun _ h => h.when (fun _ hq => hq.gridMove)

theorem execPremagnetisationEnd_canon {g} : KeepsCanon (execPremagnetisationEnd g s) :=
  State.run_canon hs fun _ h => h.when (fun _ hq => hq.setGrid)

theorem execFormRampComplete_canon {g} : KeepsCanon (execFormRampComplete g s) :=
  State.run_canon hs fun _ h => h.when (fun _ hq => hq.gridMove)

theorem execSeqcmdCharge_canon {g} : KeepsCanon (execSeqcmdCharge g s) := State.run_canon hs fun _ h => h.gridCommand

theorem execSeqcmdReady_canon {g} : KeepsCanon (execSeqcmdReady g s) := State.run_canon hs fun _ h => h.gridCommand

theorem execSeqcmdForm_canon {g} : KeepsCanon (execSeqcmdForm g s) := State.run_canon hs fun _ h => h.gridCommand

theorem execSeqcmdSync_canon {g} : KeepsCanon (execSeqcmdSync g s) := State.run_canon hs fun _ h => h.gridCommand

theorem execSeqcmdOnline_canon {g} : KeepsCanon (execSeqcmdOnline g s) := State.run_canon hs fun _ h => h.gridCommand

theorem execSeqcmdIsland_canon {g} : KeepsCanon (execSeqcmdIsland g s) := State.run_canon hs fun _ h => h.gridCommand

theorem execSeqcmdTrip_canon {g} : KeepsCanon (execSeqcmdTrip g s) := State.run_canon hs fun _ h => h.gridCommand

theorem execSeqcmdOff_canon {g} : KeepsCanon (execSeqcmdOff g s) := State.run_canon hs fun _ h => h.gridCommand

theorem execSeqHostStart_canon {t} : KeepsCanon (execSeqHostStart t s) :=
  State.run_canon hs fun _ h => h.at.libHost (fun _ _ _ hq => .ite hq.libCharge hq.libPhase)

theorem execSeqHostStop_canon {t} : KeepsCanon (execSeqHostStop t s) :=
  State.run_canon hs fun _ h => .ite h.at (h.at.libHost (fun _ _ _ hq => hq.libPhase))

theorem execSeqHostReset_canon {t} : KeepsCanon (execSeqHostReset t s) :=
  State.run_canon hs fun _ h => h.at.libHost (fun _ _ _ hq => hq.libSend)

theorem execSeqHostCharge_canon {t} : KeepsCanon (execSeqHostCharge t s) :=
  State.run_canon hs fun _ h => h.at.libHost (fun _ _ _ hq => hq.libCharge)

theorem execSeqHostOff_canon {t} : KeepsCanon (execSeqHostOff t s) :=
  State.run_canon hs fun _ h => h.at.libHost (fun _ _ _ hq => hq.libSend.libPhase)

theorem execSeqTcommit_canon {t} : KeepsCanon (execSeqTcommit t s) :=
  State.run_canon hs fun _ h => .ite h.at (by dsimp only; split; exacts [h.at.frame.libReport, h.at.frame.frame])

theorem execPrechargeTimeout_canon {t} : KeepsCanon (execPrechargeTimeout t s) := by
  refine State.run_canon hs fun _ h => ?_
  dsimp only
  split; exacts [.ite h.at.libTrip.frame h.at, h.at]

theorem execSyncWindowsHeld_canon {t} : KeepsCanon (execSyncWindowsHeld t s) := by
  refine State.run_canon hs fun _ h => ?_
  dsimp only
  split; exacts [.ite h.at.libClose h.at, h.at]

theorem execCb1FeedbackTimeout_canon {t} : KeepsCanon (execCb1FeedbackTimeout t s) := by
  refine State.run_canon hs fun _ h => ?_
  dsimp only
  split; exacts [.ite h.at.libTrip.frame h.at, h.at]

theorem execSyncTimeout_canon {t} : KeepsCanon (execSyncTimeout t s) := by
  refine State.run_canon hs fun _ h => ?_
  dsimp only
  split; exacts [.ite h.at.taken.libSend.libReport.libPhase h.at, h.at]

theorem execFirstMoverSlotExpiry_canon {t} : KeepsCanon (execFirstMoverSlotExpiry t s) := by
  refine State.run_canon hs fun _ h => ?_
  dsimp only
  split; exacts [.ite h.at (.ite h.at.libSync (.ite h.at.libPhase.libClose h.at.frame)), h.at]

theorem execStopTimeout_canon {t} : KeepsCanon (execStopTimeout t s) := by
  refine State.run_canon hs fun _ h => ?_
  dsimp only
  split; exacts [.ite h.at.libSend.libPhase h.at, h.at]

theorem execDcLinkOutOfBand_canon {t} : KeepsCanon (execDcLinkOutOfBand t s) := by
  refine State.run_canon hs fun _ h => ?_
  dsimp only
  split; exacts [.ite h.at.libTrip.frame h.at, h.at]

theorem execVoterWord_canon {g} : KeepsCanon (execVoterWord g s) := State.run_canon hs fun _ h => h.voteWord

theorem execPwmWindowClose_canon {g} : KeepsCanon (execPwmWindowClose g s) :=
  State.run_canon hs fun _ h => h.when (fun _ hq => hq.setCg)

theorem execSignatureComparison_canon {g t} : KeepsCanon (execSignatureComparison g t s) :=
  State.run_canon hs fun _ h => .ite h.at.compareSigs h

theorem execLaneLate_canon {lane t} : KeepsCanon (execLaneLate lane t s) := State.run_canon hs fun _ h => h.at.laneLate

theorem execReserveCopyComplete_canon {g} : KeepsCanon (execReserveCopyComplete g s) :=
  State.run_canon hs fun _ h => h.copyComplete

theorem execLaneBistComplete_canon {lane pass} : KeepsCanon (execLaneBistComplete lane pass s) :=
  State.run_canon hs fun _ h => h.bistEnd

theorem execLaneHardFault_canon {lane parity t} : KeepsCanon (execLaneHardFault lane parity t s) :=
  State.run_canon hs fun _ h => h.at.laneFault

theorem execMismatchWindowClose_canon {lane t} : KeepsCanon (execMismatchWindowClose lane t s) :=
  State.run_canon hs fun _ h => h.at.setLane

theorem execLaneEccCorrected_canon {lane} : KeepsCanon (execLaneEccCorrected lane s) :=
  State.run_canon hs fun _ h => h.countSat.frame

theorem execFadeEnd_canon {g} : KeepsCanon (execFadeEnd g s) := State.run_canon hs fun _ h => .ite h h.setCg.showFade

theorem execCleRunStart_canon {g} : KeepsCanon (execCleRunStart g s) := State.run_canon hs fun _ h => h.runStart

theorem execCleRunStop_canon {g} : KeepsCanon (execCleRunStop g s) := State.run_canon hs fun _ h => h.runStop

theorem execCstart_canon {g} : KeepsCanon (execCstart g s) := State.run_canon hs fun _ h => h.cstart

theorem execCorrelationDone_canon {g} : KeepsCanon (execCorrelationDone g s) :=
  State.run_canon hs fun _ h => h.correlationDone

theorem execCapstart_canon {g} : KeepsCanon (execCapstart g s) := State.run_canon hs fun _ h => h.capStart

theorem execCapstop_canon {g} : KeepsCanon (execCapstop g s) := State.run_canon hs fun _ h => h.capStop

theorem execCaptureFull_canon {g} : KeepsCanon (execCaptureFull g s) :=
  State.run_canon hs fun _ h => h.when (fun _ hq => hq.setBit)

theorem execGeneratorEnable_canon {g on} : KeepsCanon (execGeneratorEnable g on s) :=
  State.run_canon hs fun _ h => h.genEnable

theorem execCapdataRead_canon {g} : KeepsCanon (execCapdataRead g s) := State.run_canon hs fun _ h => h.capDataRead

theorem execScanPeriodExpiry_canon {g t} : KeepsCanon (execScanPeriodExpiry g t s) :=
  State.run_canon hs fun _ h => .ite (.ite h.scanStart h.scanDrop) h

theorem execScanComplete_canon {g late t} : KeepsCanon (execScanComplete g late t s) :=
  State.run_canon hs fun _ h => h.scanComplete

theorem execScanRevertLast_canon {g t} : KeepsCanon (execScanRevertLast g t s) :=
  State.run_canon hs fun _ h => h.at.scanRevert

theorem execScanRevertAll_canon {g t} : KeepsCanon (execScanRevertAll g t s) := State.run_canon hs fun _ h => h.at.scanRevert

theorem execVNop_canon {o} : KeepsCanon (execVNop o s) := State.run_canon hs fun _ h => h.issue

theorem execVFadd_canon {o} : KeepsCanon (execVFadd o s) := State.run_canon hs fun _ h => h.issue

theorem execVFsub_canon {o} : KeepsCanon (execVFsub o s) := State.run_canon hs fun _ h => h.issue

theorem execVFmul_canon {o} : KeepsCanon (execVFmul o s) := State.run_canon hs fun _ h => h.issue

theorem execVFma_canon {o} : KeepsCanon (execVFma o s) := State.run_canon hs fun _ h => h.issue

theorem execVFnma_canon {o} : KeepsCanon (execVFnma o s) := State.run_canon hs fun _ h => h.issue

theorem execVFmin_canon {o} : KeepsCanon (execVFmin o s) := State.run_canon hs fun _ h => h.issue

theorem execVFmax_canon {o} : KeepsCanon (execVFmax o s) := State.run_canon hs fun _ h => h.issue

theorem execVFabs_canon {o} : KeepsCanon (execVFabs o s) := State.run_canon hs fun _ h => h.issue

theorem execVFneg_canon {o} : KeepsCanon (execVFneg o s) := State.run_canon hs fun _ h => h.issue

theorem execVFmov_canon {o} : KeepsCanon (execVFmov o s) := State.run_canon hs fun _ h => h.issue

theorem execVFcmp_canon {o} : KeepsCanon (execVFcmp o s) := State.run_canon hs fun _ h => h.issue

theorem execVSel_canon {o} : KeepsCanon (execVSel o s) := State.run_canon hs fun _ h => h.issue

theorem execVSat_canon {o} : KeepsCanon (execVSat o s) := State.run_canon hs fun _ h => h.issue

theorem execVIntg_canon {o} : KeepsCanon (execVIntg o s) := State.run_canon hs fun _ h => h.issue

theorem execVAccd_canon {o} : KeepsCanon (execVAccd o s) := State.run_canon hs fun _ h => h.issue

theorem execVFtst_canon {o} : KeepsCanon (execVFtst o s) := State.run_canon hs fun _ h => h.issue

theorem execVPlog_canon {o} : KeepsCanon (execVPlog o s) := State.run_canon hs fun _ h => h.issue

theorem execVIand_canon {o} : KeepsCanon (execVIand o s) := State.run_canon hs fun _ h => h.issue

theorem execVIor_canon {o} : KeepsCanon (execVIor o s) := State.run_canon hs fun _ h => h.issue

theorem execVIxor_canon {o} : KeepsCanon (execVIxor o s) := State.run_canon hs fun _ h => h.issue

theorem execVIshl_canon {o} : KeepsCanon (execVIshl o s) := State.run_canon hs fun _ h => h.issue

theorem execVIshr_canon {o} : KeepsCanon (execVIshr o s) := State.run_canon hs fun _ h => h.issue

theorem execVIcmp_canon {o} : KeepsCanon (execVIcmp o s) := State.run_canon hs fun _ h => h.issue

theorem execVPins_canon {o} : KeepsCanon (execVPins o s) := State.run_canon hs fun _ h => h.issue

theorem execVCvti_canon {o} : KeepsCanon (execVCvti o s) := State.run_canon hs fun _ h => h.issue

theorem execVCvtf_canon {o} : KeepsCanon (execVCvtf o s) := State.run_canon hs fun _ h => h.issue

theorem execVLd_canon {o} : KeepsCanon (execVLd o s) := State.run_canon hs fun _ h => h.issue

theorem execVSt_canon {o} : KeepsCanon (execVSt o s) := State.run_canon hs fun _ h => h.issue

theorem execVLdc_canon {o} : KeepsCanon (execVLdc o s) := State.run_canon hs fun _ h => h.issue

theorem execVLdp_canon {o} : KeepsCanon (execVLdp o s) := State.run_canon hs fun _ h => h.issue

theorem execVIn_canon {o} : KeepsCanon (execVIn o s) := State.run_canon hs fun _ h => h.issue

theorem execVOut_canon {o} : KeepsCanon (execVOut o s) := State.run_canon hs fun _ h => h.issueVote

theorem execVPwmw_canon {o} : KeepsCanon (execVPwmw o s) := State.run_canon hs fun _ h => h.issueVote

theorem execVSincos_canon {o} : KeepsCanon (execVSincos o s) := State.run_canon hs fun _ h => h.issue

theorem execVSqrt_canon {o} : KeepsCanon (execVSqrt o s) := State.run_canon hs fun _ h => h.issue

theorem execVRecip_canon {o} : KeepsCanon (execVRecip o s) := State.run_canon hs fun _ h => h.issue

theorem execVAtan2_canon {o} : KeepsCanon (execVAtan2 o s) := State.run_canon hs fun _ h => h.issue

theorem execVClarke_canon {o} : KeepsCanon (execVClarke o s) := State.run_canon hs fun _ h => h.issue

theorem execVPark_canon {o} : KeepsCanon (execVPark o s) := State.run_canon hs fun _ h => h.issue

theorem execVIpark_canon {o} : KeepsCanon (execVIpark o s) := State.run_canon hs fun _ h => h.issue

theorem execVSeq_canon {o} : KeepsCanon (execVSeq o s) := State.run_canon hs fun _ h => h.issue

theorem execVSwing_canon {o} : KeepsCanon (execVSwing o s) := State.run_canon hs fun _ h => h.issue

theorem execVLimv_canon {o} : KeepsCanon (execVLimv o s) := State.run_canon hs fun _ h => h.issue

theorem execVBiq_canon {o} : KeepsCanon (execVBiq o s) := State.run_canon hs fun _ h => h.issue

theorem execVInj_canon {o} : KeepsCanon (execVInj o s) := State.run_canon hs fun _ h => h.issue

theorem execVAadd_canon {o} : KeepsCanon (execVAadd o s) := State.run_canon hs fun _ h => h.issue

theorem execVAdif_canon {o} : KeepsCanon (execVAdif o s) := State.run_canon hs fun _ h => h.issue

theorem execVSampleEnd_canon {o} : KeepsCanon (execVSampleEnd o s) := State.run_canon hs fun _ h => h.sampleEnd

theorem execModulatorClkloss_canon {n t} : KeepsCanon (execModulatorClkloss n t s) := State.run_canon hs fun _ h => h.clkLoss

theorem execManchesterViolation_canon {n t} : KeepsCanon (execManchesterViolation n t s) :=
  State.run_canon hs fun _ h => h.mviolation

theorem execStuck_canon {n} : KeepsCanon (execStuck n s) :=
  State.run_canon hs fun _ h => h.when (fun _ hq => hq.setBit.raise)

theorem execFineOutput_canon {n bs t} : KeepsCanon (execFineOutput n bs t s) := State.run_canon hs fun _ h => h.fineOutput

theorem execFastPathOutput_canon {n window t} : KeepsCanon (execFastPathOutput n window t s) :=
  State.run_canon hs fun _ h => h.fastOutput

theorem execSettlingEnd_canon {n due} : KeepsCanon (execSettlingEnd n due s) := State.run_canon hs fun _ h => h.at.settled

theorem execSenseSwapTimeout_canon {r} : KeepsCanon (execSenseSwapTimeout r s) :=
  State.run_canon hs fun _ h => h.sdSwapTimeout

theorem execAuxadcConversionDone_canon {code t} : KeepsCanon (execAuxadcConversionDone code t s) :=
  State.run_canon hs fun _ h => h.auxDone

theorem execAuxadcFreerun_canon {t} : KeepsCanon (execAuxadcFreerun t s) :=
  State.run_canon hs fun _ h => .ite h.at.setAux h.at

theorem execComparatorTripCrossing_canon {k t} : KeepsCanon (execComparatorTripCrossing k t s) :=
  State.run_canon hs fun _ h => h.pcTrip

theorem execComparatorHardCrossing_canon {k t} : KeepsCanon (execComparatorHardCrossing k t s) :=
  State.run_canon hs fun _ h => h.pcHard

theorem execComparatorRelease_canon {k hard} : KeepsCanon (execComparatorRelease k hard s) :=
  State.run_canon hs fun _ h => h.pcRelease

theorem execBlankingEnd_canon {leg t} : KeepsCanon (execBlankingEnd leg t s) := State.run_canon hs fun _ h => h.blankingEnd

theorem execProtFrearm_canon {v} : KeepsCanon (execProtFrearm v s) :=
  State.run_canon hs fun _ h => h.when (fun _ hq => hq.protRearm)

theorem execProtReserveMap_canon {r v t} : KeepsCanon (execProtReserveMap r v t s) := State.run_canon hs fun _ h => h.protMap

theorem execProtReserveArmEnd_canon {r t} : KeepsCanon (execProtReserveArmEnd r t s) :=
  State.run_canon hs fun _ h => h.protArmEnd

theorem execTimebaseStart_canon {g t} : KeepsCanon (execTimebaseStart g t s) := State.run_canon hs fun _ h => h.tbStart

theorem execTimebaseStop_canon {g t} : KeepsCanon (execTimebaseStop g t s) := State.run_canon hs fun _ h => h.tbStopReq

theorem execTimebaseStopBoundary_canon {g t} : KeepsCanon (execTimebaseStopBoundary g t s) :=
  State.run_canon hs fun _ h => .ite h (by split; exacts [h.at.tbStopped.moveStopped, h])

theorem execDelayLineRefresh_canon {rangeOk t} : KeepsCanon (execDelayLineRefresh rangeOk t s) :=
  State.run_canon hs fun _ h => h.dlRefresh

theorem execPwmEdge_canon {leg t} : KeepsCanon (execPwmEdge leg t s) := State.run_canon hs fun _ h => h.pwmEdge

theorem execDeadTimeExpiry_canon {leg t} : KeepsCanon (execDeadTimeExpiry leg t s) :=
  State.run_canon hs fun _ h => h.at.evalLeg

theorem execGsReturn_canon {ch level t} : KeepsCanon (execGsReturn ch level t s) := State.run_canon hs fun _ h => h.gsReturn

theorem execGateTimeout_canon {ch t} : KeepsCanon (execGateTimeout ch t s) := State.run_canon hs fun _ h => h.gateTimeout

theorem execPadFault_canon {ch bad t} : KeepsCanon (execPadFault ch bad t s) := State.run_canon hs fun _ h => h.padFault

theorem execNpcDwellEnd_canon {leg t} : KeepsCanon (execNpcDwellEnd leg t s) := State.run_canon hs fun _ h => h.at.evalLeg

theorem execPwmCmpaWrite_canon {ini q v} : KeepsCanon (execPwmCmpaWrite ini q v s) :=
  State.run_canon hs fun _ h => h.cmpaWrite

theorem execPwmCmpbWrite_canon {ini q v t} : KeepsCanon (execPwmCmpbWrite ini q v t s) :=
  State.run_canon hs fun _ h => h.cmpbWrite

theorem execGateTripclr_canon {v t} : KeepsCanon (execGateTripclr v t s) := State.run_canon hs fun _ h => h.gateTripClr

theorem execTripLatchClear_canon {leg t} : KeepsCanon (execTripLatchClear leg t s) :=
  State.run_canon hs fun _ h => h.latchClear

theorem execGateFrearm_canon {v} : KeepsCanon (execGateFrearm v s) := State.run_canon hs fun _ h => h.gateRearm

theorem execGateReserveSelect_canon {r t} : KeepsCanon (execGateReserveSelect r t s) :=
  State.run_canon hs fun _ h => h.gateSelect

theorem execGateReserveTargetOff_canon {r t} : KeepsCanon (execGateReserveTargetOff r t s) :=
  State.run_canon hs fun _ h => h.gateTargetOff

theorem execGateSwapTimeout_canon {r} : KeepsCanon (execGateSwapTimeout r s) :=
  State.run_canon hs fun _ h => h.gateSwapTimeout

theorem execGbusPoll_canon {n} : KeepsCanon (execGbusPoll n s) := State.run_canon hs fun _ h => h.gbusPoll

theorem execGbusResponse_canon {n data} : KeepsCanon (execGbusResponse n data s) :=
  State.run_canon hs fun _ h => h.gbusResponse

theorem execGbusTimeout_canon {n} : KeepsCanon (execGbusTimeout n s) :=
  State.run_canon hs fun _ h => .ite h.setGbus.countSat h

theorem execQuadratureEdge_canon {n a b z t} : KeepsCanon (execQuadratureEdge n a b z t s) :=
  State.run_canon hs fun _ h => h.quadEdge

theorem execIndexEvent_canon {n t} : KeepsCanon (execIndexEvent n t s) := State.run_canon hs fun _ h => h.indexEvent

theorem execSincosConversion_canon {n sn cs t} : KeepsCanon (execSincosConversion n sn cs t s) :=
  State.run_canon hs fun _ h => h.sincos

theorem execSerialFrameStart_canon {n t} : KeepsCanon (execSerialFrameStart n t s) :=
  State.run_canon hs fun _ h => .ite h.at.setPif h.at

theorem execSerialFrameDone_canon {n raw datHigh t} : KeepsCanon (execSerialFrameDone n raw datHigh t s) :=
  State.run_canon hs fun _ h => h.serialDone

theorem execPcmpPulseEnd_canon {n t} : KeepsCanon (execPcmpPulseEnd n t s) := by
  refine State.run_canon hs fun _ h => ?_
  dsimp only
  split; exacts [.ite h.at.setPif h.at, h.at]

theorem execPosArm_canon {n v} : KeepsCanon (execPosArm n v s) := State.run_canon hs fun _ h => h.posArm

theorem execPosListWrite_canon {n k v} : KeepsCanon (execPosListWrite n k v s) :=
  State.run_canon hs fun _ h => h.posListWrite

theorem execRampTgtWrite_canon {c v} : KeepsCanon (execRampTgtWrite c v s) := State.run_canon hs fun _ h => h.rampTarget

theorem execRampSet_canon {c} : KeepsCanon (execRampSet c s) := State.run_canon hs fun _ h => h.rampSet

theorem execRampHold_canon {c} : KeepsCanon (execRampHold c s) := State.run_canon hs fun _ h => h.rampHold

theorem execRampRelease_canon {c} : KeepsCanon (execRampRelease c s) := State.run_canon hs fun _ h => h.rampHold

theorem execLockstepMismatch_canon {slot t} : KeepsCanon (execLockstepMismatch slot t s) :=
  State.run_canon hs fun _ h => h.lockstep

theorem execCorePairBistComplete_canon {pair pass} : KeepsCanon (execCorePairBistComplete pair pass s) :=
  State.run_canon hs fun _ h => h.pairTested

theorem execSAdd_canon {o} : KeepsCanon (execSAdd o s) := State.alu_canon hs

theorem execSSub_canon {o} : KeepsCanon (execSSub o s) := State.alu_canon hs

theorem execSAnd_canon {o} : KeepsCanon (execSAnd o s) := State.alu0_canon hs

theorem execSOr_canon {o} : KeepsCanon (execSOr o s) := State.alu0_canon hs

theorem execSXor_canon {o} : KeepsCanon (execSXor o s) := State.alu0_canon hs

theorem execSShl_canon {o} : KeepsCanon (execSShl o s) := State.alu0_canon hs

theorem execSShr_canon {o} : KeepsCanon (execSShr o s) := State.alu0_canon hs

theorem execSSar_canon {o} : KeepsCanon (execSSar o s) := State.alu0_canon hs

theorem execSRor_canon {o} : KeepsCanon (execSRor o s) := State.alu0_canon hs

theorem execSMul_canon {o} : KeepsCanon (execSMul o s) := State.alu0_canon hs

theorem execSMulh_canon {o} : KeepsCanon (execSMulh o s) := State.alu0_canon hs

theorem execSDiv_canon {o} : KeepsCanon (execSDiv o s) := State.divide_canon hs

theorem execSRem_canon {o} : KeepsCanon (execSRem o s) := State.divide_canon hs

theorem execSCmp_canon {o} : KeepsCanon (execSCmp o s) := State.issueS_canon hs fun _ _ h => h.retire

theorem execSLdhi_canon {h rd imm} : KeepsCanon (execSLdhi h rd imm s) := State.issueS_canon hs fun _ _ h => h.retire

theorem execSFadd_canon {o} : KeepsCanon (execSFadd o s) := State.fp_canon hs

theorem execSFsub_canon {o} : KeepsCanon (execSFsub o s) := State.fp_canon hs

theorem execSFmul_canon {o} : KeepsCanon (execSFmul o s) := State.fp_canon hs

theorem execSFdiv_canon {o} : KeepsCanon (execSFdiv o s) := State.fp_canon hs

theorem execSFma_canon {o} : KeepsCanon (execSFma o s) := State.fp_canon hs

theorem execSFsqrt_canon {o} : KeepsCanon (execSFsqrt o s) := State.fp_canon hs

theorem execSFmin_canon {o} : KeepsCanon (execSFmin o s) := State.fp_canon hs

theorem execSFmax_canon {o} : KeepsCanon (execSFmax o s) := State.fp_canon hs

theorem execSFcmp_canon {o} : KeepsCanon (execSFcmp o s) := State.issueS_canon hs fun _ _ h => h.retire

theorem execSFconvert_canon {o toInt} : KeepsCanon (execSFconvert o toInt s) :=
  State.issueS_canon hs fun _ _ h => h.taken.retire

theorem execSFmove_canon {o toS} : KeepsCanon (execSFmove o toS s) := State.issueS_canon hs fun _ _ h => h.retire

theorem execSLd_canon {o} : KeepsCanon (execSLd o s) :=
  State.sized_canon hs fun _ _ h => h.access (fun _ _ hq => hq.readPieces.taken.retire)

theorem execSSt_canon {o} : KeepsCanon (execSSt o s) :=
  State.sized_canon hs fun _ _ h => h.access (fun _ _ hq => hq.writePieces.retire)

theorem execSFld_canon {o} : KeepsCanon (execSFld o s) :=
  State.issueS_canon hs fun _ _ h => h.access (fun _ _ hq => hq.readPieces.retire)

theorem execSFst_canon {o} : KeepsCanon (execSFst o s) :=
  State.issueS_canon hs fun _ _ h => h.access (fun _ _ hq => hq.writePieces.retire)

theorem execSLdgrp_canon {o} : KeepsCanon (execSLdgrp o s) :=
  State.issueS_canon hs fun _ _ h => h.access (fun _ _ hq => hq.readPieces.retire)

theorem execSStgrp_canon {o} : KeepsCanon (execSStgrp o s) :=
  State.issueS_canon hs fun _ _ h => h.access (fun _ _ hq => hq.writePieces.retire)

theorem execSLdrv_canon {o} : KeepsCanon (execSLdrv o s) := State.atomic_canon hs fun _ _ _ h => h.readPieces.retire

theorem execSStcv_canon {o} : KeepsCanon (execSStcv o s) :=
  State.atomic_canon hs fun _ _ _ h => .retire (.ite h.writePieces h)

theorem execSAtadd_canon {o} : KeepsCanon (execSAtadd o s) := State.exchange_canon hs

theorem execSAtswp_canon {o} : KeepsCanon (execSAtswp o s) := State.exchange_canon hs

theorem execSAtcmp_canon {o} : KeepsCanon (execSAtcmp o s) := State.exchange_canon hs

theorem execSMcpy_canon {h units} : KeepsCanon (execSMcpy h units s) := State.issueS_canon hs fun _ _ h => h.copyUnits

theorem execSGo_canon {h test off} : KeepsCanon (execSGo h test off s) := by
  refine State.issueS_canon hs fun _ _ h => ?_
  split; exacts [h.illegal, h.setSlot]

theorem execSGol_canon {h off} : KeepsCanon (execSGol h off s) := State.issueS_canon hs fun _ _ h => h.setSlot

theorem execSTcall_canon {h code} : KeepsCanon (execSTcall h code s) := State.issueS_canon hs fun _ _ h => h.except

theorem execSDbrk_canon {h} : KeepsCanon (execSDbrk h s) := State.issueS_canon hs fun _ _ h => h.fault

theorem execSXret_canon {h} : KeepsCanon (execSXret h s) :=
  State.issueS_canon hs fun _ _ h => h.monitorOnly (fun _ hq => hq.setSlot)

theorem execSSrd_canon {o} : KeepsCanon (execSSrd o s) := State.issueS_canon hs fun _ _ h => .ite h.illegal h.taken.retire

theorem execSSwr_canon {o} : KeepsCanon (execSSwr o s) :=
  State.issueS_canon hs fun _ _ h => h.monitorOnly (fun _ hq => hq.retire)

theorem execSDrain_canon {h} : KeepsCanon (execSDrain h s) := State.issueS_canon hs fun _ _ h => h.retire

theorem execSIrfs_canon {h} : KeepsCanon (execSIrfs h s) := State.issueS_canon hs fun _ _ h => h.retire

theorem execSXlinvAll_canon {o} : KeepsCanon (execSXlinvAll o s) := State.xlinv_canon hs

theorem execSXlinvAsid_canon {o} : KeepsCanon (execSXlinvAsid o s) := State.xlinv_canon hs

theorem execSXlinvVa_canon {o} : KeepsCanon (execSXlinvVa o s) := State.xlinv_canon hs

theorem execSXlinvPageAsid_canon {o} : KeepsCanon (execSXlinvPageAsid o s) := State.xlinv_canon hs

theorem execSIdle_canon {h} : KeepsCanon (execSIdle h s) :=
  State.issueS_canon hs fun _ _ h => h.monitorOnly (fun _ hq => hq.retire)

theorem execInterruptTaken_canon {slot src t} : KeepsCanon (execInterruptTaken slot src t s) :=
  State.run_canon hs fun _ h => h.at.takeIrq

theorem execMmuCtxWrite_canon {ini k lo hi} : KeepsCanon (execMmuCtxWrite ini k lo hi s) :=
  State.run_canon hs fun _ h => h.ctxWrite

theorem execQueuePidxWrite_canon {ini q v} : KeepsCanon (execQueuePidxWrite ini q v s) :=
  State.run_canon hs fun _ h => h.pidxWrite.ringSends

theorem execQueueCidxWrite_canon {ini q v} : KeepsCanon (execQueueCidxWrite ini q v s) :=
  State.run_canon hs fun _ h => h.cidxWrite

theorem execDmaDescriptorFetch_canon {c ecc} : KeepsCanon (execDmaDescriptorFetch c ecc s) :=
  State.run_canon hs fun _ h => h.descFetch

theorem execDmaBeat_canon {c ecc t} : KeepsCanon (execDmaBeat c ecc t s) :=
  State.run_canon hs fun _ h => .ite h.at.dmaTake.beat h

theorem execDmaResume_canon {c} : KeepsCanon (execDmaResume c s) := State.run_canon hs fun _ h => h.dmaResume

theorem execDmaSkip_canon {c} : KeepsCanon (execDmaSkip c s) := State.run_canon hs fun _ h => h.dmaSkip

theorem execDmaAbort_canon {c} : KeepsCanon (execDmaAbort c s) := State.run_canon hs fun _ h => h.dmaAbort

theorem execDmaEnWrite_canon {c on} : KeepsCanon (execDmaEnWrite c on s) := State.run_canon hs fun _ h => h.dmaEn

theorem execRowReplace_canon {addr} : KeepsCanon (execRowReplace addr s) := State.run_canon hs fun _ h => h.rowReplace

theorem execScrubPass_canon {emram found} : KeepsCanon (execScrubPass emram found s) :=
  State.run_canon hs fun _ h => h.scrubPass

theorem execXspiCommand_canon {v} : KeepsCanon (execXspiCommand v s) := State.run_canon hs fun _ h => h.xspiCommand

theorem execXspiCommandDone_canon {ok status data} : KeepsCanon (execXspiCommandDone ok status data s) := by
  refine State.run_canon hs fun _ h => ?_
  split
  · exact h
  · exact .raise (.ite h.frame.setBit.setBit.setFld.setBit (h.frame.setBit.setBit.setFld.setBit.each (fun _ _ hq =>
        hq.setReg)))

theorem execEmramProtectedWrite_canon {addr} : KeepsCanon (execEmramProtectedWrite addr s) :=
  State.run_canon hs fun _ h => h.when (fun _ hq => hq.protRefuse)

theorem execTaskRelease_canon {task t start} : KeepsCanon (execTaskRelease task t start s) :=
  State.run_canon hs fun _ h => h.taskRelease

theorem execEventTaskRelease_canon {task rise t start} : KeepsCanon (execEventTaskRelease task rise t start s) :=
  State.run_canon hs fun _ h => h.eventRelease

theorem execTaskBodyEnd_canon {task out timers edges lines t} :
    KeepsCanon (execTaskBodyEnd task out timers edges lines t s) :=
  State.run_canon hs fun _ h => h.bodyEnd

theorem execRemoteModuleRead_canon {m ecc t} : KeepsCanon (execRemoteModuleRead m ecc t s) := by
  refine State.run_canon hs fun _ h => ?_
  split; exacts [h, .ite h.atRing.setRemote.moduleRead h]

theorem execRemoteModuleStale_canon {m t} : KeepsCanon (execRemoteModuleStale m t s) := by
  refine State.run_canon hs fun _ h => ?_
  split; exacts [.ite h.atRing.setBit.raise.showAge h, h]

theorem execRemoteModuleSend_canon {m t} : KeepsCanon (execRemoteModuleSend m t s) := by
  refine State.run_canon hs fun _ h => ?_
  split; exacts [h, .ite h.atRing.setRemote.moduleSend h]

theorem execRetentionWriteback_canon : KeepsCanon (execRetentionWriteback s) := State.run_canon hs fun _ h => h.writeBack

theorem execCleSnapshot_canon {t} : KeepsCanon (execCleSnapshot t s) :=
  State.run_canon hs fun _ h => .ite h h.atRing.frame.setReg

theorem execPfailAssert_canon {t} : KeepsCanon (execPfailAssert t s) := State.run_canon hs fun _ h => h.pfailAssert

theorem execPfailFlushComplete_canon {t} : KeepsCanon (execPfailFlushComplete t s) :=
  State.run_canon hs fun _ h => h.when (fun _ hq => hq.atRing.flushDone)

theorem execPfailRelease_canon {t} : KeepsCanon (execPfailRelease t s) := State.run_canon hs fun _ h => h.pfailRelease

theorem execForceSet_canon : KeepsCanon (execForceSet s) :=
  State.run_canon hs fun _ h => h.hostCmd (fun _ _ hq => hq.forceSet)

theorem execForceRel_canon : KeepsCanon (execForceRel s) :=
  State.run_canon hs fun _ h => h.hostCmd (fun _ _ hq => by dsimp only; split; exacts [hq, hq.frame])

theorem execForceRelall_canon : KeepsCanon (execForceRelall s) :=
  State.run_canon hs fun _ h => h.hostCmd (fun _ _ hq => hq.frame)

theorem execForceList_canon : KeepsCanon (execForceList s) := by
  refine State.run_canon hs fun p h => h.hostCmd fun a q hq => ?_
  dsimp only
  exact .ite hq.emramWrite (.ite hq.storeBytes hq)

theorem execPrecopyDone_canon {t} : KeepsCanon (execPrecopyDone t s) := State.run_canon hs fun _ h => h.precopyDone

theorem execOnlineSwitch_canon {t} : KeepsCanon (execOnlineSwitch t s) := State.run_canon hs fun _ h => h.onlineSwitch

theorem execSwitchWindowExpiry_canon {t} : KeepsCanon (execSwitchWindowExpiry t s) := by
  refine State.run_canon hs fun _ h => ?_
  split; exacts [.ite h.atRing.changeAbort h, h]

theorem execWatchdogFire_canon {task t} : KeepsCanon (execWatchdogFire task t s) := by
  refine State.run_canon hs fun _ h => ?_
  split; exacts [.ite h.atRing.wdFire h, h]

theorem execCycStart_canon {t} : KeepsCanon (execCycStart t s) := State.run_canon hs fun _ h => h.cycGo

theorem execCycStop_canon {t} : KeepsCanon (execCycStop t s) := State.run_canon hs fun _ h => h.cycStop

theorem execCycRestart_canon {t} : KeepsCanon (execCycRestart t s) := State.run_canon hs fun _ h => h.cycRestart

theorem execRingLaneFail_canon {port lane errs} : KeepsCanon (execRingLaneFail port lane errs s) :=
  State.run_canon hs fun _ h => h.laneFail

theorem execRingLaneSwap_canon {port t} : KeepsCanon (execRingLaneSwap port t s) := by
  refine State.run_canon hs fun _ h => ?_
  split; exacts [h, .ite h.at.frame.setBit.ringEvt h.at.frame.setFld.ringEvt.noteSwap]

theorem execHopReplay_canon {port n} : KeepsCanon (execHopReplay port n s) := State.run_canon hs fun _ h => h.setReg

theorem execRingRd_canon {f ecc t} : KeepsCanon (execRingRd f ecc t s) :=
  State.run_canon hs fun _ h => .ite h.at (.ite h.at.ringTake.receive h.at.ringTake)

theorem execRingWr_canon {f ecc t} : KeepsCanon (execRingWr f ecc t s) :=
  State.run_canon hs fun _ h => .ite h.at (.ite h.at.ringTake.receive h.at.ringTake)

theorem execRingWrb_canon {f ecc t} : KeepsCanon (execRingWrb f ecc t s) :=
  State.run_canon hs fun _ h => .ite h.at (.ite h.at.ringTake.receive h.at.ringTake)

theorem execRingCpl_canon {f t} : KeepsCanon (execRingCpl f t s) :=
  State.run_canon hs fun _ h => .ite h.at (.ite h.at.ringTake.completion h.at.ringTake)

theorem execRingMsg_canon {f ecc t} : KeepsCanon (execRingMsg f ecc t s) :=
  State.run_canon hs fun _ h => .ite h.at (.ite h.at.ringTake.receive h.at.ringTake)

theorem execRingTempo_canon {f lo hi t} : KeepsCanon (execRingTempo f lo hi t s) :=
  State.run_canon hs fun _ h => .ite h (.ite h.ringTake.at.snapArm h.ringTake)

theorem execRingPair_canon {f m t} : KeepsCanon (execRingPair f m t s) :=
  State.run_canon hs fun _ h => .ite h (.ite h.ringTake.pairMsg h.ringTake)

theorem execRingBar_canon {f id release} : KeepsCanon (execRingBar f id release s) :=
  State.run_canon hs fun _ h => .ite h (.ite (.ite h.ringTake.barRelease (.ite h.ringTake.barArrived h.ringTake)) h.ringTake)

theorem execRingProm_canon {f m last} : KeepsCanon (execRingProm f m last s) :=
  State.run_canon hs fun _ h => .ite h (.ite h.ringTake.promFrame h.ringTake)

theorem execRingStat_canon {f status at_} : KeepsCanon (execRingStat f status at_ s) :=
  State.run_canon hs fun _ h => .ite h (.ite h.ringTake.mirrorStat h.ringTake)

theorem execRingLink_canon {f m} : KeepsCanon (execRingLink f m s) :=
  State.run_canon hs fun _ h => .ite h (.ite h.ringTake.linkNotice h.ringTake)

theorem execRequestTimeout_canon {dst tag t} : KeepsCanon (execRequestTimeout dst tag t s) := by
  refine State.run_canon hs fun _ h => ?_
  split; exacts [h, h.at.frame.requestFailed.pump]

theorem execTagGapSkip_canon {src bcast ecc t} : KeepsCanon (execTagGapSkip src bcast ecc t s) :=
  State.run_canon hs fun _ h => h.at.gapSkip

theorem execLinkDown_canon {port t} : KeepsCanon (execLinkDown port t s) :=
  State.run_canon hs fun _ h => .ite h h.at.setReg.frame.showWrap.ringEvt.send

theorem execLinkHeal_canon {port t} : KeepsCanon (execLinkHeal port t s) :=
  State.run_canon hs fun _ h => .ite h.at.send.setBit.unwrap h

theorem execHostPortLive_canon {pcie lowest t} : KeepsCanon (execHostPortLive pcie lowest t s) :=
  State.run_canon hs fun _ h => .ite h.at.hostLive.promStart h.at.hostLive

theorem execPromenadeSwitch_canon {t} : KeepsCanon (execPromenadeSwitch t s) := State.run_canon hs fun _ h => h.promSwitch

theorem execTimeOrderedSet_canon {port dly lanes farm d t} : KeepsCanon (execTimeOrderedSet port dly lanes farm d t s) :=
  State.run_canon hs fun _ h => h.timeSet

theorem execTimeLoss_canon {t} : KeepsCanon (execTimeLoss t s) :=
  State.run_canon hs fun _ h => .ite h h.at.setBit.frame.setBit.setBit.tempoHold.ringEvt

theorem execSnapshotArm_canon {lo hi t} : KeepsCanon (execSnapshotArm lo hi t s) :=
  State.run_canon hs fun _ h => h.at.snapArm

theorem execSnapshotTake_canon {t} : KeepsCanon (execSnapshotTake t s) := State.run_canon hs fun _ h => h.snapTake

theorem execBarrierArrive_canon {id} : KeepsCanon (execBarrierArrive id s) := State.run_canon hs fun _ h => h.barArrive

theorem execRingReset_canon {t} : KeepsCanon (execRingReset t s) := State.run_canon hs fun _ h => h.rreset

theorem execHostPcieRead_canon {bar2 addr n ecc t} : KeepsCanon (execHostPcieRead bar2 addr n ecc t s) :=
  State.run_canon hs fun _ h => h.at.hostAccess

theorem execHostPcieWrite_canon {bar2 addr data t} : KeepsCanon (execHostPcieWrite bar2 addr data t s) :=
  State.run_canon hs fun _ h => .ite h h.at.hostAccess

theorem execHspiWrite_canon {addr ws t} : KeepsCanon (execHspiWrite addr ws t s) :=
  State.runRom_canon hs fun _ h => .ite h (h.at.hspiStart (fun _ hq => hq.hspiCarry))

theorem execHspiRead_canon {addr n ecc t} : KeepsCanon (execHspiRead addr n ecc t s) :=
  State.runRom_canon hs fun _ h => h.at.hspiStart (fun _ hq => hq.hspiCarry)

theorem execHspiStatus_canon {t} : KeepsCanon (execHspiStatus t s) := State.runRom_canon hs fun _ h => h.at.hspiLive.send

theorem execHspiData_canon {t} : KeepsCanon (execHspiData t s) := State.runRom_canon hs fun _ h => h.at.hspiLive.send

theorem execHostFlagclr_canon {v} : KeepsCanon (execHostFlagclr v s) := State.run_canon hs fun _ h => h.flagClr

theorem execHostStatusChange_canon {t} : KeepsCanon (execHostStatusChange t s) :=
  State.run_canon hs fun _ h => h.statusChange

theorem execOpRelease_canon {k} : KeepsCanon (execOpRelease k s) := State.run_canon hs fun _ h => h.opRelease

theorem execOpCancel_canon {k t} : KeepsCanon (execOpCancel k t s) := State.run_canon hs fun _ h => h.opCancel

theorem execOpDequeue_canon {k t} : KeepsCanon (execOpDequeue k t s) := State.run_canon hs fun _ h => h.opDequeue

theorem execImageVerify_canon {k tag t} : KeepsCanon (execImageVerify k tag t s) := State.run_canon hs fun _ h => h.opCmd

theorem execImageActivate_canon {k tag t} : KeepsCanon (execImageActivate k tag t s) := State.run_canon hs fun _ h => h.opCmd

theorem execFigureExchange_canon {k tag t} : KeepsCanon (execFigureExchange k tag t s) :=
  State.run_canon hs fun _ h => h.opCmd

theorem execRecordRead_canon {k tag t} : KeepsCanon (execRecordRead k tag t s) := State.run_canon hs fun _ h => h.opCmd

theorem execAdmittanceScan_canon {k tag t} : KeepsCanon (execAdmittanceScan k tag t s) :=
  State.run_canon hs fun _ h => h.opCmd

theorem execBist_canon {k tag t} : KeepsCanon (execBist k tag t s) := State.run_canon hs fun _ h => h.opCmd

theorem execScrub_canon {k tag t} : KeepsCanon (execScrub k tag t s) := State.run_canon hs fun _ h => h.opCmd

theorem execCalWrite_canon {k tag t} : KeepsCanon (execCalWrite k tag t s) := State.run_canon hs fun _ h => h.opCmd

theorem execHealthReport_canon {k tag t} : KeepsCanon (execHealthReport k tag t s) := State.run_canon hs fun _ h => h.opCmd

theorem execAttest_canon {k tag t} : KeepsCanon (execAttest k tag t s) := State.run_canon hs fun _ h => h.opCmd

theorem execReserveSwap_canon {k tag t} : KeepsCanon (execReserveSwap k tag t s) := State.run_canon hs fun _ h => h.opCmd

theorem execPromenade_canon {k tag t} : KeepsCanon (execPromenade k tag t s) := State.run_canon hs fun _ h => h.opCmd

theorem execSafetyConfig_canon {k tag t} : KeepsCanon (execSafetyConfig k tag t s) := State.run_canon hs fun _ h => h.opCmd

theorem execCallInChange_canon {level t} : KeepsCanon (execCallInChange level t s) := State.run_canon hs fun _ h => h.callIn

theorem execFloorInChange_canon {level t} : KeepsCanon (execFloorInChange level t s) :=
  State.run_canon hs fun _ h => h.floorInChange

theorem execFloorConflict_canon {t} : KeepsCanon (execFloorConflict t s) := by
  refine State.run_canon hs fun _ h => ?_
  split; exacts [.ite h.at.releaseFloor.raise.frame h, h]

theorem execCutinPermitTimeout_canon {t} : KeepsCanon (execCutinPermitTimeout t s) := by
  refine State.run_canon hs fun _ h => ?_
  split; exacts [.ite h.at.releaseFloor.setRole.raise.frame.showPair h, h]

theorem execOpenFloorRelease_canon {t} : KeepsCanon (execOpenFloorRelease t s) := by
  refine State.run_canon hs fun _ h => ?_
  split; exacts [.ite h (.ite h.at.releaseFloor.raise.frame (.ite h.at.raise.frame h.at)), h]

theorem execPairOpen_canon {t} : KeepsCanon (execPairOpen t s) := State.run_canon hs fun _ h => h.pairOpen

theorem execPairReq_canon {t} : KeepsCanon (execPairReq t s) := State.run_canon hs fun _ h => h.pairReq

theorem execMirrorFrame_canon {f crcOk t} : KeepsCanon (execMirrorFrame f crcOk t s) :=
  State.run_canon hs fun _ h => h.mirrorIn

theorem execPartnerLaneFail_canon {lane t} : KeepsCanon (execPartnerLaneFail lane t s) :=
  State.run_canon hs fun _ h => h.at.showLink

theorem execMemberHeartbeat_canon {k side h t} : KeepsCanon (execMemberHeartbeat k side h t s) :=
  State.run_canon hs fun _ h => h.memberBeat

theorem execHeartbeatMiss_canon {k side tick t} : KeepsCanon (execHeartbeatMiss k side tick t s) :=
  State.run_canon hs fun _ h => h.beatMissed

theorem execCallerHeartbeatSend_canon {k t} : KeepsCanon (execCallerHeartbeatSend k t s) :=
  State.run_canon hs fun _ h => h.callerSend

theorem execCallerHeartbeat_canon {b t} : KeepsCanon (execCallerHeartbeat b t s) :=
  State.run_canon hs fun _ h => h.callerBeat

theorem execCallerLost_canon {t} : KeepsCanon (execCallerLost t s) := State.run_canon hs fun _ h => .ite h.at.setBit.raise h

theorem execCutinRequest_canon {k r t} : KeepsCanon (execCutinRequest k r t s) := State.run_canon hs fun _ h => h.at.judge

theorem execCallerSwap_canon {k t} : KeepsCanon (execCallerSwap k t s) := State.run_canon hs fun _ h => h.at.judge

theorem execCutinDecision_canon {d t} : KeepsCanon (execCutinDecision d t s) := State.run_canon hs fun _ h => h.cutDecision

theorem execCutinCallChange_canon {k t} : KeepsCanon (execCutinCallChange k t s) :=
  State.run_canon hs fun _ h => h.callChange

theorem execCutfailRestore_canon {k t} : KeepsCanon (execCutfailRestore k t s) := State.run_canon hs fun _ h => h.callRestore

theorem execStandbySelftestStep_canon {pass found t} : KeepsCanon (execStandbySelftestStep pass found t s) :=
  State.run_canon hs fun _ h => h.selfTest

theorem execEthLinkChange_canon {port up fault} : KeepsCanon (execEthLinkChange port up fault s) :=
  State.run_canon hs fun _ h => h.ethLink

theorem execEthFrameReceive_canon {port data fcsOk t egress} : KeepsCanon (execEthFrameReceive port data fcsOk t egress s) :=
  State.run_canon hs fun _ h => h.ethRx

theorem execEthTxEntry_canon {port t} : KeepsCanon (execEthTxEntry port t s) := State.run_canon hs fun _ h => h.txEntry

theorem execEthLaunch_canon {port t} : KeepsCanon (execEthLaunch port t s) := State.run_canon hs fun _ h => h.txLaunch

theorem execPrpSupervision_canon {t} : KeepsCanon (execPrpSupervision t s) := State.run_canon hs fun _ h => h.supervise

theorem execMacAgeing_canon {mac t} : KeepsCanon (execMacAgeing mac t s) := State.run_canon hs fun _ h => h.at.frame

theorem execServoUpdate_canon {v t} : KeepsCanon (execServoUpdate v t s) := State.run_canon hs fun _ h => h.servoUpdate

theorem execServoHoldover_canon {t} : KeepsCanon (execServoHoldover t s) := by
  refine State.run_canon hs fun _ h => ?_
  split; exacts [.ite h.at.setServo.raise.frame h, h]

theorem execTimeStep_canon {t} : KeepsCanon (execTimeStep t s) := State.run_canon hs fun _ h => h.timeStep

theorem execLocalTempoLock_canon {t} : KeepsCanon (execLocalTempoLock t s) := by
  refine State.run_canon hs fun _ h => ?_
  split; exacts [h, .ite h h.at.tempoFollow]

theorem execTempoRestore_canon {d t} : KeepsCanon (execTempoRestore d t s) :=
  State.run_canon hs fun _ h => .ite h h.at.setBit.tempoHold.tempoFollow

theorem execTimeNowRead_canon {t} : KeepsCanon (execTimeNowRead t s) := State.run_canon hs fun _ h => h.timeNow

theorem execCapSwtrig_canon {v t} : KeepsCanon (execCapSwtrig v t s) := State.run_canon hs fun _ h => h.swTrig

theorem execAcquisitionSample_canon {u t} : KeepsCanon (execAcquisitionSample u t s) :=
  State.run_canon hs fun _ h => h.capSample

theorem execRecordClose_canon {u t} : KeepsCanon (execRecordClose u t s) := State.run_canon hs fun _ h => h.closeRecord

theorem execMeasurementsDone_canon {id t} : KeepsCanon (execMeasurementsDone id t s) :=
  State.run_canon hs fun _ h => h.measured

theorem execRecordCopyDone_canon {id} : KeepsCanon (execRecordCopyDone id s) := State.run_canon hs fun _ h => h.copyRecord

theorem execCapProtect_canon : KeepsCanon (execCapProtect s) := State.run_canon hs fun _ h => h.capProtect

theorem execCapDelete_canon : KeepsCanon (execCapDelete s) := State.run_canon hs fun _ h => h.deleteRecord

theorem execSafetyInputSample_canon {ch pins cf outs t} : KeepsCanon (execSafetyInputSample ch pins cf outs t s) :=
  State.run_canon hs fun _ h => h.safeSample

theorem execSafetyCycle_canon {ch selfOk t} : KeepsCanon (execSafetyCycle ch selfOk t s) :=
  State.run_canon hs fun _ h => h.safeCycle

theorem execSafetyComparisonFrame_canon {ch t} : KeepsCanon (execSafetyComparisonFrame ch t s) :=
  State.run_canon hs fun _ h => h.safeCompare

theorem execSafetyFrameLost_canon {ch t} : KeepsCanon (execSafetyFrameLost ch t s) :=
  State.run_canon hs fun _ h => .ite h.at.safeFault h

theorem execTestPulse_canon {o t} : KeepsCanon (execTestPulse o t s) := State.run_canon hs fun _ h => h.testPulse

theorem execInputDiscrepancy_canon {ch i t} : KeepsCanon (execInputDiscrepancy ch i t s) :=
  State.run_canon hs fun _ h => h.discrepancy

theorem execSs1Timeout_canon {ch a t} : KeepsCanon (execSs1Timeout ch a t s) := State.run_canon hs fun _ h => h.ss1Timeout

theorem execLockfault_canon {ch f t} : KeepsCanon (execLockfault ch f t s) := State.run_canon hs fun _ h => h.lockFault

theorem execResetInput_canon {ch i t} : KeepsCanon (execResetInput ch i t s) := State.run_canon hs fun _ h => h.resetInput

theorem execContactorFeedbackTimeout_canon {ch n t} : KeepsCanon (execContactorFeedbackTimeout ch n t s) :=
  State.run_canon hs fun _ h => h.contTimeout

theorem execSafereqDemand_canon {d} : KeepsCanon (execSafereqDemand d s) := State.run_canon hs fun _ h => h.setFld

theorem execSafereqReset_canon {on} : KeepsCanon (execSafereqReset on s) := State.run_canon hs fun _ h => h.setBit

theorem execSafereqClose_canon {d} : KeepsCanon (execSafereqClose d s) := State.run_canon hs fun _ h => h.setFld

theorem execSafereqUnlock_canon {d} : KeepsCanon (execSafereqUnlock d s) := State.run_canon hs fun _ h => h.setFld.setFld

theorem execKeyAck_canon {t} : KeepsCanon (execKeyAck t s) := State.run_canon hs fun _ h => h.keyAck

theorem execKeyTimeout_canon {t} : KeepsCanon (execKeyTimeout t s) := by
  refine State.run_canon hs fun _ h => ?_
  split; exacts [.ite h.frame.setFld.opFail h, h]

theorem execDriftEvaluation_canon {t} : KeepsCanon (execDriftEvaluation t s) := State.run_canon hs fun _ h => h.driftEval

theorem execOwnerEnroll_canon {t} : KeepsCanon (execOwnerEnroll t s) :=
  State.run_canon hs fun _ h => h.enrollWrite (fun _ hq => hq.enroll)

theorem execVendorKeyRevoke_canon {t} : KeepsCanon (execVendorKeyRevoke t s) :=
  State.run_canon hs fun _ h => h.enrollWrite (fun _ hq => hq.revoke)

theorem execDebugToken_canon : KeepsCanon (execDebugToken s) := State.run_canon hs fun _ h => h.debugToken

theorem execPowerOnReset_canon {banks t} : KeepsCanon (execPowerOnReset banks t s) :=
  State.runAlways_canon hs fun _ h => .boot (.frame (.ite h h.restart))

theorem execRefclkError_canon {t} : KeepsCanon (execRefclkError t s) :=
  State.runAlways_canon hs fun _ h => .ite h h.holdReset

theorem execSupplyReset_canon {rail t} : KeepsCanon (execSupplyReset rail t s) :=
  State.runAlways_canon hs fun _ h => .ite h (h.at.when (fun _ hq => hq.toVbat)).holdReset

theorem execPllLock_canon {pll early t} : KeepsCanon (execPllLock pll early t s) :=
  State.run_canon hs fun _ h => h.guard.pllLock

theorem execPllAcquisitionFail_canon {pll early t} : KeepsCanon (execPllAcquisitionFail pll early t s) :=
  State.run_canon hs fun _ h => h.guard.pllAcqFail

theorem execPllReserveReady_canon {t} : KeepsCanon (execPllReserveReady t s) :=
  State.run_canon hs fun _ h => .ite h.at.setBit h

theorem execPllLossOfLock_canon {early t} : KeepsCanon (execPllLossOfLock early t s) :=
  State.run_canon hs fun _ h => h.guard.pllLoss

theorem execBandMeasure_canon {v t} : KeepsCanon (execBandMeasure v t s) := State.run_canon hs fun _ h => h.bandMeasure

theorem execBandMeasureDone_canon {mhz t} : KeepsCanon (execBandMeasureDone mhz t s) := by
  refine State.run_canon hs fun _ h => ?_
  split; exacts [.ite h.at.frame.setReg h, h]

theorem execSupplySag_canon {island sram deep t} : KeepsCanon (execSupplySag island sram deep t s) :=
  State.run_canon hs fun _ h => h.sag

theorem execSagRecovery_canon {island sram t} : KeepsCanon (execSagRecovery island sram t s) :=
  State.run_canon hs fun _ h => .ite h h.at.setDroop

theorem execMonitorSample_canon {kind xs t} : KeepsCanon (execMonitorSample kind xs t s) := by
  refine State.runAlways_canon hs fun _ h => ?_
  split; exacts [h.monitor, .ite (h.monitor.when (fun _ hq => hq.boot)) h]

theorem execTempCritical_canon {t} : KeepsCanon (execTempCritical t s) :=
  State.runAlways_canon hs fun _ h => .ite h.holdReset h

theorem execMonVminmaxRead_canon {j max} : KeepsCanon (execMonVminmaxRead j max s) :=
  State.run_canon hs fun _ h => h.vminmaxRead

theorem execVaultWake_canon {t} : KeepsCanon (execVaultWake t s) := State.runAlways_canon hs fun _ h => .ite h.at.frame h

theorem execTamper_canon {crystal t} : KeepsCanon (execTamper crystal t s) := State.runAlways_canon hs fun _ h => h.tamper

theorem execRtcSync_canon {t} : KeepsCanon (execRtcSync t s) :=
  State.run_canon hs fun _ h => .ite h.atRing.frame.setPair.setReg.setBit h

theorem execLongOperationComplete_canon {k fails found t} : KeepsCanon (execLongOperationComplete k fails found t s) :=
  State.run_canon hs fun _ h => h.opComplete

theorem execRefclkReturn_canon {t} : KeepsCanon (execRefclkReturn t s) := State.runAlways_canon hs fun _ h => .ite h.boot h

theorem execPartnerLinkReturn_canon {lanes t} : KeepsCanon (execPartnerLinkReturn lanes t s) :=
  State.run_canon hs fun _ h => h.at.showLink

theorem execRingRetrainComplete_canon {east west t} : KeepsCanon (execRingRetrainComplete east west t s) :=
  State.run_canon hs fun _ h => .ite h h.at.frame.setFld.setBit.setFld.setFld.setBit.setFld.promStart

/-- Every command keeps the canonical form. -/
theorem exec_canon {i : Instr} : KeepsCanon (exec i s) := by
  cases i with
  | registerWrite => exact execRegisterWrite_canon hs
  | pairLoRead => exact execPairLoRead_canon hs
  | pairHiRead => exact execPairHiRead_canon hs
  | pairLoWrite => exact execPairLoWrite_canon hs
  | pairHiWrite => exact execPairHiWrite_canon hs
  | stagedWrite => exact execStagedWrite_canon hs
  | commitGo => exact execCommitGo_canon hs
  | commitMove => exact execCommitMove_canon hs
  | sysJcommitGo => exact execSysJcommitGo_canon hs
  | jointCommitMove => exact execJointCommitMove_canon hs
  | decodeErrorAccess ini addr isWrite v => exact execDecodeErrorAccess_canon (v := v) hs
  | sysSwrst => exact execSysSwrst_canon hs
  | sysOccRead => exact execSysOccRead_canon hs
  | transactionEntryGrant => exact execTransactionEntryGrant_canon hs
  | gpioEdge => exact execGpioEdge_canon hs
  | gpioLatchWrite => exact execGpioLatchWrite_canon hs
  | tempoTick => exact execTempoTick_canon hs
  | transientWindowEnd => exact execTransientWindowEnd_canon hs
  | transientRearm => exact execTransientRearm_canon hs
  | profileViolation => exact execProfileViolation_canon hs
  | profileEpisodeEnd => exact execProfileEpisodeEnd_canon hs
  | rideEnd => exact execRideEnd_canon hs
  | premagnetisationEnd => exact execPremagnetisationEnd_canon hs
  | formRampComplete => exact execFormRampComplete_canon hs
  | seqcmdCharge => exact execSeqcmdCharge_canon hs
  | seqcmdReady => exact execSeqcmdReady_canon hs
  | seqcmdForm => exact execSeqcmdForm_canon hs
  | seqcmdSync => exact execSeqcmdSync_canon hs
  | seqcmdOnline => exact execSeqcmdOnline_canon hs
  | seqcmdIsland => exact execSeqcmdIsland_canon hs
  | seqcmdTrip => exact execSeqcmdTrip_canon hs
  | seqcmdOff => exact execSeqcmdOff_canon hs
  | seqHostStart => exact execSeqHostStart_canon hs
  | seqHostStop => exact execSeqHostStop_canon hs
  | seqHostReset => exact execSeqHostReset_canon hs
  | seqHostCharge => exact execSeqHostCharge_canon hs
  | seqHostOff => exact execSeqHostOff_canon hs
  | seqTcommit => exact execSeqTcommit_canon hs
  | prechargeTimeout => exact execPrechargeTimeout_canon hs
  | syncWindowsHeld => exact execSyncWindowsHeld_canon hs
  | cb1FeedbackTimeout => exact execCb1FeedbackTimeout_canon hs
  | syncTimeout => exact execSyncTimeout_canon hs
  | firstMoverSlotExpiry => exact execFirstMoverSlotExpiry_canon hs
  | stopTimeout => exact execStopTimeout_canon hs
  | dcLinkOutOfBand => exact execDcLinkOutOfBand_canon hs
  | voterWord => exact execVoterWord_canon hs
  | pwmWindowClose => exact execPwmWindowClose_canon hs
  | signatureComparison => exact execSignatureComparison_canon hs
  | laneLate => exact execLaneLate_canon hs
  | reserveCopyComplete => exact execReserveCopyComplete_canon hs
  | laneBistComplete => exact execLaneBistComplete_canon hs
  | laneHardFault => exact execLaneHardFault_canon hs
  | mismatchWindowClose => exact execMismatchWindowClose_canon hs
  | laneEccCorrected => exact execLaneEccCorrected_canon hs
  | fadeEnd => exact execFadeEnd_canon hs
  | cleRunStart => exact execCleRunStart_canon hs
  | cleRunStop => exact execCleRunStop_canon hs
  | cstart => exact execCstart_canon hs
  | correlationDone => exact execCorrelationDone_canon hs
  | capstart => exact execCapstart_canon hs
  | capstop => exact execCapstop_canon hs
  | captureFull => exact execCaptureFull_canon hs
  | generatorEnable => exact execGeneratorEnable_canon hs
  | capdataRead => exact execCapdataRead_canon hs
  | scanPeriodExpiry => exact execScanPeriodExpiry_canon hs
  | scanComplete => exact execScanComplete_canon hs
  | scanRevertLast => exact execScanRevertLast_canon hs
  | scanRevertAll => exact execScanRevertAll_canon hs
  | vNop => exact execVNop_canon hs
  | vFadd => exact execVFadd_canon hs
  | vFsub => exact execVFsub_canon hs
  | vFmul => exact execVFmul_canon hs
  | vFma => exact execVFma_canon hs
  | vFnma => exact execVFnma_canon hs
  | vFmin => exact execVFmin_canon hs
  | vFmax => exact execVFmax_canon hs
  | vFabs => exact execVFabs_canon hs
  | vFneg => exact execVFneg_canon hs
  | vFmov => exact execVFmov_canon hs
  | vFcmp => exact execVFcmp_canon hs
  | vSel => exact execVSel_canon hs
  | vSat => exact execVSat_canon hs
  | vIntg => exact execVIntg_canon hs
  | vAccd => exact execVAccd_canon hs
  | vFtst => exact execVFtst_canon hs
  | vPlog => exact execVPlog_canon hs
  | vIand => exact execVIand_canon hs
  | vIor => exact execVIor_canon hs
  | vIxor => exact execVIxor_canon hs
  | vIshl => exact execVIshl_canon hs
  | vIshr => exact execVIshr_canon hs
  | vIcmp => exact execVIcmp_canon hs
  | vPins => exact execVPins_canon hs
  | vCvti => exact execVCvti_canon hs
  | vCvtf => exact execVCvtf_canon hs
  | vLd => exact execVLd_canon hs
  | vSt => exact execVSt_canon hs
  | vLdc => exact execVLdc_canon hs
  | vLdp => exact execVLdp_canon hs
  | vIn => exact execVIn_canon hs
  | vOut => exact execVOut_canon hs
  | vPwmw => exact execVPwmw_canon hs
  | vSincos => exact execVSincos_canon hs
  | vSqrt => exact execVSqrt_canon hs
  | vRecip => exact execVRecip_canon hs
  | vAtan2 => exact execVAtan2_canon hs
  | vClarke => exact execVClarke_canon hs
  | vPark => exact execVPark_canon hs
  | vIpark => exact execVIpark_canon hs
  | vSeq => exact execVSeq_canon hs
  | vSwing => exact execVSwing_canon hs
  | vLimv => exact execVLimv_canon hs
  | vBiq => exact execVBiq_canon hs
  | vInj => exact execVInj_canon hs
  | vAadd => exact execVAadd_canon hs
  | vAdif => exact execVAdif_canon hs
  | vSampleEnd => exact execVSampleEnd_canon hs
  | modulatorClkloss => exact execModulatorClkloss_canon hs
  | manchesterViolation => exact execManchesterViolation_canon hs
  | stuck => exact execStuck_canon hs
  | fineOutput => exact execFineOutput_canon hs
  | fastPathOutput => exact execFastPathOutput_canon hs
  | settlingEnd => exact execSettlingEnd_canon hs
  | senseSwapTimeout => exact execSenseSwapTimeout_canon hs
  | auxadcConversionDone => exact execAuxadcConversionDone_canon hs
  | auxadcFreerun => exact execAuxadcFreerun_canon hs
  | comparatorTripCrossing => exact execComparatorTripCrossing_canon hs
  | comparatorHardCrossing => exact execComparatorHardCrossing_canon hs
  | comparatorRelease => exact execComparatorRelease_canon hs
  | blankingEnd => exact execBlankingEnd_canon hs
  | protFrearm => exact execProtFrearm_canon hs
  | protReserveMap => exact execProtReserveMap_canon hs
  | protReserveArmEnd => exact execProtReserveArmEnd_canon hs
  | timebaseStart => exact execTimebaseStart_canon hs
  | timebaseStop => exact execTimebaseStop_canon hs
  | timebaseStopBoundary => exact execTimebaseStopBoundary_canon hs
  | delayLineRefresh => exact execDelayLineRefresh_canon hs
  | pwmEdge => exact execPwmEdge_canon hs
  | deadTimeExpiry => exact execDeadTimeExpiry_canon hs
  | gsReturn => exact execGsReturn_canon hs
  | gateTimeout => exact execGateTimeout_canon hs
  | padFault => exact execPadFault_canon hs
  | npcDwellEnd => exact execNpcDwellEnd_canon hs
  | pwmCmpaWrite => exact execPwmCmpaWrite_canon hs
  | pwmCmpbWrite => exact execPwmCmpbWrite_canon hs
  | gateTripclr => exact execGateTripclr_canon hs
  | tripLatchClear => exact execTripLatchClear_canon hs
  | gateFrearm => exact execGateFrearm_canon hs
  | gateReserveSelect => exact execGateReserveSelect_canon hs
  | gateReserveTargetOff => exact execGateReserveTargetOff_canon hs
  | gateSwapTimeout => exact execGateSwapTimeout_canon hs
  | gbusPoll => exact execGbusPoll_canon hs
  | gbusResponse => exact execGbusResponse_canon hs
  | gbusTimeout => exact execGbusTimeout_canon hs
  | quadratureEdge => exact execQuadratureEdge_canon hs
  | indexEvent => exact execIndexEvent_canon hs
  | sincosConversion => exact execSincosConversion_canon hs
  | serialFrameStart => exact execSerialFrameStart_canon hs
  | serialFrameDone => exact execSerialFrameDone_canon hs
  | pcmpPulseEnd => exact execPcmpPulseEnd_canon hs
  | posArm => exact execPosArm_canon hs
  | posListWrite => exact execPosListWrite_canon hs
  | rampTgtWrite => exact execRampTgtWrite_canon hs
  | rampSet => exact execRampSet_canon hs
  | rampHold => exact execRampHold_canon hs
  | rampRelease => exact execRampRelease_canon hs
  | lockstepMismatch => exact execLockstepMismatch_canon hs
  | corePairBistComplete => exact execCorePairBistComplete_canon hs
  | sAdd => exact execSAdd_canon hs
  | sSub => exact execSSub_canon hs
  | sAnd => exact execSAnd_canon hs
  | sOr => exact execSOr_canon hs
  | sXor => exact execSXor_canon hs
  | sShl => exact execSShl_canon hs
  | sShr => exact execSShr_canon hs
  | sSar => exact execSSar_canon hs
  | sRor => exact execSRor_canon hs
  | sMul => exact execSMul_canon hs
  | sMulh => exact execSMulh_canon hs
  | sDiv => exact execSDiv_canon hs
  | sRem => exact execSRem_canon hs
  | sCmp => exact execSCmp_canon hs
  | sLdhi => exact execSLdhi_canon hs
  | sFadd => exact execSFadd_canon hs
  | sFsub => exact execSFsub_canon hs
  | sFmul => exact execSFmul_canon hs
  | sFdiv => exact execSFdiv_canon hs
  | sFma => exact execSFma_canon hs
  | sFsqrt => exact execSFsqrt_canon hs
  | sFmin => exact execSFmin_canon hs
  | sFmax => exact execSFmax_canon hs
  | sFcmp => exact execSFcmp_canon hs
  | sFconvert => exact execSFconvert_canon hs
  | sFmove => exact execSFmove_canon hs
  | sLd => exact execSLd_canon hs
  | sSt => exact execSSt_canon hs
  | sFld => exact execSFld_canon hs
  | sFst => exact execSFst_canon hs
  | sLdgrp => exact execSLdgrp_canon hs
  | sStgrp => exact execSStgrp_canon hs
  | sLdrv => exact execSLdrv_canon hs
  | sStcv => exact execSStcv_canon hs
  | sAtadd => exact execSAtadd_canon hs
  | sAtswp => exact execSAtswp_canon hs
  | sAtcmp => exact execSAtcmp_canon hs
  | sMcpy => exact execSMcpy_canon hs
  | sGo => exact execSGo_canon hs
  | sGol => exact execSGol_canon hs
  | sTcall => exact execSTcall_canon hs
  | sDbrk => exact execSDbrk_canon hs
  | sXret => exact execSXret_canon hs
  | sSrd => exact execSSrd_canon hs
  | sSwr => exact execSSwr_canon hs
  | sDrain => exact execSDrain_canon hs
  | sIrfs => exact execSIrfs_canon hs
  | sXlinvAll => exact execSXlinvAll_canon hs
  | sXlinvAsid => exact execSXlinvAsid_canon hs
  | sXlinvVa => exact execSXlinvVa_canon hs
  | sXlinvPageAsid => exact execSXlinvPageAsid_canon hs
  | sIdle => exact execSIdle_canon hs
  | interruptTaken => exact execInterruptTaken_canon hs
  | mmuCtxWrite => exact execMmuCtxWrite_canon hs
  | queuePidxWrite => exact execQueuePidxWrite_canon hs
  | queueCidxWrite => exact execQueueCidxWrite_canon hs
  | dmaDescriptorFetch => exact execDmaDescriptorFetch_canon hs
  | dmaBeat => exact execDmaBeat_canon hs
  | dmaResume => exact execDmaResume_canon hs
  | dmaSkip => exact execDmaSkip_canon hs
  | dmaAbort => exact execDmaAbort_canon hs
  | dmaEnWrite => exact execDmaEnWrite_canon hs
  | rowReplace => exact execRowReplace_canon hs
  | scrubPass => exact execScrubPass_canon hs
  | xspiCommand => exact execXspiCommand_canon hs
  | xspiCommandDone => exact execXspiCommandDone_canon hs
  | emramProtectedWrite => exact execEmramProtectedWrite_canon hs
  | taskRelease => exact execTaskRelease_canon hs
  | eventTaskRelease => exact execEventTaskRelease_canon hs
  | taskBodyEnd => exact execTaskBodyEnd_canon hs
  | remoteModuleRead => exact execRemoteModuleRead_canon hs
  | remoteModuleStale => exact execRemoteModuleStale_canon hs
  | remoteModuleSend => exact execRemoteModuleSend_canon hs
  | retentionWriteback => exact execRetentionWriteback_canon hs
  | cleSnapshot => exact execCleSnapshot_canon hs
  | pfailAssert => exact execPfailAssert_canon hs
  | pfailFlushComplete => exact execPfailFlushComplete_canon hs
  | pfailRelease => exact execPfailRelease_canon hs
  | forceSet => exact execForceSet_canon hs
  | forceRel => exact execForceRel_canon hs
  | forceRelall => exact execForceRelall_canon hs
  | forceList => exact execForceList_canon hs
  | precopyDone => exact execPrecopyDone_canon hs
  | onlineSwitch => exact execOnlineSwitch_canon hs
  | switchWindowExpiry => exact execSwitchWindowExpiry_canon hs
  | watchdogFire => exact execWatchdogFire_canon hs
  | cycStart => exact execCycStart_canon hs
  | cycStop => exact execCycStop_canon hs
  | cycRestart => exact execCycRestart_canon hs
  | ringLaneFail => exact execRingLaneFail_canon hs
  | ringLaneSwap => exact execRingLaneSwap_canon hs
  | hopReplay => exact execHopReplay_canon hs
  | ringRd => exact execRingRd_canon hs
  | ringWr => exact execRingWr_canon hs
  | ringWrb => exact execRingWrb_canon hs
  | ringCpl => exact execRingCpl_canon hs
  | ringMsg => exact execRingMsg_canon hs
  | ringTempo => exact execRingTempo_canon hs
  | ringPair => exact execRingPair_canon hs
  | ringBar => exact execRingBar_canon hs
  | ringProm => exact execRingProm_canon hs
  | ringStat => exact execRingStat_canon hs
  | ringLink => exact execRingLink_canon hs
  | requestTimeout => exact execRequestTimeout_canon hs
  | tagGapSkip => exact execTagGapSkip_canon hs
  | linkDown => exact execLinkDown_canon hs
  | linkHeal => exact execLinkHeal_canon hs
  | hostPortLive => exact execHostPortLive_canon hs
  | promenadeSwitch => exact execPromenadeSwitch_canon hs
  | timeOrderedSet => exact execTimeOrderedSet_canon hs
  | timeLoss => exact execTimeLoss_canon hs
  | snapshotArm => exact execSnapshotArm_canon hs
  | snapshotTake => exact execSnapshotTake_canon hs
  | barrierArrive => exact execBarrierArrive_canon hs
  | ringReset => exact execRingReset_canon hs
  | hostPcieRead => exact execHostPcieRead_canon hs
  | hostPcieWrite => exact execHostPcieWrite_canon hs
  | hspiWrite => exact execHspiWrite_canon hs
  | hspiRead => exact execHspiRead_canon hs
  | hspiStatus => exact execHspiStatus_canon hs
  | hspiData => exact execHspiData_canon hs
  | hostFlagclr => exact execHostFlagclr_canon hs
  | hostStatusChange => exact execHostStatusChange_canon hs
  | opRelease => exact execOpRelease_canon hs
  | opCancel => exact execOpCancel_canon hs
  | opDequeue => exact execOpDequeue_canon hs
  | imageVerify => exact execImageVerify_canon hs
  | imageActivate => exact execImageActivate_canon hs
  | figureExchange => exact execFigureExchange_canon hs
  | recordRead => exact execRecordRead_canon hs
  | admittanceScan => exact execAdmittanceScan_canon hs
  | bist => exact execBist_canon hs
  | scrub => exact execScrub_canon hs
  | calWrite => exact execCalWrite_canon hs
  | healthReport => exact execHealthReport_canon hs
  | attest => exact execAttest_canon hs
  | reserveSwap => exact execReserveSwap_canon hs
  | promenade => exact execPromenade_canon hs
  | safetyConfig => exact execSafetyConfig_canon hs
  | callInChange => exact execCallInChange_canon hs
  | floorInChange => exact execFloorInChange_canon hs
  | floorConflict => exact execFloorConflict_canon hs
  | cutinPermitTimeout => exact execCutinPermitTimeout_canon hs
  | openFloorRelease => exact execOpenFloorRelease_canon hs
  | pairOpen => exact execPairOpen_canon hs
  | pairReq => exact execPairReq_canon hs
  | mirrorFrame => exact execMirrorFrame_canon hs
  | partnerLaneFail => exact execPartnerLaneFail_canon hs
  | memberHeartbeat => exact execMemberHeartbeat_canon hs
  | heartbeatMiss => exact execHeartbeatMiss_canon hs
  | callerHeartbeatSend => exact execCallerHeartbeatSend_canon hs
  | callerHeartbeat => exact execCallerHeartbeat_canon hs
  | callerLost => exact execCallerLost_canon hs
  | cutinRequest => exact execCutinRequest_canon hs
  | callerSwap => exact execCallerSwap_canon hs
  | cutinDecision => exact execCutinDecision_canon hs
  | cutinCallChange => exact execCutinCallChange_canon hs
  | cutfailRestore => exact execCutfailRestore_canon hs
  | standbySelftestStep => exact execStandbySelftestStep_canon hs
  | ethLinkChange => exact execEthLinkChange_canon hs
  | ethFrameReceive => exact execEthFrameReceive_canon hs
  | ethTxEntry => exact execEthTxEntry_canon hs
  | ethLaunch => exact execEthLaunch_canon hs
  | prpSupervision => exact execPrpSupervision_canon hs
  | macAgeing => exact execMacAgeing_canon hs
  | servoUpdate => exact execServoUpdate_canon hs
  | servoHoldover => exact execServoHoldover_canon hs
  | timeStep => exact execTimeStep_canon hs
  | localTempoLock => exact execLocalTempoLock_canon hs
  | tempoRestore => exact execTempoRestore_canon hs
  | timeNowRead => exact execTimeNowRead_canon hs
  | capSwtrig => exact execCapSwtrig_canon hs
  | acquisitionSample => exact execAcquisitionSample_canon hs
  | recordClose => exact execRecordClose_canon hs
  | measurementsDone => exact execMeasurementsDone_canon hs
  | recordCopyDone => exact execRecordCopyDone_canon hs
  | capProtect => exact execCapProtect_canon hs
  | capDelete => exact execCapDelete_canon hs
  | safetyInputSample => exact execSafetyInputSample_canon hs
  | safetyCycle => exact execSafetyCycle_canon hs
  | safetyComparisonFrame => exact execSafetyComparisonFrame_canon hs
  | safetyFrameLost => exact execSafetyFrameLost_canon hs
  | testPulse => exact execTestPulse_canon hs
  | inputDiscrepancy => exact execInputDiscrepancy_canon hs
  | ss1Timeout => exact execSs1Timeout_canon hs
  | lockfault => exact execLockfault_canon hs
  | resetInput => exact execResetInput_canon hs
  | contactorFeedbackTimeout => exact execContactorFeedbackTimeout_canon hs
  | safereqDemand => exact execSafereqDemand_canon hs
  | safereqReset => exact execSafereqReset_canon hs
  | safereqClose => exact execSafereqClose_canon hs
  | safereqUnlock => exact execSafereqUnlock_canon hs
  | keyAck => exact execKeyAck_canon hs
  | keyTimeout => exact execKeyTimeout_canon hs
  | driftEvaluation => exact execDriftEvaluation_canon hs
  | ownerEnroll => exact execOwnerEnroll_canon hs
  | vendorKeyRevoke => exact execVendorKeyRevoke_canon hs
  | debugToken => exact execDebugToken_canon hs
  | powerOnReset => exact execPowerOnReset_canon hs
  | refclkError => exact execRefclkError_canon hs
  | supplyReset => exact execSupplyReset_canon hs
  | pllLock => exact execPllLock_canon hs
  | pllAcquisitionFail => exact execPllAcquisitionFail_canon hs
  | pllReserveReady => exact execPllReserveReady_canon hs
  | pllLossOfLock => exact execPllLossOfLock_canon hs
  | bandMeasure => exact execBandMeasure_canon hs
  | bandMeasureDone => exact execBandMeasureDone_canon hs
  | supplySag => exact execSupplySag_canon hs
  | sagRecovery => exact execSagRecovery_canon hs
  | monitorSample => exact execMonitorSample_canon hs
  | tempCritical => exact execTempCritical_canon hs
  | monVminmaxRead => exact execMonVminmaxRead_canon hs
  | vaultWake => exact execVaultWake_canon hs
  | tamper => exact execTamper_canon hs
  | rtcSync => exact execRtcSync_canon hs
  | longOperationComplete => exact execLongOperationComplete_canon hs
  | refclkReturn => exact execRefclkReturn_canon hs
  | partnerLinkReturn => exact execPartnerLinkReturn_canon hs
  | ringRetrainComplete => exact execRingRetrainComplete_canon hs

end

theorem step_canon {s : State} (hs : s.part.Canon) : KeepsCanon (step s) := by
  unfold step
  split
  · rintro _ ⟨⟩
    exact hs
  next c rest _ => exact exec_canon (s := { s with pending := rest }) hs

/-- Settles O4: each command's meaning is made of writes of registers and bytes, which keep the form, and of changes of other
fields, which leave both as they are. -/
theorem canonicalFormKept : Obligations.CanonicalFormKept := fun s t hs ht =>
  t.canonical_iff.mpr (step_canon (s.canonical_iff.mp hs) t ht)

end Sys2Proof.Machine
end

section
/-! PROOFS. The reset values: no register lies where the staged copy of an ST register is kept, so that the copy resets to the
committed register's value. -/

namespace Sys2Proof.Machine

/-- The offset of the last register of a row. -/
def RegRow.last (r : RegRow) : Nat := r.base + r.s1 * (r.n1 - 1) + r.s2 * (r.n2 - 1)

/-- A row's registers lie between its base and its last register. -/
theorem RegRow.bounds_of_has {r : RegRow} {off : Nat} (h : r.has off = true) : r.base ≤ off ∧ off ≤ r.last := by
  have step (d s n : Nat) (hd : d / s < n) (hm : d % s = 0) : d ≤ s * (n - 1) := by
    have := Nat.mul_le_mul_left s (Nat.le_sub_one_of_lt hd)
    have := Nat.div_add_mod d s
    omega
  unfold RegRow.has at h
  unfold RegRow.last
  split at h
  · cases h
  · split at h
    · simp only [Bool.and_eq_true, decide_eq_true_eq] at h
      have := step _ _ _ h.2 h.1
      omega
    · split at h
      · simp only [Bool.and_eq_true, decide_eq_true_eq] at h
        have := step _ _ _ h.2 h.1
        omega
      · simp only [Bool.and_eq_true, decide_eq_true_eq] at h
        obtain ⟨⟨h1, hm⟩, h2⟩ := h
        have := step _ _ _ h2 hm
        have := Nat.mul_le_mul_left r.s1 (Nat.le_sub_one_of_lt h1)
        have := Nat.div_add_mod (off - r.base) r.s1
        omega

/-- Where the ST registers of a block begin: in the block of the CLE above the windows of the lanes, which its upper half
holds. -/
def stStart (b : Nat) : Nat := if b = 0x10 then 0x2000 else 0

/-- The ST registers of a block stand in its lower half, and the registers of its upper half below the staged copies. -/
def rowsApart (b : Nat) (r : RegRow) : Bool :=
  (r.st = 0 || (b * 0x10000 + stStart b ≤ r.base && r.last < b * 0x10000 + 0x8000)) &&
    r.last < b * 0x10000 + 0x8000 + stStart b

theorem blockRows_apart : ∀ b < 0x25, (blockRows (b * 0x10000)).all (rowsApart b) = true := by
  decide

theorem blockRows_eq (off : Nat) : blockRows off = blockRows (off / 0x10000 * 0x10000) := by
  unfold blockRows
  rw [Nat.mul_div_cancel _ (by decide)]

/-- The rows of a block keep apart. -/
theorem rowsApart_of_mem {off : Nat} {r : RegRow} (h : r ∈ blockRows off) : rowsApart (off / 0x10000) r = true := by
  rw [blockRows_eq] at h
  by_cases hb : off / 0x10000 < 0x25
  · exact List.all_eq_true.mp (blockRows_apart _ hb) r h
  · have hnil : blockRows (off / 0x10000 * 0x10000) = [] := by
      unfold blockRows
      rw [Nat.mul_div_cancel _ (by decide)]
      generalize off / 0x10000 = b at hb
      split
      case h_28 => rfl
      all_goals omega
    rw [hnil] at h
    cases h

theorem mem_of_rowAt {off : Nat} {r : RegRow} (h : rowAt off = some r) : r ∈ blockRows off ∧ r.has off = true :=
  ⟨List.mem_of_find?_eq_some h, List.find?_some (p := fun x : RegRow => x.has off) h⟩

/-- No register lies at the place of a staged copy. -/
theorem rowAt_stagedOff {off : Nat} {r : RegRow} (h : rowAt off = some r) (hst : r.st ≠ 0) :
    rowAt (stagedOff off) = none := by
  obtain ⟨hmem, hhas⟩ := mem_of_rowAt h
  obtain ⟨hlo, hhi⟩ := r.bounds_of_has hhas
  have hr := rowsApart_of_mem hmem
  simp only [rowsApart, hst, decide_false, Bool.false_or, Bool.and_eq_true, decide_eq_true_eq] at hr
  refine List.find?_eq_none.mpr fun x hx hxhas => ?_
  have hxhi := (x.bounds_of_has hxhas).2
  have hx := rowsApart_of_mem hx
  have hdiv : stagedOff off / 0x10000 = off / 0x10000 := by
    unfold stagedOff
    omega
  simp only [rowsApart, hdiv, Bool.and_eq_true, decide_eq_true_eq] at hx
  unfold stagedOff at hxhi
  omega

theorem regReset_of_rowAt {off : Nat} {r : RegRow} (h : rowAt off = some r) : regReset off = r.resetAt off := by
  rw [regReset, h]

theorem regReset_of_copy {a off : Nat} {r : RegRow} (ha : rowAt a = none) (hoff : a - 0x8000 = off) (h : rowAt off = some r) :
    regReset a = r.resetAt off := by
  rw [regReset, ha, hoff, h]

/-- A staged copy resets to its committed register's value. -/
theorem regReset_stagedOff {off : Nat} {r : RegRow} (h : rowAt off = some r) (hst : r.st ≠ 0) :
    regReset (stagedOff off) = regReset off := by
  have hback : stagedOff off - 0x8000 = off := by
    unfold stagedOff
    omega
  rw [regReset_of_copy (rowAt_stagedOff h hst) hback h, regReset_of_rowAt h]

theorem reset_reg (off : Nat) : State.reset.part.reg off = regReset off := rfl

/-- The reset values of Tables 4.16, 7.10, 7.14, 8.6, 2.6 and 1.17, and the state of the pair (R41). -/
theorem reset_values :
    State.reset.part.reg (Reg.CLE_RGN 0 0) = 0x8000FFFF ∧ State.reset.part.reg (Reg.PWM_TBCFG 0) = 0x80000000 ∧
      State.reset.part.reg (Reg.GATE_CCFG 0) = 0x0A000190 ∧ State.reset.part.reg (Reg.POS_CFG 0) = 0x04CC3005 ∧
      State.reset.part.reg (Reg.CLE_PW 0 0) = 0x0360C600 ∧ State.reset.part.reg Reg.SYS_POOL = 0x1818 ∧
      State.reset.part.role = 0 ∧ State.reset.part.floor = false :=
  ⟨by decide, by decide, by decide, by decide, by decide, by decide, by decide, by decide⟩

theorem staged_reset {off : Nat} {r : RegRow} (h : rowAt off = some r) (hst : r.st ≠ 0) :
    State.reset.part.staged off = State.reset.part.reg off := by
  rw [Part.staged, reset_reg, reset_reg, regReset_stagedOff h hst]

/-- Settles O6: the register file is empty at reset, so that every register reads its table's reset value. -/
theorem resetValues : Obligations.ResetValues := ⟨fun _ _ h hst => staged_reset h hst, reset_values⟩

end Sys2Proof.Machine
end

section
/-! PROOFS. Decode errors, the software reset, transaction entries and the pins: what each does to its registers. -/

namespace Sys2Proof.Machine

variable {p : Part}

/-- Two changes of registers one after the other. -/
theorem RegsBut.trans {p q r : Part} {l : List Nat} (h1 : RegsBut p q l) (h2 : RegsBut q r l) : RegsBut p r l :=
  fun off h => (h2 off h).trans (h1 off h)

theorem RegsBut.setReg {a : Nat} {v : Word} {l : List Nat} (h : a ∈ l) : RegsBut p (p.setReg a v) l := by
  intro off hoff
  rw [Part.reg_setReg, if_neg]
  rintro rfl
  exact hoff h

theorem RegsBut.setFld {a lo w n : Nat} {l : List Nat} (h : a ∈ l) : RegsBut p (p.setFld a lo w n) l := .setReg h

theorem RegsBut.thenFld {q : Part} {a lo w n : Nat} {l : List Nat} (hq : RegsBut p q l) (h : a ∈ l) :
    RegsBut p (q.setFld a lo w n) l := hq.trans (.setFld h)

/-- From `p` to `q` nothing changed but registers and the state of the bus. -/
def BusOnly (p q : Part) : Prop := q = { p with regs := q.regs, bus := q.bus }

theorem BusOnly.trans {p q r : Part} (h1 : BusOnly p q) (h2 : BusOnly q r) : BusOnly p r := by
  rw [BusOnly] at *
  rw [h2, h1]

theorem BusOnly.clk_eq {p q : Part} (h : BusOnly p q) : q.clk = p.clk := by
  rw [BusOnly] at h
  rw [h]

theorem BusOnly.setReg {a : Nat} {v : Word} : BusOnly p (p.setReg a v) := rfl

theorem BusOnly.setFld {a lo w n : Nat} : BusOnly p (p.setFld a lo w n) := rfl

theorem BusOnly.setBus {b : BusState} : BusOnly p { p with bus := b } := rfl

/-! An answer changes no register. -/

@[simp] theorem Part.reg_answer (p : Part) (w : Word) (ok : Bool) (off : Nat) : (p.answer w ok).reg off = p.reg off := rfl

@[simp] theorem Part.fld_answer (p : Part) (w : Word) (ok : Bool) (off lo n : Nat) :
    (p.answer w ok).fld off lo n = p.fld off lo n := rfl

@[simp] theorem Part.bit_answer (p : Part) (w : Word) (ok : Bool) (off i : Nat) :
    (p.answer w ok).bit off i = p.bit off i := rfl

theorem RegsBut.answer {w : Word} {ok : Bool} {l : List Nat} : RegsBut p (p.answer w ok) l := fun _ _ => rfl

/-- An eight-bit field fits an eight-bit field. -/
theorem Part.fld_mod_byte (p : Part) (off lo : Nat) : p.fld off lo 8 % 2 ^ 8 = p.fld off lo 8 :=
  Nat.mod_eq_of_lt (bits_lt _ _ _)

/-- A field of the register whose other field was set. -/
theorem Part.fld_setFld_apart (p : Part) (a lo w n lo' w' : Nat) (h : lo + w ≤ 32) (hd : lo' + w' ≤ lo ∨ lo + w ≤ lo') :
    (p.setFld a lo w n).fld a lo' w' = p.fld a lo' w' := by
  rw [Part.fld, Part.reg_setFld, if_pos rfl, bits_setBits_ne _ _ _ _ _ _ h hd, Part.fld]

/-- A field of another register than the one that was written. -/
theorem Part.fld_setFld_ne (p : Part) {a b : Nat} (lo w n lo' w' : Nat) (h : b ≠ a) :
    (p.setFld a lo w n).fld b lo' w' = p.fld b lo' w' := by
  rw [Part.fld, Part.reg_setFld, if_neg h, Part.fld]

/-! Decode errors. -/

section
variable {ini : Initiator} {addr : Nat}

theorem Part.decodeError_regsBut :
    RegsBut p (p.decodeError ini addr) [Reg.SYS_DECERR, Reg.SYS_DECERR_ADDR_LO, Reg.SYS_DECERR_ADDR_HI] :=
  .trans (.trans (.trans (.trans (.setFld (by simp)) (.setFld (by simp))) (.setFld (by simp))) (.setReg (by simp)))
    (.setReg (by simp))

theorem Part.decodeError_busOnly : BusOnly p (p.decodeError ini addr) :=
  .trans (.trans (.trans (.trans .setFld .setFld) .setFld) .setReg) .setReg

/-- The register of decode errors after one: the count, the initiator's code and the flag. -/
theorem Part.reg_decodeError : (p.decodeError ini addr).reg Reg.SYS_DECERR =
    setBits (setBits (setBits (p.reg Reg.SYS_DECERR) 16 16 (satInc 16 (p.fld Reg.SYS_DECERR 16 16))) 4 4 ini.code)
      0 1 1 := by
  simp [Part.decodeError, Part.countSat, Reg.SYS_DECERR, Reg.SYS_DECERR_ADDR_LO, Reg.SYS_DECERR_ADDR_HI]

theorem initiatorCode_lt (ini : Initiator) : ini.code < 9 := by
  cases ini with
  | core k => exact k.isLt.trans (by decide)
  | _ => simp [Initiator.code]

theorem Part.decodeError_fields :
    (p.decodeError ini addr).bit Reg.SYS_DECERR 0 = true ∧ (p.decodeError ini addr).fld Reg.SYS_DECERR 4 4 = ini.code ∧
      (p.decodeError ini addr).fld Reg.SYS_DECERR 16 16 = min (p.fld Reg.SYS_DECERR 16 16 + 1) 0xFFFF := by
  have hcode : ini.code % 16 = ini.code := Nat.mod_eq_of_lt ((initiatorCode_lt ini).trans (by decide))
  have hsat : satInc 16 (p.fld Reg.SYS_DECERR 16 16) % 65536 = min (p.fld Reg.SYS_DECERR 16 16 + 1) 0xFFFF := by
    unfold satInc
    omega
  refine ⟨?_, ?_, ?_⟩
  · simp [Part.bit, Part.reg_decodeError, bitAt_setBits]
  · simp [Part.fld, Part.reg_decodeError, bits_setBits_ne, bits_setBits, hcode]
  · rw [Part.fld, Part.reg_decodeError]
    simpa [bits_setBits_ne, bits_setBits] using hsat

theorem Part.decodeError_addr (p : Part) (ini : Initiator) (addr : Addr) :
    (p.decodeError ini addr.toNat).reg Reg.SYS_DECERR_ADDR_LO = addr.setWidth 32 ∧
      (p.decodeError ini addr.toNat).reg Reg.SYS_DECERR_ADDR_HI = (addr >>> 32).setWidth 32 := by
  refine ⟨BitVec.eq_of_toNat_eq ?_, BitVec.eq_of_toNat_eq ?_⟩
  · simp [Part.decodeError, Reg.SYS_DECERR_ADDR_LO, Reg.SYS_DECERR_ADDR_HI]
  · have := addr.isLt
    simp [Part.decodeError, Nat.shiftRight_eq_div_pow]
    omega

end

theorem exec_decodeErrorAccess (ini : Initiator) (addr : Addr) (wr : Bool) (v : Word) (s : State) :
    exec (.decodeErrorAccess ini addr wr v) s =
      s.run (fun p => (p.decodeError ini addr.toNat).when (!wr) (·.answer 0 true)) := by rfl

theorem does_decodeErrorAccess {ini : Initiator} {addr : Addr} {wr : Bool} {v : Word} {s : State} (h : s.part.alive = true) :
    Does (.decodeErrorAccess ini addr wr v) s (fun p =>
      p.bit Reg.SYS_DECERR 0 = true ∧ p.fld Reg.SYS_DECERR 4 4 = ini.code ∧
      p.fld Reg.SYS_DECERR 16 16 = min (s.part.fld Reg.SYS_DECERR 16 16 + 1) 0xFFFF ∧
      p.reg Reg.SYS_DECERR_ADDR_LO = addr.setWidth 32 ∧
      p.reg Reg.SYS_DECERR_ADDR_HI = (addr >>> 32).setWidth 32 ∧
      (wr = false → p.bus.rdata = 0) ∧ (wr = true → p.bus = s.part.bus) ∧
      RegsBut s.part p [Reg.SYS_DECERR, Reg.SYS_DECERR_ADDR_LO, Reg.SYS_DECERR_ADDR_HI] ∧
      p = { s.part with regs := p.regs, bus := p.bus }) := by
  refine .of_run (exec_decodeErrorAccess ini addr wr v s) h ?_
  obtain ⟨hbit, hcode, hcount⟩ := Part.decodeError_fields (p := s.part) (ini := ini) (addr := addr.toNat)
  obtain ⟨hlo, hhi⟩ := s.part.decodeError_addr ini addr
  have hbut := Part.decodeError_regsBut (p := s.part) (ini := ini) (addr := addr.toNat)
  have hbus : BusOnly s.part (s.part.decodeError ini addr.toNat) := Part.decodeError_busOnly
  cases wr
  · simp only [Part.when, Bool.not_false, if_true, Part.bit_answer, Part.fld_answer, Part.reg_answer]
    exact ⟨hbit, hcode, hcount, hlo, hhi, fun _ => rfl, nofun, hbut.trans .answer, hbus.trans .setBus⟩
  · simp only [Part.when, Bool.not_true, Bool.false_eq_true, if_false]
    exact ⟨hbit, hcode, hcount, hlo, hhi, nofun, fun _ => Part.decodeError_bus _ _ _, hbut, hbus⟩

/-! The software reset. -/

section
variable {v : Word} {t : Instant} {s : State}

theorem exec_sysSwrst : exec (.sysSwrst v t) s = s.runRom (·.swrst v t) := by rfl

theorem idles_sysSwrst (hv : v ≠ 0x53575253) : Idles (.sysSwrst v t) s := by
  have hkeep : s.part.swrst v t = s.part := if_pos hv
  simp [Idles, exec_sysSwrst, State.runRom, hkeep]

theorem does_sysSwrst_first (h : s.part.clk.held = none) (hlate : ∀ a, s.part.bus.swrst = some a → a + msec 1 < t) :
    Does (.sysSwrst 0x53575253 t) s (fun p =>
      p = { s.part with now := max s.part.now t, bus := { s.part.bus with swrst := some t } }) := by
  have hany : s.part.bus.swrst.any (fun a => t ≤ a + msec 1) = false := by
    rw [Option.any_eq_false]
    intro a ha
    simpa using hlate a ha
  refine ⟨_, ?_, rfl⟩
  rw [exec_sysSwrst, State.runRom_out h]
  simp only [Part.swrst, hany]
  rfl

theorem does_sysSwrst_second {a : Instant} (h : s.part.clk.held = none) (ha : s.part.bus.swrst = some a)
    (ht : t ≤ a + msec 1) : Does (.sysSwrst 0x53575253 t) s (fun p =>
      p = (s.part.restart 5 0 t).boot t ∧ (s.part.restart 5 0 t).reg Reg.PWR_RSTCAUSE = 0x05000000) := by
  refine ⟨(s.part.restart 5 0 t).boot t, ?_, rfl, ?_⟩
  · rw [exec_sysSwrst, State.runRom_out h]
    simp [Part.swrst, ha, ht]
  · simp [Part.restart]

end

/-! Occupancy. -/

theorem exec_sysOccRead (k : Fin 10) (s : State) : exec (.sysOccRead k) s = s.run (·.occRead k.val) := by rfl

theorem Part.occRead_occ {k : Nat} (hk : k < 9) : p.occRead k =
    (p.answer (p.reg (Reg.SYS_OCC k)) true).setFld (Reg.SYS_OCC k) 16 8 (p.fld (Reg.SYS_OCC k) 0 8) :=
  if_neg (by omega)

theorem Part.occRead_pool : p.occRead 9 =
    (p.answer (p.reg Reg.SYS_POOL) true).setFld Reg.SYS_POOL 8 8 (p.fld Reg.SYS_POOL 0 8) := if_pos rfl

theorem does_sysOccRead {k : Fin 9} {s : State} (h : s.part.alive = true) :
    Does (.sysOccRead k.castSucc) s (fun p =>
      p.bus.rdata = s.part.reg (Reg.SYS_OCC k) ∧
      p.fld (Reg.SYS_OCC k) 16 8 = s.part.fld (Reg.SYS_OCC k) 0 8 ∧
      p.fld (Reg.SYS_OCC k) 0 16 = s.part.fld (Reg.SYS_OCC k) 0 16 ∧
      RegsBut s.part p [Reg.SYS_OCC k] ∧ p = { s.part with regs := p.regs, bus := p.bus }) := by
  refine .of_run (exec_sysOccRead k.castSucc s) h ?_
  rw [Fin.val_castSucc, Part.occRead_occ k.isLt]
  refine ⟨rfl, ?_, ?_, .trans .answer (.setFld (by simp)), BusOnly.trans .setBus .setFld⟩
  · rw [Part.fld_setFld_same _ _ _ _ _ (by decide), Part.fld_mod_byte]
  · rw [Part.fld_setFld_apart _ _ _ _ _ _ _ (by decide) (by decide), Part.fld_answer]

theorem does_sysPoolRead {s : State} (h : s.part.alive = true) :
    Does (.sysOccRead 9) s (fun p =>
      p.bus.rdata = s.part.reg Reg.SYS_POOL ∧ p.fld Reg.SYS_POOL 8 8 = s.part.fld Reg.SYS_POOL 0 8 ∧
      p.fld Reg.SYS_POOL 0 8 = s.part.fld Reg.SYS_POOL 0 8 ∧
      RegsBut s.part p [Reg.SYS_POOL] ∧ p = { s.part with regs := p.regs, bus := p.bus }) := by
  refine .of_run (exec_sysOccRead 9 s) h ?_
  show _ ∧ _
  rw [show (9 : Fin 10).val = 9 from rfl, Part.occRead_pool]
  refine ⟨rfl, ?_, ?_, .trans .answer (.setFld (by simp)), BusOnly.trans .setBus .setFld⟩
  · rw [Part.fld_setFld_same _ _ _ _ _ (by decide), Part.fld_mod_byte]
  · rw [Part.fld_setFld_apart _ _ _ _ _ _ _ (by decide) (by decide), Part.fld_answer]

/-! Transaction entries. -/

theorem occ_ne_pool (ini : Initiator) : Reg.SYS_POOL ≠ Reg.SYS_OCC ini.code := by
  have := initiatorCode_lt ini
  unfold Reg.SYS_POOL Reg.SYS_OCC
  omega

section
variable {ini : Initiator}

theorem Part.showOcc_busOnly {code : Nat} : BusOnly p (p.showOcc code) := by
  dsimp only [Part.showOcc]
  exact .trans (.trans (.trans .setFld .setFld) .setFld) .setFld

@[simp] theorem Part.setFld_bus (p : Part) (a lo w n : Nat) : (p.setFld a lo w n).bus = p.bus := rfl

@[simp] theorem Part.showOcc_bus (p : Part) (code : Nat) : (p.showOcc code).bus = p.bus := by
  simp only [Part.showOcc, Part.setFld_bus]

theorem Part.showOcc_regsBut {code : Nat} : RegsBut p (p.showOcc code) [Reg.SYS_OCC code, Reg.SYS_POOL] := by
  dsimp only [Part.showOcc]
  exact (((RegsBut.setFld (by simp)).thenFld (by simp)).thenFld (by simp)).thenFld (by simp)

/-- Showing the counts leaves the number of free entries. -/
theorem Part.fld_showOcc_pool : (p.showOcc ini.code).fld Reg.SYS_POOL 0 8 = p.fld Reg.SYS_POOL 0 8 := by
  unfold Part.showOcc
  rw [Part.fld_setFld_apart _ _ _ _ _ _ _ (by decide) (by decide), Part.fld_setFld_ne _ _ _ _ _ _ (occ_ne_pool ini),
    Part.fld_setFld_ne _ _ _ _ _ _ (occ_ne_pool ini), Part.fld_setFld_ne _ _ _ _ _ _ (occ_ne_pool ini)]

@[simp] theorem countOf_sSet (l : List (Nat × Nat)) (i n : Nat) : countOf (sSet (fun _ => 0) l i n) i = n := by
  simp [countOf]

/-- A change of the counts, and what shows them. -/
theorem Part.takeShow_frame (p : Part) (b : BusState) (ini : Initiator) :
    RegsBut p (({ p with bus := b } : Part).showOcc ini.code) [Reg.SYS_OCC ini.code, Reg.SYS_POOL] ∧
      BusOnly p (({ p with bus := b } : Part).showOcc ini.code) :=
  ⟨.trans (q := { p with bus := b }) (fun _ _ => rfl) Part.showOcc_regsBut, .trans .setBus Part.showOcc_busOnly⟩

/-- A change of the counts and of the number of free entries, and what shows them. -/
theorem Part.poolShow_frame (p : Part) (b : BusState) (n : Nat) (ini : Initiator) :
    RegsBut p ((({ p with bus := b } : Part).setFld Reg.SYS_POOL 0 8 n).showOcc ini.code)
        [Reg.SYS_OCC ini.code, Reg.SYS_POOL] ∧
      BusOnly p ((({ p with bus := b } : Part).setFld Reg.SYS_POOL 0 8 n).showOcc ini.code) :=
  ⟨.trans (q := { p with bus := b }) (fun _ _ => rfl) (.trans (.setFld (by simp)) Part.showOcc_regsBut),
    .trans .setBus (.trans .setFld Part.showOcc_busOnly)⟩

theorem Part.fld_poolShow (p : Part) (b : BusState) {n : Nat} (hn : n < 256) (ini : Initiator) :
    ((({ p with bus := b } : Part).setFld Reg.SYS_POOL 0 8 n).showOcc ini.code).fld Reg.SYS_POOL 0 8 = n := by
  rw [Part.fld_showOcc_pool, Part.fld_setFld_same _ _ _ _ _ (by decide), Nat.mod_eq_of_lt (by simpa using hn)]

theorem exec_transactionEntryGrant (ini : Option Initiator) (ends : List Initiator) (s : State) :
    exec (.transactionEntryGrant ini ends) s = s.run (fun p =>
      let p := p.each ends (·.endTransaction)
      match ini with
      | some q => p.askEntry q
      | none => p) := by rfl

variable {s : State}

theorem does_grant_reserved (h : s.part.alive = true) (hfree : countOf s.part.bus.resv ini.ix < reservedEntries ini) :
    Does (.transactionEntryGrant (some ini) []) s (fun p =>
      countOf p.bus.resv ini.ix = countOf s.part.bus.resv ini.ix + 1 ∧ p.bus.pool = s.part.bus.pool ∧
      p.fld Reg.SYS_POOL 0 8 = s.part.fld Reg.SYS_POOL 0 8 ∧
      RegsBut s.part p [Reg.SYS_OCC ini.code, Reg.SYS_POOL] ∧ p = { s.part with regs := p.regs, bus := p.bus }) := by
  refine .of_run (exec_transactionEntryGrant (some ini) [] s) h ?_
  dsimp only [Part.each, List.foldl_nil, Part.askEntry]
  rw [if_pos hfree]
  obtain ⟨hbut, hbus⟩ := s.part.takeShow_frame _ ini
  exact ⟨by simp, rfl, Part.fld_showOcc_pool, hbut, hbus⟩

theorem does_grant_pool (h : s.part.alive = true) (hfull : reservedEntries ini ≤ countOf s.part.bus.resv ini.ix)
    (hpool : 0 < s.part.fld Reg.SYS_POOL 0 8) :
    Does (.transactionEntryGrant (some ini) []) s (fun p =>
      countOf p.bus.pool ini.ix = countOf s.part.bus.pool ini.ix + 1 ∧ p.bus.resv = s.part.bus.resv ∧
      p.fld Reg.SYS_POOL 0 8 = s.part.fld Reg.SYS_POOL 0 8 - 1 ∧
      RegsBut s.part p [Reg.SYS_OCC ini.code, Reg.SYS_POOL] ∧ p = { s.part with regs := p.regs, bus := p.bus }) := by
  refine .of_run (exec_transactionEntryGrant (some ini) [] s) h ?_
  dsimp only [Part.each, List.foldl_nil, Part.askEntry]
  rw [if_neg (by omega), if_pos hpool]
  obtain ⟨hbut, hbus⟩ := s.part.poolShow_frame _ _ ini
  have hlt : s.part.fld Reg.SYS_POOL 0 8 < 256 := bits_lt _ _ _
  exact ⟨by simp, rfl, s.part.fld_poolShow _ (by omega) ini, hbut, hbus⟩

theorem does_grant_waits (h : s.part.alive = true) (hfull : reservedEntries ini ≤ countOf s.part.bus.resv ini.ix)
    (hpool : s.part.fld Reg.SYS_POOL 0 8 = 0) :
    Does (.transactionEntryGrant (some ini) []) s (fun p =>
      0 < countOf p.bus.waiting ini.ix ∧ p.bus.resv = s.part.bus.resv ∧ p.bus.pool = s.part.bus.pool ∧
      p = { s.part with bus := p.bus }) := by
  refine .of_run (exec_transactionEntryGrant (some ini) [] s) h ?_
  dsimp only [Part.each, List.foldl_nil, Part.askEntry]
  rw [if_neg (by omega), if_neg (by omega)]
  split
  case isTrue hwait => exact ⟨hwait, rfl, rfl, rfl⟩
  case isFalse => exact ⟨by rw [countOf_sSet]; decide, rfl, rfl, rfl⟩

theorem Part.endTransaction_frame (p : Part) (e : Initiator) :
    RegsBut p (p.endTransaction e) [Reg.SYS_OCC e.code, Reg.SYS_POOL] ∧ BusOnly p (p.endTransaction e) := by
  dsimp only [Part.endTransaction]
  split
  · exact p.poolShow_frame _ _ e
  · exact p.takeShow_frame _ e

theorem Part.endTransaction_alive (p : Part) (e : Initiator) : (p.endTransaction e).alive = p.alive := by
  rw [Part.alive, (p.endTransaction_frame e).2.clk_eq, Part.alive]

/-- An entry of the pool goes back before a reserved one. -/
theorem Part.endTransaction_pool {e : Initiator} (h : 0 < countOf p.bus.pool e.ix) (hlt : p.fld Reg.SYS_POOL 0 8 < 255) :
    countOf (p.endTransaction e).bus.pool e.ix = countOf p.bus.pool e.ix - 1 ∧
      (p.endTransaction e).bus.resv = p.bus.resv ∧
      (p.endTransaction e).fld Reg.SYS_POOL 0 8 = p.fld Reg.SYS_POOL 0 8 + 1 := by
  dsimp only [Part.endTransaction]
  rw [if_pos h]
  exact ⟨by simp, rfl, p.fld_poolShow _ (by omega) e⟩

theorem Part.endTransaction_reserved {e : Initiator} (h : countOf p.bus.pool e.ix = 0) :
    countOf (p.endTransaction e).bus.resv e.ix = countOf p.bus.resv e.ix - 1 ∧
      (p.endTransaction e).bus.pool = p.bus.pool ∧
      (p.endTransaction e).fld Reg.SYS_POOL 0 8 = p.fld Reg.SYS_POOL 0 8 := by
  dsimp only [Part.endTransaction]
  rw [if_neg (by omega)]
  exact ⟨by simp, rfl, Part.fld_showOcc_pool⟩

/-- The transactions that end do so one after another, before the one that asks. -/
theorem exec_transactionEntryGrant_cons (ini : Option Initiator) (e : Initiator) (es : List Initiator)
    (h : s.part.alive = true) :
    exec (.transactionEntryGrant ini (e :: es)) s =
      exec (.transactionEntryGrant ini es) { s with part := s.part.endTransaction e } := by
  have h' : (s.part.endTransaction e).alive = true := (s.part.endTransaction_alive e).trans h
  rw [exec_transactionEntryGrant, exec_transactionEntryGrant, State.run_alive h,
    State.run_alive (s := { s with part := s.part.endTransaction e }) h']
  rfl

theorem does_endTransaction {e : Initiator} (h : s.part.alive = true) :
    Does (.transactionEntryGrant none [e]) s (fun p => p = s.part.endTransaction e) :=
  .of_run (exec_transactionEntryGrant none [e] s) h rfl

end

/-! General-purpose pins. -/

theorem exec_gpioEdge (pin : Fin 32) (level : Bool) (s : State) :
    exec (.gpioEdge pin level) s = s.run (·.gpioLevel pin.val level) := by rfl

theorem exec_gpioLatchWrite (kind : LatchWrite) (v : Word) (s : State) :
    exec (.gpioLatchWrite kind v) s = s.run (·.gpioLatch kind v) := by rfl

/-- A bit of a register of which one bit was set. -/
theorem Part.bit_setBit (p : Part) {a i : Nat} (b : Bool) {k : Nat} (hi : i < 32) :
    (p.setBit a i b).bit a k = if k = i then b else p.bit a k := by
  split
  case isTrue h =>
    subst h
    exact p.bit_setBit_same a k b hi
  case isFalse h =>
    rw [Part.bit, Part.reg_setBit, if_pos rfl, bitAt_setBits_ne _ _ _ _ _ (by omega) (by omega), Part.bit]

theorem Part.bit_setBit_ne (p : Part) {a c i k : Nat} (b : Bool) (h : c ≠ a) : (p.setBit a i b).bit c k = p.bit c k := by
  rw [Part.bit, Part.reg_setBit, if_neg h, Part.bit]

theorem Part.bit_raiseIf (p : Part) (c : Bool) {a i k : Nat} (hi : i < 32) :
    (p.raiseIf c a i).bit a k = if k = i then (p.bit a k || c) else p.bit a k := by
  cases c
  · simp [Part.raiseIf]
  · rw [Part.raiseIf, if_pos rfl, Part.raise, p.bit_setBit true hi, Bool.or_true]

theorem Part.bit_raiseIf_ne (p : Part) (c : Bool) {a b i k : Nat} (h : b ≠ a) : (p.raiseIf c a i).bit b k = p.bit b k := by
  cases c
  · rfl
  · exact p.bit_setBit_ne true h

theorem RegsOnly.setFld {a lo w n : Nat} : RegsOnly p (p.setFld a lo w n) [a] := .setReg _ _ _

theorem RegsOnly.raiseIf {c : Bool} {a i : Nat} : RegsOnly p (p.raiseIf c a i) [a] := by
  cases c
  · exact .refl p _
  · exact .setFld

/-- The two bits of EDGE. -/
theorem bits_two (v : Word) (lo : Nat) :
    decide (bits v lo 2 % 2 = 1) = bitAt v lo ∧ decide (bits v lo 2 / 2 = 1) = bitAt v (lo + 1) := by
  have h0 := bits_testBit v lo 2 0
  have h1 := bits_testBit v lo 2 1
  have hlt := bits_lt v lo 2
  simp only [Nat.testBit_zero] at h0
  rw [Nat.testBit_succ, Nat.testBit_zero] at h1
  have hhigh : bits v lo 2 / 2 % 2 = bits v lo 2 / 2 := by omega
  rw [hhigh] at h1
  exact ⟨by simpa [bitAt] using h0, by simpa [bitAt] using h1⟩

theorem does_gpioEdge {pin : Fin 32} {level : Bool} {s : State} (h : s.part.alive = true) :
    let new := xor level (s.part.bit (Reg.GPIO_CFG pin) 25)
    let old := s.part.bit Reg.GPIO_IN pin
    Does (.gpioEdge pin level) s (fun p =>
      p.bit Reg.GPIO_IN pin = new ∧
      p.bit Reg.GPIO_EVT pin = (s.part.bit Reg.GPIO_EVT pin ||
        (new && !old && s.part.bit (Reg.GPIO_CFG pin) 26) || (!new && old && s.part.bit (Reg.GPIO_CFG pin) 27)) ∧
      (∀ i < 32, i ≠ pin.val → p.bit Reg.GPIO_IN i = s.part.bit Reg.GPIO_IN i ∧
        p.bit Reg.GPIO_EVT i = s.part.bit Reg.GPIO_EVT i) ∧
      RegsOnly s.part p [Reg.GPIO_IN, Reg.GPIO_EVT]) := by
  refine .of_run (exec_gpioEdge pin level s) h ?_
  obtain ⟨hrise, hfall⟩ := bits_two (s.part.reg (Reg.GPIO_CFG pin)) 26
  have hin : Reg.GPIO_IN ≠ Reg.GPIO_EVT := by decide
  have hbit (k : Nat) (new c : Bool) : (((s.part.setBit Reg.GPIO_IN pin new).raiseIf c Reg.GPIO_EVT pin).bit Reg.GPIO_IN k =
      if k = pin.val then new else s.part.bit Reg.GPIO_IN k) ∧
      (((s.part.setBit Reg.GPIO_IN pin new).raiseIf c Reg.GPIO_EVT pin).bit Reg.GPIO_EVT k =
        if k = pin.val then (s.part.bit Reg.GPIO_EVT k || c) else s.part.bit Reg.GPIO_EVT k) := by
    rw [Part.bit_raiseIf_ne _ _ hin, Part.bit_setBit _ _ pin.isLt, Part.bit_raiseIf _ _ pin.isLt,
      Part.bit_setBit_ne _ _ hin.symm]
    exact ⟨rfl, rfl⟩
  dsimp only [Part.gpioLevel]
  refine ⟨?_, ?_, fun i _ hne => ?_,
    .trans (l := [Reg.GPIO_IN, Reg.GPIO_EVT]) (RegsOnly.setFld.mono (by simp)) (RegsOnly.raiseIf.mono (by simp))⟩
  · rw [(hbit _ _ _).1, if_pos rfl]
  · rw [(hbit _ _ _).2, if_pos rfl, Part.fld, hrise, hfall, Bool.or_assoc]
    rfl
  · rw [(hbit i _ _).1, (hbit i _ _).2, if_neg hne, if_neg hne]
    exact ⟨rfl, rfl⟩

theorem does_gpioLatchWrite {kind : LatchWrite} {v : Word} {s : State} (h : s.part.alive = true) :
    Does (.gpioLatchWrite kind v) s (fun p =>
      (∀ i < 32, s.part.bit Reg.GPIO_OWN i = false → p.bit Reg.GPIO_OUT i = (match kind with
        | .out => bitAt v i
        | .set => s.part.bit Reg.GPIO_OUT i || bitAt v i
        | .clr => s.part.bit Reg.GPIO_OUT i && !bitAt v i)) ∧
      (∀ i < 32, s.part.bit Reg.GPIO_OWN i = true → p.bit Reg.GPIO_OUT i = s.part.bit Reg.GPIO_OUT i ∧
        p.bit Reg.GPIO_REF i = (s.part.bit Reg.GPIO_REF i || (kind = .out || bitAt v i))) ∧
      (∀ i < 32, s.part.bit Reg.GPIO_OWN i = false → p.bit Reg.GPIO_REF i = s.part.bit Reg.GPIO_REF i) ∧
      RegsOnly s.part p [Reg.GPIO_OUT, Reg.GPIO_REF]) := by
  refine .of_run (exec_gpioLatchWrite kind v s) h ?_
  have hne : Reg.GPIO_OUT ≠ Reg.GPIO_REF := by decide
  refine ⟨fun i hi hown => ?_, fun i hi hown => ?_, fun i hi hown => ?_,
    .trans (l := [Reg.GPIO_OUT, Reg.GPIO_REF]) ((RegsOnly.setReg _ _ _).mono (by simp))
      ((RegsOnly.setReg _ _ _).mono (by simp))⟩
  all_goals
    rw [Part.bit] at hown
    cases kind <;> simp [Part.gpioLatch, Part.bit, hne, hown, bitAt_not _ _ hi]

/-- Settles O12: the rows of the system block and of the pins, one lemma for each clause. -/
theorem systemAndPins : Obligations.SystemAndPins := by
  unfold Obligations.SystemAndPins
  refine ⟨fun ini addr wr v s h => does_decodeErrorAccess h, fun v t s hv => idles_sysSwrst hv,
    fun t s h hlate => does_sysSwrst_first h hlate, fun t a s h ha ht => does_sysSwrst_second h ha ht,
    fun k s h => does_sysOccRead h, fun s h => does_sysPoolRead h, fun ini s h hfree => does_grant_reserved h hfree,
    fun ini s h hfull hpool => does_grant_pool h hfull hpool, fun ini s h hfull hpool => does_grant_waits h hfull hpool,
    fun ini e es s h => ?_, fun pin level s h => does_gpioEdge h, fun kind v s h => does_gpioLatchWrite h⟩
  obtain ⟨hbut, hbus⟩ := s.part.endTransaction_frame e
  exact ⟨exec_transactionEntryGrant_cons ini e es h, does_endTransaction h, Part.endTransaction_pool,
    Part.endTransaction_reserved, hbut, hbus⟩

end Sys2Proof.Machine
end

section
/-! PROOFS. Staged writes and commits: what a write of a staged copy, GO and a move without a tick do. -/

namespace Sys2Proof.Machine

variable {p : Part}

/-! Status words (Table 1.7). -/

section
variable (tag reason off : Nat) {state : Nat}

theorem cstatWord_toNat (h : state < 4) : (cstatWord tag reason off state).toNat =
    tag % 256 * 2 ^ 24 + reason % 256 * 2 ^ 16 + off % 65536 / 4 * 4 + state := by
  unfold cstatWord
  rw [BitVec.toNat_ofNat, Nat.mod_eq_of_lt (by omega)]

theorem bits_cstatWord_state (h : state < 4) : bits (cstatWord tag reason off state) 0 2 = state := by
  rw [bits, cstatWord_toNat _ _ _ h, Nat.shiftRight_eq_div_pow]
  omega

theorem bits_cstatWord_reason (h : state < 4) : bits (cstatWord tag reason off state) 16 8 = reason % 256 := by
  rw [bits, cstatWord_toNat _ _ _ h, Nat.shiftRight_eq_div_pow]
  omega

theorem bits_cstatWord_off (h : state < 4) : bits (cstatWord tag reason off state) 2 14 = off / 4 % 2 ^ 14 := by
  rw [bits, cstatWord_toNat _ _ _ h, Nat.shiftRight_eq_div_pow]
  omega

theorem bits_cstatWord_tag (h : state < 4) : bits (cstatWord tag reason off state) 24 8 = tag % 256 := by
  rw [bits, cstatWord_toNat _ _ _ h, Nat.shiftRight_eq_div_pow]
  omega

end

/-- A field of a register that was written. -/
theorem Part.fld_setReg (p : Part) (a : Nat) (v : Word) (lo w : Nat) : (p.setReg a v).fld a lo w = bits v lo w := by
  rw [Part.fld, Part.reg_setReg, if_pos rfl]

/-! Writes of staged copies (R24). -/

theorem exec_stagedWrite (ini : Initiator) (off : BitVec 24) (v : Word) (s : State) :
    exec (.stagedWrite ini off v) s = s.run (fun p => match rowAt (baseOff off.toNat) with
      | some r => if r.st = 0 then p else p.stageWrite ini r (baseOff off.toNat) v
      | none => p) := by rfl

theorem does_stagedWrite {ini : Initiator} {off : BitVec 24} {v : Word} {s : State} {r : RegRow} {P : Part → Prop}
    (h : s.part.alive = true) (hrow : rowAt (baseOff off.toNat) = some r) (hst : r.st ≠ 0)
    (hP : P (s.part.stageWrite ini r (baseOff off.toNat) v)) : Does (.stagedWrite ini off v) s P := by
  refine .of_run (exec_stagedWrite ini off v s) h ?_
  simpa only [hrow, if_neg hst] using hP

theorem Part.staged_setReg (p : Part) (a : Nat) (v : Word) : (p.setReg (stagedOff a) v).staged a = v := by
  simp [Part.staged]

section
variable {ini : Initiator} {r : RegRow} {b : Nat} {v : Word}

theorem Part.stageWrite_single (h : r.pair = .single) :
    p.stageWrite ini r b v = p.setReg (stagedOff b) (v &&& BitVec.ofNat 32 r.st) := by
  simp only [Part.stageWrite, h]

theorem Part.stageWrite_lo (h : r.pair = .lo) : p.stageWrite ini r b v = p.putHeld ini b v := by
  simp only [Part.stageWrite, h]

theorem Part.stageWrite_hi (h : r.pair = .hi) (hheld : p.held ini (b - 4) = none) :
    p.stageWrite ini r b v = p.setReg (stagedOff b) (v &&& BitVec.ofNat 32 r.st) := by
  simp only [Part.stageWrite, h, hheld]

theorem Part.stageWrite_both {l : Word} (h : r.pair = .hi) (hheld : p.held ini (b - 4) = some l) :
    p.stageWrite ini r b v = ((p.dropHeld ini (b - 4)).setReg (stagedOff (b - 4)) (l &&& BitVec.ofNat 32 r.st)).setReg
      (stagedOff b) (v &&& BitVec.ofNat 32 r.st) := by
  simp only [Part.stageWrite, h, hheld]

theorem Part.held_putHeld (p : Part) (ini : Initiator) (b : Nat) (v : Word) : (p.putHeld ini b v).held ini b = some v := by
  simp [Part.held, Part.putHeld, sFind_sPut]

theorem Part.held_dropHeld (p : Part) (ini : Initiator) (b : Nat) : (p.dropHeld ini b).held ini b = none := by
  simp [Part.held, Part.dropHeld, sFind_sErase]

theorem Part.held_setReg (p : Part) (a : Nat) (w : Word) (ini : Initiator) (b : Nat) :
    (p.setReg a w).held ini b = p.held ini b := by
  rw [Part.held, Part.setReg_bus, Part.held]

theorem RegsBut.dropHeld {l : List Nat} : RegsBut p (p.dropHeld ini b) l := fun _ _ => rfl

/-- Both halves of a staged pair are written, and nothing stays held. -/
theorem Part.stageWrite_both_spec {l : Word} (h : r.pair = .hi) (hb : 4 ≤ b) (hheld : p.held ini (b - 4) = some l) :
    (p.stageWrite ini r b v).staged b = v &&& BitVec.ofNat 32 r.st ∧
      (p.stageWrite ini r b v).staged (b - 4) = l &&& BitVec.ofNat 32 r.st ∧
      (p.stageWrite ini r b v).held ini (b - 4) = none ∧
      RegsBut p (p.stageWrite ini r b v) [stagedOff b, stagedOff (b - 4)] := by
  have hne : stagedOff (b - 4) ≠ stagedOff b := by
    unfold stagedOff
    omega
  rw [Part.stageWrite_both h hheld]
  refine ⟨Part.staged_setReg _ _ _, ?_, ?_, ?_⟩
  · rw [Part.staged, Part.reg_setReg, if_neg hne, ← Part.staged, Part.staged_setReg]
  · rw [Part.held_setReg, Part.held_setReg, Part.held_dropHeld]
  · exact (RegsBut.dropHeld.trans (.setReg (by simp))).trans (.setReg (by simp))

end

/-! GO (R26, R28 to R30). -/

theorem exec_commitGo (u : CUnit) (tag : BitVec 8) (t : Instant) (s : State) :
    exec (.commitGo u tag t) s = s.run (·.commitGo u tag.toNat t) := by rfl

theorem tag_mod (tag : BitVec 8) : tag.toNat % 256 = tag.toNat := Nat.mod_eq_of_lt tag.isLt

/-- A refusal shows in the unit's status register and nowhere else. -/
theorem Part.refused_spec (p : Part) (t : Instant) (a : Nat) (tag : BitVec 8) (c o : Nat) :
    let q := (p.at t).setReg a (cstatWord tag.toNat c o 3)
    q.fld a 0 2 = 3 ∧ q.fld a 16 8 = c % 256 ∧ q.fld a 2 14 = o / 4 % 2 ^ 14 ∧ q.fld a 24 8 = tag.toNat ∧
      RegsOnly p q [a] := by
  refine ⟨?_, ?_, ?_, ?_, (RegsOnly.at p t _).trans (.setReg _ _ _)⟩
  · rw [Part.fld_setReg, bits_cstatWord_state _ _ _ (by decide)]
  · rw [Part.fld_setReg, bits_cstatWord_reason _ _ _ (by decide)]
  · rw [Part.fld_setReg, bits_cstatWord_off _ _ _ (by decide)]
  · rw [Part.fld_setReg, bits_cstatWord_tag _ _ _ (by decide), tag_mod]

section
variable {u : CUnit} {tag : Nat} {t : Instant}

theorem Part.commitPending_at (p : Part) (t : Instant) (u : CUnit) : (p.at t).commitPending u = p.commitPending u := rfl

theorem Part.commitGo_pending (h : p.commitPending u = true) :
    p.commitGo u tag t = (p.at t).setReg (unitStat u) (cstatWord tag 7 0 3) := by
  dsimp only [Part.commitGo]
  rw [if_pos (by rwa [Part.commitPending_at])]

theorem Part.commitGo_fault {c o : Nat} (h : p.commitPending u = false) (hf : (p.at t).unitCheck [u] u = some (c, o)) :
    p.commitGo u tag t = (p.at t).setReg (unitStat u) (cstatWord tag c o 3) := by
  dsimp only [Part.commitGo]
  rw [if_neg (by simp [Part.commitPending_at, h]), hf]

theorem Part.commitGo_taken (h : p.commitPending u = false) (hf : (p.at t).unitCheck [u] u = none) :
    p.commitGo u tag t =
      ({ p.at t with commits := p.commits ++ [{ unit := u, tag := tag, snap := (p.at t).snapOf u }] } : Part).setReg
        (unitStat u) (cstatWord tag 0 0 1) := by
  dsimp only [Part.commitGo]
  rw [if_neg (by simp [Part.commitPending_at, h]), hf]
  rfl

end

theorem Part.staged_at (p : Part) (t : Instant) (off : Nat) : (p.at t).staged off = p.staged off := rfl

theorem Part.inUnit_at (p : Part) (t : Instant) (u : CUnit) : (p.at t).inUnit u = p.inUnit u := rfl

/-- A snapshot holds every ST register of the unit with its staged word. -/
theorem Part.snapOf_spec (p : Part) (t : Instant) (u : CUnit) :
    ((p.at t).snapOf u).map (·.1) = ((blockRows (unitBlock u)).flatMap stRegs).filter (p.inUnit u) ∧
      ∀ e ∈ (p.at t).snapOf u, e.2 = p.staged e.1 := by
  rw [Part.snapOf, Part.inUnit_at]
  refine ⟨by simp [Function.comp_def], fun e he => ?_⟩
  obtain ⟨off, -, rfl⟩ := List.mem_map.mp he
  rfl

theorem does_commitGo_taken {u : CUnit} {tag : BitVec 8} {t : Instant} {s : State} (h : s.part.alive = true)
    (hp : s.part.commitPending u = false) (hf : (s.part.at t).unitCheck [u] u = none) :
    Does (.commitGo u tag t) s (fun p =>
      (∃ snap, p.commits = s.part.commits ++ [{ unit := u, tag := tag.toNat, snap := snap }] ∧
        snap.map (·.1) = ((blockRows (unitBlock u)).flatMap stRegs).filter (s.part.inUnit u) ∧
        ∀ e ∈ snap, e.2 = s.part.staged e.1) ∧
      p.fld (unitStat u) 0 2 = 1 ∧ p.fld (unitStat u) 16 8 = 0 ∧ p.fld (unitStat u) 24 8 = tag.toNat ∧
      RegsBut s.part p [unitStat u] ∧
      p = { s.part with regs := p.regs, now := p.now, commits := p.commits }) := by
  refine .of_run (exec_commitGo u tag t s) h ?_
  obtain ⟨hoffs, hwords⟩ := s.part.snapOf_spec t u
  rw [Part.commitGo_taken hp hf]
  refine ⟨⟨(s.part.at t).snapOf u, rfl, hoffs, hwords⟩, ?_, ?_, ?_, ?_, rfl⟩
  · rw [Part.fld_setReg, bits_cstatWord_state _ _ _ (by decide)]
  · rw [Part.fld_setReg, bits_cstatWord_reason _ _ _ (by decide)]
  · rw [Part.fld_setReg, bits_cstatWord_tag _ _ _ (by decide), tag_mod]
  · exact fun off hoff => RegsBut.setReg (p := { s.part.at t with commits := _ }) (List.mem_singleton.mpr rfl) off hoff

/-! Moves without a tick (R25). -/

theorem exec_commitMove (u : CUnit) (t : Instant) (s : State) :
    exec (.commitMove u t) s = s.run (fun p => match p.commits.find? (fun c => c.unit = u) with
      | some c => if p.sourceRuns u then p else (p.at t).moveNow c
      | none => p) := by rfl

/-- The committed registers take the words of a snapshot that names each register once; no other changes. -/
theorem Part.placeSnap_spec (p : Part) (snap : WordFile) :
    ((snap.map (·.1)).Nodup → ∀ e ∈ snap, (p.placeSnap snap).reg e.1 = e.2) ∧ RegsBut p (p.placeSnap snap) (snap.map (·.1)) ∧
      p.placeSnap snap = { p with regs := (p.placeSnap snap).regs } := by
  induction snap generalizing p with
  | nil => exact ⟨fun _ _ he => absurd he (List.not_mem_nil), fun _ _ => rfl, rfl⟩
  | cons x l ih =>
    obtain ⟨hreg, hbut, hframe⟩ := ih (p.setReg x.1 x.2)
    have hcons : p.placeSnap (x :: l) = (p.setReg x.1 x.2).placeSnap l := rfl
    rw [hcons]
    refine ⟨fun hnd e he => ?_, fun off hoff => ?_, hframe⟩
    · obtain ⟨hx, hnd⟩ := List.nodup_cons.mp hnd
      rcases List.mem_cons.mp he with rfl | he
      · rw [hbut _ hx, Part.reg_setReg, if_pos rfl]
      · exact hreg hnd e he
    · obtain ⟨hx, hoff⟩ := not_or.mp (mt List.mem_cons.mpr hoff)
      rw [hbut off hoff, Part.reg_setReg, if_neg hx]

section
variable {u : CUnit} {t : Instant} {s : State} {c : PendCommit}

theorem find?_unit {l : List PendCommit} (h : l.find? (fun c => c.unit = u) = some c) : c.unit = u := by
  simpa using List.find?_some h

theorem does_commitMove (h : s.part.alive = true) (hc : s.part.commits.find? (fun c => c.unit = u) = some c)
    (hsrc : s.part.sourceRuns u = false) {P : Part → Prop} (hP : P ((s.part.at t).moveNow c)) :
    Does (.commitMove u t) s P := by
  refine .of_run (exec_commitMove u t s) h ?_
  simpa only [hc, hsrc, Bool.false_eq_true, if_false] using hP

/-- The status register of a set that has moved. -/
theorem Part.showMoved_spec (p : Part) (e : Nat × Option Grp) :
    (p.showMoved e).fld e.1 0 2 = 2 ∧ (p.showMoved e).fld e.1 16 8 = 0 ∧
      (p.showMoved e).fld e.1 24 8 = p.fld e.1 24 8 := by
  refine ⟨?_, ?_, ?_⟩
  · rw [Part.showMoved, Part.fld_setReg, bits_cstatWord_state _ _ _ (by decide)]
  · rw [Part.showMoved, Part.fld_setReg, bits_cstatWord_reason _ _ _ (by decide)]
  · rw [Part.showMoved, Part.fld_setReg, bits_cstatWord_tag _ _ _ (by decide)]
    exact Nat.mod_eq_of_lt (bits_lt _ _ _)

theorem Part.moveNow_eq (hu : c.unit = u) : (p.at t).moveNow c =
    ((({ p.at t with commits := p.commits.filter (fun x => x.unit ≠ u) } : Part).placeSnap c.snap).unitMoved
      p.reg u).showMoved (unitStat u, u.grp?) := by
  subst hu
  rfl

theorem idles_commitMove (hsrc : s.part.sourceRuns u = true) : Idles (.commitMove u t) s := by
  refine .of_run (exec_commitMove u t s) ?_
  split
  · rw [if_pos hsrc]
  · rfl

/-- The blocks whose move has no further effect, and whose boundary source never runs. -/
theorem unitMoved_plain (hu : u ∈ [.auxadc, .ramp, .nvm, .cyc, .ring, .eth, .spare, .pwr, .mon]) :
    (∀ (p : Part) (old : Nat → Word), p.unitMoved old u = p) ∧ (∀ p : Part, p.sourceRuns u = false) ∧ u.grp? = none := by
  simp only [List.mem_cons, List.not_mem_nil, or_false] at hu
  rcases hu with rfl | rfl | rfl | rfl | rfl | rfl | rfl | rfl | rfl <;> exact ⟨fun _ _ => rfl, fun _ => rfl, rfl⟩

theorem does_commitMove_plain (h : s.part.alive = true)
    (hu : u ∈ [.auxadc, .ramp, .nvm, .cyc, .ring, .eth, .spare, .pwr, .mon])
    (hc : s.part.commits.find? (fun c => c.unit = u) = some c) (hnd : (c.snap.map (·.1)).Nodup)
    (hstat : unitStat u ∉ c.snap.map (·.1)) :
    Does (.commitMove u t) s (fun p =>
      (∀ e ∈ c.snap, p.reg e.1 = e.2) ∧
      RegsBut s.part p (unitStat u :: c.snap.map (·.1)) ∧
      p.commits = s.part.commits.filter (fun x => x.unit ≠ u) ∧
      p.fld (unitStat u) 24 8 = s.part.fld (unitStat u) 24 8 ∧
      p = { s.part with regs := p.regs, now := p.now, commits := p.commits }) := by
  obtain ⟨hmoved, hsrc, -⟩ := unitMoved_plain hu
  refine does_commitMove h hc (hsrc s.part) ?_
  rw [Part.moveNow_eq (find?_unit hc), hmoved]
  generalize hq : ({ s.part.at t with commits := s.part.commits.filter (fun x => x.unit ≠ u) } : Part) = q
  have hqreg : q.reg = s.part.reg := hq ▸ rfl
  obtain ⟨hreg, hbut, hframe⟩ := q.placeSnap_spec c.snap
  refine ⟨fun e he => ?_, fun off hoff => ?_, ?_, ?_, ?_⟩
  · have hne : e.1 ≠ unitStat u := fun h => hstat (h ▸ List.mem_map_of_mem he)
    rw [Part.showMoved, Part.reg_setReg, if_neg hne, hreg hnd e he]
  · obtain ⟨hne, hoff⟩ := not_or.mp (mt List.mem_cons.mpr hoff)
    rw [Part.showMoved, Part.reg_setReg, if_neg hne, hbut off hoff, hqreg]
  · rw [Part.showMoved, Part.setReg_commits, hframe, ← hq]
  · rw [(Part.showMoved_spec _ _).2.2, Part.fld, hbut _ hstat, hqreg, Part.fld]
  · rw [Part.showMoved, hframe, ← hq]
    rfl

end

/-- Settles O10: one lemma for each of a staged write, GO and the move. -/
theorem commitsMoveSnapshots : Obligations.CommitsMoveSnapshots := by
  unfold Obligations.CommitsMoveSnapshots
  refine ⟨fun ini off v s r h hrow hst hpair => ?single, fun ini off v s r h hrow hst => ⟨?lo, ?hi, ?both⟩,
    fun u tag t s h hp => ?pending, fun u tag t s c o h hp hf => ?fault,
    fun u tag t s h hp hf => does_commitGo_taken h hp hf,
    fun u t s c h hc hsrc => ?move, fun u t s c h hu hc hnd hstat => does_commitMove_plain h hu hc hnd hstat,
    fun u t s _ hsrc => idles_commitMove hsrc⟩
  case single =>
    refine does_stagedWrite h hrow hst ?_
    rw [Part.stageWrite_single hpair]
    exact ⟨Part.staged_setReg _ _ _, .setReg _ _ _⟩
  case lo =>
    refine fun hpair => does_stagedWrite h hrow hst ?_
    rw [Part.stageWrite_lo hpair]
    exact ⟨Part.held_putHeld _ _ _ _, rfl⟩
  case hi =>
    refine fun hpair hheld => does_stagedWrite h hrow hst ?_
    rw [Part.stageWrite_hi hpair hheld]
    exact ⟨Part.staged_setReg _ _ _, .setReg _ _ _⟩
  case both => exact fun l hpair hb hheld => does_stagedWrite h hrow hst (Part.stageWrite_both_spec hpair hb hheld)
  case pending =>
    refine .of_run (exec_commitGo u tag t s) h ?_
    rw [Part.commitGo_pending hp]
    obtain ⟨hstate, hreason, -, htag, honly⟩ := s.part.refused_spec t (unitStat u) tag 7 0
    exact ⟨hstate, hreason, htag, honly⟩
  case fault =>
    refine .of_run (exec_commitGo u tag t s) h ?_
    rw [Part.commitGo_fault hp hf]
    exact s.part.refused_spec t (unitStat u) tag c o
  case move =>
    refine fun hnd => does_commitMove h hc hsrc ?_
    rw [Part.moveNow_eq (find?_unit hc)]
    obtain ⟨hstate, hreason, -⟩ := Part.showMoved_spec ((({ s.part.at t with
      commits := s.part.commits.filter (fun x => x.unit ≠ u) } : Part).placeSnap c.snap).unitMoved s.part.reg u)
      (unitStat u, u.grp?)
    exact ⟨hstate, hreason, (Part.placeSnap_spec _ _).1 hnd, rfl⟩

end Sys2Proof.Machine
end

section
/-! PROOFS. The joint commit: GO on SYS_JCOMMIT, and the move of its sets without a tick. -/

namespace Sys2Proof.Machine

variable {p : Part}

/-- The units that a mask of SYS_JCOMMIT names (Table 1.9). -/
def maskUnits (mask : BitVec 8) : List CUnit := (jointUnits.zipIdx.filter (fun e => mask.toNat.testBit e.2)).map (·.1)

theorem exec_sysJcommitGo (mask tag : BitVec 8) (t : Instant) (s : State) :
    exec (.sysJcommitGo mask tag t) s = s.run (·.jointGo mask.toNat tag.toNat t) := by rfl

/-! Refusals. -/

section
variable {mask tag : BitVec 8} {t : Instant} {s : State}

/-- Something that the joint commit names is pending already. -/
def Part.jointBusy (p : Part) (us : List CUnit) : Prop := p.joint.isSome = true ∨ ∃ u ∈ us, p.commitPending u = true

theorem jointBusy_iff (us : List CUnit) : (p.joint.isSome || us.any p.commitPending) = true ↔ p.jointBusy us := by
  simp [Part.jointBusy]

theorem Part.jointGo_busy (h : p.jointBusy (maskUnits mask)) : p.jointGo mask.toNat tag.toNat t =
    (p.at t).setReg Reg.SYS_JCSTAT (cstatWord tag.toNat 7 0 3) :=
  if_pos ((jointBusy_iff (p := p.at t) _).mpr h)

/-- The group of a joint commit and the snapshots of its units. -/
def Part.jointOf (p : Part) (us : List CUnit) (tag : Nat) : JointCommit :=
  { tag := tag, grp := (us.filterMap CUnit.grp?).head?,
    parts := us.map (fun u => { unit := u, tag := tag, snap := p.snapOf u }) }

/-- Units of both groups are named. -/
def bothGroups (us : List CUnit) : Bool := (us.filterMap CUnit.grp?).contains .A && (us.filterMap CUnit.grp?).contains .B

theorem bothGroups_iff (us : List CUnit) :
    bothGroups us = true ↔ (∃ u ∈ us, u.grp? = some .A) ∧ ∃ u ∈ us, u.grp? = some .B := by
  simp [bothGroups, List.mem_filterMap]

/-- GO with nothing pending. -/
theorem Part.jointGo_free (h : ¬ p.jointBusy (maskUnits mask)) : p.jointGo mask.toNat tag.toNat t =
    if bothGroups (maskUnits mask) then (p.at t).setReg Reg.SYS_JCSTAT (cstatWord tag.toNat 8 0 3)
    else match (maskUnits mask).findSome? ((p.at t).unitCheck (maskUnits mask)) with
      | some (c, o) => (p.at t).setReg Reg.SYS_JCSTAT (cstatWord tag.toNat c o 3)
      | none => ({ p.at t with joint := some ((p.at t).jointOf (maskUnits mask) tag.toNat) } : Part).setReg
          Reg.SYS_JCSTAT (cstatWord tag.toNat 0 0 1) :=
  if_neg (mt (jointBusy_iff (p := p.at t) _).mp h)

theorem jointBusy_of_none (hj : p.joint = none) {us : List CUnit} (hu : ∀ u ∈ us, p.commitPending u = false) :
    ¬ p.jointBusy us := by
  rintro (h | ⟨u, hmem, h⟩)
  · simp [hj] at h
  · simp [hu u hmem] at h

/-- A refusal of the joint commit shows in SYS_JCSTAT and nowhere else. -/
theorem jointRefused_spec (p : Part) (t : Instant) (w : Word) :
    ((p.at t).setReg Reg.SYS_JCSTAT w).reg Reg.SYS_JCSTAT = w ∧
      RegsOnly p ((p.at t).setReg Reg.SYS_JCSTAT w) [Reg.SYS_JCSTAT] :=
  ⟨by simp, (RegsOnly.at p t _).trans (.setReg _ _ _)⟩

theorem bothGroups_false {us : List CUnit} (h : (∀ u ∈ us, u.grp? ≠ some .A) ∨ (∀ u ∈ us, u.grp? ≠ some .B)) :
    bothGroups us = false := by
  rw [← Bool.not_eq_true, bothGroups_iff]
  rintro ⟨⟨a, ha, hA⟩, ⟨b, hb, hB⟩⟩
  exact h.elim (fun h => h a ha hA) (fun h => h b hb hB)

theorem does_jointGo_busy (h : s.part.alive = true) (hbusy : s.part.jointBusy (maskUnits mask)) :
    Does (.sysJcommitGo mask tag t) s (fun p =>
      p.reg Reg.SYS_JCSTAT = cstatWord tag.toNat 7 0 3 ∧ RegsOnly s.part p [Reg.SYS_JCSTAT]) := by
  refine .of_run (exec_sysJcommitGo mask tag t s) h ?_
  rw [Part.jointGo_busy hbusy]
  exact jointRefused_spec s.part t _

theorem does_jointGo_bothGroups (h : s.part.alive = true) (hfree : ¬ s.part.jointBusy (maskUnits mask))
    (hA : ∃ u ∈ maskUnits mask, u.grp? = some .A) (hB : ∃ u ∈ maskUnits mask, u.grp? = some .B) :
    Does (.sysJcommitGo mask tag t) s (fun p =>
      p.reg Reg.SYS_JCSTAT = cstatWord tag.toNat 8 0 3 ∧ RegsOnly s.part p [Reg.SYS_JCSTAT]) := by
  refine .of_run (exec_sysJcommitGo mask tag t s) h ?_
  rw [Part.jointGo_free hfree, if_pos ((bothGroups_iff _).mpr ⟨hA, hB⟩)]
  exact jointRefused_spec s.part t _

theorem does_jointGo_fault {c o : Nat} (h : s.part.alive = true) (hfree : ¬ s.part.jointBusy (maskUnits mask))
    (hgrp : (∀ u ∈ maskUnits mask, u.grp? ≠ some .A) ∨ (∀ u ∈ maskUnits mask, u.grp? ≠ some .B))
    (hf : (maskUnits mask).findSome? ((s.part.at t).unitCheck (maskUnits mask)) = some (c, o)) :
    Does (.sysJcommitGo mask tag t) s (fun p =>
      p.reg Reg.SYS_JCSTAT = cstatWord tag.toNat c o 3 ∧ RegsOnly s.part p [Reg.SYS_JCSTAT]) := by
  refine .of_run (exec_sysJcommitGo mask tag t s) h ?_
  rw [Part.jointGo_free hfree, bothGroups_false hgrp, if_neg Bool.false_ne_true, hf]
  exact jointRefused_spec s.part t _

theorem does_jointGo_taken (h : s.part.alive = true) (hfree : ¬ s.part.jointBusy (maskUnits mask))
    (hgrp : (∀ u ∈ maskUnits mask, u.grp? ≠ some .A) ∨ (∀ u ∈ maskUnits mask, u.grp? ≠ some .B))
    (hok : (maskUnits mask).findSome? ((s.part.at t).unitCheck (maskUnits mask)) = none) :
    Does (.sysJcommitGo mask tag t) s (fun p =>
      (∃ j, p.joint = some j ∧ j.tag = tag.toNat ∧ j.parts.map (·.unit) = maskUnits mask ∧
        j.grp = ((maskUnits mask).filterMap CUnit.grp?).head? ∧
        ∀ c ∈ j.parts, c.snap.map (·.1) = ((blockRows (unitBlock c.unit)).flatMap stRegs).filter (s.part.inUnit c.unit) ∧
          ∀ e ∈ c.snap, e.2 = s.part.staged e.1) ∧
      p.reg Reg.SYS_JCSTAT = cstatWord tag.toNat 0 0 1 ∧ RegsBut s.part p [Reg.SYS_JCSTAT] ∧
      p = { s.part with regs := p.regs, now := p.now, joint := p.joint }) := by
  refine .of_run (exec_sysJcommitGo mask tag t s) h ?_
  rw [Part.jointGo_free hfree, bothGroups_false hgrp, if_neg Bool.false_ne_true, hok]
  refine ⟨⟨_, rfl, rfl, ?_, rfl, fun c hc => ?_⟩, ?_, ?_, rfl⟩
  · simp [Part.jointOf, Function.comp_def]
  · obtain ⟨u, -, rfl⟩ := List.mem_map.mp hc
    exact s.part.snapOf_spec t u
  · rw [Part.reg_setReg, if_pos rfl]
  · exact fun off hoff => RegsBut.setReg (p := { s.part.at t with joint := _ }) (List.mem_singleton.mpr rfl) off hoff

end

/-! Moves without a tick. -/

section
variable {t : Instant} {s : State} {j : JointCommit}

theorem exec_jointCommitMove (t : Instant) (s : State) :
    exec (.jointCommitMove t) s = s.run (fun p => match p.joint with
      | some j => if p.jointIdle j then ((p.at t).moveJoint j).showMoved (Reg.SYS_JCSTAT, j.grp) else p
      | none => p) := by rfl

theorem jointIdle_iff : p.jointIdle j = true ↔ j.grp = none ∨ ∃ g, j.grp = some g ∧ p.tbRuns g = false := by
  unfold Part.jointIdle
  cases j.grp <;> simp

/-- The committed registers take the words of several snapshots that name each register once; no other changes. -/
theorem Part.placeSnaps_spec (p : Part) (l : List PendCommit) :
    ((l.flatMap (fun c => c.snap.map (·.1))).Nodup →
      ∀ c ∈ l, ∀ e ∈ c.snap, (l.foldl (fun p c => p.placeSnap c.snap) p).reg e.1 = e.2) ∧
    RegsBut p (l.foldl (fun p c => p.placeSnap c.snap) p) (l.flatMap (fun c => c.snap.map (·.1))) := by
  induction l generalizing p with
  | nil => exact ⟨fun _ _ hc => absurd hc List.not_mem_nil, fun _ _ => rfl⟩
  | cons x l ih =>
    obtain ⟨hreg, hbut⟩ := ih (p.placeSnap x.snap)
    obtain ⟨hregx, hbutx, -⟩ := p.placeSnap_spec x.snap
    rw [List.flatMap_cons, List.foldl_cons]
    refine ⟨fun hnd c hc e he => ?_, fun off hoff => ?_⟩
    · obtain ⟨hndx, hnd, hdisj⟩ := List.nodup_append.mp hnd
      rcases List.mem_cons.mp hc with rfl | hc
      · have hmem : e.1 ∈ c.snap.map (·.1) := List.mem_map_of_mem he
        rw [hbut e.1 (fun h => hdisj _ hmem _ h rfl), hregx hndx e he]
      · exact hreg hnd c hc e he
    · obtain ⟨hx, hoff⟩ := not_or.mp (mt List.mem_append.mpr hoff)
      rw [hbut off hoff, hbutx off hx]

theorem does_jointCommitMove (h : s.part.alive = true) (hj : s.part.joint = some j)
    (hidle : j.grp = none ∨ ∃ g, j.grp = some g ∧ s.part.tbRuns g = false) {P : Part → Prop}
    (hP : P (((s.part.at t).moveJoint j).showMoved (Reg.SYS_JCSTAT, j.grp))) : Does (.jointCommitMove t) s P := by
  refine .of_run (exec_jointCommitMove t s) h ?_
  simpa only [hj, jointIdle_iff.mpr hidle, if_true] using hP

theorem idles_jointCommitMove {g : Grp} (hj : s.part.joint = some j) (hg : j.grp = some g) (hrun : s.part.tbRuns g = true) :
    Idles (.jointCommitMove t) s := by
  have hidle : s.part.jointIdle j = false := by simp [Part.jointIdle, hg, hrun]
  refine .of_run (exec_jointCommitMove t s) ?_
  simp only [hj, hidle, Bool.false_eq_true, if_false]

end

/-- Settles O11: one lemma for each way that GO ends, and for the move. -/
theorem jointCommitIsOneSet : Obligations.JointCommitIsOneSet := by
  unfold Obligations.JointCommitIsOneSet
  refine ⟨fun mask tag t s h hbusy => does_jointGo_busy h hbusy,
    fun mask tag t s h hj hu hA hB => does_jointGo_bothGroups h (jointBusy_of_none hj hu) hA hB,
    fun mask tag t s c o h hj hu hgrp hf => does_jointGo_fault h (jointBusy_of_none hj hu) hgrp hf,
    fun mask tag t s h hj hu hgrp hok => does_jointGo_taken h (jointBusy_of_none hj hu) hgrp hok,
    fun t s j h hj hidle => ?_, fun t s j g _ hj hg hrun => idles_jointCommitMove hj hg hrun⟩
  obtain ⟨hstate, hreason, -⟩ := ((s.part.at t).moveJoint j).showMoved_spec (Reg.SYS_JCSTAT, j.grp)
  exact does_jointCommitMove h hj hidle ⟨rfl, hstate, hreason, (Part.placeSnaps_spec _ _).1, rfl⟩

end Sys2Proof.Machine
end

section
/-! PROOFS. What a tick keeps, as one relation between the part before and the part after: no commit is added, and while
`live` holds the sample of a running group stays as it is. The rules by which a meaning keeps it: a register away from those
of the sample, a change of other fields, branches and folds. -/

namespace Sys2Proof.Machine

/-- What the sample of a group rests on in the CLE. -/
def CleGroup.figure (c : CleGroup) :=
  ((c.exch, c.load, c.haltNext, c.runReq), (c.open_, c.t0, c.winClosed, c.voter))

/-- What a tick can find due of the floor: a cut-in and the opening. -/
def PairState.due (x : PairState) := (x.armed, x.openAt)

/-- From `b` to `p` the samples of the groups, the lanes in service and what is due at a tick stayed as they were. -/
structure Part.Calm (p b : Part) : Prop where
  mode : ∀ g, p.gmode g = b.gmode g
  count : ∀ g : Grp, p.pair (Reg.CLE_SCNT_LO g.ix) = b.pair (Reg.CLE_SCNT_LO g.ix)
  state : ∀ n < 8, p.reg (Reg.CLE_LSTAT n) = b.reg (Reg.CLE_LSTAT n)
  figure : ∀ g, (p.cg g).figure = (b.cg g).figure
  lanes : p.lanes = b.lanes
  due : p.pair_.due = b.pair_.due

/-- From `base` to `p` no commit was added, and where `live` holds nothing that a sample rests on changed. -/
structure Part.Kept (p : Part) (live : Prop) (base : Part) : Prop where
  commits : p.commits ⊆ base.commits
  calm : live → p.Calm base

/-! Registers away from the state of groups and lanes and from the sample counters. -/

/-- No group's CLE_GSTAT or CLE_SCNT and no lane's CLE_LSTAT lies at the offset. -/
abbrev Away (off : Nat) : Prop :=
  off < 0x100000 ∨ 0x110000 ≤ off ∨ (off % 64 ≠ 0 ∧ off % 64 ≠ 8 ∧ off % 64 ≠ 12)

theorem Away.above {a b : Nat} (h : 0x110000 ≤ a) : Away (a + b) := .inr (.inl (by omega))

@[simp] theorem away_single : Away Reg.HOST_STATUS_LO ∧ Away Reg.SPARE_EVT ∧ Away Reg.SPARE_LAST ∧
    Away Reg.AUXADC_STAT ∧ Away Reg.GATE_STAT ∧ Away Reg.RAMP_EVT ∧ Away Reg.PAIR_STAT ∧
    Away Reg.PAIR_OVLP := by decide

@[simp] theorem away_OP_STATUS {k : Nat} : Away (Reg.OP_STATUS_LO k) ∧ Away (Reg.OP_STATUS_HI k) := by
  unfold Reg.OP_STATUS_LO Reg.OP_STATUS_HI Away
  omega

theorem away_QUE_PIDX {q : Nat} (h : q < 64) : Away (Reg.QUE_PIDX q) := .inl (by unfold Reg.QUE_PIDX; omega)

@[simp] theorem away_CLE (g : Grp) : Away (Reg.CLE_GEVT g.ix) ∧ Away (Reg.CLE_REGION g.ix) := by
  cases g <;> decide

@[simp] theorem away_SENSE {n : Nat} : Away (Reg.SENSE_STAT n) ∧ Away (Reg.SENSE_EVT n) ∧ Away (Reg.SENSE_MFREQ n) ∧
    Away (Reg.SENSE_RSVSTAT n) ∧ Away (Reg.SENSE_TGAIN n) ∧ Away (Reg.SENSE_TOFF n) ∧ Away (Reg.SENSE_VAL n) :=
  ⟨.above (by decide), .above (by decide), .above (by decide), .above (by decide), .above (by decide), .above (by decide),
    .above (by decide)⟩

@[simp] theorem away_PWM {n : Nat} : Away (Reg.PWM_ACMPA n) ∧ Away (Reg.PWM_ACMPB n) ∧ Away (Reg.PWM_CARRYA n) ∧
    Away (Reg.PWM_CARRYB n) ∧ Away (Reg.PWM_CMPA n) ∧ Away (Reg.PWM_CMPB n) ∧ Away (Reg.PWM_LSTAT n) ∧
    Away (Reg.PWM_PSTAT n) ∧ Away (Reg.PWM_USEQ n) ∧ Away (Reg.PWM_WSTAT n) :=
  ⟨.above (by decide), .above (by decide), .above (by decide), .above (by decide), .above (by decide), .above (by decide),
    .above (by decide), .above (by decide), .above (by decide), .above (by decide)⟩

@[simp] theorem away_GATE_GT {c : Nat} : Away (chanReg Reg.GATE_GT_LO c) := .above (by decide)

@[simp] theorem away_POS {n : Nat} : Away (Reg.POS_STAT n) ∧ Away (Reg.POS_EVT n) ∧ Away (Reg.POS_ANGLE n) ∧
    Away (Reg.POS_DLY n) ∧ Away (Reg.POS_SPEED n) :=
  ⟨.above (by decide), .above (by decide), .above (by decide), .above (by decide), .above (by decide)⟩

@[simp] theorem away_RAMP {c : Nat} : Away (Reg.RAMP_OUT c) ∧ Away (Reg.RAMP_STAT c) ∧ Away (Reg.RAMP_VEL c) :=
  ⟨.above (by decide), .above (by decide), .above (by decide)⟩

theorem gstat_inj {e g : Grp} (h : Reg.CLE_GSTAT e.ix = Reg.CLE_GSTAT g.ix) : e = g := by
  cases e <;> cases g <;> simp [Reg.CLE_GSTAT, Grp.ix] at h ⊢

theorem Away.ne_GSTAT {off : Nat} (h : Away off) (g : Grp) : Reg.CLE_GSTAT g.ix ≠ off := by
  unfold Away at h
  cases g <;> simp only [Reg.CLE_GSTAT, Grp.ix] <;> omega

theorem Away.ne_SCNT {off : Nat} (h : Away off) (g : Grp) :
    Reg.CLE_SCNT_LO g.ix ≠ off ∧ Reg.CLE_SCNT_LO g.ix + 4 ≠ off := by
  unfold Away at h
  cases g <;> simp only [Reg.CLE_SCNT_LO, Grp.ix] <;> omega

theorem Away.ne_LSTAT {off n : Nat} (h : Away off) (hn : n < 8) : Reg.CLE_LSTAT n ≠ off := by
  unfold Away at h
  unfold Reg.CLE_LSTAT
  omega

/-! The groups of the CLE. -/

theorem vget_vset {α : Type} {n : Nat} (d : α) (v : Vector α n) (i : Nat) (x : α) (j : Nat) :
    vget d (vset v i x) j = if j = i ∧ i < n then x else vget d v j := by
  simp only [vget, vset, Vector.toList_setIfInBounds, List.getD_eq_getElem?_getD, List.getElem?_set, Vector.length_toList]
  grind

theorem Part.cg_setCg (p : Part) (g : Grp) (c : CleGroup) (h : Grp) : (p.setCg g c).cg h = if h = g then c else p.cg h := by
  unfold Part.cg Part.setCg
  rw [vget_vset]
  cases g <;> cases h <;> simp [Grp.ix]

/-! The rules. -/

theorem Part.Calm.refl (p : Part) : p.Calm p := ⟨fun _ => rfl, fun _ => rfl, fun _ _ => rfl, fun _ => rfl, rfl, rfl⟩

theorem Part.Kept.refl (live : Prop) (p : Part) : p.Kept live p := ⟨List.Subset.refl _, fun _ => .refl p⟩

section
variable {p b : Part} (h : p.Calm b)
include h

theorem Part.Calm.setReg {off : Nat} {v : Word} (ha : Away off) : (p.setReg off v).Calm b where
  mode g := by rw [← h.mode, gmode, gmode, fld, fld, reg_setReg, if_neg (ha.ne_GSTAT g)]
  count g := by rw [← h.count, pair, pair, reg_setReg, reg_setReg, if_neg (ha.ne_SCNT g).1, if_neg (ha.ne_SCNT g).2]
  state n hn := by rw [← h.state n hn, reg_setReg, if_neg (ha.ne_LSTAT hn)]
  figure := h.figure
  lanes := h.lanes
  due := h.due

/-- A field of CLE_GSTAT other than MODE. -/
theorem Part.Calm.setStat {g : Grp} {lo w n : Nat} (hw : lo + w ≤ 24) :
    (p.setFld (Reg.CLE_GSTAT g.ix) lo w n).Calm b where
  mode e := by
    rw [← h.mode, gmode, gmode]
    by_cases he : e = g
    · rw [he, fld_setFld_apart _ _ _ _ _ _ _ (by omega) (by omega)]
    · rw [fld_setFld_ne]
      exact fun heq => he (gstat_inj heq)
  count e := by
    rw [← h.count, pair, pair, reg_setFld, reg_setFld, if_neg, if_neg] <;> cases e <;> cases g <;> decide
  state n hn := by
    rw [← h.state n hn, reg_setFld, if_neg]
    cases g <;> simp only [Reg.CLE_GSTAT, Reg.CLE_LSTAT, Grp.ix] <;> omega
  figure := h.figure
  lanes := h.lanes
  due := h.due

theorem Part.Calm.setCg {g : Grp} {c : CleGroup} (hc : c.figure = (p.cg g).figure) : (p.setCg g c).Calm b where
  mode := h.mode
  count := h.count
  state := h.state
  figure e := by
    rw [cg_setCg]
    split
    next he => rw [hc, he, h.figure]
    · exact h.figure e
  lanes := h.lanes
  due := h.due

end

section
variable {live : Prop} {p base : Part} (h : p.Kept live base)
include h

section
variable {now : Instant} {freeCount opCount : Nat} {bus : BusState} {joint : Option JointCommit}
  {log : List LogEntry} {gpioTask : Word} {mem : MemState} {lib : SeqLib}
  {out : List OutMsg} {sense : SenseState} {pwm : PwmState} {pos : Vector PosIf 4} {ramps : Vector RampCh 16}
  {core : CoreState} {cyc : CycState} {ops : Vector OpSlot 8} {rsvLog : List RsvEntry} {ring : RingState}
  {time : TimeState} {cap : CapState} {safe : SafeState} {measLog : List MeasEntry} {health : HealthState}
  {trust : TrustState} {clk : ClkState} {eth : EthState}

/-- A change of fields that no sample rests on. -/
theorem Part.Kept.frame :
    ({ now, freeCount, regs := p.regs, bus, commits := p.commits, joint, log, lanes := p.lanes, cle := p.cle, gpioTask, mem,
       lib, out, sense, pwm, pos, ramps, core, cyc, ops, opCount, rsvLog, pair_ := p.pair_, ring, time, cap, safe, measLog,
       health, trust, clk, eth } : Part).Kept live base :=
  ⟨h.commits, fun hk =>
    { mode := (h.calm hk).mode, count := (h.calm hk).count, state := (h.calm hk).state, figure := (h.calm hk).figure,
      lanes := (h.calm hk).lanes, due := (h.calm hk).due }⟩

end

theorem Part.Kept.setReg {off : Nat} {v : Word} (ha : live → Away off) :
    (p.setReg off v).Kept live base :=
  ⟨h.commits, fun hk => (h.calm hk).setReg (ha hk)⟩

theorem Part.Kept.setStat {g : Grp} {lo w n : Nat} (hw : lo + w ≤ 24) :
    (p.setFld (Reg.CLE_GSTAT g.ix) lo w n).Kept live base :=
  ⟨h.commits, fun hk => (h.calm hk).setStat hw⟩

theorem Part.Kept.setCg {g : Grp} {c : CleGroup} (hc : live → c.figure = (p.cg g).figure) :
    (p.setCg g c).Kept live base :=
  ⟨h.commits, fun hk => (h.calm hk).setCg (hc hk)⟩

theorem Part.Kept.onPair {f : PairState → PairState}
    (hf : live → (f p.pair_).due = p.pair_.due) :
    (p.onPair f).Kept live base :=
  ⟨h.commits, fun hk =>
    { mode := (h.calm hk).mode, count := (h.calm hk).count, state := (h.calm hk).state, figure := (h.calm hk).figure,
      lanes := (h.calm hk).lanes, due := (hf hk).trans (h.calm hk).due }⟩

theorem Part.Kept.foldl {α : Type} {f : Part → α → Part}
    (hf : ∀ q a, q.Kept live base → (f q a).Kept live base) {l : List α} :
    (l.foldl f p).Kept live base := by
  induction l generalizing p with
  | nil => exact h
  | cons a l ih => exact ih (hf p a h)

end

theorem Part.Kept.ite {live : Prop} {base : Part} {c : Prop} [Decidable c] {p q : Part}
    (hp : p.Kept live base) (hq : q.Kept live base) :
    (if c then p else q).Kept live base := by
  split <;> assumption

/-- Where no sample is asked for, only the commits count. -/
theorem Part.Kept.change {p q base : Part} (h : p.Kept False base) (hq : q.commits ⊆ p.commits) : q.Kept False base :=
  ⟨fun _ hc => h.commits (hq hc), nofun⟩

/-- The part of an answer that is known to be a pair. -/
theorem Part.Kept.of_fst {live : Prop} {base q : Part} {α : Type} {x : Part × α} {a : α} (hx : x = (q, a))
    (h : x.1.Kept live base) : q.Kept live base := by
  subst hx
  exact h

end Sys2Proof.Machine
end

section
/-! PROOFS. What the operations of a tick keep that touch no commit and, away from a switch, no sample. -/

namespace Sys2Proof.Machine

section
variable {live : Prop} {p base : Part} (h : p.Kept live base)
include h

theorem Part.Kept.setByte {a : Nat} {x : Byte} : (p.setByte a x).Kept live base := h.frame

theorem Part.Kept.setFld {off lo w n : Nat} (ha : live → Away off) : (p.setFld off lo w n).Kept live base :=
  h.setReg ha

theorem Part.Kept.setBit {off i : Nat} {x : Bool} (ha : live → Away off) : (p.setBit off i x).Kept live base :=
  h.setReg ha

theorem Part.Kept.raise {off i : Nat} (ha : live → Away off) : (p.raise off i).Kept live base := h.setReg ha

theorem Part.Kept.raiseIf {c : Bool} {off i : Nat} (ha : live → Away off) :
    (p.raiseIf c off i).Kept live base :=
  .ite (h.raise ha) h

theorem Part.Kept.countSat {off lo w : Nat} (ha : live → Away off) : (p.countSat off lo w).Kept live base :=
  h.setReg ha

theorem Part.Kept.when {c : Bool} {f : Part → Part} (hf : ∀ q, q.Kept live base → (f q).Kept live base) :
    (p.when c f).Kept live base :=
  .ite (hf _ h) h

theorem Part.Kept.each {α : Type} {l : List α} {f : Part → α → Part}
    (hf : ∀ q x1, q.Kept live base → (f q x1).Kept live base) :
    (p.each l f).Kept live base :=
  h.foldl (fun _ _ hq => hf _ _ hq)

theorem Part.Kept.taken : p.taken.Kept live base := h.frame

theorem Part.Kept.placeBytes {a : Nat} {bs : List Byte} : (p.placeBytes a bs).Kept live base := by
  induction bs generalizing p a with
  | nil => exact h
  | cons x bs ih => exact ih h.setByte

theorem Part.Kept.breakResv {a n : Nat} : (p.breakResv a n).Kept live base := .ite h.frame h

theorem Part.Kept.clearPoison {a n : Nat} : (p.clearPoison a n).Kept live base := .ite h h.frame

theorem Part.Kept.storeBytes {a : Nat} {bs : List Byte} : (p.storeBytes a bs).Kept live base :=
  h.placeBytes.clearPoison.breakResv

theorem Part.Kept.produce {q : Nat} {entry : List Byte} (hq : q < 64) : (p.produce q entry).Kept live base :=
  .ite h (.ite (h.countSat fun _ => away_QUE_PIDX hq) (h.storeBytes.setFld fun _ => away_QUE_PIDX hq))

theorem Part.Kept.logEvent {code : LogCode} {args : List Nat} : (p.logEvent code args).Kept live base :=
  h.frame.taken.produce (by decide)

theorem Part.Kept.hostCutin : p.hostCutin.Kept live base := h.setBit (by simp)

theorem Part.Kept.hostReserve : p.hostReserve.Kept live base := h.setBit (by simp)

theorem Part.Kept.setTb {g : Grp} {x : Timebase} : (p.setTb g x).Kept live base := h.frame

theorem Part.Kept.placeShadow {q : Nat} {a b : Word} : (p.placeShadow q a b).Kept live base :=
  (h.setReg (by simp)).setReg (by simp)

theorem Part.Kept.transfer {g : Grp} : (p.transfer g).Kept live base := by
  refine (Part.Kept.setTb (.each (h.each fun _ _ hq => ?_) fun _ _ hq => hq.placeShadow)).setReg (by simp)
  exact ((hq.setReg (by simp)).setReg (by simp)).frame.when fun _ hr => hr.setBit (by simp)

theorem Part.Kept.setSig {k : Nat} {x : Sig} : (p.setSig k x).Kept live base := h.frame

theorem Part.Kept.clearPair {q : Nat} : (p.clearPair q).Kept live base :=
  ((h.setReg (by simp)).setReg (by simp)).setSig.setSig

theorem Part.Kept.schedSig {g : Grp} {q : Nat} {sel : Bool} {k : ℤ} {apex : Bool} {u : Instant} {comp : Bool} :
    (p.schedSig g q sel k apex u comp).Kept live base := by
  cases sel
  · exact (h.setSig.setReg (by simp)).setReg (by simp)
  · exact (h.setSig.setReg (by simp)).setReg (by simp)

theorem Part.Kept.setLeg {l : Nat} {x : Leg} : (p.setLeg l x).Kept live base := h.frame

theorem Part.Kept.noteShown {c : Nat} {edge : Bool} : (p.noteShown c edge).Kept live base := h.frame

theorem Part.Kept.setGt {c : Nat} {lvl : Bool} {t : Instant} : (p.setGt c lvl t).Kept live base :=
  (h.setBit (by simp)).frame.noteShown

theorem Part.Kept.command {l c : Nat} {lvl : Bool} {t : Instant} : (p.command l c lvl t).Kept live base :=
  (h.setGt.each (fun _ _ hq => hq.setGt)).setLeg

theorem Part.Kept.noteLeg {l : Nat} {v : LegView} {before : Nat} {t : Instant} : (p.noteLeg l v before t).Kept live base :=
  h.setLeg.setFld (by simp)

theorem Part.Kept.issueLeg {l : Nat} {v : LegView} {want : List Bool} {t : Instant} {k : Nat} :
    (p.issueLeg l v want t k).Kept live base := by
  induction k generalizing p with
  | zero => exact h
  | succ k ih =>
    dsimp only [Part.issueLeg]
    split
    · exact h.setLeg
    · exact ih h.setLeg.command.noteLeg

theorem Part.Kept.countHeld {l : Nat} {v : LegView} {want : List Bool} {t : Instant} :
    (p.countHeld l v want t).Kept live base :=
  .ite h (h.setLeg.setFld (by simp))

theorem Part.Kept.evalLeg {t : Instant} {l : Nat} : (p.evalLeg t l).Kept live base :=
  .ite h (h.when (fun _ hq => hq.clearPair)).setLeg.countHeld.issueLeg

theorem Part.Kept.evalLegs {t : Instant} : (p.evalLegs t).Kept live base := h.each (fun _ _ hq => hq.evalLeg)

theorem Part.Kept.scheduleLeg {g : Grp} {k : ℤ} {apex : Bool} {u : Instant} {l : Nat} :
    (p.scheduleLeg g k apex u l).Kept live base :=
  .ite h.clearPair (.ite h.schedSig.schedSig h.schedSig)

theorem Part.Kept.scheduleGroup {g : Grp} {k : ℤ} {apex : Bool} {u : Instant} :
    (p.scheduleGroup g k apex u).Kept live base :=
  (h.each (fun _ _ hq => hq.scheduleLeg)).each (fun _ _ hq => hq.setSig.setSig.evalLeg)

theorem Part.Kept.setOpState {k n : Nat} : (p.setOpState k n).Kept live base := h.setFld (by simp)

theorem Part.Kept.opDone {k : Nat} : (p.opDone k).Kept live base := h.setOpState.setFld (by simp)

theorem Part.Kept.noteSwap {cls unit rsv cause : Nat} : (p.noteSwap cls unit rsv cause).Kept live base :=
  ((h.setReg (by simp)).frame.raise (by simp)).hostReserve.logEvent

theorem Part.Kept.noteRetire {cls unit cause : Nat} : (p.noteRetire cls unit cause).Kept live base :=
  h.frame.raise (by simp)

theorem Part.Kept.retireUnit {cls unit cause : Nat} : (p.retireUnit cls unit cause).Kept live base :=
  .ite h h.frame.noteRetire

theorem Part.Kept.swapDone {cls unit : Nat} {a : Option Nat} : (p.swapDone cls unit a).Kept live base := by
  dsimp only [Part.swapDone]
  split; exacts [(h.when (fun _ hq => hq.retireUnit)).opDone, h]

theorem Part.Kept.unstand {src cls : Nat} : (p.unstand src cls).Kept live base := h.frame

theorem Part.Kept.setSd {n : Nat} {x : SenseCh} : (p.setSd n x).Kept live base := h.frame

theorem Part.Kept.setSdRsv {r : Nat} {x : SenseRsv} : (p.setSdRsv r x).Kept live base := h.frame

theorem Part.Kept.showSubst {n : Nat} : (p.showSubst n).Kept live base := h.setBit (by simp)

theorem Part.Kept.unsettle {n : Nat} : (p.unsettle n).Kept live base := (h.setBit (by simp)).showSubst.setSd

theorem Part.Kept.settled {n : Nat} {fast : Bool} : (p.settled n fast).Kept live base :=
  .ite h (.ite h.setSd (h.setBit (by simp)).showSubst)

theorem Part.Kept.sdSwap {r cause : Nat} : (p.sdSwap r cause).Kept live base :=
  (((h.setFld (by simp)).setFld (by simp)).setBit (by simp)).setSdRsv.unstand.noteSwap.swapDone

theorem Part.Kept.rsvTick {r : Nat} : (p.rsvTick r).Kept live base := by
  unfold Part.rsvTick
  extract_lets _ _ _ _ _ p1
  have h1 : p1.Kept live base := (h.setFld (by simp)).raiseIf (by simp)
  exact .ite h1.setSdRsv.sdSwap (.ite h1.setSdRsv.sdSwap h1.setSdRsv)

theorem Part.Kept.sdTick {q : Part} {n count : Nat} {first : Bool} : (p.sdTick q n count first).Kept live base := by
  unfold Part.sdTick
  extract_lets ch st p1 _ _ p2
  have hst : live → Away st := by simp [st]
  have h1 : p1.Kept live base := by
    unfold p1
    split; exacts [(h.setReg (by simp)).setReg (by simp), h]
  have h2 : p2.Kept live base := h1.settled.settled
  have h3 {ok : Bool} : (((p2.setBit st 29 (!ok)).raiseIf (!ok) (Reg.SENSE_EVT n) 6).when (!ok)
      (·.unsettle n)).Kept live base :=
    ((h2.setBit hst).raiseIf (by simp)).when (fun _ hq => hq.unsettle)
  refine .setSd (.setReg (.setReg (.ite (h2.setBit hst).unsettle ?_) (by simp)) (by simp))
  exact .ite (h3.setBit hst).unstand.unsettle h3

theorem Part.Kept.senseTick {q : Part} {g : Grp} {edges : List (Nat × Nat)} {first : Bool} :
    (p.senseTick q g edges first).Kept live base :=
  (h.each (fun _ _ hq => hq.sdTick)).each (fun _ _ hq => hq.rsvTick)

theorem Part.Kept.setAux {x : AuxState} : (p.setAux x).Kept live base := by
  dsimp only [Part.setAux]
  split; exacts [(h.frame.setBit (by simp)).setFld (by simp), h.frame.setBit (by simp)]

theorem Part.Kept.auxTick {g : Grp} : (p.auxTick g).Kept live base := h.setAux

theorem Part.Kept.setGateSwap {r : Nat} {x : GateSwap} : (p.setGateSwap r x).Kept live base := h.frame

theorem Part.Kept.gateSwapPeriod {g : Grp} : (p.gateSwapPeriod g).Kept live base :=
  h.each (fun _ _ hq => .ite hq hq.setGateSwap)

theorem Part.Kept.setPif {n : Nat} {x : PosIf} : (p.setPif n x).Kept live base := h.frame

theorem Part.Kept.uncert {n : Nat} {b : Bool} : (p.uncert n b).Kept live base := h.setBit (by simp)

theorem Part.Kept.posFault {n : Nat} : (p.posFault n).Kept live base := h.raise (by simp)

theorem Part.Kept.serialReject {n : Nat} {cl : Option SerClass} : (p.serialReject n cl).Kept live base :=
  ((h.setPif.setBit (by simp)).raise (by simp)).uncert.when (fun _ hq => hq.posFault)

theorem Part.Kept.latchStatus {n : Nat} : (p.latchStatus n).Kept live base := h.setPif

theorem Part.Kept.posUpdate {n : Nat} : (p.posUpdate n).Kept live base := by
  refine .ite h (.setReg (.setReg (.setReg (.setPif ?_) (by simp)) (by simp)) (by simp))
  exact (h.when fun _ hq => hq.serialReject).when fun _ hq => hq.setBit (by simp)

theorem Part.Kept.posTick {n : Nat} : (p.posTick n).Kept live base := h.posUpdate.latchStatus.setBit (by simp)

theorem Part.Kept.posTicks {g : Grp} : (p.posTicks g).Kept live base := h.each (fun _ _ hq => hq.posTick)

theorem Part.Kept.showGroup {g : Grp} : (p.showGroup g).Kept live base :=
  ((((h.setStat (by decide)).setStat (by decide)).setStat (by decide)).setStat (by decide)).setStat (by decide)

theorem Part.Kept.fillPorts {g : Grp} : (p.fillPorts g).Kept live base := h.setCg (fun _ => by rfl)

theorem Part.Kept.showFade {g : Grp} : (p.showFade g).Kept live base := (h.setFld (by simp)).showGroup

theorem Part.Kept.changeRegion {g : Grp} {r bank fade : Nat} {deferred : Bool} :
    (p.changeRegion g r bank fade deferred).Kept live base := by
  refine .logEvent (.setCg (.raiseIf (.raise ?_ (by simp)) (by simp)) fun _ => by rfl)
  exact ((h.setFld (by simp)).setFld (by simp)).setFld (by simp)

theorem Part.Kept.regionTick {g : Grp} : (p.regionTick g).Kept live base := by
  refine .showFade (.ite (h.setCg fun _ => by rfl) ?_)
  split
  · exact (h.setCg fun _ => by rfl).raise (by simp)
  · exact .ite (h.setCg fun _ => by rfl) (h.setCg fun _ => by rfl).changeRegion

theorem Part.Kept.scanTick {g : Grp} {r : ScanRun} : (p.scanTick g r).Kept live base := by
  refine .ite ?_ (.ite (h.setCg fun _ => by rfl) (.raiseIf ?_ (by simp)))
  · exact (h.setCg fun _ => by rfl).setCg fun _ => by rfl
  · exact (h.setCg fun _ => by rfl).setCg fun _ => by rfl

theorem Part.Kept.genTick {g : Grp} : (p.genTick g).Kept live base := by
  dsimp only [Part.genTick]
  split; exacts [h.scanTick, .ite ((h.setCg (fun _ => by rfl)).raiseIf (by simp)) (h.setCg (fun _ => by rfl))]

theorem Part.Kept.setGrid {g : Grp} {x : GridState} : (p.setGrid g x).Kept live base := h.setCg (fun _ => by rfl)

theorem Part.Kept.gridMeasure {g : Grp} : (p.gridMeasure g).Kept live base := .ite h h.setGrid

theorem Part.Kept.setRamp {c : Nat} {x : RampCh} : (p.setRamp c x).Kept live base := h.frame

theorem Part.Kept.rampDue {c : Nat} : (p.rampDue c).Kept live base :=
  .ite h.setRamp (.ite h.setRamp (.ite h.setRamp (.ite (h.setRamp.raise (by simp)) h.setRamp)))

theorem Part.Kept.rampTick {c : Nat} {g : Grp} : (p.rampTick c g).Kept live base := by
  refine .setBit (.setBit (.setBit (.setReg (.setReg (.setRamp ?_) (by simp)) (by simp)) (by simp)) (by simp)) (by simp)
  exact (h.rampDue.when fun _ hq => (hq.raise (by simp)).logEvent).setBit (by simp)

theorem Part.Kept.rampTicks {g : Grp} : (p.rampTicks g).Kept live base := .ite (h.each (fun _ _ hq => hq.rampTick)) h

theorem Part.Kept.send {m : OutMsg} : (p.send m).Kept live base := h.frame

theorem Part.Kept.showPair : p.showPair.Kept live base := ((h.setBit (by simp)).setBit (by simp)).setBit (by simp)

theorem Part.Kept.overlapEnd {t : Instant} : (p.overlapEnd t).Kept live base := by
  dsimp only [Part.overlapEnd]
  split; exacts [h, ((h.onPair (fun _ => by rfl)).setFld (by simp)).setFld (by simp)]

theorem Part.Kept.takeFloor {t : Instant} : (p.takeFloor t).Kept live base :=
  (((h.setBit (by simp)).setBit (by simp)).setBit (by simp)).when (fun _ hq => hq.onPair (fun _ => by rfl))

theorem Part.Kept.endDefer {t : Instant} : (p.endDefer t).Kept live base :=
  (h.each (fun _ _ hq => hq.setCg (fun _ => by rfl))).evalLegs

theorem Part.Kept.releaseFloor {t : Instant} : (p.releaseFloor t).Kept live base :=
  .ite h ((h.setBit (by simp)).setBit (by simp)).overlapEnd.endDefer

theorem Part.Kept.sendHeartbeat {g : Grp} {t : Instant} : (p.sendHeartbeat g t).Kept live base :=
  .ite (h.setBit (by simp)).send (h.setBit (by simp))

theorem Part.Kept.tickInputs {q : Part} {g : Grp} {edges : List (Nat × Nat)} {first : Bool} :
    (p.tickInputs q g edges first).Kept live base :=
  h.senseTick.auxTick.posTicks.rampTicks.fillPorts

end

end Sys2Proof.Machine
end

section
/-! PROOFS. The other operations of a tick add no commit. -/

namespace Sys2Proof.Machine

section
variable {p base : Part} (h : p.Kept False base)
include h

theorem Part.Kept.setPair {lo n : Nat} : (p.setPair lo n).Kept False base := (h.setReg nofun).setReg nofun

theorem Part.Kept.setTime {lo : Nat} {t : Instant} : (p.setTime lo t).Kept False base := (h.setReg nofun).setReg nofun

theorem Part.Kept.setLane {n : Nat} {l : Lane} : (p.setLane n l).Kept False base := h.change (List.Subset.refl _)

theorem Part.Kept.hostFault : p.hostFault.Kept False base := h.setBit nofun

theorem Part.Kept.showMoved {e : Nat × Option Grp} : (p.showMoved e).Kept False base := h.setReg nofun

theorem Part.Kept.placeSnap {snap : WordFile} : (p.placeSnap snap).Kept False base :=
  h.each (fun _ _ hq => hq.setReg nofun)

theorem Part.Kept.cleMoved {g : Grp} {old : Nat → Word} : (p.cleMoved g old).Kept False base := .ite (h.setCg nofun) h

theorem Part.Kept.cleStopMove {g : Grp} : (p.cleStopMove g).Kept False base := by
  dsimp only [Part.cleStopMove]
  split; exacts [h, (h.change (fun _ hc => List.mem_of_mem_filter hc)).placeSnap.cleMoved.showMoved]

theorem Part.Kept.gpioMoved {old : Nat → Word} : (p.gpioMoved old).Kept False base :=
  h.each (fun _ _ hq => hq.when (fun _ hr => hr.setBit nofun))

theorem Part.Kept.setCapUnit {u : Nat} {x : CapUnit} : (p.setCapUnit u x).Kept False base := h.frame

theorem Part.Kept.capShow {u : Nat} : (p.capShow u).Kept False base := h.setReg nofun

theorem Part.Kept.takeBuf {u : Nat} : (p.takeBuf u).Kept False base := by
  dsimp only [Part.takeBuf]
  split; exacts [h.setCapUnit, h.frame.setCapUnit]

theorem Part.Kept.setTrig {tr : Nat} {x : TrigUnit} : (p.setTrig tr x).Kept False base := h.frame.setBit nofun

theorem Part.Kept.capMoved {old : Nat → Word} : (p.capMoved old).Kept False base :=
  ((h.each (fun _ _ hq => .capShow (.ite hq.setCapUnit.takeBuf (.ite hq.setCapUnit hq)))).each (fun _ _ hq => .ite
    hq.setTrig hq)).setReg nofun

theorem Part.Kept.opFail {k gerr err : Nat} : (p.opFail k gerr err).Kept False base :=
  (h.setOpState.setFld nofun).setFld nofun

theorem Part.Kept.opDone? {a : Option Nat} : (p.opDone? a).Kept False base := by
  dsimp only [Part.opDone?]
  split; exacts [h.opDone, h]

theorem Part.Kept.opErr? {err : Nat} {a : Option Nat} : (p.opErr? err a).Kept False base := by
  dsimp only [Part.opErr?]
  split; exacts [h.opFail, h]

theorem Part.Kept.protMoved {old : Nat → Word} : (p.protMoved old).Kept False base :=
  h.each (fun _ _ hq => .ite (.unstand (.setBit (.ite (hq.setBit nofun).unstand hq) nofun)) (.ite
    (hq.setBit nofun).unstand hq))

theorem Part.Kept.showDelay {n : Nat} : (p.showDelay n).Kept False base := h.setReg nofun

theorem Part.Kept.senseMoved {old : Nat → Word} : (p.senseMoved old).Kept False base := by
  refine (h.each fun _ n hq => ?_).each fun _ _ hq => .ite hq (.showDelay (.unsettle (.setSdRsv (.setReg (hq.when fun _ hr =>
    hr.setBit nofun) nofun))))
  extract_lets p1 _ _ p2 _ p3
  have h1 : p1.Kept False base := hq.each fun _ _ hr => .ite hr.unstand hr.unstand.unstand
  have h2 : p2.Kept False base := (h1.setBit nofun).showDelay
  have h3 : p3.Kept False base := .ite h2.unsettle h2.showSubst
  exact .ite h1 (h3.each fun _ _ hr => .ite hr.showDelay.unsettle hr.showDelay.showSubst)

theorem Part.Kept.gateRsvOff {r : Nat} : (p.gateRsvOff r).Kept False base := h.setGateSwap.when (fun _ hq => hq.setGt)

theorem Part.Kept.showOwn : p.showOwn.Kept False base := h.setReg nofun

theorem Part.Kept.gateMoved {old : Nat → Word} : (p.gateMoved old).Kept False base :=
  (h.each (fun _ _ hq => .ite hq (hq.when (fun _ hr => hr.setBit nofun)).gateRsvOff)).showOwn.evalLegs

theorem Part.Kept.pwmMoved {g : Grp} : (p.pwmMoved g).Kept False base := by
  unfold Part.pwmMoved
  extract_lets _ p1 p2
  have h1 : p1.Kept False base := h.each (fun _ _ hq => (hq.setReg nofun).setReg nofun)
  have h2 : p2.Kept False base := h1.each (fun _ _ hq => hq.setGt)
  exact .ite h2 h2.evalLegs

theorem Part.Kept.posMoved {old : Nat → Word} : (p.posMoved old).Kept False base :=
  h.each (fun _ _ hq => .ite hq.setPif (((hq.setPif.setPif.when (fun _ hr => hr.setFld nofun)).when (fun _ hr =>
    (hr.setBit nofun))).setReg nofun))

theorem Part.Kept.setGmode {g : Grp} {m : Nat} : (p.setGmode g m).Kept False base := h.setFld nofun

theorem Part.Kept.setLaneState {n st : Nat} : (p.setLaneState n st).Kept False base := h.setFld nofun

theorem Part.Kept.showMode {g : Grp} : (p.showMode g).Kept False base := h.setGmode

theorem Part.Kept.retireLane {n cause : Nat} : (p.retireLane n cause).Kept False base :=
  (h.raiseIf nofun).setLaneState.noteRetire

theorem Part.Kept.abandonLoad {g : Grp} : (p.abandonLoad g).Kept False base := by
  dsimp only [Part.abandonLoad]
  split; exacts [h, ((h.when (fun _ hq => hq.setLaneState)).setCg nofun).opErr?.showGroup]

theorem Part.Kept.joinLane {g : Grp} : (p.joinLane g).Kept False base := by
  dsimp only [Part.joinLane]
  split
  · exact h
  · refine .showGroup (.opDone? (.when (.raise (.showMode (.setCg ?_ nofun)) nofun) (fun _ hq => hq.noteSwap)))
    split
    · exact h.setLaneState.when (fun _ hq => hq.retireLane)
    · exact h.setLaneState.when (fun _ hq => hq.setLaneState)
    · exact h.setLaneState

theorem Part.Kept.runStop {g : Grp} : (p.runStop g).Kept False base := (h.setBit nofun).setCg nofun

theorem Part.Kept.releaseLanes {g : Grp} : (p.releaseLanes g).Kept False base := h.each (fun _ _ hq => hq.setLaneState)

theorem Part.Kept.stopGroup {g : Grp} {m : Nat} {hold : Bool} {t : Instant} : (p.stopGroup g m hold t).Kept False base :=
  (((h.abandonLoad.releaseLanes.setCg nofun).setGmode.setBit nofun).showGroup.each (fun _ _ hq => hq.evalLeg)).cleStopMove

theorem Part.Kept.haltGroup {g : Grp} {hold : Bool} {t : Instant} : (p.haltGroup g hold t).Kept False base :=
  (h.stopGroup.raise nofun).hostFault

theorem Part.Kept.startGroup {g : Grp} : (p.startGroup g).Kept False base := by
  refine .ite ((h.setCg nofun).setFld nofun) (.ite (h.setCg nofun) (.showFade (.showMode (.setReg ?_ nofun))))
  refine .setFld (.setPair (.setCg (.each (.each (h.setCg nofun) ?_) ?_) nofun)) nofun
  · exact fun _ _ hq => hq.setLane.setLaneState.setBit nofun
  · exact fun _ _ hq => hq.setReg nofun

theorem Part.Kept.beginSample {g : Grp} {t : Instant} : (p.beginSample g t).Kept False base :=
  ((h.each (fun _ _ hq => hq.setLane)).setCg nofun).setPair.showGroup

theorem Part.Kept.setCommitted {off : Nat} {w : Word} : (p.setCommitted off w).Kept False base := by
  dsimp only [Part.setCommitted]
  split; exacts [h.setReg nofun, h]

theorem Part.Kept.moveWords {g : Grp} {x : Exchange} : (p.moveWords g x).Kept False base :=
  .ite h (h.each (fun _ _ hq => .ite hq hq.setCommitted))

theorem Part.Kept.switchFigure {g : Grp} {x : Exchange} : (p.switchFigure g x).Kept False base :=
  .showGroup (.opDone? (.setFld (.ite (h.setCg nofun) (((h.setCg nofun).setReg nofun).setReg nofun)) nofun))

theorem Part.Kept.setRole {r : Nat} : (p.setRole r).Kept False base := ((h.setFld nofun).setFld nofun).setFld nofun

theorem Part.Kept.cutDone {tc : Instant} : (p.cutDone tc).Kept False base :=
  (((h.each (fun _ _ hq => hq.setBit nofun)).raise nofun).hostCutin.setTime.logEvent.onPair nofun).showPair

theorem Part.Kept.incomingDone : p.incomingDone.Kept False base := by
  dsimp only [Part.incomingDone]
  split; exacts [.ite h.cutDone h, h]

theorem Part.Kept.holdModules : p.holdModules.Kept False base := h.frame

theorem Part.Kept.setCallPair {n : Nat} {x : CallPair} : (p.setCallPair n x).Kept False base := h.onPair nofun

theorem Part.Kept.showCall {k : Nat} : (p.showCall k).Kept False base := (h.setFld nofun).setFld nofun

theorem Part.Kept.pairMoved {old : Nat → Word} : (p.pairMoved old).Kept False base :=
  (((h.setFld nofun).showPair.onPair nofun).when (fun _ hq => hq.each (fun _ _ hr => hr.when (fun _ hs =>
    hs.runStop)))).each
    (fun _ _ hq => .ite hq (hq.setBit nofun).setCallPair.showCall)

theorem Part.Kept.setPll {k : Nat} {x : PllState} : (p.setPll k x).Kept False base := h.frame

theorem Part.Kept.showCko : p.showCko.Kept False base := h.setBit nofun

theorem Part.Kept.pllAcquire {k : Nat} {t : Instant} : (p.pllAcquire k t).Kept False base :=
  (h.setPll.setBit nofun).setBit nofun

theorem Part.Kept.pllFail {t : Instant} : (p.pllFail t).Kept False base :=
  (((h.setBit nofun).setBit nofun).showCko.each (fun _ _ hq => hq.when (fun _ hr => hr.haltGroup))).releaseFloor

theorem Part.Kept.pllMove {k : Nat} : (p.pllMove k).Kept False base :=
  (((h.setBit nofun).setBit nofun).countSat nofun).raise nofun

theorem Part.Kept.pllSettle {t : Instant} : (p.pllSettle t).1.Kept False base := by
  dsimp only [Part.pllSettle]
  split; exacts [h, by split; exacts [h.pllMove, h.pllFail]]

theorem Part.Kept.clkMoved {old : Nat → Word} : (p.clkMoved old).Kept False base :=
  (h.each (fun _ _ hq => hq.when (fun _ hr => (hr.when (fun _ hs =>
    (hs.setBit nofun))).setPll.pllAcquire))).pllSettle.showCko

theorem Part.Kept.setServo {n : Nat} : (p.setServo n).Kept False base := (h.raiseIf nofun).setFld nofun

theorem Part.Kept.timeMoved : p.timeMoved.Kept False base := .ite h h.setServo

theorem Part.Kept.unitMoved {old : Nat → Word} {a : CUnit} : (p.unitMoved old a).Kept False base := by
  dsimp only [Part.unitMoved]
  split
  · exact h.cleMoved
  · exact h.senseMoved
  · exact h.pwmMoved
  · exact h.posMoved
  · exact h.capMoved
  · exact h.gpioMoved.showOwn
  · exact h.protMoved
  · exact h.gateMoved
  · exact h.pairMoved
  · exact h.timeMoved
  · exact h.clkMoved
  · exact h

theorem Part.Kept.moveSnap {u : CUnit} {snap : WordFile} : (p.moveSnap u snap).Kept False base := h.placeSnap.unitMoved

theorem Part.Kept.movePending {c : PendCommit} : (p.movePending c).Kept False base :=
  (h.change (fun _ hc => List.mem_of_mem_filter hc)).moveSnap

theorem Part.Kept.moveJoint {j : JointCommit} : (p.moveJoint j).Kept False base :=
  ((h.each (fun _ _ hq => hq.placeSnap)).each (fun _ _ hq => hq.unitMoved)).frame

theorem Part.Kept.tickStops {g : Grp} {t : Instant} : (p.tickStops g t).Kept False base :=
  .ite h.haltGroup (.ite h.stopGroup h)

theorem Part.Kept.tickFigure {g : Grp} {x : Option Exchange} {t : Instant} : (p.tickFigure g x t).Kept False base := by
  unfold Part.tickFigure
  extract_lets p1 p2 p3 q p4
  have h2 : p2.Kept False base := (h.when fun _ hq => hq.regionTick).setCg nofun
  have h3 : p3.Kept False base := by unfold p3; split; exacts [h2.switchFigure, h2.when fun _ hq => hq.joinLane]
  have h4 : p4.Kept False base := .ite (h3.startGroup.when fun _ hq => hq.regionTick) h3
  exact .ite h4.beginSample.gridMeasure.genTick h4

end

end Sys2Proof.Machine
end

section
/-! PROOFS. The tick of a group (Table 1.4): which commits it leaves pending, and the sample that a running group begins. -/

namespace Sys2Proof.Machine

/-! What it leaves of the pending commits. -/

theorem Part.Kept.floorTick {p base : Part} (h : p.Kept False base) {g : Grp} {t : Instant} :
    (p.floorTick g t).Kept False base := by
  unfold Part.floorTick
  extract_lets _ _ p1 _ _ _ _ _ p2
  have h1 : p1.Kept False base := .ite (h.onPair nofun).showPair.endDefer h
  have h2 : p2.Kept False base := h1.when (fun _ hq => hq.onPair nofun)
  have opened := h2.onPair (f := fun x => { x with openAt := none }) nofun
  refine .ite h2 (.ite (h2.takeFloor.setRole.holdModules.onPair nofun).showPair.incomingDone (.ite (.ite opened.showPair ?_)
    (.ite h2 (.ite h2.releaseFloor (.ite h2.takeFloor (.ite h2.takeFloor h2))))))
  exact .showPair (.onPair (.ite (opened.when (fun _ hq => hq.onPair nofun)) opened.takeFloor) nofun)

theorem Part.tickCommits_commits (p : Part) (g : Grp) (boundary : Bool) (x : Option Exchange) :
    (p.tickCommits g boundary x).1.Kept False (p.tickMoves g boundary).1 := by
  have h1 := Part.Kept.refl False (p.tickMoves g boundary).1
  unfold Part.tickCommits
  split
  next q shows hq =>
  have h2 : q.Kept False (p.tickMoves g boundary).1 := .of_fst hq h1
  split
  · exact h2
  · dsimp only
    split <;> dsimp only
    · exact h2.moveWords.moveSnap
    · exact h2.moveWords

/-- After the staged sets have moved, a tick adds no commit. -/
theorem Part.tick_commits (p : Part) (g : Grp) (t : Instant) (edges : List (Nat × Nat)) :
    (p.tick g t edges).Kept False (p.tickMoves g (!(p.tb g).apex)).1 :=
  (((p.tickCommits_commits g _ _).transfer.when (fun _ hq => hq.gateSwapPeriod)).each (fun _ _ hq =>
    hq.showMoved)).floorTick.tickInputs.tickStops.tickFigure.scheduleGroup.sendHeartbeat.setTb

/-- A commit that moves leaves none of its unit pending. -/
theorem Part.movePending_commits (p : Part) (c : PendCommit) :
    (p.movePending c).commits ⊆ p.commits.filter (fun x => x.unit ≠ c.unit) :=
  (Part.Kept.refl False { p with commits := p.commits.filter (fun x => x.unit ≠ c.unit) }).moveSnap.commits

theorem Part.movePendings_commits (p : Part) (l : List PendCommit) :
    ∀ x ∈ (p.each l (fun p c => p.movePending c)).commits, x ∈ p.commits ∧ ∀ c ∈ l, x.unit ≠ c.unit := by
  induction l generalizing p with
  | nil => exact fun x hx => ⟨hx, nofun⟩
  | cons c l ih =>
    intro x hx
    obtain ⟨hm, hl⟩ := ih (p.movePending c) x hx
    obtain ⟨hp, hc⟩ := List.mem_filter.1 (p.movePending_commits c hm)
    exact ⟨hp, List.forall_mem_cons.2 ⟨of_decide_eq_true hc, hl⟩⟩

/-- The commits of the group's CLE and SENSE units move at every tick (R25). -/
theorem Part.tickMoves_noneLeft (p : Part) (g : Grp) (boundary : Bool) :
    ∀ c ∈ (p.tickMoves g boundary).1.commits, c.unit ≠ .cle g ∧ c.unit ≠ .sense g := by
  unfold Part.tickMoves
  extract_lets due p1 _
  have moved : ∀ c ∈ p1.commits, c.unit ≠ .cle g ∧ c.unit ≠ .sense g := by
    intro c hc
    obtain ⟨hp, hd⟩ := p.movePendings_commits due c hc
    have free : c ∉ due := fun h => hd c h rfl
    simp only [due, List.mem_filter, hp, true_and, Bool.or_eq_true, decide_eq_true_eq] at free
    exact ⟨fun h => free (.inl (.inl h)), fun h => free (.inl (.inr h))⟩
  split
  · split
    · exact fun c hc => moved c ((Part.Kept.refl False p1).moveJoint.commits hc)
    · exact moved
  · exact moved

/-! The timebase. -/

theorem Part.tb_setTb (p : Part) (g : Grp) (x : Timebase) : (p.setTb g x).tb g = x := by
  unfold Part.tb Part.setTb
  rw [vget_vset, if_pos]
  cases g <;> decide

theorem Part.tick_tb (p : Part) (g : Grp) (t : Instant) (edges : List (Nat × Nat)) :
    ((p.tick g t edges).tb g).last = t ∧ ((p.tick g t edges).tb g).first = false := by
  unfold Part.tick
  simp only [tb_setTb]
  exact ⟨rfl, rfl⟩

/-! The sample that begins. -/

section
variable {p b : Part} (h : p.Calm b)
include h

theorem Part.Calm.groupRuns (g : Grp) : p.groupRuns g = b.groupRuns g := by
  have hm := h.mode g
  unfold Part.gmode at hm
  rw [Part.groupRuns, Part.groupRuns, hm]

theorem Part.Calm.members (g : Grp) : p.members g = b.members g := by
  refine List.filter_congr fun n hn => ?_
  have hs := h.state n (List.mem_range.1 hn)
  have hst : p.laneState n = b.laneState n := by rw [Part.laneState, Part.laneState, Part.fld, Part.fld, hs]
  have hgrp : p.laneGrp n = b.laneGrp n := by rw [Part.laneGrp, Part.laneGrp, Part.bit, Part.bit, hs]
  rw [hst, hgrp]

theorem Part.Calm.lane (n : Nat) : p.lane n = b.lane n := by
  rw [Part.lane, Part.lane, h.lanes]

end

theorem Part.lane_setLane (p : Part) (n : Nat) (l : Lane) (m : Nat) :
    (p.setLane n l).lane m = if m = n ∧ n < 8 then l else p.lane m := vget_vset _ _ _ _ _

/-- The members of a group as they begin a sample. -/
theorem Part.lane_beginEach (p : Part) (l : List Nat) (hl : l.Nodup) (hb : ∀ n ∈ l, n < 8) (m : Nat) :
    (p.each l (fun p n => p.onLane n (·.begin))).lane m = if m ∈ l then (p.lane m).begin else p.lane m := by
  induction l generalizing p with
  | nil => rfl
  | cons a l ih =>
    obtain ⟨ha, hl⟩ := List.nodup_cons.1 hl
    obtain ⟨ha8, hb⟩ := List.forall_mem_cons.1 hb
    have hstep := ih (p.onLane a (·.begin)) hl hb
    rw [Part.each, List.foldl_cons]
    refine hstep.trans ?_
    rw [Part.onLane, lane_setLane]
    by_cases hm : m = a
    · subst hm
      simp [ha, ha8]
    · simp [hm]

theorem Part.beginEach_eq (p : Part) (l : List Nat) :
    p.each l (fun p n => p.onLane n (·.begin)) =
      { p with lanes := (p.each l (fun p n => p.onLane n (·.begin))).lanes } := by
  induction l generalizing p with
  | nil => rfl
  | cons a l ih => exact ih (p.onLane a (·.begin))

theorem Part.members_nodup (p : Part) (g : Grp) : (p.members g).Nodup := List.nodup_range.filter _

theorem Part.lt_of_mem_members {p : Part} {g : Grp} {n : Nat} (h : n ∈ p.members g) : n < 8 :=
  List.mem_range.1 (List.mem_of_mem_filter h)

theorem Part.pair_setPair (p : Part) (lo n : Nat) : (p.setPair lo n).pair lo = n % 2 ^ 64 := by
  simp only [Part.pair, Part.setPair, Part.reg_setReg]
  simp
  omega

theorem Part.gmode_setScnt (p : Part) (g e : Grp) (n : Nat) :
    (p.setPair (Reg.CLE_SCNT_LO g.ix) n).gmode e = p.gmode e := by
  rw [gmode, gmode, fld, fld, setPair, reg_setReg, reg_setReg, if_neg, if_neg] <;> cases e <;> cases g <;> decide

theorem Part.cg_setPair (p : Part) (lo n : Nat) (g : Grp) : (p.setPair lo n).cg g = p.cg g := by
  rw [cg, setPair, setReg_cle, setReg_cle, cg]

theorem Part.lane_setPair (p : Part) (lo n m : Nat) : (p.setPair lo n).lane m = p.lane m := by
  rw [lane, setPair, setReg_lanes, setReg_lanes, lane]

theorem Part.lane_setCg (p : Part) (g : Grp) (c : CleGroup) (m : Nat) : (p.setCg g c).lane m = p.lane m := by
  rw [lane, setCg_lanes, lane]

/-- The part that begins a sample, before CLE_GSTAT is shown. -/
theorem Part.beginSample_spec (p : Part) (g : Grp) (t : Instant) :
    (p.beginSample g t).gmode g = p.gmode g ∧
    ((p.beginSample g t).cg g).figure = (((p.cg g).figure).1, (true, t, false, {})) ∧
    (p.beginSample g t).pair (Reg.CLE_SCNT_LO g.ix) = (p.pair (Reg.CLE_SCNT_LO g.ix) + 1) % 2 ^ 64 ∧
    ∀ n ∈ p.members g, (p.beginSample g t).lane n = (p.lane n).begin := by
  unfold Part.beginSample
  extract_lets z ep p1 p2
  have shown := ((Part.Kept.refl True (p2.setPair (Reg.CLE_SCNT_LO g.ix) (p2.pair (Reg.CLE_SCNT_LO g.ix) + 1))).showGroup
    (g := g)).calm trivial
  have hp1 : p1 = { p with lanes := p1.lanes } := p.beginEach_eq _
  have hp2 : p2 = p1.setCg g _ := rfl
  have hregs : p2.regs = p.regs := by rw [hp2, setCg_regs, hp1]
  have hcle : p1.cg g = p.cg g := by
    rw [Part.cg, hp1, Part.cg]
  refine ⟨?_, ?_, ?_, fun n hn => ?_⟩
  · rw [shown.mode, gmode_setScnt, gmode, gmode, fld, fld, reg, reg, hregs]
  · rw [shown.figure]
    rw [cg_setPair, hp2, cg_setCg, if_pos rfl, hcle]
    rfl
  · rw [shown.count, pair_setPair, pair, pair, reg, reg, reg, reg, hregs]
  · rw [shown.lane]
    rw [lane_setPair, hp2, lane_setCg, p.lane_beginEach _ (p.members_nodup g) (fun _ hm => lt_of_mem_members hm) n,
      if_pos hn]

/-! A running group for which nothing but its next sample is due. -/

/-- Nothing of the floor is due at the tick. -/
theorem Part.Kept.floorTickIdle {live : Prop} {p base : Part} (h : p.Kept live base) (ha : p.pair_.armed = none)
    (ho : p.pair_.openAt = none) {g : Grp} {t : Instant} : (p.floorTick g t).Kept live base := by
  simp only [Part.floorTick, ha, ho, Option.any_none, Bool.and_false, Bool.false_eq_true, if_false]
  have h2 : (p.when (g = p.floorGrp) (·.onPair (fun x => { x with take4 := false }))).Kept live base :=
    h.when (fun _ hq => hq.onPair (fun _ => by rfl))
  exact .ite h2 (.ite h2 (.ite h2.releaseFloor (.ite h2.takeFloor (.ite h2.takeFloor h2))))

theorem Part.Calm.trans {p q r : Part} (h1 : p.Calm q) (h2 : q.Calm r) : p.Calm r where
  mode g := (h1.mode g).trans (h2.mode g)
  count g := (h1.count g).trans (h2.count g)
  state n hn := (h1.state n hn).trans (h2.state n hn)
  figure g := (h1.figure g).trans (h2.figure g)
  lanes := h1.lanes.trans h2.lanes
  due := h1.due.trans h2.due

section
variable {b : Part} {g : Grp} {t : Instant}

/-- No halt and no stop is due at the tick. -/
theorem Part.Kept.tickStopsIdle {p : Part} (h : p.Kept True b) (hhalt : (b.cg g).haltNext = false)
    (hreq : (b.cg g).runReq = none) : p.tickStops g t = p := by
  have hf := (h.calm trivial).figure g
  simp only [CleGroup.figure, Prod.mk.injEq, hhalt, hreq] at hf
  obtain ⟨⟨_, _, hh, hr⟩, _⟩ := hf
  simp [Part.tickStops, hh, hr]

/-- The figure goes on to its next sample. -/
theorem Part.Kept.tickFigureIdle {p : Part} (h : p.Kept True b) (hrun : b.groupRuns g = true) (hload : (b.cg g).load = none)
    (hreq : (b.cg g).runReq = none) : ∃ q : Part, q.Calm b ∧ (p.tickFigure g none t).Calm (q.beginSample g t) := by
  unfold Part.tickFigure
  extract_lets p1 p2 p3 _ p4
  have h2 : p2.Kept True b := (h.when (fun _ hq => hq.regionTick)).setCg (fun _ => by rfl)
  have hf := (h2.calm trivial).figure g
  simp only [CleGroup.figure, Prod.mk.injEq, hload, hreq] at hf
  obtain ⟨⟨_, hl, _, hr⟩, _⟩ := hf
  have e3 : p3 = p2 := by simp [p3, hl, Part.when]
  have e4 : p4 = p2 := by simp [p4, e3, hr]
  refine ⟨p2, h2.calm trivial, ?_⟩
  rw [e4, if_pos (((h2.calm trivial).groupRuns g).trans hrun)]
  exact (Part.Kept.refl True _).gridMeasure.genTick.calm trivial

/-- The tick of a running group for which nothing else is due. -/
theorem Part.tick_sample {edges : List (Nat × Nat)} (hrun : b.groupRuns g = true) (hcommits : b.commits = [])
    (hjoint : b.joint = none) (hx : (b.cg g).exch = none) (hload : (b.cg g).load = none) (hhalt : (b.cg g).haltNext = false)
    (hreq : (b.cg g).runReq = none) (ha : b.pair_.armed = none) (ho : b.pair_.openAt = none) :
    ∃ q : Part, q.Calm b ∧ (b.tick g t edges).Calm (q.beginSample g t) := by
  have noExch : b.exchangeNow g t = none := by simp [Part.exchangeNow, hx]
  have noMove : b.tickCommits g (!(b.tb g).apex) none = (b, []) := by
    simp [Part.tickCommits, Part.tickMoves, hcommits, hjoint, Part.each]
  have h1 : ((b.transfer g).when (!(b.tb g).apex) (·.gateSwapPeriod g)).Kept True b :=
    (Part.Kept.refl True b).transfer.when (fun _ hq => hq.gateSwapPeriod)
  have hdue := (h1.calm trivial).due
  simp only [PairState.due, Prod.mk.injEq, ha, ho] at hdue
  have h2 := (h1.floorTickIdle hdue.1 hdue.2 (g := g) (t := t)).tickInputs (q := b) (g := g) (edges := edges)
    (first := (b.tb g).first)
  obtain ⟨q, hq, hf⟩ := h2.tickFigureIdle (t := t) hrun hload hreq
  refine ⟨q, hq, .trans (Part.Kept.calm ?_ trivial) hf⟩
  unfold Part.tick
  simp only [noExch, noMove, Part.each, List.foldl_nil, h2.tickStopsIdle hhalt hreq]
  exact (Part.Kept.refl True _).scheduleGroup.sendHeartbeat.setTb

end

/-! The command. -/

theorem exec_tempoTick (g : Grp) (t : Instant) (edges : List (Nat × Nat)) (s : State) :
    exec (.tempoTick g t edges) s = s.run (fun p =>
      if !p.tbRuns g || ((p.tb g).stopReq && !(p.tb g).apex) then p
      else match p.updateTime g t with
        | some u => (p.at u).tick g u edges
        | none => p) := by rfl

theorem does_tempoTick {g : Grp} {t u : Instant} {edges : List (Nat × Nat)} {s : State} {P : Part → Prop}
    (h : s.part.alive = true) (hrun : s.part.tbRuns g = true)
    (hstop : (s.part.tb g).stopReq = false ∨ (s.part.tb g).apex = true) (hu : s.part.updateTime g t = some u)
    (hP : P ((s.part.at u).tick g u edges)) : Does (.tempoTick g t edges) s P := by
  have hgo : (!s.part.tbRuns g || ((s.part.tb g).stopReq && !(s.part.tb g).apex)) = false := by
    rcases hstop with hs | hs <;> simp [hrun, hs]
  refine .of_run (exec_tempoTick g t edges s) h ?_
  simpa only [hgo, hu, Bool.false_eq_true, if_false] using hP

/-- Settles O17, by what every operation of a tick keeps. -/
theorem sampleTick : Obligations.SampleTick := by
  unfold Obligations.SampleTick
  intro g t edges s h tb now
  refine ⟨fun hoff => ?_, fun hreq hapex => ?_, fun hnow => ?_, fun u hrun hstop hu => ?_,
    fun u hrun hstop hu hgrp hcommits hjoint hx hload hhalt hreq ha ho => ?_⟩
  · exact .of_run (exec_tempoTick g t edges s) (by simp [hoff])
  · exact .of_run (exec_tempoTick g t edges s) (if_pos (by simp [show (s.part.tb g).stopReq = true from hreq,
      show (s.part.tb g).apex = false from hapex]))
  · refine .of_run (exec_tempoTick g t edges s) ?_
    simp only [show s.part.updateTime g t = none from hnow, ite_self]
  · refine does_tempoTick h hrun hstop hu ?_
    obtain ⟨hlast, hfirst⟩ := (s.part.at u).tick_tb g u edges
    exact ⟨hlast, hfirst,
      fun c hc => Part.tickMoves_noneLeft _ g _ c (((s.part.at u).tick_commits g u edges).commits hc)⟩
  · refine does_tempoTick h hrun hstop hu ?_
    obtain ⟨q, hq, hp⟩ := Part.tick_sample (b := s.part.at u) (t := u) (edges := edges) hgrp hcommits hjoint hx hload
      hhalt hreq ha ho
    obtain ⟨hmode, hfig, hcount, hlanes⟩ := q.beginSample_spec g u
    have hf := (hp.figure g).trans hfig
    simp only [CleGroup.figure, Prod.mk.injEq] at hf
    obtain ⟨_, hopen, ht0, hwin, hvoter⟩ := hf
    refine ⟨?_, hopen, ht0, hwin, hvoter, ?_, fun n hn => ?_⟩
    · rw [hp.groupRuns, Part.groupRuns, show Part.fld _ _ 24 4 = _ from hmode]
      exact (hq.groupRuns g).trans hgrp
    · rw [hp.count, hcount, hq.count]
      rfl
    · have hl : ((s.part.at u).tick g u edges).lane n = (s.part.lane n).begin := by
        rw [hp.lane, hlanes n ((hq.members g).symm ▸ hn), hq.lane]
        rfl
      rw [hl]
      exact ⟨rfl, rfl, rfl, rfl, rfl, rfl, rfl, rfl⟩

end Sys2Proof.Machine
end

section
/-! PROOFS. What a store and an entry of the event log leave as they were, conditions that have held for a time, and changes
under a condition. -/

namespace Sys2Proof.Machine

variable {p : Part}

/-! A store changes memory and reservations alone; a log entry, besides, its queue. -/

theorem Part.placeBytes_frame (p : Part) (a : Nat) (bs : List Byte) :
    p.placeBytes a bs = { p with mem := (p.placeBytes a bs).mem } := by
  induction bs generalizing p a with
  | nil => rfl
  | cons b bs ih =>
    rw [Part.placeBytes, ih]
    rfl

theorem Part.storeBytes_frame (p : Part) (a : Nat) (bs : List Byte) :
    p.storeBytes a bs = { p with mem := (p.storeBytes a bs).mem, core := (p.storeBytes a bs).core } := by
  have hclear (q : Part) (n : Nat) : q.clearPoison a n = { q with mem := (q.clearPoison a n).mem } := by
    unfold Part.clearPoison
    split <;> rfl
  have hbreak (q : Part) (n : Nat) : q.breakResv a n = { q with core := (q.breakResv a n).core } := by
    dsimp only [Part.breakResv]
    split <;> rfl
  unfold Part.storeBytes
  rw [hbreak, hclear, p.placeBytes_frame]

theorem Part.storeBytes_cle (p : Part) (a : Nat) (bs : List Byte) : (p.storeBytes a bs).cle = p.cle := by
  rw [p.storeBytes_frame]

theorem Part.storeBytes_log (p : Part) (a : Nat) (bs : List Byte) : (p.storeBytes a bs).log = p.log := by
  rw [p.storeBytes_frame]

theorem Part.produce_frame (p : Part) (q : Nat) (entry : List Byte) :
    (p.produce q entry).cle = p.cle ∧ (p.produce q entry).log = p.log := by
  unfold Part.produce
  split
  · exact ⟨rfl, rfl⟩
  split <;>
    simp only [Part.countSat, Part.setFld, Part.setReg_cle, Part.setReg_log, Part.storeBytes_cle,
      Part.storeBytes_log, and_self]

theorem Part.logEvent_cle (p : Part) (code : LogCode) (args : List Nat) : (p.logEvent code args).cle = p.cle :=
  (Part.produce_frame _ _ _).1

theorem Part.logEvent_log (p : Part) (code : LogCode) (args : List Nat) :
    (p.logEvent code args).log = { time := p.ringNow, code := code, args := args } :: p.log :=
  (Part.produce_frame _ _ _).2

/-! Conditions that have held for a time. -/

theorem heldFor_of_le {o : Option Instant} {a t : Instant} {n : Nat} (ha : o = some a) (h : a + n ≤ t) :
    heldFor o n t = true := by
  simp [heldFor, ha, h]

theorem heldFor_of_lt {o : Option Instant} {a t : Instant} {n : Nat} (ha : o = some a) (h : t < a + n) :
    heldFor o n t = false := by
  simp [heldFor, ha, h]

theorem heldFor_iff {o : Option Instant} {n : Nat} {t : Instant} :
    heldFor o n t = true ↔ ∃ a, o = some a ∧ a + n ≤ t := by
  simp [heldFor, Option.any_eq_true]

/-! Changes under a condition, and what follows from what a command does. -/

theorem Part.when_true {c : Bool} {f : Part → Part} (h : c = true) : p.when c f = f p := if_pos h

theorem Part.when_false {c : Bool} {f : Part → Part} (h : c = false) : p.when c f = p := by rw [h]; rfl

/-- A command completes with whatever follows from what it is known to do. -/
theorem Does.imp {i : Instr} {s : State} {P Q : Part → Prop} (hd : Does i s P) (h : ∀ p, P p → Q p) : Does i s Q := by
  obtain ⟨p, hexec, hp⟩ := hd
  exact ⟨p, hexec, h p hp⟩

end Sys2Proof.Machine
end

section
/-! PROOFS. The commands of the grid figure (Table 3.6): the answer of each mode, and the state that follows. -/

namespace Sys2Proof.Machine

section
variable {p : Part} {g : Grp} {x : GridState} {req : Nat}

/-! Answers. -/

theorem Part.gridAck_accepted (p : Part) (g : Grp) (x : GridState) :
    p.gridAck g x 0 = { x with seqAck := bits (p.gw g 256) 24 8, rej := 0, acted := true } := by
  simp [Part.gridAck]

/-- A rejection changes nothing but the answer. -/
theorem Part.gridAck_rejected (p : Part) (g : Grp) (x : GridState) {r : Nat} (h : r ≠ 0) :
    p.gridAck g x r = { x with seqAck := bits (p.gw g 256) 24 8, rej := r } := by
  simp [Part.gridAck, h]

theorem Part.gridAnswer_off (p : Part) (g : Grp) (x : GridState) :
    p.gridAnswer g x 0 = if x.mode ∈ [1, 2, 8] then 0 else 1 := by
  simp [Part.gridAnswer, or_assoc]

theorem Part.gridAnswer_charge (p : Part) (g : Grp) (x : GridState) :
    p.gridAnswer g x 1 = if x.mode ≠ 0 then 1 else if p.role = 1 ∨ p.role = 4 then 0 else 3 := by
  simp [Part.gridAnswer]

theorem gridSwitches_iff (m : Nat) : gridSwitches m = true ↔ m ∈ [3, 4, 5, 6, 7] := by
  simp only [gridSwitches, Bool.and_eq_true, decide_eq_true_eq, List.mem_cons, List.not_mem_nil, or_false]
  omega

theorem Part.gridAnswer_ready (p : Part) (g : Grp) (x : GridState) :
    p.gridAnswer g x 2 = if x.mode ∈ [1, 3, 4, 5, 6, 7, 8] then 0 else 1 := by
  simp [Part.gridAnswer, gridSwitches_iff, or_assoc]

theorem Part.gridAnswer_form (p : Part) (g : Grp) (x : GridState) :
    p.gridAnswer g x 3 = if x.mode ≠ 2 then 1
      else if bitAt (p.gw g 256) 8 = true ∧ x.meas.v1m < ofFp (x.faultWords.getD 5 0) then 0 else 3 := by
  simp [Part.gridAnswer]

theorem Part.gridAnswer_sync (p : Part) (g : Grp) (x : GridState) :
    p.gridAnswer g x 4 = if x.mode ≠ 2 then 1
      else if bitAt (p.gw g 256) 8 = false ∧ pu / 2 ≤ x.meas.vb then 0 else 3 := by
  simp [Part.gridAnswer]

/-- ONLINE and ISLAND have one entry condition. -/
theorem Part.gridAnswer_home (p : Part) (g : Grp) (x : GridState) (h : req = 5 ∨ req = 7) :
    p.gridAnswer g x req = if x.mode ≠ 2 then 1
      else if bitAt (p.gw g 256) 8 = true ∧ pu / 2 ≤ x.meas.v1m ∧ (p.gridE g x - x.meas.v1m).natAbs ≤ pu / 20 then 0
      else 3 := by
  rcases h with rfl | rfl <;> simp [Part.gridAnswer, and_assoc]

/-! The command, in the order of R84. -/

/-- The state after a command that no transition preceded, by its answer. -/
def Part.gridAnswered (p : Part) (g : Grp) (x : GridState) (req r : Nat) : GridState :=
  if r = 0 then p.gridEnter g (p.gridAck g x 0) req else p.gridAck g x r

/-- The state after TRIP where no transition preceded it and no violation trips. -/
def Part.gridTripped (p : Part) (g : Grp) (x : GridState) : GridState :=
  let cause := bits (p.gw g 256) 16 8
  if cause < 0x10 ∨ 0x16 < cause then p.gridAck g x 4
  else if x.mode = 0 then p.gridAck g x 1
  else if x.mode = 8 then p.gridAck g x 0
  else { p.gridAck g x 0 with mode := 8, cause := cause }

theorem Part.gridAnswered_accepted (p : Part) (g : Grp) (x : GridState) (req : Nat) :
    p.gridAnswered g x req 0 =
      p.gridEnter g { x with seqAck := bits (p.gw g 256) 24 8, rej := 0, acted := true } req := by
  rw [Part.gridAnswered, if_pos rfl, Part.gridAck_accepted]

theorem Part.gridAnswered_notAllowed (p : Part) (g : Grp) (x : GridState) (req : Nat) :
    p.gridAnswered g x req 1 = { x with seqAck := bits (p.gw g 256) 24 8, rej := 1 } :=
  p.gridAck_rejected g x Nat.one_ne_zero

theorem Part.gridAnswered_notMet (p : Part) (g : Grp) (x : GridState) (req : Nat) :
    p.gridAnswered g x req 3 = { x with seqAck := bits (p.gw g 256) 24 8, rej := 3 } :=
  p.gridAck_rejected g x (by decide)

theorem Part.gridAnswered_ite (p : Part) (g : Grp) (x : GridState) (req : Nat) (c : Prop) [Decidable c] (a b : Nat) :
    p.gridAnswered g x req (if c then a else b) =
      if c then p.gridAnswered g x req a else p.gridAnswered g x req b := apply_ite _ c a b

theorem Part.gridTripped_badCause (h : bits (p.gw g 256) 16 8 < 0x10 ∨ 0x16 < bits (p.gw g 256) 16 8) :
    p.gridTripped g x = { x with seqAck := bits (p.gw g 256) 24 8, rej := 4 } := by
  rw [Part.gridTripped, if_pos h, Part.gridAck_rejected _ _ _ (by decide)]

section
variable (hlo : 0x10 ≤ bits (p.gw g 256) 16 8) (hhi : bits (p.gw g 256) 16 8 ≤ 0x16)
include hlo hhi

theorem Part.gridTripped_off (h0 : x.mode = 0) :
    p.gridTripped g x = { x with seqAck := bits (p.gw g 256) 24 8, rej := 1 } := by
  rw [Part.gridTripped, if_neg (by omega), if_pos h0, Part.gridAck_rejected _ _ _ (by decide)]

theorem Part.gridTripped_taken (h0 : x.mode ≠ 0) (h8 : x.mode ≠ 8) :
    p.gridTripped g x = { x with
      mode := 8, seqAck := bits (p.gw g 256) 24 8, rej := 0, acted := true, cause := bits (p.gw g 256) 16 8 } := by
  rw [Part.gridTripped, if_neg (by omega), if_neg h0, if_neg h8, Part.gridAck_accepted]

end

section
variable (hopen : p.gridOpen g = true) (hnew : bits (p.gw g 256) 24 8 ≠ (p.cg g).grid.seqAck)
  (hreq : bits (p.gw g 256) 0 8 = req)
include hopen hnew hreq

/-- A command of the present sample is looked at. -/
theorem Part.gridCommand_waits :
    (!p.gridRuns g || !(p.cg g).open_ || !p.gridAsked g (p.cg g).grid || bits (p.gw g 256) 0 8 ≠ req) = false := by
  simp only [Part.gridOpen, Bool.and_eq_true] at hopen
  simp [hopen, Part.gridAsked, hnew, hreq]

/-- After a transition in the sample a command gets REJ 2. -/
theorem Part.gridCommand_late (hacted : (p.cg g).grid.acted = true) :
    p.gridCommand g req = p.setGrid g (p.gridAck g (p.cg g).grid 2) := by
  simp only [Part.gridCommand, gridCommand_waits hopen hnew hreq, hacted, Bool.false_eq_true, if_false, if_true]

section
variable (hacted : (p.cg g).grid.acted = false) (htrip : p.gridTripsNow g (p.cg g).grid = false)
include hacted htrip

theorem Part.gridCommand_trip (h8 : req = 8) :
    p.gridCommand g req = p.setGrid g (p.gridTripped g (p.cg g).grid) := by
  subst h8
  have hviol : ((p.gridViolation g (p.cg g).grid).isSome && bitAt (gridProf (p.cg g).grid 0) 16) = false := htrip
  simp only [Part.gridCommand, gridCommand_waits hopen hnew hreq, hacted, hviol, Bool.false_eq_true, if_false, if_true,
    Part.gridTripped, Bool.or_eq_true, decide_eq_true_eq, apply_ite (p.setGrid g)]

theorem Part.gridCommand_answered (h8 : req ≠ 8) (hown : p.gridOwn g (p.cg g).grid = none) :
    p.gridCommand g req =
      p.setGrid g (p.gridAnswered g (p.cg g).grid req (p.gridAnswer g (p.cg g).grid req)) := by
  have hviol : ((p.gridViolation g (p.cg g).grid).isSome && bitAt (gridProf (p.cg g).grid 0) 16) = false := htrip
  simp only [Part.gridCommand, gridCommand_waits hopen hnew hreq, hacted, hviol, h8, hown, Option.isSome_none, Bool.or_self,
    Bool.false_eq_true, if_false]
  cases p.gridAnswer g (p.cg g).grid req <;> rfl

end

end

/-- A command of the figure that comes to one new state of it. -/
theorem Does.gridState {i : Instr} {s : State} {f : Part → Part} {y : GridState} (he : exec i s = s.run f)
    (h : s.part.alive = true) (hf : f s.part = s.part.setGrid g y) : Does i s (fun p => p = s.part.setGrid g y) :=
  .of_run he h hf

end

/-- Settles O13: one lemma for each branch of R84's order (log entry 21), and one for each answer of Table 3.6. -/
theorem gridCommands : Obligations.GridCommands := by
  unfold Obligations.GridCommands
  intro g s h hopen x w goes ok no vHold half hnew
  refine ⟨fun hacted => ?late, fun hacted htrip => ?trip, fun hacted htrip hown => ?answered⟩
  case late =>
    have late {i : Instr} {req : Nat} (he : exec i s = s.run (·.gridCommand g req)) (hreq : bits w 0 8 = req) :
        goes i (no 2) :=
      .gridState he h ((Part.gridCommand_late hopen hnew hreq hacted).trans
        (congrArg _ (s.part.gridAck_rejected g x (by decide))))
    exact ⟨late rfl, late rfl, late rfl, late rfl, late rfl, late rfl, late rfl, late rfl⟩
  case trip =>
    have trip {y : GridState} (hreq : bits w 0 8 = 8) (hy : s.part.gridTripped g x = y) : goes (.seqcmdTrip g) y :=
      .gridState (f := (·.gridCommand g 8)) rfl h
        ((Part.gridCommand_trip hopen hnew hreq hacted htrip rfl).trans (congrArg _ hy))
    exact ⟨fun hreq hlo hhi h0 h8 => trip hreq (Part.gridTripped_taken hlo hhi h0 h8),
      fun hreq hc => trip hreq (Part.gridTripped_badCause hc),
      fun hreq hlo hhi h0 => trip hreq (Part.gridTripped_off hlo hhi h0)⟩
  case answered =>
    have answered {i : Instr} {req r : Nat} {y : GridState} (he : exec i s = s.run (·.gridCommand g req)) (h8 : req ≠ 8)
        (hr : s.part.gridAnswer g x req = r) (hy : s.part.gridAnswered g x req r = y) (hreq : bits w 0 8 = req) :
        goes i y :=
      .gridState he h ((Part.gridCommand_answered hopen hnew hreq hacted htrip h8 hown).trans
        (congrArg _ ((congrArg _ hr).trans hy)))
    refine ⟨answered rfl (by decide) (s.part.gridAnswer_off g x) ?_,
      answered rfl (by decide) (s.part.gridAnswer_charge g x) ?_, answered rfl (by decide) (s.part.gridAnswer_ready g x) ?_,
      answered rfl (by decide) (s.part.gridAnswer_form g x) ?_, answered rfl (by decide) (s.part.gridAnswer_sync g x) ?_,
      fun i hi => ?home⟩
    case' home => obtain rfl | rfl := List.mem_pair.1 hi
    case' home.inl => refine answered rfl (show 5 ≠ 8 by decide) (s.part.gridAnswer_home g x (.inl rfl)) ?_
    case' home.inr => refine answered rfl (show 7 ≠ 8 by decide) (s.part.gridAnswer_home g x (.inr rfl)) ?_
    all_goals
      simp only [Part.gridAnswered_ite, Part.gridAnswered_accepted, Part.gridAnswered_notAllowed, Part.gridAnswered_notMet]
      rfl

end Sys2Proof.Machine
end

section
/-! PROOFS. What falls due in a sample of the grid figure (R59, R82, R84, R94 to R96). -/

namespace Sys2Proof.Machine

section
variable {p : Part} {g : Grp} {x : GridState} {e : GridEpisode} {b : Instant}

/-! Violations and episodes (R95). -/

theorem gridProfile_iff (m : Nat) : gridProfile m = true ↔ m ∈ [5, 6, 7] := by
  simp only [gridProfile, Bool.and_eq_true, decide_eq_true_eq, List.mem_cons, List.not_mem_nil, or_false]
  omega

theorem Part.gridViolation_none (hm : x.mode ∉ [5, 6, 7]) : p.gridViolation g x = none := by
  simp [Part.gridViolation, mt (gridProfile_iff _).1 hm]

section
variable (hm : x.mode ∈ [5, 6, 7]) (hb : e.beyond = some b) (hdue : p.periodsSince g 1 b = true)
include hm hb hdue

theorem Part.gridViolation_under (hu : x.uv = some e) : p.gridViolation g x = some 1 := by
  simp [Part.gridViolation, (gridProfile_iff _).2 hm, hu, hb, hdue]

theorem Part.gridViolation_over (hu : x.uv = none) (ho : x.ov = some e) : p.gridViolation g x = some 2 := by
  simp [Part.gridViolation, (gridProfile_iff _).2 hm, hu, ho, hb, hdue]

end

/-- What is left of an episode once its end may have fallen due. -/
def Part.episodeLeft (p : Part) (g : Grp) (e : Option GridEpisode) : Option GridEpisode :=
  if e.any (fun e => e.inside.any (fun t => p.periodsSince g 1 t)) then none else e

theorem Part.episodeLeft_none : p.episodeLeft g none = none := rfl

theorem Part.episodeLeft_over {a : Instant} (ha : e.inside = some a) (hdue : p.periodsSince g 1 a = true) :
    p.episodeLeft g (some e) = none := by
  simp [Part.episodeLeft, ha, hdue]

theorem Part.episodeLeft_outside (ha : e.inside = none) : p.episodeLeft g (some e) = some e := by
  simp [Part.episodeLeft, ha]

/-! The rows, for a sample in progress whose figure is in the state `x`. -/

theorem exec_profileViolation (g : Grp) (s : State) : exec (.profileViolation g) s = execProfileViolation g s := by rfl

theorem exec_profileEpisodeEnd (g : Grp) (s : State) : exec (.profileEpisodeEnd g) s = s.run (fun p =>
    p.when (p.gridOpen g) (·.setGrid g { (p.cg g).grid with
      uv := p.episodeLeft g (p.cg g).grid.uv, ov := p.episodeLeft g (p.cg g).grid.ov })) := by rfl

theorem exec_rideEnd (g : Grp) (s : State) : exec (.rideEnd g) s = s.run (fun p =>
    p.when (p.gridFree g (p.cg g).grid && p.rideOver g (p.cg g).grid) (·.gridMove g (p.gridHome g))) := by rfl

theorem exec_formRampComplete (g : Grp) (s : State) : exec (.formRampComplete g) s = s.run (fun p =>
    p.when (p.gridFree g (p.cg g).grid && p.rampOver g (p.cg g).grid) (·.gridMove g (p.gridHome g))) := by rfl

theorem exec_premagnetisationEnd (g : Grp) (s : State) : exec (.premagnetisationEnd g) s = s.run (fun p =>
    p.when (p.gridOpen g && (p.cg g).grid.mode = 3 && (p.cg g).grid.premag && p.periodsSince g 10 (p.cg g).grid.rampAt)
      (·.setGrid g { (p.cg g).grid with premag := false, rampAt := (p.cg g).t0 })) := by rfl

theorem exec_transientWindowEnd (g : Grp) (s : State) :
    exec (.transientWindowEnd g) s = execTransientWindowEnd g s := by rfl

theorem exec_transientRearm (g : Grp) (s : State) : exec (.transientRearm g) s = s.run (fun p =>
    p.when (p.gridOpen g && heldFor (p.cg g).grid.quietAt (sec 10) (p.cg g).t0 && (p.cg g).grid.winAt.isNone)
      (·.setGrid g { (p.cg g).grid with armed := true })) := by rfl

section
variable {s : State} (h : s.part.alive = true) (hopen : s.part.gridOpen g = true) (hx : (s.part.cg g).grid = x)
include h hopen hx

theorem does_profileViolation_trips {cause : Nat} (hacted : x.acted = false) (hrt : bitAt (gridProf x 0) 16 = true)
    (hv : s.part.gridViolation g x = some cause) :
    Does (.profileViolation g) s (fun p => p = s.part.setGrid g { x with mode := 8, cause := cause, acted := true }) := by
  refine .of_run (exec_profileViolation g s) h ?_
  simp only [hopen, hx, hv, hacted, hrt, Bool.false_eq_true, if_false, if_true]

/-- Without RT_EN an undervoltage is logged and confirmed anew (log entry 21). -/
theorem does_profileViolation_logs (hacted : x.acted = false) (hrt : bitAt (gridProf x 0) 16 = false)
    (hv : s.part.gridViolation g x = some 1) :
    Does (.profileViolation g) s (fun p =>
      p.cle = (s.part.setGrid g { x with uv := x.uv.map (fun e => { e with beyond := none }) }).cle ∧
      p.log = { time := s.part.ringNow, code := .profileViolation, args := [g.ix, 1] } :: s.part.log) := by
  refine .of_run (exec_profileViolation g s) h ?_
  simp only [hopen, hx, hv, hacted, hrt, Bool.false_eq_true, if_false, if_true, Part.logEvent_cle, Part.logEvent_log]
  exact ⟨trivial, rfl⟩

theorem does_profileEpisodeEnd {u o : Option GridEpisode} (hu : s.part.episodeLeft g x.uv = u)
    (ho : s.part.episodeLeft g x.ov = o) :
    Does (.profileEpisodeEnd g) s (fun p => p = s.part.setGrid g { x with uv := u, ov := o }) := by
  refine .of_run (exec_profileEpisodeEnd g s) h ((Part.when_true hopen).trans ?_)
  subst hu ho hx
  rfl

theorem does_premagnetisationEnd (hm : x.mode = 3) (hp : x.premag = true)
    (hdue : s.part.periodsSince g 10 x.rampAt = true) :
    Does (.premagnetisationEnd g) s (fun p =>
      p = s.part.setGrid g { x with premag := false, rampAt := (s.part.cg g).t0 }) := by
  subst hx
  exact .of_run (exec_premagnetisationEnd g s) h (Part.when_true (by simp [hopen, hm, hp, hdue]))

theorem does_transientWindowEnd {a : Instant} (ha : x.winAt = some a)
    (hdue : fpScaled (x.faultWords.getD 2 0) ≤ tauUnits ((s.part.cg g).t0 - a)) :
    Does (.transientWindowEnd g) s (fun p => p = s.part.setGrid g { x with
      winAt := none, fall := some ((s.part.cg g).t0, ofFp (x.faultWords.getD 1 0)) }) := by
  refine .of_run (exec_transientWindowEnd g s) h ?_
  simp only [hopen, hx, ha, if_pos hdue]

theorem does_transientRearm (hq : heldFor x.quietAt (sec 10) (s.part.cg g).t0 = true) (hw : x.winAt = none) :
    Does (.transientRearm g) s (fun p => p = s.part.setGrid g { x with armed := true }) := by
  subst hx
  exact .of_run (exec_transientRearm g s) h (Part.when_true (by simp [hopen, hq, hw]))

end

section
variable {s : State} (h : s.part.alive = true) (hx : (s.part.cg g).grid = x) (hfree : s.part.gridFree g x = true)
include h hx hfree

theorem does_rideEnd {a : Instant} (hm : x.mode = 6) (hu : x.uv = none) (ho : x.ov = none)
    (ha : x.freeAt = some a) (hdue : s.part.periodsSince g 1 a = true) (htrig : s.part.gridTrigger g x = false) :
    Does (.rideEnd g) s (fun p => p = s.part.setGrid g { x with mode := s.part.gridHome g, acted := true }) := by
  have hover : s.part.rideOver g x = true := by simp [Part.rideOver, hm, hu, ho, ha, hdue, htrig]
  refine .of_run (exec_rideEnd g s) h ((Part.when_true (by simp [hx, hfree, hover])).trans ?_)
  rw [Part.gridMove, hx]

theorem does_formRampComplete (hm : x.mode = 3) (hp : x.premag = false)
    (hdue : fpScaled x.tbs ≤ tauUnits ((s.part.cg g).t0 - x.rampAt)) :
    Does (.formRampComplete g) s (fun p => p = s.part.setGrid g { x with mode := s.part.gridHome g, acted := true }) := by
  have hover : s.part.rampOver g x = true := by simp [Part.rampOver, hm, hp, hdue]
  refine .of_run (exec_formRampComplete g s) h ((Part.when_true (by simp [hx, hfree, hover])).trans ?_)
  rw [Part.gridMove, hx]

end

section
variable {s : State} (hx : (s.part.cg g).grid = x)
include hx

theorem idles_profileViolation (hm : x.mode ∉ [5, 6, 7]) : Idles (.profileViolation g) s := by
  refine .of_run (exec_profileViolation g s) ?_
  cases hopen : s.part.gridOpen g <;> simp only [hx, Part.gridViolation_none hm]

theorem idles_rideEnd (hm : x.mode ≠ 6 ∨ x.uv.isSome = true ∨ x.ov.isSome = true) : Idles (.rideEnd g) s := by
  have hover : s.part.rideOver g x = false := by
    rcases hm with hm | hm | hm
    · simp [Part.rideOver, hm]
    · simp [Part.rideOver, Option.isNone_eq_false_iff.2 hm]
    · simp [Part.rideOver, Option.isNone_eq_false_iff.2 hm]
  exact .of_run (exec_rideEnd g s) (Part.when_false (by simp [hx, hover]))

theorem idles_formRampComplete (hdue : tauUnits ((s.part.cg g).t0 - x.rampAt) < fpScaled x.tbs) :
    Idles (.formRampComplete g) s := by
  have hover : s.part.rampOver g x = false := by simp [Part.rampOver, hdue]
  exact .of_run (exec_formRampComplete g s) (Part.when_false (by simp [hx, hover]))

theorem idles_premagnetisationEnd (hdue : s.part.periodsSince g 10 x.rampAt = false) :
    Idles (.premagnetisationEnd g) s :=
  .of_run (exec_premagnetisationEnd g s) (Part.when_false (by simp [hx, hdue]))

theorem idles_transientWindowEnd {a : Instant} (ha : x.winAt = some a)
    (hdue : tauUnits ((s.part.cg g).t0 - a) < fpScaled (x.faultWords.getD 2 0)) : Idles (.transientWindowEnd g) s := by
  refine .of_run (exec_transientWindowEnd g s) ?_
  cases hopen : s.part.gridOpen g <;> simp only [hx, ha, if_neg (not_le.2 hdue)]

theorem idles_transientRearm (hq : heldFor x.quietAt (sec 10) (s.part.cg g).t0 = false) : Idles (.transientRearm g) s :=
  .of_run (exec_transientRearm g s) (Part.when_false (by simp [hx, hq]))

end

end

/-- Settles O14 (log entries 21 and 62): for each row what it does when it is due, and that it does nothing else when it is not. -/
theorem gridTimedEvents : Obligations.GridTimedEvents := by
  unfold Obligations.GridTimedEvents
  intro g s h hopen
  generalize hx : (s.part.cg g).grid = y
  intro x now home goes first again
  have free (hf : first) : s.part.gridFree g y = true := by
    obtain ⟨hacted, htrip, hwaits⟩ := hf
    simp [Part.gridFree, hopen, show y.acted = false from hacted, show s.part.gridTripsNow g y = false from htrip,
      show s.part.gridTripWaits g y = false from hwaits]
  refine ⟨fun e b hm hacted hrt hu hb hdue =>
      does_profileViolation_trips h hopen hx hacted hrt (Part.gridViolation_under hm hb hdue hu),
    fun e b hm hacted hrt hu ho hb hdue =>
      does_profileViolation_trips h hopen hx hacted hrt (Part.gridViolation_over hm hb hdue hu ho),
    fun e b hm hacted hrt hu hb hdue =>
      does_profileViolation_logs h hopen hx hacted hrt (Part.gridViolation_under hm hb hdue hu),
    fun hm => idles_profileViolation hx hm,
    fun e a hu ha hdue ho => ?below, fun e a ho ha hdue hu => ?above, fun e hu ha ho => ?outside,
    fun a hf hm hu ho ha hdue htrig => does_rideEnd h hx (free hf) hm hu ho ha hdue htrig,
    fun hm => idles_rideEnd hx hm, fun hf hm hp hdue => does_formRampComplete h hx (free hf) hm hp hdue,
    fun hdue => idles_formRampComplete hx hdue, fun hm hp hdue => does_premagnetisationEnd h hopen hx hm hp hdue,
    fun hdue => idles_premagnetisationEnd hx hdue, fun a ha hdue => does_transientWindowEnd h hopen hx ha hdue,
    fun a ha hdue => idles_transientWindowEnd hx ha hdue,
    fun a ha hdue hw => does_transientRearm h hopen hx (heldFor_of_le ha hdue) hw,
    fun a ha hdue => idles_transientRearm hx (heldFor_of_lt ha hdue)⟩
  case below =>
    exact does_profileEpisodeEnd h hopen hx (by rw [hu, Part.episodeLeft_over ha hdue]) (by rw [ho, Part.episodeLeft_none])
  case above =>
    exact does_profileEpisodeEnd h hopen hx (by rw [hu, Part.episodeLeft_none]) (by rw [ho, Part.episodeLeft_over ha hdue])
  case outside =>
    exact does_profileEpisodeEnd h hopen hx (by rw [hu, Part.episodeLeft_outside ha]) (by rw [ho, Part.episodeLeft_none])

end Sys2Proof.Machine
end

section
/-! PROOFS. What the sequencing library writes: retained data with the counters of its buffer (R288), its answers in SEQ_HOST
and SEQ_STATE (R88), commands in CLE_SEQCMD (R79), and the targets of P and Q (R90). -/

namespace Sys2Proof.Machine

/-- The registers that a store to retained data can change. -/
def bufferRegs : List Nat :=
  [Reg.CYC_CHGSTAT, Reg.CYC_STALLS, Reg.CYC_EVT, Reg.CYC_DIRTY, Reg.NVM_STAT, Reg.NVM_WEARMAX, Reg.NVM_WEARADDR, Reg.NVM_EVT]

@[simp] theorem mem_bufferRegs :
    Reg.CYC_CHGSTAT ∈ bufferRegs ∧ Reg.CYC_STALLS ∈ bufferRegs ∧ Reg.CYC_EVT ∈ bufferRegs ∧
    Reg.CYC_DIRTY ∈ bufferRegs ∧ Reg.NVM_STAT ∈ bufferRegs ∧ Reg.NVM_WEARMAX ∈ bufferRegs ∧
    Reg.NVM_WEARADDR ∈ bufferRegs ∧ Reg.NVM_EVT ∈ bufferRegs := by simp [bufferRegs]

/-- From `p` to `q` the library and the bytes of memory stayed, and of the registers all but those of the buffer. -/
structure Part.Buffered (p q : Part) : Prop where
  lib : q.lib = p.lib
  bytes : q.mem.bytes = p.mem.bytes
  regs : RegsBut p q bufferRegs

section
variable {p q : Part} {l m : List Nat}

theorem RegsBut.mono (h : RegsBut p q l) (hm : l ⊆ m) : RegsBut p q m :=
  fun off hoff => h off (fun hl => hoff (hm hl))

theorem RegsBut.onLib {f : SeqLib → SeqLib} (h : RegsBut p q l) : RegsBut p (q.onLib f) l := h

theorem Part.Buffered.refl (p : Part) : p.Buffered p := ⟨rfl, rfl, fun _ _ => rfl⟩

theorem Part.Buffered.ite {c : Prop} [Decidable c] {r : Part} (hq : p.Buffered q) (hr : p.Buffered r) :
    p.Buffered (if c then q else r) := by
  split <;> assumption

section
variable (h : p.Buffered q)
include h

theorem Part.Buffered.setReg {a : Nat} {v : Word} (ha : a ∈ bufferRegs) : p.Buffered (q.setReg a v) :=
  ⟨h.lib, h.bytes, h.regs.trans (.setReg ha)⟩

theorem Part.Buffered.setFld {a lo w n : Nat} (ha : a ∈ bufferRegs) : p.Buffered (q.setFld a lo w n) := h.setReg ha

theorem Part.Buffered.raiseIf {c : Bool} {a i : Nat} (ha : a ∈ bufferRegs) : p.Buffered (q.raiseIf c a i) :=
  .ite (h.setFld ha) h

theorem Part.Buffered.setCyc {c : CycState} : p.Buffered { q with cyc := c } := ⟨h.lib, h.bytes, h.regs⟩

theorem Part.Buffered.each {α : Type} {f : Part → α → Part} (hf : ∀ r a, p.Buffered r → p.Buffered (f r a))
    {l : List α} : p.Buffered (q.each l f) := by
  induction l generalizing q with
  | nil => exact h
  | cons a l ih => exact ih (hf q a h)

theorem Part.Buffered.wearWord {a : Nat} : p.Buffered (q.wearWord a) := by
  unfold Part.wearWord
  extract_lets z n m p1 top
  have h1 : p.Buffered p1 := ⟨h.lib, h.bytes, h.regs⟩
  exact .raiseIf (.ite ((h1.setReg (by simp)).setReg (by simp)) h1) (by simp)

theorem Part.Buffered.wearRange {a n : Nat} : p.Buffered (q.wearRange a n) := h.each (fun _ _ hr => hr.wearWord)

theorem Part.Buffered.showDirty : p.Buffered q.showDirty :=
  ((h.setFld (by simp)).setFld (by simp)).setFld (by simp)

theorem Part.Buffered.writeBack : p.Buffered q.writeBack := by
  unfold Part.writeBack
  split
  · exact h
  · exact h.setCyc.wearRange.showDirty

theorem Part.Buffered.dirtyLine {l : Nat} : p.Buffered (q.dirtyLine l) := by
  unfold Part.dirtyLine
  extract_lets _ _ p1
  have h1 : p.Buffered p1 := by
    unfold p1
    split
    · exact .ite h (h.setCyc.setFld (by simp))
    · exact h
  exact .ite h1 (.showDirty (.setCyc (.ite ((h1.setFld (by simp)).setFld (by simp)).writeBack h1)))

end

/-- A store to retained data is a store of its bytes and work of the buffer. -/
theorem Part.retain_buffered (p : Part) (a : Nat) (bs : List Byte) : (p.storeBytes a bs).Buffered (p.retain a bs) :=
  (Part.Buffered.refl _).each (fun _ _ hr => hr.dirtyLine)

theorem Part.retain_lib (p : Part) (a : Nat) (bs : List Byte) : (p.retain a bs).lib = p.lib := by
  rw [(p.retain_buffered a bs).lib, p.storeBytes_frame]

theorem Part.retain_regs (p : Part) (a : Nat) (bs : List Byte) : RegsBut p (p.retain a bs) bufferRegs := by
  intro off hoff
  rw [(p.retain_buffered a bs).regs off hoff, Part.reg, Part.storeBytes_regs, Part.reg]

theorem Part.byte_retain (p : Part) (a : Nat) (bs : List Byte) (b : Nat) :
    (p.retain a bs).byte b = if a ≤ b ∧ b < a + bs.length then bs.getD (b - a) 0 else p.byte b := by
  rw [Part.byte, (p.retain_buffered a bs).bytes, ← Part.byte, Part.byte_storeBytes]

/-! The answers. -/

theorem bytesOf_four (n : Nat) : bytesOf 4 n =
    [BitVec.ofNat 8 n, BitVec.ofNat 8 (n / 256), BitVec.ofNat 8 (n / 256 / 256), BitVec.ofNat 8 (n / 256 / 256 / 256)] := rfl

theorem Part.libReport_frame (p : Part) (cmd result word : Nat) :
    (p.libReport cmd result word).lib = p.lib ∧ RegsBut p (p.libReport cmd result word) bufferRegs ∧
      ∀ k < 4, (p.libReport cmd result word).byte (libBase + k) = p.byte (libBase + k) := by
  refine ⟨p.retain_lib _ _, p.retain_regs _ _, fun k hk => ?_⟩
  rw [Part.libReport, Part.byte_retain, if_neg (by omega)]

/-- The word and the result of a report (Table 3.9). -/
theorem Part.libReport_bytes (p : Part) (cmd result : Nat) {word : Nat} (h : word < 256) :
    (p.libReport cmd result word).byte (libBase + 5) = BitVec.ofNat 8 word ∧
      (p.libReport cmd result word).byte (libBase + 6) = BitVec.ofNat 8 result := by
  refine ⟨?_, ?_⟩
  · rw [Part.libReport, Part.byte_retain, if_pos (by simp [bytesOf_four]), bytesOf_four]
    refine BitVec.eq_of_toNat_eq ?_
    simp
    omega
  · rw [Part.libReport, Part.byte_retain, if_pos (by simp [bytesOf_four]), bytesOf_four]
    refine BitVec.eq_of_toNat_eq ?_
    simp
    omega

/-- The part once the library has taken a host command: SEQ_HOST is cleared and the result reported. -/
def Part.libAnswered (p : Part) (cmd result : Nat) : Part := (p.retain libBase (bytesOf 4 0)).libReport cmd result 0

theorem Part.libAnswered_spec (p : Part) (cmd result : Nat) :
    ((p.libAnswered cmd result).lib = p.lib ∧ RegsBut p (p.libAnswered cmd result) bufferRegs) ∧
      (∀ k < 4, (p.libAnswered cmd result).byte (libBase + k) = 0) ∧
      (p.libAnswered cmd result).byte (libBase + 6) = BitVec.ofNat 8 result := by
  obtain ⟨hlib, hregs, hbytes⟩ := (p.retain libBase (bytesOf 4 0)).libReport_frame cmd result 0
  refine ⟨⟨hlib.trans (p.retain_lib _ _), (p.retain_regs _ _).trans hregs⟩, fun k hk => ?_,
    (Part.libReport_bytes _ _ _ (by decide)).2⟩
  have hzero : ∀ k < 4, (bytesOf 4 0).getD k 0 = 0 := by decide
  have hlen : (bytesOf 4 0).length = 4 := rfl
  rw [Part.libAnswered, hbytes k hk, Part.byte_retain, if_pos (by omega), Nat.add_sub_cancel_left, hzero k hk]

/-! Commands. -/

/-- From `p` to `q` the library wrote a command with the next number: CLE_SEQCMD
holds it beside the switchgear states as they were, and of the registers only the `others` changed besides. -/
structure Part.Sent (p q : Part) (g : Grp) (req cause : Nat) (others : List Nat) : Prop where
  req : q.fld (Reg.CLE_SEQCMD g.ix) 0 8 = req
  cause : q.fld (Reg.CLE_SEQCMD g.ix) 16 8 = cause
  number : q.fld (Reg.CLE_SEQCMD g.ix) 24 8 = (p.lib.seq + 1) % 256
  cb1 : q.bit (Reg.CLE_SEQCMD g.ix) 8 = p.bit (Reg.CLE_SEQCMD g.ix) 8
  cb2 : q.bit (Reg.CLE_SEQCMD g.ix) 9 = p.bit (Reg.CLE_SEQCMD g.ix) 9
  regs : RegsBut p q (Reg.CLE_SEQCMD g.ix :: others)

@[simp] theorem Part.lib_onLib (p : Part) (f : SeqLib → SeqLib) : (p.onLib f).lib = f p.lib := rfl

@[simp] theorem Part.reg_onLib (p : Part) (f : SeqLib → SeqLib) (off : Nat) : (p.onLib f).reg off = p.reg off := rfl

@[simp] theorem Part.byte_onLib (p : Part) (f : SeqLib → SeqLib) (a : Nat) : (p.onLib f).byte a = p.byte a := rfl

@[simp] theorem Part.byte_setFld (p : Part) (a lo w n b : Nat) : (p.setFld a lo w n).byte b = p.byte b := by
  rw [Part.byte, Part.setFld, Part.setReg_mem, Part.byte]

theorem Part.libSend_lib (p : Part) (g : Grp) (req cause : Nat) :
    (p.libSend g req cause).lib = { p.lib with seq := (p.lib.seq + 1) % 256 } := by
  simp [Part.libSend, Part.setFld]

theorem Part.libSend_byte (p : Part) (g : Grp) (req cause a : Nat) : (p.libSend g req cause).byte a = p.byte a := by
  simp [Part.libSend]

theorem Part.reg_libSend (p : Part) (g : Grp) (req cause : Nat) :
    (p.libSend g req cause).reg (Reg.CLE_SEQCMD g.ix) =
      setBits (setBits (setBits (p.reg (Reg.CLE_SEQCMD g.ix)) 24 8 ((p.lib.seq + 1) % 256)) 16 8 cause) 0 8 req := by
  simp [Part.libSend]

theorem Part.libSend_sent (p : Part) (g : Grp) {req cause : Nat} (hreq : req < 256) (hcause : cause < 256) :
    p.Sent (p.libSend g req cause) g req cause [] where
  req := by rw [fld, reg_libSend, bits_setBits _ _ _ _ (by decide), Nat.mod_eq_of_lt (b := 2 ^ 8) hreq]
  cause := by
    rw [fld, reg_libSend, bits_setBits_ne _ _ _ _ _ _ (by decide) (by decide), bits_setBits _ _ _ _ (by decide),
      Nat.mod_eq_of_lt (b := 2 ^ 8) hcause]
  number := by
    rw [fld, reg_libSend, bits_setBits_ne _ _ _ _ _ _ (by decide) (by decide),
      bits_setBits_ne _ _ _ _ _ _ (by decide) (by decide), bits_setBits _ _ _ _ (by decide)]
    exact Nat.mod_mod _ _
  cb1 := by simp [bit, reg_libSend, bitAt_setBits_ne]
  cb2 := by simp [bit, reg_libSend, bitAt_setBits_ne]
  regs off hoff := by
    have hne : off ≠ Reg.CLE_SEQCMD g.ix := by simpa using hoff
    simp [libSend, hne]

/-! What the library changes of itself when it enters a phase, and when it begins charging (R89). -/

/-- The library's state in a phase that begins. -/
def libEntered (ph : LibPhase) (t : Instant) (x : SeqLib) : SeqLib :=
  { x with phase := ph, since := t, held := none, dead := none, inRange := none, fbAt := none, rampEnd := none }

theorem Part.onLib_onLib (p : Part) (f f' : SeqLib → SeqLib) : (p.onLib f).onLib f' = p.onLib (f' ∘ f) := rfl

theorem Part.onLib_id (p : Part) : p.onLib id = p := rfl

theorem Part.libPhase_eq (p : Part) (ph : LibPhase) (t : Instant) : p.libPhase ph t = p.onLib (libEntered ph t) := rfl

/-- The library's state in CHARGE. -/
def libCharging (goOn : Bool) (t : Instant) (x : SeqLib) : SeqLib :=
  { libEntered .charge t x with kpc := true, kmOn := false, startOn := goOn, vdc := [] }

theorem Part.libCharge_eq (p : Part) (g : Grp) (goOn : Bool) (t : Instant) :
    p.libCharge g goOn t = (p.libSend g 1 0).onLib (libCharging goOn t) := by
  rw [Part.libCharge, Part.libPhase_eq, Part.onLib_onLib]
  rfl

section
variable {g : Grp} {req cause : Nat} {l : List Nat}

theorem Part.Sent.onLib (h : p.Sent q g req cause l) (f : SeqLib → SeqLib) : p.Sent (q.onLib f) g req cause l :=
  ⟨h.req, h.cause, h.number, h.cb1, h.cb2, h.regs⟩

/-- Other registers changed before the command. -/
theorem Part.Sent.before {p₀ : Part} (hregs : RegsBut p₀ p l) (hlib : p.lib = p₀.lib) (hl : Reg.CLE_SEQCMD g.ix ∉ l)
    (h : p.Sent q g req cause []) : p₀.Sent q g req cause l where
  req := h.req
  cause := h.cause
  number := by rw [h.number, hlib]
  cb1 := by rw [h.cb1, bit, hregs _ hl, bit]
  cb2 := by rw [h.cb2, bit, hregs _ hl, bit]
  regs off hoff := by
    obtain ⟨hne, hoff⟩ := not_or.1 (mt List.mem_cons.2 hoff)
    rw [h.regs off (by simpa using hne), hregs off hoff]

/-- Other registers changed after the command. -/
theorem Part.Sent.after {r : Part} (h : p.Sent q g req cause []) (hregs : RegsBut q r l) (hl : Reg.CLE_SEQCMD g.ix ∉ l) :
    p.Sent r g req cause l where
  req := by rw [← h.req, fld, hregs _ hl, fld]
  cause := by rw [← h.cause, fld, hregs _ hl, fld]
  number := by rw [← h.number, fld, hregs _ hl, fld]
  cb1 := by rw [← h.cb1, bit, hregs _ hl, bit]
  cb2 := by rw [← h.cb2, bit, hregs _ hl, bit]
  regs off hoff := by
    obtain ⟨hne, hoff⟩ := not_or.1 (mt List.mem_cons.2 hoff)
    rw [hregs off hoff, h.regs off (by simpa using hne)]

theorem seqcmd_notMem_bufferRegs (g : Grp) : Reg.CLE_SEQCMD g.ix ∉ bufferRegs := by cases g <;> decide

end

end

/-! Targets of the library (R90). -/

theorem Part.lib_setRamp (p : Part) (c : Nat) (x : RampCh) : (p.setRamp c x).lib = p.lib := rfl

theorem Part.reg_setRamp (p : Part) (c : Nat) (x : RampCh) (off : Nat) : (p.setRamp c x).reg off = p.reg off := rfl

theorem Part.rampTarget_lib (p : Part) (c : Nat) (v : Word) : (p.rampTarget c v).lib = p.lib := by
  unfold Part.rampTarget
  split
  · rw [Part.setBit, Part.setFld, Part.setReg_lib]
  · rw [Part.lib_setRamp, Part.setBit, Part.setFld, Part.setReg_lib, Part.setReg_lib]

theorem Part.rampTarget_regs (p : Part) (c : Nat) (v : Word) :
    RegsBut p (p.rampTarget c v) [Reg.RAMP_TGT c, Reg.RAMP_STAT c] := by
  unfold Part.rampTarget
  split
  · exact .setFld (by simp)
  · intro off hoff
    obtain ⟨htgt, hstat⟩ := not_or.1 (mt List.mem_pair.2 hoff)
    rw [Part.reg_setRamp, Part.reg_setBit, if_neg hstat, Part.reg_setReg, if_neg htgt]

/-- A finite target is taken. -/
theorem Part.reg_rampTarget (p : Part) (c : Nat) {v : Word} (h : fpFinite v = true) :
    (p.rampTarget c v).reg (Reg.RAMP_TGT c) = v := by
  have hne : Reg.RAMP_TGT c ≠ Reg.RAMP_STAT c := by unfold Reg.RAMP_TGT Reg.RAMP_STAT; omega
  rw [Part.rampTarget, h, Bool.not_true, if_neg Bool.false_ne_true, Part.reg_setRamp, Part.reg_setBit, if_neg hne,
    Part.reg_setReg, if_pos rfl]

theorem Part.libTarget_lib (p : Part) (g : Grp) (k : Nat) (x : Word) : (p.libTarget g k x).lib = p.lib := by
  unfold Part.libTarget
  split
  · rfl
  · exact p.rampTarget_lib _ _

theorem Part.libTarget_regs (p : Part) (g : Grp) (k : Nat) (x : Word) :
    RegsBut p (p.libTarget g k x) [Reg.RAMP_TGT (4 * g.ix + k), Reg.RAMP_STAT (4 * g.ix + k)] := by
  unfold Part.libTarget
  split
  · exact fun _ _ => rfl
  · exact p.rampTarget_regs _ _

theorem Part.reg_libTarget (p : Part) (g : Grp) (k : Nat) {x : Word} (h : fpFinite x = true) :
    (p.libTarget g k x).reg (Reg.RAMP_TGT (4 * g.ix + k)) = x := by
  unfold Part.libTarget
  split
  next hx => exact hx
  · exact p.reg_rampTarget _ h

/-- The registers of the ramps of P and Q of a group that a target changes. -/
def targetRegs (g : Grp) : List Nat :=
  [Reg.RAMP_TGT (4 * g.ix), Reg.RAMP_STAT (4 * g.ix), Reg.RAMP_TGT (4 * g.ix + 1), Reg.RAMP_STAT (4 * g.ix + 1)]

/-- The library's own targets stand in the ramps of P and Q, and the dispatch targets are kept (R90). -/
theorem Part.libOverride_spec (p : Part) (g : Grp) {ps qs : Word} (hps : fpFinite ps = true) (hqs : fpFinite qs = true) :
    (p.libOverride g ps qs).reg (Reg.RAMP_TGT (4 * g.ix)) = ps ∧
      (p.libOverride g ps qs).reg (Reg.RAMP_TGT (4 * g.ix + 1)) = qs ∧
      RegsBut p (p.libOverride g ps qs) (targetRegs g) ∧
      (∃ d, (p.libOverride g ps qs).lib = { p.lib with dispatch := some d }) := by
  unfold Part.libOverride
  extract_lets c p1
  have hregs : RegsBut p p1 (targetRegs g) := by
    unfold p1
    split
    · exact fun _ _ => rfl
    · exact fun _ _ => rfl
  have hlib : ∃ d, p1.lib = { p.lib with dispatch := some d } := by
    unfold p1
    split
    next hd =>
      obtain ⟨d, hd⟩ := Option.isSome_iff_exists.1 hd
      exact ⟨d, by rw [← hd]⟩
    · exact ⟨_, rfl⟩
  have hother : Reg.RAMP_TGT (4 * g.ix) ∉ [Reg.RAMP_TGT (4 * g.ix + 1), Reg.RAMP_STAT (4 * g.ix + 1)] := by
    cases g <;> decide
  have h0 := p1.reg_libTarget g 0 hps
  refine ⟨?_, Part.reg_libTarget _ g 1 hqs, ?_, ?_⟩
  · rw [Part.libTarget_regs _ g 1 qs _ hother]
    exact h0
  · have hsub (k : Nat) (hk : k < 2) : [Reg.RAMP_TGT (4 * g.ix + k), Reg.RAMP_STAT (4 * g.ix + k)] ⊆ targetRegs g := by
      interval_cases k <;> simp [targetRegs]
    have hp0 := (p1.libTarget_regs g 0 ps).mono (hsub 0 (by decide))
    have hp1 := ((p1.libTarget g 0 ps).libTarget_regs g 1 qs).mono (hsub 1 (by decide))
    exact (hregs.trans hp0).trans hp1
  · rw [Part.libTarget_lib, Part.libTarget_lib]
    exact hlib

/-! What the library looks at does not change as its instant is reached. -/

@[simp] theorem Part.lib_at (p : Part) (t : Instant) : (p.at t).lib = p.lib := rfl

@[simp] theorem Part.libT_at (p : Part) (t : Instant) (k : Nat) : (p.at t).libT k = p.libT k := rfl

@[simp] theorem Part.stoHold_at (p : Part) (t : Instant) : (p.at t).stoHold = p.stoHold := rfl

@[simp] theorem Part.epMode_at (p : Part) (t : Instant) (g : Grp) : (p.at t).epMode g = p.epMode g := rfl

@[simp] theorem Part.gridHz_at (p : Part) (t : Instant) (g : Grp) : (p.at t).gridHz g = p.gridHz g := rfl

@[simp] theorem Part.libWait_at (p : Part) (t : Instant) (g : Grp) : (p.at t).libWait g = p.libWait g := rfl

@[simp] theorem Part.libGrp_at (p : Part) (t : Instant) : (p.at t).libGrp = p.libGrp := rfl

end Sys2Proof.Machine
end

section
/-! PROOFS. The host interface of the sequencing library (R88, R89, R96, R101, R102). -/

namespace Sys2Proof.Machine

section
variable {p : Part} {g : Grp} {cmd : Nat} {allowed : Grp → Nat → Bool} {act : Grp → Nat → Part → Part}
  (hg : p.libGrp = some g) (hc : p.loadWord libBase = BitVec.ofNat 32 cmd)
include hg hc

theorem Part.libHost_allowed (ha : allowed g (p.epMode g) = true) :
    p.libHost cmd allowed act = act g (p.epMode g) (p.libAnswered cmd 0) := by
  simp only [Part.libHost, hg, hc, ne_eq, not_true_eq_false, if_false, ha, if_true]
  rfl

theorem Part.libHost_refused (ha : allowed g (p.epMode g) = false) : p.libHost cmd allowed act = p.libAnswered cmd 1 := by
  simp only [Part.libHost, hg, hc, ne_eq, not_true_eq_false, if_false, ha, Bool.false_eq_true]
  rfl

end

/-- What the library changes of itself after it has taken a command of the host. -/
theorem Part.answered_onLib (p : Part) (t : Instant) (cmd : Nat) (f : SeqLib → SeqLib) :
    let q := ((p.at t).libAnswered cmd 0).onLib f
    q.lib = f p.lib ∧ RegsBut p q bufferRegs ∧ ∀ k < 4, q.byte (libBase + k) = 0 := by
  obtain ⟨⟨hlib, hregs⟩, hclear, -⟩ := (p.at t).libAnswered_spec cmd 0
  refine ⟨?_, .onLib hregs, fun k hk => ?_⟩
  · rw [Part.lib_onLib, hlib, Part.lib_at]
  · rw [Part.byte_onLib, hclear k hk]

/-- A command that the library writes right after it has taken one of the host's, and what it changes of itself. -/
theorem Part.answered_sends (p : Part) (t : Instant) (g : Grp) (cmd : Nat) {req : Nat} (hreq : req < 256)
    (f : SeqLib → SeqLib) :
    let q := (((p.at t).libAnswered cmd 0).libSend g req 0).onLib f
    p.Sent q g req 0 bufferRegs ∧ (∀ k < 4, q.byte (libBase + k) = 0) ∧
      q.lib = f { p.lib with seq := (p.lib.seq + 1) % 256 } := by
  obtain ⟨⟨hlib, hregs⟩, hclear, -⟩ := (p.at t).libAnswered_spec cmd 0
  have hsent := Part.libSend_sent ((p.at t).libAnswered cmd 0) g hreq (show 0 < 256 by decide)
  refine ⟨(hsent.before (p₀ := p) hregs hlib (seqcmd_notMem_bufferRegs g)).onLib f, fun k hk => ?_, ?_⟩
  · rw [Part.byte_onLib, Part.libSend_byte, hclear k hk]
  · rw [Part.lib_onLib, Part.libSend_lib, hlib, Part.lib_at]

/-! The commands. -/

theorem exec_seqHostStart (t : Instant) (s : State) : exec (.seqHostStart t) s = s.run (fun p =>
    (p.at t).libHost 1 (fun _ m => m = 0 || m = 2)
      (fun g m p => if m = 0 then p.libCharge g true t else p.libPhase .slot t)) := by rfl

theorem exec_seqHostCharge (t : Instant) (s : State) : exec (.seqHostCharge t) s = s.run (fun p =>
    (p.at t).libHost 4 (fun _ m => m = 0) (fun g _ p => p.libCharge g false t)) := by rfl

theorem exec_seqHostOff (t : Instant) (s : State) : exec (.seqHostOff t) s = s.run (fun p =>
    (p.at t).libHost 5 (fun _ m => m = 1 || m = 2 || m = 8) (fun g _ p => (p.libSend g 0 0).libPhase .idle t)) := by rfl

theorem exec_seqHostStop (t : Instant) (s : State) : exec (.seqHostStop t) s = s.run (fun p =>
    if p.libGrp.any (fun g => p.epMode g = 6) then p.at t
    else (p.at t).libHost 2 (fun _ m => gridSwitches m) (fun _ _ p => p.libPhase .stopping t)) := by rfl

/-- Where RESET goes to (R102): READY where V_DC is in its band, else OFF. -/
def Part.resetTo (p : Part) (g : Grp) : Nat :=
  if 70 * p.libQ 0 ≤ 100 * p.epQ g 10 && 100 * p.epQ g 10 ≤ 125 * p.libQ 0 then 2 else 0

theorem Part.resetTo_eq (p : Part) (g : Grp) : p.resetTo g =
    if 70 * p.libQ 0 ≤ 100 * p.epQ g 10 ∧ 100 * p.epQ g 10 ≤ 125 * p.libQ 0 then 2 else 0 := by
  simp [Part.resetTo]

theorem Part.resetTo_lt (p : Part) (g : Grp) : p.resetTo g < 256 := by
  unfold Part.resetTo
  split <;> decide

/-- An answer of the library does not touch what RESET looks at. -/
theorem Part.resetTo_libAnswered (p : Part) (g : Grp) (cmd result : Nat) :
    (p.libAnswered cmd result).resetTo g = p.resetTo g := by
  obtain ⟨⟨hlib, hregs⟩, -⟩ := p.libAnswered_spec cmd result
  have hep : Reg.CLE_EP g.ix 10 ∉ bufferRegs := by cases g <;> decide
  have hvdc : (p.libAnswered cmd result).epQ g 10 = p.epQ g 10 := congrArg ofFp (hregs _ hep)
  have hnom : (p.libAnswered cmd result).libQ 0 = p.libQ 0 := by rw [Part.libQ, Part.libW, hlib, Part.libQ, Part.libW]
  rw [Part.resetTo, hvdc, hnom, Part.resetTo]

theorem exec_seqHostReset (t : Instant) (s : State) : exec (.seqHostReset t) s = s.run (fun p =>
    (p.at t).libHost 3 (fun _ m => m = 8 && !p.lib.fb.cb1 && p.fld Reg.GATE_LATCH 0 24 = 0 && !p.stoHold)
      (fun g _ p => p.libSend g (p.resetTo g) 0)) := by rfl

section
variable {t : Instant} {g : Grp} {s : State} {i : Instr} {f : Part → Part} {cmd : Nat} {allowed : Grp → Nat → Bool}
  {act : Grp → Nat → Part → Part}
  (he : exec i s = s.run f) (h : s.part.alive = true) (hf : f s.part = (s.part.at t).libHost cmd allowed act)
  (hg : s.part.libGrp = some g) (hc : s.part.loadWord libBase = BitVec.ofNat 32 cmd)
include he h hf hg hc

theorem does_libHost {P : Part → Prop} (ha : allowed g (s.part.epMode g) = true)
    (hP : P (act g (s.part.epMode g) ((s.part.at t).libAnswered cmd 0))) : Does i s P :=
  .of_run he h (hf.trans (Part.libHost_allowed (p := s.part.at t) hg hc ha) ▸ hP)

/-- A command of the host on which the library changes its own state. -/
theorem does_libHost_begins (ha : allowed g (s.part.epMode g) = true) (F : SeqLib → SeqLib)
    (hact : ∀ q : Part, act g (s.part.epMode g) q = q.onLib F) :
    Does i s (fun p => p.lib = F s.part.lib ∧ RegsBut s.part p bufferRegs ∧ ∀ k < 4, p.byte (libBase + k) = 0) := by
  refine does_libHost he h hf hg hc ha ?_
  rw [hact]
  exact s.part.answered_onLib t cmd F

/-- A command of the host on which the library writes one to the figure. -/
theorem does_libHost_sends (ha : allowed g (s.part.epMode g) = true) {req : Nat} (hreq : req < 256) (F : SeqLib → SeqLib)
    (hact : act g (s.part.epMode g) ((s.part.at t).libAnswered cmd 0) =
      (((s.part.at t).libAnswered cmd 0).libSend g req 0).onLib F) :
    Does i s (fun p => s.part.Sent p g req 0 bufferRegs ∧ (∀ k < 4, p.byte (libBase + k) = 0) ∧
      p.lib = F { s.part.lib with seq := (s.part.lib.seq + 1) % 256 }) := by
  refine does_libHost he h hf hg hc ha ?_
  rw [hact]
  exact s.part.answered_sends t g cmd hreq F

/-- A command that the mode does not allow reports result 1 and writes nothing to the figure. -/
theorem does_libHost_refused (ha : allowed g (s.part.epMode g) = false) :
    Does i s (fun p => (p.lib = s.part.lib ∧ RegsBut s.part p bufferRegs) ∧
      (∀ k < 4, p.byte (libBase + k) = 0) ∧ p.byte (libBase + 6) = 1) := by
  refine .of_run he h ?_
  rw [hf, Part.libHost_refused (p := s.part.at t) hg hc ha]
  exact (s.part.at t).libAnswered_spec cmd 1

end

section
variable {t : Instant} {g : Grp} {s : State} (h : s.part.alive = true) (hg : s.part.libGrp = some g)
  (hc : s.part.loadWord libBase = 3)
include h hg hc

theorem does_seqHostReset (hm : s.part.epMode g = 8) (hcb : s.part.lib.fb.cb1 = false)
    (hlatch : s.part.fld Reg.GATE_LATCH 0 24 = 0) (hsto : s.part.stoHold = false) :
    Does (.seqHostReset t) s (fun p =>
      s.part.Sent p g (s.part.resetTo g) 0 bufferRegs ∧ (∀ k < 4, p.byte (libBase + k) = 0) ∧
      p.lib = { s.part.lib with seq := (s.part.lib.seq + 1) % 256 }) := by
  have hact (q : Part) (hq : q.resetTo g = s.part.resetTo g) :
      q.libSend g (q.resetTo g) 0 = (q.libSend g (s.part.resetTo g) 0).onLib id := by
    rw [hq, Part.onLib_id]
  exact does_libHost_sends (exec_seqHostReset t s) h rfl hg hc (by simp [hm, hcb, hlatch, hsto]) (s.part.resetTo_lt g) id
    (hact _ ((s.part.at t).resetTo_libAnswered g 3 0))

theorem does_seqHostReset_refused (hm : s.part.epMode g ≠ 8 ∨ s.part.lib.fb.cb1 = true ∨
      s.part.fld Reg.GATE_LATCH 0 24 ≠ 0 ∨ s.part.stoHold = true) :
    Does (.seqHostReset t) s (fun p => (p.lib = s.part.lib ∧ RegsBut s.part p bufferRegs) ∧
      (∀ k < 4, p.byte (libBase + k) = 0) ∧ p.byte (libBase + 6) = 1) := by
  refine does_libHost_refused (exec_seqHostReset t s) h rfl hg hc ?_
  rcases hm with hm | hm | hm | hm <;> simp [hm]

end

/-! SEQ_TCOMMIT (R88). -/

section
variable {p : Part} {t : Instant} {s : State}

/-- The words that a new SEQ_TCOMMIT puts in force. -/
def Part.libStaged (p : Part) : List Word := (List.range 16).map (fun k => p.loadWord (libBase + 0x40 + 4 * k))

/-- The part once the library has seen the new SEQ_TCOMMIT. -/
def Part.tcommitSeen (p : Part) (t : Instant) : Part :=
  (p.at t).onLib (fun x => { x with tcommit := p.loadWord (libBase + 8) })

theorem exec_seqTcommit (t : Instant) (s : State) : exec (.seqTcommit t) s = execSeqTcommit t s := by rfl

theorem libFault_lt {ws : List Word} {k : Nat} (h : libFault ws = some k) : k < 15 :=
  List.mem_range.1 (List.mem_of_find?_eq_some h)

theorem does_seqTcommit_old (h : s.part.alive = true) (hv : s.part.loadWord (libBase + 8) = s.part.lib.tcommit) :
    Does (.seqTcommit t) s (fun p => p = s.part.at t) := by
  refine .of_run (exec_seqTcommit t s) h ?_
  exact if_pos hv

section
variable (h : s.part.alive = true) (hv : s.part.loadWord (libBase + 8) ≠ s.part.lib.tcommit)
include h hv

theorem does_seqTcommit_adopts (hw : libFault s.part.libStaged = none) :
    Does (.seqTcommit t) s (fun p => p = { s.part.at t with lib := { s.part.lib with
      tcommit := s.part.loadWord (libBase + 8), words := s.part.libStaged } }) := by
  refine .of_run (exec_seqTcommit t s) h ?_
  refine (if_neg hv).trans ?_
  dsimp only
  split
  next k hk => exact absurd (hw.symm.trans hk) (by simp)
  next => rfl

theorem does_seqTcommit_reports {k : Nat} (hw : libFault s.part.libStaged = some k) :
    Does (.seqTcommit t) s (fun p =>
      p = (s.part.tcommitSeen t).libReport (s.part.byte (libBase + 7)).toNat 2 (16 + k)) := by
  refine .of_run (exec_seqTcommit t s) h ?_
  refine (if_neg hv).trans ?_
  dsimp only
  split
  next j hj =>
    obtain rfl : k = j := Option.some.inj (hw.symm.trans hj)
    rfl
  next hj => exact absurd (hw.symm.trans hj) (by simp)

theorem does_seqTcommit_faulty {k : Nat} (hw : libFault s.part.libStaged = some k) :
    Does (.seqTcommit t) s (fun p => p.lib = { s.part.lib with tcommit := s.part.loadWord (libBase + 8) } ∧
      p.byte (libBase + 5) = BitVec.ofNat 8 (16 + k) ∧ p.byte (libBase + 6) = 2 ∧ RegsBut s.part p bufferRegs) := by
  obtain ⟨p, hexec, hp⟩ := does_seqTcommit_reports (t := t) h hv hw
  have hk := libFault_lt hw
  let state := (s.part.byte (libBase + 7)).toNat
  obtain ⟨hlib, hregs, -⟩ := (s.part.tcommitSeen t).libReport_frame state 2 (16 + k)
  obtain ⟨hword, hresult⟩ := (s.part.tcommitSeen t).libReport_bytes state 2 (show 16 + k < 256 by omega)
  rw [← hp] at hlib hregs hword hresult
  exact ⟨p, hexec, hlib, hword, hresult, hregs⟩

end

end

/-- Settles O15 (log entry 22): a lemma for what the library answers, one for what it writes, and one for each end of SEQ_TCOMMIT. -/
theorem libraryHostCommands : Obligations.LibraryHostCommands := by
  unfold Obligations.LibraryHostCommands
  intro t g s h hg m
  have hmode : s.part.epMode g = m := rfl
  clear_value m
  intro lib r buf asked sent silent cleared begun
  have sent_of {i : Instr} {req : Nat} {y : SeqLib} (hy : y.seq = (lib.seq + 1) % 256)
      (hd : Does i s (fun p => s.part.Sent p g req 0 bufferRegs ∧ (∀ k < 4, p.byte (libBase + k) = 0) ∧ p.lib = y)) :
      Does i s (fun p => sent p req ∧ cleared p ∧ p.lib = y) := by
    obtain ⟨p, hexec, hs, hclear, hlib⟩ := hd
    exact ⟨p, hexec, ⟨hs.req, hs.cause, hs.number, (congrArg SeqLib.seq hlib).trans hy, hs.cb1, hs.cb2, hs.regs⟩, hclear,
      hlib⟩
  refine ⟨fun hc hm => ?start, fun hc hm => ?startReady, fun hc h0 h2 => ?startRefused, fun hc hm => ?charge,
    fun hc hm => ?chargeRefused, fun hc hm => ?off, fun hc hm => ?offRefused, fun hc hm => ?stop, fun hc hm => ?stopWaits,
    fun hc hm => ?stopRefused, fun hc hm hcb hl hsto => ?reset, fun hc hm => ?resetRefused,
    fun hv hw => does_seqTcommit_adopts h hv hw, fun k hv hw => does_seqTcommit_faulty h hv hw,
    fun hv => does_seqTcommit_old h hv⟩
  case start =>
    exact sent_of rfl (does_libHost_sends (exec_seqHostStart t s) h rfl hg hc (by simp [hmode, hm]) (by decide)
      (libCharging true t) ((if_pos (hmode.trans hm)).trans (Part.libCharge_eq _ _ _ _)))
  case startReady =>
    exact does_libHost_begins (exec_seqHostStart t s) h rfl hg hc (by simp [hmode, hm]) (libEntered .slot t)
      (fun q => (if_neg (by simp [hmode, hm])).trans (q.libPhase_eq _ _))
  case startRefused => exact does_libHost_refused (exec_seqHostStart t s) h rfl hg hc (by simp [hmode, h0, h2])
  case charge =>
    exact sent_of rfl (does_libHost_sends (exec_seqHostCharge t s) h rfl hg hc (by simp [hmode, hm]) (by decide)
      (libCharging false t) (Part.libCharge_eq _ _ _ _))
  case chargeRefused => exact does_libHost_refused (exec_seqHostCharge t s) h rfl hg hc (by simp [hmode, hm])
  case off =>
    exact sent_of rfl (does_libHost_sends (exec_seqHostOff t s) h rfl hg hc (by simpa [hmode, or_assoc] using hm)
      (by decide) (libEntered .idle t) (Part.libPhase_eq _ _ _))
  case offRefused =>
    exact does_libHost_refused (exec_seqHostOff t s) h rfl hg hc (by simpa [hmode, and_assoc] using hm)
  case stop =>
    have h6 : m ≠ 6 := by rintro rfl; simp at hm
    exact does_libHost_begins (exec_seqHostStop t s) h (if_neg (by simp [hg, hmode, h6])) hg hc
      ((gridSwitches_iff _).2 (hmode ▸ (show [3, 4, 5, 7] ⊆ [3, 4, 5, 6, 7] by decide) hm)) (libEntered .stopping t)
      (fun q => q.libPhase_eq _ _)
  case stopWaits => exact .of_run (exec_seqHostStop t s) h (if_pos (by simp [hg, hmode, hm]))
  case stopRefused =>
    have h6 : m ≠ 6 := by rintro rfl; simp at hm
    exact does_libHost_refused (exec_seqHostStop t s) h (if_neg (by simp [hg, hmode, h6])) hg hc
      (Bool.eq_false_iff.2 (mt (gridSwitches_iff _).1 (hmode ▸ hm)))
  case reset =>
    obtain ⟨p, hexec, hs, hclear, hlib⟩ := sent_of rfl (does_seqHostReset h hg hc (hmode.trans hm) hcb hl hsto)
    rw [Part.resetTo_eq] at hs
    exact ⟨p, hexec, hclear, hlib, hs⟩
  case resetRefused => exact does_seqHostReset_refused h hg hc (hmode ▸ hm)

end Sys2Proof.Machine
end

section
/-! PROOFS. What falls due in the sequencing library (R89 to R92, R101, R102). -/

namespace Sys2Proof.Machine

section
variable {p : Part} {g : Grp} {t : Instant}

/-! A trip, and other commands that the library writes as it enters a phase. -/

theorem Part.sends_enters (p : Part) (g : Grp) (t : Instant) {req cause : Nat} (hreq : req < 256) (hcause : cause < 256)
    (ph : LibPhase) :
    let q := ((p.at t).libSend g req cause).libPhase ph t
    p.Sent q g req cause [] ∧ q.lib = libEntered ph t { p.lib with seq := (p.lib.seq + 1) % 256 } := by
  have hsent := Part.libSend_sent (p.at t) g hreq hcause
  rw [Part.libPhase_eq]
  refine ⟨(Part.Sent.before (p₀ := p) (p := p.at t) (fun _ _ => rfl) (p.lib_at t) List.not_mem_nil hsent).onLib _, ?_⟩
  rw [Part.lib_onLib, Part.libSend_lib, Part.lib_at]

/-- TRIP leaves the library idle, and it may change more of its own state. -/
theorem Part.trips (p : Part) (g : Grp) (t : Instant) {cause : Nat} (hcause : cause < 256) (f : SeqLib → SeqLib) :
    let q := ((p.at t).libTrip g cause t).onLib f
    p.Sent q g 8 cause [] ∧ q.lib = f (libEntered .idle t { p.lib with seq := (p.lib.seq + 1) % 256 }) := by
  obtain ⟨hsent, hlib⟩ := p.sends_enters g t (show 8 < 256 by decide) hcause .idle
  exact ⟨hsent.onLib f, congrArg f hlib⟩

end

/-! The rows. Each acts on the part that has reached its instant. -/

theorem exec_prechargeTimeout (t : Instant) (s : State) : exec (.prechargeTimeout t) s = execPrechargeTimeout t s := by rfl

theorem exec_syncWindowsHeld (t : Instant) (s : State) : exec (.syncWindowsHeld t) s = execSyncWindowsHeld t s := by rfl

theorem exec_cb1FeedbackTimeout (t : Instant) (s : State) :
    exec (.cb1FeedbackTimeout t) s = execCb1FeedbackTimeout t s := by rfl

theorem exec_syncTimeout (t : Instant) (s : State) : exec (.syncTimeout t) s = execSyncTimeout t s := by rfl

theorem exec_firstMoverSlotExpiry (t : Instant) (s : State) :
    exec (.firstMoverSlotExpiry t) s = execFirstMoverSlotExpiry t s := by rfl

theorem exec_stopTimeout (t : Instant) (s : State) : exec (.stopTimeout t) s = execStopTimeout t s := by rfl

theorem exec_dcLinkOutOfBand (t : Instant) (s : State) : exec (.dcLinkOutOfBand t) s = execDcLinkOutOfBand t s := by rfl

section
variable {p : Part} {g : Grp} {ms : List Nat} (hg : p.libGrp = some g)
include hg

/-- The library's group, where its mode is one of those asked for. -/
theorem Part.libIn_of_mem (hm : p.epMode g ∈ ms) : p.libIn ms = some g := by simp [Part.libIn, hg, hm]

theorem Part.libIn_cases : p.libIn ms = some g ∨ p.libIn ms = none := by
  by_cases hm : p.epMode g ∈ ms <;> simp [Part.libIn, hg, hm]

end

/-- The slot wait and the bus check are over (R92). -/
theorem Part.slotOver {p : Part} {t n : Nat} (hph : p.lib.phase = .slot) (hdue : n ≤ t) :
    ¬ (decide (p.lib.phase ≠ .slot) || decide (t < n)) = true := by
  simp [hph, hdue]

theorem not_and_due {c : Bool} {a t : Nat} (hlate : t < a) : ¬ (c && decide (a ≤ t)) = true := by
  simp [hlate]

theorem max_add_le {a b c t : Nat} (ha : a + c ≤ t) (hb : b + c ≤ t) : max a b + c ≤ t := by omega

section
variable {t : Instant} {g : Grp} {s : State} (h : s.part.alive = true) (hg : s.part.libGrp = some g)
include h hg

/-! Precharge (R89). -/

theorem does_prechargeTimeout (hph : s.part.lib.phase = .charge) (hkm : s.part.lib.kmOn = false)
    (hdue : s.part.lib.since + s.part.libT 2 ≤ t) :
    Does (.prechargeTimeout t) s (fun p =>
      p = ((s.part.at t).libTrip g 0x12 t).onLib (fun x => { x with kpc := false })) := by
  refine .of_run (exec_prechargeTimeout t s) h ?_
  simp only [Part.libGrp_at, hg]
  exact if_pos (by simp [hph, hkm, hdue])

theorem waits_prechargeTimeout (hlate : t < s.part.lib.since + s.part.libT 2) :
    Does (.prechargeTimeout t) s (fun p => p = s.part.at t) := by
  refine .of_run (exec_prechargeTimeout t s) h ?_
  simp only [Part.libGrp_at, hg]
  exact if_neg (not_and_due hlate)

/-! CB1 (R91). -/

theorem does_syncWindowsHeld {a : Instant} (hm : s.part.epMode g = 4) (hph : s.part.lib.phase = .sync)
    (ha : s.part.lib.held = some a) (hdue : sec 1 ≤ (t - a) * s.part.gridHz g) (hsto : s.part.stoHold = false)
    (hcb : s.part.lib.cb1 = false) : Does (.syncWindowsHeld t) s (fun p => p = (s.part.at t).libClose t) := by
  refine .of_run (exec_syncWindowsHeld t s) h ?_
  simp only [Part.libIn_of_mem (p := s.part.at t) (ms := [4]) hg (by simp [hm])]
  exact if_pos (by simp [hph, ha, hdue, hsto, hcb])

theorem waits_syncWindowsHeld
    (hwait : (∃ a, s.part.lib.held = some a ∧ (t - a) * s.part.gridHz g < sec 1) ∨ s.part.stoHold = true) :
    Does (.syncWindowsHeld t) s (fun p => p = s.part.at t) := by
  refine .of_run (exec_syncWindowsHeld t s) h ?_
  obtain hin | hin := Part.libIn_cases (p := s.part.at t) (ms := [4]) hg
  · simp only [hin]
    refine if_neg (fun hc => ?_)
    simp only [Bool.and_eq_true, decide_eq_true_eq, Bool.not_eq_true'] at hc
    obtain ⟨⟨⟨-, hper⟩, hoff⟩, -⟩ := hc
    rcases hwait with ⟨a, ha, hlate⟩ | hsto
    · rw [Part.lib_at, ha] at hper
      exact absurd (of_decide_eq_true hper) (Nat.not_le.2 hlate)
    · exact absurd (hsto.symm.trans hoff) (by decide)
  · simp only [hin]

theorem does_cb1FeedbackTimeout (hdue : heldFor s.part.lib.cbAt (s.part.libT 5 + msec 20) t = true)
    (hfb : s.part.lib.fb.cb1 = false) :
    Does (.cb1FeedbackTimeout t) s (fun p =>
      p = ((s.part.at t).libTrip g 0x13 t).onLib (fun x => { x with cbAt := none })) := by
  refine .of_run (exec_cb1FeedbackTimeout t s) h ?_
  simp only [Part.libGrp_at, hg]
  exact if_pos (by simp [hdue, hfb])

theorem waits_cb1FeedbackTimeout (hfb : s.part.lib.fb.cb1 = true) :
    Does (.cb1FeedbackTimeout t) s (fun p => p = s.part.at t) := by
  refine .of_run (exec_cb1FeedbackTimeout t s) h ?_
  simp only [Part.libGrp_at, hg]
  exact if_neg (by simp [hfb])

/-! SYNC (R91). -/

theorem does_syncTimeout (hm : s.part.epMode g = 4) (hph : s.part.lib.phase = .sync) (hcb : s.part.lib.cb1 = false)
    (hdue : s.part.lib.since + s.part.libT 9 ≤ t) :
    Does (.syncTimeout t) s (fun p => p =
      (((s.part.at t).taken.libSend g 2 0).libReport 1 ((s.part.at t).freshBelow 256) 0).libPhase .idle t) := by
  refine .of_run (exec_syncTimeout t s) h ?_
  simp only [Part.libIn_of_mem (p := s.part.at t) (ms := [4]) hg (by simp [hm])]
  exact if_pos (by simp [hph, hdue, hcb])

theorem waits_syncTimeout (hlate : t < s.part.lib.since + s.part.libT 9) :
    Does (.syncTimeout t) s (fun p => p = s.part.at t) := by
  refine .of_run (exec_syncTimeout t s) h ?_
  obtain hin | hin := Part.libIn_cases (p := s.part.at t) (ms := [4]) hg
  · simp only [hin]
    exact if_neg (not_and_due hlate)
  · simp only [hin]

/-! The first mover (R92). -/

section
variable (hm : s.part.epMode g = 2) (hph : s.part.lib.phase = .slot)
  (hdue : s.part.lib.since + s.part.libWait g + s.part.libT 4 ≤ t)
include hm hph hdue

theorem does_firstMoverSlotExpiry_inRange (hin : heldFor s.part.lib.inRange (s.part.libT 4) t = true) :
    Does (.firstMoverSlotExpiry t) s (fun p => p = (s.part.at t).libSync g t) := by
  refine .of_run (exec_firstMoverSlotExpiry t s) h ?_
  simp only [Part.libIn_of_mem (p := s.part.at t) (ms := [2]) hg (by simp [hm])]
  exact (if_neg (Part.slotOver (p := s.part.at t) hph hdue)).trans (if_pos hin)

variable (hin : heldFor s.part.lib.inRange (s.part.libT 4) t = false)
include hin

theorem does_firstMoverSlotExpiry_dead {a : Instant} (ha : s.part.lib.dead = some a) (hage : a + s.part.libT 4 ≤ t) :
    Does (.firstMoverSlotExpiry t) s (fun p => p = ((s.part.at t).libPhase .closing t).libClose t) := by
  refine .of_run (exec_firstMoverSlotExpiry t s) h ?_
  simp only [Part.libIn_of_mem (p := s.part.at t) (ms := [2]) hg (by simp [hm])]
  have haged := max_add_le hage hdue
  exact (if_neg (Part.slotOver (p := s.part.at t) hph hdue)).trans
    ((if_neg (Bool.eq_false_iff.1 hin)).trans (if_pos (by simp [ha, haged])))

theorem does_firstMoverSlotExpiry_neither (hd : s.part.lib.dead = none) :
    Does (.firstMoverSlotExpiry t) s (fun p => p = (s.part.at t).onLib (fun x => { x with phase := .recheck })) := by
  refine .of_run (exec_firstMoverSlotExpiry t s) h ?_
  simp only [Part.libIn_of_mem (p := s.part.at t) (ms := [2]) hg (by simp [hm])]
  exact (if_neg (Part.slotOver (p := s.part.at t) hph hdue)).trans
    ((if_neg (Bool.eq_false_iff.1 hin)).trans (if_neg (by simp [hd])))

end

theorem waits_firstMoverSlotExpiry (hlate : t < s.part.lib.since + s.part.libWait g + s.part.libT 4) :
    Does (.firstMoverSlotExpiry t) s (fun p => p = s.part.at t) := by
  refine .of_run (exec_firstMoverSlotExpiry t s) h ?_
  obtain hin | hin := Part.libIn_cases (p := s.part.at t) (ms := [2]) hg
  · simp only [hin]
    exact if_pos (by simp [hlate])
  · simp only [hin]

/-! STOP and the DC link (R101, R102). -/

theorem does_stopTimeout (hph : s.part.lib.phase = .stopping) (hm : s.part.epMode g ≠ 6)
    (hdue : heldFor s.part.lib.rampEnd (sec 2) t = true) :
    Does (.stopTimeout t) s (fun p => p = ((s.part.at t).libSend g 2 0).libPhase .opening t) := by
  refine .of_run (exec_stopTimeout t s) h ?_
  simp only [Part.libGrp_at, hg]
  exact if_pos (by simp [hph, hm, hdue])

theorem waits_stopTimeout (hlate : heldFor s.part.lib.rampEnd (sec 2) t = false) :
    Does (.stopTimeout t) s (fun p => p = s.part.at t) := by
  refine .of_run (exec_stopTimeout t s) h ?_
  simp only [Part.libGrp_at, hg]
  exact if_neg (by simp [hlate])

theorem does_dcLinkOutOfBand (hm : s.part.epMode g ∈ [3, 4, 5, 6, 7])
    (hdue : heldFor s.part.lib.out (msec 10) t = true) :
    Does (.dcLinkOutOfBand t) s (fun p =>
      p = ((s.part.at t).libTrip g 0x14 t).onLib (fun x => { x with out := none })) := by
  refine .of_run (exec_dcLinkOutOfBand t s) h ?_
  simp only [Part.libIn_of_mem (p := s.part.at t) (ms := [3, 4, 5, 6, 7]) hg hm]
  exact if_pos hdue

theorem waits_dcLinkOutOfBand (hlate : heldFor s.part.lib.out (msec 10) t = false) :
    Does (.dcLinkOutOfBand t) s (fun p => p = s.part.at t) := by
  refine .of_run (exec_dcLinkOutOfBand t s) h ?_
  obtain hin | hin := Part.libIn_cases (p := s.part.at t) (ms := [3, 4, 5, 6, 7]) hg
  · simp only [hin]
    exact if_neg (Bool.eq_false_iff.1 hlate)
  · simp only [hin]

end

/-! What the rows leave. -/

/-- READY is written and the timeout reported in SEQ_STATE. -/
theorem Part.sync_gives_up (p : Part) (g : Grp) (t : Instant) (code : Nat) :
    let q := (((p.at t).taken.libSend g 2 0).libReport 1 code 0).libPhase .idle t
    p.Sent q g 2 0 bufferRegs ∧ q.lib = libEntered .idle t { p.lib with seq := (p.lib.seq + 1) % 256 } := by
  have hsent := Part.libSend_sent (p.at t).taken g (show 2 < 256 by decide) (show 0 < 256 by decide)
  obtain ⟨hlib, hregs, -⟩ := ((p.at t).taken.libSend g 2 0).libReport_frame 1 code 0
  have hsent := Part.Sent.before (p₀ := p) (p := (p.at t).taken) (fun _ _ => rfl) rfl List.not_mem_nil hsent
  rw [Part.libPhase_eq]
  refine ⟨(hsent.after hregs (seqcmd_notMem_bufferRegs g)).onLib _, ?_⟩
  rw [Part.lib_onLib, hlib, Part.libSend_lib]
  rfl

theorem seqcmd_notMem_targetRegs (g : Grp) : Reg.CLE_SEQCMD g.ix ∉ targetRegs g := by cases g <;> decide

/-- SYNC is written, and the targets of P and Q are held at 0 (R90). -/
theorem Part.sync_begins (p : Part) (g : Grp) (t : Instant) :
    let q := (p.at t).libSync g t
    p.Sent q g 4 0 (targetRegs g) ∧ q.lib.phase = .sync ∧ q.lib.since = t ∧ q.lib.dispatch.isSome = true ∧
      q.reg (Reg.RAMP_TGT (4 * g.ix)) = 0 ∧ q.reg (Reg.RAMP_TGT (4 * g.ix + 1)) = 0 := by
  have hzero : fpFinite 0 = true := by decide
  obtain ⟨hsent, hlib⟩ := p.sends_enters g t (show 4 < 256 by decide) (show 0 < 256 by decide) .sync
  obtain ⟨hps, hqs, hregs, d, hd⟩ := (((p.at t).libSend g 4 0).libPhase .sync t).libOverride_spec g hzero hzero
  rw [hlib] at hd
  exact ⟨hsent.after hregs (seqcmd_notMem_targetRegs g), congrArg SeqLib.phase hd, congrArg SeqLib.since hd,
    congrArg (fun x => x.dispatch.isSome) hd, hps, hqs⟩

/-- Settles O16 (log entry 22): for each row what it leaves when it is due, and that it only lets time pass when it is not. -/
theorem libraryTimers : Obligations.LibraryTimers := by
  unfold Obligations.LibraryTimers
  intro t g s h hg m lib r buf waits writes begun closes
  have writes_of {i : Instr} {x : Part} {y : SeqLib} {req cause : Nat} {l : List Nat} (hd : Does i s (fun p => p = x))
      (hx : s.part.Sent x g req cause l ∧ x.lib = y) :
      Does i s (fun p => writes p req cause ∧ RegsBut s.part p (r :: l) ∧ p.lib = y) := by
    refine hd.imp ?_
    rintro _ rfl
    obtain ⟨hs, hlib⟩ := hx
    exact ⟨⟨hs.req, hs.cause, hs.number, hs.cb1, hs.cb2⟩, hs.regs, hlib⟩
  refine ⟨fun hph hkm hdue => writes_of (does_prechargeTimeout h hg hph hkm hdue) (s.part.trips g t (by decide) _),
    fun hlate => waits_prechargeTimeout h hg hlate,
    fun a hm hph ha hdue hsto hcb => does_syncWindowsHeld h hg hm hph ha hdue hsto hcb,
    fun a ha hlate => waits_syncWindowsHeld h hg (.inl ⟨a, ha, hlate⟩), fun hsto => waits_syncWindowsHeld h hg (.inr hsto),
    fun a ha hdue hfb => writes_of (does_cb1FeedbackTimeout h hg (heldFor_of_le ha (Nat.add_assoc a _ _ ▸ hdue)) hfb)
      (s.part.trips g t (by decide) _),
    fun hfb => waits_cb1FeedbackTimeout h hg hfb,
    fun hm hph hcb hdue => writes_of (does_syncTimeout h hg hm hph hcb hdue) (s.part.sync_gives_up g t _),
    fun hlate => waits_syncTimeout h hg hlate, ⟨fun hm hph hdue hin => ?inRange, fun a hm hph hdue hin ha hage => ?dead,
      fun hm hph hdue hin hd => ?neither, fun hlate => waits_firstMoverSlotExpiry h hg hlate⟩,
    fun a hph hm ha hdue => writes_of (does_stopTimeout h hg hph hm (heldFor_of_le ha hdue))
      (s.part.sends_enters g t (by decide) (by decide) _),
    fun a ha hlate => waits_stopTimeout h hg (heldFor_of_lt ha hlate),
    fun a hm ha hdue => writes_of (does_dcLinkOutOfBand h hg hm (heldFor_of_le ha hdue)) (s.part.trips g t (by decide) _),
    fun a ha hlate => waits_dcLinkOutOfBand h hg (heldFor_of_lt ha hlate)⟩
  case inRange =>
    refine (does_firstMoverSlotExpiry_inRange h hg hm hph hdue (heldFor_iff.2 hin)).imp ?_
    rintro _ rfl
    obtain ⟨hs, hphase, hsince, hdispatch, hps, hqs⟩ := s.part.sync_begins g t
    exact ⟨⟨hs.req, hs.cause, hs.number, hs.cb1, hs.cb2⟩, hphase, hsince, hdispatch, hps, hqs⟩
  case dead =>
    exact does_firstMoverSlotExpiry_dead h hg hm hph hdue (Bool.eq_false_iff.2 (mt heldFor_iff.1 hin)) ha hage
  case neither =>
    exact does_firstMoverSlotExpiry_neither h hg hm hph hdue (Bool.eq_false_iff.2 (mt heldFor_iff.1 hin)) hd

end Sys2Proof.Machine
end

section
/-! PROOFS. What HOST_STATUS shows of the converter mode (R78). -/

namespace Sys2Proof.Machine

/-- A read of a low half answers with the register. -/
theorem does_pairLoRead {ini : Initiator} {off : BitVec 24} {s : State} (h : s.part.alive = true)
    (hlo : pairAt off.toNat = .lo) :
    Does (.pairLoRead ini off) s (fun p => p.bus.rok = true ∧ p.bus.rdata = s.part.peek off.toNat) := by
  have he : exec (.pairLoRead ini off) s = s.run (fun p => if pairAt off.toNat = .lo then
    (p.readLo ini off.toNat).1.answer (p.readLo ini off.toNat).2 true else p) := by rfl
  refine .of_run he h ?_
  rw [if_pos hlo]
  exact ⟨rfl, rfl⟩

/-- HOST_STATUS_LO is a low half all of whose bits are read. -/
theorem hostStatusLo_row : aliasOf Reg.HOST_STATUS_LO = none ∧ pairAt Reg.HOST_STATUS_LO = .lo ∧
    (rowAt Reg.HOST_STATUS_LO).map (·.readable) = some 0xFFFFFFFF := by decide

theorem Part.peek_hostStatusLo (p : Part) : p.peek Reg.HOST_STATUS_LO = BitVec.ofNat 32 p.hostStatus := by
  obtain ⟨halias, -, hread⟩ := hostStatusLo_row
  obtain ⟨r, hrow, hr⟩ := Option.map_eq_some_iff.1 hread
  have hlive : p.live Reg.HOST_STATUS_LO = BitVec.ofNat 32 p.hostStatus := rfl
  rw [Part.peek, halias, hrow]
  simp only [hr, hlive]
  exact BitVec.and_allOnes

/-- Distinct powers of two below 2^n add up to less than 2^n. -/
theorem sum_filter_two_pow_lt (n : Nat) (f : Nat → Bool) :
    (((List.range n).filter f).map (2 ^ ·)).sum < 2 ^ n := by
  induction n with
  | zero => simp
  | succ n ih =>
    rw [List.range_succ, List.filter_append, List.map_append, List.sum_append, Nat.pow_succ]
    have hlast : (([n].filter f).map (2 ^ ·)).sum ≤ 2 ^ n := by cases h : f n <;> simp [h]
    omega

/-- The field of HOST_STATUS above GRADE is MODE (Table 11.10). -/
theorem Part.bits_hostStatus_mode (p : Part) : bits (BitVec.ofNat 32 p.hostStatus) 24 8 = p.hostMode % 256 := by
  have hops := sum_filter_two_pow_lt 8 (fun k => p.opState k = 1 || p.opState k = 2)
  have hflags : p.fld Reg.HOST_STATUS_LO 4 4 < 16 := bits_lt _ _ _
  unfold Part.hostStatus
  extract_lets ops slowed rcd
  have h3 := Bool.toNat_le rcd
  have h2 := Bool.toNat_le (p.bit Reg.SAFE_STAT 31 || p.fld Reg.SAFE_STAT 24 2 ≠ 0)
  have h1 := Bool.toNat_le (p.bit Reg.CYC_STAT 27)
  have h0 := Bool.toNat_le slowed
  rw [bits, BitVec.toNat_ofNat, Nat.shiftRight_eq_div_pow]
  change ops.sum < 2 ^ 8 at hops
  omega

theorem Part.hostMode_eq (p : Part) : p.hostMode =
    if p.groupRuns .A = true ∧ p.gridRuns .A = true then p.fld (Reg.CLE_EP 0 15) 0 8
    else if p.groupRuns .B = true ∧ p.gridRuns .B = true then p.fld (Reg.CLE_EP 1 15) 0 8 else 0 := by
  simp only [Part.hostMode, Bool.and_eq_true]

/-- Settles O59: the field of HOST_STATUS is `Part.hostMode`. -/
theorem hostMode : Obligations.HostMode := by
  unfold Obligations.HostMode
  intro ini s h runs
  obtain ⟨-, hpair, -⟩ := hostStatusLo_row
  have hoff : (BitVec.ofNat 24 Reg.HOST_STATUS_LO).toNat = Reg.HOST_STATUS_LO := by decide
  obtain ⟨p, hexec, hrok, hdata⟩ := does_pairLoRead (ini := ini) h (hoff.symm ▸ hpair)
  refine ⟨p, hexec, hrok, ?_⟩
  rw [hdata, hoff, Part.peek_hostStatusLo, Part.bits_hostStatus_mode]
  refine ⟨fun ha => ?_, fun ha hb => ?_, fun ha hb => ?_⟩
  · rw [Part.hostMode_eq, if_pos ha]
    exact s.part.fld_mod_byte _ _
  · rw [Part.hostMode_eq, if_neg ha, if_pos hb]
    exact s.part.fld_mod_byte _ _
  · rw [Part.hostMode_eq, if_neg ha, if_neg hb]

end Sys2Proof.Machine
end

section
/-! PROOFS. The operations of Heloryx-V on a lane that runs a sample (R154 to R162). All issue in one way, so of each only
its result is to be told. -/

namespace Sys2Proof.Machine

/-! Issue. -/

section
variable {i : Instr} {o : VOp} {s : State} {isX : Bool} {f : VCtx → Lane → VResult}

/-- An operation gives what it computes from its group and from the lane as it finds it. -/
theorem Lands.of_issue {lat : Nat} {effs : List LandEffect} (he : exec i s = s.run (·.issue o isX f)) (h : vActs s o)
    (hf : f (s.part.vctx (s.part.laneGrp o.lane)) (vLane s o) = { lat := lat, effs := effs }) :
    Lands i o s isX lat effs := by
  obtain ⟨halive, hruns, hguard⟩ := h
  refine .of_run he halive ?_
  unfold vLane at hguard hf
  simp only [Part.issue, hruns, hguard, if_true, hf, vLane]

/-- A voted write sends the register that the operation, or with another MOD field one like it, names. -/
theorem Lands.of_vote {m : BitVec 5} {a : Nat} (he : exec i s = s.run (·.issueVote { o with mod := m } a)) (h : vActs s o) :
    Lands i o s false 1 [.vote { addr := a, val := some (vSource { o with mod := m } (vLane s o)) }] := by
  obtain ⟨halive, hruns, hguard⟩ := h
  refine .of_run he halive ?_
  unfold vLane at hguard ⊢
  simp only [Part.issueVote, hruns, hguard, if_true]

end

/-! Results. -/

theorem combine_eq (k : Nat) (old c : Bool) :
    combine k old c = if k = 1 then old && c else if k = 2 then old || c else c := by
  unfold combine
  split <;> simp_all

theorem notNan_of_fpLt {a b : Word} (h : fpLt a b = true) : fpIsNan a = false ∧ fpIsNan b = false := by
  simp only [fpLt, Bool.and_eq_true, Bool.not_eq_true'] at h
  exact h.1

theorem putBit_eq (x : Word) {i : Nat} (b : Bool) (hi : i < 32) :
    putBit x i b = if b then x ||| (1#32 <<< i) else x &&& ~~~(1#32 <<< i) := by
  refine word_ext _ _ fun k hk => ?_
  have hone : bitAt (1#32 <<< i) k = decide (k = i) := by
    simp only [bitAt, BitVec.getLsbD_shiftLeft, BitVec.getLsbD_one, hk]
    grind
  rw [putBit, bitAt, setBits_getLsbD _ _ _ _ _ (by omega)]
  by_cases hki : k = i
  · subst hki
    cases b <;> simp [bitAt_not _ _ hk, hone]
  · rw [if_neg (by omega)]
    cases b <;> simp [bitAt_not _ _ hk, hone, hki] <;> rfl

section
variable {o : VOp} {s : State} (h : vActs s o)
include h

/-- A comparison ends in its predicate, as MOD[4:3] joins it with what stood there. -/
theorem Lands.of_compare {i : Instr} {rel : Nat → Word → Word → Bool} {x : Bool}
    (he : exec i s = s.run (·.issue o false (fun _ => vCompare rel o)))
    (hx : rel (o.mod.toNat % 8) ((vLane s o).vreg o.s1.toNat) ((vLane s o).vreg o.s2.toNat) = x) :
    Lands i o s false 3 [.p (o.d.toNat % 8)
      (if o.mod.toNat / 8 = 1 then (vLane s o).preg o.d.toNat && x
        else if o.mod.toNat / 8 = 2 then (vLane s o).preg o.d.toNat || x else x)] :=
  .of_issue he h (by rw [← hx, ← combine_eq]; rfl)

end

/-! SAT (R158). -/

/-- The upper bound of SAT. -/
def satHi (o : VOp) (l : Lane) : Word :=
  if o.mod.toNat / 16 = 1 then l.vreg (o.s2.toNat + 1) else fpAbs (l.vreg o.s2.toNat)

/-- The lower bound of SAT. -/
def satLo (o : VOp) (l : Lane) : Word :=
  if o.mod.toNat / 16 = 1 then l.vreg o.s2.toNat else fpNeg (fpAbs (l.vreg o.s2.toNat))

theorem vSaturate_eq (o : VOp) (l : Lane) :
    let x := l.vreg o.s1.toNat
    vSaturate o l =
      if fpIsNan x || fpIsNan (satLo o l) || fpIsNan (satHi o l) then vOne 3 o fpNan
      else if fpLt (satHi o l) x then
        { lat := 3, effs := [.v o.d.toNat (fpFlush (satHi o l)), .flag (o.mod.toNat % 16)] }
      else if fpLt x (satLo o l) then
        { lat := 3, effs := [.v o.d.toNat (fpFlush (satLo o l)), .flag (o.mod.toNat % 16)] }
      else vOne 3 o (fpFlush x) := by
  unfold vSaturate satHi satLo
  by_cases hm : o.mod.toNat / 16 = 1 <;> simp [hm]

section
variable {o : VOp} {l : Lane}

theorem vSaturate_nan
    (h : fpIsNan (l.vreg o.s1.toNat) = true ∨ fpIsNan (satLo o l) = true ∨ fpIsNan (satHi o l) = true) :
    vSaturate o l = vOne 3 o fpNan := by
  rw [vSaturate_eq, if_pos]
  simpa [or_assoc] using h

section
variable (hlo : fpIsNan (satLo o l) = false) (hhi : fpIsNan (satHi o l) = false)
include hlo hhi

theorem vSaturate_above (h : fpLt (satHi o l) (l.vreg o.s1.toNat) = true) :
    vSaturate o l = { lat := 3, effs := [.v o.d.toNat (fpFlush (satHi o l)), .flag (o.mod.toNat % 16)] } := by
  rw [vSaturate_eq, if_neg (by simp [hlo, hhi, (notNan_of_fpLt h).2]), if_pos h]

theorem vSaturate_below (h : fpLt (satHi o l) (l.vreg o.s1.toNat) = false)
    (h' : fpLt (l.vreg o.s1.toNat) (satLo o l) = true) :
    vSaturate o l = { lat := 3, effs := [.v o.d.toNat (fpFlush (satLo o l)), .flag (o.mod.toNat % 16)] } := by
  rw [vSaturate_eq, if_neg (by simp [hlo, hhi, (notNan_of_fpLt h').1]), if_neg (by simp [h]), if_pos h']

theorem vSaturate_within (hx : fpIsNan (l.vreg o.s1.toNat) = false)
    (h : fpLt (satHi o l) (l.vreg o.s1.toNat) = false) (h' : fpLt (l.vreg o.s1.toNat) (satLo o l) = false) :
    vSaturate o l = vOne 3 o (fpFlush (l.vreg o.s1.toNat)) := by
  rw [vSaturate_eq, if_neg (by simp [hlo, hhi, hx]), if_neg (by simp [h]), if_neg (by simp [h'])]

end

end

/-! The other operations whose result depends on MOD or on an operand field. -/

theorem vSelect_v {o : VOp} {l : Lane} (h : o.mod.toNat / 16 = 0) :
    vSelect o l = vOne 3 o (if l.preg (o.mod.toNat % 8) then l.vreg o.s1.toNat else l.vreg o.s2.toNat) := by
  simp [vSelect, h]

theorem vSelect_a {o : VOp} {l : Lane} (h : o.mod.toNat / 16 = 1) :
    vSelect o l = { lat := 3, effs := [.a (o.d.toNat % 8)
      (if l.preg (o.mod.toNat % 8) then l.areg o.s1.toNat else l.areg o.s2.toNat)] } := by
  simp [vSelect, h]

theorem vIntegrate_held {o : VOp} {l : Lane} (h : l.fprev.testBit (o.mod.toNat % 16) = true) :
    vIntegrate o l = { lat := 3, effs := [] } := by
  simp [vIntegrate, h]

theorem vIntegrate_free {o : VOp} {l : Lane} (h : l.fprev.testBit (o.mod.toNat % 16) = false) :
    vIntegrate o l = vTern fpFma o l := by
  simp [vIntegrate, h]

theorem vAccumulate_held {o : VOp} {l : Lane} (hm : o.mod.toNat / 16 = 1)
    (h : l.fprev.testBit (o.mod.toNat % 16) = true) : vAccumulate o l = { lat := 3, effs := [] } := by
  simp [vAccumulate, hm, h]

theorem vAccumulate_free {o : VOp} {l : Lane}
    (h : o.mod.toNat / 16 = 0 ∨ l.fprev.testBit (o.mod.toNat % 16) = false) :
    let r := accumulate (l.vreg o.d.toNat) (l.vreg (o.d.toNat + 1)) (fpMul (l.vreg o.s1.toNat) (l.vreg o.s2.toNat))
    vAccumulate o l = { lat := 3, effs := [.v o.d.toNat r.1, .v (o.d.toNat + 1) r.2] } := by
  rcases h with h | h <;> simp [vAccumulate, h]

/-- What PLOG makes of two predicates, before the inversion. -/
def plog (k : Nat) (x y : Bool) : Bool :=
  match k with
  | 0 => x && y
  | 1 => x || y
  | 2 => xor x y
  | _ => x && !y

theorem vPredLogic_eq {o : VOp} {l : Lane} {k : Nat} (h : o.mod.toNat % 4 = k) :
    vPredLogic o l = { lat := 3, effs := [.p (o.d.toNat % 8)
      (xor (plog k (l.preg o.s1.toNat) (l.preg o.s2.toNat)) (decide (o.mod.toNat / 4 % 2 = 1)))] } := by
  subst h
  rfl

/-- What FTST reads: a present flag, a previous-sample flag or FIRST. -/
def ftst (x : VCtx) (l : Lane) (flag : Nat) : Nat → Bool
  | 0 => l.f.testBit flag
  | 1 => l.fprev.testBit flag
  | _ => x.first

theorem vFlagTest_eq {x : VCtx} {o : VOp} {l : Lane} {k : BitVec 6} (h : o.s1 = k) :
    vFlagTest x o l = { lat := 3, effs := [.p (o.d.toNat % 8) (ftst x l (o.mod.toNat % 16) k.toNat)] } := by
  subst h
  rfl

/-- Settles O24 (SAT with crossed bounds: log entry 62): every operation issues alike, and a lemma tells its result where it
depends on more than its operands. -/
theorem vArithmetic : Obligations.VArithmetic := by
  unfold Obligations.VArithmetic
  intro o s h l d a b c pd m gives sets joined
  have fcmp {k : Nat} {x : Bool} (hm : m % 8 = k) (hx : fpRel k a b = x) : sets (.vFcmp o) (joined x) :=
    .of_compare h rfl (hm ▸ hx)
  have icmp {k : Nat} {x : Bool} (hm : m % 8 = k) (hx : uRel k a b = x) : sets (.vIcmp o) (joined x) :=
    .of_compare h rfl (hm ▸ hx)
  refine ⟨.of_issue rfl h rfl, .of_issue rfl h rfl, .of_issue rfl h rfl, .of_issue rfl h rfl, .of_issue rfl h rfl,
    .of_issue rfl h rfl, .of_issue rfl h rfl, .of_issue rfl h rfl, .of_issue rfl h rfl, .of_issue rfl h rfl,
    .of_issue rfl h rfl, fun hm => ⟨fcmp hm rfl, icmp hm rfl⟩, fun hm => ⟨fcmp hm rfl, icmp hm rfl⟩,
    fun hm => ⟨fcmp hm rfl, icmp hm rfl⟩, fun hm => ⟨fcmp hm rfl, icmp hm rfl⟩, fun hm => ⟨fcmp hm rfl, icmp hm rfl⟩,
    fun hm => ⟨fcmp hm rfl, icmp hm rfl⟩, fun hm => fcmp hm rfl,
    fun hm => .of_issue rfl h (vSelect_v hm), fun hm => .of_issue rfl h (vSelect_a hm),
    ⟨fun hn => .of_issue rfl h (vSaturate_nan hn), fun hlo hhi hx => .of_issue rfl h (vSaturate_above hlo hhi hx),
      fun hlo hhi hx hx' => .of_issue rfl h (vSaturate_below hlo hhi hx hx'),
      fun hx hlo hhi hx' hx'' => .of_issue rfl h (vSaturate_within hlo hhi hx hx' hx'')⟩,
    fun hp => .of_issue rfl h (vIntegrate_held hp), fun hp => .of_issue rfl h (vIntegrate_free hp),
    fun hm => .of_issue rfl h (vAccumulate_free hm), fun hm hp => .of_issue rfl h (vAccumulate_held hm hp),
    fun h1 => .of_issue rfl h (vFlagTest_eq h1), fun h1 => .of_issue rfl h (vFlagTest_eq h1),
    fun h1 => .of_issue rfl h (vFlagTest_eq h1),
    ⟨fun hm => .of_issue rfl h (vPredLogic_eq hm), fun hm => .of_issue rfl h (vPredLogic_eq hm),
      fun hm => .of_issue rfl h (vPredLogic_eq hm), fun hm => .of_issue rfl h (vPredLogic_eq hm)⟩,
    .of_issue rfl h rfl, .of_issue rfl h rfl, .of_issue rfl h rfl, .of_issue rfl h rfl, .of_issue rfl h rfl,
    .of_issue rfl h ?pins, .of_issue rfl h rfl, .of_issue rfl h rfl⟩
  case pins => exact congrArg (vOne 3 o) (putBit_eq _ _ o.mod.isLt)

end Sys2Proof.Machine
end

section
/-! PROOFS. What the load, store, port and X-slot operations of Heloryx-V give (R126, R128, R154 to R158, R160). -/

namespace Sys2Proof.Machine

variable {o : VOp} {l : Lane} {x : VCtx}

theorem vLoad_v {w : Word} (h : o.mod.toNat / 16 = 0) : vLoad o w = { lat := 2, effs := [.v o.d.toNat w] } := by
  simp [vLoad, vOne, h]

theorem vLoad_a {w : Word} (h : o.mod.toNat / 16 = 1) : vLoad o w = { lat := 2, effs := [.a (o.d.toNat % 8) w] } := by
  simp [vLoad, h]

/-- Without a fade a coefficient load reads the region's bank. -/
theorem VCtx.coef_unfaded (h : x.fadeK = 0 ∨ x.fadeN ≤ x.fadeK) (w : Nat) : x.coef l w = l.cword x.bank w := by
  rcases h with h | h <;> simp [VCtx.coef, h]

theorem vLoadCoef_named (h : o.mod.toNat / 16 = 1) :
    vLoadCoef x o l = vOne 2 o (l.cword (vAddr o / 1024 % 16) (vAddr o % 1024)) := by
  simp [vLoadCoef, h]

theorem vLoadCoef_unfaded (hm : o.mod.toNat / 16 = 0) (h : x.fadeK = 0 ∨ x.fadeN ≤ x.fadeK) :
    vLoadCoef x o l = vOne 2 o (l.cword x.bank (vAddr o % 1024)) := by
  simp [vLoadCoef, hm, VCtx.coef_unfaded h]

theorem vSwing_held (h : o.mod.toNat % 2 = 1) :
    let b := o.s1.toNat
    vSwing o l = { lat := 4, effs := [.v (b + 2) (fpSwing (l.vreg (b + 0)) (l.vreg (b + 1)) (l.vreg (b + 2))
      (l.vreg (b + 3)) (l.vreg (b + 4)) (l.vreg (b + 5)) (l.vreg (b + 6)))] } := by
  simp [vSwing, h]

theorem vSwing_turns (h : o.mod.toNat % 2 = 0) :
    let b := o.s1.toNat
    let w := fpSwing (l.vreg (b + 0)) (l.vreg (b + 1)) (l.vreg (b + 2)) (l.vreg (b + 3)) (l.vreg (b + 4)) (l.vreg (b + 5))
      (l.vreg (b + 6))
    vSwing o l = { lat := 4, effs := [.v (b + 2) w,
      .a (o.d.toNat % 8) (angleAdd (l.areg o.d.toNat) (fpMul (l.vreg (b + 7)) w))] } := by
  simp [vSwing, h]

theorem vLimit_eq (o : VOp) (l : Lane) :
    let r := fpLimit (l.vreg o.s1.toNat) (l.vreg (o.s1.toNat + 1)) (l.vreg o.s2.toNat)
    vLimit o l = { lat := 6, effs := if r.2.2 then [.v o.d.toNat r.1, .v (o.d.toNat + 1) r.2.1, .flag (o.mod.toNat % 16)]
      else [.v o.d.toNat r.1, .v (o.d.toNat + 1) r.2.1] } := rfl

theorem vBiquad_unfaded (h : x.fadeK = 0 ∨ x.fadeN ≤ x.fadeK) :
    let k := o.s2.toNat
    let c := fun i => l.cword x.bank (5 * k + i)
    let r := fpBiquad (c 0) (c 1) (c 2) (c 3) (c 4) (l.dword (0xFF80 + 2 * k)) (l.dword (0xFF80 + 2 * k + 1))
      (l.vreg o.s1.toNat)
    vBiquad x o l =
      { lat := 4, effs := [.v o.d.toNat r.1, .store (0xFF80 + 2 * k) r.2.1, .store (0xFF80 + 2 * k + 1) r.2.2] } := by
  simp only [vBiquad, VCtx.coef_unfaded h]

/-- Where no scan injects, the sites of INJ are those that CLE_INJCFG enables. -/
theorem Part.vctx_sites {p : Part} {g : Grp} (h : (p.cg g).probe.site = none) :
    (p.vctx g).sites = p.fld (Reg.CLE_INJCFG g.ix) 24 8 := by
  simp [Part.vctx, h]

theorem vInject_on (h : x.sites.testBit (o.s2.toNat % 8) = true) :
    vInject x o l = vOne 3 o (fpAdd (l.vreg o.s1.toNat) x.g) := by
  simp [vInject, h]

theorem vInject_off (h : x.sites.testBit (o.s2.toNat % 8) = false) : vInject x o l = vOne 3 o (l.vreg o.s1.toNat) := by
  simp [vInject, h]

/-- PWMW names a v register: its MOD[4] does not count (R160). -/
theorem vSource_masked (o : VOp) (l : Lane) : vSource { o with mod := o.mod &&& 0xF } l = l.vreg o.d.toNat := by
  have h : (o.mod &&& 0xF).toNat / 16 ≠ 1 := by
    have hle : (o.mod &&& 0xF).toNat ≤ 15 := by
      rw [BitVec.toNat_and]
      exact Nat.and_le_right
    omega
  exact if_neg h

/-- Settles O25: each operation issues alike, and gives its result; a fade and a scan's injection are excluded where they
would matter. -/
theorem vMemoryAndTransforms : Obligations.VMemoryAndTransforms := by
  unfold Obligations.VMemoryAndTransforms
  intro o s h l g c d n a b m addr src loads z
  refine ⟨⟨fun hm => .of_issue rfl h (vLoad_v hm), fun hm => .of_issue rfl h (vLoad_a hm)⟩,
    ⟨fun hm => .of_issue rfl h (vLoad_v hm), fun hm => .of_issue rfl h (vLoad_a hm)⟩,
    .of_issue rfl h rfl, fun hm => .of_issue rfl h (vLoadCoef_named hm),
    fun hm hk => .of_issue rfl h (vLoadCoef_unfaded hm hk), .of_issue rfl h rfl,
    .of_vote (m := o.mod) rfl h, ?pwmw, .of_issue rfl h rfl, .of_issue rfl h rfl, .of_issue rfl h rfl,
    .of_issue rfl h rfl, .of_issue rfl h rfl, .of_issue rfl h rfl, .of_issue rfl h rfl, .of_issue rfl h rfl,
    ⟨fun hm => .of_issue rfl h (vSwing_held hm), fun hm => .of_issue rfl h (vSwing_turns hm)⟩,
    ⟨fun hclip => .of_issue rfl h ((vLimit_eq o l).trans (by rw [if_pos hclip])),
      fun hclip => .of_issue rfl h ((vLimit_eq o l).trans (by rw [if_neg (Bool.eq_false_iff.1 hclip)]))⟩,
    fun hk => .of_issue rfl h (vBiquad_unfaded hk),
    fun hs hon => .of_issue rfl h (vInject_on ((Part.vctx_sites hs).symm ▸ hon)),
    fun hs hoff => .of_issue rfl h (vInject_off ((Part.vctx_sites hs).symm ▸ hoff)),
    .of_issue rfl h rfl, .of_issue rfl h rfl⟩
  case pwmw =>
    have hv := Lands.of_vote (i := .vPwmw o) (m := o.mod &&& 0xF) (a := 0x10100 + vAddr o % 64) rfl h
    rwa [vSource_masked] at hv

end Sys2Proof.Machine
end

section
/-! PROOFS. Registers, groups and lanes of the control-law engine: what an update of one leaves of the others, and what
CLE_GSTAT and CLE_LSTAT show. -/

namespace Sys2Proof.Machine

variable {p q : Part}

/-! An update of a register, of a group and of a lane beside the other two. -/

@[simp] theorem Part.cg_setReg (off : Nat) (v : Word) (g : Grp) : (p.setReg off v).cg g = p.cg g := rfl
@[simp] theorem Part.cg_setFld (off lo w n : Nat) (g : Grp) : (p.setFld off lo w n).cg g = p.cg g := rfl
@[simp] theorem Part.cg_setBit (off i : Nat) (b : Bool) (g : Grp) : (p.setBit off i b).cg g = p.cg g := rfl
@[simp] theorem Part.cg_setLane (n : Nat) (l : Lane) (g : Grp) : (p.setLane n l).cg g = p.cg g := rfl
@[simp] theorem Part.cg_at (t : Instant) (g : Grp) : (p.at t).cg g = p.cg g := rfl
@[simp] theorem Part.reg_setCg (g : Grp) (c : CleGroup) (off : Nat) : (p.setCg g c).reg off = p.reg off := rfl
@[simp] theorem Part.fld_setCg (g : Grp) (c : CleGroup) (off lo w : Nat) : (p.setCg g c).fld off lo w = p.fld off lo w := rfl
@[simp] theorem Part.bit_setCg (g : Grp) (c : CleGroup) (off i : Nat) : (p.setCg g c).bit off i = p.bit off i := rfl
@[simp] theorem Part.reg_setLane (n : Nat) (l : Lane) (off : Nat) : (p.setLane n l).reg off = p.reg off := rfl
@[simp] theorem Part.lane_setReg (off : Nat) (v : Word) (n : Nat) : (p.setReg off v).lane n = p.lane n := rfl
@[simp] theorem Part.lane_setFld (off lo w m : Nat) (n : Nat) : (p.setFld off lo w m).lane n = p.lane n := rfl
@[simp] theorem Part.lane_setBit (off i : Nat) (b : Bool) (n : Nat) : (p.setBit off i b).lane n = p.lane n := rfl
@[simp] theorem Part.lane_at (t : Instant) (n : Nat) : (p.at t).lane n = p.lane n := rfl

@[simp] theorem Part.cg_onCg (p : Part) (g : Grp) (f : CleGroup → CleGroup) (e : Grp) :
    (p.onCg g f).cg e = if e = g then f (p.cg g) else p.cg e := p.cg_setCg g _ e

@[simp] theorem Part.reg_onCg (g : Grp) (f : CleGroup → CleGroup) (off : Nat) : (p.onCg g f).reg off = p.reg off := rfl

@[simp] theorem Part.fld_onCg (g : Grp) (f : CleGroup → CleGroup) (off lo w : Nat) :
    (p.onCg g f).fld off lo w = p.fld off lo w := rfl

@[simp] theorem Part.bit_onCg (g : Grp) (f : CleGroup → CleGroup) (off i : Nat) : (p.onCg g f).bit off i = p.bit off i := rfl

@[simp] theorem Part.lane_onCg (g : Grp) (f : CleGroup → CleGroup) (n : Nat) : (p.onCg g f).lane n = p.lane n := rfl

@[simp] theorem Part.reg_onLane (m : Nat) (f : Lane → Lane) (off : Nat) : (p.onLane m f).reg off = p.reg off := rfl

@[simp] theorem Part.laneState_onCg (g : Grp) (f : CleGroup → CleGroup) (n : Nat) :
    (p.onCg g f).laneState n = p.laneState n := rfl

@[simp] theorem Part.laneGrp_onCg (g : Grp) (f : CleGroup → CleGroup) (n : Nat) :
    (p.onCg g f).laneGrp n = p.laneGrp n := rfl

theorem vset_vset {α : Type} {n : Nat} (v : Vector α n) (i : Nat) (x y : α) : vset (vset v i x) i y = vset v i y :=
  Vector.toList_inj.1 (by simp [vset])

/-- Two changes of a group one after the other. -/
theorem Part.onCg_onCg (p : Part) (g : Grp) (f f' : CleGroup → CleGroup) :
    (p.onCg g f).onCg g f' = p.onCg g (fun c => f' (f c)) := by
  have hcg : (p.onCg g f).cg g = f (p.cg g) := by simp
  rw [Part.onCg, hcg, Part.onCg, Part.setCg, Part.onCg, Part.setCg, Part.setCg, vset_vset]

theorem RegsBut.refl (p : Part) (l : List Nat) : RegsBut p p l := fun _ _ => rfl

theorem RegsBut.setCg {g : Grp} {c : CleGroup} {l : List Nat} (h : RegsBut p q l) : RegsBut p (q.setCg g c) l := h

theorem RegsBut.onLane {n : Nat} {f : Lane → Lane} {l : List Nat} : RegsBut p (p.onLane n f) l := fun _ _ => rfl

theorem RegsBut.onCg {g : Grp} {f : CleGroup → CleGroup} {l : List Nat} : RegsBut p (p.onCg g f) l := fun _ _ => rfl

/-- Where nothing but time and registers changed, the groups and the lanes are as they were. -/
theorem RegsOnly.cg_lane {l : List Nat} (h : RegsOnly p q l) : (∀ g, q.cg g = p.cg g) ∧ ∀ n, q.lane n = p.lane n := by
  obtain ⟨hq, -⟩ := h
  exact ⟨fun g => by rw [Part.cg, hq, Part.cg], fun n => by rw [Part.lane, hq, Part.lane]⟩

/-! CLE_GSTAT. -/

/-- Whether a group runs is a matter of its mode. -/
theorem Part.groupRuns_of_gmode {g : Grp} (h : q.gmode g = p.gmode g) : q.groupRuns g = p.groupRuns g := by
  unfold Part.gmode at h
  rw [Part.groupRuns, Part.groupRuns, h]

theorem Part.gmode_of_reg {g : Grp} (h : q.reg (Reg.CLE_GSTAT g.ix) = p.reg (Reg.CLE_GSTAT g.ix)) : q.gmode g = p.gmode g := by
  rw [Part.gmode, Part.gmode, Part.fld, Part.fld, h]

theorem Part.showGroup_regsOnly (p : Part) (g : Grp) : RegsOnly p (p.showGroup g) [Reg.CLE_GSTAT g.ix] :=
  (((RegsOnly.setFld.trans .setFld).trans .setFld).trans .setFld).trans .setFld

/-- FADE shows a fade that takes more than one sample. -/
theorem Part.showGroup_fade (p : Part) (g : Grp) :
    (p.showGroup g).bit (Reg.CLE_GSTAT g.ix) 5 = ((p.cg g).fadeK ≠ 0 && 1 < (p.cg g).fadeN) := by
  rw [Part.showGroup, Part.bit_setBit _ _ (by decide), if_neg (by decide), Part.bit_setBit_same _ _ _ _ (by decide)]

theorem Part.gmode_setFld_apart (p : Part) (g e : Grp) {lo w n : Nat} (h : lo + w ≤ 24) :
    (p.setFld (Reg.CLE_GSTAT g.ix) lo w n).gmode e = p.gmode e := by
  by_cases he : e = g
  · rw [he, Part.gmode, p.fld_setFld_apart _ _ _ _ _ _ (by omega) (by omega), Part.gmode]
  · exact Part.gmode_of_reg (by rw [Part.reg_setFld, if_neg (fun heq => he (gstat_inj heq))])

@[simp] theorem Part.gmode_showGroup (p : Part) (g e : Grp) : (p.showGroup g).gmode e = p.gmode e := by
  unfold Part.showGroup Part.setBit
  simp only [Part.gmode_setFld_apart _ _ _ (show 16 + 8 ≤ 24 by decide),
    Part.gmode_setFld_apart _ _ _ (show 8 + 8 ≤ 24 by decide), Part.gmode_setFld_apart _ _ _ (show 6 + 1 ≤ 24 by decide),
    Part.gmode_setFld_apart _ _ _ (show 5 + 1 ≤ 24 by decide), Part.gmode_setFld_apart _ _ _ (show 4 + 1 ≤ 24 by decide)]

theorem Part.gmode_setGmode (p : Part) (g : Grp) {m : Nat} (h : m < 16) : (p.setGmode g m).gmode g = m := by
  rw [Part.setGmode, Part.gmode, p.fld_setFld_same _ _ _ _ (by decide), Nat.mod_eq_of_lt (b := 2 ^ 4) h]

end Sys2Proof.Machine
end

section
/-! PROOFS. RUN of CLE_GCTL and the end of a fade (R126, R137). -/

namespace Sys2Proof.Machine

section
variable {p : Part} {g : Grp}

theorem Part.groupRuns_setGctl (p : Part) (g : Grp) (b : Bool) :
    (p.setBit (Reg.CLE_GCTL g.ix) 0 b).groupRuns g = p.groupRuns g := by
  refine Part.groupRuns_of_gmode (Part.gmode_of_reg ?_)
  rw [Part.reg_setBit, if_neg (by cases g <;> decide)]

theorem Part.runStart_running (h : p.groupRuns g = true) :
    p.runStart g = (p.setBit (Reg.CLE_GCTL g.ix) 0 true).onCg g (fun c => { c with runReq := none }) := by
  simp [Part.runStart, Part.groupRuns_setGctl, h]

theorem Part.runStart_asks (h : p.groupRuns g = false) (hfig : (p.cg g).loaded = true ∨ (p.cg g).exch.isSome = true) :
    p.runStart g = (p.setBit (Reg.CLE_GCTL g.ix) 0 true).onCg g (fun c => { c with runReq := some true }) := by
  rw [Part.runStart, Part.groupRuns_setGctl, if_neg (by simp [h]), if_pos (by simpa using hfig)]

theorem Part.runStart_refused (h : p.groupRuns g = false) (hload : (p.cg g).loaded = false) (hx : (p.cg g).exch = none) :
    p.runStart g = (p.setBit (Reg.CLE_GCTL g.ix) 0 true).setFld (Reg.CLE_XSTAT g.ix) 8 8 9 := by
  simp [Part.runStart, Part.groupRuns_setGctl, h, hload, hx]

theorem Part.showFade_regsBut (p : Part) (g : Grp) :
    RegsBut p (p.showFade g) [Reg.CLE_REGION g.ix, Reg.CLE_GSTAT g.ix] :=
  (RegsBut.setFld (by simp)).trans (.mono (Part.showGroup_regsOnly _ g).2 (by simp))

/-- No samples are left where no fade runs, and FADE is clear. -/
theorem Part.showFade_over (h : (p.cg g).fadeK = 0) :
    (p.showFade g).fld (Reg.CLE_REGION g.ix) 16 9 = 0 ∧ (p.showFade g).bit (Reg.CLE_GSTAT g.ix) 5 = false := by
  refine ⟨?_, ?_⟩
  · rw [Part.showFade, Part.fld, (Part.showGroup_regsOnly _ g).2 _ (by cases g <;> decide), ← Part.fld,
      Part.fld_setFld_same _ _ _ _ _ (by decide), if_pos h, Nat.zero_mod]
  · rw [Part.showFade, Part.showGroup_fade, Part.cg_setFld, h]
    rfl

theorem Part.cg_showFade (p : Part) (g e : Grp) : (p.showFade g).cg e = p.cg e := by
  rw [Part.showFade, (Part.showGroup_regsOnly _ g).cg_lane.1, Part.cg_setFld]

/-- What FADE_END does: the fade of n samples ends at the end of sample n. -/
def Part.endFade (p : Part) (g : Grp) : Part :=
  if (p.cg g).fadeK = 0 || (p.cg g).fadeK < (p.cg g).fadeN || (p.cg g).open_ then p
  else (p.onCg g (fun c => { c with fadeK := 0, fadeJustEnded := 1 < (p.cg g).fadeN })).showFade g

theorem exec_fadeEnd (g : Grp) (s : State) : exec (.fadeEnd g) s = s.run (·.endFade g) := by rfl

theorem Part.endFade_due (hk : (p.cg g).fadeK ≠ 0) (hn : (p.cg g).fadeN ≤ (p.cg g).fadeK) (ho : (p.cg g).open_ = false) :
    p.endFade g = (p.onCg g (fun c => { c with fadeK := 0, fadeJustEnded := 1 < (p.cg g).fadeN })).showFade g := by
  simp [Part.endFade, hk, hn, ho]

theorem Part.endFade_early (h : (p.cg g).fadeK = 0 ∨ (p.cg g).fadeK < (p.cg g).fadeN ∨ (p.cg g).open_ = true) :
    p.endFade g = p := by
  rw [Part.endFade, if_pos]
  simpa [or_assoc] using h

end

/-- Settles O21 (log entry 19): a lemma for each way that a start ends, and what the end of a fade shows. -/
theorem runAndFade : Obligations.RunAndFade := by
  unfold Obligations.RunAndFade
  intro g s h c run
  refine ⟨fun hr => .of_run (f := (·.runStart g)) rfl h (Part.runStart_running hr),
    fun hr hfig => .of_run (f := (·.runStart g)) rfl h (Part.runStart_asks hr hfig),
    fun hr hload hx => .of_run (f := (·.runStart g)) rfl h ?refused, .of_run (f := (·.runStop g)) rfl h ?stop,
    fun hk hn hopen => .of_run (exec_fadeEnd g s) h ?ended,
    fun hk => .of_run (exec_fadeEnd g s) (Part.endFade_early hk)⟩
  case refused =>
    rw [Part.runStart_refused hr hload hx]
    have hapart : Reg.CLE_GCTL g.ix ≠ Reg.CLE_XSTAT g.ix := by cases g <;> decide
    refine ⟨?_, ?_, ?_, ?_⟩
    · rw [Part.bit, Part.reg_setFld, if_neg hapart, ← Part.bit, Part.bit_setBit_same _ _ _ _ (by decide)]
    · exact Part.fld_setFld_same _ _ _ _ _ (by decide)
    · refine (Part.groupRuns_of_gmode (Part.gmode_of_reg ?_)).trans ((Part.groupRuns_setGctl _ g true).trans hr)
      rw [Part.reg_setFld, if_neg (by cases g <;> decide)]
    · exact (RegsOnly.mono .setFld (by simp)).trans (.mono .setFld (by simp))
  case stop =>
    have hcg : ((s.part.runStop g).cg g).runReq = if s.part.gmode g = 0 then none else some false := by
      rw [Part.runStop, Part.cg_onCg, if_pos rfl]
    refine ⟨?_, hcg, ?_⟩
    · rw [Part.runStop, Part.bit_onCg, Part.bit_setBit_same _ _ _ _ (by decide)]
    · rw [hcg, Part.runStop]
      rfl
  case ended =>
    rw [Part.endFade_due hk hn hopen]
    obtain ⟨hregion, hfade⟩ := Part.showFade_over (g := g)
      (p := s.part.onCg g (fun c' => { c' with fadeK := 0, fadeJustEnded := 1 < c.fadeN })) (by simp)
    refine ⟨?_, ?_, hregion, hfade, RegsBut.onCg.trans (Part.showFade_regsBut _ g)⟩ <;>
      rw [Part.cg_showFade, Part.cg_onCg, if_pos rfl]

end Sys2Proof.Machine
end

section
/-! PROOFS. The injection generator, the capture and the correlator (R129 to R132). -/

namespace Sys2Proof.Machine

/-- Words placed one after the other from a key up. -/
theorem sGet_foldl_range (d : Nat → Word) (f : Nat → Word) (base n : Nat) (l : WordFile) (k : Nat) :
    sGet d ((List.range n).foldl (fun l i => sSet d l (base + i) (f i)) l) k =
      if base ≤ k ∧ k < base + n then f (k - base) else sGet d l k := by
  induction n with
  | zero => rw [List.range_zero, List.foldl_nil, if_neg (by omega)]
  | succ n ih =>
    rw [List.range_succ, List.foldl_append, List.foldl_cons, List.foldl_nil, sGet_sSet, ih]
    by_cases hk : k = base + n
    · rw [if_pos hk, if_pos (by omega), hk, Nat.add_sub_cancel_left]
    · rw [if_neg hk]
      exact ite_congr (by simp only [eq_iff_iff]; omega) (fun _ => rfl) (fun _ => rfl)

/-- From `p` to `q` nothing changed but registers and what the CLE holds for its groups. -/
def GroupsOnly (p q : Part) : Prop := q = { p with regs := q.regs, cle := q.cle }

section
variable {p q r : Part}

theorem GroupsOnly.trans (h1 : GroupsOnly p q) (h2 : GroupsOnly q r) : GroupsOnly p r := by
  rw [GroupsOnly] at *
  rw [h2, h1]

theorem GroupsOnly.setFld {off lo w n : Nat} : GroupsOnly p (p.setFld off lo w n) := rfl

theorem GroupsOnly.onCg {g : Grp} {f : CleGroup → CleGroup} : GroupsOnly p (p.onCg g f) := rfl

end

section
variable {p : Part} {g : Grp}

/-- The samples that a correlation takes. -/
def Part.corrTotal (p : Part) (g : Grp) : Nat := p.corrN g * (p.fld (Reg.CLE_CORRCFG g.ix) 8 8 + 1)

/-- The capture words once the results of a correlation stand there. -/
def Part.corrWords (p : Part) (g : Grp) : WordFile :=
  (List.range (18 * p.tones g)).foldl (fun f i => sSet (fun _ => 0) f (0x10000 + i)
    (corrValue (sGet (fun _ => (0, 0)) (p.cg g).probe.acc i) (p.corrTotal g))) (p.cg g).probe.words

theorem Part.corrWords_results {i : Nat} (hi : i < 18 * p.tones g) : sGet (fun _ => 0) (p.corrWords g) (0x10000 + i) =
    corrValue (sGet (fun _ => (0, 0)) (p.cg g).probe.acc i) (p.corrTotal g) := by
  rw [Part.corrWords, sGet_foldl_range, if_pos (by omega), Nat.add_sub_cancel_left]

theorem Part.corrWords_below {k : Nat} (hk : k < 0x10000) :
    sGet (fun _ => 0) (p.corrWords g) k = sGet (fun _ => 0) (p.cg g).probe.words k := by
  rw [Part.corrWords, sGet_foldl_range, if_neg (by omega)]

theorem Part.correlationDone_due (hon : p.bit (Reg.CLE_CAPCTL g.ix) 8 = true)
    (hn : p.corrTotal g ≤ (p.cg g).probe.corrSample) :
    p.correlationDone g = ((p.onCg g (fun c => { c with probe := { (p.cg g).probe with words := p.corrWords g } })).setBit
      (Reg.CLE_CAPCTL g.ix) 8 false).raise (Reg.CLE_GEVT g.ix) 0 := by
  rw [Part.correlationDone, if_neg]
  · rfl
  · simpa [hon, Part.corrTotal] using hn

theorem Part.correlationDone_early
    (h : p.bit (Reg.CLE_CAPCTL g.ix) 8 = false ∨ (p.cg g).probe.corrSample < p.corrTotal g) : p.correlationDone g = p := by
  rw [Part.correlationDone, if_pos]
  simpa [Part.corrTotal] using h

theorem does_correlationDone {s : State} (h : s.part.alive = true) (hon : s.part.bit (Reg.CLE_CAPCTL g.ix) 8 = true)
    (hn : s.part.corrTotal g ≤ (s.part.cg g).probe.corrSample) :
    Does (.correlationDone g) s (fun p => p.bit (Reg.CLE_CAPCTL g.ix) 8 = false ∧ p.bit (Reg.CLE_GEVT g.ix) 0 = true ∧
      (p.cg g).probe.words = s.part.corrWords g ∧ RegsBut s.part p [Reg.CLE_CAPCTL g.ix, Reg.CLE_GEVT g.ix] ∧
      p = { s.part with regs := p.regs, cle := p.cle }) := by
  refine .of_run (f := (·.correlationDone g)) rfl h ?_
  rw [Part.correlationDone_due hon hn]
  have hapart : Reg.CLE_CAPCTL g.ix ≠ Reg.CLE_GEVT g.ix := by cases g <;> decide
  refine ⟨?_, ?_, ?_, ?_, (GroupsOnly.onCg.trans .setFld).trans .setFld⟩
  · rw [Part.raise, Part.bit_setBit_ne _ _ hapart, Part.bit_setBit_same _ _ _ _ (by decide)]
  · rw [Part.raise, Part.bit_setBit_same _ _ _ _ (by decide)]
  · rw [Part.raise, Part.cg_setBit, Part.cg_setBit, Part.cg_onCg, if_pos rfl]
  · exact (RegsBut.onCg.trans (.setFld (by simp))).trans (.setFld (by simp))

theorem does_capstart {s : State} (h : s.part.alive = true) :
    Does (.capstart g) s (fun p => p.bit (Reg.CLE_CAPCTL g.ix) 9 = true ∧ p.fld (Reg.CLE_CAPCTL g.ix) 16 16 = 0 ∧
      (p.cg g).probe = { (s.part.cg g).probe with capEntry := 0, capDiv := 0 } ∧
      RegsBut s.part p [Reg.CLE_CAPCTL g.ix] ∧ p = { s.part with regs := p.regs, cle := p.cle }) := by
  refine .of_run (f := (·.capStart g)) rfl h ?_
  unfold Part.capStart
  refine ⟨?_, ?_, ?_, ?_, (GroupsOnly.setFld.trans .setFld).trans .onCg⟩
  · rw [Part.bit_onCg, Part.bit, Part.reg_setFld, if_pos rfl, bitAt_setBits_ne _ _ _ _ _ (by decide) (by decide), ← Part.bit,
      Part.bit_setBit_same _ _ _ _ (by decide)]
  · rw [Part.fld_onCg, Part.fld_setFld_same _ _ _ _ _ (by decide), Nat.zero_mod]
  · rw [Part.cg_onCg, if_pos rfl, Part.cg_setFld, Part.cg_setBit]
  · exact ((RegsBut.setFld (by simp)).trans (.setFld (by simp))).trans .onCg

/-- The index of the generator runs from 0 where it was off. -/
theorem does_generatorEnable {s : State} (h : s.part.alive = true) (on : Bool) :
    Does (.generatorEnable g on) s (fun p => p.bit (Reg.CLE_CAPCTL g.ix) 3 = on ∧
      (p.cg g).probe = { (s.part.cg g).probe with
        n := if on = true ∧ s.part.bit (Reg.CLE_CAPCTL g.ix) 3 = false then 0 else (s.part.cg g).probe.n } ∧
      RegsBut s.part p [Reg.CLE_CAPCTL g.ix] ∧ p = { s.part with regs := p.regs, cle := p.cle }) := by
  refine .of_run (f := (·.genEnable g on)) rfl h ?_
  have hbit := s.part.bit_setBit_same (Reg.CLE_CAPCTL g.ix) 3 on (by decide)
  have hregs : RegsBut s.part (s.part.setBit (Reg.CLE_CAPCTL g.ix) 3 on) [Reg.CLE_CAPCTL g.ix] := .setFld (by simp)
  by_cases hstart : (on && !s.part.bit (Reg.CLE_CAPCTL g.ix) 3) = true
  · rw [Part.genEnable, Part.when_true hstart]
    refine ⟨hbit, ?_, hregs.trans .onCg, GroupsOnly.setFld.trans .onCg⟩
    rw [Part.cg_onCg, if_pos rfl, Part.cg_setBit, if_pos (by simpa using hstart)]
  · rw [Part.genEnable, Part.when_false (by simpa using hstart)]
    refine ⟨hbit, ?_, hregs, GroupsOnly.setFld⟩
    rw [Part.cg_setBit, if_neg (by simpa using hstart)]

theorem does_capdataRead {s : State} (h : s.part.alive = true) :
    let a := s.part.fld (Reg.CLE_CAPADDR g.ix) 0 17
    Does (.capdataRead g) s (fun p => p.bus.rdata = sGet (fun _ => 0) (s.part.cg g).probe.words a ∧
      p.fld (Reg.CLE_CAPADDR g.ix) 0 17 = (a + 1) % 2 ^ 17 ∧ RegsBut s.part p [Reg.CLE_CAPADDR g.ix] ∧
      p = { s.part with regs := p.regs, bus := p.bus }) :=
  .of_run (f := (·.capDataRead g)) rfl h
    ⟨rfl, Part.fld_setFld_same _ _ _ _ _ (by decide), RegsBut.answer.trans (.setFld (by simp)), rfl⟩

theorem exec_captureFull (g : Grp) (s : State) : exec (.captureFull g) s = s.run (fun p =>
    p.when (!p.bit (Reg.CLE_CAPCFG g.ix) 0 && 8192 ≤ (p.cg g).probe.capEntry) (·.setBit (Reg.CLE_CAPCTL g.ix) 9 false)) := by
  rfl

end

/-- Settles O22 (rounding: log entry 20): for each row what it does when it is due, and that it does nothing else. -/
theorem probeCommands : Obligations.ProbeCommands := by
  unfold Obligations.ProbeCommands
  intro g s h ctl b with_ total
  refine ⟨.of_run (f := (·.cstart g)) rfl h rfl, fun hon hn => ?done,
    fun hearly => .of_run (f := (·.correlationDone g)) rfl (Part.correlationDone_early hearly), does_capstart h,
    .of_run (f := (·.capStop g)) rfl h rfl, fun hone hfull => ?full, fun hrun => ?runs, does_generatorEnable h,
    does_capdataRead h⟩
  case done =>
    refine (does_correlationDone h hon hn).imp fun p ⟨hend, hev, hwords, hregs, hp⟩ => ⟨hend, hev, ?_, ?_, hregs, hp⟩
    · intro i hi
      rw [hwords]
      exact Part.corrWords_results hi
    · intro k hk
      rw [hwords]
      exact Part.corrWords_below hk
  case full => exact .of_run (exec_captureFull g s) h (Part.when_true (by simpa [hone] using hfull))
  case runs =>
    refine .of_run (exec_captureFull g s) (Part.when_false ?_)
    rcases hrun with hcont | hshort
    · simp [hcont]
    · simpa [b] using fun _ => hshort

end Sys2Proof.Machine
end

section
/-! PROOFS. The life of a lane (R103, R115, R116, R118): hard faults, the BIST, the mismatch window and the copy into a
replacement. -/

namespace Sys2Proof.Machine

/-! CLE_LSTAT. -/

theorem lstat_inj {m n : Nat} (h : Reg.CLE_LSTAT m = Reg.CLE_LSTAT n) : m = n := by
  unfold Reg.CLE_LSTAT at h
  omega

theorem lstat_ne_cle (n : Nat) (g : Grp) :
    Reg.CLE_LSTAT n ≠ Reg.CLE_GSTAT g.ix ∧ Reg.CLE_LSTAT n ≠ Reg.CLE_GEVT g.ix ∧ Reg.CLE_LSTAT n ≠ Reg.CLE_DUPCNT g.ix := by
  cases g <;> simp only [Reg.CLE_LSTAT, Reg.CLE_GSTAT, Reg.CLE_GEVT, Reg.CLE_DUPCNT, Grp.ix] <;> omega

theorem lstat_ne_evt (n : Nat) : Reg.CLE_LSTAT n ≠ Reg.SPARE_EVT := by
  simp only [Reg.CLE_LSTAT, Reg.SPARE_EVT]
  omega

theorem lstat_ne_op (n k : Nat) :
    Reg.CLE_LSTAT n ≠ Reg.OP_STATUS_LO k ∧ Reg.CLE_LSTAT n ≠ Reg.OP_STATUS_HI k := by
  simp only [Reg.CLE_LSTAT, Reg.OP_STATUS_LO, Reg.OP_STATUS_HI]
  omega

theorem cleEvt_ne_spareEvt (g : Grp) : Reg.CLE_GEVT g.ix ≠ Reg.SPARE_EVT := by cases g <;> decide

theorem gevt_ne_gstat (e g : Grp) : Reg.CLE_GEVT e.ix ≠ Reg.CLE_GSTAT g.ix := by cases e <;> cases g <;> decide

section
variable {p q : Part} {n m : Nat} {g : Grp}

theorem Part.laneState_of_reg (h : q.reg (Reg.CLE_LSTAT n) = p.reg (Reg.CLE_LSTAT n)) : q.laneState n = p.laneState n := by
  rw [Part.laneState, Part.laneState, Part.fld, Part.fld, h]

theorem Part.laneGrp_of_reg (h : q.reg (Reg.CLE_LSTAT n) = p.reg (Reg.CLE_LSTAT n)) : q.laneGrp n = p.laneGrp n := by
  rw [Part.laneGrp, Part.laneGrp, Part.bit, Part.bit, h]

theorem Part.laneState_setLaneState (p : Part) (n : Nat) {st : Nat} (h : st < 16) : (p.setLaneState n st).laneState n = st := by
  rw [Part.setLaneState, Part.laneState, p.fld_setFld_same _ _ _ _ (by decide), Nat.mod_eq_of_lt (b := 2 ^ 4) h]

theorem Part.reg_setLaneState_ne (p : Part) (st : Nat) (h : m ≠ n) :
    (p.setLaneState n st).reg (Reg.CLE_LSTAT m) = p.reg (Reg.CLE_LSTAT m) := by
  rw [Part.setLaneState, Part.reg_setFld, if_neg (fun he => h (lstat_inj he))]

/-- FAULT of CLE_LSTAT beside STATE. -/
theorem Part.fault_setLaneState (p : Part) (n st m : Nat) :
    (p.setLaneState n st).fld (Reg.CLE_LSTAT m) 12 4 = p.fld (Reg.CLE_LSTAT m) 12 4 := by
  by_cases h : m = n
  · rw [h, Part.setLaneState, p.fld_setFld_apart _ _ _ _ _ _ (by decide) (by decide)]
  · rw [Part.fld, p.reg_setLaneState_ne st h, Part.fld]

/-- A field of CLE_LSTAT from bit 9 up beside STATE and GROUP. -/
theorem Part.setLstat_state (p : Part) (n m : Nat) {lo w x : Nat} (hlo : 9 ≤ lo) (hw : lo + w ≤ 32) :
    (p.setFld (Reg.CLE_LSTAT n) lo w x).laneState m = p.laneState m ∧
      (p.setFld (Reg.CLE_LSTAT n) lo w x).laneGrp m = p.laneGrp m := by
  by_cases h : m = n
  · subst h
    refine ⟨p.fld_setFld_apart _ _ _ _ _ _ hw (.inl (by omega)), ?_⟩
    rw [Part.laneGrp, Part.bit, Part.reg_setFld, if_pos rfl, bitAt_setBits_ne _ _ _ _ _ hw (.inl (by omega)), ← Part.bit,
      Part.laneGrp]
  · have hreg : (p.setFld (Reg.CLE_LSTAT n) lo w x).reg (Reg.CLE_LSTAT m) = p.reg (Reg.CLE_LSTAT m) := by
      rw [Part.reg_setFld, if_neg (fun he => h (lstat_inj he))]
    exact ⟨Part.laneState_of_reg hreg, Part.laneGrp_of_reg hreg⟩

theorem RegsBut.lane_word {l : List Nat} (h : RegsBut p q l) (hn : Reg.CLE_LSTAT n ∉ l) :
    q.laneState n = p.laneState n ∧ q.fld (Reg.CLE_LSTAT n) 12 4 = p.fld (Reg.CLE_LSTAT n) 12 4 :=
  ⟨Part.laneState_of_reg (h _ hn), by rw [Part.fld, h _ hn, Part.fld]⟩

/-! Retirement (R116). -/

theorem Part.reg_noteRetire (p : Part) (cls unit cause off : Nat) (h : off ≠ Reg.SPARE_EVT) :
    (p.noteRetire cls unit cause).reg off = p.reg off := by
  rw [Part.noteRetire, Part.raise, Part.reg_setBit, if_neg h]
  rfl

theorem Part.cg_noteRetire (p : Part) (cls unit cause : Nat) (g : Grp) : (p.noteRetire cls unit cause).cg g = p.cg g := rfl

theorem Part.noteRetire_event (p : Part) (cls unit cause : Nat) : (p.noteRetire cls unit cause).bit Reg.SPARE_EVT 0 = true :=
  Part.bit_setBit_same _ _ _ _ (by decide)

/-- Whether a lane serves its group or did so in this sample. -/
abbrev Part.served (p : Part) (n : Nat) : Prop := p.laneState n = 1 ∨ p.laneState n = 2

theorem Part.retireLane_eq (p : Part) (n cause : Nat) : p.retireLane n cause =
    ((p.raiseIf (decide (p.served n)) (Reg.CLE_GEVT (p.laneGrp n).ix) 7).setLaneState n 6).noteRetire 1 n cause := by
  rw [Part.retireLane, Bool.decide_or]

theorem Part.retireLane_lane (p : Part) (n cause : Nat) : (p.retireLane n cause).laneState n = 6 ∧
    (p.retireLane n cause).fld (Reg.CLE_LSTAT n) 12 4 = p.fld (Reg.CLE_LSTAT n) 12 4 := by
  rw [Part.retireLane_eq]
  have hreg := Part.reg_noteRetire ((p.raiseIf (decide (p.served n)) (Reg.CLE_GEVT (p.laneGrp n).ix) 7).setLaneState n 6)
    1 n cause _ (lstat_ne_evt n)
  refine ⟨?_, ?_⟩
  · rw [Part.laneState_of_reg hreg, Part.laneState_setLaneState _ _ (by decide)]
  · rw [Part.fld, hreg, ← Part.fld, Part.fault_setLaneState, Part.fld,
      RegsOnly.raiseIf.2 _ (by simpa using (lstat_ne_cle n _).2.1), Part.fld]

theorem Part.retireLane_event (p : Part) (n cause : Nat) : (p.retireLane n cause).bit Reg.SPARE_EVT 0 = true :=
  Part.noteRetire_event _ _ _ _

theorem Part.cg_retireLane (p : Part) (n cause : Nat) (g : Grp) : (p.retireLane n cause).cg g = p.cg g := by
  rw [Part.retireLane_eq, Part.cg_noteRetire, Part.setLaneState, Part.cg_setFld, RegsOnly.raiseIf.cg_lane.1]

theorem Part.bit_retireLane (p : Part) (n cause i : Nat) (g : Grp) :
    (p.retireLane n cause).bit (Reg.CLE_GEVT g.ix) i =
      (p.raiseIf (decide (p.served n)) (Reg.CLE_GEVT (p.laneGrp n).ix) 7).bit (Reg.CLE_GEVT g.ix) i := by
  rw [Part.retireLane_eq, Part.bit, Part.reg_noteRetire _ _ _ _ _ (cleEvt_ne_spareEvt g), Part.setLaneState, Part.reg_setFld,
    if_neg (lstat_ne_cle n g).2.1.symm, Part.bit]

/-- RETIRE is set where the lane served its group. -/
theorem Part.retireLane_retire (p : Part) (n cause : Nat) (h : p.served n) :
    (p.retireLane n cause).bit (Reg.CLE_GEVT (p.laneGrp n).ix) 7 = true := by
  rw [Part.bit_retireLane, p.bit_raiseIf _ (by decide), if_pos rfl, decide_eq_true h, Bool.or_true]

theorem Part.retireLane_regs (p : Part) (n cause : Nat) :
    RegsBut p (p.retireLane n cause) [Reg.CLE_LSTAT n, Reg.CLE_GEVT (p.laneGrp n).ix, Reg.SPARE_EVT] := by
  intro off hoff
  simp only [List.mem_cons, List.not_mem_nil, or_false, not_or] at hoff
  obtain ⟨hl, hg, hs⟩ := hoff
  rw [Part.retireLane_eq, Part.reg_noteRetire _ _ _ _ _ hs, Part.setLaneState, Part.reg_setFld, if_neg hl,
    RegsOnly.raiseIf.2 _ (by simpa using hg)]

theorem Part.retireLane_spare (p : Part) (n cause : Nat) (h : ¬ p.served n) :
    RegsBut p (p.retireLane n cause) [Reg.CLE_LSTAT n, Reg.SPARE_EVT] := by
  intro off hoff
  simp only [List.mem_cons, List.not_mem_nil, or_false, not_or] at hoff
  obtain ⟨hl, hs⟩ := hoff
  rw [Part.retireLane_eq, Part.reg_noteRetire _ _ _ _ _ hs, Part.setLaneState, Part.reg_setFld, if_neg hl,
    decide_eq_false h, Part.raiseIf, if_neg Bool.false_ne_true]

/-! Abandoning a loading (R122). -/

theorem Part.opFail_regsOnly (p : Part) (k gerr err : Nat) :
    RegsOnly p (p.opFail k gerr err) [Reg.OP_STATUS_LO k, Reg.OP_STATUS_HI k] :=
  ((RegsOnly.mono .setFld (by simp)).trans (.mono .setFld (by simp))).trans (.mono .setFld (by simp))

theorem Part.reg_opErr? (p : Part) (err n : Nat) (o : Option Nat) :
    (p.opErr? err o).reg (Reg.CLE_LSTAT n) = p.reg (Reg.CLE_LSTAT n) := by
  cases o with
  | none => rfl
  | some k => exact (p.opFail_regsOnly k 7 err).2 _ (by simp [lstat_ne_op])

theorem Part.cg_opErr? (p : Part) (err : Nat) (o : Option Nat) (g : Grp) : (p.opErr? err o).cg g = p.cg g := by
  cases o with
  | none => rfl
  | some k => exact (p.opFail_regsOnly k 7 err).cg_lane.1 g

/-- With the loading goes its place in the group; FAULT of every lane stands. -/
theorem Part.abandonLoad_spec (p : Part) (g : Grp) (n : Nat) :
    ((p.abandonLoad g).cg g).load = none ∧
      (p.abandonLoad g).fld (Reg.CLE_LSTAT n) 12 4 = p.fld (Reg.CLE_LSTAT n) 12 4 := by
  unfold Part.abandonLoad
  split
  next hload => exact ⟨hload, rfl⟩
  next x hload =>
    extract_lets p1
    have hfault : p1.fld (Reg.CLE_LSTAT n) 12 4 = p.fld (Reg.CLE_LSTAT n) 12 4 := by
      by_cases h5 : p.laneState x.lane = 5
      · exact (congrArg (fun q : Part => q.fld (Reg.CLE_LSTAT n) 12 4) (Part.when_true (decide_eq_true h5))).trans
          (p.fault_setLaneState _ _ _)
      · exact congrArg (fun q : Part => q.fld (Reg.CLE_LSTAT n) 12 4) (Part.when_false (decide_eq_false h5))
    have hshow := Part.showGroup_regsOnly ((p1.onCg g (fun c => { c with load := none })).opErr? 4 x.slot) g
    refine ⟨?_, ?_⟩
    · rw [hshow.cg_lane.1, Part.cg_opErr?, Part.cg_onCg, if_pos rfl]
    · rw [Part.fld, hshow.2 _ (by simpa using (lstat_ne_cle n g).1), Part.reg_opErr?,
        Part.reg_onCg, ← Part.fld, hfault]

/-! A hard fault (R103, R111, R116). -/

/-- The part once the code of a hard fault stands in CLE_LSTAT. -/
def Part.faultNoted (p : Part) (n code : Nat) : Part := p.setFld (Reg.CLE_LSTAT n) 12 4 code

section
variable {code : Nat} (hcode : code < 16)

theorem Part.faultNoted_lane (p : Part) (n code m : Nat) :
    (p.faultNoted n code).laneState m = p.laneState m ∧ (p.faultNoted n code).laneGrp m = p.laneGrp m :=
  p.setLstat_state n m (by decide) (by decide)

include hcode in
theorem Part.faultNoted_code (p : Part) (n : Nat) : (p.faultNoted n code).fld (Reg.CLE_LSTAT n) 12 4 = code := by
  rw [Part.faultNoted, p.fld_setFld_same _ _ _ _ (by decide), Nat.mod_eq_of_lt (b := 2 ^ 4) hcode]

theorem Part.faultNoted_regs (p : Part) (n code : Nat) : RegsBut p (p.faultNoted n code) [Reg.CLE_LSTAT n] :=
  .setFld (by simp)

theorem Part.showMode_regs (p : Part) (g : Grp) : RegsBut p (p.showMode g) [Reg.CLE_GSTAT g.ix] := .setFld (by simp)

theorem Part.laneFault_retired (h : p.laneState n = 6) : p.laneFault n code = p := if_pos h

/-- The lane masked by the fault, before CLE_GSTAT is shown. -/
def Part.faultMasked (p : Part) (n code : Nat) : Part :=
  (((p.faultNoted n code).onCg (p.laneGrp n) (fun c => { c with want := some (n, 1) })).setLaneState n 2).onLane n
    (fun l => { l with outvoted := false })

theorem Part.faultMasked_regs (p : Part) (n code : Nat) : RegsBut p (p.faultMasked n code) [Reg.CLE_LSTAT n] :=
  (((p.faultNoted_regs n code).trans .onCg).trans (.setFld (by simp))).trans .onLane

include hcode in
theorem Part.faultMasked_lane (p : Part) (n : Nat) :
    (p.faultMasked n code).laneState n = 2 ∧ (p.faultMasked n code).fld (Reg.CLE_LSTAT n) 12 4 = code := by
  unfold Part.faultMasked
  refine ⟨?_, ?_⟩
  · rw [Part.laneState_of_reg (Part.reg_onLane _ _ _), Part.laneState_setLaneState _ _ (by decide)]
  · rw [Part.fld, Part.reg_onLane, ← Part.fld, Part.fault_setLaneState, Part.fld_onCg, Part.faultNoted_code hcode]

/-- Within a sample the lane is masked. -/
theorem Part.laneFault_open (h : p.served n) (ho : (p.cg (p.laneGrp n)).open_ = true) :
    p.laneFault n code = (p.faultMasked n code).showGroup (p.laneGrp n) := by
  have h6 : p.laneState n ≠ 6 := by unfold Part.served at h; omega
  have hserved : (p.laneState n = 1 || p.laneState n = 2) = true := by simpa using h
  simp only [Part.laneFault, h6, hserved, if_true, if_false, Part.cg_onCg, Part.cg_setFld, ho]
  rfl

/-- A lane that loads is retired, and its loading abandoned. -/
theorem Part.laneFault_loading (h : p.laneState n = 5) : p.laneFault n code =
    (((p.faultNoted n code).abandonLoad (p.laneGrp n)).retireLane n 1).showGroup (p.laneGrp n) := by
  simp [Part.laneFault, h, Part.faultNoted]

/-- A lane in any other state is retired. -/
theorem Part.laneFault_idle (h : p.laneState n ∉ [1, 2, 5, 6]) : p.laneFault n code = (p.faultNoted n code).retireLane n 1 := by
  simp only [List.mem_cons, List.not_mem_nil, or_false, not_or] at h
  simp [Part.laneFault, h, Part.faultNoted]

include hcode in
theorem Part.laneFault_open_spec (hs : p.served n) (ho : (p.cg (p.laneGrp n)).open_ = true) :
    (p.laneFault n code).laneState n = 2 ∧ (p.laneFault n code).fld (Reg.CLE_LSTAT n) 12 4 = code ∧
      RegsBut p (p.laneFault n code) [Reg.CLE_LSTAT n, Reg.CLE_GSTAT (p.laneGrp n).ix] := by
  rw [Part.laneFault_open hs ho]
  have hshow := (Part.showGroup_regsOnly (p.faultMasked n code) (p.laneGrp n)).2
  obtain ⟨hst, hfl⟩ := RegsBut.lane_word (n := n) hshow (by simpa using (lstat_ne_cle n _).1)
  obtain ⟨hst', hfl'⟩ := p.faultMasked_lane hcode n
  exact ⟨hst.trans hst', hfl.trans hfl',
    ((p.faultMasked_regs n code).mono (by simp)).trans (RegsBut.mono hshow (by simp))⟩

/-- The lane retired by the fault, before MODE and the rest of CLE_GSTAT are shown. -/
def Part.faultRetired (p : Part) (n code : Nat) : Part :=
  ((p.faultNoted n code).onCg (p.laneGrp n) (fun c => { c with want := some (n, 1) })).retireLane n 1

/-- Between samples the lane is retired. -/
theorem Part.laneFault_closed (h : p.served n) (ho : (p.cg (p.laneGrp n)).open_ = false) :
    p.laneFault n code = ((p.faultRetired n code).when ((p.faultRetired n code).gmode (p.laneGrp n) = 1)
      (·.showMode (p.laneGrp n))).showGroup (p.laneGrp n) := by
  have h6 : p.laneState n ≠ 6 := by unfold Part.served at h; omega
  have hserved : (p.laneState n = 1 || p.laneState n = 2) = true := by simpa using h
  simp only [Part.laneFault, h6, hserved, if_true, if_false, Part.cg_onCg, Part.cg_setFld, ho, Bool.false_eq_true]
  rfl

include hcode in
theorem Part.faultRetired_lane (p : Part) (n : Nat) :
    (p.faultRetired n code).laneState n = 6 ∧ (p.faultRetired n code).fld (Reg.CLE_LSTAT n) 12 4 = code := by
  obtain ⟨hst, hfl⟩ := Part.retireLane_lane
    ((p.faultNoted n code).onCg (p.laneGrp n) (fun c => { c with want := some (n, 1) })) n 1
  refine ⟨hst, hfl.trans ?_⟩
  rw [Part.fld_onCg, Part.faultNoted_code hcode]

theorem Part.faultRetired_events (h : p.served n) :
    (p.faultRetired n code).bit (Reg.CLE_GEVT (p.laneGrp n).ix) 7 = true ∧
      (p.faultRetired n code).bit Reg.SPARE_EVT 0 = true := by
  obtain ⟨hst, hgrp⟩ := p.faultNoted_lane n code n
  refine ⟨?_, Part.retireLane_event _ _ _⟩
  have hretire := Part.retireLane_retire
    ((p.faultNoted n code).onCg (p.laneGrp n) (fun c => { c with want := some (n, 1) })) n 1
    (by rwa [Part.served, Part.laneState_onCg, hst])
  rwa [Part.laneGrp_onCg, hgrp] at hretire

theorem Part.faultRetired_regs (p : Part) (n code : Nat) : RegsBut p (p.faultRetired n code)
    [Reg.CLE_LSTAT n, Reg.CLE_GEVT (p.laneGrp n).ix, Reg.SPARE_EVT] := by
  have hregs := Part.retireLane_regs
    ((p.faultNoted n code).onCg (p.laneGrp n) (fun c => { c with want := some (n, 1) })) n 1
  rw [Part.laneGrp_onCg, (p.faultNoted_lane n code n).2] at hregs
  exact (((p.faultNoted_regs n code).trans .onCg).mono (by simp)).trans hregs

theorem Part.showMode_showGroup_regs (p : Part) (g : Grp) (b : Bool) :
    RegsBut p ((p.when b (·.showMode g)).showGroup g) [Reg.CLE_GSTAT g.ix] := by
  refine RegsBut.trans ?_ (Part.showGroup_regsOnly _ g).2
  cases b
  · exact .refl _ _
  · exact p.showMode_regs g

include hcode in
theorem Part.laneFault_closed_spec (h : p.served n) (ho : (p.cg (p.laneGrp n)).open_ = false) :
    let g := p.laneGrp n
    let q := p.laneFault n code
    q.laneState n = 6 ∧ q.fld (Reg.CLE_LSTAT n) 12 4 = code ∧ q.bit (Reg.CLE_GEVT g.ix) 7 = true ∧
      q.bit Reg.SPARE_EVT 0 = true ∧
      RegsBut p q [Reg.CLE_LSTAT n, Reg.CLE_GSTAT g.ix, Reg.CLE_GEVT g.ix, Reg.SPARE_EVT] := by
  intro g q
  obtain ⟨hst, hfl⟩ := p.faultRetired_lane hcode n
  obtain ⟨hretire, hspare⟩ := Part.faultRetired_events (code := code) h
  have hshow : RegsBut (p.faultRetired n code) q [Reg.CLE_GSTAT g.ix] := by
    unfold q
    rw [Part.laneFault_closed h ho]
    exact Part.showMode_showGroup_regs _ _ _
  obtain ⟨hst', hfl'⟩ := RegsBut.lane_word (n := n) hshow (by simpa using (lstat_ne_cle n g).1)
  refine ⟨hst'.trans hst, hfl'.trans hfl, ?_, ?_, ?_⟩
  · rw [Part.bit, hshow _ (by simpa using gevt_ne_gstat g g)]
    exact hretire
  · rw [Part.bit, hshow _ (by cases g <;> decide)]
    exact hspare
  · exact ((p.faultRetired_regs n code).mono (by simp [g])).trans (hshow.mono (by simp))

include hcode in
theorem Part.laneFault_loading_spec (h : p.laneState n = 5) :
    let q := p.laneFault n code
    q.laneState n = 6 ∧ q.fld (Reg.CLE_LSTAT n) 12 4 = code ∧ (q.cg (p.laneGrp n)).load = none := by
  intro q
  have hq : q = (((p.faultNoted n code).abandonLoad (p.laneGrp n)).retireLane n 1).showGroup (p.laneGrp n) :=
    Part.laneFault_loading h
  obtain ⟨hload, hfault⟩ := (p.faultNoted n code).abandonLoad_spec (p.laneGrp n) n
  obtain ⟨hst, hfl⟩ := ((p.faultNoted n code).abandonLoad (p.laneGrp n)).retireLane_lane n 1
  have hshow := Part.showGroup_regsOnly (((p.faultNoted n code).abandonLoad (p.laneGrp n)).retireLane n 1) (p.laneGrp n)
  obtain ⟨hst', hfl'⟩ := RegsBut.lane_word (n := n) hshow.2 (by simpa using (lstat_ne_cle n _).1)
  rw [hq]
  refine ⟨hst'.trans hst, hfl'.trans (hfl.trans (hfault.trans (p.faultNoted_code hcode n))), ?_⟩
  rw [hshow.cg_lane.1, Part.cg_retireLane, hload]

include hcode in
theorem Part.laneFault_idle_spec (h : p.laneState n ∉ [1, 2, 5, 6]) :
    let q := p.laneFault n code
    q.laneState n = 6 ∧ q.fld (Reg.CLE_LSTAT n) 12 4 = code ∧ RegsBut p q [Reg.CLE_LSTAT n, Reg.SPARE_EVT] := by
  intro q
  have hq : q = (p.faultNoted n code).retireLane n 1 := Part.laneFault_idle h
  have hserved : ¬ (p.faultNoted n code).served n := by
    simp only [List.mem_cons, List.not_mem_nil, or_false, not_or] at h
    simp [Part.served, (p.faultNoted_lane n code n).1, h]
  obtain ⟨hst, hfl⟩ := (p.faultNoted n code).retireLane_lane n 1
  rw [hq]
  exact ⟨hst, hfl.trans (p.faultNoted_code hcode n),
    ((p.faultNoted_regs n code).mono (by simp)).trans (Part.retireLane_spare _ n 1 hserved)⟩

end

end

/-! The other rows. -/

theorem RegsBut.withHealth {p : Part} {l : List Nat} (x : HealthState) : RegsBut p { p with health := x } l := fun _ _ => rfl

theorem Part.withHealth_frame {p q : Part} (h : q = { p with regs := q.regs }) (x : HealthState) :
    { q with health := x } = { p with regs := q.regs, health := x } := by
  rw [h]

/-- A saturating count in a field. -/
theorem Part.fld_countSat (p : Part) (a : Nat) {lo w : Nat} (h : lo + w ≤ 32) :
    (p.countSat a lo w).fld a lo w = min (p.fld a lo w + 1) (2 ^ w - 1) := by
  rw [Part.countSat, p.fld_setFld_same _ _ _ _ h]
  refine Nat.mod_eq_of_lt ?_
  have hpos := Nat.two_pow_pos w
  rw [satInc]
  omega

section
variable {p : Part} {n : Nat}

theorem Part.bistEnd_other {pass : Bool} (h : p.laneState n ≠ 3) : p.bistEnd n pass = p := if_pos h

theorem Part.bistEnd_passed (h : p.laneState n = 3) : p.bistEnd n true = p.setLaneState n 4 := by
  simp [Part.bistEnd, h]

/-- The lane retired by its BIST, before the standby's self-test takes note. -/
def Part.bistFailed (p : Part) (n : Nat) : Part :=
  ((p.faultNoted n 4).raise (Reg.CLE_GEVT (p.laneGrp n).ix) 7).retireLane n 1

/-- The step of the standby's self-test that fails with a BIST (R350). -/
theorem Part.bistEnd_failed (h : p.laneState n = 3) :
    RegsBut (p.bistFailed n) (p.bistEnd n false) [Reg.PAIR_EVT, Reg.PAIR_STSTAT] := by
  unfold Part.bistEnd
  rw [if_neg (not_not.2 h), if_neg Bool.false_ne_true]
  extract_lets q
  rw [show q = p.bistFailed n from rfl]
  split
  · exact .trans (.trans (.withHealth _) (.setFld (by simp))) (.setFld (by simp))
  · exact .refl _ _

theorem Part.bistFailed_spec (p : Part) (n : Nat) :
    (p.bistFailed n).laneState n = 6 ∧ (p.bistFailed n).fld (Reg.CLE_LSTAT n) 12 4 = 4 ∧
      (p.bistFailed n).bit (Reg.CLE_GEVT (p.laneGrp n).ix) 7 = true ∧ (p.bistFailed n).bit Reg.SPARE_EVT 0 = true := by
  unfold Part.bistFailed
  obtain ⟨hst, hfl⟩ := ((p.faultNoted n 4).raise (Reg.CLE_GEVT (p.laneGrp n).ix) 7).retireLane_lane n 1
  have hne := (lstat_ne_cle n (p.laneGrp n)).2.1
  have hraised := (p.faultNoted n 4).bit_setBit_same (Reg.CLE_GEVT (p.laneGrp n).ix) 7 true (by decide)
  refine ⟨hst, hfl.trans ?_, ?_, Part.retireLane_event _ _ _⟩
  · rw [Part.raise, Part.setBit, Part.fld_setFld_ne _ _ _ _ _ _ hne, Part.faultNoted_code (by decide)]
  · rw [Part.bit_retireLane, Part.raise]
    by_cases hg : (Reg.CLE_GEVT (p.laneGrp n).ix) = Reg.CLE_GEVT
        (((p.faultNoted n 4).setBit (Reg.CLE_GEVT (p.laneGrp n).ix) 7 true).laneGrp n).ix
    · rw [← hg, Part.bit_raiseIf _ _ (by decide), if_pos rfl, hraised, Bool.true_or]
    · rw [Part.bit_raiseIf_ne _ _ hg, hraised]

theorem exec_mismatchWindowClose (n : Fin 8) (t : Instant) (s : State) :
    exec (.mismatchWindowClose n t) s = execMismatchWindowClose n t s := by rfl

/-- The window that stands once it may have fallen due. -/
theorem does_mismatchWindowClose {n : Fin 8} {t w : Instant} {s : State} (h : s.part.alive = true)
    (hw : (s.part.lane n).win = some w) : Does (.mismatchWindowClose n t) s (fun p =>
      p = (s.part.at t).setLane n { s.part.lane n with win := if w + sec 3600 ≤ t then none else some w }) := by
  refine .of_run (exec_mismatchWindowClose n t s) h (congrArg ((s.part.at t).setLane n) ?_)
  simp only [Part.lane_at, hw]
  by_cases ht : w + sec 3600 ≤ t
  · rw [if_pos ht, if_pos ht]
  · rw [if_neg ht, if_neg ht, ← hw]

theorem exec_laneEccCorrected (n : Fin 8) (s : State) :
    exec (.laneEccCorrected n) s = execLaneEccCorrected n s := by rfl

theorem does_laneEccCorrected {n : Fin 8} {s : State} (h : s.part.alive = true) : Does (.laneEccCorrected n) s (fun p =>
    p.fld (Reg.CLE_LECC n) 0 32 = min (s.part.fld (Reg.CLE_LECC n) 0 32 + 1) (2 ^ 32 - 1) ∧
      RegsBut s.part p [Reg.CLE_LECC n] ∧ p = { s.part with regs := p.regs, health := p.health }) := by
  refine .of_run (exec_laneEccCorrected n s) h ?_
  have hcount := s.part.fld_countSat (Reg.CLE_LECC n) (show 0 + 32 ≤ 32 by decide)
  have hregs : RegsBut s.part (s.part.countSat (Reg.CLE_LECC n) 0 32) [Reg.CLE_LECC n] := .setFld (by simp)
  exact ⟨hcount, hregs.trans (.withHealth _), Part.withHealth_frame rfl _⟩

theorem Part.copyComplete_loading {g : Grp} {x : Loading} {src : Nat} (hx : (p.cg g).load = some x)
    (hsrc : (p.members g).head? = some src) : p.copyComplete g =
      (p.setLane x.lane ((p.lane x.lane).copyMem (p.lane src))).onCg g
        (fun c => { c with load := some { x with copied := true } }) := by
  simp only [Part.copyComplete, hx, hsrc, Part.onLane]

theorem Part.copyComplete_idle {g : Grp} (h : (p.cg g).load = none) : p.copyComplete g = p := by
  simp only [Part.copyComplete, h]

end

/-- Settles O20 (log entry 52): for each state of a lane what a hard fault leaves, and what the other rows of its life do. -/
theorem laneReserves : Obligations.LaneReserves := by
  unfold Obligations.LaneReserves
  refine ⟨fun n parity t s h => ?fault, fun n pass s h => ?bist, fun n t w s h hw => ?window,
    fun n s h => does_laneEccCorrected h, fun g s x src h hx h8 hsrc => ?copy,
    fun g s h hload => .of_run (f := (·.copyComplete g)) rfl (Part.copyComplete_idle hload)⟩
  case fault =>
    intro g st code
    have hcode : code < 16 := by
      unfold code
      split <;> decide
    have fault {P : Part → Prop} (hP : P ((s.part.at t).laneFault n code)) : Does (.laneHardFault n parity t) s P :=
      .of_run (f := fun p => (p.at t).laneFault n code) rfl h hP
    exact ⟨fun h6 => fault (Part.laneFault_retired (p := s.part.at t) h6),
      fun hs ho => fault (Part.laneFault_open_spec (p := s.part.at t) hcode hs ho),
      fun hs ho => fault (Part.laneFault_closed_spec (p := s.part.at t) hcode hs ho),
      fun hi => fault (Part.laneFault_idle_spec (p := s.part.at t) hcode hi),
      fun h5 _ => fault (Part.laneFault_loading_spec (p := s.part.at t) hcode h5)⟩
  case bist =>
    refine ⟨fun h3 => .of_run (f := (·.bistEnd n pass)) rfl (Part.bistEnd_other h3), fun h3 hp => ?_, fun h3 hp => ?_⟩
    · exact .of_run (f := (·.bistEnd n pass)) rfl h (hp ▸ Part.bistEnd_passed h3)
    · subst hp
      refine .of_run (f := (·.bistEnd n false)) rfl h ?_
      obtain ⟨hst, hfl, hretire, hspare⟩ := s.part.bistFailed_spec n
      have hregs := Part.bistEnd_failed h3
      have hn : Reg.CLE_LSTAT n ∉ [Reg.PAIR_EVT, Reg.PAIR_STSTAT] := by
        have h8 := n.isLt
        simp only [List.mem_cons, List.not_mem_nil, or_false, Reg.CLE_LSTAT, Reg.PAIR_EVT, Reg.PAIR_STSTAT]
        omega
      obtain ⟨hst', hfl'⟩ := hregs.lane_word hn
      refine ⟨hst'.trans hst, hfl'.trans hfl, ?_, ?_⟩
      · rw [Part.bit, hregs _ (by cases s.part.laneGrp n <;> decide)]
        exact hretire
      · rw [Part.bit, hregs _ (by decide)]
        exact hspare
  case window =>
    refine (does_mismatchWindowClose h hw).imp fun p hp => ?_
    subst hp
    exact ⟨by rw [Part.lane_setLane, if_pos ⟨rfl, n.isLt⟩],
      fun m hm => by rw [Part.lane_setLane, if_neg (fun he => hm (Fin.ext he.1)), Part.lane_at], rfl⟩
  case copy =>
    refine .of_run (f := (·.copyComplete g)) rfl h ?_
    rw [Part.copyComplete_loading hx hsrc]
    refine ⟨?_, fun m hm => ?_, ?_, rfl⟩
    · rw [Part.lane_onCg, Part.lane_setLane, if_pos ⟨rfl, h8⟩, Lane.copyMem]
    · rw [Part.lane_onCg, Part.lane_setLane, if_neg (fun he => hm he.1)]
    · rw [Part.cg_onCg, if_pos rfl]

end Sys2Proof.Machine
end

section
/-! PROOFS. What a decision on a sample rests on, as one relation between the part before and the part after: the lanes named
stand as they were, and so do MODE, MISMATCH, NOMAJ and the count of samples without majority. The rules by which a meaning
keeps it. -/

namespace Sys2Proof.Machine

/-- What a group holds of its sample and of the decision on it. -/
def CleGroup.ruling (c : CleGroup) := (c.open_, c.prevNoMaj, c.haltNext)

/-- From `b` to `p` the lanes listed and the decisions of the groups stayed as they were. -/
structure Part.Firm (p : Part) (ns : List Nat) (b : Part) : Prop where
  lane : ∀ n ∈ ns, n < 8 → p.reg (Reg.CLE_LSTAT n) = b.reg (Reg.CLE_LSTAT n)
  mode : ∀ g, p.gmode g = b.gmode g
  event : ∀ g : Grp, ∀ i ∈ [9, 10], p.bit (Reg.CLE_GEVT g.ix) i = b.bit (Reg.CLE_GEVT g.ix) i
  count : ∀ g : Grp, p.reg (Reg.CLE_DUPCNT g.ix) = b.reg (Reg.CLE_DUPCNT g.ix)
  ruling : ∀ g, (p.cg g).ruling = (b.cg g).ruling

/-- No lane's CLE_LSTAT and no group's CLE_GSTAT, CLE_GEVT or CLE_DUPCNT lies at the offset. -/
abbrev Aside (off : Nat) : Prop :=
  off < 0x100000 ∨ 0x110000 ≤ off ∨ (off < 0x108000 ∧ 0x18 ≤ off % 0x4000 ∧ off % 0x4000 ≠ 0x1C) ∨
    (0x108000 ≤ off ∧ off % 0x400 ≠ 0)

theorem Aside.above {a b : Nat} (h : 0x110000 ≤ a) : Aside (a + b) := .inr (.inl (by omega))

@[simp] theorem aside_single : Aside Reg.SPARE_EVT ∧ Aside Reg.PAIR_EVT ∧ Aside Reg.PAIR_MCNT ∧ Aside Reg.PAIR_MLATE ∧
    Aside Reg.PAIR_MDIFF := by decide

@[simp] theorem aside_OP_STATUS {k : Nat} : Aside (Reg.OP_STATUS_LO k) ∧ Aside (Reg.OP_STATUS_HI k) := by
  unfold Reg.OP_STATUS_LO Reg.OP_STATUS_HI Aside
  omega

@[simp] theorem aside_CLE (g : Grp) : Aside (Reg.CLE_TEND g.ix) ∧ Aside (Reg.CLE_NANF_LO g.ix) ∧
    Aside (Reg.CLE_NANF_HI g.ix) ∧ Aside (Reg.CLE_REGION g.ix) ∧ Aside (Reg.CLE_CAPCTL g.ix) ∧
    Aside (Reg.CLE_XSTAT g.ix) ∧ Aside (Reg.CLE_SEQCMD g.ix) := by
  cases g <;> decide

theorem aside_EP {g : Grp} {k : Nat} (hk : k < 64) : Aside (Reg.CLE_EP g.ix k) := by
  cases g <;> simp only [Aside, Reg.CLE_EP, Grp.ix] <;> omega

theorem aside_SPW {g : Grp} {k : Nat} (hk : k < 16) : Aside (Reg.CLE_SPW g.ix k) := by
  cases g <;> simp only [Aside, Reg.CLE_SPW, Grp.ix] <;> omega

theorem aside_LWIN {n : Nat} : Aside (Reg.CLE_LWIN_LO n) ∧ Aside (Reg.CLE_LWIN_LO n + 4) := by
  unfold Reg.CLE_LWIN_LO Aside
  omega

@[simp] theorem aside_PWM {n : Nat} : Aside (Reg.PWM_TBSTAT n) ∧ Aside (Reg.PWM_CMPA n) ∧ Aside (Reg.PWM_CMPB n) :=
  ⟨.above (by decide), .above (by decide), .above (by decide)⟩

@[simp] theorem aside_CAP {n : Nat} : Aside (Reg.CAP_USTAT n) ∧ Aside (Reg.CAP_UEVT n) ∧ Aside (Reg.CAP_UMISS n) ∧
    Aside (Reg.CAP_TSTAT n) ∧ Aside (Reg.CAP_TTIME_LO n) ∧ Aside (Reg.CAP_TTIME_LO n + 4) ∧
    Aside (Reg.CAP_TTIME_LO n + 8) := by
  simp only [Reg.CAP_USTAT, Reg.CAP_UEVT, Reg.CAP_UMISS, Reg.CAP_TSTAT, Reg.CAP_TTIME_LO, Nat.add_assoc]
  exact ⟨.above (by decide), .above (by decide), .above (by decide), .above (by decide), .above (by decide),
    .above (by decide), .above (by decide)⟩

theorem Aside.ne_LSTAT {off n : Nat} (h : Aside off) (hn : n < 8) : Reg.CLE_LSTAT n ≠ off := by
  unfold Aside at h
  unfold Reg.CLE_LSTAT
  omega

theorem Aside.ne_CLE {off : Nat} (h : Aside off) (g : Grp) :
    Reg.CLE_GSTAT g.ix ≠ off ∧ Reg.CLE_GEVT g.ix ≠ off ∧ Reg.CLE_DUPCNT g.ix ≠ off := by
  unfold Aside at h
  cases g <;> simp only [Reg.CLE_GSTAT, Reg.CLE_GEVT, Reg.CLE_DUPCNT, Grp.ix] <;> omega

theorem gevt_inj {e g : Grp} (h : Reg.CLE_GEVT e.ix = Reg.CLE_GEVT g.ix) : e = g := by
  cases e <;> cases g <;> simp [Reg.CLE_GEVT, Grp.ix] at h ⊢

theorem dupcnt_ne_cle (e g : Grp) :
    Reg.CLE_DUPCNT e.ix ≠ Reg.CLE_GSTAT g.ix ∧ Reg.CLE_DUPCNT e.ix ≠ Reg.CLE_GEVT g.ix := by
  cases e <;> cases g <;> decide

/-! The rules. -/

section
variable {ns : List Nat} {p q b : Part}

theorem Part.Firm.refl (ns : List Nat) (p : Part) : p.Firm ns p :=
  ⟨fun _ _ _ => rfl, fun _ => rfl, fun _ _ _ => rfl, fun _ => rfl, fun _ => rfl⟩

theorem Part.Firm.trans (h1 : p.Firm ns q) (h2 : q.Firm ns b) : p.Firm ns b where
  lane n hn h8 := (h1.lane n hn h8).trans (h2.lane n hn h8)
  mode g := (h1.mode g).trans (h2.mode g)
  event g i hi := (h1.event g i hi).trans (h2.event g i hi)
  count g := (h1.count g).trans (h2.count g)
  ruling g := (h1.ruling g).trans (h2.ruling g)

theorem Part.Firm.ite {c : Prop} [Decidable c] (hp : p.Firm ns b) (hq : q.Firm ns b) : (if c then p else q).Firm ns b := by
  split <;> assumption

section
variable (h : p.Firm ns b)
include h

theorem Part.Firm.mono {ms : List Nat} (hm : ∀ n ∈ ms, n ∈ ns) : p.Firm ms b :=
  { h with lane := fun n hn => h.lane n (hm n hn) }

theorem Part.Firm.setReg {off : Nat} {v : Word} (ha : Aside off) : (p.setReg off v).Firm ns b where
  lane n hn h8 := by rw [reg_setReg, if_neg (ha.ne_LSTAT h8), h.lane n hn h8]
  mode g := (gmode_of_reg (by rw [reg_setReg, if_neg (ha.ne_CLE g).1])).trans (h.mode g)
  event g i hi := by rw [bit, reg_setReg, if_neg (ha.ne_CLE g).2.1, ← bit, h.event g i hi]
  count g := by rw [reg_setReg, if_neg (ha.ne_CLE g).2.2, h.count g]
  ruling := h.ruling

/-- A field of CLE_GSTAT other than MODE. -/
theorem Part.Firm.setStat {g : Grp} {lo w n : Nat} (hw : lo + w ≤ 24) : (p.setFld (Reg.CLE_GSTAT g.ix) lo w n).Firm ns b where
  lane m hm h8 := by rw [reg_setFld, if_neg (lstat_ne_cle m g).1, h.lane m hm h8]
  mode e := (p.gmode_setFld_apart g e hw).trans (h.mode e)
  event e i hi := by rw [bit, reg_setFld, if_neg (gevt_ne_gstat e g), ← bit, h.event e i hi]
  count e := by rw [reg_setFld, if_neg (dupcnt_ne_cle e g).1, h.count e]
  ruling := h.ruling

/-- An event of a group other than MISMATCH and NOMAJ. -/
theorem Part.Firm.raise {g : Grp} {i : Nat} (hi : i ≠ 9 ∧ i ≠ 10 ∧ i < 32) : (p.raise (Reg.CLE_GEVT g.ix) i).Firm ns b where
  lane m hm h8 := by rw [Part.raise, reg_setBit, if_neg (lstat_ne_cle m g).2.1, h.lane m hm h8]
  mode e := (gmode_of_reg (by rw [Part.raise, reg_setBit, if_neg (gevt_ne_gstat g e).symm])).trans (h.mode e)
  event e k hk := by
    have hki : k ≠ i := by
      rintro rfl
      simp at hk
      omega
    rw [← h.event e k hk, Part.raise]
    by_cases he : e = g
    · rw [he, bit_setBit _ _ hi.2.2, if_neg hki]
    · exact p.bit_setBit_ne true (fun heq => he (gevt_inj heq))
  count e := by rw [Part.raise, reg_setBit, if_neg (dupcnt_ne_cle e g).2, h.count e]
  ruling := h.ruling

/-- CLE_LSTAT of a lane that is not listed. -/
theorem Part.Firm.setLstat {m lo w x : Nat} (hm : m ∉ ns) : (p.setFld (Reg.CLE_LSTAT m) lo w x).Firm ns b where
  lane n hn h8 := by
    rw [reg_setFld, if_neg, h.lane n hn h8]
    exact fun he => hm (lstat_inj he ▸ hn)
  mode g := (gmode_of_reg (by rw [reg_setFld, if_neg (lstat_ne_cle m g).1.symm])).trans (h.mode g)
  event g i hi := by rw [bit, reg_setFld, if_neg (lstat_ne_cle m g).2.1.symm, ← bit, h.event g i hi]
  count g := by rw [reg_setFld, if_neg (lstat_ne_cle m g).2.2.symm, h.count g]
  ruling := h.ruling

theorem Part.Firm.setCg {g : Grp} {c : CleGroup} (hc : c.ruling = (p.cg g).ruling) : (p.setCg g c).Firm ns b where
  lane := h.lane
  mode := h.mode
  event := h.event
  count := h.count
  ruling e := by
    rw [cg_setCg]
    split
    next he => rw [hc, he, h.ruling]
    · exact h.ruling e

section
variable {now : Instant} {freeCount opCount : Nat} {bus : BusState} {commits : List PendCommit} {joint : Option JointCommit}
  {log : List LogEntry} {lanes : Vector Lane 8} {gpioTask : Word} {mem : MemState} {lib : SeqLib}
  {out : List OutMsg} {sense : SenseState} {pwm : PwmState} {pos : Vector PosIf 4} {ramps : Vector RampCh 16}
  {core : CoreState} {cyc : CycState} {ops : Vector OpSlot 8} {rsvLog : List RsvEntry} {pair_ : PairState} {ring : RingState}
  {time : TimeState} {cap : CapState} {safe : SafeState} {measLog : List MeasEntry} {health : HealthState}
  {trust : TrustState} {clk : ClkState} {eth : EthState}

/-- A change of anything but registers and groups. -/
theorem Part.Firm.frame :
    ({ now, freeCount, regs := p.regs, bus, commits, joint, log, lanes, cle := p.cle, gpioTask, mem, lib, out, sense, pwm, pos,
       ramps, core, cyc, ops, opCount, rsvLog, pair_, ring, time, cap, safe, measLog, health, trust, clk, eth } : Part).Firm
      ns b :=
  ⟨h.lane, h.mode, h.event, h.count, h.ruling⟩

end

theorem Part.Firm.foldl {α : Type} {f : Part → α → Part} {l : List α} (hf : ∀ q, ∀ a ∈ l, q.Firm ns b → (f q a).Firm ns b) :
    (l.foldl f p).Firm ns b := by
  induction l generalizing p with
  | nil => exact h
  | cons a l ih => exact ih (hf p a (by simp) h) (fun q x hx => hf q x (List.mem_cons_of_mem a hx))

theorem Part.Firm.each {α : Type} {f : Part → α → Part} {l : List α} (hf : ∀ q, ∀ a ∈ l, q.Firm ns b → (f q a).Firm ns b) :
    (p.each l f).Firm ns b := h.foldl hf

theorem Part.Firm.when {c : Bool} {f : Part → Part} (hf : ∀ q, q.Firm ns b → (f q).Firm ns b) : (p.when c f).Firm ns b :=
  .ite (hf _ h) h

end

theorem Part.Firm.foldlFst {α β : Type} {f : Part × α → β → Part × α} {x : Part × α} (h : x.1.Firm ns b)
    (hf : ∀ x b', x.1.Firm ns b → (f x b').1.Firm ns b) {l : List β} : (l.foldl f x).1.Firm ns b := by
  induction l generalizing x with
  | nil => exact h
  | cons y l ih => exact ih (hf x y h)

end

/-- A lane in service stands below 8, shows so and belongs to the group. -/
theorem Part.mem_members {p : Part} {g : Grp} {n : Nat} :
    n ∈ p.members g ↔ n < 8 ∧ p.laneState n = 1 ∧ p.laneGrp n = g := by
  simp [Part.members]

/-- Where every lane stands as it was the groups have the same lanes in service. -/
theorem Part.members_of_reg {p b : Part} (h : ∀ n < 8, p.reg (Reg.CLE_LSTAT n) = b.reg (Reg.CLE_LSTAT n)) (g : Grp) :
    p.members g = b.members g := by
  refine List.filter_congr fun n hn => ?_
  have hreg := h n (List.mem_range.1 hn)
  rw [Part.laneState_of_reg hreg, Part.laneGrp_of_reg hreg]

theorem Part.Firm.members {p b : Part} (h : p.Firm (List.range 8) b) (g : Grp) : p.members g = b.members g :=
  Part.members_of_reg (fun n hn => h.lane n (List.mem_range.2 hn) hn) g

/-! The operations. -/

section
variable {ns : List Nat} {p b : Part} (h : p.Firm ns b)
include h

theorem Part.Firm.setFld {off lo w n : Nat} (ha : Aside off) : (p.setFld off lo w n).Firm ns b := h.setReg ha

theorem Part.Firm.raiseAside {off i : Nat} (ha : Aside off) : (p.raise off i).Firm ns b := h.setReg ha

theorem Part.Firm.setLane {n : Nat} {l : Lane} : (p.setLane n l).Firm ns b := h.frame

theorem Part.Firm.showGroup {g : Grp} : (p.showGroup g).Firm ns b :=
  ((((h.setStat (by decide)).setStat (by decide)).setStat (by decide)).setStat (by decide)).setStat (by decide)

theorem Part.Firm.votedDuty {g : Grp} {q : Nat} {sel : Bool} {x : Word} : (p.votedDuty g q sel x).Firm ns b := by
  refine .ite (h.setReg (by simp)) (.ite (h.setReg (by simp)) (h.setReg ?_))
  cases sel <;> simp

theorem Part.Firm.applyWord {g : Grp} {w : VoteWord} : (p.applyWord g w).Firm ns b := by
  dsimp only [Part.applyWord]
  split
  · exact h
  · exact .ite ((h.when fun _ hq => .ite (hq.raiseAside (by simp)) (hq.raiseAside (by simp))).setCg (by rfl))
      (.ite h (Part.Firm.votedDuty (.ite (h.raise (by decide)) h)))

theorem Part.Firm.noteEnd {g : Grp} {t : Instant} : (p.noteEnd g t).Firm ns b := (h.setFld (by simp)).setFld (by simp)

theorem Part.Firm.gridWrites {g : Grp} {x : GridState} : (p.gridWrites g x).Firm ns b :=
  h.each fun _ _ _ hq => .ite (.ite hq.votedDuty.votedDuty hq.votedDuty) hq.votedDuty.votedDuty

theorem Part.Firm.gridFinish {g : Grp} : (p.gridFinish g).Firm ns b :=
  .ite h ((h.setCg (by rfl)).setCg (by rfl)).gridWrites

theorem Part.Firm.restoreHold {g : Grp} : (p.restoreHold g).Firm ns b :=
  h.each fun _ _ _ hq => (hq.setReg (by simp)).setReg (by simp)

theorem Part.Firm.opErr? {err : Nat} {o : Option Nat} : (p.opErr? err o).Firm ns b := by
  cases o with
  | none => exact h
  | some k => exact ((h.setFld (by simp)).setFld (by simp)).setFld (by simp)

/-- A loading is abandoned: the lane that loaded is none of those listed. -/
theorem Part.Firm.abandonLoad {g : Grp} (hns : ∀ n ∈ ns, p.laneState n ≠ 5) : (p.abandonLoad g).Firm ns b := by
  dsimp only [Part.abandonLoad]
  split
  · exact h
  next x hx =>
    refine .showGroup (.opErr? (.setCg ?_ (by rfl)))
    by_cases h5 : p.laneState x.lane = 5
    · rw [Part.when_true (decide_eq_true h5)]
      exact h.setLstat fun hm => hns _ hm h5
    · rw [Part.when_false (decide_eq_false h5)]
      exact h

theorem Part.Firm.noteRetire {cls unit cause : Nat} : (p.noteRetire cls unit cause).Firm ns b :=
  (Part.Firm.frame h).raiseAside (by simp)

theorem Part.Firm.retireLane {n cause : Nat} (hn : n ∉ ns) : (p.retireLane n cause).Firm ns b := by
  rw [Part.retireLane_eq]
  exact (Part.Firm.setLstat (.ite (h.raise (by decide)) h) hn).noteRetire

theorem Part.Firm.settleMasked {n : Nat} (hn : n ∉ ns) : (p.settleMasked n).Firm ns b := by
  have bist (l : Lane) : (((p.setLane n l).setTime (Reg.CLE_LWIN_LO n) p.ringNow).setLaneState n 3).Firm ns b :=
    .setLstat ((h.setLane.setReg aside_LWIN.1).setReg aside_LWIN.2) hn
  refine .ite (h.retireLane hn) ?_
  split
  · exact .ite (h.retireLane hn) (bist _)
  · exact bist _

theorem Part.Firm.copyRegisters {g : Grp} : (p.copyRegisters g).Firm ns b := by
  dsimp only [Part.copyRegisters]
  split
  · exact .ite (h.setLane.setCg (by rfl)) h
  · exact h

/-- A replacement is chosen among the lanes that are SPARE, and so none of those listed. -/
theorem Part.Firm.chooseSpare {g : Grp} (hns : ∀ n ∈ ns, p.laneState n ≠ 4) : (p.chooseSpare g).Firm ns b := by
  unfold Part.chooseSpare
  extract_lets c p1
  have h1 : p1.Firm ns b := h.setCg (by rfl)
  refine .ite h ?_
  split
  next n cause r hw hr =>
    have h4 : p1.laneState r = 4 := by simpa using List.find?_some hr
    have hr' : r ∉ ns := fun hm => hns r hm h4
    exact .ite (((h1.setLstat hr').setLstat hr').setCg (by rfl)).showGroup h1
  · exact h1

theorem Part.Firm.requestCut {g : Grp} {t0 : Option Instant} : (p.requestCut g t0).Firm ns b := Part.Firm.frame h

theorem Part.Firm.setCapUnit {u : Nat} {x : CapUnit} : (p.setCapUnit u x).Firm ns b := Part.Firm.frame h

theorem Part.Firm.capShow {u : Nat} : (p.capShow u).Firm ns b := h.setReg (by simp)

theorem Part.Firm.takeBuf {u : Nat} : (p.takeBuf u).Firm ns b := by
  dsimp only [Part.takeBuf]
  split
  · exact h.setCapUnit
  · exact (Part.Firm.frame h).setCapUnit

theorem Part.Firm.capFire {tr : Nat} {t : Instant} {u : Nat} : (p.capFire tr t u).Firm ns b := by
  have hbuf : (p.when (p.capUnit u).buf.isNone (·.takeBuf u)).Firm ns b := h.when fun _ hq => hq.takeBuf
  refine .ite h ?_
  dsimp only
  split
  · exact .ite hbuf.setCapUnit hbuf.setCapUnit
  · exact .ite ((hbuf.setReg (by simp)).raiseAside (by simp)) (.ite hbuf hbuf.setCapUnit)

theorem Part.Firm.trigFire {tr : Nat} {t : Instant} : (p.trigFire tr t).Firm ns b :=
  .capShow (.capShow (.capFire (.capFire
    ((((h.setFld (by simp)).setReg (by simp)).setReg (by simp)).setReg (by simp)))))

theorem Part.Firm.setTrig {tr : Nat} {x : TrigUnit} : (p.setTrig tr x).Firm ns b :=
  (Part.Firm.frame h).setFld (by simp)

theorem Part.Firm.capLevel {src : Nat} {t : Instant} {v : Word} : (p.capLevel src t v).Firm ns b := by
  unfold Part.capLevel
  extract_lets t on r
  have hr : r.1.Firm ns b := .foldlFst h fun _ _ hq => by dsimp only; exact hq.setTrig
  clear_value r
  exact hr.each fun _ _ _ hq => hq.trigFire

theorem Part.Firm.capEvent {src : Nat} {t : Instant} : (p.capEvent src t).Firm ns b := h.each fun _ _ _ hq => hq.trigFire

theorem Part.Firm.publish {g : Grp} : (p.publish g).Firm ns b :=
  (h.each fun _ _ hk hq => hq.setReg (aside_EP (List.mem_range.1 hk))).each
    fun _ _ _ hq => hq.when fun _ hr => hr.capLevel

theorem Part.Firm.captureSample {g : Grp} : (p.captureSample g).Firm ns b :=
  .ite h (.ite (h.setCg (by rfl)) (.ite h ((h.setCg (by rfl)).setFld (by simp))))

theorem Part.Firm.correlateSample {g : Grp} : (p.correlateSample g).Firm ns b := .ite h (h.setCg (by rfl))

theorem Part.Firm.scanCorrelate {g : Grp} : (p.scanCorrelate g).Firm ns b := by
  unfold Part.scanCorrelate
  extract_lets c
  split
  · extract_lets _ _ _ acc
    clear_value acc
    exact .ite h (h.setCg (by rfl))
  · exact h

theorem Part.Firm.gapWrites {g : Grp} {x : Exchange} : (p.gapWrites g x).Firm ns b := h.each fun _ _ _ hq => hq.setLane

theorem Part.Firm.gapDecide {g : Grp} : (p.gapDecide g).Firm ns b := by
  dsimp only [Part.gapDecide]
  split
  · exact h
  · exact .ite h (.ite ((h.setCg (by rfl)).setFld (by simp)) (h.gapWrites.setCg (by rfl)))

theorem Part.Firm.sendMirror {g : Grp} : (p.sendMirror g).Firm ns b := .ite (Part.Firm.frame h) (Part.Firm.frame h)

theorem Part.Firm.applyMirror {g : Grp} {f : MirrorFrame} : (p.applyMirror g f).Firm ns b := by
  refine .setReg (Part.Firm.frame (.setCg (.setReg (.setReg (.each (.each (.each h ?_) ?_) ?_) ?_) ?_) (by rfl))) (by simp)
  · exact fun _ _ _ hq => hq.setLane
  · exact fun _ _ _ hq => Part.Firm.frame hq
  · exact fun _ _ hk hq => hq.setReg (aside_SPW (List.mem_range.1 hk))
  · simp
  · simp

theorem Part.Firm.compareMirror {g : Grp} {f : MirrorFrame} : (p.compareMirror g f).Firm ns b := by
  dsimp only [Part.compareMirror]
  split
  · exact .ite h ((h.setFld (by simp)).raiseAside (by simp))
  · exact h

theorem Part.Firm.mirrorAtEnd {g : Grp} : (p.mirrorAtEnd g).Firm ns b := by
  dsimp only [Part.mirrorAtEnd]
  split
  · exact .ite (Part.Firm.frame h).compareMirror.applyMirror
      ((Part.Firm.setFld (Part.Firm.frame (Part.Firm.frame h)) (by simp)).raiseAside (by simp))
  · exact Part.Firm.frame h

end

end Sys2Proof.Machine
end

section
/-! PROOFS. The voter (R113, R121) and the close of the duty window (R18). -/

namespace Sys2Proof.Machine

/-! A lane that is outvoted. -/

section
variable {p : Part} {g : Grp} {n : Nat}

/-- The part once a lane is outvoted, before CLE_GSTAT is shown. -/
def Part.outvoted (p : Part) (g : Grp) (n : Nat) : Part :=
  (((((p.setLaneState n 2).raise (Reg.CLE_GEVT g.ix) 9).countSat (Reg.CLE_LSTAT n) 16 8).onLane n
    (fun l => { l with outvoted := true })).onCg g (fun c => { c with want := some (n, 1) }))

theorem Part.outvote_eq (p : Part) (g : Grp) (n : Nat) : p.outvote g n = (p.outvoted g n).showGroup g := rfl

theorem Part.outvote_shown (p : Part) (g : Grp) (n : Nat) :
    RegsOnly (p.outvoted g n) (p.outvote g n) [Reg.CLE_GSTAT g.ix] := by
  rw [Part.outvote_eq]
  exact Part.showGroup_regsOnly _ _

theorem Part.reg_outvote_ne {m : Nat} (h : m ≠ n) :
    (p.outvote g n).reg (Reg.CLE_LSTAT m) = p.reg (Reg.CLE_LSTAT m) := by
  have hne : Reg.CLE_LSTAT m ≠ Reg.CLE_LSTAT n := fun he => h (lstat_inj he)
  rw [(p.outvote_shown g n).2 _ (by simpa using (lstat_ne_cle m g).1), Part.outvoted, Part.reg_onCg, Part.reg_onLane,
    Part.countSat, Part.reg_setFld, if_neg hne, Part.raise, Part.reg_setBit, if_neg (lstat_ne_cle m g).2.1,
    Part.reg_setLaneState_ne _ _ h]

/-- The lane is masked. -/
theorem Part.outvote_lane (p : Part) (g : Grp) (n : Nat) : (p.outvote g n).laneState n = 2 := by
  have hreg := (p.outvote_shown g n).2 _ (by simpa using (lstat_ne_cle n g).1)
  rw [Part.laneState_of_reg hreg, Part.outvoted, Part.laneState_onCg, Part.laneState_of_reg (Part.reg_onLane _ _ _),
    Part.countSat, (Part.setLstat_state _ _ _ (by decide) (by decide)).1, Part.raise, Part.setBit, Part.laneState,
    Part.fld_setFld_ne _ _ _ _ _ _ (lstat_ne_cle n g).2.1, ← Part.laneState, Part.laneState_setLaneState _ _ (by decide)]

theorem Part.outvote_event (p : Part) (g : Grp) (n : Nat) : (p.outvote g n).bit (Reg.CLE_GEVT g.ix) 9 = true := by
  rw [Part.bit, (p.outvote_shown g n).2 _ (by simpa using gevt_ne_gstat g g), Part.outvoted, Part.reg_onCg, Part.reg_onLane,
    Part.countSat, Part.reg_setFld, if_neg (lstat_ne_cle n g).2.1.symm, ← Part.bit, Part.raise,
    Part.bit_setBit_same _ _ _ _ (by decide)]

/-- The words and the signatures of the lanes stand, and so does the voter. -/
theorem Part.outvote_frame (p : Part) (g : Grp) (n : Nat) :
    (∀ m, ((p.outvote g n).lane m).out = (p.lane m).out) ∧
      (∀ e, ((p.outvote g n).cg e).voter = (p.cg e).voter ∧ ((p.outvote g n).cg e).ruling = (p.cg e).ruling) := by
  obtain ⟨hcg, hlane⟩ := (p.outvote_shown g n).cg_lane
  refine ⟨fun m => ?_, fun e => ?_⟩
  · rw [hlane, Part.outvoted, Part.lane_onCg, Part.onLane, Part.lane_setLane]
    simp only [Part.countSat, Part.raise, Part.setLaneState, Part.lane_setFld, Part.lane_setBit]
    split
    next h => rw [h.1]
    · rfl
  · rw [hcg, Part.outvoted, Part.cg_onCg, Part.onLane]
    simp only [Part.countSat, Part.raise, Part.setLaneState, Part.cg_setFld, Part.cg_setBit, Part.cg_setLane]
    split
    next h =>
      rw [h]
      exact ⟨rfl, rfl⟩
    · exact ⟨rfl, rfl⟩

end

/-! Masking the lanes that differ. -/

/-- Mask a lane where its words differ from the decided ones. -/
def Part.maskOne (p : Part) (g : Grp) (n : Nat) : Part :=
  if (p.lane n).differs (p.cg g).voter.decided then p.outvote g n else p

theorem Part.maskDiffering_eq (p : Part) (g : Grp) : p.maskDiffering g = p.each (p.members g) (·.maskOne g) := rfl

theorem Part.maskOne_frame (p : Part) (g : Grp) (n : Nat) :
    (∀ m, ((p.maskOne g n).lane m).out = (p.lane m).out) ∧ ((p.maskOne g n).cg g).voter = (p.cg g).voter := by
  unfold Part.maskOne
  split
  · exact ⟨(p.outvote_frame g n).1, ((p.outvote_frame g n).2 g).1⟩
  · exact ⟨fun _ => rfl, rfl⟩

theorem Part.reg_maskOne_ne {p : Part} {g : Grp} {n m : Nat} (h : m ≠ n) :
    (p.maskOne g n).reg (Reg.CLE_LSTAT m) = p.reg (Reg.CLE_LSTAT m) := by
  unfold Part.maskOne
  split
  · exact Part.reg_outvote_ne h
  · rfl

/-- MISMATCH, once set, stays set while lanes are masked. -/
theorem Part.maskEach_event {p : Part} {g : Grp} (l : List Nat) (h : p.bit (Reg.CLE_GEVT g.ix) 9 = true) :
    (p.each l (·.maskOne g)).bit (Reg.CLE_GEVT g.ix) 9 = true := by
  induction l generalizing p with
  | nil => exact h
  | cons a l ih =>
    refine ih (p := p.maskOne g a) ?_
    unfold Part.maskOne
    split
    · exact p.outvote_event g a
    · exact h

theorem Part.reg_maskEach_notMem {p : Part} {g : Grp} {l : List Nat} {n : Nat} (hn : n ∉ l) :
    (p.each l (·.maskOne g)).reg (Reg.CLE_LSTAT n) = p.reg (Reg.CLE_LSTAT n) := by
  induction l generalizing p with
  | nil => rfl
  | cons a l ih =>
    obtain ⟨ha, hl⟩ := not_or.1 (mt List.mem_cons.2 hn)
    exact (ih hl).trans (Part.reg_maskOne_ne ha)

theorem Lane.differs_of_out {l m : Lane} (h : l.out = m.out) (d : List (Option VoteWord)) : l.differs d = m.differs d := by
  rw [Lane.differs, Lane.differs, h]

/-- A lane of the list is masked where its words differ, and left alone where they do not. -/
theorem Part.maskEach_mem {p : Part} {g : Grp} {l : List Nat} (hl : l.Nodup) {n : Nat} (hn : n ∈ l) :
    ((p.lane n).differs (p.cg g).voter.decided = true → (p.each l (·.maskOne g)).laneState n = 2 ∧
      (p.each l (·.maskOne g)).bit (Reg.CLE_GEVT g.ix) 9 = true) ∧
    ((p.lane n).differs (p.cg g).voter.decided = false →
      (p.each l (·.maskOne g)).reg (Reg.CLE_LSTAT n) = p.reg (Reg.CLE_LSTAT n)) := by
  induction l generalizing p with
  | nil => exact absurd hn List.not_mem_nil
  | cons a l ih =>
    obtain ⟨ha, hl⟩ := List.nodup_cons.1 hl
    change (_ → ((p.maskOne g a).each l (·.maskOne g)).laneState n = 2 ∧
        ((p.maskOne g a).each l (·.maskOne g)).bit _ 9 = true) ∧
      (_ → ((p.maskOne g a).each l (·.maskOne g)).reg _ = _)
    by_cases hna : n = a
    · subst hna
      refine ⟨fun hd => ?_, fun hd => ?_⟩ <;> rw [Part.maskOne, hd]
      · rw [if_pos rfl]
        exact ⟨(Part.laneState_of_reg (Part.reg_maskEach_notMem ha)).trans (p.outvote_lane g n),
          Part.maskEach_event l (p.outvote_event g n)⟩
      · exact Part.reg_maskEach_notMem ha
    · obtain ⟨hout, hvoter⟩ := p.maskOne_frame g a
      have hrest := ih hl ((List.mem_cons.1 hn).resolve_left hna) (p := p.maskOne g a)
      rw [hvoter, Lane.differs_of_out (hout n), Part.reg_maskOne_ne hna] at hrest
      exact hrest

/-- Where no lane differs nothing is masked. -/
theorem Part.maskDiffering_same {p : Part} {g : Grp}
    (h : ∀ n ∈ p.members g, (p.lane n).differs (p.cg g).voter.decided = false) : p.maskDiffering g = p := by
  rw [Part.maskDiffering_eq]
  generalize p.members g = l at h
  induction l with
  | nil => rfl
  | cons a l ih =>
    have hone : p.maskOne g a = p := if_neg (by simp [h a List.mem_cons_self])
    exact (congrArg (fun q : Part => q.each l (·.maskOne g)) hone).trans
      (ih fun n hn => h n (List.mem_cons_of_mem a hn))

/-- One more word is decided: a lane differs from it where the lane's word there is another. -/
theorem Lane.differs_decided (l : Lane) (d : List (Option VoteWord)) (w : VoteWord) :
    l.differs (d ++ [some w]) = (l.differs d || (l.out[d.length]?).any (fun x => x ≠ w)) := by
  unfold Lane.differs
  generalize l.out = o
  induction d generalizing o with
  | nil => cases o <;> simp
  | cons a d ih =>
    cases o with
    | nil => simp
    | cons x o =>
      simp only [List.cons_append, List.zip_cons_cons, List.any_cons, List.length_cons, List.getElem?_cons_succ, ih,
        Bool.or_assoc]

/-! One word. -/

section
variable {p : Part} {g : Grp}

/-- The words of the lanes in service at the voter's position. -/
def Part.wordsAt (p : Part) (g : Grp) : List VoteWord :=
  (p.members g).filterMap (fun n => (p.lane n).out[(p.cg g).voter.decided.length]?)

/-- The part once the voter has decided a word, before it takes effect. -/
def Part.decided (p : Part) (g : Grp) (d : Option VoteWord) (bad : Bool) : Part :=
  p.onCg g (fun c => { c with voter := { decided := c.voter.decided ++ [d], noMaj := c.voter.noMaj || bad } })

theorem Part.voteWord_closed {final : Bool} (h : (p.cg g).open_ = false) : p.voteWord g final = p := by
  simp [Part.voteWord, h]

section
variable (ho : (p.cg g).open_ = true) (hsame : ∀ n ∈ p.members g, (p.lane n).differs (p.cg g).voter.decided = false)
include ho hsame

theorem Part.voteWord_agreed {final : Bool} {w : VoteWord} (hw : agreed (p.wordsAt g) = some w) :
    p.voteWord g final = ((p.decided g (some w) false).applyWord g w).maskDiffering g := by
  rw [Part.wordsAt] at hw
  simp only [Part.voteWord, ho, Part.maskDiffering_same hsame, hw]
  rfl

theorem Part.voteWord_split (hw : agreed (p.wordsAt g) = none) (h2 : 2 ≤ (p.members g).length)
    (hall : (p.wordsAt g).length = (p.members g).length) : p.voteWord g false = p.decided g none true := by
  rw [Part.wordsAt] at hw hall
  simp only [Part.voteWord, ho, Part.maskDiffering_same hsame, hw, hall, h2]
  rfl

end

theorem Part.applyWord_none {w : VoteWord} (h : w.val = none) : p.applyWord g w = p := by
  simp only [Part.applyWord, h]

/-- An integer or an angle goes into its port as it is. -/
theorem Part.applyWord_export {w : VoteWord} {k : Nat} {x : Word} (hv : w.val = some x) (hk : k < 64)
    (ha : w.addr = 0x10000 + k) (ht : p.epType g k ≠ 0) :
    p.applyWord g w = p.onCg g (fun c => { c with ep := sSet (fun _ => 0) c.ep k x }) := by
  have haddr : w.addr < 0x10100 := by omega
  have hport : w.addr - 0x10000 = k := by omega
  simp only [Part.applyWord, hv, haddr, hport, ht, if_true, decide_false, Bool.false_and, Bool.false_eq_true, if_false,
    Part.when_false]

theorem Part.votedDuty_regsOnly (p : Part) (g : Grp) (q : Nat) (sel : Bool) (x : Word) :
    RegsOnly p (p.votedDuty g q sel x) [Reg.PWM_TBSTAT g.ix, Reg.PWM_CMPA q, Reg.PWM_CMPB q] := by
  unfold Part.votedDuty
  split
  · exact .mono .setFld (by simp)
  · split
    · exact .mono (.setReg _ _ _) (by simp)
    · exact .mono (.setReg _ _ _) (by cases sel <;> simp)

/-- A word that takes effect leaves the lanes and the voter. -/
theorem Part.applyWord_frame (p : Part) (g : Grp) (w : VoteWord) :
    (∀ n, (p.applyWord g w).lane n = p.lane n) ∧ ((p.applyWord g w).cg g).voter = (p.cg g).voter := by
  cases hv : w.val with
  | none =>
    rw [Part.applyWord_none hv]
    exact ⟨fun _ => rfl, rfl⟩
  | some x =>
    simp only [Part.applyWord, hv]
    split
    · generalize hq : Part.when p _ _ = q
      have hframe : ∃ l, RegsOnly p q l := by
        subst hq
        unfold Part.when
        split
        · split
          · exact ⟨_, .setFld⟩
          · exact ⟨_, .setFld⟩
        · exact ⟨[], .refl _ _⟩
      obtain ⟨l, hl⟩ := hframe
      exact ⟨fun n => (Part.lane_onCg _ _ n).trans (hl.cg_lane.2 n),
        by rw [Part.cg_onCg, if_pos rfl, hl.cg_lane.1]⟩
    · split
      · exact ⟨fun _ => rfl, rfl⟩
      · have hraise := (RegsOnly.raiseIf (p := p) (c := fpIsNan x) (a := Reg.CLE_GEVT g.ix) (i := 5)).cg_lane
        exact ⟨fun n => ((Part.votedDuty_regsOnly _ g _ _ _).cg_lane.2 n).trans (hraise.2 n),
          by rw [(Part.votedDuty_regsOnly _ g _ _ _).cg_lane.1, hraise.1]⟩

end

/-! The rows. -/

section
variable {p : Part} {g : Grp}

theorem Part.decided_voter (p : Part) (g : Grp) (d : Option VoteWord) (bad : Bool) :
    ((p.decided g d bad).cg g).voter.decided = (p.cg g).voter.decided ++ [d] := by
  rw [Part.decided, Part.cg_onCg, if_pos rfl]

theorem Part.epType_decided (p : Part) (g : Grp) (d : Option VoteWord) (bad : Bool) (k : Nat) :
    (p.decided g d bad).epType g k = p.epType g k := by
  simp only [Part.epType, Part.img, Part.decided, Part.cg_onCg, if_pos]

/-- Once a word is decided, the lanes that gave another one differ. -/
theorem Part.differs_decided {q : Part} {w : VoteWord} (hlane : ∀ n, q.lane n = p.lane n)
    (hvoter : (q.cg g).voter.decided = (p.cg g).voter.decided ++ [some w]) {n : Nat}
    (hsame : (p.lane n).differs (p.cg g).voter.decided = false) :
    (q.lane n).differs (q.cg g).voter.decided =
      ((p.lane n).out[(p.cg g).voter.decided.length]?).any (fun x => x ≠ w) := by
  rw [hlane, hvoter, Lane.differs_decided, hsame, Bool.false_or]

/-- No word of the lanes differs from the one decided. -/
theorem Part.wordsAt_all {w : VoteWord} (h : ∀ x ∈ p.wordsAt g, x = w) {n : Nat} (hn : n ∈ p.members g) :
    ((p.lane n).out[(p.cg g).voter.decided.length]?).any (fun x => x ≠ w) = false := by
  cases hx : (p.lane n).out[(p.cg g).voter.decided.length]? with
  | none => rfl
  | some x => simpa using h x (List.mem_filterMap.2 ⟨n, hn, hx⟩)

section
variable (ho : (p.cg g).open_ = true) (hsame : ∀ n ∈ p.members g, (p.lane n).differs (p.cg g).voter.decided = false)
  {w : VoteWord} (hw : agreed (p.wordsAt g) = some w)
include ho hsame hw

/-- Where every lane gives the word that is decided, its effect alone remains. -/
theorem Part.voteWord_unanimous (hall : ∀ x ∈ p.wordsAt g, x = w)
    (hmem : ((p.decided g (some w) false).applyWord g w).members g = p.members g) :
    p.voteWord g false = (p.decided g (some w) false).applyWord g w := by
  obtain ⟨hlane, hvoter⟩ := (p.decided g (some w) false).applyWord_frame g w
  rw [Part.voteWord_agreed ho hsame hw]
  refine Part.maskDiffering_same fun n hn => ?_
  rw [hmem] at hn
  rw [Part.differs_decided (p := p) (w := w) hlane (by rw [hvoter, Part.decided_voter]) (hsame n hn), Part.wordsAt_all hall hn]

/-- A lane that gave another word is masked, and one that gave this word is not. -/
theorem Part.voteWord_lane {n : Nat} (hn : n ∈ p.members g) {x : VoteWord}
    (hx : (p.lane n).out[(p.cg g).voter.decided.length]? = some x) :
    (x ≠ w → (p.voteWord g false).laneState n = 2 ∧ (p.voteWord g false).bit (Reg.CLE_GEVT g.ix) 9 = true) ∧
      (x = w → (p.voteWord g false).laneState n = 1) := by
  obtain ⟨hlane, hvoter⟩ := (p.decided g (some w) false).applyWord_frame g w
  have hfirm : ((p.decided g (some w) false).applyWord g w).Firm (List.range 8) p :=
    ((Part.Firm.refl _ p).setCg (by rfl)).applyWord
  have hmem : ((p.decided g (some w) false).applyWord g w).members g = p.members g := hfirm.members g
  have hdiff := Part.differs_decided (p := p) (w := w) hlane (by rw [hvoter, Part.decided_voter]) (hsame n hn)
  rw [hx, Option.any_some] at hdiff
  obtain ⟨hmask, hleave⟩ := Part.maskEach_mem (p := (p.decided g (some w) false).applyWord g w) (p.members_nodup g) hn
  rw [Part.voteWord_agreed ho hsame hw, Part.maskDiffering_eq, hmem]
  refine ⟨fun hne => hmask (hdiff.trans (by simpa using hne)), fun he => ?_⟩
  rw [Part.laneState_of_reg (hleave (hdiff.trans (by simpa using he))),
    Part.laneState_of_reg (hfirm.lane n (List.mem_range.2 (Part.lt_of_mem_members hn)) (Part.lt_of_mem_members hn))]
  exact (Part.mem_members.1 hn).2.1

end

end

theorem exec_pwmWindowClose (g : Grp) (s : State) : exec (.pwmWindowClose g) s = s.run (fun p =>
    p.when (p.groupRuns g) (·.onCg g (fun c => { c with winClosed := true }))) := by rfl

/-- Settles O18: a lemma for each way that a word ends: agreed by all, agreed against a lane, and split. -/
theorem voterWord : Obligations.VoterWord := by
  unfold Obligations.VoterWord
  intro g s h c ms i ws taken same
  have vote {P : Part → Prop} (hP : P (s.part.voteWord g false)) : Does (.voterWord g) s P :=
    .of_run (f := (·.voteWord g false)) rfl h hP
  refine ⟨fun ho => .of_run (f := (·.voteWord g false)) rfl (Part.voteWord_closed ho), fun w ho hs hw hall hv => vote ?silent,
    fun w k x ho hs hw hall hv hk ha ht => vote ?port, fun w ho hs hw => vote fun n hn x hx => Part.voteWord_lane ho hs hw hn hx,
    fun ho hs hw h2 hl => vote (Part.voteWord_split ho hs hw h2 hl), fun hr => .of_run (exec_pwmWindowClose g s) h
      (Part.when_true hr), fun hr => .of_run (exec_pwmWindowClose g s) (Part.when_false hr)⟩
  case silent =>
    have heff := Part.applyWord_none (p := s.part.decided g (some w) false) (g := g) hv
    rw [Part.voteWord_unanimous ho hs hw hall (by rw [heff]; rfl), heff]
    rfl
  case port =>
    have heff := Part.applyWord_export (p := s.part.decided g (some w) false) (g := g) hv hk ha
      (by rwa [Part.epType_decided])
    rw [Part.voteWord_unanimous ho hs hw hall (by rw [heff]; rfl), heff]
    rfl

end Sys2Proof.Machine
end

section
/-! PROOFS. The admittance self-scan (R133 to R136): its starts, its end, and the exchange that a retune or a revert arms. -/

namespace Sys2Proof.Machine

section
variable {p b : Part} {g : Grp}

/-! SCAN_PERIOD_EXPIRY. -/

/-- Whether a scan is to start in the background (R136). -/
def Part.scanDue (p : Part) (g : Grp) (t : Instant) : Bool :=
  (p.cg g).scan.bg && (p.cg g).scan.run.isNone && p.gridRuns g && (p.opHolding (resOf 3 g.ix)).isNone
    && (scanFault (p.scanWords g) (p.reg (Reg.CLE_INJAMAX g.ix))).isNone
    && (p.cg g).scan.startAt + fpSeconds ((p.scanWords g).getD 1 0) ≤ t

/-- What SCAN_PERIOD_EXPIRY does. -/
def Part.scanPeriod (p : Part) (g : Grp) (t : Instant) : Part :=
  if p.scanDue g t then (if bitAt ((p.scanWords g).getD 0 0) 0 then p.scanStart g none t else p.scanDrop g) else p

theorem exec_scanPeriodExpiry (g : Grp) (t : Instant) (s : State) :
    exec (.scanPeriodExpiry g t) s = s.run (·.scanPeriod g t) := by rfl

/-- Before the period has passed, and with settings out of range, nothing starts. -/
theorem Part.scanPeriod_idle {t : Instant} (h : t < (p.cg g).scan.startAt + fpSeconds ((p.scanWords g).getD 1 0) ∨
    (scanFault (p.scanWords g) (p.reg (Reg.CLE_INJAMAX g.ix))).isSome = true) : p.scanPeriod g t = p := by
  have hdue : p.scanDue g t = false := by
    rcases h with h | h
    · have hnot : ¬ (p.cg g).scan.startAt + fpSeconds ((p.scanWords g).getD 1 0) ≤ t := Nat.not_le.2 h
      rw [Part.scanDue, decide_eq_false hnot, Bool.and_false]
    · simp [Part.scanDue, Option.isSome_iff_ne_none.1 h]
  rw [Part.scanPeriod, hdue, if_neg Bool.false_ne_true]

/-! The exchange that a retune arms (R135, R140). -/

/-- From `b` to `p` a coefficient exchange was armed for the coming tick: the scan and the generator of the group, the memory
and the queue of the event log are as they were. -/
structure Part.Armed (p : Part) (g : Grp) (b : Part) : Prop where
  run : (p.cg g).scan.run = (b.cg g).scan.run
  probe : (p.cg g).probe = (b.cg g).probe
  exch : ∃ x, (p.cg g).exch = some x ∧ x.coefOnly = true ∧ x.at? = none
  status : p.fld (Reg.CLE_XSTAT g.ix) 0 4 ∈ [4, 5]
  queue : p.reg (Reg.QUE_CFG 30) = b.reg (Reg.QUE_CFG 30)
  mem : p.mem = b.mem

theorem xstat_ne (g : Grp) : Reg.QUE_CFG 30 ≠ Reg.CLE_XSTAT g.ix ∧ Reg.QUE_CFG 30 ≠ Reg.CLE_GSTAT g.ix ∧
    Reg.CLE_XSTAT g.ix ≠ Reg.CLE_GSTAT g.ix := by
  cases g <;> decide

/-- The writes of the gap go into lanes alone. -/
theorem Part.gapWrites_frame (p : Part) (g : Grp) (x : Exchange) :
    p.gapWrites g x = { p with lanes := (p.gapWrites g x).lanes } := by
  unfold Part.gapWrites
  generalize p.serving g = l
  induction l generalizing p with
  | nil => rfl
  | cons n l ih => exact ih (p.setLane n _)

section
variable (h : p.Armed g b)
include h

/-- The gap decides on the exchange: its writes are made, or it is deferred. -/
theorem Part.Armed.gapDecide : (p.gapDecide g).Armed g b := by
  obtain ⟨x, hx, hcoef, hat⟩ := h.exch
  simp only [Part.gapDecide, hx]
  split
  · exact h
  split
  · exact {
      run := by rw [Part.cg_setFld, Part.cg_onCg, if_pos rfl]; exact h.run
      probe := by rw [Part.cg_setFld, Part.cg_onCg, if_pos rfl]; exact h.probe
      exch := ⟨{ x with deferred := true }, by rw [Part.cg_setFld, Part.cg_onCg, if_pos rfl], hcoef, hat⟩
      status := by rw [Part.fld_setFld_same _ _ _ _ _ (by decide)]; decide
      queue := by rw [Part.reg_setFld, if_neg (xstat_ne g).1]; exact h.queue
      mem := h.mem }
  · have hcg (e : Grp) : (p.gapWrites g x).cg e = p.cg e := by rw [p.gapWrites_frame]; rfl
    have hreg (off : Nat) : (p.gapWrites g x).reg off = p.reg off := by rw [p.gapWrites_frame]; rfl
    exact {
      run := by rw [Part.cg_onCg, if_pos rfl, hcg]; exact h.run
      probe := by rw [Part.cg_onCg, if_pos rfl, hcg]; exact h.probe
      exch := ⟨{ x with ready := true }, by rw [Part.cg_onCg, if_pos rfl], hcoef, hat⟩
      status := by rw [Part.fld_onCg, Part.fld, hreg]; exact h.status
      queue := by rw [Part.reg_onCg, hreg]; exact h.queue
      mem := by
        rw [p.gapWrites_frame]
        exact h.mem }

theorem Part.Armed.showGroup : (p.showGroup g).Armed g b := by
  have hshow := p.showGroup_regsOnly g
  have hcg := hshow.cg_lane.1 g
  refine ⟨by rw [hcg, h.run], by rw [hcg, h.probe], by rw [hcg]; exact h.exch, ?_, ?_, (congrArg Part.mem hshow.1).trans h.mem⟩
  · rw [Part.fld, hshow.2 _ (by simpa using (xstat_ne g).2.2)]
    exact h.status
  · rw [hshow.2 _ (by simpa using (xstat_ne g).2.1)]
    exact h.queue

end

/-- The exchange that a retune arms, before it is decided on. -/
theorem Part.Armed.arm (p : Part) (g : Grp) (img : WordFile) :
    ((p.onCg g (fun c => { c with exch := some { img := img, coefOnly := true, at? := none } })).setFld
      (Reg.CLE_XSTAT g.ix) 0 4 4).Armed g p where
  run := by rw [Part.cg_setFld, Part.cg_onCg, if_pos rfl]
  probe := by rw [Part.cg_setFld, Part.cg_onCg, if_pos rfl]
  exch := ⟨_, by rw [Part.cg_setFld, Part.cg_onCg, if_pos rfl], rfl, rfl⟩
  status := by rw [Part.fld_setFld_same _ _ _ _ _ (by decide)]; decide
  queue := by rw [Part.reg_setFld, if_neg (xstat_ne g).1, Part.reg_onCg]
  mem := rfl

theorem Part.Armed.onLog (h : p.Armed g b) {f : List Retune → List Retune} :
    (p.onScan g (fun s => { s with log := f s.log })).Armed g b := by
  have hcg : (p.onScan g (fun s => { s with log := f s.log })).cg g =
      { p.cg g with scan := { (p.cg g).scan with log := f (p.cg g).scan.log } } := by
    rw [Part.onScan, Part.cg_onCg, if_pos rfl]
  exact ⟨by rw [hcg]; exact h.run, by rw [hcg]; exact h.probe, by rw [hcg]; exact h.exch, h.status, h.queue, h.mem⟩

/-- A queue that is off takes nothing, and the event log is queue Q30. -/
theorem Part.logEvent_mem {code : LogCode} {args : List Nat} (h : p.bit (Reg.QUE_CFG 30) 31 = false) :
    (p.logEvent code args).mem = p.mem := by
  have hoff (q : Part) (e : List Byte) (hq : q.bit (Reg.QUE_CFG 30) 31 = false) : q.produce 30 e = q :=
    if_pos (by rw [hq]; rfl)
  dsimp only [Part.logEvent]
  rw [hoff _ _ (by exact h)]
  rfl

theorem Part.reg_logEvent {code : LogCode} {args : List Nat} {off : Nat} (h : off ≠ Reg.QUE_PIDX 30) :
    (p.logEvent code args).reg off = p.reg off := by
  have hproduce (q : Part) (e : List Byte) : (q.produce 30 e).reg off = q.reg off := by
    unfold Part.produce
    split
    · rfl
    split
    · rw [Part.countSat, Part.reg_setFld, if_neg h]
    · rw [Part.reg_setFld, if_neg h, Part.reg, Part.storeBytes_regs, Part.reg]
  exact hproduce _ _

/-- What arming a retune leaves and gives: the memory stands where the event log is off. -/
theorem Part.armRetune_spec (p : Part) (g : Grp) (img : WordFile) (rv : Word) (x : Retune) :
    let q := p.armRetune g img rv x
    (q.cg g).scan.run = (p.cg g).scan.run ∧ (q.cg g).probe = (p.cg g).probe ∧
      (∃ e, (q.cg g).exch = some e ∧ e.coefOnly = true ∧ e.at? = none) ∧ q.fld (Reg.CLE_XSTAT g.ix) 0 4 ∈ [4, 5] ∧
      (p.bit (Reg.QUE_CFG 30) 31 = false → q.mem = p.mem) := by
  intro q
  obtain ⟨r, hr, hq⟩ : ∃ r : Part, r.Armed g p ∧ q = r.logEvent .retune [g.ix, x.moves.length] := by
    have harm (im : WordFile) := Part.Armed.arm p g im
    refine ⟨_, ?_, rfl⟩
    refine Part.Armed.onLog (f := fun l => trimLog 0 (x :: l)) (.showGroup ?_)
    unfold Part.gapArm Part.when
    split
    · exact (harm _).gapDecide
    · exact harm _
  have hcg : q.cg g = r.cg g := by rw [hq, Part.cg, Part.logEvent_cle, Part.cg]
  rw [hcg]
  refine ⟨hr.run, hr.probe, hr.exch, ?_, fun hoff => ?_⟩
  · rw [hq, Part.fld, Part.reg_logEvent (by cases g <;> decide)]
    exact hr.status
  · rw [hq, Part.logEvent_mem (by rw [Part.bit, hr.queue]; exact hoff), hr.mem]

/-! SCAN_COMPLETE. -/

/-- A retune leaves the scan and the generator. -/
theorem Part.retune_frame (p : Part) (g : Grp) (ws : List Word) (late : Bool) (l : List ScanResult) :
    ((p.retune g ws late l).cg g).scan.run = (p.cg g).scan.run ∧ ((p.retune g ws late l).cg g).probe = (p.cg g).probe := by
  unfold Part.retune
  extract_lets flags moves rvOld rv old img
  split
  · exact ⟨rfl, rfl⟩
  · exact ⟨(p.armRetune_spec g _ _ _).1, (p.armRetune_spec g _ _ _).2.1⟩

/-- With neither RETUNE nor RVTUNE a scan retunes nothing. -/
theorem Part.retune_off {ws : List Word} {late : Bool} {l : List ScanResult} (h1 : bitAt (ws.getD 0 0) 1 = false)
    (h2 : bitAt (ws.getD 0 0) 2 = false) : p.retune g ws late l = p := by
  simp only [Part.retune, h1, h2, Bool.false_eq_true, if_false, List.isEmpty_nil, decide_true, Bool.and_self, Bool.true_or,
    if_true]

theorem Part.setFld_cle (p : Part) (off lo w n : Nat) : (p.setFld off lo w n).cle = p.cle := p.setReg_cle _ _

theorem Part.opFail_cle (p : Part) (k gerr err : Nat) : (p.opFail k gerr err).cle = p.cle := by
  rw [Part.opFail, Part.setFld_cle, Part.setFld_cle, Part.setOpState, Part.setFld_cle]

theorem Part.opDone_cle (p : Part) (k : Nat) : (p.opDone k).cle = p.cle := by
  rw [Part.opDone, Part.setFld_cle, Part.setOpState, Part.setFld_cle]

theorem Part.opResult_cle (p : Part) (k : Nat) (bs : List Byte) : (p.opResult k bs).cle = p.cle := by
  unfold Part.opResult
  extract_lets n room w q
  have hq : q.cle = p.cle := p.storeBytes_cle _ _
  split
  · rw [Part.opFail_cle, hq]
  · exact hq

/-- The points of a scan go to the operation that asked for it, which is done. -/
def Part.scanReport (p : Part) (op : Option Nat) (bs : List Byte) : Part :=
  match op with
  | some k => if (p.opResult k bs).opState k = 2 then (p.opResult k bs).opDone k else p.opResult k bs
  | none => p

theorem Part.scanReport_cle (p : Part) (op : Option Nat) (bs : List Byte) : (p.scanReport op bs).cle = p.cle := by
  unfold Part.scanReport
  cases op with
  | none => rfl
  | some k =>
    dsimp only
    split
    · exact ((p.opResult k bs).opDone_cle k).trans (p.opResult_cle k bs)
    · exact p.opResult_cle k bs

/-- The part once a scan is over, before its points are published. -/
def Part.scanEnded (p : Part) (g : Grp) (t : Instant) : Part :=
  (p.at t).onCg g (fun c => { c with scan := { c.scan with run := none }, probe := { c.probe with site := none, g := 0 } })

/-- The results of a scan. -/
def Part.scanResults (p : Part) (g : Grp) (r : ScanRun) : List ScanResult :=
  r.bins.zipIdx.map (fun e => scanResult e.1 r.n (p.tsSec g) (r.point e.2))

theorem Part.scanComplete_ended {late : Bool} {t : Instant} {r : ScanRun} (hr : (p.cg g).scan.run = some r)
    (hk : 30 * r.n ≤ r.k) (ho : (p.cg g).open_ = false) : p.scanComplete g late t =
      ((p.scanEnded g t).scanReport r.op ((p.scanResults g r).flatMap (·.bytes))).retune g r.ws late (p.scanResults g r) := by
  have hnot : ¬ r.k < 30 * r.n := Nat.not_lt.2 hk
  simp only [Part.scanComplete, hr, hnot, ho, decide_false, Bool.or_self, Bool.false_eq_true, if_false, Part.onScan,
    Part.onCg_onCg]
  rfl

theorem Part.scanComplete_none {late : Bool} {t : Instant} (h : (p.cg g).scan.run = none) : p.scanComplete g late t = p := by
  simp only [Part.scanComplete, h]

theorem Part.scanComplete_early {late : Bool} {t : Instant} {r : ScanRun} (hr : (p.cg g).scan.run = some r)
    (hk : r.k < 30 * r.n) : p.scanComplete g late t = p := by
  simp [Part.scanComplete, hr, hk]

/-! SCAN_CMD. -/

/-- The retune that a revert goes back before: the last that stands, or the oldest of the log. -/
def Part.revertTo (p : Part) (g : Grp) (cmd : Nat) : Option Retune :=
  if cmd = 1 then ((p.cg g).scan.log.filter (fun x => !x.revert && !x.undone)).head?
  else ((p.cg g).scan.log.filter (fun x => !x.revert)).getLast?

theorem Part.revertTo_nil {cmd : Nat} (h : (p.cg g).scan.log = []) : p.revertTo g cmd = none := by
  simp [Part.revertTo, h]

theorem Part.revertTo_some {cmd : Nat} (h : ∃ x ∈ (p.cg g).scan.log, x.revert = false ∧ x.undone = false) :
    ∃ x, p.revertTo g cmd = some x := by
  obtain ⟨x, hx, hrev, hund⟩ := h
  rw [← Option.isSome_iff_exists, Part.revertTo]
  split
  · exact List.isSome_head?.2 (List.ne_nil_of_mem (List.mem_filter.2 ⟨hx, by simp [hrev, hund]⟩))
  · exact List.getLast?_isSome.2 (List.ne_nil_of_mem (List.mem_filter.2 ⟨hx, by simp [hrev]⟩))

/-- SCAN_CMD reads 0 once it is cleared. -/
theorem Part.loadWord_cleared (p : Part) (a : Nat) : (p.storeBytes a [0, 0, 0, 0]).loadWord a = 0 := by
  have hzero (k : Nat) (hk : k < 4) : (p.storeBytes a [0, 0, 0, 0]).byte (a + k) = 0 := by
    rw [Part.byte_storeBytes, if_pos ⟨Nat.le_add_right _ _, Nat.add_lt_add_left hk a⟩, Nat.add_sub_cancel_left]
    exact (by decide : ∀ k < 4, ([0, 0, 0, 0] : List Byte).getD k 0 = 0) k hk
  have hzero0 : (p.storeBytes a [0, 0, 0, 0]).byte a = 0 := hzero 0 (by decide)
  simp only [Part.loadWord, Part.load, Nat.add_assoc, hzero0, hzero, Nat.reduceAdd, Nat.reduceLT]
  rfl

theorem Part.loadWord_of_mem {q : Part} (h : q.mem = p.mem) (a : Nat) : q.loadWord a = p.loadWord a := by
  simp [Part.loadWord, Part.load, Part.byte, h]

section
variable {cmd : Nat}

theorem Part.scanRevert_other (h : (p.loadWord (scanBase g + 0x20)).toNat ≠ cmd) : p.scanRevert g cmd = p := by
  simp [Part.scanRevert, h]

section
variable (hcmd : (p.loadWord (scanBase g + 0x20)).toNat = cmd) (hx : (p.cg g).exch = none) (hr : p.gridRuns g = true)
include hcmd hx hr

theorem Part.scanRevert_none (h : p.revertTo g cmd = none) :
    p.scanRevert g cmd = p.storeBytes (scanBase g + 0x20) [0, 0, 0, 0] := by
  rw [Part.revertTo] at h
  simp only [Part.scanRevert, hcmd, hx, hr, h, ne_eq, not_true_eq_false, decide_false, Option.isSome_none, Bool.not_true,
    Bool.or_self, Bool.false_eq_true, if_false]

theorem Part.scanRevert_some {x : Retune} (h : p.revertTo g cmd = some x) : ∃ f img rv y, p.scanRevert g cmd =
    ((p.storeBytes (scanBase g + 0x20) [0, 0, 0, 0]).onScan g (fun s => { s with log := s.log.map f })).armRetune g img rv y := by
  rw [Part.revertTo] at h
  simp only [Part.scanRevert, hcmd, hx, hr, h, ne_eq, not_true_eq_false, decide_false, Option.isSome_none, Bool.not_true,
    Bool.or_self, Bool.false_eq_true, if_false]
  exact ⟨_, _, _, _, rfl⟩

/-- A revert clears SCAN_CMD and arms a coefficient exchange for the coming tick. -/
theorem Part.scanRevert_armed (h : ∃ x ∈ (p.cg g).scan.log, x.revert = false ∧ x.undone = false) :
    (p.bit (Reg.QUE_CFG 30) 31 = false → (p.scanRevert g cmd).loadWord (scanBase g + 0x20) = 0) ∧
      (p.scanRevert g cmd).fld (Reg.CLE_XSTAT g.ix) 0 4 ∈ [4, 5] ∧
      ∃ x, ((p.scanRevert g cmd).cg g).exch = some x ∧ x.coefOnly = true ∧ x.at? = none := by
  obtain ⟨x, hto⟩ := Part.revertTo_some (cmd := cmd) h
  obtain ⟨f, img, rv, y, heq⟩ := Part.scanRevert_some hcmd hx hr hto
  rw [heq]
  obtain ⟨-, -, hexch, hstatus, hmem⟩ := ((p.storeBytes (scanBase g + 0x20) [0, 0, 0, 0]).onScan g
    (fun s => { s with log := s.log.map f })).armRetune_spec g img rv y
  refine ⟨fun hoff => ?_, hstatus, hexch⟩
  have hbit : (p.storeBytes (scanBase g + 0x20) [0, 0, 0, 0]).bit (Reg.QUE_CFG 30) 31 = false := by
    rw [Part.bit, Part.reg, Part.storeBytes_regs]
    exact hoff
  rw [Part.loadWord_of_mem (hmem hbit)]
  exact p.loadWord_cleared _

end

end

end

/-- Settles O23 (log entry 38): a lemma for each way that a start, a completion and a revert end. -/
theorem selfScan : Obligations.SelfScan := by
  unfold Obligations.SelfScan
  intro g t s h c ws
  split
  next n d hts =>
  intro ready quiet
  have due (hready : ready) : s.part.scanDue g t = true := by
    obtain ⟨hbg, hrun, hgrid, hop, hfault, hat⟩ := hready
    simp only [c, ws] at *
    simp only [Part.scanDue, hbg, hrun, hgrid, hop, hfault, Option.isNone_none, Bool.and_self,
      decide_eq_true hat]
  refine ⟨fun hready hbit => .of_run (exec_scanPeriodExpiry g t s) h ?start,
    fun hready hbit => .of_run (exec_scanPeriodExpiry g t s) h ?drop,
    fun hidle => .of_run (exec_scanPeriodExpiry g t s) (Part.scanPeriod_idle hidle),
    fun late r hr hk ho => .of_run (f := (·.scanComplete g late t)) rfl h ?complete,
    fun late r hr hk ho hop h1 h2 => .of_run (f := (·.scanComplete g late t)) rfl h ?background,
    fun late r hr hk => .of_run (f := (·.scanComplete g late t)) rfl (Part.scanComplete_early hr hk),
    fun late hr => .of_run (f := (·.scanComplete g late t)) rfl (Part.scanComplete_none hr), fun e he => ?revert⟩
  case start =>
    rw [Part.scanPeriod, due hready, if_pos rfl, if_pos hbit, Part.scanStart, hts, hbit]
    rfl
  case drop =>
    rw [Part.scanPeriod, due hready, if_pos rfl, if_neg (by simpa using hbit)]
    rfl
  case complete =>
    have hcg : ((s.part.scanEnded g t).scanReport r.op ((s.part.scanResults g r).flatMap (·.bytes))).cg g =
        { s.part.cg g with scan := { c with run := none }, probe := quiet } := by
      rw [Part.cg, Part.scanReport_cle, ← Part.cg, Part.scanEnded, Part.cg_onCg, if_pos rfl]
      rfl
    rw [Part.scanComplete_ended hr hk ho]
    obtain ⟨hrun, hprobe⟩ := Part.retune_frame
      ((s.part.scanEnded g t).scanReport r.op ((s.part.scanResults g r).flatMap (·.bytes))) g r.ws late (s.part.scanResults g r)
    rw [hcg] at hrun hprobe
    exact ⟨hrun, hprobe⟩
  case background =>
    rw [Part.scanComplete_ended hr hk ho, hop, Part.retune_off h1 h2]
    rfl
  case revert =>
    have hexec : exec e.2 s = s.run (fun p => (p.at t).scanRevert g e.1) ∧ e.1 < 2 ^ 32 := by
      simp only [List.mem_cons, List.not_mem_nil, or_false] at he
      rcases he with rfl | rfl
      · exact ⟨rfl, (by decide : 1 < 2 ^ 32)⟩
      · exact ⟨rfl, (by decide : 2 < 2 ^ 32)⟩
    obtain ⟨hexec, hlt⟩ := hexec
    have hnat {w : Word} (hw : w = BitVec.ofNat 32 e.1) : w.toNat = e.1 := by
      rw [hw, BitVec.toNat_ofNat, Nat.mod_eq_of_lt hlt]
    refine ⟨fun hcmd hx hgrid hlog => .of_run hexec h ?_, fun hcmd hx hgrid hlog => .of_run hexec h ?_,
      fun hcmd => .of_run hexec h (Part.scanRevert_other (p := s.part.at t) fun heq => hcmd ?_)⟩
    · exact Part.scanRevert_armed (p := s.part.at t) (hnat hcmd) hx hgrid hlog
    · rw [Part.scanRevert_none (p := s.part.at t) (hnat hcmd) hx hgrid (Part.revertTo_nil hlog)]
      exact ⟨Part.loadWord_cleared _ _, Part.storeBytes_regs _ _ _, Part.storeBytes_cle _ _ _⟩
    · exact BitVec.eq_of_toNat_eq (by rw [BitVec.toNat_ofNat, Nat.mod_eq_of_lt hlt]; exact heq)

end Sys2Proof.Machine
end

section
/-! PROOFS. The comparison of signatures and lateness (R111, R114, R115, R122, R123). -/

namespace Sys2Proof.Machine

/-! A lane that is late (R111). -/

section
variable {p q b : Part} {g : Grp} {n : Nat} {t : Instant}

/-- Whether a lane is late in the sample of its group. -/
def Part.isLate (p : Part) (n : Nat) (t : Instant) : Bool :=
  p.laneState n = 1 && (p.cg (p.laneGrp n)).open_ && !(p.lane n).ended && p.lateAt (p.laneGrp n) ≤ t

theorem Part.laneLate_inTime (h : p.isLate n t = false) : p.laneLate n t = p := by
  rw [Part.isLate] at h
  simp only [Part.laneLate, h, Bool.false_eq_true, if_false]

theorem Part.laneLate_late (h : p.isLate n t = true) :
    p.laneLate n t = (p.laneFault n 3).raise (Reg.CLE_GEVT (p.laneGrp n).ix) 6 := by
  rw [Part.isLate] at h
  simp only [Part.laneLate, h, if_true]

theorem Part.isLate_ended (h : (p.lane n).ended = true) : p.isLate n t = false := by
  simp [Part.isLate, h]

/-- A late lane is masked for a hard fault, and LATE is set. -/
theorem Part.laneLate_spec (h1 : p.laneState n = 1) (ho : (p.cg (p.laneGrp n)).open_ = true) (hl : p.isLate n t = true) :
    let q := p.laneLate n t
    q.laneState n = 2 ∧ q.fld (Reg.CLE_LSTAT n) 12 4 = 3 ∧ q.bit (Reg.CLE_GEVT (p.laneGrp n).ix) 6 = true ∧
      (∀ m, m ≠ n → q.laneState m = p.laneState m) ∧
      RegsBut p q [Reg.CLE_LSTAT n, Reg.CLE_GEVT (p.laneGrp n).ix, Reg.CLE_GSTAT (p.laneGrp n).ix] := by
  intro q
  have hq : q = (p.laneFault n 3).raise (Reg.CLE_GEVT (p.laneGrp n).ix) 6 := Part.laneLate_late hl
  obtain ⟨hst, hfl, hregs⟩ := Part.laneFault_open_spec (code := 3) (by decide) (.inl h1) ho
  have hraise : RegsBut (p.laneFault n 3) q [Reg.CLE_GEVT (p.laneGrp n).ix] := by
    rw [hq]
    exact .setReg (by simp)
  obtain ⟨hst', hfl'⟩ := hraise.lane_word (n := n) (by simpa using (lstat_ne_cle n _).2.1)
  have hboth := (hregs.mono (by simp)).trans (hraise.mono (by simp)) (l := [Reg.CLE_LSTAT n,
    Reg.CLE_GEVT (p.laneGrp n).ix, Reg.CLE_GSTAT (p.laneGrp n).ix])
  refine ⟨hst'.trans hst, hfl'.trans hfl, ?_, fun m hm => (hboth.lane_word ?_).1, hboth⟩
  · rw [hq]
    exact Part.bit_setBit_same _ _ _ _ (by decide)
  · have hne : Reg.CLE_LSTAT m ≠ Reg.CLE_LSTAT n := fun he => hm (lstat_inj he)
    simp [hne, (lstat_ne_cle m _).1, (lstat_ne_cle m _).2.1]

/-! The parts of the comparison. -/

/-- The signatures compared, each with its lane. -/
def Part.sigs (p : Part) (g : Grp) : List (Nat × Word) := (p.members g).map (fun n => (n, (p.lane n).crc))

/-- The decision on the sample. -/
def Part.ruled (p : Part) (g : Grp) (t : Instant) (d : Option (List Nat)) : Part :=
  match d with
  | some bad => p.majority g bad
  | none => p.noMajority g t

theorem Part.ruled_some (p : Part) (g : Grp) (t : Instant) (bad : List Nat) : p.ruled g t (some bad) = p.majority g bad := rfl

theorem Part.ruled_none (p : Part) (g : Grp) (t : Instant) : p.ruled g t none = p.noMajority g t := rfl

/-- The masked lanes of a group are settled. -/
def Part.settle (p : Part) (g : Grp) : Part :=
  p.each ((List.range 8).filter (fun n => p.laneState n = 2 && p.laneGrp n = g)) (fun p n => p.settleMasked n)

/-- A sample ends without more work of the group. -/
def Part.shut (p : Part) (g : Grp) : Part := p.onCg g (fun c => { c with open_ := false })

/-- The work after the decision: the exports, the probes, the end of the sample and the gap. -/
def Part.endSample (p : Part) (g : Grp) (sent : Bool) : Part :=
  let p := (((((p.publish g).captureSample g).correlateSample g).scanCorrelate g).shut g).gapDecide g
  let p := p.when (sent && p.role = 1) (·.sendMirror g)
  (p.when (p.role = 2) (·.mirrorAtEnd g)).showGroup g

/-- What the comparison does once the lanes in service are known and their words are voted. -/
def Part.rule (p : Part) (g : Grp) (t : Instant) : Part :=
  let d := if (p.cg g).voter.noMaj then none else sigDecision (p.sigs g)
  (((p.gridFinish g).ruled g t d).settle g).endSample g d.isSome

theorem Part.compareSigs_eq (p : Part) (g : Grp) (t : Instant) :
    p.compareSigs g t = (((p.maskLate g t).voteRest g).noteEnd g t).rule g t := rfl

theorem Part.each_same {α : Type} {f : Part → α → Part} {l : List α} (h : ∀ a ∈ l, f p a = p) : p.each l f = p := by
  induction l with
  | nil => rfl
  | cons a l ih =>
    change (f p a).each l f = p
    rw [h a List.mem_cons_self]
    exact ih fun x hx => h x (List.mem_cons_of_mem a hx)

/-- With every lane in service past SAMPLE_END none is late. -/
theorem Part.maskLate_ended (h : ∀ n ∈ p.members g, (p.lane n).ended = true) : p.maskLate g t = p :=
  Part.each_same fun n hn => Part.laneLate_inTime (Part.isLate_ended (h n hn))

theorem foldl_max_le {m a : Nat} {l : List Nat} (ha : a ≤ m) (h : ∀ x ∈ l, x ≤ m) : l.foldl max a ≤ m := by
  induction l generalizing a with
  | nil => exact ha
  | cons x l ih => exact ih (Nat.max_le.2 ⟨ha, h x List.mem_cons_self⟩) fun y hy => h y (List.mem_cons_of_mem x hy)

/-- With every word decided none is left to vote. -/
theorem Part.voteRest_done (h : ∀ n ∈ p.members g, (p.lane n).out.length ≤ (p.cg g).voter.decided.length) :
    p.voteRest g = p := by
  have hmost : ((p.members g).map (fun n => (p.lane n).out.length)).foldl max 0 ≤ (p.cg g).voter.decided.length :=
    foldl_max_le (Nat.zero_le _) (by simpa using h)
  rw [Part.voteRest, Nat.sub_eq_zero_of_le hmost]
  rfl

/-- The lanes and the group when the signatures are judged. -/
def Part.atEnd (p : Part) (g : Grp) (t : Instant) : Part := (p.noteEnd g t).gridFinish g

theorem Part.atEnd_firm (p : Part) (g : Grp) (t : Instant) : (p.atEnd g t).Firm (List.range 8) p :=
  ((Part.Firm.refl _ p).noteEnd).gridFinish

/-- Every lane in service has ended and every word is decided, with a majority. -/
structure Part.Comparable (p : Part) (g : Grp) : Prop where
  ended : ∀ n ∈ p.members g, (p.lane n).ended = true
  words : ∀ n ∈ p.members g, (p.lane n).out.length ≤ (p.cg g).voter.decided.length
  voted : (p.cg g).voter.noMaj = false

theorem Part.noteEnd_regsOnly (p : Part) (g : Grp) (t : Instant) : RegsOnly p (p.noteEnd g t) [Reg.CLE_TEND g.ix] :=
  RegsOnly.setFld.trans .setFld

theorem Part.compareSigs_ready (h : p.Comparable g) :
    p.compareSigs g t =
      (((p.atEnd g t).ruled g t (sigDecision (p.sigs g))).settle g).endSample g (sigDecision (p.sigs g)).isSome := by
  obtain ⟨hcg, hlane⟩ := (p.noteEnd_regsOnly g t).cg_lane
  have hsigs : (p.noteEnd g t).sigs g = p.sigs g := by
    rw [Part.sigs, (Part.Firm.noteEnd (.refl (List.range 8) p)).members g]
    simp only [hlane]
    rfl
  rw [Part.compareSigs_eq, Part.maskLate_ended h.ended, Part.voteRest_done h.words, Part.rule, hcg, h.voted, hsigs]
  rfl

/-! What each part leaves. -/

theorem Part.Firm.shut {ns : List Nat} (h : p.Firm ns b) : (p.shut g).Firm ns (b.shut g) where
  lane := h.lane
  mode := h.mode
  event := h.event
  count := h.count
  ruling e := by
    have he := h.ruling e
    rw [Part.shut, Part.shut, Part.cg_onCg, Part.cg_onCg]
    by_cases hg : e = g
    · subst hg
      rw [if_pos rfl, if_pos rfl]
      simp only [CleGroup.ruling, Prod.mk.injEq, true_and] at he ⊢
      exact he.2
    · rwa [if_neg hg, if_neg hg]

theorem Part.endSample_firm (p : Part) (g : Grp) (sent : Bool) (ns : List Nat) : (p.endSample g sent).Firm ns (p.shut g) := by
  have hwork : ((((p.publish g).captureSample g).correlateSample g).scanCorrelate g).Firm ns p :=
    (((Part.Firm.refl ns p).publish.captureSample).correlateSample).scanCorrelate
  have hgap := (Part.Firm.shut (g := g) hwork).gapDecide (g := g)
  exact ((hgap.when fun _ hq => hq.sendMirror).when fun _ hq => hq.mirrorAtEnd).showGroup

/-- A masked lane goes into its BIST or is retired. -/
theorem Part.settleMasked_lane (p : Part) (n : Nat) :
    (p.settleMasked n).laneState n = 3 ∨ (p.settleMasked n).laneState n = 6 := by
  unfold Part.settleMasked
  extract_lets l
  split
  · exact .inr (p.retireLane_lane n 1).1
  split
  · split
    · exact .inr (p.retireLane_lane n 1).1
    · exact .inl (Part.laneState_setLaneState _ _ (by decide))
  · exact .inl (Part.laneState_setLaneState _ _ (by decide))

theorem Part.settleEach_firm {ns l : List Nat} (h : ∀ n ∈ l, n ∉ ns) : (p.each l (·.settleMasked ·)).Firm ns p :=
  (Part.Firm.refl ns p).each fun _ n hn hq => hq.settleMasked (h n hn)

theorem Part.settleEach_lane {l : List Nat} (hl : l.Nodup) (hn : n ∈ l) (h8 : n < 8) :
    (p.each l (·.settleMasked ·)).laneState n = 3 ∨ (p.each l (·.settleMasked ·)).laneState n = 6 := by
  induction l generalizing p with
  | nil => exact absurd hn List.not_mem_nil
  | cons a l ih =>
    obtain ⟨ha, hl⟩ := List.nodup_cons.1 hl
    by_cases hna : n = a
    · subst hna
      have hrest := (Part.settleEach_firm (p := p.settleMasked n) (ns := [n]) (l := l)
        (fun m hm => by simpa using fun he : m = n => ha (he ▸ hm))).lane n (by simp) h8
      change ((p.settleMasked n).each l _).laneState n = 3 ∨ ((p.settleMasked n).each l _).laneState n = 6
      rw [Part.laneState_of_reg hrest]
      exact p.settleMasked_lane n
    · exact ih (p := p.settleMasked a) hl ((List.mem_cons.1 hn).resolve_left hna)

/-- Lanes that are not masked stay as they are. -/
theorem Part.settle_firm {ns : List Nat} (h : ∀ n ∈ ns, p.laneState n ≠ 2) : (p.settle g).Firm ns p :=
  Part.settleEach_firm fun n hn hm => h n hm (by
    have hmask := (List.mem_filter.1 hn).2
    simp only [Bool.and_eq_true, decide_eq_true_eq] at hmask
    exact hmask.1)

theorem Part.settle_lane (h8 : n < 8) (h2 : p.laneState n = 2) (hg : p.laneGrp n = g) :
    (p.settle g).laneState n = 3 ∨ (p.settle g).laneState n = 6 :=
  Part.settleEach_lane (List.nodup_range.filter _) (List.mem_filter.2 ⟨List.mem_range.2 h8, by simp [h2, hg]⟩) h8

end

end Sys2Proof.Machine
end

section
/-! PROOFS. The decision on a sample (Table 4.5), from the two ways that it ends. -/

namespace Sys2Proof.Machine

section
variable {p q r b : Part} {g : Grp} {n : Nat} {t : Instant}

/-! A sample with majority. -/

/-- The group goes on as TMR or DUPLEX. -/
def Part.graded (p : Part) (g : Grp) : Part :=
  ((p.onCg g (fun c => { c with prevNoMaj := false })).setBit (Reg.CLE_GSTAT g.ix) 7 false).showMode g

theorem Part.majority_eq (p : Part) (g : Grp) (bad : List Nat) :
    p.majority g bad = (((p.each bad (·.outvote g)).graded g).copyRegisters g).chooseSpare g := rfl

theorem Part.reg_graded (p : Part) (g : Grp) {off : Nat} (h : off ≠ Reg.CLE_GSTAT g.ix) : (p.graded g).reg off = p.reg off := by
  rw [Part.graded, Part.showMode, Part.setGmode, Part.reg_setFld, if_neg h, Part.reg_setBit, if_neg h, Part.reg_onCg]

theorem Part.graded_mode (p : Part) (g : Grp) : (p.graded g).gmode g = if 3 ≤ (p.members g).length then 1 else 2 := by
  have hmem : ((p.onCg g (fun c => { c with prevNoMaj := false })).setBit (Reg.CLE_GSTAT g.ix) 7 false).members g =
      p.members g := by
    refine Part.members_of_reg (fun n _ => ?_) g
    rw [Part.reg_setBit, if_neg (lstat_ne_cle n g).1, Part.reg_onCg]
  rw [Part.graded, Part.showMode, hmem]
  refine Part.gmode_setGmode _ g ?_
  split <;> decide

theorem Part.cg_graded (p : Part) (g : Grp) : (p.graded g).cg g = { p.cg g with prevNoMaj := false } := by
  rw [Part.graded, Part.showMode, Part.setGmode, Part.cg_setFld, Part.cg_setBit, Part.cg_onCg, if_pos rfl]

/-- The copy and the choice of a replacement leave every lane that is not SPARE. -/
theorem Part.majority_firm {bad ns : List Nat} (h : ∀ n ∈ ns, n < 8 ∧ (p.each bad (·.outvote g)).laneState n ≠ 4) :
    (p.majority g bad).Firm ns ((p.each bad (·.outvote g)).graded g) := by
  have hcopy := (Part.Firm.refl ns ((p.each bad (·.outvote g)).graded g)).copyRegisters (g := g)
  rw [Part.majority_eq]
  refine hcopy.chooseSpare fun n hn => ?_
  obtain ⟨h8, h4⟩ := h n hn
  rw [Part.laneState_of_reg (hcopy.lane n hn h8), Part.laneState_of_reg (Part.reg_graded _ _ (lstat_ne_cle n g).1)]
  exact h4

/-! A sample without majority (R122, R123). -/

/-- The group is in HOLD, and its samples without majority are counted. -/
def Part.inHold (p : Part) (g : Grp) : Part :=
  (((p.setGmode g 3).raise (Reg.CLE_GEVT g.ix) 10).restoreHold g).countSat (Reg.CLE_DUPCNT g.ix) 0 32

/-- Its loading is abandoned, and a second such sample in a row is to halt it. -/
def Part.unruled (p : Part) (g : Grp) : Part :=
  ((p.inHold g).abandonLoad g).onCg g
    (fun c => { c with prevNoMaj := true, haltNext := c.haltNext || (p.cg g).prevNoMaj })

/-- A cut-in is requested in role 1, and the recorder sees the event. -/
def Part.tellNoMaj (p : Part) (g : Grp) (t : Instant) : Part :=
  (if p.role = 1 then (p.setBit (Reg.CLE_GSTAT g.ix) 7 true).requestCut g (some (p.cg g).t0) else p).capEvent (0x413 + g.ix) t

theorem Part.noMajority_eq (p : Part) (g : Grp) (t : Instant) : p.noMajority g t = (p.unruled g).tellNoMaj g t := by rfl

theorem Part.tellNoMaj_firm (p : Part) (g : Grp) (t : Instant) : (p.tellNoMaj g t).Firm [] p :=
  (Part.Firm.ite ((Part.Firm.refl [] p).setStat (by decide)).requestCut (.refl [] p)).capEvent

/-- A count in CLE_DUPCNT beside MODE and the events. -/
theorem Part.countDup_frame (p : Part) (g : Grp) :
    (p.countSat (Reg.CLE_DUPCNT g.ix) 0 32).gmode g = p.gmode g ∧
      ∀ i, (p.countSat (Reg.CLE_DUPCNT g.ix) 0 32).bit (Reg.CLE_GEVT g.ix) i = p.bit (Reg.CLE_GEVT g.ix) i := by
  obtain ⟨hds, hde⟩ := dupcnt_ne_cle g g
  refine ⟨Part.gmode_of_reg ?_, fun i => ?_⟩
  · rw [Part.countSat, Part.reg_setFld, if_neg hds.symm]
  · rw [Part.bit, Part.countSat, Part.reg_setFld, if_neg hde.symm, Part.bit]

/-- MODE is HOLD and NOMAJ is set. -/
theorem Part.markHold_spec (p : Part) (g : Grp) :
    ((p.setGmode g 3).raise (Reg.CLE_GEVT g.ix) 10).gmode g = 3 ∧
      ((p.setGmode g 3).raise (Reg.CLE_GEVT g.ix) 10).bit (Reg.CLE_GEVT g.ix) 10 = true ∧
      ((p.setGmode g 3).raise (Reg.CLE_GEVT g.ix) 10).reg (Reg.CLE_DUPCNT g.ix) = p.reg (Reg.CLE_DUPCNT g.ix) := by
  obtain ⟨hds, hde⟩ := dupcnt_ne_cle g g
  refine ⟨?_, Part.bit_setBit_same _ _ _ _ (by decide), ?_⟩
  · exact (Part.gmode_of_reg (p := p.setGmode g 3) (by rw [Part.raise, Part.reg_setBit, if_neg (gevt_ne_gstat g g).symm])).trans
      (Part.gmode_setGmode _ _ (by decide))
  · rw [Part.raise, Part.reg_setBit, if_neg hde, Part.setGmode, Part.reg_setFld, if_neg hds]

/-- HOLD, NOMAJ and CLE_DUPCNT. -/
theorem Part.inHold_spec (p : Part) (g : Grp) : (p.inHold g).gmode g = 3 ∧ (p.inHold g).bit (Reg.CLE_GEVT g.ix) 10 = true ∧
    (p.inHold g).fld (Reg.CLE_DUPCNT g.ix) 0 32 = min (p.fld (Reg.CLE_DUPCNT g.ix) 0 32 + 1) (2 ^ 32 - 1) ∧
    ((p.inHold g).cg g).ruling = (p.cg g).ruling := by
  obtain ⟨hmode, hevent, hcount⟩ := p.markHold_spec g
  have hhold := (Part.Firm.refl [] ((p.setGmode g 3).raise (Reg.CLE_GEVT g.ix) 10)).restoreHold (g := g)
  obtain ⟨hmode', hevent'⟩ := (((p.setGmode g 3).raise (Reg.CLE_GEVT g.ix) 10).restoreHold g).countDup_frame g
  refine ⟨hmode'.trans ((hhold.mode g).trans hmode), (hevent' 10).trans ((hhold.event g 10 (by simp)).trans hevent), ?_,
    ?_⟩
  · rw [Part.inHold, Part.fld_countSat _ _ (by decide), Part.fld, hhold.count g, hcount, Part.fld]
  · rw [Part.inHold, Part.countSat, Part.cg_setFld, hhold.ruling g, Part.raise, Part.cg_setBit, Part.setGmode, Part.cg_setFld]

theorem Part.unruled_spec (p : Part) (g : Grp) : (p.unruled g).gmode g = 3 ∧
    (p.unruled g).bit (Reg.CLE_GEVT g.ix) 10 = true ∧
    (p.unruled g).fld (Reg.CLE_DUPCNT g.ix) 0 32 = min (p.fld (Reg.CLE_DUPCNT g.ix) 0 32 + 1) (2 ^ 32 - 1) ∧
    ((p.unruled g).cg g).prevNoMaj = true ∧ ((p.unruled g).cg g).haltNext = ((p.cg g).haltNext || (p.cg g).prevNoMaj) := by
  have hload := (Part.Firm.refl [] (p.inHold g)).abandonLoad (g := g) (by simp)
  obtain ⟨hmode, hevent, hcount, hruling⟩ := p.inHold_spec g
  have hkept := (hload.ruling g).trans hruling
  simp only [CleGroup.ruling, Prod.mk.injEq] at hkept
  have hcg : ((p.unruled g).cg g).prevNoMaj = true ∧ ((p.unruled g).cg g).haltNext =
      ((((p.inHold g).abandonLoad g).cg g).haltNext || (p.cg g).prevNoMaj) := by
    rw [Part.unruled, Part.cg_onCg, if_pos rfl]
    exact ⟨rfl, rfl⟩
  have hreg (off : Nat) : (p.unruled g).reg off = ((p.inHold g).abandonLoad g).reg off := by rw [Part.unruled, Part.reg_onCg]
  refine ⟨(Part.gmode_of_reg (hreg _)).trans ((hload.mode g).trans hmode), ?_, ?_, hcg.1, by rw [hcg.2, hkept.2.2]⟩
  · rw [Part.bit, hreg, ← Part.bit, hload.event g 10 (by simp), hevent]
  · rw [Part.fld, hreg, hload.count g, ← Part.fld, hcount]

theorem Part.noMajority_spec (p : Part) (g : Grp) (t : Instant) :
    (p.noMajority g t).gmode g = 3 ∧ (p.noMajority g t).bit (Reg.CLE_GEVT g.ix) 10 = true ∧
      (p.noMajority g t).fld (Reg.CLE_DUPCNT g.ix) 0 32 = min (p.fld (Reg.CLE_DUPCNT g.ix) 0 32 + 1) (2 ^ 32 - 1) ∧
      ((p.noMajority g t).cg g).prevNoMaj = true ∧
      ((p.noMajority g t).cg g).haltNext = ((p.cg g).haltNext || (p.cg g).prevNoMaj) := by
  have htell := (p.unruled g).tellNoMaj_firm g t
  obtain ⟨hmode, hevent, hcount, hprev, hhalt⟩ := p.unruled_spec g
  have hruling := htell.ruling g
  simp only [CleGroup.ruling, Prod.mk.injEq] at hruling
  rw [p.noMajority_eq g t]
  exact ⟨(htell.mode g).trans hmode, (htell.event g 10 (by simp)).trans hevent,
    by rw [Part.fld, htell.count g, ← Part.fld, hcount], hruling.2.1.trans hprev, hruling.2.2.trans hhalt⟩

/-! The whole comparison. -/

/-- After the decision the lanes that are not masked, and what was decided, stay. -/
theorem Part.settled_firm {ns : List Nat} {sent : Bool} (h : ∀ n ∈ ns, q.laneState n ≠ 2) :
    ((q.settle g).endSample g sent).Firm ns (q.shut g) :=
  ((q.settle g).endSample_firm g sent ns).trans (Part.settle_firm h).shut

theorem Part.settled_spec (q : Part) (g : Grp) (sent : Bool) :
    let r := (q.settle g).endSample g sent
    r.gmode g = q.gmode g ∧ (∀ i ∈ [9, 10], r.bit (Reg.CLE_GEVT g.ix) i = q.bit (Reg.CLE_GEVT g.ix) i) ∧
      r.fld (Reg.CLE_DUPCNT g.ix) 0 32 = q.fld (Reg.CLE_DUPCNT g.ix) 0 32 ∧ (r.cg g).open_ = false ∧
      (r.cg g).prevNoMaj = (q.cg g).prevNoMaj ∧ (r.cg g).haltNext = (q.cg g).haltNext := by
  intro r
  have hend : r.Firm [] (q.shut g) := Part.settled_firm (by simp)
  have hruling := hend.ruling g
  rw [Part.shut, Part.cg_onCg, if_pos rfl] at hruling
  simp only [CleGroup.ruling, Prod.mk.injEq] at hruling
  obtain ⟨hopen, hprev, hhalt⟩ := hruling
  exact ⟨hend.mode g, hend.event g, by rw [Part.fld, hend.count g]; rfl, hopen, hprev, hhalt⟩

/-- What follows a decision `w` that left the lanes and the mode of `v`, graded: a masked lane leaves, and the lanes in
service stay. -/
theorem Part.settled_majority {v w : Part} (sent : Bool)
    (h : ∀ ns : List Nat, (∀ n ∈ ns, n < 8 ∧ v.laneState n ≠ 4) → w.Firm ns (v.graded g)) :
    let r := (w.settle g).endSample g sent
    r.gmode g = (if 3 ≤ (v.members g).length then 1 else 2) ∧ (r.cg g).open_ = false ∧ (r.cg g).prevNoMaj = false ∧
      r.bit (Reg.CLE_GEVT g.ix) 9 = v.bit (Reg.CLE_GEVT g.ix) 9 ∧
      (∀ n ∈ v.members g, r.laneState n = 1) ∧
      ∀ n, n < 8 → v.laneState n = 2 → v.laneGrp n = g → r.laneState n = 3 ∨ r.laneState n = 6 := by
  have hlane {n : Nat} (h8 : n < 8) (h4 : v.laneState n ≠ 4) : w.reg (Reg.CLE_LSTAT n) = v.reg (Reg.CLE_LSTAT n) :=
    ((h [n] (by simpa using ⟨h8, h4⟩)).lane n (by simp) h8).trans (v.reg_graded g (lstat_ne_cle n g).1)
  have hfirm := h [] (by simp)
  obtain ⟨hmode, hevent, -, hopen, hprev, -⟩ := w.settled_spec g sent
  have hkept := hfirm.ruling g
  rw [v.cg_graded] at hkept
  simp only [CleGroup.ruling, Prod.mk.injEq] at hkept
  refine ⟨?_, hopen, hprev.trans hkept.2.1, ?_, fun n hn => ?_, fun n h8 h2 hg => ?_⟩
  · exact hmode.trans ((hfirm.mode g).trans (v.graded_mode g))
  · rw [hevent 9 (by simp), hfirm.event g 9 (by simp), Part.bit,
      v.reg_graded g (gevt_ne_gstat g g), ← Part.bit]
  · obtain ⟨h8, h1, -⟩ := Part.mem_members.1 hn
    have hreg := hlane h8 (by omega)
    have hstay := Part.settled_firm (q := w) (g := g) (sent := sent) (ns := [n])
      (by simp [Part.laneState_of_reg hreg, h1])
    exact (Part.laneState_of_reg (hstay.lane n (by simp) h8)).trans ((Part.laneState_of_reg hreg).trans h1)
  · have hreg := hlane h8 (by omega)
    have hstay := ((w.settle g).endSample_firm g sent (List.range 8)).lane n (List.mem_range.2 h8) h8
    rw [Part.laneState_of_reg hstay]
    exact Part.settle_lane h8 ((Part.laneState_of_reg hreg).trans h2) ((Part.laneGrp_of_reg hreg).trans hg)

/-- With a majority: MODE follows the lanes left in service, which stay; a masked lane leaves. -/
theorem Part.compareSigs_majority {bad : List Nat} {v : Part} (hc : p.Comparable g) (hd : sigDecision (p.sigs g) = some bad)
    (hv : (p.atEnd g t).each bad (·.outvote g) = v) :
    let r := p.compareSigs g t
    r.gmode g = (if 3 ≤ (v.members g).length then 1 else 2) ∧ (r.cg g).open_ = false ∧ (r.cg g).prevNoMaj = false ∧
      r.bit (Reg.CLE_GEVT g.ix) 9 = v.bit (Reg.CLE_GEVT g.ix) 9 ∧
      (∀ n ∈ v.members g, r.laneState n = 1) ∧
      ∀ n, n < 8 → v.laneState n = 2 → v.laneGrp n = g → r.laneState n = 3 ∨ r.laneState n = 6 := by
  rw [Part.compareSigs_ready hc, hd, Part.ruled_some]
  refine Part.settled_majority _ fun ns hns => ?_
  rw [← hv] at hns ⊢
  exact Part.majority_firm hns

/-- Without majority: HOLD, NOMAJ, the count, and the halt after a second such sample. -/
theorem Part.compareSigs_noMajority (hc : p.Comparable g) (hd : sigDecision (p.sigs g) = none) :
    let r := p.compareSigs g t
    r.gmode g = 3 ∧ (r.cg g).open_ = false ∧ (r.cg g).prevNoMaj = true ∧ r.bit (Reg.CLE_GEVT g.ix) 10 = true ∧
      r.fld (Reg.CLE_DUPCNT g.ix) 0 32 = min (p.fld (Reg.CLE_DUPCNT g.ix) 0 32 + 1) (2 ^ 32 - 1) ∧
      (r.cg g).haltNext = ((p.cg g).haltNext || (p.cg g).prevNoMaj) := by
  intro r
  have hr : r = (((p.atEnd g t).noMajority g t).settle g).endSample g false := by
    unfold r
    rw [Part.compareSigs_ready hc, hd, Part.ruled_none, Option.isSome_none]
  obtain ⟨hmode', hevent', hcount', hopen, hprev, hhalt⟩ := ((p.atEnd g t).noMajority g t).settled_spec g false
  obtain ⟨hmode, hevent, hcount, hset, hnext⟩ := (p.atEnd g t).noMajority_spec g t
  have hstart := p.atEnd_firm g t
  have hkept := hstart.ruling g
  simp only [CleGroup.ruling, Prod.mk.injEq] at hkept
  rw [hr]
  refine ⟨hmode'.trans hmode, hopen, hprev.trans hset, (hevent' 10 (by simp)).trans hevent, ?_, ?_⟩
  · rw [hcount', hcount, Part.fld, hstart.count g, ← Part.fld]
  · rw [hhalt, hnext, hkept.2.1, hkept.2.2]

/-! The lanes left once one is outvoted. -/

theorem Part.laneGrp_outvote (p : Part) (g : Grp) (n : Nat) : (p.outvote g n).laneGrp n = p.laneGrp n := by
  have hstate : (p.setLaneState n 2).laneGrp n = p.laneGrp n := by
    rw [Part.laneGrp, Part.setLaneState, Part.bit, Part.reg_setFld, if_pos rfl,
      bitAt_setBits_ne _ _ _ _ _ (by decide) (by decide), ← Part.bit, Part.laneGrp]
  rw [Part.laneGrp_of_reg ((p.outvote_shown g n).2 _ (by simpa using (lstat_ne_cle n g).1)), Part.outvoted,
    Part.laneGrp_onCg, Part.laneGrp_of_reg (Part.reg_onLane _ _ _), Part.countSat,
    (Part.setLstat_state _ _ _ (by decide) (by decide)).2, Part.raise,
    Part.laneGrp_of_reg (p := p.setLaneState n 2) (by rw [Part.reg_setBit, if_neg (lstat_ne_cle n g).2.1]), hstate]

theorem Part.members_outvote (p : Part) (g : Grp) (n : Nat) :
    (p.outvote g n).members g = (p.members g).filter (· ≠ n) := by
  rw [Part.members, Part.members, List.filter_filter]
  refine List.filter_congr fun m _ => ?_
  by_cases hm : m = n
  · simp [hm, p.outvote_lane g n]
  · rw [Part.laneState_of_reg (Part.reg_outvote_ne hm), Part.laneGrp_of_reg (Part.reg_outvote_ne hm)]
    simp [hm]

/-! The signatures (Table 4.5). -/

theorem sigDecision_odd {f : Nat → Word} {a b d n : Nat} (hl : [a, b, d].Nodup) (hn : n ∈ [a, b, d])
    (hne : ∀ m ∈ [a, b, d], m ≠ n → f m ≠ f n)
    (heq : ∀ m ∈ [a, b, d], ∀ k ∈ [a, b, d], m ≠ n → k ≠ n → f m = f k) :
    sigDecision ([a, b, d].map (fun m => (m, f m))) = some [n] ∧ ([a, b, d].filter (· ≠ n)).length = 2 := by
  simp only [List.nodup_cons, List.mem_cons, List.not_mem_nil, or_false, not_or, not_false_eq_true, List.nodup_nil,
    and_true] at hl
  obtain ⟨⟨hab, had⟩, hbd⟩ := hl
  simp only [List.mem_cons, List.not_mem_nil, or_false] at hn
  rcases hn with rfl | rfl | rfl
  · have h2 := heq b (by simp) d (by simp) (Ne.symm hab) (Ne.symm had)
    have h3 := hne d (by simp) (Ne.symm had)
    simp [sigDecision, h2, h3.symm, Ne.symm hab, Ne.symm had]
  · have h2 := heq a (by simp) d (by simp) hab (Ne.symm hbd)
    have h3 := hne d (by simp) (Ne.symm hbd)
    simp [sigDecision, h2, h3, h3.symm, hab, Ne.symm hbd]
  · have h1 := hne a (by simp) had
    have h2 := heq a (by simp) b (by simp) had hbd
    have h3 := hne b (by simp) hbd
    simp [sigDecision, h2, h3, h3.symm, had, hbd]

/-! SIGNATURE_COMPARISON. -/

/-- What SIGNATURE_COMPARISON does. -/
def Part.signatureComparison (p : Part) (g : Grp) (t : Instant) : Part :=
  if (p.cg g).open_ && (p.cg g).t0 ≤ t && ((p.members g).all (fun n => (p.lane n).ended) || p.lateAt g ≤ t) then
    (p.at t).compareSigs g t
  else p

theorem exec_signatureComparison (g : Grp) (t : Instant) (s : State) :
    exec (.signatureComparison g t) s = s.run (·.signatureComparison g t) := by rfl

theorem Part.signatureComparison_due (ho : (p.cg g).open_ = true) (ht : (p.cg g).t0 ≤ t)
    (he : ∀ n ∈ p.members g, (p.lane n).ended = true) : p.signatureComparison g t = (p.at t).compareSigs g t := by
  have hall : (p.members g).all (fun n => (p.lane n).ended) = true := List.all_eq_true.2 he
  simp only [Part.signatureComparison, ho, ht, hall, decide_true, Bool.and_self, Bool.true_or, if_true]

theorem Part.signatureComparison_early (h : (p.cg g).open_ = false ∨
    ((∃ n ∈ p.members g, (p.lane n).ended = false) ∧ t < p.lateAt g)) : p.signatureComparison g t = p := by
  rcases h with ho | ⟨⟨n, hn, he⟩, ht⟩
  · simp [Part.signatureComparison, ho]
  · have hall : (p.members g).all (fun n => (p.lane n).ended) = false := List.all_eq_false.2 ⟨n, hn, by simp [he]⟩
    simp [Part.signatureComparison, hall, ht]

/-- The lanes in service agree, and all of them stay. -/
theorem Part.compareSigs_agreed (hc : p.Comparable g) (hd : sigDecision (p.sigs g) = some []) :
    let r := p.compareSigs g t
    r.gmode g = (if 3 ≤ (p.members g).length then 1 else 2) ∧ (r.cg g).open_ = false ∧ (r.cg g).prevNoMaj = false ∧
      ∀ n ∈ p.members g, r.laneState n = 1 := by
  obtain ⟨hmode, hopen, hprev, -, hstay, -⟩ := Part.compareSigs_majority (t := t) hc hd rfl
  have hmem : ((p.atEnd g t).each [] (·.outvote g)).members g = p.members g := (p.atEnd_firm g t).members g
  rw [hmem] at hmode hstay
  exact ⟨hmode, hopen, hprev, hstay⟩

/-- One lane differs, and leaves. -/
theorem Part.compareSigs_masked (hc : p.Comparable g) (hd : sigDecision (p.sigs g) = some [n]) (hn : n ∈ p.members g) :
    let r := p.compareSigs g t
    r.gmode g = (if 3 ≤ ((p.members g).filter (· ≠ n)).length then 1 else 2) ∧ (r.cg g).open_ = false ∧
      (r.cg g).prevNoMaj = false ∧ r.bit (Reg.CLE_GEVT g.ix) 9 = true ∧ (r.laneState n = 3 ∨ r.laneState n = 6) ∧
      ∀ m ∈ p.members g, m ≠ n → r.laneState m = 1 := by
  obtain ⟨hmode, hopen, hprev, hevent, hstay, hleave⟩ :=
    Part.compareSigs_majority (t := t) (v := (p.atEnd g t).outvote g n) hc hd rfl
  have hfirm := p.atEnd_firm g t
  obtain ⟨h8, -, hg⟩ := Part.mem_members.1 hn
  rw [Part.members_outvote, hfirm.members g] at hmode hstay
  refine ⟨hmode, hopen, hprev, hevent.trans (Part.outvote_event _ g n), hleave n h8 (Part.outvote_lane _ g n) ?_,
    fun m hm hmn => hstay m (List.mem_filter.2 ⟨hm, by simpa using hmn⟩)⟩
  rw [Part.laneGrp_outvote, Part.laneGrp_of_reg (hfirm.lane n (List.mem_range.2 h8) h8), hg]

end

/-- Settles O19: the decision of Table 4.5 for each way that the signatures stand, and the masking of a late lane. -/
theorem signatureDecision : Obligations.SignatureDecision := by
  unfold Obligations.SignatureDecision
  refine ⟨fun g t s h => ?comparison, fun n t s h => ?late⟩
  case comparison =>
    intro c ms crc ready
    have hmem : (s.part.at t).members g = ms := rfl
    have comparable (hready : ready) : (s.part.at t).Comparable g := by
      obtain ⟨-, -, hended, hvoted, hwords, -⟩ := hready
      exact ⟨hended, hwords, hvoted⟩
    have compare {P : Part → Prop} (hready : ready) (hP : P ((s.part.at t).compareSigs g t)) :
        Does (.signatureComparison g t) s P := by
      obtain ⟨hopen, ht0, hended, -, -, -⟩ := hready
      refine .of_run (exec_signatureComparison g t s) h ?_
      rw [Part.signatureComparison_due hopen ht0 hended]
      exact hP
    have sigs {l : List Nat} (hms : ms = l) : (s.part.at t).sigs g = l.map (fun n => (n, crc n)) := hms ▸ rfl
    refine ⟨fun a b d hready hms hab hbd => compare hready ?tmr, fun a b d n hready hms hn hne heq => compare hready ?masked,
      fun a b hready hms hab => compare hready ?duplex, fun a b hready hms hab => compare hready ?split,
      fun hearly => .of_run (exec_signatureComparison g t s) (Part.signatureComparison_early hearly)⟩
    case tmr =>
      have hd : sigDecision ((s.part.at t).sigs g) = some [] := by rw [sigs hms]; simp [sigDecision, hab, hbd]
      obtain ⟨hmode, hrest⟩ := Part.compareSigs_agreed (t := t) (comparable hready) hd
      rw [hmem, hms] at hmode
      exact ⟨hmode, hrest⟩
    case masked =>
      have hnodup : [a, b, d].Nodup := hms ▸ s.part.members_nodup g
      obtain ⟨hdec, hlen⟩ := sigDecision_odd (f := crc) hnodup (hms ▸ hn) (hms ▸ hne) (hms ▸ heq)
      obtain ⟨hmode, hrest⟩ := Part.compareSigs_masked (t := t) (comparable hready) (by rw [sigs hms, hdec]) hn
      rw [hmem, hms, hlen] at hmode
      exact ⟨hmode, hrest⟩
    case duplex =>
      have hd : sigDecision ((s.part.at t).sigs g) = some [] := by rw [sigs hms]; simp [sigDecision, hab]
      obtain ⟨hmode, hrest⟩ := Part.compareSigs_agreed (t := t) (comparable hready) hd
      rw [hmem, hms] at hmode
      exact ⟨hmode, hrest⟩
    case split =>
      have hd : sigDecision ((s.part.at t).sigs g) = none := by rw [sigs hms]; simp [sigDecision, hab]
      obtain ⟨hmode, hopen, hprev, hevent, hcount, hhalt⟩ := Part.compareSigs_noMajority (t := t) (comparable hready) hd
      refine ⟨hmode, hopen, hprev, hevent, hcount, fun hp => ?_, fun hp => ?_⟩
      · rw [hhalt, Part.cg_at, show (s.part.cg g).prevNoMaj = true from hp, Bool.or_true]
      · rw [hhalt, Part.cg_at, show (s.part.cg g).prevNoMaj = false from hp, Bool.or_false]
  case late =>
    intro g
    have late {P : Part → Prop} (hP : P ((s.part.at t).laneLate n t)) : Does (.laneLate n t) s P :=
      .of_run (f := fun p => (p.at t).laneLate n t) rfl h hP
    refine ⟨fun h1 ho he ht => late ?_, fun hno => late (Part.laneLate_inTime ?_)⟩
    · have hlate : (s.part.at t).isLate n t = true := by
        rw [Part.isLate, Bool.and_eq_true, Bool.and_eq_true, Bool.and_eq_true]
        exact ⟨⟨⟨decide_eq_true h1, ho⟩, by simpa using he⟩, decide_eq_true ht⟩
      obtain ⟨hst, hfl, hevent, hothers, hregs⟩ := Part.laneLate_spec (p := s.part.at t) h1 ho hlate
      exact ⟨hst, hfl, hevent, fun m hm => hothers m (fun he => hm (Fin.ext he)), hregs⟩
    · have hat : (s.part.at t).isLate n t = s.part.isLate n t := rfl
      rw [hat, Part.isLate]
      rcases hno with h1 | ho | he | ht
      · rw [decide_eq_false h1]
        rfl
      · rw [show (s.part.cg (s.part.laneGrp n)).open_ = false from ho, Bool.and_false]
        rfl
      · rw [he]
        simp
      · rw [decide_eq_false (Nat.not_le.2 ht), Bool.and_false]

end Sys2Proof.Machine
end

section
/-! PROOFS. What all of Heloryx-V shares (R113, R114, R118, R147, R161, R162, R164): how an operation issues where it has no
effect, when its result lands, what a lane leaves unchanged beside it, the end of a sample, and the slot words. -/

namespace Sys2Proof.Machine

/-! Issue without an effect: a lane that runs no sample, and a guard that is false. -/

section
variable {p : Part} {o : VOp}

theorem Part.issue_idle {isX : Bool} {f : VCtx → Lane → VResult} (h : p.laneRuns o.lane = false) : p.issue o isX f = p :=
  if_neg (Bool.eq_false_iff.1 h)

theorem Part.issueVote_idle {a : Nat} (h : p.laneRuns o.lane = false) : p.issueVote o a = p :=
  if_neg (Bool.eq_false_iff.1 h)

theorem Part.sampleEnd_idle (h : p.laneRuns o.lane = false) : p.sampleEnd o = p :=
  if_neg (Bool.eq_false_iff.1 h)

theorem Part.issue_guarded {isX : Bool} {f : VCtx → Lane → VResult} (hruns : p.laneRuns o.lane = true)
    (hguard : ((p.lane o.lane).upTo o.bundle.toNat).preg o.p.toNat = false) :
    p.issue o isX f = p.ranLane o.lane ((p.lane o.lane).upTo o.bundle.toNat) := by
  simp [Part.issue, hruns, hguard]

end

/-- The rows that issue and send nothing to the voter. -/
def issuedOps : List (VOp → Instr) :=
  [.vNop, .vFadd, .vFsub, .vFmul, .vFma, .vFnma, .vFmin, .vFmax, .vFabs, .vFneg, .vFmov, .vFcmp, .vSel,
   .vSat, .vIntg, .vAccd, .vFtst, .vPlog, .vIand, .vIor, .vIxor, .vIshl, .vIshr, .vIcmp, .vPins, .vCvti, .vCvtf, .vLd,
   .vSt, .vLdc, .vLdp, .vIn, .vSincos, .vSqrt, .vRecip, .vAtan2, .vClarke, .vPark, .vIpark, .vSeq, .vSwing, .vLimv,
   .vBiq, .vInj, .vAadd, .vAdif]

theorem exec_of_mem_issuedOps {f : VOp → Instr} (hf : f ∈ issuedOps) (o : VOp) (s : State) :
    ∃ (isX : Bool) (g : VCtx → Lane → VResult), exec (f o) s = s.run (·.issue o isX g) := by
  revert f
  simp only [issuedOps, List.forall_mem_cons, List.not_mem_nil, false_implies, implies_true, and_true]
  and_intros <;> exact ⟨_, _, rfl⟩

theorem idles_of_mem_issuedOps {f : VOp → Instr} {o : VOp} {s : State} (hf : f ∈ issuedOps)
    (h : s.part.laneRuns o.lane = false) : Idles (f o) s := by
  obtain ⟨isX, g, he⟩ := exec_of_mem_issuedOps hf o s
  exact .of_run he (Part.issue_idle h)

section
variable {o : VOp} {s : State} (halive : s.part.alive = true) (hruns : s.part.laneRuns o.lane = true)
  (hguard : (vLane s o).preg o.p.toNat = false)
include halive hruns hguard

theorem does_guarded_of_mem_issuedOps {f : VOp → Instr} (hf : f ∈ issuedOps) :
    Does (f o) s (fun p => p = s.part.ranLane o.lane (vLane s o)) := by
  obtain ⟨isX, g, he⟩ := exec_of_mem_issuedOps hf o s
  exact .of_run he halive (Part.issue_guarded hruns hguard)

/-- A voted write whose guard is false takes its place among the votes as "no write". -/
theorem Lands.of_voteGuarded {i : Instr} {m : BitVec 5} {a : Nat}
    (he : exec i s = s.run (·.issueVote { o with mod := m } a)) : Lands i o s false 1 [.vote { addr := a, val := none }] := by
  refine .of_run he halive ?_
  unfold vLane at hguard ⊢
  simp [Part.issueVote, hruns, hguard]

end

/-! What a lane's operation does to the part's lanes (R118). -/

section
variable (p : Part) (n : Nat) (l : Lane)

/-- A lane loads from lane `n` while it runs, and follows its stores; or lane `n` alone changes. -/
theorem Part.ranLane_cases :
    (∃ x, (p.cg (p.laneGrp n)).load = some x ∧ (p.members (p.laneGrp n)).head? = some n ∧ x.lane ≠ n ∧
      p.ranLane n l = (p.setLane n l).onLane x.lane (fun r => { r with data := followWords (p.lane n).data l.data r.data })) ∨
    ((∀ x, (p.cg (p.laneGrp n)).load = some x → (p.members (p.laneGrp n)).head? = some n → x.lane = n) ∧
      p.ranLane n l = p.setLane n l) := by
  dsimp only [Part.ranLane]
  cases hload : (p.cg (p.laneGrp n)).load with
  | none => exact .inr ⟨nofun, rfl⟩
  | some x =>
    by_cases hfollows : x.lane ≠ n ∧ (p.members (p.laneGrp n)).head? = some n
    · exact .inl ⟨x, rfl, hfollows.2, hfollows.1, if_pos (by simpa using hfollows)⟩
    · refine .inr ⟨?_, if_neg (by simpa using hfollows)⟩
      rintro y hy hhead
      obtain rfl := Option.some.inj hy
      exact not_not.1 fun hne => hfollows ⟨hne, hhead⟩

/-- Nothing but lanes changes. -/
theorem Part.ranLane_frame : p.ranLane n l = { p with lanes := (p.ranLane n l).lanes } := by
  obtain ⟨x, -, -, -, hran⟩ | ⟨-, hran⟩ := p.ranLane_cases n l <;> rw [hran] <;> rfl

theorem Part.reg_ranLane (off : Nat) : (p.ranLane n l).reg off = p.reg off := by
  rw [Part.ranLane_frame]
  rfl

variable {n}

theorem Part.lane_ranLane_same (hn : n < 8) : (p.ranLane n l).lane n = l := by
  obtain ⟨x, -, -, hne, hran⟩ | ⟨-, hran⟩ := p.ranLane_cases n l
  · rw [hran, Part.onLane, Part.lane_setLane, if_neg (fun h => hne h.1.symm), Part.lane_setLane, if_pos ⟨rfl, hn⟩]
  · rw [hran, Part.lane_setLane, if_pos ⟨rfl, hn⟩]

theorem Part.lane_ranLane_other {k : Nat} (hk : k ≠ n) (hload : ∀ x, (p.cg (p.laneGrp n)).load = some x →
    (p.members (p.laneGrp n)).head? = some n → x.lane ≠ k) : (p.ranLane n l).lane k = p.lane k := by
  obtain ⟨x, hx, hhead, -, hran⟩ | ⟨-, hran⟩ := p.ranLane_cases n l
  · rw [hran, Part.onLane, Part.lane_setLane, if_neg (fun h => hload x hx hhead h.1.symm), Part.lane_setLane,
      if_neg (fun h => hk h.1)]
  · rw [hran, Part.lane_setLane, if_neg (fun h => hk h.1)]

theorem Part.lane_ranLane_loading {x : Loading} (hx : (p.cg (p.laneGrp n)).load = some x)
    (hhead : (p.members (p.laneGrp n)).head? = some n) (hne : x.lane ≠ n) (h8 : x.lane < 8) :
    (p.ranLane n l).lane x.lane =
      { p.lane x.lane with data := followWords (p.lane n).data l.data (p.lane x.lane).data } := by
  obtain ⟨y, hy, -, -, hran⟩ | ⟨hnone, -⟩ := p.ranLane_cases n l
  · obtain rfl : x = y := Option.some.inj (hx.symm.trans hy)
    rw [hran, Part.onLane, Part.lane_setLane, if_pos ⟨rfl, h8⟩, Part.lane_setLane, if_neg (fun h => hne h.1)]
  · exact absurd (hnone x hx hhead) hne

end

theorem followWords_same (m d : WordFile) : followWords m m d = d := by
  have hgone : m.filter (fun e => m.all (fun f => f.1 ≠ e.1)) = [] :=
    List.filter_eq_nil_iff.2 fun e he hall => of_decide_eq_true (List.all_eq_true.1 hall e he) rfl
  have hnew : m.filter (fun e => !m.contains e) = [] := List.filter_eq_nil_iff.2 (by simp)
  rw [followWords, hgone, hnew]
  rfl

/-! When a result lands (R162), and in which order (R114). -/

section
variable {l : Lane} {due c r : Nat} {isX : Bool} {x : Word} (h : l.inflight = [])
include h

theorem Lane.upTo_launch_before (e : LandEffect) (hc : c < due) :
    (l.launch due isX [e]).upTo c = { l.launch due isX [e] with cycle := max l.cycle c } := by
  simp [Lane.upTo, Lane.launch, h, insertLanding, landUpTo, Nat.not_le.2 hc]

theorem Lane.upTo_launch_v (hc : due ≤ c) : (l.launch due isX [.v r x]).upTo c =
    { l with v := sSet (fun _ => 0) l.v r x, inflight := [], cycle := max l.cycle c } := by
  simp [Lane.upTo, Lane.launch, h, insertLanding, landUpTo, hc, Lane.land]

/-- What the X slot gives lands after what another slot gives for the same cycle, whichever of the two issued first. -/
theorem Lane.launch_x_comm (e e' : LandEffect) :
    (l.launch due true [e]).launch due false [e'] = (l.launch due false [e']).launch due true [e] := by
  simp [Lane.launch, h, insertLanding, landsBefore]

end

theorem Lane.vreg_upTo_launch {l : Lane} {due r : Nat} {isX : Bool} {x : Word} (h : l.inflight = []) (c k : Nat) :
    ((l.launch due isX [.v r x]).upTo c).vreg k = if due ≤ c ∧ k = r then x else l.vreg k := by
  by_cases hc : due ≤ c
  · rw [Lane.upTo_launch_v h hc, Lane.vreg, sGet_sSet]
    simp [hc, Lane.vreg]
  · rw [Lane.upTo_launch_before h _ (Nat.not_le.1 hc), if_neg (fun hr => hc hr.1)]
    rfl

/-- A result for a v register changes nothing of the lane beside the v registers. -/
theorem Lane.upTo_launch_frame {l : Lane} {due r : Nat} {isX : Bool} {x : Word} (h : l.inflight = []) (c : Nat) :
    let m := (l.launch due isX [.v r x]).upTo c
    m.data = l.data ∧ m.a = l.a ∧ m.f = l.f ∧ m.crc = l.crc := by
  by_cases hc : due ≤ c
  · rw [Lane.upTo_launch_v h hc]
    exact ⟨rfl, rfl, rfl, rfl⟩
  · rw [Lane.upTo_launch_before h _ (Nat.not_le.1 hc)]
    exact ⟨rfl, rfl, rfl, rfl⟩

/-! The end of a sample (R164). -/

theorem Part.sampleEnd_runs {p : Part} {o : VOp} (h : p.laneRuns o.lane = true) :
    p.sampleEnd o = (p.ranLane o.lane ((p.lane o.lane).sampleEnd o.bundle.toNat)).setReg (Reg.CLE_LSIG o.lane)
      ((p.lane o.lane).sampleEnd o.bundle.toNat).crc :=
  if_pos h

/-- Writing one register as a lane leaves its operation changes that register and the lanes, and nothing else. -/
theorem Part.ranLane_setReg (p : Part) (n : Nat) (l : Lane) (off : Nat) (v : Word) :
    let q := (p.ranLane n l).setReg off v
    q.reg off = v ∧ q.lanes = (p.ranLane n l).lanes ∧ RegsBut p q [off] ∧
      q = { p with regs := q.regs, lanes := q.lanes } := by
  refine ⟨?_, rfl, ?_, ?_⟩
  · rw [Part.reg_setReg, if_pos rfl]
  · exact RegsBut.trans (fun k _ => p.reg_ranLane n l k) (.setReg (by simp))
  · rw [Part.ranLane_frame]
    rfl

theorem does_sampleEnd {o : VOp} {s : State} (halive : s.part.alive = true) (hruns : s.part.laneRuns o.lane = true) :
    let l := (s.part.lane o.lane).sampleEnd o.bundle.toNat
    Does (.vSampleEnd o) s (fun p => p.reg (Reg.CLE_LSIG o.lane) = l.crc ∧ p.lanes = (s.part.ranLane o.lane l).lanes ∧
      RegsBut s.part p [Reg.CLE_LSIG o.lane] ∧ p = { s.part with regs := p.regs, lanes := p.lanes }) := by
  refine .of_run (f := (·.sampleEnd o)) rfl halive ?_
  rw [Part.sampleEnd_runs hruns]
  exact Part.ranLane_setReg _ _ _ _ _

/-! Slot words (R147, Tables 5.1 and 5.2). -/

/-- Table 5.1: where the fields of a slot word stand. -/
theorem slotWord_fields (op d s1 s2 : BitVec 6) (p : BitVec 3) (mod : BitVec 5) :
    let w := op ++ d ++ s1 ++ s2 ++ p ++ mod
    w.extractLsb' 26 6 = op ∧ w.extractLsb' 20 6 = d ∧ w.extractLsb' 14 6 = s1 ∧ w.extractLsb' 8 6 = s2 ∧
      w.extractLsb' 5 3 = p ∧ w.extractLsb' 0 5 = mod := by
  -- The widths stay sums: each field is found by taking away the fields below it.
  simp [-Nat.reduceAdd, BitVec.extractLsb'_append_eq_of_le, BitVec.extractLsb'_append_eq_right]

theorem decodeSlotWord_fields (lane : Fin 8) (bundle : BitVec 13) (op d s1 s2 : BitVec 6) (p : BitVec 3) (mod : BitVec 5) :
    decodeSlotWord lane bundle (op ++ d ++ s1 ++ s2 ++ p ++ mod) =
      (slotOps.find? (fun e => e.1 = op.toNat)).map
        (fun e => e.2 { lane := lane, bundle := bundle, d := d, s1 := s1, s2 := s2, p := p, mod := mod }) := by
  obtain ⟨hop, hd, hs1, hs2, hp, hmod⟩ := slotWord_fields op d s1 s2 p mod
  rw [decodeSlotWord, hop, hd, hs1, hs2, hp, hmod]

theorem slotOps_codes_nodup : (slotOps.map (·.1)).Nodup := by decide

theorem slotOps_code_lt : ∀ e ∈ slotOps, e.1 < 2 ^ 6 := by decide

/-- No two operations share a code, so the code finds its operation. -/
theorem slotOps_find {e : Nat × (VOp → Instr)} (he : e ∈ slotOps) : slotOps.find? (fun x => x.1 = e.1) = some e := by
  obtain ⟨x, hx⟩ := Option.isSome_iff_exists.1 (List.find?_isSome (p := fun x => decide (x.1 = e.1)).2 ⟨e, he, by simp⟩)
  rw [hx, List.inj_on_of_nodup_map slotOps_codes_nodup (List.mem_of_find?_eq_some hx) he
    (by simpa using List.find?_some hx)]

/-- Settles O26 (a lane that runs no sample: log entry 8, a choice of the model): an operation changes its lane as it issued
it, by the lemma for each way to issue; what follows for landings, stores and the other lanes rests on the lane alone. -/
theorem vTimingAndGuards : Obligations.VTimingAndGuards := by
  unfold Obligations.VTimingAndGuards
  refine ⟨fun f o s hf => ⟨idles_of_mem_issuedOps hf, fun halive hruns hguard =>
      does_guarded_of_mem_issuedOps halive hruns hguard hf⟩,
    fun o s halive hruns hguard => ⟨.of_voteGuarded (m := o.mod) halive hruns hguard rfl,
      .of_voteGuarded (m := o.mod &&& 0xF) halive hruns hguard rfl⟩,
    fun o s h => ⟨.of_run (f := (·.issueVote o _)) rfl (Part.issueVote_idle h),
      .of_run (f := (·.issueVote { o with mod := o.mod &&& 0xF } _)) rfl (Part.issueVote_idle h)⟩,
    fun o s i isX lat r x hl hq => ?landing, fun l due a b x y h => by rw [Lane.launch_x_comm h],
    fun o s halive hruns => does_sampleEnd halive hruns, fun p n l => ?lanes,
    fun a w m d => ⟨followWords_same m d, fun _ => rfl⟩,
    fun o s h => .of_run (f := (·.sampleEnd o)) rfl (Part.sampleEnd_idle h), slotOps_codes_nodup,
    fun lane bundle d s1 s2 p mod => ⟨fun e he => ?spells, fun op hop => ?reserved⟩, rfl⟩
  case landing =>
    refine hl.imp fun p hp => ?_
    have hlane : p.lane o.lane = (vLane s o).launch (o.bundle.toNat + lat) isX [.v r x] := by
      rw [hp, Part.lane_ranLane_same _ _ o.lane.isLt]
    have hv := Lane.vreg_upTo_launch (r := r) (x := x) (isX := isX) (due := o.bundle.toNat + lat) hq
    rw [hlane]
    refine ⟨fun c hc k => ?_, fun c hc => ⟨?_, fun k hk => ?_⟩, Lane.upTo_launch_frame hq⟩
    · rw [hv, if_neg (fun h => Nat.not_le.2 hc h.1)]
    · rw [hv, if_pos ⟨hc, rfl⟩]
    · rw [hv, if_neg (fun h => hk h.2)]
  case lanes =>
    exact ⟨p.lane_ranLane_same l n.isLt, p.ranLane_frame n l,
      fun k hk hload => p.lane_ranLane_other l (fun h => hk (Fin.ext h)) hload,
      fun x hx hhead hne h8 => p.lane_ranLane_loading l hx hhead hne h8⟩
  case spells =>
    rw [decodeSlotWord_fields, BitVec.toNat_ofNat, Nat.mod_eq_of_lt (slotOps_code_lt e he), slotOps_find he]
    rfl
  case reserved =>
    rw [decodeSlotWord_fields, List.find?_eq_none.2 (by simpa using hop)]
    rfl

end Sys2Proof.Machine
end

section
/-! PROOFS. What the trip of a leg leaves as it was (R190, R191), as two relations between the part before and the part after: the
registers of sensing and of the comparators, the legs beside those named, the latches that stood and the crossings held; and,
where nothing is held, what sensing keeps. The rules by which a meaning keeps them. -/

namespace Sys2Proof.Machine

/-- Registers that neither a trip nor the end of a blanking window writes: those of sensing, and those of the comparators but for
the fault record and the counts of discarded crossings. -/
abbrev TripFree (off : Nat) : Prop :=
  (0x100000 ≤ off ∧ off < 0x140040) ∨ (0x140100 ≤ off ∧ off < 0x140400 ∧ off % 0x20 ≠ 0xC)

/-- What sensing holds beside the earliest stamp of the fault record. -/
def SenseState.unstamped (x : SenseState) : SenseState := { x with ffTime := 0 }

/-- From `b` to `p` the trips of the legs listed changed nothing beside them. -/
structure Part.Beside (p : Part) (ls : List Nat) (b : Part) : Prop where
  reg : ∀ off, TripFree off → p.reg off = b.reg off
  leg : ∀ l ∉ ls, p.leg l = b.leg l
  latch : ∀ l ∉ ls, p.latched l = b.latched l
  stays : ∀ l, b.latched l = true → p.latched l = true
  held : b.sense.held ⊆ p.sense.held

/-- The same where no crossing was held. -/
structure Part.Tripped (p : Part) (ls : List Nat) (b : Part) : Prop extends Part.Beside p ls b where
  sense : p.sense.unstamped = b.sense.unstamped

section
variable {p q b : Part} {ls : List Nat}

theorem Part.Beside.refl (ls : List Nat) (p : Part) : p.Beside ls p :=
  ⟨fun _ _ => rfl, fun _ _ => rfl, fun _ _ => rfl, fun _ h => h, List.Subset.refl _⟩

theorem Part.Tripped.refl (ls : List Nat) (p : Part) : p.Tripped ls p := ⟨.refl ls p, rfl⟩

theorem Part.Beside.mono {ms : List Nat} (h : p.Beside ls b) (hm : ls ⊆ ms) : p.Beside ms b :=
  { h with leg := fun l hl => h.leg l (fun hx => hl (hm hx)), latch := fun l hl => h.latch l (fun hx => hl (hm hx)) }

theorem Part.Beside.trans (h1 : p.Beside ls q) (h2 : q.Beside ls b) : p.Beside ls b where
  reg off ho := (h1.reg off ho).trans (h2.reg off ho)
  leg l hl := (h1.leg l hl).trans (h2.leg l hl)
  latch l hl := (h1.latch l hl).trans (h2.latch l hl)
  stays l hl := h1.stays l (h2.stays l hl)
  held := List.Subset.trans h2.held h1.held

theorem Part.Tripped.held_eq (h : p.Tripped ls b) : p.sense.held = b.sense.held :=
  congrArg (·.held) h.sense

theorem Part.Tripped.stands (h : p.Tripped ls b) (src : Nat) : p.stands src = b.stands src := by
  have hs : p.sense.standing = b.sense.standing := congrArg (·.standing) h.sense
  rw [Part.stands, hs, Part.stands]

/-! The rules. -/

theorem Part.Tripped.ite {c : Prop} [Decidable c] (hp : p.Tripped ls b) (hq : q.Tripped ls b) :
    (if c then p else q).Tripped ls b := by
  split <;> assumption

section
variable (h : p.Tripped ls b)
include h

/-- A register that is none of those kept. -/
theorem Part.Tripped.setReg {off : Nat} {v : Word} (ha : ¬ TripFree off ∧ off ≠ Reg.GATE_LATCH) :
    (p.setReg off v).Tripped ls b where
  reg o ho := by
    rw [reg_setReg, if_neg (by rintro rfl; exact ha.1 ho), h.reg o ho]
  leg := h.leg
  latch l hl := by
    rw [← h.latch l hl, latched, latched, bit, bit, reg_setReg, if_neg ha.2.symm]
  stays l hl := by
    rw [← h.stays l hl, latched, latched, bit, bit, reg_setReg, if_neg ha.2.symm]
  held := h.held
  sense := h.sense

/-- The latch of a leg listed rises. -/
theorem Part.Tripped.riseLatch {l : Nat} (hl : l ∈ ls) (h24 : l < 24) : (p.setBit Reg.GATE_LATCH l true).Tripped ls b where
  reg o ho := by
    rw [reg_setBit, if_neg (by rintro rfl; revert ho; decide), h.reg o ho]
  leg := h.leg
  latch m hm := by
    rw [← h.latch m hm, latched, bit_setBit _ _ (by omega), if_neg (by rintro rfl; exact hm hl), latched]
  stays m hm := by
    rw [latched, bit_setBit _ _ (by omega)]
    split
    · rfl
    · exact h.stays m hm
  held := h.held
  sense := h.sense

/-- Registers, legs and sensing stay as they are. -/
theorem Part.Tripped.same (hr : q.regs = p.regs) (hl : q.pwm.legs = p.pwm.legs) (hs : q.sense = p.sense) : q.Tripped ls b := by
  have hreg (off : Nat) : q.reg off = p.reg off := by rw [Part.reg, hr, Part.reg]
  refine ⟨⟨fun off ho => (hreg off).trans (h.reg off ho), fun l hx => ?_, fun l hx => ?_, fun l hx => ?_, hs ▸ h.held⟩,
    hs ▸ h.sense⟩
  · rw [← h.leg l hx, Part.leg, hl, Part.leg]
  · rw [← h.latch l hx, latched, bit, hreg, latched, bit]
  · rw [← h.stays l hx, latched, bit, hreg, latched, bit]

theorem Part.Tripped.setLeg {l : Nat} {x : Leg} (hl : l ∈ ls) : (p.setLeg l x).Tripped ls b :=
  { h with
    leg := fun m hm => by
      rw [← h.leg m hm, Part.leg, Part.setLeg, vget_vset, if_neg (by rintro ⟨rfl, -⟩; exact hm hl), Part.leg] }

theorem Part.Tripped.stampRecord {t : Instant} : { p with sense := { p.sense with ffTime := t } }.Tripped ls b :=
  { h with }

theorem Part.Tripped.each {α : Type} {f : Part → α → Part} {l : List α}
    (hf : ∀ q, ∀ a ∈ l, q.Tripped ls b → (f q a).Tripped ls b) : (p.each l f).Tripped ls b := by
  induction l generalizing p with
  | nil => exact h
  | cons a l ih => exact ih (hf p a (by simp) h) (fun q x hx => hf q x (List.mem_cons_of_mem a hx))

theorem Part.Tripped.when {c : Bool} {f : Part → Part} (hf : ∀ q, q.Tripped ls b → (f q).Tripped ls b) :
    (p.when c f).Tripped ls b := .ite (hf _ h) h

end

end

/-! The registers that a trip writes. -/

theorem tripWrites_PWM {q : Nat} : (¬ TripFree (Reg.PWM_CARRYA q) ∧ Reg.PWM_CARRYA q ≠ Reg.GATE_LATCH) ∧
    (¬ TripFree (Reg.PWM_CARRYB q) ∧ Reg.PWM_CARRYB q ≠ Reg.GATE_LATCH) := by
  simp only [TripFree, Reg.PWM_CARRYA, Reg.PWM_CARRYB, Reg.GATE_LATCH]
  omega

theorem tripWrites_leg {l : Nat} (h : l < 24) : (¬ TripFree (Reg.PWM_LSTAT l) ∧ Reg.PWM_LSTAT l ≠ Reg.GATE_LATCH) ∧
    (¬ TripFree (Reg.PROT_FTS_LO l) ∧ Reg.PROT_FTS_LO l ≠ Reg.GATE_LATCH) ∧
    (¬ TripFree (Reg.PROT_FTS_LO l + 4) ∧ Reg.PROT_FTS_LO l + 4 ≠ Reg.GATE_LATCH) ∧
    (¬ TripFree (Reg.PROT_FTS_LO l + 8) ∧ Reg.PROT_FTS_LO l + 8 ≠ Reg.GATE_LATCH) ∧
    (¬ TripFree (Reg.PROT_FSRC l) ∧ Reg.PROT_FSRC l ≠ Reg.GATE_LATCH) := by
  simp only [TripFree, Reg.PWM_LSTAT, Reg.PROT_FTS_LO, Reg.PROT_FSRC, Reg.GATE_LATCH]
  omega

theorem tripWrites_GATE_GT {c : Nat} :
    ¬ TripFree (chanReg Reg.GATE_GT_LO c) ∧ chanReg Reg.GATE_GT_LO c ≠ Reg.GATE_LATCH := by
  simp only [TripFree, chanReg, Reg.GATE_GT_LO, Reg.GATE_LATCH]
  omega

theorem tripWrites_above {a b : Nat} (h : 0x170000 ≤ a) : ¬ TripFree (a + b) ∧ a + b ≠ Reg.GATE_LATCH := by
  simp only [TripFree, Reg.GATE_LATCH]
  omega

/-! The trip of a leg in two parts: its latch, and the record. -/

/-- A leg that is not latched latches, and its drivers are asked. -/
def Part.takeTrip (p : Part) (l : Nat) (t : Instant) : Part :=
  (p.keepLatch l).when (!p.latched l) (fun p => ((p.latchLeg t l).askDrivers l).report 0x10)

/-- The record takes a leg in that it does not hold. -/
def Part.recordTrip (p : Part) (l src cls : Nat) (held : Bool) (t : Instant) : Part :=
  let stamp := p.earliest l t
  let w := BitVec.ofNat 32 (2 ^ 31 + (if held then 2 ^ 30 else 0) + cls * 256 + src)
  if p.bit Reg.PROT_FLEGS l then p
  else
    ((((p.setBit Reg.PROT_FLEGS l true).setStamp (Reg.PROT_FTS_LO l) (p.ringOf stamp)).setReg (Reg.PROT_FSRC l) w).protFirst
      l cls src stamp).when (p.reg Reg.PROT_FLEGS = 0) (·.capEvent 0x411 stamp)

theorem Part.tripLeg_eq (p : Part) (l src cls : Nat) (held : Bool) (t : Instant) :
    p.tripLeg l src cls held t = (p.takeTrip l t).recordTrip l src cls held t := rfl

/-! The operations. -/

section
variable {ls : List Nat} {p b : Part} (h : p.Tripped ls b)
include h

theorem Part.Tripped.setFld {off lo w n : Nat} (ha : ¬ TripFree off ∧ off ≠ Reg.GATE_LATCH) :
    (p.setFld off lo w n).Tripped ls b := h.setReg ha

theorem Part.Tripped.setBit {off i : Nat} {x : Bool} (ha : ¬ TripFree off ∧ off ≠ Reg.GATE_LATCH) :
    (p.setBit off i x).Tripped ls b := h.setReg ha

theorem Part.Tripped.setCapUnit {u : Nat} {x : CapUnit} : (p.setCapUnit u x).Tripped ls b := h.same rfl rfl rfl

theorem Part.Tripped.takeBuf {u : Nat} : (p.takeBuf u).Tripped ls b := by
  dsimp only [Part.takeBuf]
  split <;> exact h.same rfl rfl rfl

theorem Part.Tripped.capFire {tr : Nat} {t : Instant} {u : Nat} : (p.capFire tr t u).Tripped ls b := by
  have hbuf : (p.when (p.capUnit u).buf.isNone (·.takeBuf u)).Tripped ls b := h.when fun _ hq => hq.takeBuf
  refine .ite h ?_
  dsimp only
  split
  · exact .ite hbuf.setCapUnit hbuf.setCapUnit
  · refine .ite (.setBit (hbuf.setReg ?_) ?_) (.ite hbuf hbuf.setCapUnit) <;> exact tripWrites_above (by decide)

theorem Part.Tripped.trigFire {tr : Nat} {t : Instant} : (p.trigFire tr t).Tripped ls b := by
  have hstat {u : Nat} {q : Part} (hq : q.Tripped ls b) : (q.capShow u).Tripped ls b := hq.setReg (tripWrites_above (by decide))
  have hcount : (p.countWrap (Reg.CAP_TSTAT tr) 0 16).Tripped ls b := h.setFld (tripWrites_above (by decide))
  refine hstat (hstat (.capFire (.capFire (((hcount.setReg ?_).setReg ?_).setReg ?_))))
  · exact tripWrites_above (by decide)
  all_goals
    rw [Reg.CAP_TTIME_LO, Nat.add_assoc]
    exact tripWrites_above (by decide)

theorem Part.Tripped.capEvent {src : Nat} {t : Instant} : (p.capEvent src t).Tripped ls b := h.each fun _ _ _ hq => hq.trigFire

theorem Part.Tripped.clearPair {q : Nat} : (p.clearPair q).Tripped ls b :=
  ((h.setReg tripWrites_PWM.1).setReg tripWrites_PWM.2).same rfl rfl rfl

theorem Part.Tripped.setGt {c : Nat} {lvl : Bool} {t : Instant} : (p.setGt c lvl t).Tripped ls b :=
  (h.setBit tripWrites_GATE_GT).same rfl rfl rfl

theorem Part.Tripped.askDrivers {l : Nat} : (p.askDrivers l).Tripped ls b := h.each fun _ _ _ hq => hq.same rfl rfl rfl

theorem Part.Tripped.report {cause : Nat} : (p.report cause).Tripped ls b := h.same rfl rfl rfl

theorem Part.Tripped.protFirst {l cls src : Nat} {stamp : Instant} : (p.protFirst l cls src stamp).Tripped ls b :=
  .ite (h.stampRecord.setReg (by decide)) h

theorem Part.Tripped.recordTrip {l src cls : Nat} {held : Bool} {t : Instant} (h24 : l < 24) :
    (p.recordTrip l src cls held t).Tripped ls b := by
  obtain ⟨-, hlo, hhi, hfr, hsrc⟩ := tripWrites_leg h24
  refine .ite h (.when (.protFirst (.setReg ?_ hsrc)) fun _ hq => hq.capEvent)
  exact (((h.setBit (by decide)).setReg hlo).setReg hhi).setReg hfr

section
variable {l : Nat} (hl : l ∈ ls)
include hl

theorem Part.Tripped.command {c : Nat} {lvl : Bool} {t : Instant} : (p.command l c lvl t).Tripped ls b :=
  (h.setGt.each fun _ _ _ hq => hq.setGt).setLeg hl

variable (h24 : l < 24)
include h24

theorem Part.Tripped.noteLeg {v : LegView} {before : Nat} {t : Instant} : (p.noteLeg l v before t).Tripped ls b :=
  (h.setLeg hl).setFld (tripWrites_leg h24).1

theorem Part.Tripped.issueLeg {v : LegView} {want : List Bool} {t : Instant} {k : Nat} :
    (p.issueLeg l v want t k).Tripped ls b := by
  induction k generalizing p with
  | zero => exact h
  | succ k ih =>
    dsimp only [Part.issueLeg]
    split
    · exact h.setLeg hl
    · exact ih (((h.setLeg hl).command hl).noteLeg hl h24)

theorem Part.Tripped.countHeld {v : LegView} {want : List Bool} {t : Instant} : (p.countHeld l v want t).Tripped ls b :=
  .ite h ((h.setLeg hl).setFld (tripWrites_leg h24).1)

theorem Part.Tripped.evalLeg {t : Instant} : (p.evalLeg t l).Tripped ls b :=
  .ite h ((((h.when fun _ hq => hq.clearPair).setLeg hl).countHeld hl h24).issueLeg hl h24)

/-- What follows where the latch of a leg has risen. -/
theorem Part.Tripped.goSafe {t : Instant} :
    (((p.setBit Reg.GATE_SOFTOUT l true).hostFault.keepLatch l).evalLeg t l).Tripped ls b :=
  (((h.setBit (by decide)).setBit (by decide)).setLeg hl).evalLeg hl h24

theorem Part.Tripped.latchLeg {t : Instant} : (p.latchLeg t l).Tripped ls b := (h.riseLatch hl h24).goSafe hl h24

theorem Part.Tripped.takeTrip {t : Instant} : (p.takeTrip l t).Tripped ls b :=
  (h.setLeg hl).when fun _ hq => (hq.latchLeg hl h24).askDrivers.report

theorem Part.Tripped.tripLeg {src cls : Nat} {held : Bool} {t : Instant} : (p.tripLeg l src cls held t).Tripped ls b :=
  (h.takeTrip hl h24).recordTrip h24

end

end

/-- A leg that latches is latched. -/
theorem Part.latched_latchLeg (p : Part) (t : Instant) {l : Nat} (h24 : l < 24) : (p.latchLeg t l).latched l = true :=
  ((Part.Tripped.refl [l] (p.setBit Reg.GATE_LATCH l true)).goSafe (by simp) h24).stays l
    (p.bit_setBit_same _ _ _ (by omega))

/-- A leg that trips is latched. -/
theorem Part.latched_tripLeg (p : Part) (src cls : Nat) (held : Bool) (t : Instant) {l : Nat} (h24 : l < 24) :
    (p.tripLeg l src cls held t).latched l = true := by
  refine ((Part.Tripped.refl [l] (p.takeTrip l t)).recordTrip h24).stays l ?_
  cases hl : p.latched l with
  | true => exact ((Part.Tripped.refl [l] p).takeTrip (by simp) h24).stays l hl
  | false =>
    rw [Part.takeTrip, Part.when_true (by simp [hl])]
    exact (Part.Tripped.refl [l] _).askDrivers.report.stays l (Part.latched_latchLeg _ t h24)

end Sys2Proof.Machine
end

section
/-! PROOFS. What a crossing does to the legs of a mask (R189): each leg trips by itself, so that what becomes of one is known
from the step that meets it. -/

namespace Sys2Proof.Machine

variable {p : Part} {mask src cls l : Nat} {t : Instant}

/-- The legs of a mask on which a source acts. -/
def Part.actingLegs (p : Part) (mask : Nat) : List Nat := (setPositions 24 mask).filter p.legOn

theorem Part.mem_actingLegs : l ∈ p.actingLegs mask ↔ l < 24 ∧ mask.testBit l = true ∧ p.legOn l = true := by
  simp [Part.actingLegs, setPositions, and_left_comm, and_comm]

/-- A blanked source on one leg: a trip outside blanking, a crossing that is held inside it. -/
def Part.tripOrHold (p : Part) (src : Nat) (t : Instant) (l : Nat) : Part :=
  if t < (p.leg l).blankEnd then
    { p with sense := { p.sense with held := p.sense.held ++ [{ leg := l, src := src, t := t }] } }
  else p.tripLeg l src 0 false t

theorem Part.tripBlanked_eq (p : Part) (mask src : Nat) (t : Instant) :
    p.tripBlanked mask src t = p.each (p.actingLegs mask) (fun p l => p.tripOrHold src t l) := rfl

theorem Part.tripLegs_eq (p : Part) (mask src cls : Nat) (t : Instant) :
    p.tripLegs mask src cls t = p.each (p.actingLegs mask) (fun p l => p.tripLeg l src cls false t) := rfl

theorem Part.tripLeg_beside (p : Part) (src cls : Nat) (held : Bool) (t : Instant) (h24 : l < 24) :
    (p.tripLeg l src cls held t).Beside [l] p :=
  ((Part.Tripped.refl [l] p).tripLeg (by simp) h24).toBeside

theorem Part.tripOrHold_of_blanked (h : t < (p.leg l).blankEnd) : p.tripOrHold src t l =
    { p with sense := { p.sense with held := p.sense.held ++ [{ leg := l, src := src, t := t }] } } := if_pos h

theorem Part.tripOrHold_of_unblanked (h : (p.leg l).blankEnd ≤ t) : p.tripOrHold src t l = p.tripLeg l src 0 false t :=
  if_neg (Nat.not_lt.2 h)

theorem Part.tripOrHold_beside (p : Part) (src : Nat) (t : Instant) (h24 : l < 24) : (p.tripOrHold src t l).Beside [l] p := by
  by_cases h : t < (p.leg l).blankEnd
  · rw [Part.tripOrHold_of_blanked h]
    exact ⟨fun _ _ => rfl, fun _ _ => rfl, fun _ _ => rfl, fun _ hl => hl, List.subset_append_left _ _⟩
  · rw [Part.tripOrHold_of_unblanked (Nat.not_lt.1 h)]
    exact p.tripLeg_beside src 0 false t h24

/-! A list of legs, of which each step concerns one. -/

section
variable {f : Part → Nat → Part} {ls : List Nat} (hstep : ∀ q, ∀ a ∈ ls, (f q a).Beside [a] q)
include hstep

theorem Part.each_beside (p : Part) : (p.each ls f).Beside ls p := by
  induction ls generalizing p with
  | nil => exact .refl _ p
  | cons a ls ih =>
    have hrest := ih (fun q x hx => hstep q x (List.mem_cons_of_mem a hx)) (f p a)
    exact (hrest.mono (by simp)).trans ((hstep p a (by simp)).mono (by simp))

/-- A leg that its own step latches is latched in the end. -/
theorem Part.latched_each (hl : l ∈ ls) (hown : ∀ q, q.leg l = p.leg l → (f q l).latched l = true) :
    (p.each ls f).latched l = true := by
  induction ls generalizing p with
  | nil => exact absurd hl (by simp)
  | cons a ls ih =>
    have htail : ∀ q, ∀ x ∈ ls, (f q x).Beside [x] q := fun q x hx => hstep q x (List.mem_cons_of_mem a hx)
    by_cases ha : l = a
    · subst ha
      exact (Part.each_beside htail (f p l)).stays l (hown p rfl)
    · have hleg : (f p a).leg l = p.leg l := (hstep p a (by simp)).leg l (by simpa using ha)
      exact ih htail (List.mem_of_ne_of_mem ha hl) (fun q hq => hown q (hq.trans hleg))

end

section
variable {ls : List Nat} (h24 : ∀ a ∈ ls, a < 24)
include h24

theorem Part.holdEach_beside (p : Part) (src : Nat) (t : Instant) :
    (p.each ls (fun p l => p.tripOrHold src t l)).Beside ls p :=
  Part.each_beside (fun q a ha => q.tripOrHold_beside src t (h24 a ha)) p

/-- A leg outside blanking trips. -/
theorem Part.latched_holdEach_of_unblanked (hl : l ∈ ls) (h : (p.leg l).blankEnd ≤ t) :
    (p.each ls (fun p l => p.tripOrHold src t l)).latched l = true := by
  refine Part.latched_each (fun q a ha => q.tripOrHold_beside src t (h24 a ha)) hl fun q hq => ?_
  rw [Part.tripOrHold_of_unblanked (by rwa [hq])]
  exact q.latched_tripLeg src 0 false t (h24 l hl)

/-- A leg inside blanking keeps its latch as it is. -/
theorem Part.latched_holdEach (h : t < (p.leg l).blankEnd) :
    (p.each ls (fun p l => p.tripOrHold src t l)).latched l = p.latched l := by
  induction ls generalizing p with
  | nil => rfl
  | cons a ls ih =>
    have hrest := ih (p := p.tripOrHold src t a) (fun x hx => h24 x (List.mem_cons_of_mem a hx))
    by_cases ha : l = a
    · subst ha
      rw [Part.tripOrHold_of_blanked h] at hrest
      exact (congrArg (fun q : Part => (q.each ls _).latched l) (Part.tripOrHold_of_blanked h)).trans (hrest h)
    · have hone := p.tripOrHold_beside src t (h24 a (by simp))
      have hmem : l ∉ [a] := by simpa using ha
      exact (hrest (by rwa [hone.leg l hmem])).trans (hone.latch l hmem)

/-- A leg inside blanking holds the crossing. -/
theorem Part.held_holdEach (hl : l ∈ ls) (h : t < (p.leg l).blankEnd) :
    { leg := l, src := src, t := t } ∈ (p.each ls (fun p l => p.tripOrHold src t l)).sense.held := by
  induction ls generalizing p with
  | nil => exact absurd hl (by simp)
  | cons a ls ih =>
    have htail : ∀ x ∈ ls, x < 24 := fun x hx => h24 x (List.mem_cons_of_mem a hx)
    by_cases ha : l = a
    · subst ha
      refine (Part.holdEach_beside htail (p.tripOrHold src t l) src t).held ?_
      rw [Part.tripOrHold_of_blanked h]
      simp
    · have hleg := (p.tripOrHold_beside src t (h24 a (by simp))).leg l (by simpa using ha)
      exact ih htail (List.mem_of_ne_of_mem ha hl) (by rwa [hleg])

end

/-! Masks. -/

theorem Part.tripLegs_beside (p : Part) (mask src cls : Nat) (t : Instant) :
    (p.tripLegs mask src cls t).Beside (p.actingLegs mask) p :=
  Part.each_beside (fun q _ ha => q.tripLeg_beside src cls false t (Part.mem_actingLegs.1 ha).1) p

theorem Part.tripBlanked_beside (p : Part) (mask src : Nat) (t : Instant) :
    (p.tripBlanked mask src t).Beside (p.actingLegs mask) p :=
  Part.holdEach_beside (fun _ ha => (Part.mem_actingLegs.1 ha).1) p src t

section
variable (h24 : l < 24) (hon : p.legOn l = true) (hmask : mask.testBit l = true)
include h24 hon hmask

theorem Part.latched_tripLegs : (p.tripLegs mask src cls t).latched l = true :=
  Part.latched_each (fun q _ ha => q.tripLeg_beside src cls false t (Part.mem_actingLegs.1 ha).1)
    (Part.mem_actingLegs.2 ⟨h24, hmask, hon⟩) (fun q _ => q.latched_tripLeg src cls false t h24)

theorem Part.latched_tripBlanked (h : (p.leg l).blankEnd ≤ t) : (p.tripBlanked mask src t).latched l = true :=
  Part.latched_holdEach_of_unblanked (fun _ ha => (Part.mem_actingLegs.1 ha).1) (Part.mem_actingLegs.2 ⟨h24, hmask, hon⟩) h

theorem Part.held_tripBlanked (h : t < (p.leg l).blankEnd) :
    { leg := l, src := src, t := t } ∈ (p.tripBlanked mask src t).sense.held :=
  Part.held_holdEach (fun _ ha => (Part.mem_actingLegs.1 ha).1) (Part.mem_actingLegs.2 ⟨h24, hmask, hon⟩) h

end

theorem Part.latched_tripBlanked_of_blanked (h : t < (p.leg l).blankEnd) :
    (p.tripBlanked mask src t).latched l = p.latched l :=
  Part.latched_holdEach (fun _ ha => (Part.mem_actingLegs.1 ha).1) h

end Sys2Proof.Machine
end

section
/-! PROOFS. The protection comparators: crossings, releases and the ends of blanking windows (R188, R189). -/

namespace Sys2Proof.Machine

variable {p : Part} {k l : Nat} {t : Instant}

theorem exec_comparatorTripCrossing (k : Fin 14) (t : Instant) (s : State) :
    exec (.comparatorTripCrossing k t) s = s.run (·.pcTrip k.val t) := by rfl

theorem exec_comparatorHardCrossing (k : Fin 14) (t : Instant) (s : State) :
    exec (.comparatorHardCrossing k t) s = s.run (·.pcHard k.val t) := by rfl

theorem exec_comparatorRelease (k : Fin 14) (hard : Bool) (s : State) :
    exec (.comparatorRelease k hard) s = s.run (·.pcRelease k.val hard) := by rfl

theorem exec_blankingEnd (l : Fin 24) (t : Instant) (s : State) :
    exec (.blankingEnd l t) s = s.run (·.blankingEnd l.val t) := by rfl

theorem bits_word (v : Word) : bits v 0 32 = v.toNat := by
  rw [bits, Nat.shiftRight_zero, Nat.mod_eq_of_lt v.isLt]

/-! A firing: its bit, its stamp, and the crossing that begins to stand. -/

/-- Comparator `k` fires at an instant in class `cls`: bit `i` of PROT_STAT rises and the triple at `lo` takes the time. -/
def Part.fire (p : Part) (k cls i lo : Nat) (t : Instant) : Part :=
  (((p.at t).setBit Reg.PROT_STAT i true).setStamp lo (p.ringOf t)).stand k cls t

theorem Part.pcTrip_of_fires (hon : p.pcOn k = true) (hfresh : p.bit Reg.PROT_STAT k = false) :
    p.pcTrip k t = (p.fire k 0 k (Reg.PROT_TS_LO k) t).tripBlanked
      ((p.fire k 0 k (Reg.PROT_TS_LO k) t).sourceLegs k) k t := by
  have hgo : ¬ (!(p.at t).pcOn k || (p.at t).bit Reg.PROT_STAT k) = true := by
    change ¬ (!p.pcOn k || p.bit Reg.PROT_STAT k) = true
    simp [hon, hfresh]
  exact if_neg hgo

theorem Part.pcHard_of_fires (hon : p.pcOn k = true) (hfresh : p.bit Reg.PROT_STAT (16 + k) = false) :
    p.pcHard k t = (p.fire k 1 (16 + k) (Reg.PROT_HTS_LO k) t).tripLegs
      ((p.fire k 1 (16 + k) (Reg.PROT_HTS_LO k) t).sourceLegs k) k 1 t := by
  have hgo : ¬ (!(p.at t).pcOn k || (p.at t).bit Reg.PROT_STAT (16 + k)) = true := by
    change ¬ (!p.pcOn k || p.bit Reg.PROT_STAT (16 + k)) = true
    simp [hon, hfresh]
  exact if_neg hgo

theorem Part.pcTrip_of_idle (h : p.pcOn k = false ∨ p.bit Reg.PROT_STAT k = true) : p.pcTrip k t = p.at t := by
  have hstop : (!(p.at t).pcOn k || (p.at t).bit Reg.PROT_STAT k) = true := by
    change (!p.pcOn k || p.bit Reg.PROT_STAT k) = true
    rcases h with h | h <;> simp [h]
  exact if_pos hstop

theorem Part.pcHard_of_idle (h : p.pcOn k = false ∨ p.bit Reg.PROT_STAT (16 + k) = true) : p.pcHard k t = p.at t := by
  have hstop : (!(p.at t).pcOn k || (p.at t).bit Reg.PROT_STAT (16 + k)) = true := by
    change (!p.pcOn k || p.bit Reg.PROT_STAT (16 + k)) = true
    rcases h with h | h <;> simp [h]
  exact if_pos hstop

section
variable {cls i lo : Nat}

theorem Part.reg_fire (p : Part) (k cls i lo : Nat) (t : Instant) {off : Nat}
    (h : off ≠ Reg.PROT_STAT ∧ off ≠ lo ∧ off ≠ lo + 4 ∧ off ≠ lo + 8) : (p.fire k cls i lo t).reg off = p.reg off := by
  obtain ⟨hstat, hlo, hhi, hfr⟩ := h
  change ((((((p.at t).setBit Reg.PROT_STAT i true)).setReg lo _).setReg (lo + 4) _).setReg (lo + 8) _).reg off = _
  simp [hstat, hlo, hhi, hfr]

/-- A stamp lies between PROT_STAT and the record of the legs. -/
theorem Part.reg_fire_above (p : Part) (k cls i : Nat) (t : Instant) {off : Nat} (hlo : lo < 0x140400)
    (h : 0x140410 ≤ off) : (p.fire k cls i lo t).reg off = p.reg off := by
  refine p.reg_fire k cls i lo t ?_
  unfold Reg.PROT_STAT
  omega

/-- The bit and the stamp of a firing. -/
theorem Part.fire_shown (p : Part) (k cls : Nat) (t : Instant) (hi : i < 32) (hlo : Reg.PROT_STAT < lo) :
    (p.fire k cls i lo t).bit Reg.PROT_STAT i = true ∧
      (p.fire k cls i lo t).reg lo = BitVec.ofNat 32 (instNs (p.ringOf t)) := by
  refine ⟨?_, ?_⟩
  · have hreg : (p.fire k cls i lo t).reg Reg.PROT_STAT = ((p.at t).setBit Reg.PROT_STAT i true).reg Reg.PROT_STAT := by
      change (((((p.at t).setBit Reg.PROT_STAT i true).setReg lo _).setReg (lo + 4) _).setReg (lo + 8) _).reg
        Reg.PROT_STAT = _
      rw [reg_setReg, if_neg (by omega), reg_setReg, if_neg (by omega), reg_setReg, if_neg (by omega)]
    rw [bit, hreg, ← bit, Part.bit_setBit_same _ _ _ _ hi]
  · change (((((p.at t).setBit Reg.PROT_STAT i true).setReg lo _).setReg (lo + 4) _).setReg (lo + 8) _).reg lo = _
    rw [reg_setReg, if_neg (by omega), reg_setReg, if_neg (by omega), reg_setReg, if_pos rfl]

/-- A firing leaves the legs, their latches and the masks as they were. -/
theorem Part.fire_legs (p : Part) (k cls i : Nat) (t : Instant) (hlo : lo < 0x140400) (hk : k < 0x40) (l : Nat) :
    (p.fire k cls i lo t).latched l = p.latched l ∧ (p.fire k cls i lo t).leg l = p.leg l ∧
      (p.fire k cls i lo t).legOn l = p.legOn l ∧ (p.fire k cls i lo t).sourceLegs k = p.sourceLegs k := by
  have hreg {off : Nat} (h : 0x140410 ≤ off) := p.reg_fire_above k cls i t hlo h
  refine ⟨?_, rfl, ?_, ?_⟩
  · rw [latched, bit, hreg (by decide), ← bit, ← latched]
  · rw [legOn, bit, hreg (by unfold Reg.PWM_LEGCFG; omega), ← bit, ← legOn]
  · rw [sourceLegs, if_pos hk, fld, hreg (by unfold Reg.PROT_LEGS; omega), ← fld, sourceLegs, if_pos hk]

end

/-- What a firing that shows in PROT_STAT and in a triple leaves once legs have tripped. -/
theorem Part.Beside.fire_shown {q : Part} {ls : List Nat} {cls i lo : Nat} (h : q.Beside ls (p.fire k cls i lo t)) (hi : i < 32)
    (hlo : TripFree lo ∧ Reg.PROT_STAT < lo) :
    q.bit Reg.PROT_STAT i = true ∧ q.reg lo = BitVec.ofNat 32 (instNs (p.ringOf t)) := by
  obtain ⟨hbit, hstamp⟩ := p.fire_shown k cls t hi hlo.2
  exact ⟨by rw [bit, h.reg _ (by decide), ← bit, hbit], (h.reg _ hlo.1).trans hstamp⟩

theorem tripFree_stamps (hk : k < 14) : (TripFree (Reg.PROT_TS_LO k) ∧ Reg.PROT_STAT < Reg.PROT_TS_LO k) ∧
    (TripFree (Reg.PROT_HTS_LO k) ∧ Reg.PROT_STAT < Reg.PROT_HTS_LO k) := by
  unfold TripFree Reg.PROT_TS_LO Reg.PROT_HTS_LO Reg.PROT_STAT
  omega

/-- A trip crossing: the firing is shown, and each leg of the mask trips or holds the crossing. -/
theorem does_comparatorTripCrossing (k : Fin 14) (t : Instant) (s : State) (halive : s.part.alive = true)
    (hon : s.part.pcOn k = true) (hfresh : s.part.bit Reg.PROT_STAT k = false) :
    Does (.comparatorTripCrossing k t) s (fun p =>
      p.bit Reg.PROT_STAT k = true ∧ p.reg (Reg.PROT_TS_LO k) = BitVec.ofNat 32 (instNs (s.part.ringOf t)) ∧
      (∀ l < 24, s.part.legOn l = true → (s.part.sourceLegs k).testBit l = true →
        ((s.part.leg l).blankEnd ≤ t → p.latched l = true) ∧
        (t < (s.part.leg l).blankEnd → p.latched l = s.part.latched l ∧ { leg := l, src := k, t := t } ∈ p.sense.held)) ∧
      (∀ l < 24, (s.part.sourceLegs k).testBit l = false → p.latched l = s.part.latched l)) := by
  refine Does.of_run (exec_comparatorTripCrossing k t s) halive ?_
  have hstamp := (tripFree_stamps k.isLt).1
  have hlegs := s.part.fire_legs k 0 k t (lo := Reg.PROT_TS_LO k) (by unfold Reg.PROT_TS_LO; omega) (by omega)
  rw [Part.pcTrip_of_fires hon hfresh, (hlegs 0).2.2.2]
  have hbeside := (s.part.fire k 0 k (Reg.PROT_TS_LO k) t).tripBlanked_beside (s.part.sourceLegs k) k t
  obtain ⟨hbit, hts⟩ := hbeside.fire_shown (by omega) hstamp
  refine ⟨hbit, hts, fun l h24 hlon hmask => ⟨fun hblank => ?_, fun hblank => ⟨?_, ?_⟩⟩, fun l _ hmask => ?_⟩
  all_goals obtain ⟨hlatch, hleg, hlegOn, -⟩ := hlegs l
  · exact Part.latched_tripBlanked h24 (hlegOn.trans hlon) hmask (by rwa [hleg])
  · exact (Part.latched_tripBlanked_of_blanked (by rwa [hleg])).trans hlatch
  · exact Part.held_tripBlanked h24 (hlegOn.trans hlon) hmask (by rwa [hleg])
  · exact (hbeside.latch l (fun h => by simp [Part.mem_actingLegs, hmask] at h)).trans hlatch

/-- A hard crossing: the firing is shown, and each leg of the mask trips. -/
theorem does_comparatorHardCrossing (k : Fin 14) (t : Instant) (s : State) (halive : s.part.alive = true)
    (hon : s.part.pcOn k = true) (hfresh : s.part.bit Reg.PROT_STAT (16 + k) = false) :
    Does (.comparatorHardCrossing k t) s (fun p =>
      p.bit Reg.PROT_STAT (16 + k) = true ∧ p.reg (Reg.PROT_HTS_LO k) = BitVec.ofNat 32 (instNs (s.part.ringOf t)) ∧
      (∀ l < 24, s.part.legOn l = true → (s.part.sourceLegs k).testBit l = true → p.latched l = true) ∧
      (∀ l < 24, (s.part.sourceLegs k).testBit l = false → p.latched l = s.part.latched l)) := by
  refine Does.of_run (exec_comparatorHardCrossing k t s) halive ?_
  have hlegs := s.part.fire_legs k 1 (16 + k) t (lo := Reg.PROT_HTS_LO k) (by unfold Reg.PROT_HTS_LO; omega) (by omega)
  rw [Part.pcHard_of_fires hon hfresh, (hlegs 0).2.2.2]
  have hbeside := (s.part.fire k 1 (16 + k) (Reg.PROT_HTS_LO k) t).tripLegs_beside (s.part.sourceLegs k) k 1 t
  obtain ⟨hbit, hts⟩ := hbeside.fire_shown (by omega) (tripFree_stamps k.isLt).2
  refine ⟨hbit, hts, fun l h24 hlon hmask => ?_, fun l _ hmask => ?_⟩
  all_goals obtain ⟨hlatch, -, hlegOn, -⟩ := hlegs l
  · exact Part.latched_tripLegs h24 (hlegOn.trans hlon) hmask
  · exact (hbeside.latch l (fun h => by simp [Part.mem_actingLegs, hmask] at h)).trans hlatch

/-! Releases. -/

@[simp] theorem Part.reg_unstand (p : Part) (src cls off : Nat) : (p.unstand src cls).reg off = p.reg off := rfl

@[simp] theorem Part.bit_unstand (p : Part) (src cls off i : Nat) : (p.unstand src cls).bit off i = p.bit off i := rfl

theorem Part.mem_unstand {src cls : Nat} {x : Standing} (h : x ∈ (p.unstand src cls).sense.standing) :
    ¬ (x.src = src ∧ x.cls = cls) := by
  rintro ⟨hsrc, hcls⟩
  simpa [hsrc, hcls] using (List.mem_filter.1 h).2

theorem does_comparatorRelease (k : Fin 14) (hard : Bool) (s : State) (halive : s.part.alive = true)
    (h : s.part.pcReleases k hard = true) : Does (.comparatorRelease k hard) s (fun p =>
      p.bit Reg.PROT_STAT (if hard then 16 + k else k) = false ∧
      (∀ x ∈ p.sense.standing, ¬ (x.src = k ∧ x.cls = hard.toNat)) ∧ RegsBut s.part p [Reg.PROT_STAT]) := by
  refine Does.of_run (exec_comparatorRelease k hard s) halive ?_
  rw [Part.pcRelease, if_neg (by simp [h])]
  refine ⟨?_, fun x hx => Part.mem_unstand hx, fun off hoff => ?_⟩
  · rw [Part.bit_unstand, Part.bit_setBit_same _ _ _ _ (by split <;> omega)]
  · rw [Part.reg_unstand, Part.reg_setBit, if_neg (by simpa using hoff)]

theorem idles_comparatorRelease (k : Fin 14) (hard : Bool) (s : State) (h : s.part.pcReleases k hard = false) :
    Idles (.comparatorRelease k hard) s :=
  Idles.of_run (exec_comparatorRelease k hard s) (if_pos (by simp [h]))

/-! The end of a blanking window. -/

/-- What the end of a leg's blanking does with one held crossing. -/
def Part.settleHeld (p : Part) (l : Nat) (t : Instant) (h : HeldTrip) : Part :=
  if p.stands h.src then p.tripLeg l h.src 0 true t
  else if h.src < 0x40 then
    p.setReg (Reg.PROT_BLKCNT h.src) (BitVec.ofNat 32 (satInc 32 (p.reg (Reg.PROT_BLKCNT h.src)).toNat))
  else p

/-- The part at an instant without the crossings held for a leg. -/
def Part.unheld (p : Part) (l : Nat) (t : Instant) : Part :=
  { p.at t with sense := { p.sense with held := p.sense.held.filter (fun h => h.leg ≠ l) } }

theorem Part.blankingEnd_of_over (h : (p.leg l).blankEnd ≤ t) : p.blankingEnd l t =
    (p.unheld l t).each (p.sense.held.filter (fun h => h.leg = l)) (fun p h => p.settleHeld l t h) :=
  if_neg (Nat.not_lt.2 h)

theorem tripWrites_BLKCNT {src : Nat} :
    ¬ TripFree (Reg.PROT_BLKCNT src) ∧ (src < 0x40 → Reg.PROT_BLKCNT src ≠ Reg.GATE_LATCH) := by
  simp only [TripFree, Reg.PROT_BLKCNT, Reg.GATE_LATCH]
  omega

theorem Part.Tripped.settleHeld {q b : Part} {h : HeldTrip} (hq : q.Tripped [l] b) (h24 : l < 24) :
    (q.settleHeld l t h).Tripped [l] b := by
  unfold Part.settleHeld
  split
  · exact hq.tripLeg (by simp) h24
  split
  next hsrc => exact hq.setReg ⟨tripWrites_BLKCNT.1, tripWrites_BLKCNT.2 hsrc⟩
  · exact hq

theorem Part.Tripped.settleEach {q b : Part} {hs : List HeldTrip} (hq : q.Tripped [l] b) (h24 : l < 24) :
    (q.each hs (fun p h => p.settleHeld l t h)).Tripped [l] b :=
  hq.each fun _ _ _ hr => hr.settleHeld h24

/-- A crossing that still stands trips the leg. -/
theorem Part.latched_settleEach {hs : List HeldTrip} (h24 : l < 24) (h : ∃ x ∈ hs, p.stands x.src = true) :
    (p.each hs (fun p h => p.settleHeld l t h)).latched l = true := by
  induction hs generalizing p with
  | nil => simp at h
  | cons x hs ih =>
    have hone := (Part.Tripped.refl [l] p).settleHeld (t := t) (h := x) h24
    by_cases hx : p.stands x.src = true
    · refine ((Part.Tripped.refl [l] (p.settleHeld l t x)).settleEach h24).stays l ?_
      rw [Part.settleHeld, if_pos hx]
      exact p.latched_tripLeg x.src 0 true t h24
    · obtain ⟨y, hy, hstands⟩ := h
      have hne : y ≠ x := by
        rintro rfl
        exact hx hstands
      exact ih ⟨y, List.mem_of_ne_of_mem hne hy, by rwa [hone.stands]⟩

theorem does_blankingEnd_early (l : Fin 24) (t : Instant) (s : State) (halive : s.part.alive = true)
    (h : t < (s.part.leg l).blankEnd) : Does (.blankingEnd l t) s (fun p => p = s.part.at t) :=
  Does.of_run (exec_blankingEnd l t s) halive (if_pos h)

theorem does_blankingEnd_standing (l : Fin 24) (t : Instant) (s : State) (halive : s.part.alive = true)
    (hover : (s.part.leg l).blankEnd ≤ t)
    (h : ∃ h ∈ s.part.sense.held.filter (fun h => h.leg = l.val), s.part.stands h.src = true) :
    Does (.blankingEnd l t) s (fun p => p.latched l = true ∧ ∀ h ∈ p.sense.held, h.leg ≠ l) := by
  refine Does.of_run (exec_blankingEnd l t s) halive ?_
  rw [Part.blankingEnd_of_over hover]
  refine ⟨Part.latched_settleEach l.isLt h, fun x hx => ?_⟩
  rw [((Part.Tripped.refl [l.val] (s.part.unheld l t)).settleEach l.isLt).held_eq] at hx
  simpa using (List.mem_filter.1 hx).2

theorem does_blankingEnd_fallen (l : Fin 24) (t : Instant) (s : State) (halive : s.part.alive = true) (h : HeldTrip)
    (hover : (s.part.leg l).blankEnd ≤ t) (hmine : s.part.sense.held.filter (fun h => h.leg = l.val) = [h])
    (hfallen : s.part.stands h.src = false) (hsrc : h.src < 14) :
    Does (.blankingEnd l t) s (fun p =>
      p.sense.held = s.part.sense.held.filter (fun h => h.leg ≠ l.val) ∧
      p.fld (Reg.PROT_BLKCNT h.src) 0 32 = min (s.part.fld (Reg.PROT_BLKCNT h.src) 0 32 + 1) (2 ^ 32 - 1) ∧
      RegsBut s.part p [Reg.PROT_BLKCNT h.src]) := by
  refine Does.of_run (exec_blankingEnd l t s) halive ?_
  have hstands : ¬ (s.part.unheld l t).stands h.src = true := by
    change ¬ s.part.stands h.src = true
    simp [hfallen]
  have hend : s.part.blankingEnd l t = (s.part.unheld l t).setReg (Reg.PROT_BLKCNT h.src)
      (BitVec.ofNat 32 (satInc 32 (s.part.reg (Reg.PROT_BLKCNT h.src)).toNat)) := by
    rw [Part.blankingEnd_of_over hover, hmine]
    change (s.part.unheld l t).settleHeld l t h = _
    rw [Part.settleHeld, if_neg hstands, if_pos (by omega)]
    rfl
  rw [hend]
  refine ⟨rfl, ?_, ?_⟩
  · rw [Part.fld_setReg, Part.fld, bits_word, bits_word, BitVec.toNat_ofNat, satInc]
    exact Nat.mod_eq_of_lt (by omega)
  · exact (RegsBut.refl (s.part.unheld l t) _).trans (.setReg (by simp))

end Sys2Proof.Machine
end

section
/-! PROOFS. PROT_FREARM and the reserve comparators (R191, R192). -/

namespace Sys2Proof.Machine

variable {p : Part} {k r : Nat} {t : Instant} {v : Word}

theorem exec_protFrearm (v : Word) (s : State) : exec (.protFrearm v) s = s.run (fun p => p.when (bitAt v 0) (·.protRearm)) := by
  rfl

theorem exec_protReserveMap (r : Fin 2) (v : Word) (t : Instant) (s : State) :
    exec (.protReserveMap r v t) s = s.run (·.protMap r.val v t) := by rfl

theorem exec_protReserveArmEnd (r : Fin 2) (t : Instant) (s : State) :
    exec (.protReserveArmEnd r t) s = s.run (·.protArmEnd r.val t) := by rfl

/-! The record closes. -/

/-- Registers cleared one after another. -/
theorem Part.reg_clearEach (p : Part) (f : Nat → Nat) (ls : List Nat) (off : Nat) :
    (p.each ls (fun p l => p.setReg (f l) 0)).reg off = if off ∈ ls.map f then 0 else p.reg off := by
  induction ls generalizing p with
  | nil => rfl
  | cons l ls ih =>
    refine (ih (p.setReg (f l) 0)).trans ?_
    by_cases h : off = f l <;> simp [h]

theorem Part.clearEach_regsOnly (p : Part) (f : Nat → Nat) (ls : List Nat) :
    RegsOnly p (p.each ls (fun p l => p.setReg (f l) 0)) (ls.map f) := by
  induction ls generalizing p with
  | nil => exact .refl p _
  | cons l ls ih => exact ((RegsOnly.setReg p (f l) 0).mono (by simp)).trans ((ih (p.setReg (f l) 0)).mono (by simp_all))

theorem does_protFrearm (v : Word) (s : State) (halive : s.part.alive = true) (h : bitAt v 0 = true) :
    Does (.protFrearm v) s (fun p =>
      p.reg Reg.PROT_FLEGS = 0 ∧ p.reg Reg.PROT_FFIRST = 0 ∧ (∀ l < 24, p.reg (Reg.PROT_FSRC l) = 0) ∧
      RegsOnly s.part p ([Reg.PROT_FLEGS, Reg.PROT_FFIRST] ++ (List.range 24).map Reg.PROT_FSRC)) := by
  refine Does.of_run (exec_protFrearm v s) halive ?_
  rw [Part.when_true h, Part.protRearm]
  have hempty (off : Nat) (hoff : off = Reg.PROT_FLEGS ∨ off = Reg.PROT_FFIRST) :
      ((s.part.setReg Reg.PROT_FLEGS 0).setReg Reg.PROT_FFIRST 0).reg off = 0 := by
    rcases hoff with rfl | rfl <;> simp
  refine ⟨?_, ?_, fun l hl => ?_, ?_⟩
  · rw [Part.reg_clearEach, hempty _ (.inl rfl), ite_self]
  · rw [Part.reg_clearEach, hempty _ (.inr rfl), ite_self]
  · rw [Part.reg_clearEach, if_pos (List.mem_map_of_mem (List.mem_range.2 hl))]
  · have hheads : RegsOnly s.part ((s.part.setReg Reg.PROT_FLEGS 0).setReg Reg.PROT_FFIRST 0)
        ([Reg.PROT_FLEGS, Reg.PROT_FFIRST] ++ (List.range 24).map Reg.PROT_FSRC) :=
      ((RegsOnly.setReg _ _ _).mono (by simp)).trans ((RegsOnly.setReg _ _ _).mono (by simp))
    exact hheads.trans ((Part.clearEach_regsOnly _ _ _).mono (fun _ hx => List.mem_append_right _ hx))

theorem idles_protFrearm (v : Word) (s : State) (h : bitAt v 0 = false) : Idles (.protFrearm v) s :=
  Idles.of_run (exec_protFrearm v s) (Part.when_false h)

/-! A reserve map with ACTIVE. -/

/-- Sensing and protection hold something else beyond their registers. -/
def Part.setSense (p : Part) (x : SenseState) : Part := { p with sense := x }

@[simp] theorem Part.reg_setSense (p : Part) (x : SenseState) (off : Nat) : (p.setSense x).reg off = p.reg off := rfl

/-- The committed word of a comparator's register is copied to the committed and the staged one of another (log entry 15). -/
def Part.copySet (p : Part) (k res : Nat) (f : Nat → Nat) : Part :=
  (p.setReg (f res) (p.reg (f k))).setReg (stagedOff (f res)) (p.reg (f k))

/-- The registers of a comparator's set. -/
def protSet : List (Nat → Nat) := [Reg.PROT_TRIP, Reg.PROT_HARD, Reg.PROT_LEGS, Reg.PROT_CFG]

/-- Each register of the set is one of four words of the comparator's row. -/
theorem protSet_row {f : Nat → Nat} (hf : f ∈ protSet) : ∃ c < 4, ∀ k, f k = 0x142000 + 4 * c + 0x10 * k := by
  simp only [protSet, List.mem_cons, List.not_mem_nil, or_false] at hf
  rcases hf with rfl | rfl | rfl | rfl
  exacts [⟨1, by omega, fun _ => rfl⟩, ⟨2, by omega, fun _ => rfl⟩, ⟨3, by omega, fun _ => rfl⟩, ⟨0, by omega, fun _ => rfl⟩]

theorem Part.reg_copySet (p : Part) (k res : Nat) (f : Nat → Nat) (off : Nat) :
    (p.copySet k res f).reg off = if off = stagedOff (f res) ∨ off = f res then p.reg (f k) else p.reg off := by
  rw [Part.copySet, Part.reg_setReg, Part.reg_setReg]
  split_ifs <;> simp_all

/-- What a register reads once a list of copies is made, where no copy overwrites what another reads: the word that every copy to it
takes, if there is one, and else what it held. -/
theorem Part.reg_copyEach {res off : Nat} {w : Word} {fs : List (Nat → Nat)}
    (hsrc : ∀ f ∈ fs, ∀ g ∈ fs, ¬ (g k = stagedOff (f res) ∨ g k = f res))
    (hw : ∀ f ∈ fs, off = stagedOff (f res) ∨ off = f res → p.reg (f k) = w)
    (h : (∃ f ∈ fs, off = stagedOff (f res) ∨ off = f res) ∨ p.reg off = w) :
    (p.each fs (fun p f => p.copySet k res f)).reg off = w := by
  induction fs generalizing p with
  | nil => exact h.resolve_left (by simp)
  | cons f fs ih =>
    refine ih (p := p.copySet k res f) (fun a ha g hg => hsrc a (by simp [ha]) g (by simp [hg])) (fun g hg hoff => ?_) ?_
    · rw [Part.reg_copySet, if_neg (hsrc f (by simp) g (by simp [hg])), hw g (by simp [hg]) hoff]
    by_cases hf : off = stagedOff (f res) ∨ off = f res
    · exact .inr (by rw [Part.reg_copySet, if_pos hf, hw f (by simp) hf])
    rcases h with ⟨g, hg, hoff⟩ | h
    · rcases List.mem_cons.1 hg with rfl | hg
      exacts [absurd hoff hf, .inl ⟨g, hg, hoff⟩]
    · exact .inr (by rw [Part.reg_copySet, if_neg hf, h])

/-- The part once a reserve has its target's set. -/
def Part.copySets (p : Part) (k res : Nat) : Part := p.each protSet (fun p f => p.copySet k res f)

section
variable {res : Nat} (hk : k < 14) (hres : res < 14) (hne : k ≠ res)
include hk hres hne

/-- No copy overwrites a word of the target's set. -/
theorem protSet_apart : ∀ f ∈ protSet, ∀ g ∈ protSet, ¬ (g k = stagedOff (f res) ∨ g k = f res) := by
  intro f hf g hg
  obtain ⟨a, ha, hfa⟩ := protSet_row hf
  obtain ⟨b, hb, hgb⟩ := protSet_row hg
  rw [hfa, hgb, stagedOff]
  omega

theorem Part.copySets_copied (p : Part) {f : Nat → Nat} (hf : f ∈ protSet) :
    (p.copySets k res).reg (f res) = p.reg (f k) ∧ (p.copySets k res).staged (f res) = p.reg (f k) := by
  have hcopy (off : Nat) (hoff : off = stagedOff (f res) ∨ off = f res) : (p.copySets k res).reg off = p.reg (f k) := by
    refine Part.reg_copyEach (protSet_apart hk hres hne) (fun g hg hto => ?_) (.inl ⟨f, hf, hoff⟩)
    obtain ⟨a, ha, hfa⟩ := protSet_row hf
    obtain ⟨b, hb, hgb⟩ := protSet_row hg
    rw [hfa, stagedOff] at hoff
    rw [hgb, stagedOff] at hto
    rw [hgb, hfa, show b = a by omega]
  exact ⟨hcopy _ (.inr rfl), hcopy _ (.inl rfl)⟩

theorem Part.copySets_frame {off : Nat} (h : ∀ f ∈ protSet, ¬ (off = stagedOff (f res) ∨ off = f res)) :
    (p.copySets k res).reg off = p.reg off :=
  Part.reg_copyEach (protSet_apart hk hres hne) (fun f hf hoff => absurd hoff (h f hf)) (.inr rfl)

end

theorem Part.protMap_of_active (hact : bitAt v 31 = true) (hk : bits v 0 4 < 14) (hne : bits v 0 4 ≠ 12 + r) :
    ∃ x : SenseState, p.protMap r v t =
        (((p.at t).setReg (Reg.PROT_RSVMAP r) (v &&& 0x8000000F)).copySets (bits v 0 4) (12 + r)).setSense x ∧
      (r, t + usec 10) ∈ x.armUntil ∧ 12 + r ∉ x.disarmed := by
  have hgo : (bitAt v 31 && decide (bits v 0 4 < 14) && decide (bits v 0 4 ≠ 12 + r)) = true := by simp [hact, hk, hne]
  exact ⟨_, if_pos hgo, by simp, by simp⟩

/-- A map of a reserve lies beside every comparator's set. -/
theorem rsvmap_ne_protSet {f : Nat → Nat} (hf : f ∈ protSet) {j : Nat} (hj : j < 14) (hr : r < 2) :
    f j ≠ Reg.PROT_RSVMAP r ∧ stagedOff (f j) ≠ Reg.PROT_RSVMAP r := by
  obtain ⟨c, hc, hfc⟩ := protSet_row hf
  rw [hfc, stagedOff, Reg.PROT_RSVMAP]
  omega

theorem does_protReserveMap_active (r : Fin 2) (v : Word) (t : Instant) (s : State) (halive : s.part.alive = true)
    (hact : bitAt v 31 = true) (hk : bits v 0 4 < 14) (hne : bits v 0 4 ≠ 12 + r) :
    Does (.protReserveMap r v t) s (fun p =>
      (∀ f ∈ protSet, p.reg (f (12 + r)) = s.part.reg (f (bits v 0 4)) ∧
        p.staged (f (12 + r)) = s.part.reg (f (bits v 0 4))) ∧
      p.reg (Reg.PROT_RSVMAP r) = v &&& 0x8000000F ∧ (r.val, t + usec 10) ∈ p.sense.armUntil ∧
      12 + r.val ∉ p.sense.disarmed ∧
      RegsBut s.part p (Reg.PROT_RSVMAP r :: protSet.map (· (12 + r)) ++
        protSet.map (fun f => stagedOff (f (12 + r))))) := by
  refine Does.of_run (exec_protReserveMap r v t s) halive ?_
  obtain ⟨x, hmap, harm, hdis⟩ := Part.protMap_of_active (p := s.part) (r := r) (t := t) hact hk hne
  rw [hmap]
  have hres : 12 + r.val < 14 := by omega
  refine ⟨fun f hf => ?_, ?_, harm, hdis, fun off hoff => ?_⟩
  · have hsrc : ((s.part.at t).setReg (Reg.PROT_RSVMAP r) (v &&& 0x8000000F)).reg (f (bits v 0 4)) =
        s.part.reg (f (bits v 0 4)) := by
      rw [Part.reg_setReg, if_neg (rsvmap_ne_protSet hf hk r.isLt).1, Part.reg_at]
    obtain ⟨hset, hstaged⟩ :=
      ((s.part.at t).setReg (Reg.PROT_RSVMAP r) (v &&& 0x8000000F)).copySets_copied hk hres hne hf
    rw [Part.staged] at hstaged
    rw [Part.staged, Part.reg_setSense, Part.reg_setSense]
    exact ⟨hset.trans hsrc, hstaged.trans hsrc⟩
  · rw [Part.reg_setSense]
    refine (Part.copySets_frame hk hres hne fun f hf => ?_).trans (by rw [Part.reg_setReg, if_pos rfl])
    obtain ⟨hset, hstaged⟩ := rsvmap_ne_protSet hf hres r.isLt
    rintro (h | h)
    exacts [hstaged h.symm, hset h.symm]
  · simp only [List.cons_append, List.mem_cons, List.mem_append, List.mem_map, not_or, not_exists, not_and] at hoff
    obtain ⟨hoffMap, hoffSet, hoffStaged⟩ := hoff
    rw [Part.reg_setSense]
    refine (Part.copySets_frame hk hres hne fun f hf => ?_).trans (by rw [Part.reg_setReg, if_neg hoffMap, Part.reg_at])
    rintro (h | h)
    exacts [hoffStaged f hf h.symm, hoffSet f hf h.symm]

/-! The fall of a comparator that is disarmed. -/

/-- The states of a comparator fall, and nothing of it stands. -/
def Part.fall (p : Part) (k : Nat) : Part :=
  (((p.setBit Reg.PROT_STAT k false).setBit Reg.PROT_STAT (16 + k) false).unstand k 0).unstand k 1

theorem Part.fall_stat (p : Part) (hk : k < 16) :
    (p.fall k).bit Reg.PROT_STAT k = false ∧ (p.fall k).bit Reg.PROT_STAT (16 + k) = false := by
  simp only [Part.fall, Part.bit_unstand]
  refine ⟨?_, Part.bit_setBit_same _ _ _ _ (by omega)⟩
  rw [Part.bit_setBit _ _ (by omega), if_neg (by omega), Part.bit_setBit_same _ _ _ _ (by omega)]

theorem Part.fall_regs (p : Part) (k : Nat) : RegsBut p (p.fall k) [Reg.PROT_STAT] := by
  intro off hoff
  have hne : off ≠ Reg.PROT_STAT := by simpa using hoff
  simp only [Part.fall, Part.reg_unstand, Part.reg_setBit, if_neg hne]

theorem Part.protMap_of_clear (hact : bitAt v 31 = false) (hwas : p.bit (Reg.PROT_RSVMAP r) 31 = true) :
    ∃ x : SenseState, p.protMap r v t =
        (((p.at t).setReg (Reg.PROT_RSVMAP r) (v &&& 0x8000000F)).setSense x).fall (12 + r) ∧
      12 + r ∈ x.disarmed := by
  have hstop : ¬ (bitAt v 31 && decide (bits v 0 4 < 14) && decide (bits v 0 4 ≠ 12 + r)) = true := by simp [hact]
  have hgo : (!bitAt v 31 && bitAt (p.reg (Reg.PROT_RSVMAP r)) 31) = true := by
    rw [hact]
    exact hwas
  exact ⟨_, (if_neg hstop).trans (if_pos hgo), by simp⟩

theorem does_protReserveMap_clear (r : Fin 2) (v : Word) (t : Instant) (s : State) (halive : s.part.alive = true)
    (hact : bitAt v 31 = false) (hwas : s.part.bit (Reg.PROT_RSVMAP r) 31 = true) :
    Does (.protReserveMap r v t) s (fun p =>
      p.reg (Reg.PROT_RSVMAP r) = v &&& 0x8000000F ∧ 12 + r.val ∈ p.sense.disarmed ∧
      p.bit Reg.PROT_STAT (12 + r) = false ∧ p.bit Reg.PROT_STAT (28 + r) = false ∧
      RegsBut s.part p [Reg.PROT_RSVMAP r, Reg.PROT_STAT]) := by
  refine Does.of_run (exec_protReserveMap r v t s) halive ?_
  obtain ⟨x, hmap, hdis⟩ := Part.protMap_of_clear (t := t) hact hwas
  rw [hmap]
  obtain ⟨htrip, hhard⟩ := Part.fall_stat (((s.part.at t).setReg (Reg.PROT_RSVMAP r) (v &&& 0x8000000F)).setSense x)
    (show 12 + r.val < 16 by omega)
  have hregs := Part.fall_regs (((s.part.at t).setReg (Reg.PROT_RSVMAP r) (v &&& 0x8000000F)).setSense x) (12 + r)
  have hwrite (off : Nat) : (((s.part.at t).setReg (Reg.PROT_RSVMAP r) (v &&& 0x8000000F)).setSense x).reg off =
      if off = Reg.PROT_RSVMAP r then v &&& 0x8000000F else s.part.reg off := by
    rw [Part.reg_setSense, Part.reg_setReg, Part.reg_at]
  refine ⟨?_, hdis, htrip, ?_, fun off hoff => ?_⟩
  · rw [hregs _ (by simp [Reg.PROT_RSVMAP, Reg.PROT_STAT]; omega), hwrite, if_pos rfl]
  · rwa [show 28 + r.val = 16 + (12 + r.val) by omega]
  · simp only [List.mem_cons, List.not_mem_nil, or_false, not_or] at hoff
    rw [hregs _ (by simpa using hoff.2), hwrite, if_neg hoff.1]

/-! The end of the arming. -/

section
variable {cls unit cause rsv : Nat}

/-- A swap is noted beside the registers of protection. -/
theorem Part.reg_noteSwap (p : Part) {off : Nat}
    (h : off ≠ Reg.SPARE_EVT ∧ off ≠ Reg.HOST_STATUS_LO ∧ off ≠ Reg.QUE_PIDX 30) :
    (p.noteSwap cls unit rsv cause).reg off = if off = Reg.SPARE_LAST then
      BitVec.ofNat 32 (cls * 2 ^ 24 + unit % 256 * 65536 + rsv % 256 * 256 + cause) else p.reg off := by
  obtain ⟨hevt, hhost, hque⟩ := h
  have hlog (q : Part) (l : List RsvEntry) : ({ q with rsvLog := l } : Part).reg off = q.reg off := rfl
  rw [Part.noteSwap, Part.reg_logEvent hque, Part.hostReserve, Part.reg_setBit, if_neg hhost, Part.raise, Part.reg_setBit,
    if_neg hevt, hlog, Part.reg_setReg]

theorem Part.sense_produce (p : Part) (q : Nat) (e : List Byte) : (p.produce q e).sense = p.sense := by
  have hstore (a : Nat) (bs : List Byte) : (p.storeBytes a bs).sense = p.sense := by rw [p.storeBytes_frame]
  unfold Part.produce
  split
  · rfl
  split <;> simp only [Part.countSat, Part.setFld, Part.setReg_sense, hstore]

theorem Part.sense_logEvent (p : Part) (code : LogCode) (args : List Nat) : (p.logEvent code args).sense = p.sense :=
  Part.sense_produce _ _ _

theorem Part.sense_setFld (p : Part) (off lo w n : Nat) : (p.setFld off lo w n).sense = p.sense := rfl

theorem Part.sense_setBit (p : Part) (off i : Nat) (b : Bool) : (p.setBit off i b).sense = p.sense := rfl

theorem Part.sense_noteSwap (p : Part) : (p.noteSwap cls unit rsv cause).sense = p.sense := by
  have hlog (q : Part) (l : List RsvEntry) : ({ q with rsvLog := l } : Part).sense = q.sense := rfl
  rw [Part.noteSwap, Part.sense_logEvent, Part.hostReserve, Part.sense_setBit, Part.raise, Part.sense_setBit, hlog,
    Part.setReg_sense]

/-- A retirement is noted beside the registers of protection. -/
theorem Part.retireUnit_frame (p : Part) {off : Nat} (h : off ≠ Reg.SPARE_EVT) :
    (p.retireUnit cls unit cause).reg off = p.reg off ∧ (p.retireUnit cls unit cause).sense = p.sense := by
  have hhealth (x : HealthState) : ({ p with health := x } : Part).reg off = p.reg off := rfl
  have hlog (q : Part) (l : List RsvEntry) : ({ q with rsvLog := l } : Part).sense = q.sense := rfl
  unfold Part.retireUnit
  split
  · exact ⟨rfl, rfl⟩
  · rw [Part.reg_noteRetire _ _ _ _ _ h, hhealth, Part.noteRetire, Part.raise, Part.sense_setBit, hlog]
    exact ⟨rfl, rfl⟩

theorem Part.swapDone_frame (p : Part) (o : Option Nat) (ho : ∀ k, o = some k → k < 8) {off : Nat}
    (h : off ≠ Reg.SPARE_EVT ∧ (off < 0x80000 ∨ 0x90000 ≤ off)) :
    (p.swapDone cls unit o).reg off = p.reg off ∧ (p.swapDone cls unit o).sense = p.sense := by
  cases o with
  | none => exact ⟨rfl, rfl⟩
  | some k =>
    have hk := ho k rfl
    have hlo : off ≠ Reg.OP_STATUS_LO k := by unfold Reg.OP_STATUS_LO; omega
    have hhi : off ≠ Reg.OP_STATUS_HI k := by unfold Reg.OP_STATUS_HI; omega
    have hretire : (p.when (bitAt (p.opArg k 1) 0) (·.retireUnit cls unit 5)).reg off = p.reg off ∧
        (p.when (bitAt (p.opArg k 1) 0) (·.retireUnit cls unit 5)).sense = p.sense := by
      cases bitAt (p.opArg k 1) 0
      exacts [⟨rfl, rfl⟩, p.retireUnit_frame h.1]
    refine ⟨?_, ?_⟩
    · rw [Part.swapDone, Part.opDone, Part.reg_setFld, if_neg hhi, Part.setOpState, Part.reg_setFld, if_neg hlo, hretire.1]
    · rw [Part.swapDone, Part.opDone, Part.sense_setFld, Part.setOpState, Part.sense_setFld, hretire.2]

theorem Part.opHolding_lt {res j : Nat} (h : p.opHolding res = some j) : j < 8 :=
  List.mem_range.1 (List.mem_of_find?_eq_some h)

/-- A swap that is complete shows in SPARE_LAST, and leaves the comparators' states and what protection holds. -/
theorem Part.swap_shown (p : Part) (res : Nat) :
    let q := (p.noteSwap cls unit rsv cause).swapDone cls unit (p.opHolding res)
    q.sense = p.sense ∧ q.reg Reg.PROT_STAT = p.reg Reg.PROT_STAT ∧
      q.reg Reg.SPARE_LAST = BitVec.ofNat 32 (cls * 2 ^ 24 + unit % 256 * 65536 + rsv % 256 * 256 + cause) := by
  have hdone {off : Nat} := (p.noteSwap cls unit rsv cause).swapDone_frame (cls := cls) (unit := unit) (p.opHolding res)
    (fun _ => Part.opHolding_lt) (off := off)
  obtain ⟨hstat, hsense⟩ := hdone (off := Reg.PROT_STAT) (by decide)
  have hlast := (hdone (off := Reg.SPARE_LAST) (by decide)).1
  exact ⟨hsense.trans p.sense_noteSwap, hstat.trans ((p.reg_noteSwap (by decide)).trans (if_neg (by decide))),
    hlast.trans ((p.reg_noteSwap (by decide)).trans (if_pos rfl))⟩

end

/-- What protection holds once the arming of reserve `r` beside comparator `k` is over. -/
def SenseState.armEnded (x : SenseState) (r k : Nat) : SenseState :=
  { x with armUntil := x.armUntil.filter (fun e => e.1 ≠ r), disarmed := k :: x.disarmed }

/-- The part once the target of reserve `r` is disarmed. -/
def Part.disarmTarget (p : Part) (r : Nat) : Part :=
  (p.setSense (p.sense.armEnded r (p.fld (Reg.PROT_RSVMAP r) 0 4))).fall (p.fld (Reg.PROT_RSVMAP r) 0 4)

theorem Part.protArmEnd_of_due (h : ∃ a, (r, a) ∈ p.sense.armUntil ∧ a ≤ t) : p.protArmEnd r t =
    (((p.at t).disarmTarget r).noteSwap 7 (p.fld (Reg.PROT_RSVMAP r) 0 4) (12 + r) 5).swapDone 7
      (p.fld (Reg.PROT_RSVMAP r) 0 4) (((p.at t).disarmTarget r).opHolding (resRsv 7 (12 + r))) := by
  obtain ⟨a, ha, hle⟩ := h
  have hdue : (p.at t).sense.armUntil.any (fun e => decide (e.1 = r) && decide (e.2 ≤ t)) = true :=
    List.any_eq_true.2 ⟨(r, a), ha, by simp [hle]⟩
  exact if_pos hdue

theorem does_protReserveArmEnd_due (r : Fin 2) (t : Instant) (s : State) (halive : s.part.alive = true)
    (h : ∃ a, (r.val, a) ∈ s.part.sense.armUntil ∧ a ≤ t) :
    Does (.protReserveArmEnd r t) s (fun p =>
      s.part.fld (Reg.PROT_RSVMAP r) 0 4 ∈ p.sense.disarmed ∧ (∀ e ∈ p.sense.armUntil, e.1 ≠ r.val) ∧
      p.bit Reg.PROT_STAT (s.part.fld (Reg.PROT_RSVMAP r) 0 4) = false ∧
      p.bit Reg.PROT_STAT (16 + s.part.fld (Reg.PROT_RSVMAP r) 0 4) = false ∧
      p.reg Reg.SPARE_LAST =
        BitVec.ofNat 32 (7 * 2 ^ 24 + s.part.fld (Reg.PROT_RSVMAP r) 0 4 * 65536 + (12 + r) * 256 + 5)) := by
  refine Does.of_run (exec_protReserveArmEnd r t s) halive ?_
  have hk : s.part.fld (Reg.PROT_RSVMAP r) 0 4 < 16 := bits_lt _ _ _
  obtain ⟨htrip, hhard⟩ : ((s.part.at t).disarmTarget r).bit Reg.PROT_STAT (s.part.fld (Reg.PROT_RSVMAP r) 0 4) = false ∧
      ((s.part.at t).disarmTarget r).bit Reg.PROT_STAT (16 + s.part.fld (Reg.PROT_RSVMAP r) 0 4) = false :=
    Part.fall_stat _ hk
  have hsense : ((s.part.at t).disarmTarget r).sense.armUntil = s.part.sense.armUntil.filter (fun e => e.1 ≠ r.val) ∧
      ((s.part.at t).disarmTarget r).sense.disarmed = s.part.fld (Reg.PROT_RSVMAP r) 0 4 :: s.part.sense.disarmed := ⟨rfl, rfl⟩
  rw [Part.protArmEnd_of_due h]
  generalize s.part.fld (Reg.PROT_RSVMAP r) 0 4 = k at *
  generalize (s.part.at t).disarmTarget r = q at *
  obtain ⟨hsame, hstat, hlast⟩ := q.swap_shown (cls := 7) (unit := k) (rsv := 12 + r) (cause := 5) (resRsv 7 (12 + r))
  refine ⟨?_, fun e he => ?_, ?_, ?_, ?_⟩
  · rw [hsame, hsense.2]
    exact List.mem_cons_self
  · rw [hsame, hsense.1] at he
    simpa using (List.mem_filter.1 he).2
  · rw [Part.bit, hstat, ← Part.bit, htrip]
  · rw [Part.bit, hstat, ← Part.bit, hhard]
  · rw [hlast, Nat.mod_eq_of_lt (by omega), Nat.mod_eq_of_lt (by omega)]

theorem does_protReserveArmEnd_early (r : Fin 2) (t : Instant) (s : State) (halive : s.part.alive = true)
    (h : ∀ a, (r.val, a) ∈ s.part.sense.armUntil → t < a) :
    Does (.protReserveArmEnd r t) s (fun p => p = s.part.at t) := by
  refine Does.of_run (exec_protReserveArmEnd r t s) halive (if_neg fun hdue => ?_)
  obtain ⟨⟨i, a⟩, hmem, hcond⟩ := List.any_eq_true.1 hdue
  obtain ⟨rfl, hle⟩ : i = r.val ∧ a ≤ t := by simpa using hcond
  exact absurd (h a hmem) (Nat.not_lt.2 hle)

/-- Settles O28 (the staged copy of a reserve's set: log entry 15; PROT_BLKCNT counts once for each leg: log entry 53): for each
row of the comparators what it does, and that it does nothing else where it does not act. -/
theorem protectionComparators : Obligations.ProtectionComparators := by
  unfold Obligations.ProtectionComparators
  refine ⟨fun k t s halive => ⟨does_comparatorTripCrossing k t s halive, fun h => ?tripIdle,
      does_comparatorHardCrossing k t s halive, fun h => ?hardIdle, fun hard => does_comparatorRelease k hard s halive,
      fun hard => idles_comparatorRelease k hard s⟩,
    fun l t s halive => ⟨does_blankingEnd_early l t s halive, does_blankingEnd_standing l t s halive,
      does_blankingEnd_fallen l t s halive⟩,
    fun v s halive => ⟨does_protFrearm v s halive, idles_protFrearm v s⟩,
    fun r v t s halive => ⟨does_protReserveMap_active r v t s halive, does_protReserveMap_clear r v t s halive,
      does_protReserveArmEnd_due r t s halive, does_protReserveArmEnd_early r t s halive⟩⟩
  case tripIdle => exact Does.of_run (exec_comparatorTripCrossing k t s) halive (Part.pcTrip_of_idle h)
  case hardIdle => exact Does.of_run (exec_comparatorHardCrossing k t s) halive (Part.pcHard_of_idle h)

end Sys2Proof.Machine
end

section
/-! PROOFS. The end of an AUXADC conversion (R186): the next slot starts from the sequence as the result leaves it, which is the
sequence as it was for every input that a slot can name, and no more for an input beyond them. -/

namespace Sys2Proof.Machine

theorem exec_auxadcConversionDone (code : BitVec 16) (t : Instant) (s : State) :
    exec (.auxadcConversionDone code t) s = s.run (·.auxDone code t) := by rfl

/-! Arithmetic with a NaN (R149). -/

theorem FpAcc.bad_term (s : FpAcc) (c : Int) (a b : Word) (h : s.bad = true) : (s.term c a b).bad = true := by
  unfold FpAcc.term
  split
  · rfl
  · rfl
  · exact h
  · extract_lets zero sgn neg
    clear_value zero neg
    split
    · rfl
    · exact h

theorem FpAcc.done_of_bad {s : FpAcc} (h : s.bad = true) (den : Nat) : s.done den = fpNan := if_pos h

theorem fpMul_nan (b : Word) : fpMul fpNan b = fpNan := FpAcc.done_of_bad rfl 1

theorem fpAdd_nan (b : Word) : fpAdd fpNan b = fpNan := FpAcc.done_of_bad (FpAcc.bad_term _ _ _ _ rfl) 1

/-- A scale that is a NaN gives a NaN, whatever the trims and the code. -/
theorem scaleY_nan (tgain toff uoff x : Word) : scaleY fpNan tgain toff uoff x = fpNan := by
  rw [scaleY, fpMul_nan, fpAdd_nan]

/-! What the AUXADC holds once a conversion is done. -/

theorem Part.Tripped.foldlFst {α β : Type} {ls : List Nat} {base : Part} {f : Part × α → β → Part × α} {x : Part × α}
    (h : x.1.Tripped ls base) (hf : ∀ y b, y.1.Tripped ls base → (f y b).1.Tripped ls base) {l : List β} :
    (l.foldl f x).1.Tripped ls base := by
  induction l generalizing x with
  | nil => exact h
  | cons b l ih => exact ih (hf x b h)

theorem Part.Tripped.setTrig {ls : List Nat} {p base : Part} (h : p.Tripped ls base) {k : Nat} {x : TrigUnit} :
    (p.setTrig k x).Tripped ls base :=
  (Part.Tripped.same (q := { p with cap := { p.cap with trig := vset p.cap.trig k x } }) h rfl rfl rfl).setBit
    (tripWrites_above (by decide))

theorem Part.Tripped.capLevel {ls : List Nat} {p base : Part} (h : p.Tripped ls base) {src : Nat} {t : Instant} {v : Word} :
    (p.capLevel src t v).Tripped ls base := by
  unfold Part.capLevel
  extract_lets t on r
  have hr : r.1.Tripped ls base := .foldlFst h fun _ _ hq => by dsimp only; exact hq.setTrig
  clear_value r
  exact hr.each fun _ _ _ hq => hq.trigFire

theorem Part.aux_setAux (p : Part) (x : AuxState) : (p.setAux x).sense.aux = x := by
  unfold Part.setAux
  cases x.busy <;> rfl

/-- The result as scaled of a conversion `c` with a code. -/
def Part.auxResult (p : Part) (c : AuxConv) (code : BitVec 16) : Word :=
  let tr := Config.auxTrim (p.reg (Reg.AUXADC_TRIM c.input))
  scaleY (p.reg (Reg.AUXADC_SCALE c.input)) tr.1 tr.2 (p.reg (Reg.AUXADC_UOFF c.input)) (fpOfRat code.toNat 65536)

/-- The part once the result of a conversion is shown and counted. -/
def Part.auxShow (p : Part) (c : AuxConv) (code : BitVec 16) : Part :=
  (p.setReg (Reg.AUXADC_RES c.input) (p.auxResult c code)).countWrap Reg.AUXADC_STAT 0 16

/-- The next slot starts once the result is shown. -/
theorem Part.auxDone_aux {p : Part} {c : AuxConv} {t : Instant} (hbusy : p.sense.aux.busy = some c)
    (hdue : c.start + nsec 500 ≤ t) (code : BitVec 16) :
    (p.auxDone code t).sense.aux = ((p.at t).auxShow c code).auxKick { p.sense.aux with busy := none } := by
  have hdone : p.auxDone code t = (((p.at t).auxShow c code).setAux
      (((p.at t).auxShow c code).auxKick { p.sense.aux with busy := none })).capLevel (0x180 + c.input) t
      ((p.at t).auxResult c code) := by
    unfold Part.auxDone
    simp only [Part.at_sense, hbusy, if_neg (Nat.not_lt.2 hdue)]
    rfl
  rw [hdone]
  exact (congrArg (·.aux) (Part.Tripped.refl [] _).capLevel.sense).trans (Part.aux_setAux _ _)

theorem Part.auxKick_congr {p q : Part} (hseq : ∀ k, q.reg (Reg.AUXADC_SEQ k) = p.reg (Reg.AUXADC_SEQ k)) (hnow : q.now = p.now)
    (x : AuxState) : q.auxKick x = p.auxKick x := by
  have hconv (k : Nat) : q.auxConv k = p.auxConv k := by
    rw [Part.auxConv, Part.fld, hseq, ← Part.fld, hnow, ← Part.auxConv]
  simp only [Part.auxKick, hconv]

/-- For the inputs that a slot can name the clause that fails below holds: their results lie apart from the sequence. -/
theorem Part.auxDone_aux_of_named {p : Part} {c : AuxConv} {t : Instant} (hbusy : p.sense.aux.busy = some c)
    (hdue : c.start + nsec 500 ≤ t) (hinput : c.input < 16) (code : BitVec 16) :
    (p.auxDone code t).sense.aux = (p.at t).auxKick { p.sense.aux with busy := none } := by
  have hnow : ((p.at t).auxShow c code).now = (p.at t).now := by
    rw [Part.auxShow, Part.countWrap, Part.setFld, Part.setReg_now, Part.setReg_now]
  rw [Part.auxDone_aux hbusy hdue]
  refine Part.auxKick_congr (fun k => ?_) hnow _
  have hstat : Reg.AUXADC_SEQ k ≠ Reg.AUXADC_STAT := by unfold Reg.AUXADC_SEQ Reg.AUXADC_STAT; omega
  have hres : Reg.AUXADC_SEQ k ≠ Reg.AUXADC_RES c.input := by unfold Reg.AUXADC_SEQ Reg.AUXADC_RES; omega
  rw [Part.auxShow, Part.countWrap, Part.reg_setFld, if_neg hstat, Part.reg_setReg, if_neg hres]

/-- A conversion of input 1984, of which the result register is the sequence register of slot 0, while slot 0 is queued for
input 5. -/
def auxStray : State :=
  { part := { regs := [(Reg.AUXADC_SEQ 0, 5), (Reg.AUXADC_SCALE 1984, fpNan)],
              sense := { aux := { busy := some { slot := 0, input := 1984, start := 0 }, queue := [0] } } } }

theorem auxStray_input : (auxStray.part.at (nsec 500)).fld (Reg.AUXADC_SEQ 0) 0 4 = 5 := by decide

/-- The NaN that the scaling gives is what the sequence register of slot 0 then holds. -/
theorem auxStray_shown : ((auxStray.part.at (nsec 500)).auxShow { slot := 0, input := 1984, start := 0 } 0).fld
    (Reg.AUXADC_SEQ 0) 0 4 = 0 := by
  have hscale : (auxStray.part.at (nsec 500)).reg (Reg.AUXADC_SCALE 1984) = fpNan := by decide
  have hresult : (auxStray.part.at (nsec 500)).auxResult { slot := 0, input := 1984, start := 0 } 0 = fpNan := by
    rw [Part.auxResult, hscale, scaleY_nan]
  rw [Part.auxShow, hresult, Part.countWrap, Part.fld_setFld_ne _ _ _ _ _ _ (by decide),
    show Reg.AUXADC_RES 1984 = Reg.AUXADC_SEQ 0 from rfl, Part.fld_setReg]
  decide

/-- Refutes O29: its clause on the end of an AUXADC conversion takes in a conversion whose input no slot can name (R186 has AIN0 to
AIN15). In `auxStray` the result overwrites the sequence register of the slot that starts next, which converts AIN0, and
the clause has it convert AIN5. -/
theorem not_sensingChannels : ¬ Obligations.SensingChannels := by
  unfold Obligations.SensingChannels
  rintro ⟨-, -, haux⟩
  obtain ⟨-, -, hdone, -⟩ := haux 0 (nsec 500) auxStray rfl
  obtain ⟨p, hexec, -, -, hnext, -⟩ := hdone { slot := 0, input := 1984, start := 0 } rfl (by decide)
  have hp : auxStray.part.auxDone 0 (nsec 500) = p := by
    have hrun := (exec_auxadcConversionDone 0 (nsec 500) auxStray).symm.trans hexec
    rw [State.run_alive rfl] at hrun
    injection hrun with hrun
    exact congrArg State.part hrun
  rw [← hp, Part.auxDone_aux rfl (by decide)] at hnext
  have hinput := congrArg (fun x : AuxState => x.busy.map (·.input)) hnext
  change some (Part.fld _ (Reg.AUXADC_SEQ 0) 0 4) = some (Part.fld _ (Reg.AUXADC_SEQ 0) 0 4) at hinput
  rw [auxStray_shown, auxStray_input] at hinput
  exact absurd hinput (by decide)

end Sys2Proof.Machine
end

section
/-! PROOFS. What the evaluation of a leg leaves as it was (R209 to R213), as one relation between the part before and the part
after; and what a gate command changes of the channels. -/

namespace Sys2Proof.Machine

/-- Registers that no evaluation of a leg writes: all but the carries of the pairs, the states of the legs and the gate
commands. -/
abbrev DriveFree (off : Nat) : Prop :=
  ¬ (0x151000 ≤ off ∧ off < 0x151400 ∧ (off % 0x20 = 0x14 ∨ off % 0x20 = 0x18)) ∧ ¬ (0x151400 ≤ off ∧ off < 0x151460) ∧
    off ≠ 0x160020 ∧ off ≠ 0x160024

/-- The part without what an evaluation of a leg changes. -/
def Part.undriven (p : Part) : Part :=
  { p with
    regs := []
    pwm := { p.pwm with sigs := Vector.replicate 48 {}, legs := Vector.replicate 24 {}, edgeAt := [], shown := [] } }

/-- From `b` to `p` legs were evaluated: registers beside, and carries that are 0, stay, and so do the clears that wait and
whatever else the part holds. -/
structure Part.Driven (p b : Part) : Prop where
  reg : ∀ off, DriveFree off → p.reg off = b.reg off
  carry : ∀ off, 0x151000 ≤ off → off < 0x151400 → b.reg off = 0 → p.reg off = 0
  clearing : ∀ l, (p.leg l).clearing = (b.leg l).clearing
  rest : p.undriven = b.undriven

theorem Part.Driven.refl (p : Part) : p.Driven p := ⟨fun _ _ => rfl, fun _ _ _ h => h, fun _ => rfl, rfl⟩

theorem Part.Driven.trans {p q b : Part} (h1 : p.Driven q) (h2 : q.Driven b) : p.Driven b where
  reg off ho := (h1.reg off ho).trans (h2.reg off ho)
  carry off hlo hhi hz := h1.carry off hlo hhi (h2.carry off hlo hhi hz)
  clearing l := (h1.clearing l).trans (h2.clearing l)
  rest := h1.rest.trans h2.rest

theorem Part.leg_setLeg (p : Part) (l : Nat) (x : Leg) (k : Nat) :
    (p.setLeg l x).leg k = if k = l ∧ l < 24 then x else p.leg k := vget_vset _ _ _ _ _

theorem Part.leg_setLeg_same (p : Part) {l : Nat} (h : l < 24) (x : Leg) : (p.setLeg l x).leg l = x := by
  rw [Part.leg_setLeg, if_pos ⟨rfl, h⟩]

theorem Part.sig_setSig (p : Part) (k : Nat) (x : Sig) (j : Nat) :
    (p.setSig k x).sig j = if j = k ∧ k < 48 then x else p.sig j := vget_vset _ _ _ _ _

theorem Part.legP0_lt (p : Part) (l : Nat) : p.legP0 l < 32 := bits_lt _ _ _

theorem Part.legP1_lt (p : Part) (l : Nat) : p.legP1 l < 32 := bits_lt _ _ _

theorem Part.legChans_lt {p : Part} {l c : Nat} (h : c ∈ p.legChans l) : c < 64 := by
  have ha := p.legP0_lt l
  have hb := p.legP1_lt l
  unfold Part.legChans at h
  split at h <;> simp only [List.mem_cons, List.not_mem_nil, or_false] at h <;> omega

theorem LegView.ch_lt {v : LegView} (hv : ∀ c ∈ v.chans, c < 64) (i : Nat) : v.ch i < 64 := by
  unfold LegView.ch
  rw [List.getD_eq_getElem?_getD]
  cases hi : v.chans[i]? with
  | none => decide
  | some c => exact hv c (List.mem_of_getElem? hi)

/-! The registers that an evaluation writes. -/

theorem driveWrites_carry {q : Nat} (hq : q < 32) : ¬ DriveFree (Reg.PWM_CARRYA q) ∧ ¬ DriveFree (Reg.PWM_CARRYB q) := by
  simp only [DriveFree, Reg.PWM_CARRYA, Reg.PWM_CARRYB]
  omega

theorem driveWrites_PWM_LSTAT {l : Nat} (hl : l < 24) :
    ¬ DriveFree (Reg.PWM_LSTAT l) ∧ ¬ (0x151000 ≤ Reg.PWM_LSTAT l ∧ Reg.PWM_LSTAT l < 0x151400) := by
  simp only [DriveFree, Reg.PWM_LSTAT]
  omega

theorem driveWrites_GATE_GT {c : Nat} (hc : c < 64) : ¬ DriveFree (chanReg Reg.GATE_GT_LO c) ∧
    ¬ (0x151000 ≤ chanReg Reg.GATE_GT_LO c ∧ chanReg Reg.GATE_GT_LO c < 0x151400) := by
  simp only [DriveFree, chanReg, Reg.GATE_GT_LO]
  omega

/-! The rules. -/

section
variable {p q b : Part} (h : p.Driven b)
include h

theorem Part.Driven.setReg {off : Nat} {v : Word}
    (ho : ¬ DriveFree off ∧ ¬ (0x151000 ≤ off ∧ off < 0x151400)) : (p.setReg off v).Driven b where
  reg o hf := by rw [Part.reg_setReg, if_neg (by rintro rfl; exact ho.1 hf), h.reg o hf]
  carry o hlo hhi hz := by
    rw [Part.reg_setReg, if_neg (by rintro rfl; exact ho.2 ⟨hlo, hhi⟩), h.carry o hlo hhi hz]
  clearing := h.clearing
  rest := h.rest

theorem Part.Driven.zeroReg {off : Nat} (ho : ¬ DriveFree off) : (p.setReg off 0).Driven b where
  reg o hf := by rw [Part.reg_setReg, if_neg (by rintro rfl; exact ho hf), h.reg o hf]
  carry o hlo hhi hz := by
    rw [Part.reg_setReg]
    split
    · rfl
    · exact h.carry o hlo hhi hz
  clearing := h.clearing
  rest := h.rest

/-- Registers, legs and the rest stay as they are. -/
theorem Part.Driven.same (hr : q.regs = p.regs) (hl : q.pwm.legs = p.pwm.legs) (hu : q.undriven = p.undriven) :
    q.Driven b := by
  have hreg (off : Nat) : q.reg off = p.reg off := by rw [Part.reg, hr, Part.reg]
  have hleg (l : Nat) : q.leg l = p.leg l := by rw [Part.leg, hl, Part.leg]
  exact ⟨fun o hf => (hreg o).trans (h.reg o hf), fun o hlo hhi hz => (hreg o).trans (h.carry o hlo hhi hz),
    fun l => by rw [hleg, h.clearing], hu.trans h.rest⟩

theorem Part.Driven.setLeg {l : Nat} {x : Leg} (hx : x.clearing = (p.leg l).clearing) : (p.setLeg l x).Driven b where
  reg := h.reg
  carry := h.carry
  clearing k := by
    rw [Part.leg_setLeg, ← h.clearing k]
    split
    case isTrue hk => rw [hx, hk.1]
    case isFalse => rfl
  rest := h.rest

theorem Part.Driven.each {α : Type} {f : Part → α → Part} {l : List α} (hf : ∀ q, ∀ a ∈ l, q.Driven b → (f q a).Driven b) :
    (p.each l f).Driven b := by
  induction l generalizing p with
  | nil => exact h
  | cons a l ih => exact ih (hf p a (by simp) h) (fun q x hx => hf q x (List.mem_cons_of_mem a hx))

theorem Part.Driven.when {c : Bool} {f : Part → Part} (hf : ∀ q, q.Driven b → (f q).Driven b) : (p.when c f).Driven b := by
  cases c
  · exact h
  · exact hf p h

/-! The operations. -/

theorem Part.Driven.clearPair {k : Nat} (hk : k < 32) : (p.clearPair k).Driven b :=
  ((h.zeroReg (driveWrites_carry hk).1).zeroReg (driveWrites_carry hk).2).same rfl rfl rfl

theorem Part.Driven.setGt {c : Nat} {lvl : Bool} {t : Instant} (hc : c < 64) : (p.setGt c lvl t).Driven b :=
  (h.setReg (driveWrites_GATE_GT hc)).same rfl rfl rfl

end

theorem Part.lt_of_mem_gateCopies {p : Part} {c r : Nat} (h : r ∈ p.gateCopies c) : r < 8 :=
  List.mem_range.1 (List.mem_of_mem_filter h)

section
variable {p b : Part} (h : p.Driven b) {l : Nat} {t : Instant}
include h

theorem Part.Driven.command {c : Nat} {lvl : Bool} (hc : c < 64) : (p.command l c lvl t).Driven b :=
  .setLeg (.each (h.setGt hc) fun _ r hr hq => hq.setGt (by have := Part.lt_of_mem_gateCopies hr; omega)) rfl

theorem Part.Driven.noteLeg {v : LegView} {before : Nat} (hl : l < 24) : (p.noteLeg l v before t).Driven b :=
  .setReg (.setLeg h (by split <;> rfl)) (driveWrites_PWM_LSTAT hl)

theorem Part.Driven.countHeld {v : LegView} {want : List Bool} (hl : l < 24) : (p.countHeld l v want t).Driven b := by
  unfold Part.countHeld
  split
  · exact h
  · extract_lets
    refine .setReg (.setLeg h ?_) (driveWrites_PWM_LSTAT hl)
    rfl

end

/-! One command after another (R209, R213): the round of an evaluation. -/

/-- What leg `l` holds as a round begins: whether it is on its way out of Z. -/
def Part.roundLeg (p : Part) (l : Nat) (v : LegView) (want : List Bool) : Leg :=
  let before := legCode (p.legCmds v)
  let lg := p.leg l
  let lg := if v.npc && before = 0 && want.any id then { lg with fromZ := true }
    else if v.npc && !want.any id then { lg with fromZ := false } else lg
  if lg.fromZ && before = 4 then { lg with fromZ := false } else lg

/-- The levels that a round goes for. -/
def Part.roundGoal (p : Part) (l : Nat) (v : LegView) (want : List Bool) : List Bool := legGoal v (p.roundLeg l v want) want

/-- The switch whose command a round issues. -/
def Part.roundReady (p : Part) (l : Nat) (v : LegView) (want : List Bool) (t : Instant) : Option Nat :=
  let goal := p.roundGoal l v want
  let idx := List.range v.chans.length
  (idx.filter (fun i => !goal.getD i false) ++ idx.filter (fun i => goal.getD i false)).find?
    (p.mayIssue v (p.roundLeg l v want) goal t)

/-- The part as a round begins. -/
def Part.roundBegun (p : Part) (l : Nat) (v : LegView) (want : List Bool) : Part := p.setLeg l (p.roundLeg l v want)

/-- The part once a round has issued the command of switch `i`. -/
def Part.roundIssued (p : Part) (l : Nat) (v : LegView) (want : List Bool) (t : Instant) (i : Nat) : Part :=
  ((p.roundBegun l v want).command l (v.ch i) ((p.roundGoal l v want).getD i false) t).noteLeg l v (legCode (p.legCmds v)) t

theorem Part.issueLeg_succ (p : Part) (l : Nat) (v : LegView) (want : List Bool) (t : Instant) (k : Nat) :
    p.issueLeg l v want t (k + 1) = match p.roundReady l v want t with
      | none => p.roundBegun l v want
      | some i => (p.roundIssued l v want t i).issueLeg l v want t k := rfl

section
variable {p : Part} {l : Nat} {v : LegView} {want : List Bool} {t : Instant}

theorem Part.issueLeg_done {k : Nat} (h : p.roundReady l v want t = none) :
    p.issueLeg l v want t (k + 1) = p.roundBegun l v want := by
  rw [Part.issueLeg_succ, h]

theorem Part.issueLeg_round {k i : Nat} (h : p.roundReady l v want t = some i) :
    p.issueLeg l v want t (k + 1) = (p.roundIssued l v want t i).issueLeg l v want t k := by
  rw [Part.issueLeg_succ, h]

/-- What the start of a round and the command of a switch that may be issued keep, an evaluation keeps. -/
theorem Part.issueLeg_keeps {P : Part → Prop} (hbegun : ∀ q, P q → P (q.roundBegun l v want))
    (hissued : ∀ q i, P q → i < v.chans.length →
      q.mayIssue v (q.roundLeg l v want) (q.roundGoal l v want) t i = true → P (q.roundIssued l v want t i))
    (hp : P p) (k : Nat) : P (p.issueLeg l v want t k) := by
  induction k generalizing p with
  | zero => exact hp
  | succ k ih =>
    cases hr : p.roundReady l v want t with
    | none => exact Part.issueLeg_done hr ▸ hbegun p hp
    | some i =>
      rw [Part.issueLeg_round hr]
      refine ih (hissued p i hp ?_ (List.find?_some hr))
      have hmem := List.mem_of_find?_eq_some hr
      simp only [List.mem_append, List.mem_filter, List.mem_range] at hmem
      omega

theorem Part.roundLeg_clearing : (p.roundLeg l v want).clearing = (p.leg l).clearing := by
  unfold Part.roundLeg
  extract_lets before lg lg'
  have hlg : lg'.clearing = lg.clearing := by
    unfold lg'
    split
    · rfl
    split <;> rfl
  split <;> exact hlg

theorem Part.Driven.roundBegun {b : Part} (h : p.Driven b) : (p.roundBegun l v want).Driven b :=
  h.setLeg Part.roundLeg_clearing

theorem Part.Driven.roundIssued {b : Part} (h : p.Driven b) {i : Nat} (hl : l < 24) (hv : ∀ c ∈ v.chans, c < 64) :
    (p.roundIssued l v want t i).Driven b :=
  (h.roundBegun.command (LegView.ch_lt hv i)).noteLeg hl

theorem Part.Driven.issueLeg {b : Part} (h : p.Driven b) (hl : l < 24) (hv : ∀ c ∈ v.chans, c < 64) (k : Nat) :
    (p.issueLeg l v want t k).Driven b :=
  Part.issueLeg_keeps (P := (·.Driven b)) (fun _ hq => hq.roundBegun) (fun _ _ hq _ _ => hq.roundIssued hl hv) h k

end

/-! The whole evaluation. -/

/-- An enabled leg as its evaluation begins: one that leaves RUN has cleared its carries. -/
def Part.evalBegun (p : Part) (l : Nat) : Part :=
  let q := p.when ((p.leg l).ran && !(p.legMode l = .run : Bool)) (·.clearPair (p.legP0 l))
  q.setLeg l { q.leg l with ran := p.legMode l = .run }

theorem Part.evalLeg_off {p : Part} {l : Nat} {t : Instant} (h : p.legOn l = false) : p.evalLeg t l = p := by
  rw [Part.evalLeg, h]
  rfl

theorem Part.evalLeg_on {p : Part} {l : Nat} {t : Instant} (h : p.legOn l = true) : p.evalLeg t l =
    ((p.evalBegun l).countHeld l ((p.evalBegun l).legView l) ((p.evalBegun l).legWant l) t).issueLeg l
      ((p.evalBegun l).legView l) ((p.evalBegun l).legWant l) t 10 := by
  have hgo : ¬ (!p.legOn l) = true := by simp [h]
  exact if_neg hgo

section
variable {p b : Part} (h : p.Driven b) {l : Nat} {t : Instant}
include h

theorem Part.Driven.evalBegun : (p.evalBegun l).Driven b :=
  .setLeg (h.when fun _ hq => hq.clearPair (p.legP0_lt l)) rfl

theorem Part.Driven.evalLeg (hl : l < 24) : (p.evalLeg t l).Driven b := by
  by_cases hon : p.legOn l = true
  · rw [Part.evalLeg_on hon]
    exact (h.evalBegun.countHeld hl).issueLeg hl (fun _ hc => Part.legChans_lt hc) 10
  · rw [Part.evalLeg_off (by simpa using hon)]
    exact h

theorem Part.Driven.evalLegsOf {ls : List Nat} (hls : ∀ l ∈ ls, l < 24) : (p.each ls (fun p l => p.evalLeg t l)).Driven b :=
  h.each fun _ _ hl hq => hq.evalLeg (hls _ hl)

end

/-! What is read of a part from which a leg was evaluated. -/

section
variable {p b : Part} (h : p.Driven b)
include h

theorem Part.Driven.fld {off : Nat} (ho : DriveFree off) (lo w : Nat) : p.fld off lo w = b.fld off lo w := by
  rw [Part.fld, h.reg off ho, Part.fld]

theorem Part.Driven.bit {off : Nat} (ho : DriveFree off) (i : Nat) : p.bit off i = b.bit off i := by
  rw [Part.bit, h.reg off ho, Part.bit]

theorem Part.Driven.swaps : p.pwm.swaps = b.pwm.swaps := congrArg (·.pwm.swaps) h.rest

theorem Part.Driven.tb (g : Grp) : p.tb g = b.tb g :=
  congrArg (fun q : Part => q.tb g) (a₁ := p.undriven) (a₂ := b.undriven) h.rest

theorem Part.Driven.cg (g : Grp) : p.cg g = b.cg g :=
  congrArg (fun q : Part => q.cg g) (a₁ := p.undriven) (a₂ := b.undriven) h.rest

theorem Part.Driven.latched (l : Nat) : p.latched l = b.latched l := h.bit (by decide) l

theorem Part.Driven.gs {c : Nat} (hc : c < 64) : p.gs c = b.gs c :=
  h.bit (by simp only [DriveFree, chanReg, Reg.GATE_GS_LO]; omega) _

theorem Part.Driven.gateCopies (c : Nat) : p.gateCopies c = b.gateCopies c := by
  refine List.filter_congr fun r _ => ?_
  rw [h.swaps, h.fld (by simp only [DriveFree, Reg.GATE_RSVMAP]; omega)]

theorem Part.Driven.ret {c : Nat} (hc : c < 64) : p.ret c = b.ret c := by
  unfold Part.ret
  rw [h.gateCopies, h.swaps]
  split
  case h_1 r hr =>
    have h8 := Part.lt_of_mem_gateCopies (List.mem_of_find?_eq_some hr)
    exact h.gs (by omega)
  case h_2 => exact h.gs hc

end

/-! What a command changes of the channels. -/

theorem Part.gt_setGt (p : Part) (c : Nat) (lvl : Bool) (t : Instant) (d : Nat) :
    (p.setGt c lvl t).gt d = if d = c then lvl else p.gt d := by
  change (p.setBit (chanReg Reg.GATE_GT_LO c) (c % 32) lvl).bit (chanReg Reg.GATE_GT_LO d) (d % 32) = _
  by_cases hword : d / 32 = c / 32
  · rw [chanReg, chanReg, hword, Part.bit_setBit _ _ (Nat.mod_lt _ (by decide)), Part.gt, chanReg, hword]
    simp only [show d % 32 = c % 32 ↔ d = c by omega]
  · rw [Part.bit_setBit_ne _ _ (by unfold chanReg; omega), if_neg (by omega), Part.gt]

theorem Part.edgeAt_setGt (p : Part) (c : Nat) (lvl : Bool) (t : Instant) (d : Nat) :
    (p.setGt c lvl t).edgeAt d = if d = c then t else p.edgeAt d := sGet_sSet _ _ _ _ _

/-- Of the channels of pairs a command changes the one it names. -/
theorem Part.command_channel (p : Part) (l : Nat) {c d : Nat} (hd : d < 48) (lvl : Bool) (t : Instant) :
    (p.command l c lvl t).gt d = (if d = c then lvl else p.gt d) ∧
      (p.command l c lvl t).edgeAt d = (if d = c then t else p.edgeAt d) := by
  have copies (ls : List Nat) (q : Part) : (q.each ls (fun p r => p.setGt (48 + r) lvl t)).gt d = q.gt d ∧
      (q.each ls (fun p r => p.setGt (48 + r) lvl t)).edgeAt d = q.edgeAt d := by
    induction ls generalizing q with
    | nil => exact ⟨rfl, rfl⟩
    | cons r ls ih =>
      obtain ⟨hgt, hedge⟩ := ih (q.setGt (48 + r) lvl t)
      rw [Part.gt_setGt, if_neg (by omega)] at hgt
      rw [Part.edgeAt_setGt, if_neg (by omega)] at hedge
      exact ⟨hgt, hedge⟩
  obtain ⟨hgt, hedge⟩ := copies (p.gateCopies c) (p.setGt c lvl t)
  exact ⟨hgt.trans (p.gt_setGt c lvl t d), hedge.trans (p.edgeAt_setGt c lvl t d)⟩

end Sys2Proof.Machine
end

section
/-! PROOFS. The handshake of a leg's switches (R209, R213): which conditions stand once a switch has been turned on, and
what becomes of the channels of other pairs. -/

namespace Sys2Proof.Machine

/-! What a leg is judged on. -/

section
variable {p b : Part} (h : p.Driven b)
include h

theorem Part.Driven.tbRuns (g : Grp) : p.tbRuns g = b.tbRuns g := h.bit (by cases g <;> decide) 31

theorem Part.Driven.groupRuns (g : Grp) : p.groupRuns g = b.groupRuns g := by
  rw [Part.groupRuns, h.fld (by cases g <;> decide), Part.groupRuns]

theorem Part.Driven.pcfg (q i : Nat) (hq : q < 32) : p.bit (Reg.PWM_PCFG q) i = b.bit (Reg.PWM_PCFG q) i :=
  h.bit (by simp only [DriveFree, Reg.PWM_PCFG]; omega) i

theorem Part.Driven.pairOn {q : Nat} (hq : q < 32) : p.pairOn q = b.pairOn q := h.pcfg q 31 hq

theorem Part.Driven.pairGrp {q : Nat} (hq : q < 32) : p.pairGrp q = b.pairGrp q := by
  rw [Part.pairGrp, h.pcfg q 30 hq, Part.pairGrp]

theorem Part.Driven.pairIndep {q : Nat} (hq : q < 32) : p.pairIndep q = b.pairIndep q := by
  rw [Part.pairIndep, h.fld (by simp only [DriveFree, Reg.PWM_PCFG]; omega), Part.pairIndep]

variable {l : Nat} (hl : l < 24)
include hl

theorem Part.Driven.legcfg : p.reg (Reg.PWM_LEGCFG l) = b.reg (Reg.PWM_LEGCFG l) :=
  h.reg _ (by simp only [DriveFree, Reg.PWM_LEGCFG]; omega)

theorem Part.Driven.legOn : p.legOn l = b.legOn l := by
  rw [Part.legOn, Part.bit, h.legcfg hl, ← Part.bit, ← Part.legOn]

theorem Part.Driven.legNpc : p.legNpc l = b.legNpc l := by
  rw [Part.legNpc, Part.bit, h.legcfg hl, ← Part.bit, ← Part.legNpc]

theorem Part.Driven.legP0 : p.legP0 l = b.legP0 l := by
  rw [Part.legP0, Part.fld, h.legcfg hl, ← Part.fld, ← Part.legP0]

theorem Part.Driven.legP1 : p.legP1 l = b.legP1 l := by
  rw [Part.legP1, Part.fld, h.legcfg hl, ← Part.fld, ← Part.legP1]

theorem Part.Driven.legIdle : p.legIdle l = b.legIdle l := by
  have ha := b.legP0_lt l
  have hb := b.legP1_lt l
  simp only [Part.legIdle, Part.legGrp, h.legP0 hl, h.legP1 hl, h.legNpc hl, h.pairGrp ha, h.pairOn ha, h.pairOn hb,
    h.groupRuns, h.tbRuns, h.cg]

theorem Part.Driven.legCommand : p.legCommand l = b.legCommand l := by
  have ha := b.legP0_lt l
  simp only [Part.legCommand, h.legP0 hl, h.legNpc hl, h.pairIndep ha,
    h.reg (Reg.PWM_ACMPB (b.legP0 l)) (by simp only [DriveFree, Reg.PWM_ACMPB]; omega)]

theorem Part.Driven.legMode : p.legMode l = b.legMode l := by
  have hsafe : p.legSafe l = b.legSafe l := by
    rw [Part.legSafe, h.fld (by simp only [DriveFree, Reg.GATE_LCFG]; omega), Part.legSafe]
  have hsto : p.stoHold = b.stoHold := h.bit (by decide) 29
  simp only [Part.legMode, hsto, h.latched, h.legIdle hl, hsafe, h.legCommand hl]

theorem Part.Driven.legView : p.legView l = b.legView l := by
  have ha := b.legP0_lt l
  have hb := b.legP1_lt l
  have hdt {q : Nat} (hq : q < 32) : p.fld (Reg.PWM_DT q) 0 17 = b.fld (Reg.PWM_DT q) 0 17 :=
    h.fld (by simp only [DriveFree, Reg.PWM_DT]; omega) 0 17
  have hmin {q : Nat} (hq : q < 32) : p.fld (Reg.PWM_MINPW q) 0 16 = b.fld (Reg.PWM_MINPW q) 0 16 :=
    h.fld (by simp only [DriveFree, Reg.PWM_MINPW]; omega) 0 16
  simp only [Part.legView, Part.legChans, h.legP0 hl, h.legP1 hl, h.legNpc hl, h.legMode hl, hdt ha, hdt hb, hmin ha, hmin hb]

end

/-! The switches of a view. -/

/-- A view whose switches have channels of their own, of pairs. -/
structure LegView.Sound (v : LegView) : Prop where
  length : v.chans.length = if v.npc then 4 else 2
  nodup : v.chans.Nodup
  lt : ∀ c ∈ v.chans, c < 48

section
variable {v : LegView} {i j : Nat}

theorem LegView.ch_mem (hi : i < v.chans.length) : v.ch i ∈ v.chans := by
  rw [LegView.ch, List.getD_eq_getElem _ _ hi]
  exact List.getElem_mem hi

variable (hv : v.Sound)
include hv

theorem LegView.Sound.ch_lt (hi : i < v.chans.length) : v.ch i < 48 := hv.lt _ (LegView.ch_mem hi)

theorem LegView.Sound.ch_inj (hi : i < v.chans.length) (hj : j < v.chans.length) : v.ch i = v.ch j ↔ i = j := by
  rw [LegView.ch, LegView.ch, List.getD_eq_getElem _ _ hi, List.getD_eq_getElem _ _ hj, hv.nodup.getElem_inj_iff]

theorem LegView.Sound.partner_lt (hi : i < v.chans.length) : partnerOf i < v.chans.length := by
  have hlen := hv.length
  unfold partnerOf
  split at hlen <;> split <;> omega

theorem LegView.Sound.inner_lt (hn : v.npc = true) : innerOf i < v.chans.length := by
  rw [hv.length, hn]
  unfold innerOf
  split <;> decide

end

theorem partnerOf_ne (i : Nat) : partnerOf i ≠ i := by
  unfold partnerOf
  split <;> omega

theorem partnerOf_partnerOf (i : Nat) : partnerOf (partnerOf i) = i := by
  unfold partnerOf
  split <;> split <;> omega

theorem innerOf_outer {i : Nat} (h : isOuter i = true) :
    innerOf i ≠ i ∧ isOuter (innerOf i) = false ∧ outerOf (innerOf i) = i := by
  have hi : i = 0 ∨ i = 3 := by simpa [isOuter] using h
  rcases hi with rfl | rfl <;> decide

/-- A leg whose pairs exist, and are two where it is an NPC leg, has a sound view. -/
theorem Part.legView_sound {p : Part} {l : Nat} (ha : p.legP0 l < 24)
    (hb : p.legNpc l = true → p.legP1 l < 24 ∧ p.legP1 l ≠ p.legP0 l) : (p.legView l).Sound := by
  cases hn : p.legNpc l with
  | false =>
    refine ⟨?_, ?_, ?_⟩ <;>
      simp only [Part.legView, Part.legChans, hn, Bool.false_eq_true, if_false, List.length_cons, List.length_nil, List.nodup_cons,
        List.mem_cons, List.not_mem_nil, or_false] <;>
      grind
  | true =>
    obtain ⟨hb24, hne⟩ := hb hn
    refine ⟨?_, ?_, ?_⟩ <;>
      simp only [Part.legView, Part.legChans, hn, if_true, List.length_cons, List.length_nil, List.nodup_cons,
        List.mem_cons, List.not_mem_nil, or_false] <;>
      grind

/-! When a command may be issued. -/

section
variable {p : Part} {v : LegView} {lg : Leg} {want : List Bool} {t : Instant} {i : Nat}

theorem Part.handshake_iff : p.handshake v i t = true ↔ p.gt (v.ch (partnerOf i)) = false ∧ p.ret (v.ch (partnerOf i)) = false ∧
    p.edgeAt (v.ch (partnerOf i)) + v.dt.getD i 0 ≤ t := by
  simp [Part.handshake, and_assoc]

theorem Part.mayIssue_iff : p.mayIssue v lg want t i = true ↔ p.gt (v.ch i) ≠ want.getD i false ∧
    p.orderOk v lg want i (want.getD i false) t = true ∧ (want.getD i false = true → p.handshake v i t = true) := by
  unfold Part.mayIssue
  dsimp only
  generalize want.getD i false = lvl
  cases lvl <;> simp [and_assoc]

theorem Part.inner_of_orderOk (hn : v.npc = true) (hi : isOuter i = true) (h : p.orderOk v lg want i true t = true) :
    p.gt (v.ch (innerOf i)) = true ∧ p.ret (v.ch (innerOf i)) = true := by
  simpa [Part.orderOk, hn, hi] using h

theorem Part.outer_of_orderOk (hn : v.npc = true) (hi : isOuter i = false) (h : p.orderOk v lg want i false t = true) :
    p.gt (v.ch (outerOf i)) = false := by
  simp only [Part.orderOk, hn, hi, Bool.not_true, Bool.false_eq_true, if_false, Bool.and_eq_true, Bool.not_eq_true'] at h
  exact h.1.1.1.1

end

/-! The channels through a round. -/

theorem Part.gt_of_state (p : Part) {l : Nat} (hl : l < 24) (lo w n c : Nat) :
    (p.setFld (Reg.PWM_LSTAT l) lo w n).gt c = p.gt c := by
  rw [Part.gt, Part.bit, Part.reg_setFld, if_neg (by unfold chanReg Reg.GATE_GT_LO Reg.PWM_LSTAT; omega)]
  rfl

theorem Part.edgeAt_setFld (p : Part) (off lo w n c : Nat) : (p.setFld off lo w n).edgeAt c = p.edgeAt c := rfl

section
variable {p b : Part} {l : Nat} {v : LegView} {want : List Bool} {t : Instant} {i : Nat} (hl : l < 24)
include hl

theorem Part.noteLeg_channel (p : Part) (v : LegView) (before : Nat) (t : Instant) (c : Nat) :
    (p.noteLeg l v before t).gt c = p.gt c ∧ (p.noteLeg l v before t).edgeAt c = p.edgeAt c := by
  unfold Part.noteLeg
  extract_lets code lg lg'
  clear_value lg'
  exact ⟨Part.gt_of_state (p.setLeg l lg') hl _ _ _ c, rfl⟩

theorem Part.countHeld_channel (p : Part) (v : LegView) (want : List Bool) (t : Instant) (c : Nat) :
    (p.countHeld l v want t).gt c = p.gt c ∧ (p.countHeld l v want t).edgeAt c = p.edgeAt c := by
  unfold Part.countHeld
  split
  · exact ⟨rfl, rfl⟩
  · extract_lets src lg ix waits out own sw fresh kept mask
    clear_value lg mask fresh
    exact ⟨Part.gt_of_state (p.setLeg l { lg with held := mask }) hl _ _ _ c, Part.edgeAt_setFld (p.setLeg l _) _ _ _ _ c⟩

theorem Part.roundIssued_channel {d : Nat} (hd : d < 48) :
    (p.roundIssued l v want t i).gt d = (if d = v.ch i then (p.roundGoal l v want).getD i false else p.gt d) ∧
      (p.roundIssued l v want t i).edgeAt d = (if d = v.ch i then t else p.edgeAt d) := by
  obtain ⟨hgt, hedge⟩ := (p.roundBegun l v want).command_channel l (c := v.ch i) hd ((p.roundGoal l v want).getD i false) t
  obtain ⟨hnote, hnoteEdge⟩ := Part.noteLeg_channel hl ((p.roundBegun l v want).command l (v.ch i)
    ((p.roundGoal l v want).getD i false) t) v (legCode (p.legCmds v)) t d
  exact ⟨hnote.trans hgt, hnoteEdge.trans hedge⟩

/-- The switches beside the one that a round commands stay as they are. -/
theorem Part.roundIssued_beside {d : Nat} (hd : d < 48) (hne : d ≠ v.ch i) :
    (p.roundIssued l v want t i).gt d = p.gt d ∧ (p.roundIssued l v want t i).edgeAt d = p.edgeAt d := by
  obtain ⟨hgt, hedge⟩ := Part.roundIssued_channel (p := p) (v := v) (want := want) (t := t) (i := i) hl hd
  rw [if_neg hne] at hgt hedge
  exact ⟨hgt, hedge⟩

theorem Part.roundIssued_switch (hch : v.ch i < 48) :
    (p.roundIssued l v want t i).gt (v.ch i) = (p.roundGoal l v want).getD i false := by
  rw [(Part.roundIssued_channel hl hch).1, if_pos rfl]

end

/-! The handshake through an evaluation. -/

/-- From `b` to `p` every switch of a view that was turned on was so after the handshake with its partner, and an outer one over
its inner one; and the channels beside the view stayed. -/
structure Part.Handshaken (p b : Part) (v : LegView) (t : Instant) : Prop where
  driven : p.Driven b
  shake : ∀ i < v.chans.length, p.gt (v.ch i) = true → b.gt (v.ch i) = false → p.handshake v i t = true
  inner : v.npc = true → ∀ i < v.chans.length, isOuter i = true → p.gt (v.ch i) = true → b.gt (v.ch i) = false →
    p.gt (v.ch (innerOf i)) = true ∧ p.ret (v.ch (innerOf i)) = true
  beside : ∀ c < 48, c ∉ v.chans → p.gt c = b.gt c

section
variable {p b : Part} {l : Nat} {v : LegView} {want : List Bool} {t : Instant}

theorem Part.Handshaken.refl (p : Part) (v : LegView) (t : Instant) : p.Handshaken p v t where
  driven := .refl p
  shake i _ hon hoff := by rw [hon] at hoff; exact absurd hoff (by decide)
  inner _ i _ _ hon hoff := by rw [hon] at hoff; exact absurd hoff (by decide)
  beside _ _ _ := rfl

theorem Part.Handshaken.roundBegun (h : p.Handshaken b v t) : (p.roundBegun l v want).Handshaken b v t :=
  { h with driven := h.driven.roundBegun }

theorem Part.Handshaken.roundIssued {i : Nat} (h : p.Handshaken b v t) (hl : l < 24) (hv : v.Sound) (hi : i < v.chans.length)
    (hmay : p.mayIssue v (p.roundLeg l v want) (p.roundGoal l v want) t i = true) :
    (p.roundIssued l v want t i).Handshaken b v t := by
  obtain ⟨hchange, horder, hshake⟩ := Part.mayIssue_iff.1 hmay
  have hself := Part.roundIssued_switch (p := p) (want := want) (t := t) hl (hv.ch_lt hi)
  have hret {c : Nat} (hc : c < 48) : (p.roundIssued l v want t i).ret c = p.ret c :=
    ((Part.Driven.refl p).roundIssued hl fun c hc => Nat.lt_trans (hv.lt c hc) (by decide)).ret (Nat.lt_trans hc (by decide))
  have hother {j : Nat} (hj : j < v.chans.length) (hne : j ≠ i) :=
    Part.roundIssued_beside (p := p) (want := want) (t := t) hl (hv.ch_lt hj) (mt (hv.ch_inj hj hi).1 hne)
  generalize (p.roundGoal l v want).getD i false = lvl at *
  -- a handshake that stands with a partner other than the switch commanded stands on
  have keep {j : Nat} (hj : j < v.chans.length) (hne : partnerOf j ≠ i) (hs : p.handshake v j t = true) :
      (p.roundIssued l v want t i).handshake v j t = true := by
    have hpj := hv.partner_lt hj
    rw [Part.handshake_iff] at hs ⊢
    rwa [(hother hpj hne).1, (hother hpj hne).2, hret (hv.ch_lt hpj)]
  refine ⟨h.driven.roundIssued hl fun c hc => Nat.lt_trans (hv.lt c hc) (by decide), fun j hj hon hoff => ?shake,
    fun hn j hj ho hon hoff => ?inner, fun c hc hmem => ?beside⟩
  case shake =>
    by_cases hji : j = i
    · subst hji
      exact keep hj (partnerOf_ne j) (hshake (hself.symm.trans hon))
    · rw [(hother hj hji).1] at hon
      refine keep hj ?_ (h.shake j hj hon hoff)
      -- the partner of a switch that is on is off, and may not be turned on
      rintro rfl
      have hpoff := (Part.handshake_iff.1 (h.shake j hj hon hoff)).1
      rw [hpoff] at hchange
      have hjoff := (Part.handshake_iff.1 (hshake (by simpa using hchange.symm))).1
      rw [partnerOf_partnerOf, hon] at hjoff
      exact absurd hjoff (by decide)
  case inner =>
    have hin := hv.inner_lt (i := j) hn
    obtain ⟨hne, hinner, hback⟩ := innerOf_outer ho
    have hstands : p.gt (v.ch (innerOf j)) = true ∧ p.ret (v.ch (innerOf j)) = true ∧ innerOf j ≠ i := by
      by_cases hji : j = i
      · subst hji
        rw [hself] at hon
        subst hon
        obtain ⟨hgt, hr⟩ := Part.inner_of_orderOk hn ho horder
        exact ⟨hgt, hr, hne⟩
      · rw [(hother hj hji).1] at hon
        obtain ⟨hgt, hr⟩ := h.inner hn j hj ho hon hoff
        refine ⟨hgt, hr, ?_⟩
        -- an inner switch is not turned off under an outer one that is on
        rintro rfl
        rw [hgt] at hchange
        have hlvl : lvl = false := by simpa using hchange.symm
        subst hlvl
        have houter := Part.outer_of_orderOk hn hinner horder
        rw [hback, hon] at houter
        exact absurd houter (by decide)
    rw [(hother hin hstands.2.2).1, hret (hv.ch_lt hin)]
    exact ⟨hstands.1, hstands.2.1⟩
  case beside =>
    rw [(Part.roundIssued_beside hl hc (fun he => hmem (he ▸ LegView.ch_mem hi))).1, h.beside c hc hmem]

theorem Part.Handshaken.issueLeg (p : Part) (hl : l < 24) (hv : v.Sound) (k : Nat) :
    (p.issueLeg l v want t k).Handshaken p v t :=
  Part.issueLeg_keeps (P := (·.Handshaken p v t)) (fun _ hq => hq.roundBegun)
    (fun _ _ hq hi hmay => hq.roundIssued hl hv hi hmay) (.refl p v t) k

end

/-! The channels as an evaluation begins. -/

/-- An enabled leg once its evaluation has begun and has counted the edges that wait. -/
def Part.evalCounted (p : Part) (l : Nat) (t : Instant) : Part :=
  (p.evalBegun l).countHeld l (p.legView l) ((p.evalBegun l).legWant l) t

section
variable {p : Part} {l : Nat} {t : Instant} (hl : l < 24)
include hl

theorem Part.legView_evalBegun : (p.evalBegun l).legView l = p.legView l := (Part.Driven.refl p).evalBegun.legView hl

theorem Part.evalLeg_rounds (hon : p.legOn l = true) : p.evalLeg t l =
    (p.evalCounted l t).issueLeg l (p.legView l) ((p.evalBegun l).legWant l) t 10 := by
  rw [Part.evalLeg_on hon, Part.legView_evalBegun hl]
  rfl

theorem Part.evalCounted_driven : (p.evalCounted l t).Driven p := (Part.Driven.refl p).evalBegun.countHeld hl

omit hl in
theorem Part.clearPair_channel (p : Part) {q : Nat} (hq : q < 32) (c : Nat) :
    (p.clearPair q).gt c = p.gt c ∧ (p.clearPair q).edgeAt c = p.edgeAt c := by
  have hapart : chanReg Reg.GATE_GT_LO c ≠ Reg.PWM_CARRYA q ∧ chanReg Reg.GATE_GT_LO c ≠ Reg.PWM_CARRYB q := by
    unfold chanReg Reg.GATE_GT_LO Reg.PWM_CARRYA Reg.PWM_CARRYB
    omega
  refine ⟨?_, rfl⟩
  change ((p.setReg (Reg.PWM_CARRYA q) 0).setReg (Reg.PWM_CARRYB q) 0).gt c = _
  rw [Part.gt, Part.bit, Part.reg_setReg, if_neg hapart.2, Part.reg_setReg, if_neg hapart.1, ← Part.bit, ← Part.gt]

theorem Part.evalCounted_channel (c : Nat) :
    (p.evalCounted l t).gt c = p.gt c ∧ (p.evalCounted l t).edgeAt c = p.edgeAt c := by
  have hbegun : (p.evalBegun l).gt c = p.gt c ∧ (p.evalBegun l).edgeAt c = p.edgeAt c := by
    change (p.when _ _).gt c = _ ∧ (p.when _ _).edgeAt c = _
    unfold Part.when
    split
    · exact p.clearPair_channel (p.legP0_lt l) c
    · exact ⟨rfl, rfl⟩
  obtain ⟨hgt, hedge⟩ := Part.countHeld_channel hl (p.evalBegun l) (p.legView l) ((p.evalBegun l).legWant l) t c
  exact ⟨hgt.trans hbegun.1, hedge.trans hbegun.2⟩

/-- What an evaluation leaves of the switches of a leg whose pairs exist. -/
theorem Part.evalLeg_handshaken (hon : p.legOn l = true) (hv : (p.legView l).Sound) :
    (p.evalLeg t l).Handshaken p (p.legView l) t := by
  rw [Part.evalLeg_rounds hl hon]
  have h := Part.Handshaken.issueLeg (want := (p.evalBegun l).legWant l) (t := t) (p.evalCounted l t) hl hv 10
  have hch (c : Nat) : (p.evalCounted l t).gt c = p.gt c := (Part.evalCounted_channel hl c).1
  exact { driven := h.driven.trans (Part.evalCounted_driven hl)
          shake := fun i hi hon hoff => h.shake i hi hon ((hch _).trans hoff)
          inner := fun hn i hi ho hon hoff => h.inner hn i hi ho hon ((hch _).trans hoff)
          beside := fun c hc hmem => (h.beside c hc hmem).trans (hch c) }

end

end Sys2Proof.Machine
end

section
/-! PROOFS. How far an evaluation goes (R206, R212, R213, R216): of a two-level leg every command issues whose conditions stand, and a
wanted off at once; an NPC leg leaves O for a direct request once it has dwelt there. -/

namespace Sys2Proof.Machine

/-! Two-level legs. -/

section
variable {p : Part} {l : Nat} {v : LegView} {want : List Bool} {t : Instant} {i : Nat} (hn : v.npc = false)
include hn

theorem Part.roundGoal_twoLevel : p.roundGoal l v want = want := by
  rw [Part.roundGoal, legGoal, hn]
  rfl

theorem Part.orderOk_twoLevel {lg : Leg} {lvl : Bool} : p.orderOk v lg want i lvl t = true := by
  rw [Part.orderOk, hn]
  rfl

theorem Part.mayIssue_twoLevel {lg : Leg} : p.mayIssue v lg want t i = true ↔ p.gt (v.ch i) ≠ want.getD i false ∧
    (want.getD i false = true → p.handshake v i t = true) := by
  rw [Part.mayIssue_iff, Part.orderOk_twoLevel hn]
  simp

variable (hl : l < 24) (hv : v.Sound)
include hl hv

/-- A switch at its wanted level is commanded no more. -/
theorem Part.issueLeg_keeps_wanted (hi : i < v.chans.length) (h : p.gt (v.ch i) = want.getD i false) (k : Nat) :
    (p.issueLeg l v want t k).gt (v.ch i) = want.getD i false ∧
      (p.issueLeg l v want t k).edgeAt (v.ch i) = p.edgeAt (v.ch i) := by
  refine Part.issueLeg_keeps (P := fun q => q.gt (v.ch i) = want.getD i false ∧ q.edgeAt (v.ch i) = p.edgeAt (v.ch i))
    (fun _ hq => hq) (fun q j hq hj hmay => ?_) ⟨h, rfl⟩ k
  rw [Part.roundGoal_twoLevel hn] at hmay
  have hne : i ≠ j := by
    rintro rfl
    exact ((Part.mayIssue_twoLevel hn).1 hmay).1 hq.1
  obtain ⟨hgt, hedge⟩ := Part.roundIssued_beside (p := q) (want := want) (t := t) hl (hv.ch_lt hi)
    (mt (hv.ch_inj hi hj).1 hne)
  exact ⟨hgt.trans hq.1, hedge.trans hq.2⟩

/-- The switches of a view that are not at their wanted level. -/
def Part.unmet (p : Part) (v : LegView) (want : List Bool) : Finset Nat :=
  (Finset.range v.chans.length).filter (fun i => p.gt (v.ch i) ≠ want.getD i false)

omit hn hl hv in
theorem Part.mem_unmet : i ∈ p.unmet v want ↔ i < v.chans.length ∧ p.gt (v.ch i) ≠ want.getD i false := by
  simp [Part.unmet]

/-- Every command issued leaves one switch fewer to meet. -/
theorem Part.unmet_roundIssued (hi : i < v.chans.length) (hunmet : p.gt (v.ch i) ≠ want.getD i false) :
    ((p.roundIssued l v want t i).unmet v want).card < (p.unmet v want).card := by
  have hself := Part.roundIssued_switch (p := p) (want := want) (t := t) hl (hv.ch_lt hi)
  rw [Part.roundGoal_twoLevel hn] at hself
  have hnot : i ∉ (p.roundIssued l v want t i).unmet v want := fun h => (Part.mem_unmet.1 h).2 hself
  have hsub : (p.roundIssued l v want t i).unmet v want ⊆ p.unmet v want := by
    intro j hj
    obtain ⟨hlen, hne⟩ := Part.mem_unmet.1 hj
    have hji : j ≠ i := by
      rintro rfl
      exact hnot hj
    refine Part.mem_unmet.2 ⟨hlen, ?_⟩
    rwa [← (Part.roundIssued_beside (p := p) (want := want) (t := t) hl (hv.ch_lt hlen) (mt (hv.ch_inj hlen hi).1 hji)).1]
  exact Finset.card_lt_card ((Finset.ssubset_iff_of_subset hsub).2 ⟨i, Part.mem_unmet.2 ⟨hi, hunmet⟩, hnot⟩)

/-- An evaluation with rounds to spare issues every command whose conditions stand. -/
theorem Part.issueLeg_settles {k : Nat} (hk : (p.unmet v want).card < k) (lg : Leg) (hi : i < v.chans.length) :
    (p.issueLeg l v want t k).mayIssue v lg want t i = false := by
  induction k generalizing p with
  | zero => exact absurd hk (Nat.not_lt_zero _)
  | succ k ih =>
    cases hr : p.roundReady l v want t with
    | none =>
      rw [Part.issueLeg_done hr]
      have hnone := List.find?_eq_none.1 hr i (by
        simp only [List.mem_append, List.mem_filter, List.mem_range]
        cases (p.roundGoal l v want).getD i false <;> simp [hi])
      rw [Part.roundGoal_twoLevel hn, Part.mayIssue_twoLevel hn] at hnone
      rw [Bool.eq_false_iff]
      exact mt (Part.mayIssue_twoLevel hn).1 hnone
    | some j =>
      have hmem := List.mem_of_find?_eq_some hr
      simp only [List.mem_append, List.mem_filter, List.mem_range] at hmem
      have hmay := List.find?_some hr
      rw [Part.roundGoal_twoLevel hn, Part.mayIssue_twoLevel hn] at hmay
      rw [Part.issueLeg_round hr]
      have hless := Part.unmet_roundIssued (t := t) hn hl hv (show j < v.chans.length by omega) hmay.1
      exact ih (by omega)

omit hl in
theorem Part.unmet_lt : (p.unmet v want).card < 10 := by
  have hlen : v.chans.length = 2 := by rw [hv.length, hn]; rfl
  have hle : (p.unmet v want).card ≤ (Finset.range v.chans.length).card := Finset.card_filter_le _ _
  rw [Finset.card_range, hlen] at hle
  omega

/-- A wanted off is never delayed. -/
theorem Part.issueLeg_unwanted (hi : i < v.chans.length) (hw : want.getD i false = false) :
    (p.issueLeg l v want t 10).gt (v.ch i) = false := by
  have hmay := Part.issueLeg_settles (t := t) hn hl hv (Part.unmet_lt (p := p) (want := want) hn hv) {} hi
  rw [Bool.eq_false_iff, ne_eq, Part.mayIssue_twoLevel hn, hw] at hmay
  by_contra hon
  exact hmay ⟨hon, nofun⟩

/-- A wanted on issues where the handshake with a partner that is to stay off stands. -/
theorem Part.issueLeg_wanted (hi : i < v.chans.length) (hw : want.getD i false = true)
    (hpartner : want.getD (partnerOf i) false = false) (hshake : p.handshake v i t = true) :
    (p.issueLeg l v want t 10).gt (v.ch i) = true := by
  obtain ⟨hoff, hret, hdead⟩ := Part.handshake_iff.1 hshake
  obtain ⟨hgt, hedge⟩ := Part.issueLeg_keeps_wanted (t := t) hn hl hv (hv.partner_lt hi) (hoff.trans hpartner.symm) 10
  have hdriven := (Part.Driven.refl p).issueLeg (v := v) (want := want) (t := t) hl
    (fun c hc => Nat.lt_trans (hv.lt c hc) (by decide)) 10
  have hmay := Part.issueLeg_settles (t := t) hn hl hv (Part.unmet_lt (p := p) (want := want) hn hv) {} hi
  rw [Bool.eq_false_iff, ne_eq, Part.mayIssue_twoLevel hn, hw] at hmay
  by_contra hon
  refine hmay ⟨hon, fun _ => Part.handshake_iff.2 ⟨hgt.trans hpartner, ?_, by rwa [hedge]⟩⟩
  rw [hdriven.ret (Nat.lt_trans (hv.ch_lt (hv.partner_lt hi)) (by decide)), hret]

/-- Where both switches are wanted on (INDEP), the upper one is commanded first. -/
theorem Part.issueLeg_upper (hw : want = [true, true]) (hshake : p.handshake v 0 t = true) :
    (p.issueLeg l v want t 10).gt (v.ch 0) = true := by
  have hlen : v.chans.length = 2 := by rw [hv.length, hn]; rfl
  have h0 : 0 < v.chans.length := by omega
  subst hw
  by_cases hon : p.gt (v.ch 0) = true
  · exact (Part.issueLeg_keeps_wanted hn hl hv h0 (by exact hon) 10).1
  · have hmay : p.mayIssue v (p.roundLeg l v [true, true]) [true, true] t 0 = true :=
      (Part.mayIssue_twoLevel hn).2 ⟨hon, fun _ => hshake⟩
    have hready : p.roundReady l v [true, true] t = some 0 := by
      unfold Part.roundReady
      rw [Part.roundGoal_twoLevel hn, hlen]
      simp [List.range_succ, hmay]
    rw [Part.issueLeg_round hready]
    have hself := Part.roundIssued_switch (p := p) (want := [true, true]) (t := t) hl (hv.ch_lt h0)
    rw [Part.roundGoal_twoLevel hn] at hself
    exact (Part.issueLeg_keeps_wanted hn hl hv h0 hself 9).1

end

/-! What a leg's evaluation goes for (R205, R206). -/

section
variable {p : Part} {l : Nat} {t : Instant} (hl : l < 24)
include hl

theorem Part.evalBegun_legMode : (p.evalBegun l).legMode l = p.legMode l := (Part.Driven.refl p).evalBegun.legMode hl

theorem Part.evalBegun_legNpc : (p.evalBegun l).legNpc l = p.legNpc l := (Part.Driven.refl p).evalBegun.legNpc hl

theorem Part.evalCounted_ret {c : Nat} (hc : c < 64) : (p.evalCounted l t).ret c = p.ret c := (Part.evalCounted_driven hl).ret hc

theorem Part.evalCounted_handshake (v : LegView) {i : Nat} (hc : v.ch (partnerOf i) < 48) :
    (p.evalCounted l t).handshake v i t = p.handshake v i t := by
  obtain ⟨hgt, hedge⟩ := Part.evalCounted_channel (p := p) (t := t) hl (v.ch (partnerOf i))
  unfold Part.handshake
  dsimp only
  rw [hgt, hedge, Part.evalCounted_ret hl (Nat.lt_trans hc (by decide))]

theorem Part.legWant_of_off (hn : p.legNpc l = false) (hm : p.legMode l = .off) :
    (p.evalBegun l).legWant l = [false, false] := by
  rw [Part.legWant, Part.evalBegun_legNpc hl, hn, Part.evalBegun_legMode hl, hm]
  rfl

theorem Part.legWant_of_asc (hn : p.legNpc l = false) (hm : p.legMode l = .asc) :
    (p.evalBegun l).legWant l = [false, true] := by
  rw [Part.legWant, Part.evalBegun_legNpc hl, hn, Part.evalBegun_legMode hl, hm]
  rfl

omit hl in
/-- A leg that runs keeps its carries and its requests. -/
theorem Part.evalBegun_of_run (hm : p.legMode l = .run) : p.evalBegun l = p.setLeg l { p.leg l with ran := true } := by
  unfold Part.evalBegun
  rw [hm, Part.when_false (by simp)]
  rfl

omit hl in
theorem Part.legWant_of_run (hm : p.legMode l = .run) (hn : p.legNpc l = false) (hlive : (p.sig (2 * p.legP0 l)).live = true) :
    (p.evalBegun l).legWant l = [(p.sig (2 * p.legP0 l)).lvl,
      if p.pairIndep (p.legP0 l) then (p.sig (2 * p.legP0 l + 1)).lvl else !(p.sig (2 * p.legP0 l)).lvl] := by
  have hsame : (p.evalBegun l).legWant l = p.legWant l := by rw [Part.evalBegun_of_run hm]; rfl
  rw [hsame, Part.legWant, hn, hm, hlive]
  rfl

omit hl in
/-- The direction N of an NPC leg that runs. -/
theorem Part.legWant_of_negative (hm : p.legMode l = .run) (hn : p.legNpc l = true)
    (hlive : (p.sig (2 * p.legP0 l)).live = true) (hlvl : (p.sig (2 * p.legP0 l)).lvl = true)
    (hneg : p.bit (Reg.PWM_ACMPA (p.legP0 l)) 31 = true) :
    (p.evalBegun l).legWant l = [false, true, false, true] := by
  have hsame : (p.evalBegun l).legWant l = p.legWant l := by rw [Part.evalBegun_of_run hm]; rfl
  rw [hsame, Part.legWant, hn, hm, hlive, hlvl, hneg]
  rfl

end

/-! Two-level legs, evaluated. -/

theorem Part.legView_twoLevel {p : Part} {l : Nat} (hn : p.legNpc l = false) :
    (p.legView l).npc = false ∧ (p.legView l).chans = [2 * p.legP0 l, 2 * p.legP0 l + 1] ∧
      (p.legView l).dt = [p.fld (Reg.PWM_DT (p.legP0 l)) 0 17 * tdcStep, p.fld (Reg.PWM_DT (p.legP0 l)) 0 17 * tdcStep] := by
  simp [Part.legView, Part.legChans, hn]

section
variable {p : Part} {l : Nat} {t : Instant} (hl : l < 24) (hon : p.legOn l = true) (hn : p.legNpc l = false)
  (ha : p.legP0 l < 24)
include hn ha

theorem Part.legView_twoLevel_sound : (p.legView l).Sound :=
  Part.legView_sound ha (by rw [hn]; nofun)

include hl hon

/-- All off: both switches go off at once (R216). -/
theorem Part.evalLeg_allOff (hm : p.legMode l = .off) :
    (p.evalLeg t l).gt (2 * p.legP0 l) = false ∧ (p.evalLeg t l).gt (2 * p.legP0 l + 1) = false := by
  obtain ⟨hnpc, hch, -⟩ := Part.legView_twoLevel hn
  have hv := Part.legView_twoLevel_sound hn ha
  have hoff (i : Nat) (hi : i < 2) := Part.issueLeg_unwanted (p := p.evalCounted l t) (want := [false, false]) (t := t) (i := i)
    hnpc hl hv (by rw [hch]; exact hi) (by interval_cases i <;> rfl)
  rw [Part.evalLeg_rounds hl hon, Part.legWant_of_off hl hn hm]
  simpa [LegView.ch, hch] using And.intro (hoff 0 (by decide)) (hoff 1 (by decide))

/-- The active short circuit: the upper switch goes off at once, the lower one stays on, or goes on where the handshake stands. -/
theorem Part.evalLeg_asc (hm : p.legMode l = .asc) :
    (p.evalLeg t l).gt (2 * p.legP0 l) = false ∧
      (p.gt (2 * p.legP0 l + 1) = true → (p.evalLeg t l).gt (2 * p.legP0 l + 1) = true) ∧
      (p.handshake (p.legView l) 1 t = true → (p.evalLeg t l).gt (2 * p.legP0 l + 1) = true) := by
  obtain ⟨hnpc, hch, -⟩ := Part.legView_twoLevel hn
  have hv := Part.legView_twoLevel_sound hn ha
  have h0 : (p.legView l).ch 0 = 2 * p.legP0 l := by rw [LegView.ch, hch]; rfl
  have h1 : (p.legView l).ch 1 = 2 * p.legP0 l + 1 := by rw [LegView.ch, hch]; rfl
  have hlen : (p.legView l).chans.length = 2 := by rw [hch]; rfl
  rw [Part.evalLeg_rounds hl hon, Part.legWant_of_asc hl hn hm]
  refine ⟨?_, fun hlow => ?_, fun hshake => ?_⟩
  · exact h0 ▸ Part.issueLeg_unwanted hnpc hl hv (by omega) rfl
  · have hlow' : (p.evalCounted l t).gt ((p.legView l).ch 1) = true := by
      rw [h1, (Part.evalCounted_channel hl _).1, hlow]
    exact h1 ▸ (Part.issueLeg_keeps_wanted hnpc hl hv (by omega) hlow' 10).1
  · have hshake' := (Part.evalCounted_handshake (t := t) hl _ (hv.ch_lt (hv.partner_lt (i := 1) (by omega)))).trans hshake
    exact h1 ▸ Part.issueLeg_wanted hnpc hl hv (by omega) rfl rfl hshake'

/-- In RUN a low level takes the upper switch off at once. -/
theorem Part.evalLeg_low (hm : p.legMode l = .run) (hlive : (p.sig (2 * p.legP0 l)).live = true)
    (hlvl : (p.sig (2 * p.legP0 l)).lvl = false) : (p.evalLeg t l).gt (2 * p.legP0 l) = false := by
  obtain ⟨hnpc, hch, -⟩ := Part.legView_twoLevel hn
  have hv := Part.legView_twoLevel_sound hn ha
  have h0 : (p.legView l).ch 0 = 2 * p.legP0 l := by rw [LegView.ch, hch]; rfl
  have hlen : (p.legView l).chans.length = 2 := by rw [hch]; rfl
  rw [Part.evalLeg_rounds hl hon, Part.legWant_of_run hm hn hlive, hlvl]
  exact h0 ▸ Part.issueLeg_unwanted hnpc hl hv (by omega) rfl

/-- In RUN a high level takes the upper switch on where the handshake with the lower one stands, which a complement then stays
off. -/
theorem Part.evalLeg_high (hm : p.legMode l = .run) (hlive : (p.sig (2 * p.legP0 l)).live = true)
    (hlvl : (p.sig (2 * p.legP0 l)).lvl = true) (hshake : p.handshake (p.legView l) 0 t = true) :
    (p.evalLeg t l).gt (2 * p.legP0 l) = true ∧
      (p.pairIndep (p.legP0 l) = false → (p.evalLeg t l).gt (2 * p.legP0 l + 1) = false) := by
  obtain ⟨hnpc, hch, -⟩ := Part.legView_twoLevel hn
  have hv := Part.legView_twoLevel_sound hn ha
  have h0 : (p.legView l).ch 0 = 2 * p.legP0 l := by rw [LegView.ch, hch]; rfl
  have h1 : (p.legView l).ch 1 = 2 * p.legP0 l + 1 := by rw [LegView.ch, hch]; rfl
  have hlen : (p.legView l).chans.length = 2 := by rw [hch]; rfl
  have hshake' := (Part.evalCounted_handshake (t := t) hl _ (hv.ch_lt (hv.partner_lt (i := 0) (by omega)))).trans hshake
  rw [Part.evalLeg_rounds hl hon, Part.legWant_of_run hm hn hlive, hlvl]
  generalize hlow : (if p.pairIndep (p.legP0 l) = true then (p.sig (2 * p.legP0 l + 1)).lvl else !true) = low
  refine ⟨h0 ▸ ?_, fun hind => ?_⟩
  · cases low with
    | false => exact Part.issueLeg_wanted hnpc hl hv (by omega) rfl rfl hshake'
    | true => exact Part.issueLeg_upper hnpc hl hv rfl hshake'
  · rw [hind] at hlow
    obtain rfl : low = false := hlow.symm
    exact h1 ▸ Part.issueLeg_unwanted hnpc hl hv (by omega) rfl

end

/-! An NPC leg in O that is to go to N (R213). -/

section
variable {p : Part} {l : Nat} {v : LegView} {t : Instant} {i : Nat}

theorem Part.roundLeg_steady {want : List Bool} (hz : (p.leg l).fromZ = false) (hcode : legCode (p.legCmds v) ≠ 0)
    (hany : want.any id = true) : p.roundLeg l v want = p.leg l := by
  simp [Part.roundLeg, hz, hcode, hany]

theorem Part.roundGoal_steady {want : List Bool} (hz : (p.leg l).fromZ = false) (hcode : legCode (p.legCmds v) ≠ 0)
    (hany : want.any id = true) : p.roundGoal l v want = want := by
  simp [Part.roundGoal, Part.roundLeg_steady hz hcode hany, legGoal, hz]

/-- A leg whose T3 is on is not in Z. -/
theorem legCode_ne_zero {a b c : Bool} : legCode [a, true, b, c] ≠ 0 := by
  cases a <;> cases b <;> cases c <;> decide

variable {a b : Nat} (hl : l < 24) (hch : v.chans = [2 * a, 2 * a + 1, 2 * b, 2 * b + 1]) (hv : v.Sound)

section
include hch

theorem Part.legCmds_eq : p.legCmds v = [p.gt (2 * a), p.gt (2 * a + 1), p.gt (2 * b), p.gt (2 * b + 1)] := by
  rw [Part.legCmds, hch]
  rfl

theorem LegView.ch_eq : v.ch 0 = 2 * a ∧ v.ch 1 = 2 * a + 1 ∧ v.ch 2 = 2 * b ∧ v.ch 3 = 2 * b + 1 := by
  rw [LegView.ch, LegView.ch, LegView.ch, LegView.ch, hch]
  exact ⟨rfl, rfl, rfl, rfl⟩

end

theorem Part.fromZ_command (p : Part) (hl : l < 24) (c : Nat) (lvl : Bool) (t : Instant) :
    ((p.command l c lvl t).leg l).fromZ = (p.leg l).fromZ := by
  have copies (ls : List Nat) (q : Part) : (q.each ls (fun p r => p.setGt (48 + r) lvl t)).leg l = q.leg l := by
    induction ls generalizing q with
    | nil => rfl
    | cons r ls ih => exact ih (q.setGt (48 + r) lvl t)
  rw [Part.command, Part.leg_setLeg_same _ hl]
  dsimp only
  rw [copies]
  rfl

theorem Part.fromZ_noteLeg (p : Part) (hl : l < 24) (v : LegView) (before : Nat) (t : Instant) :
    ((p.noteLeg l v before t).leg l).fromZ = (p.leg l).fromZ := by
  unfold Part.noteLeg
  extract_lets code lg lg'
  have hlg : lg'.fromZ = (p.leg l).fromZ := by
    unfold lg'
    split <;> rfl
  exact (congrArg Leg.fromZ (Part.leg_setLeg_same p hl lg')).trans hlg

theorem Part.fromZ_roundIssued {want : List Bool} (hl : l < 24) :
    ((p.roundIssued l v want t i).leg l).fromZ = (p.roundLeg l v want).fromZ := by
  rw [Part.roundIssued, Part.fromZ_noteLeg _ hl, Part.fromZ_command _ hl, Part.roundBegun, Part.leg_setLeg_same _ hl]

include hl hch hv

/-- On the way to N T2 stays off once it is off. -/
theorem Part.issueLeg_keeps_left (hz : (p.leg l).fromZ = false) (hT3 : p.gt (2 * a + 1) = true) (hT2 : p.gt (2 * b) = false)
    (k : Nat) : (p.issueLeg l v [false, true, false, true] t k).gt (2 * b) = false := by
  obtain ⟨-, h1, h2, -⟩ := LegView.ch_eq hch
  have hlen : v.chans.length = 4 := by rw [hch]; rfl
  have hc1 := hv.ch_lt (i := 1) (by omega)
  have hc2 := hv.ch_lt (i := 2) (by omega)
  refine (Part.issueLeg_keeps (P := fun q => (q.leg l).fromZ = false ∧ q.gt (v.ch 1) = true ∧ q.gt (v.ch 2) = false)
    (fun q hq => ?begun) (fun q i hq hi hmay => ?issued) ⟨hz, h1 ▸ hT3, h2 ▸ hT2⟩ k).2.2 |> fun h => h2 ▸ h
  all_goals
    obtain ⟨hz, hT3, hT2⟩ := hq
    have hcode : legCode (q.legCmds v) ≠ 0 := by
      rw [Part.legCmds_eq hch, ← h1, hT3]
      exact legCode_ne_zero
    have hleg := Part.roundLeg_steady (want := [false, true, false, true]) hz hcode rfl
  case begun =>
    refine ⟨?_, hT3, hT2⟩
    rw [Part.roundBegun, Part.leg_setLeg_same _ hl, hleg, hz]
  case issued =>
    rw [Part.roundGoal_steady hz hcode rfl, Part.mayIssue_iff] at hmay
    have hi1 : 1 ≠ i := by rintro rfl; exact hmay.1 hT3
    have hi2 : 2 ≠ i := by rintro rfl; exact hmay.1 hT2
    refine ⟨by rw [Part.fromZ_roundIssued hl, hleg, hz], ?_, ?_⟩
    · rw [(Part.roundIssued_beside hl hc1 (mt (hv.ch_inj (by omega) hi).1 hi1)).1, hT3]
    · rw [(Part.roundIssued_beside hl hc2 (mt (hv.ch_inj (by omega) hi).1 hi2)).1, hT2]

/-- In O on the way to N, T2 goes off where the order lets it, and stays on where it does not. -/
theorem Part.issueLeg_leavesO (hz : (p.leg l).fromZ = false)
    (hcmds : p.legCmds v = [false, true, true, false]) :
    (p.issueLeg l v [false, true, false, true] t 10).gt (2 * b) =
      !p.orderOk v (p.leg l) [false, true, false, true] 2 false t := by
  obtain ⟨h0, h1, h2, h3⟩ := LegView.ch_eq hch
  have hlen : v.chans.length = 4 := by rw [hch]; rfl
  have hcode : legCode (p.legCmds v) ≠ 0 := by rw [hcmds]; decide
  have hleg := Part.roundLeg_steady (want := [false, true, false, true]) hz hcode rfl
  have hgoal := Part.roundGoal_steady (want := [false, true, false, true]) hz hcode rfl
  rw [Part.legCmds_eq hch] at hcmds
  simp only [List.cons.injEq, and_true] at hcmds
  obtain ⟨hT1, hT3, hT2, hT4⟩ := hcmds
  rw [← h0] at hT1
  rw [← h2] at hT2
  -- T1 and T3 stand at their levels, and T4 waits for T2
  have hready : p.roundReady l v [false, true, false, true] t =
      if p.orderOk v (p.leg l) [false, true, false, true] 2 false t then some 2 else none := by
    have hmay1 : p.mayIssue v (p.leg l) [false, true, false, true] t 0 = false := by simp [Part.mayIssue, hT1]
    have hmay2 : p.mayIssue v (p.leg l) [false, true, false, true] t 2 =
        p.orderOk v (p.leg l) [false, true, false, true] 2 false t := by simp [Part.mayIssue, hT2]
    have hmay3 : p.mayIssue v (p.leg l) [false, true, false, true] t 1 = false := by simp [Part.mayIssue, h1, hT3]
    have hmay4 : p.mayIssue v (p.leg l) [false, true, false, true] t 3 = false := by
      simp [Part.mayIssue, Part.handshake, partnerOf, hT2]
    unfold Part.roundReady
    rw [hgoal, hleg, hlen]
    change List.find? _ [0, 2, 1, 3] = _
    simp only [List.find?_cons, hmay1, hmay2, hmay3, hmay4]
    cases p.orderOk v (p.leg l) [false, true, false, true] 2 false t <;> rfl
  cases hok : p.orderOk v (p.leg l) [false, true, false, true] 2 false t with
  | false =>
    rw [hok] at hready
    rw [Part.issueLeg_done hready, ← h2]
    exact hT2
  | true =>
    rw [hok] at hready
    rw [Part.issueLeg_round hready]
    refine Part.issueLeg_keeps_left hl hch hv ?_ ?_ ?_ 9
    · rw [Part.fromZ_roundIssued hl, hleg, hz]
    · rw [(Part.roundIssued_beside hl (h1 ▸ hv.ch_lt (by omega)) (by rw [h2]; have := hv.ch_inj (i := 1) (j := 2); omega)).1, hT3]
    · rw [← h2, Part.roundIssued_switch hl (hv.ch_lt (by omega)), hgoal]
      rfl

end

section
variable {p : Part} {l : Nat} {t : Instant} (hl : l < 24)
include hl

omit hl in
theorem Part.leg_setFld (p : Part) (off lo w n : Nat) : (p.setFld off lo w n).leg l = p.leg l := rfl

/-- What the count of the edges that wait notes of an NPC leg. -/
theorem Part.leg_countHeld (p : Part) {v : LegView} (hn : v.npc = true) (want : List Bool) (t : Instant) :
    ((p.countHeld l v want t).leg l).fromZ = (p.leg l).fromZ ∧ ((p.countHeld l v want t).leg l).oAt = (p.leg l).oAt ∧
      ((p.countHeld l v want t).leg l).direct = p.directTo v (p.leg l) want := by
  unfold Part.countHeld
  rw [if_neg (by simp [hn])]
  extract_lets src lg ix waits out own sw fresh kept mask
  clear_value fresh mask
  rw [Part.leg_setFld, Part.leg_setLeg_same p hl]
  exact ⟨rfl, rfl, rfl⟩

/-- In RUN an NPC leg in O that last wanted N, and wants it still. -/
theorem Part.evalCounted_leavesO (hm : p.legMode l = .run) (hn : p.legNpc l = true) (hwant : (p.leg l).want = 5)
    (hgo : (p.evalBegun l).legWant l = [false, true, false, true])
    (hcmds : p.legCmds (p.legView l) = [false, true, true, false]) :
    ((p.evalCounted l t).leg l).fromZ = (p.leg l).fromZ ∧ ((p.evalCounted l t).leg l).oAt = (p.leg l).oAt ∧
      ((p.evalCounted l t).leg l).direct = if (p.leg l).direct = 5 then 5 else 0 := by
  have hnpc : (p.legView l).npc = true := hn
  have hmode : (p.legView l).mode = .run := hm
  obtain ⟨hz, ho, hd⟩ := Part.leg_countHeld hl (p.evalBegun l) hnpc [false, true, false, true] t
  rw [Part.evalCounted, hgo, hz, ho, hd, Part.evalBegun_of_run hm, Part.leg_setLeg_same _ hl]
  refine ⟨rfl, rfl, ?_⟩
  have hcode (x : Leg) : legCode ((p.setLeg l x).legCmds (p.legView l)) = 4 := by
    change legCode (p.legCmds (p.legView l)) = 4
    rw [hcmds]
    rfl
  have hgoal : legCode [false, true, false, true] = 5 := rfl
  unfold Part.directTo
  simp [hnpc, hmode, hcode, hwant, hgoal]

omit hl in
/-- The order of R213 for T2 of a leg in O that goes to N: with T1 proven off for its dead time and T3 proven on, a direct request
waits for the dwell. -/
theorem Part.orderOk_leavesO {v : LegView} {lg : Leg} (hn : v.npc = true) (hm : v.mode = .run) (hT1 : p.gt (v.ch 0) = false)
    (hr1 : p.ret (v.ch 0) = false) (hdead : p.edgeAt (v.ch 0) + v.dt.getD 0 0 ≤ t) (hT3 : p.gt (v.ch 1) = true)
    (hr3 : p.ret (v.ch 1) = true) : p.orderOk v lg [false, true, false, true] 2 false t =
      (decide (lg.direct = 0) || decide (lg.oAt + v.dwell ≤ t)) := by
  rw [List.getD_eq_getElem?_getD] at hdead
  simp [Part.orderOk, hn, hm, isOuter, outerOf, hT1, hr1, hdead, hT3, hr3]

/-- In RUN an NPC leg in O goes to N, on a direct request once it has dwelt in O and on any other at once (R213). -/
theorem Part.evalLeg_leavesO (hon : p.legOn l = true) (hn : p.legNpc l = true) (hv : (p.legView l).Sound)
    (hm : p.legMode l = .run) (hz : (p.leg l).fromZ = false) (hwant : (p.leg l).want = 5)
    (hgo : (p.evalBegun l).legWant l = [false, true, false, true])
    (hcmds : p.legCmds (p.legView l) = [false, true, true, false])
    (hr1 : p.ret (2 * p.legP0 l) = false) (hr3 : p.ret (2 * p.legP0 l + 1) = true)
    (hdead : p.edgeAt (2 * p.legP0 l) + p.fld (Reg.PWM_DT (p.legP0 l)) 0 17 * tdcStep ≤ t) :
    (p.evalLeg t l).gt (2 * p.legP1 l) =
      !(decide ((p.leg l).direct ≠ 5) || decide ((p.leg l).oAt + (p.legView l).dwell ≤ t)) := by
  have hnpc : (p.legView l).npc = true := hn
  have hch : (p.legView l).chans = [2 * p.legP0 l, 2 * p.legP0 l + 1, 2 * p.legP1 l, 2 * p.legP1 l + 1] := by
    rw [show (p.legView l).chans = p.legChans l from rfl, Part.legChans, hn]
    rfl
  have hdt : (p.legView l).dt.getD 0 0 = p.fld (Reg.PWM_DT (p.legP0 l)) 0 17 * tdcStep := by
    rw [show (p.legView l).dt = if p.legNpc l then _ else _ from rfl, hn]
    rfl
  obtain ⟨h0, h1, -, -⟩ := LegView.ch_eq hch
  obtain ⟨hfrom, hoAt, hdirect⟩ := Part.evalCounted_leavesO (t := t) hl hm hn hwant hgo hcmds
  have hsame (c : Nat) := Part.evalCounted_channel (p := p) (t := t) hl c
  have hall : (p.evalCounted l t).legCmds (p.legView l) = [false, true, true, false] := by
    rw [← hcmds, Part.legCmds, Part.legCmds]
    exact List.map_congr_left fun c _ => (hsame c).1
  have hret {c : Nat} (hc : c < 64) := Part.evalCounted_ret (p := p) (t := t) hl hc
  have hP0 := p.legP0_lt l
  rw [Part.legCmds_eq hch] at hcmds
  simp only [List.cons.injEq, and_true] at hcmds
  obtain ⟨hT1, hT3, -, -⟩ := hcmds
  rw [Part.evalLeg_rounds hl hon, hgo, Part.issueLeg_leavesO hl hch hv (hfrom.trans hz) hall,
    Part.orderOk_leavesO hnpc hm (by rw [h0, (hsame _).1, hT1]) (by rw [h0, hret (by omega), hr1])
      (by rw [h0, (hsame _).2, hdt]; exact hdead) (by rw [h1, (hsame _).1, hT3]) (by rw [h1, hret (by omega), hr3]),
    hoAt, hdirect]
  by_cases hd : (p.leg l).direct = 5 <;> simp [hd]

end

end Sys2Proof.Machine
end

section
/-! PROOFS. The three commands that evaluate a leg (R206, R209, R213), and what they may command. -/

namespace Sys2Proof.Machine

theorem exec_pwmEdge (l : Fin 24) (t : Instant) (s : State) : exec (.pwmEdge l t) s = s.run (·.pwmEdge l.val t) := by rfl

theorem exec_deadTimeExpiry (l : Fin 24) (t : Instant) (s : State) :
    exec (.deadTimeExpiry l t) s = s.run (fun p => (p.at t).evalLeg t l.val) := by rfl

theorem exec_npcDwellEnd (l : Fin 24) (t : Instant) (s : State) :
    exec (.npcDwellEnd l t) s = s.run (fun p => (p.at t).evalLeg t l.val) := by rfl

/-- The part at an instant with requests of its compares. -/
def Part.requesting (p : Part) (t : Instant) (sigs : Vector Sig 48) : Part := { p.at t with pwm := { p.pwm with sigs := sigs } }

/-- The part once the requested edges of a leg that are due have fallen. -/
def Part.edgesDue (p : Part) (l : Nat) (t : Instant) : Part :=
  let q := p.legP0 l
  let p := p.at t
  (p.setSig (2 * q) ((p.sig (2 * q)).due t)).setSig (2 * q + 1) ((p.sig (2 * q + 1)).due t)

theorem Part.pwmEdge_eq (p : Part) (l : Nat) (t : Instant) : p.pwmEdge l t = (p.edgesDue l t).evalLeg t l := rfl

theorem Part.edgesDue_eq (p : Part) (l : Nat) (t : Instant) :
    p.edgesDue l t = p.requesting t (p.edgesDue l t).pwm.sigs := rfl

theorem Part.sig_edgesDue (p : Part) {l : Nat} (t : Instant) (ha : p.legP0 l < 24) :
    (p.edgesDue l t).sig (2 * p.legP0 l) = (p.sig (2 * p.legP0 l)).due t := by
  rw [Part.edgesDue, Part.sig_setSig, if_neg (by omega), Part.sig_setSig, if_pos ⟨rfl, by omega⟩]
  rfl

/-- The signal of compare A of a leg's P0 as one of the commands that evaluate the leg finds it. -/
def Part.legSig (p : Part) (l : Fin 24) (t : Instant) (i : Instr) : Sig :=
  if i = .pwmEdge l t then (p.sig (2 * p.legP0 l)).due t else p.sig (2 * p.legP0 l)

/-- Each of the three commands evaluates its leg, PWM_EDGE after the requested edges that are due. -/
theorem does_legEvaluation {l : Fin 24} {t : Instant} {s : State} {i : Instr}
    (hi : i ∈ [.pwmEdge l t, .deadTimeExpiry l t, .npcDwellEnd l t]) (halive : s.part.alive = true)
    (ha : s.part.legP0 l < 24) : ∃ sigs : Vector Sig 48, (s.part.requesting t sigs).sig (2 * s.part.legP0 l) = s.part.legSig l t i ∧
      ∀ P : Part → Prop, P ((s.part.requesting t sigs).evalLeg t l) → Does i s P := by
  simp only [List.mem_cons, List.not_mem_nil, or_false] at hi
  rcases hi with rfl | rfl | rfl
  · refine ⟨(s.part.edgesDue l t).pwm.sigs, ?_, fun P hP => Does.of_run (exec_pwmEdge l t s) halive ?_⟩
    · rw [← Part.edgesDue_eq, Part.sig_edgesDue _ _ ha, Part.legSig, if_pos rfl]
    · rw [Part.pwmEdge_eq, Part.edgesDue_eq]
      exact hP
  · exact ⟨s.part.pwm.sigs, (if_neg nofun).symm, fun P hP => Does.of_run (exec_deadTimeExpiry l t s) halive hP⟩
  · exact ⟨s.part.pwm.sigs, (if_neg nofun).symm, fun P hP => Does.of_run (exec_npcDwellEnd l t s) halive hP⟩

/-! The switches of a leg by their channels. -/

section
variable {b : Part} {l : Nat}

theorem Part.legView_npc (hn : b.legNpc l = true) :
    (b.legView l).chans = [2 * b.legP0 l, 2 * b.legP0 l + 1, 2 * b.legP1 l, 2 * b.legP1 l + 1] ∧
      (b.legView l).dt = [b.fld (Reg.PWM_DT (b.legP0 l)) 0 17 * tdcStep, b.fld (Reg.PWM_DT (b.legP0 l)) 0 17 * tdcStep,
        b.fld (Reg.PWM_DT (b.legP1 l)) 0 17 * tdcStep, b.fld (Reg.PWM_DT (b.legP1 l)) 0 17 * tdcStep] := by
  simp [Part.legView, Part.legChans, hn]

/-- A channel of a pair of the leg and its partner are a switch of its view and that switch's partner, under the pair's dead
time. -/
theorem Part.switch_of_pair {q c d : Nat} (hq : q = b.legP0 l ∨ (b.legNpc l = true ∧ q = b.legP1 l))
    (hcd : (c = 2 * q ∧ d = 2 * q + 1) ∨ (c = 2 * q + 1 ∧ d = 2 * q)) :
    ∃ i < (b.legView l).chans.length, (b.legView l).ch i = c ∧ (b.legView l).ch (partnerOf i) = d ∧
      (b.legView l).dt.getD i 0 = b.fld (Reg.PWM_DT q) 0 17 * tdcStep := by
  cases hn : b.legNpc l with
  | false =>
    obtain ⟨-, hch, hdt⟩ := Part.legView_twoLevel hn
    obtain rfl : q = b.legP0 l := by simpa [hn] using hq
    simp only [LegView.ch, hch, hdt]
    rcases hcd with ⟨rfl, rfl⟩ | ⟨rfl, rfl⟩
    · exact ⟨0, by simp, rfl, rfl, rfl⟩
    · exact ⟨1, by simp, rfl, rfl, rfl⟩
  | true =>
    obtain ⟨hch, hdt⟩ := Part.legView_npc hn
    simp only [LegView.ch, hch, hdt]
    rcases hq with rfl | ⟨-, rfl⟩ <;> rcases hcd with ⟨rfl, rfl⟩ | ⟨rfl, rfl⟩
    · exact ⟨0, by simp, rfl, rfl, rfl⟩
    · exact ⟨1, by simp, rfl, rfl, rfl⟩
    · exact ⟨2, by simp, rfl, rfl, rfl⟩
    · exact ⟨3, by simp, rfl, rfl, rfl⟩

/-- The channels of a view lie in its pairs. -/
theorem Part.notMem_chans {c : Nat} (ha : c / 2 ≠ b.legP0 l) (hb : ¬ (b.legNpc l = true ∧ c / 2 = b.legP1 l)) :
    c ∉ (b.legView l).chans := by
  cases hn : b.legNpc l with
  | false =>
    rw [(Part.legView_twoLevel hn).2.1]
    simp only [List.mem_cons, List.not_mem_nil, or_false]
    omega
  | true =>
    rw [(Part.legView_npc hn).1]
    simp only [hn, true_and] at hb
    simp only [List.mem_cons, List.not_mem_nil, or_false]
    omega

variable {p : Part} {t : Instant}

/-- An evaluation in the words of R209 and R213. -/
theorem Part.Handshaken.channels (h : p.Handshaken b (b.legView l) t) :
    (∀ q, (q = b.legP0 l ∨ (b.legNpc l = true ∧ q = b.legP1 l)) → ∀ c d,
      ((c = 2 * q ∧ d = 2 * q + 1) ∨ (c = 2 * q + 1 ∧ d = 2 * q)) → p.gt c = true → b.gt c = false →
        p.gt d = false ∧ p.ret d = false ∧ p.edgeAt d + p.fld (Reg.PWM_DT q) 0 17 * tdcStep ≤ t) ∧
    (b.legNpc l = true → p.gt (2 * b.legP0 l) = true → b.gt (2 * b.legP0 l) = false →
      p.gt (2 * b.legP1 l) = true ∧ p.ret (2 * b.legP1 l) = true) ∧
    (b.legNpc l = true → p.gt (2 * b.legP1 l + 1) = true → b.gt (2 * b.legP1 l + 1) = false →
      p.gt (2 * b.legP0 l + 1) = true ∧ p.ret (2 * b.legP0 l + 1) = true) ∧
    (∀ c < 48, c / 2 ≠ b.legP0 l → ¬ (b.legNpc l = true ∧ c / 2 = b.legP1 l) → p.gt c = b.gt c) := by
  refine ⟨fun q hq c d hcd hon hoff => ?_, fun hn hon hoff => ?_, fun hn hon hoff => ?_,
    fun c hc ha hb => h.beside c hc (Part.notMem_chans ha hb)⟩
  · have hq32 : q < 32 := by
      rcases hq with rfl | ⟨-, rfl⟩
      exacts [b.legP0_lt l, b.legP1_lt l]
    obtain ⟨i, hi, rfl, rfl, hdt⟩ := Part.switch_of_pair hq hcd
    rw [h.driven.fld (by simp only [DriveFree, Reg.PWM_DT]; omega), ← hdt]
    exact Part.handshake_iff.1 (h.shake i hi hon hoff)
  all_goals
    have hch := (Part.legView_npc hn).1
    obtain ⟨h0, h1, h2, h3⟩ := LegView.ch_eq hch
    have hlen : (b.legView l).chans.length = 4 := by rw [hch]; rfl
  · have hin := h.inner hn 0 (by omega) rfl (by rwa [h0]) (by rwa [h0])
    rwa [show innerOf 0 = 2 from rfl, h2] at hin
  · have hin := h.inner hn 3 (by omega) rfl (by rwa [h3]) (by rwa [h3])
    rwa [show innerOf 3 = 1 from rfl, h1] at hin

end

/-- A channel whose partner is off, proven off and past its dead time has its handshake, for either switch of a two-level leg. -/
theorem Part.handshake_of_clear {p : Part} {l : Nat} {t : Instant} (hn : p.legNpc l = false) {d : Nat} (i : Nat)
    (hi : i < 2) (hd : d = 2 * p.legP0 l + (1 - i))
    (hclear : p.gt d = false ∧ p.ret d = false ∧ p.edgeAt d + p.fld (Reg.PWM_DT (p.legP0 l)) 0 17 * tdcStep ≤ t) :
    p.handshake (p.legView l) i t = true := by
  obtain ⟨-, hch, hdt⟩ := Part.legView_twoLevel hn
  rw [Part.handshake_iff]
  simp only [LegView.ch, hch, hdt]
  subst hd
  interval_cases i <;> exact hclear

/-- Settles O34, by what a round of an evaluation keeps: a switch that has been turned on stands over its handshake, and an outer
one over its inner one. -/
theorem gateHandshake : Obligations.GateHandshake := by
  unfold Obligations.GateHandshake
  intro l t s i hi halive ha hb a b up lo npc sig clear simple
  obtain ⟨sigs, hsig, hdoes⟩ := does_legEvaluation hi halive ha
  have hl := l.isLt
  refine ⟨fun hoff => hdoes _ ?off, hdoes _ ?safe, fun ⟨hon, hn⟩ hm => hdoes _ ?allOff, fun ⟨hon, hn⟩ hm => hdoes _ ?asc,
    fun ⟨hon, hn⟩ hm hlive hlvl => hdoes _ ?low, fun ⟨hon, hn⟩ hm hlive hlvl hclear => hdoes _ ?high,
    fun hon hn hm hz hwant hlive hlvl hneg hgts hrets hdead => ?npc⟩
  case off =>
    rw [Part.evalLeg_off (by exact hoff)]
    exact fun _ _ => rfl
  case safe =>
    by_cases hon : s.part.legOn l = true
    · exact (Part.evalLeg_handshaken (p := s.part.requesting t sigs) hl hon (Part.legView_sound ha hb)).channels
    · rw [Part.evalLeg_off (p := s.part.requesting t sigs) (Bool.eq_false_iff.2 hon)]
      exact (Part.Handshaken.refl (s.part.requesting t sigs) _ t).channels
  case allOff => exact Part.evalLeg_allOff (p := s.part.requesting t sigs) hl hon hn ha hm
  case asc =>
    obtain ⟨hup, hstay, hgo⟩ := Part.evalLeg_asc (p := s.part.requesting t sigs) (t := t) hl hon hn ha hm
    exact ⟨hup, hstay, fun hclear => hgo (Part.handshake_of_clear (p := s.part.requesting t sigs) hn 1 (by decide) rfl hclear)⟩
  case low =>
    exact Part.evalLeg_low (p := s.part.requesting t sigs) hl hon hn ha hm (hsig ▸ hlive) (hsig ▸ hlvl)
  case high =>
    exact Part.evalLeg_high (p := s.part.requesting t sigs) hl hon hn ha hm (hsig ▸ hlive) (hsig ▸ hlvl)
      (Part.handshake_of_clear (p := s.part.requesting t sigs) hn 0 (by decide) rfl hclear)
  case npc =>
    have hv := Part.legView_sound (p := s.part.requesting t sigs) ha hb
    have hgo := Part.legWant_of_negative (p := s.part.requesting t sigs) hm hn (hsig ▸ hlive) (hsig ▸ hlvl) hneg
    simp only [List.cons.injEq, and_true] at hrets
    have hcmds := (Part.legCmds_eq (p := s.part.requesting t sigs) (Part.legView_npc hn).1).trans hgts
    have hleaves := Part.evalLeg_leavesO (p := s.part.requesting t sigs) (t := t) hl hon hn hv hm hz hwant hgo hcmds hrets.1
      hrets.2 hdead
    have hdwell : ((s.part.requesting t sigs).legView l).dwell =
        max (s.part.fld (Reg.PWM_MINPW a) 0 16) (s.part.fld (Reg.PWM_MINPW b) 0 16) * tdcStep := Nat.mul_max_mul_right _ _ _
    have hleg : (s.part.requesting t sigs).leg l = s.part.leg l := rfl
    rw [hdwell, hleg] at hleaves
    refine ⟨fun h => hdoes _ (hleaves.trans ?_), fun hdir hdwelt => hdoes _ (hleaves.trans ?_)⟩
    · simpa [imp_iff_not_or] using h
    · simpa using ⟨hdir, Nat.lt_of_not_le hdwelt⟩

end Sys2Proof.Machine
end

section
/-! PROOFS. Software writes of compares (R208). -/

namespace Sys2Proof.Machine

theorem exec_pwmCmpaWrite (ini : Initiator) (q : Fin 24) (v : Word) (s : State) :
    exec (.pwmCmpaWrite ini q v) s = s.run (·.cmpaWrite ini q.val v) := by rfl

theorem exec_pwmCmpbWrite (ini : Initiator) (q : Fin 24) (v : Word) (t : Instant) (s : State) :
    exec (.pwmCmpbWrite ini q v t) s = s.run (·.cmpbWrite ini q.val v t) := by rfl

section
variable {p : Part} {ini : Initiator} {q : Nat} {v : Word} {t : Instant}

/-! Compare A. -/

theorem Part.cmpaWrite_driven (h : p.bit (Reg.PWM_PCFG q) 29 = false) :
    p.cmpaWrite ini q v = p.setFld (Reg.PWM_WSTAT q) 2 1 1 := if_pos (by simp [h])

theorem Part.cmpaWrite_software (h : p.bit (Reg.PWM_PCFG q) 29 = true) :
    p.cmpaWrite ini q v = p.putHeld ini (Reg.PWM_CMPA q) v := if_neg (by simp [h])

/-! Compare B. -/

/-- A write of compare B completes after the update instant, so that it waits for the transfer after. -/
def Part.cmpbEnded (p : Part) (g : Grp) (t : Instant) : Bool := p.tbRuns g && decide (p.nextUpdate g ≤ t)

/-- A write of compare B completes in the transfer clock or later. -/
def Part.cmpbClose (p : Part) (g : Grp) (t : Instant) : Bool := p.tbRuns g && decide (p.nextUpdate g < t + nsec 200)

/-- Compare A as a write of compare B takes it. -/
def Part.cmpaTaken (p : Part) (ini : Initiator) (q : Nat) : Word :=
  (p.held ini (Reg.PWM_CMPA q)).getD (p.reg (Reg.PWM_CMPA q))

/-- The part once a write of compare B has released the held value and has shown transfer `n`. -/
def Part.cmpbShown (p : Part) (ini : Initiator) (q n : Nat) (close : Bool) (t : Instant) : Part :=
  ((p.at t).dropHeld ini (Reg.PWM_CMPA q)).setReg (Reg.PWM_WSTAT q) (BitVec.ofNat 32 (n % 65536 * 65536 + 2 + close.toNat))

theorem Part.cmpbWrite_driven (h : p.bit (Reg.PWM_PCFG q) 29 = false) :
    p.cmpbWrite ini q v t = (p.at t).setFld (Reg.PWM_WSTAT q) 2 1 1 := by
  have hstop : (!(p.at t).bit (Reg.PWM_PCFG q) 29) = true := by
    change (!p.bit (Reg.PWM_PCFG q) 29) = true
    simp [h]
  exact if_pos hstop

theorem Part.cmpbWrite_inTime (h : p.bit (Reg.PWM_PCFG q) 29 = true) (hended : p.cmpbEnded (p.pairGrp q) t = false) :
    p.cmpbWrite ini q v t = (p.cmpbShown ini q ((p.reg (Reg.PWM_USEQ (p.pairGrp q).ix)).toNat + 1)
      (p.cmpbClose (p.pairGrp q) t) t).placeShadow q (p.cmpaTaken ini q) v := by
  have hgo : ¬ (!(p.at t).bit (Reg.PWM_PCFG q) 29) = true := by
    change ¬ (!p.bit (Reg.PWM_PCFG q) 29) = true
    simp [h]
  have hplaced : p.cmpbWrite ini q v t = if p.cmpbEnded (p.pairGrp q) t then _ else (p.cmpbShown ini q
      ((p.reg (Reg.PWM_USEQ (p.pairGrp q).ix)).toNat + if p.cmpbEnded (p.pairGrp q) t then 2 else 1)
      (p.cmpbClose (p.pairGrp q) t) t).placeShadow q (p.cmpaTaken ini q) v := if_neg hgo
  rw [hplaced, hended, if_neg Bool.false_ne_true, if_neg Bool.false_ne_true]

/-- The part whose timebase holds both values of a write for the transfer after the next. -/
def Part.cmpbDefer (p : Part) (g : Grp) (q : Nat) (a b : Word) : Part :=
  p.setTb g { p.tb g with deferred := (p.tb g).deferred.filter (fun e => e.1 ≠ q) ++ [(q, (a, b))] }

theorem Part.cmpbWrite_ended (h : p.bit (Reg.PWM_PCFG q) 29 = true) (hended : p.cmpbEnded (p.pairGrp q) t = true) :
    p.cmpbWrite ini q v t = (p.cmpbShown ini q ((p.reg (Reg.PWM_USEQ (p.pairGrp q).ix)).toNat + 2)
      (p.cmpbClose (p.pairGrp q) t) t).cmpbDefer (p.pairGrp q) q (p.cmpaTaken ini q) v := by
  have hgo : ¬ (!(p.at t).bit (Reg.PWM_PCFG q) 29) = true := by
    change ¬ (!p.bit (Reg.PWM_PCFG q) 29) = true
    simp [h]
  have hdeferred : p.cmpbWrite ini q v t = if p.cmpbEnded (p.pairGrp q) t then (p.cmpbShown ini q
      ((p.reg (Reg.PWM_USEQ (p.pairGrp q).ix)).toNat + if p.cmpbEnded (p.pairGrp q) t then 2 else 1)
      (p.cmpbClose (p.pairGrp q) t) t).cmpbDefer (p.pairGrp q) q (p.cmpaTaken ini q) v else _ := if_neg hgo
  rw [hdeferred, hended, if_pos rfl, if_pos rfl]

/-- What PWM_WSTAT tells of a write of compare B. -/
theorem Part.cmpbShown_status (p : Part) (ini : Initiator) (q n : Nat) (close : Bool) (t : Instant) :
    (p.cmpbShown ini q n close t).fld (Reg.PWM_WSTAT q) 16 16 = n % 65536 ∧
      (p.cmpbShown ini q n close t).bit (Reg.PWM_WSTAT q) 1 = true ∧
      (p.cmpbShown ini q n close t).bit (Reg.PWM_WSTAT q) 0 = close := by
  have hn := Nat.mod_lt n (show 0 < 65536 by decide)
  generalize hm : n % 65536 = m at *
  have hreg : (p.cmpbShown ini q n close t).reg (Reg.PWM_WSTAT q) = BitVec.ofNat 32 (m * 65536 + 2 + close.toNat) := by
    rw [Part.cmpbShown, Part.reg_setReg, if_pos rfl, hm]
  rw [Part.fld, Part.bit, Part.bit, hreg]
  refine ⟨?_, ?_, ?_⟩
  · rw [bits, BitVec.toNat_ofNat, Nat.shiftRight_eq_div_pow]
    cases close <;> simp <;> omega
  all_goals
    rw [bitAt_ofNat _ _ (by decide), Nat.testBit_eq_decide_div_mod_eq]
    cases close <;> simp <;> omega

theorem Part.cmpbShown_regsBut (p : Part) (ini : Initiator) (q n : Nat) (close : Bool) (t : Instant) :
    RegsBut p (p.cmpbShown ini q n close t) [Reg.PWM_WSTAT q] := .setReg (p := (p.at t).dropHeld ini _) (by simp)

theorem Part.cmpbShown_held (p : Part) (ini : Initiator) (q n : Nat) (close : Bool) (t : Instant) :
    (p.cmpbShown ini q n close t).held ini (Reg.PWM_CMPA q) = none := Part.held_dropHeld _ _ _

end

/-- The registers of compares and of their status lie apart. -/
theorem compare_offsets (q : Nat) : Reg.PWM_CMPA q ≠ Reg.PWM_CMPB q ∧ Reg.PWM_WSTAT q ≠ Reg.PWM_CMPA q ∧
    Reg.PWM_WSTAT q ≠ Reg.PWM_CMPB q := by
  unfold Reg.PWM_CMPA Reg.PWM_CMPB Reg.PWM_WSTAT
  omega

/-- Both values of a write enter the shadow together. -/
theorem Part.placeShadow_spec (p : Part) (q : Nat) (a b : Word) :
    (p.placeShadow q a b).reg (Reg.PWM_CMPA q) = a ∧ (p.placeShadow q a b).reg (Reg.PWM_CMPB q) = b ∧
      (p.placeShadow q a b).reg (Reg.PWM_WSTAT q) = p.reg (Reg.PWM_WSTAT q) ∧
      RegsBut p (p.placeShadow q a b) [Reg.PWM_CMPA q, Reg.PWM_CMPB q, Reg.PWM_WSTAT q] := by
  obtain ⟨hab, hsa, hsb⟩ := compare_offsets q
  refine ⟨?_, ?_, ?_, .trans (.setReg (by simp)) (.setReg (by simp))⟩
  · rw [Part.placeShadow, Part.reg_setReg, if_neg hab, Part.reg_setReg, if_pos rfl]
  · rw [Part.placeShadow, Part.reg_setReg, if_pos rfl]
  · rw [Part.placeShadow, Part.reg_setReg, if_neg hsb, Part.reg_setReg, if_neg hsa]

section
variable {ini : Initiator} {q : Fin 24} {v : Word} {t : Instant} {s : State} (halive : s.part.alive = true)
  (hsrc : s.part.bit (Reg.PWM_PCFG q) 29 = true)
include halive hsrc

/-- A write that completes before the update instant. -/
theorem does_cmpbWrite_inTime
    (htime : ¬ (s.part.tbRuns (s.part.pairGrp q) = true ∧ s.part.nextUpdate (s.part.pairGrp q) ≤ t)) :
    Does (.pwmCmpbWrite ini q v t) s (fun p =>
      p.reg (Reg.PWM_CMPA q) = s.part.cmpaTaken ini q ∧ p.reg (Reg.PWM_CMPB q) = v ∧ p.held ini (Reg.PWM_CMPA q) = none ∧
      p.fld (Reg.PWM_WSTAT q) 16 16 = ((s.part.reg (Reg.PWM_USEQ (s.part.pairGrp q).ix)).toNat + 1) % 65536 ∧
      p.bit (Reg.PWM_WSTAT q) 1 = true ∧
      (p.bit (Reg.PWM_WSTAT q) 0 = true ↔
        s.part.tbRuns (s.part.pairGrp q) = true ∧ s.part.nextUpdate (s.part.pairGrp q) < t + nsec 200) ∧
      p.pwm = s.part.pwm ∧ RegsBut s.part p [Reg.PWM_CMPA q, Reg.PWM_CMPB q, Reg.PWM_WSTAT q]) := by
  refine Does.of_run (exec_pwmCmpbWrite ini q v t s) halive ?_
  have hended : s.part.cmpbEnded (s.part.pairGrp q) t = false := by simpa [Part.cmpbEnded] using htime
  rw [Part.cmpbWrite_inTime hsrc hended]
  generalize hm : (s.part.reg (Reg.PWM_USEQ (s.part.pairGrp q).ix)).toNat + 1 = m
  generalize hc : s.part.cmpbClose (s.part.pairGrp q) t = c
  obtain ⟨hn, hvalid, hclose⟩ := s.part.cmpbShown_status ini q m c t
  obtain ⟨hA, hB, hstat, hplaced⟩ := (s.part.cmpbShown ini q m c t).placeShadow_spec q (s.part.cmpaTaken ini q) v
  refine ⟨hA, hB, s.part.cmpbShown_held ini q m c t, ?_, ?_, ?_, rfl, .trans (fun off ho => ?_) hplaced⟩
  · rw [Part.fld, hstat, ← Part.fld, hn]
  · rw [Part.bit, hstat, ← Part.bit, hvalid]
  · rw [Part.bit, hstat, ← Part.bit, hclose, ← hc, Part.cmpbClose, Bool.and_eq_true, decide_eq_true_iff]
  · exact s.part.cmpbShown_regsBut ini q m c t off (fun h => ho (by simp_all))

/-- A write that completes after the update instant. -/
theorem does_cmpbWrite_late
    (htime : s.part.tbRuns (s.part.pairGrp q) = true ∧ s.part.nextUpdate (s.part.pairGrp q) ≤ t) :
    Does (.pwmCmpbWrite ini q v t) s (fun p =>
      (p.tb (s.part.pairGrp q)).deferred = (s.part.tb (s.part.pairGrp q)).deferred.filter (fun e => e.1 ≠ q.val) ++
        [(q.val, (s.part.cmpaTaken ini q, v))] ∧
      p.held ini (Reg.PWM_CMPA q) = none ∧
      p.fld (Reg.PWM_WSTAT q) 16 16 = ((s.part.reg (Reg.PWM_USEQ (s.part.pairGrp q).ix)).toNat + 2) % 65536 ∧
      RegsBut s.part p [Reg.PWM_WSTAT q]) := by
  refine Does.of_run (exec_pwmCmpbWrite ini q v t s) halive ?_
  have hended : s.part.cmpbEnded (s.part.pairGrp q) t = true := by simpa [Part.cmpbEnded] using htime
  rw [Part.cmpbWrite_ended hsrc hended]
  generalize (s.part.reg (Reg.PWM_USEQ (s.part.pairGrp q).ix)).toNat + 2 = m
  generalize s.part.cmpbClose (s.part.pairGrp q) t = c
  exact ⟨congrArg Timebase.deferred (Part.tb_setTb (s.part.cmpbShown ini q m c t) _ _), s.part.cmpbShown_held ini q m c t,
    (s.part.cmpbShown_status ini q m c t).1, s.part.cmpbShown_regsBut ini q m c t⟩

end

/-- Settles O33, by the two ways in which a write of compare B completes. -/
theorem compareWrites : Obligations.CompareWrites := by
  unfold Obligations.CompareWrites
  intro ini q v t s halive g src a late close n
  refine ⟨fun hsrc => ?driven, fun hsrc => ?held, fun hsrc => ?rejected, fun hsrc => does_cmpbWrite_inTime halive hsrc,
    fun hsrc => does_cmpbWrite_late halive hsrc⟩
  case driven => exact Does.of_run (exec_pwmCmpaWrite ini q v s) halive (Part.cmpaWrite_driven hsrc)
  case held =>
    refine Does.of_run (exec_pwmCmpaWrite ini q v s) halive ?_
    rw [Part.cmpaWrite_software hsrc]
    exact ⟨Part.held_putHeld _ _ _ _, rfl⟩
  case rejected => exact Does.of_run (exec_pwmCmpbWrite ini q v t s) halive (Part.cmpbWrite_driven hsrc)

end Sys2Proof.Machine
end

section
/-! PROOFS. Timebases (R198, R199, R211) and the refreshes of the delay line (R201). -/

namespace Sys2Proof.Machine

theorem exec_timebaseStart (g : Grp) (t : Instant) (s : State) :
    exec (.timebaseStart g t) s = s.run (·.tbStart g t) := by rfl

theorem exec_timebaseStop (g : Grp) (t : Instant) (s : State) :
    exec (.timebaseStop g t) s = s.run (·.tbStopReq g t) := by rfl

theorem exec_delayLineRefresh (ok : Bool) (t : Instant) (s : State) :
    exec (.delayLineRefresh ok t) s = s.run (·.dlRefresh ok t) := by rfl

/-- What the boundary at which a timebase stops makes of the part. -/
def Part.stopBoundary (p : Part) (g : Grp) (t : Instant) : Part :=
  if !p.tbRuns g || !(p.tb g).stopReq || (p.tb g).apex then p
  else match p.updateTime g t with
    | some u => ((p.at u).tbStopped g u).moveStopped
    | none => p

theorem exec_timebaseStopBoundary (g : Grp) (t : Instant) (s : State) :
    exec (.timebaseStopBoundary g t) s = s.run (·.stopBoundary g t) := by rfl

/-- The control and status words of a timebase lie apart from each other and from its setting. -/
theorem timebase_offsets (g : Grp) : Reg.PWM_TBCTL g.ix ≠ Reg.PWM_TBSTAT g.ix ∧
    ∀ off ∈ [Reg.PWM_TBCFG g.ix, Reg.PWM_PERIOD g.ix, Reg.PWM_PERFR g.ix, Reg.PWM_PHASE g.ix, Reg.PWM_ANCHOR_LO g.ix,
      Reg.PWM_ANCHOR_LO g.ix + 4], off ∉ [Reg.PWM_TBCTL g.ix, Reg.PWM_TBSTAT g.ix] := by
  cases g <;> decide

theorem Part.bit_setTb (p : Part) (g : Grp) (x : Timebase) (off i : Nat) : (p.setTb g x).bit off i = p.bit off i := rfl

theorem Part.tbRuns_setTb (p : Part) (g : Grp) (x : Timebase) (e : Grp) : (p.setTb g x).tbRuns e = p.tbRuns e := rfl

theorem Part.tb_setBit (p : Part) (g : Grp) (off i : Nat) (b : Bool) : (p.setBit off i b).tb g = p.tb g := rfl

theorem Part.tb_setFld (p : Part) (g : Grp) (off lo w n : Nat) : (p.setFld off lo w n).tb g = p.tb g := rfl

theorem RegsBut.thenBit {p q : Part} {off i : Nat} {b : Bool} {l : List Nat} (h : RegsBut p q l) (ho : off ∈ l) :
    RegsBut p (q.setBit off i b) l := h.thenFld ho

theorem RegsBut.setTb {p q : Part} {g : Grp} {x : Timebase} {l : List Nat} (h : RegsBut p q l) : RegsBut p (q.setTb g x) l := h

/-! Start. -/

/-- The part once RUN = 1 shows and a stop that waited is withdrawn. -/
def Part.startNoted (p : Part) (g : Grp) (t : Instant) : Part :=
  ((p.at t).setBit (Reg.PWM_TBCTL g.ix) 0 true).setBit (Reg.PWM_TBSTAT g.ix) 29 false

/-- The part whose timebase has taken its first boundary. -/
def Part.startedAt (p : Part) (g : Grp) (x : Timebase) (align : Bool) : Part :=
  ((p.setTb g x).setBit (Reg.PWM_TBSTAT g.ix) 31 true).setBit (Reg.PWM_TBSTAT g.ix) 30 align

/-- Where the carrier of a timebase that starts has its zero: the command with 2 µs, or the anchored grid. -/
def Part.startTb (p : Part) (g : Grp) (t : Instant) (align : Bool) : Timebase :=
  let base : Int := if align then sec (p.pair (Reg.PWM_ANCHOR_LO g.ix)) + p.fld (Reg.PWM_PHASE g.ix) 0 29 * tdcStep else t
  { base := base, k := if align then firstBoundary (p.period g) base t else 0, last := t }

section
variable {p : Part} {g : Grp} {t : Instant}

theorem Part.startNoted_regs : RegsBut p (p.startNoted g t) [Reg.PWM_TBCTL g.ix, Reg.PWM_TBSTAT g.ix] :=
  .thenFld (.setFld (p := p.at t) (by simp)) (by simp)

theorem Part.startNoted_runs : (p.startNoted g t).tbRuns g = p.tbRuns g := by
  have hne := (timebase_offsets g).1
  rw [Part.tbRuns, Part.startNoted, Part.bit_setBit _ _ (by decide), if_neg (by decide), Part.bit_setBit_ne _ _ hne.symm]
  rfl

theorem Part.startNoted_ctl : (p.startNoted g t).bit (Reg.PWM_TBCTL g.ix) 0 = true := by
  rw [Part.startNoted, Part.bit_setBit_ne _ _ (timebase_offsets g).1, Part.bit_setBit_same _ _ _ _ (by decide)]

theorem Part.startNoted_stopref : (p.startNoted g t).bit (Reg.PWM_TBSTAT g.ix) 29 = false :=
  Part.bit_setBit_same _ _ _ _ (by decide)

theorem Part.startNoted_cfg : (p.startNoted g t).bit (Reg.PWM_TBCFG g.ix) 31 = p.bit (Reg.PWM_TBCFG g.ix) 31 := by
  rw [Part.bit, Part.startNoted_regs _ ((timebase_offsets g).2 _ (by simp)), Part.bit]

theorem Part.startNoted_startTb (u : Instant) (align : Bool) : (p.startNoted g t).startTb g u align = p.startTb g u align := by
  have hreg (off : Nat) (h : off ∈ _) := Part.startNoted_regs (p := p) (t := t) off ((timebase_offsets g).2 off h)
  unfold Part.startTb Part.period Part.pair Part.fld
  rw [hreg (Reg.PWM_ANCHOR_LO g.ix) (by simp), hreg (Reg.PWM_ANCHOR_LO g.ix + 4) (by simp), hreg (Reg.PWM_PHASE g.ix) (by simp),
    hreg (Reg.PWM_PERIOD g.ix) (by simp), hreg (Reg.PWM_PERFR g.ix) (by simp)]

theorem Part.tbStart_running (h : p.tbRuns g = true) :
    p.tbStart g t = (p.startNoted g t).setTb g { p.tb g with stopReq := false } :=
  if_pos (Part.startNoted_runs.trans h)

/-- A running timebase withdraws a stop that waits. -/
theorem Part.tbStart_of_running (h : p.tbRuns g = true) :
    (p.tbStart g t).tb g = { p.tb g with stopReq := false } ∧ (p.tbStart g t).tbRuns g = true ∧
      RegsBut p (p.tbStart g t) [Reg.PWM_TBCTL g.ix, Reg.PWM_TBSTAT g.ix] := by
  rw [Part.tbStart_running h, Part.tb_setTb, Part.tbRuns_setTb, Part.startNoted_runs]
  exact ⟨rfl, h, .setTb Part.startNoted_regs⟩

theorem Part.tbStart_stopped (h : p.tbRuns g = false) : p.tbStart g t = (p.startNoted g t).startedAt g
    (p.startTb g (t + usec 2) (p.bit (Reg.PWM_TBCFG g.ix) 31)) (p.bit (Reg.PWM_TBCFG g.ix) 31) := by
  rw [← Part.startNoted_startTb (t := t), ← Part.startNoted_cfg (t := t)]
  have hgo : ¬ (p.startNoted g t).tbRuns g = true := by rw [Part.startNoted_runs, h]; decide
  exact if_neg hgo

/-- A timebase that starts. -/
theorem Part.startedAt_spec (p : Part) (g : Grp) (x : Timebase) (align : Bool) :
    (p.startedAt g x align).tb g = x ∧ (p.startedAt g x align).tbRuns g = true ∧
      (p.startedAt g x align).bit (Reg.PWM_TBCTL g.ix) 0 = p.bit (Reg.PWM_TBCTL g.ix) 0 ∧
      (p.startedAt g x align).bit (Reg.PWM_TBSTAT g.ix) 29 = p.bit (Reg.PWM_TBSTAT g.ix) 29 ∧
      (p.startedAt g x align).bit (Reg.PWM_TBSTAT g.ix) 30 = align ∧ RegsBut p (p.startedAt g x align) [Reg.PWM_TBSTAT g.ix] := by
  have hne := (timebase_offsets g).1
  have hbit (i : Nat) : (p.startedAt g x align).bit (Reg.PWM_TBSTAT g.ix) i =
      if i = 30 then align else if i = 31 then true else p.bit (Reg.PWM_TBSTAT g.ix) i := by
    rw [Part.startedAt, Part.bit_setBit _ _ (by decide), Part.bit_setBit _ _ (by decide), Part.bit_setTb]
  refine ⟨?_, hbit 31, ?_, hbit 29, hbit 30, .thenBit (.thenBit (.setTb (.refl p _)) (by simp)) (by simp)⟩
  · rw [Part.startedAt, Part.tb_setBit, Part.tb_setBit, Part.tb_setTb]
  rw [Part.startedAt, Part.bit_setBit_ne _ _ hne, Part.bit_setBit_ne _ _ hne, Part.bit_setTb]

/-- A stopped timebase starts at the first boundary of its carrier. -/
theorem Part.tbStart_of_stopped (h : p.tbRuns g = false) :
    (p.tbStart g t).tb g = p.startTb g (t + usec 2) (p.bit (Reg.PWM_TBCFG g.ix) 31) ∧ (p.tbStart g t).tbRuns g = true ∧
      (p.tbStart g t).bit (Reg.PWM_TBCTL g.ix) 0 = true ∧ (p.tbStart g t).bit (Reg.PWM_TBSTAT g.ix) 29 = false ∧
      (p.tbStart g t).bit (Reg.PWM_TBSTAT g.ix) 30 = p.bit (Reg.PWM_TBCFG g.ix) 31 ∧
      RegsBut p (p.tbStart g t) [Reg.PWM_TBCTL g.ix, Reg.PWM_TBSTAT g.ix] := by
  rw [Part.tbStart_stopped h]
  obtain ⟨htb, hruns, hctl, href, halign, hregs⟩ := (p.startNoted g t).startedAt_spec g
    (p.startTb g (t + usec 2) (p.bit (Reg.PWM_TBCFG g.ix) 31)) (p.bit (Reg.PWM_TBCFG g.ix) 31)
  exact ⟨htb, hruns, hctl.trans Part.startNoted_ctl, href.trans Part.startNoted_stopref, halign,
    .trans Part.startNoted_regs (hregs.mono (by simp))⟩

/-! Stop. -/

theorem Part.tbStopReq_stopped (h : p.tbRuns g = false) : p.tbStopReq g t = (p.at t).setFld (Reg.PWM_TBCTL g.ix) 0 1 0 :=
  if_pos (by rw [Bool.not_eq_true']; exact h)

theorem Part.tbStopReq_refused (h : p.tbRuns g = true) (hg : p.groupRuns g = true) :
    p.tbStopReq g t = (p.at t).setFld (Reg.PWM_TBSTAT g.ix) 29 1 1 :=
  (if_neg (by rw [Bool.not_eq_true', Bool.not_eq_false]; exact h)).trans (if_pos hg)

/-- The part whose timebase waits for the boundary at which it stops. -/
def Part.stopAsked (p : Part) (g : Grp) (t : Instant) : Part :=
  (((p.at t).setTb g { p.tb g with stopReq := true }).setBit (Reg.PWM_TBCTL g.ix) 0 false).setBit (Reg.PWM_TBSTAT g.ix) 29 false

theorem Part.tbStopReq_asked (h : p.tbRuns g = true) (hg : p.groupRuns g = false) : p.tbStopReq g t = p.stopAsked g t :=
  (if_neg (by rw [Bool.not_eq_true', Bool.not_eq_false]; exact h)).trans (if_neg (by rw [Bool.not_eq_true]; exact hg))

theorem Part.stopAsked_spec (p : Part) (g : Grp) (t : Instant) :
    (p.stopAsked g t).tb g = { p.tb g with stopReq := true } ∧ (p.stopAsked g t).bit (Reg.PWM_TBCTL g.ix) 0 = false ∧
      (p.stopAsked g t).tbRuns g = p.tbRuns g ∧ (p.stopAsked g t).bit (Reg.PWM_TBSTAT g.ix) 29 = false ∧
      RegsBut p (p.stopAsked g t) [Reg.PWM_TBCTL g.ix, Reg.PWM_TBSTAT g.ix] := by
  have hne := (timebase_offsets g).1
  refine ⟨?_, ?_, ?_, Part.bit_setBit_same _ _ _ _ (by decide),
    .thenBit (.thenBit (.setTb (q := p.at t) (.refl p _)) (by simp)) (by simp)⟩
  · rw [Part.stopAsked, Part.tb_setBit, Part.tb_setBit, Part.tb_setTb]
  · rw [Part.stopAsked, Part.bit_setBit_ne _ _ hne, Part.bit_setBit_same _ _ _ _ (by decide)]
  · rw [Part.tbRuns, Part.stopAsked, Part.bit_setBit _ _ (by decide), if_neg (by decide), Part.bit_setBit_ne _ _ hne.symm]
    rfl

/-! The boundary at which a timebase stops. -/

theorem Part.stopBoundary_idle (h : p.tbRuns g = false ∨ (p.tb g).stopReq = false ∨ (p.tb g).apex = true ∨
    p.updateTime g t = none) : p.stopBoundary g t = p := by
  rcases h with h | h | h | h
  · exact if_pos (by simp [h])
  · exact if_pos (by simp [h])
  · exact if_pos (by simp [h])
  · rw [Part.stopBoundary, h]
    exact ite_self _

theorem Part.stopBoundary_due {u : Instant} (hruns : p.tbRuns g = true) (hstop : (p.tb g).stopReq = true)
    (hapex : (p.tb g).apex = false) (hu : p.updateTime g t = some u) :
    p.stopBoundary g t = ((p.at u).tbStopped g u).moveStopped := by
  unfold Part.stopBoundary
  rw [hruns, hstop, hapex, hu]
  rfl

/-- With no commit pending no set moves where a timebase stops. -/
theorem Part.moveStopped_nothing (hc : p.commits = []) (hj : p.joint = none) : p.moveStopped = p := by
  unfold Part.moveStopped
  rw [hc]
  change (match p.joint with | some j => _ | none => p) = p
  rw [hj]

/-- The part whose timebase stands still, before its pairs and legs. -/
def Part.tbHalted (p : Part) (g : Grp) : Part := (p.setTb g {}).setFld (Reg.PWM_TBSTAT g.ix) 29 3 0

/-- The part once the carries and requests of a list of pairs are cleared. -/
def Part.clearPairs (p : Part) (qs : List Nat) : Part := p.each qs (fun p q => p.clearPair q)

theorem Part.tbStopped_eq (p : Part) (g : Grp) (t : Instant) : p.tbStopped g t =
    (((p.tbHalted g).clearPairs ((List.range 24).filter (fun q => (p.tbHalted g).pairGrp q = g))).each
      (((p.tbHalted g).clearPairs ((List.range 24).filter (fun q => (p.tbHalted g).pairGrp q = g))).legsOf g)
      (fun p l => p.evalLeg t l)) := rfl

theorem Part.legsOf_lt {l : Nat} (h : l ∈ p.legsOf g) : l < 24 := List.mem_range.1 (List.mem_of_mem_filter h)

theorem Part.Driven.clearPairs {b : Part} (h : p.Driven b) {qs : List Nat} (hqs : ∀ q ∈ qs, q < 24) :
    (p.clearPairs qs).Driven b :=
  h.each fun _ q hq hb => hb.clearPair (Nat.lt_trans (hqs q hq) (by decide))

theorem Part.clearPair_carries (p : Part) (q : Nat) :
    (p.clearPair q).reg (Reg.PWM_CARRYA q) = 0 ∧ (p.clearPair q).reg (Reg.PWM_CARRYB q) = 0 := by
  have hreg (off : Nat) : (p.clearPair q).reg off =
      ((p.setReg (Reg.PWM_CARRYA q) 0).setReg (Reg.PWM_CARRYB q) 0).reg off := rfl
  simp [hreg]

theorem carry_range {q : Nat} (hq : q < 24) : (0x151000 ≤ Reg.PWM_CARRYA q ∧ Reg.PWM_CARRYA q < 0x151400) ∧
    (0x151000 ≤ Reg.PWM_CARRYB q ∧ Reg.PWM_CARRYB q < 0x151400) := by
  unfold Reg.PWM_CARRYA Reg.PWM_CARRYB
  omega

/-- From a part whose carries of a pair are 0 they are 0 after evaluations. -/
theorem Part.Driven.carries {b : Part} (h : p.Driven b) {q : Nat} (hq : q < 24)
    (hz : b.reg (Reg.PWM_CARRYA q) = 0 ∧ b.reg (Reg.PWM_CARRYB q) = 0) :
    p.reg (Reg.PWM_CARRYA q) = 0 ∧ p.reg (Reg.PWM_CARRYB q) = 0 := by
  obtain ⟨⟨ha, ha'⟩, hb, hb'⟩ := carry_range hq
  exact ⟨h.carry _ ha ha' hz.1, h.carry _ hb hb' hz.2⟩

/-- Each pair that was cleared has its carries at 0. -/
theorem Part.clearPairs_carries {qs : List Nat} (hqs : ∀ q ∈ qs, q < 24) {q : Nat} (hq : q ∈ qs) :
    (p.clearPairs qs).reg (Reg.PWM_CARRYA q) = 0 ∧ (p.clearPairs qs).reg (Reg.PWM_CARRYB q) = 0 := by
  induction qs generalizing p with
  | nil => exact absurd hq List.not_mem_nil
  | cons k ks ih =>
    have hks : ∀ q ∈ ks, q < 24 := fun q hq => hqs q (List.mem_cons_of_mem k hq)
    rcases List.mem_cons.1 hq with rfl | hq'
    · exact ((Part.Driven.refl (p.clearPair q)).clearPairs hks).carries (hqs q (by simp)) (p.clearPair_carries q)
    · exact ih hks hq'

theorem pairsFiltered_lt {f : Nat → Bool} {q : Nat} (h : q ∈ (List.range 24).filter f) : q < 24 :=
  List.mem_range.1 (List.mem_of_mem_filter h)

theorem Part.tbStopped_driven (p : Part) (g : Grp) (t : Instant) : (p.tbStopped g t).Driven (p.tbHalted g) := by
  rw [Part.tbStopped_eq]
  exact ((Part.Driven.refl _).clearPairs fun _ => pairsFiltered_lt).evalLegsOf fun _ => Part.legsOf_lt

theorem Part.tbHalted_pairGrp {q : Nat} (hq : q < 24) : (p.tbHalted g).pairGrp q = p.pairGrp q := by
  have hne : Reg.PWM_PCFG q ≠ Reg.PWM_TBSTAT g.ix := by
    cases g <;> simp only [Reg.PWM_PCFG, Reg.PWM_TBSTAT, Grp.ix] <;> omega
  unfold Part.pairGrp Part.bit Part.tbHalted
  rw [Part.reg_setFld, if_neg hne]
  rfl

theorem Part.tbStopped_carries {q : Nat} (hq : q < 24) (hg : p.pairGrp q = g) :
    (p.tbStopped g t).reg (Reg.PWM_CARRYA q) = 0 ∧ (p.tbStopped g t).reg (Reg.PWM_CARRYB q) = 0 := by
  rw [Part.tbStopped_eq]
  refine ((Part.Driven.refl _).evalLegsOf fun _ => Part.legsOf_lt).carries hq
    (Part.clearPairs_carries (fun _ => pairsFiltered_lt) ?_)
  rw [List.mem_filter, Part.tbHalted_pairGrp hq]
  exact ⟨List.mem_range.2 hq, by simpa using hg⟩

theorem Part.tbStopped_still (p : Part) (g : Grp) (t : Instant) :
    (p.tbStopped g t).tbRuns g = false ∧ (p.tbStopped g t).tb g = {} := by
  have h := p.tbStopped_driven g t
  refine ⟨(h.tbRuns g).trans ?_, (h.tb g).trans ?_⟩
  case refine_2 => rw [Part.tbHalted, Part.tb_setFld, Part.tb_setTb]
  rw [Part.tbRuns, Part.bit, Part.tbHalted, Part.reg_setFld, if_pos rfl, bitAt_setBits _ _ _ _ _ (by decide) (by decide)]
  decide

theorem Part.tbStopped_gates (p : Part) (g : Grp) (t : Instant) : ∀ off ∈ [Reg.GATE_LATCH, Reg.GATE_SOFTOUT],
    (p.tbStopped g t).reg off = p.reg off := by
  intro off ho
  have hfree : DriveFree off ∧ off ≠ Reg.PWM_TBSTAT g.ix := by
    simp only [List.mem_cons, List.not_mem_nil, or_false] at ho
    rcases ho with rfl | rfl <;> cases g <;> decide
  rw [(p.tbStopped_driven g t).reg off hfree.1, Part.tbHalted, Part.reg_setFld, if_neg hfree.2]
  rfl

theorem Part.Driven.commits {b : Part} (h : p.Driven b) : p.commits = b.commits :=
  congrArg (fun q : Part => q.commits) (a₁ := p.undriven) (a₂ := b.undriven) h.rest

theorem Part.Driven.joint {b : Part} (h : p.Driven b) : p.joint = b.joint :=
  congrArg (fun q : Part => q.joint) (a₁ := p.undriven) (a₂ := b.undriven) h.rest

theorem Part.commits_setFld (p : Part) (off lo w n : Nat) :
    (p.setFld off lo w n).commits = p.commits ∧ (p.setFld off lo w n).joint = p.joint := ⟨rfl, rfl⟩

theorem Part.tbHalted_commits (p : Part) (g : Grp) : (p.tbHalted g).commits = p.commits ∧ (p.tbHalted g).joint = p.joint :=
  (p.setTb g {}).commits_setFld _ _ _ _

/-- Commits that are pending stay pending where a timebase stops. -/
theorem Part.tbStopped_commits (p : Part) (g : Grp) (t : Instant) :
    (p.tbStopped g t).commits = p.commits ∧ (p.tbStopped g t).joint = p.joint :=
  have h := p.tbStopped_driven g t
  have hhalt := p.tbHalted_commits g
  ⟨h.commits.trans hhalt.1, h.joint.trans hhalt.2⟩

/-- With no commit pending the timebase, its pairs and the latches are all that the boundary of a stop concerns. -/
theorem Part.stopBoundary_spec {u : Instant} (hruns : p.tbRuns g = true) (hstop : (p.tb g).stopReq = true)
    (hapex : (p.tb g).apex = false) (hu : p.updateTime g t = some u) (hcommits : p.commits = []) (hjoint : p.joint = none) :
    p.stopBoundary g t = (p.at u).tbStopped g u := by
  obtain ⟨hc, hj⟩ := (p.at u).tbStopped_commits g u
  rw [Part.stopBoundary_due hruns hstop hapex hu, Part.moveStopped_nothing (hc.trans hcommits) (hj.trans hjoint)]

/-! Refreshes of the delay line. -/

theorem Part.dlRefresh_outOfRange : p.dlRefresh false t = (p.at t).setFld Reg.PWM_DLSTAT 31 1 1 := rfl

/-- The part whose lines wait as `x` says, after a refresh in range. -/
def Part.dlApplied (p : Part) (x : PwmState) : Part :=
  ({ p with pwm := x }.setBit Reg.PWM_DLSTAT 31 false).countWrap Reg.PWM_DLSTAT 0 16

theorem Part.dlRefresh_inRange : ∃ x, p.dlRefresh true t = (p.at t).dlApplied x := ⟨_, rfl⟩

theorem Part.dlApplied_spec (p : Part) (x : PwmState) : (p.dlApplied x).bit Reg.PWM_DLSTAT 31 = false ∧
    (p.dlApplied x).fld Reg.PWM_DLSTAT 0 16 = (p.fld Reg.PWM_DLSTAT 0 16 + 1) % 65536 ∧
    RegsBut p (p.dlApplied x) [Reg.PWM_DLSTAT] := by
  have hx : ({ p with pwm := x } : Part).fld Reg.PWM_DLSTAT 0 16 = p.fld Reg.PWM_DLSTAT 0 16 := rfl
  have hregs : RegsBut p { p with pwm := x } [Reg.PWM_DLSTAT] := .refl p _
  rw [Part.dlApplied, ← hx]
  generalize ({ p with pwm := x } : Part) = q at *
  refine ⟨?_, ?_, (hregs.thenBit (by simp)).thenFld (by simp)⟩
  · rw [Part.countWrap, Part.bit, Part.reg_setFld, if_pos rfl, bitAt_setBits_ne _ _ _ _ _ (by decide) (by decide)]
    exact Part.bit_setBit_same _ _ _ _ (by decide)
  · rw [Part.countWrap, Part.fld_setFld_same _ _ _ _ _ (by decide), Part.setBit,
      Part.fld_setFld_apart _ _ _ _ _ _ _ (by decide) (by decide), show 2 ^ 16 = 65536 from rfl]

end

section
variable {g : Grp} {t : Instant} {s : State} (halive : s.part.alive = true)
include halive

theorem does_timebaseStart_stopped (hidle : s.part.tbRuns g = false) : Does (.timebaseStart g t) s (fun p =>
    p.tb g = s.part.startTb g (t + usec 2) (s.part.bit (Reg.PWM_TBCFG g.ix) 31) ∧ p.tbRuns g = true ∧
      p.bit (Reg.PWM_TBCTL g.ix) 0 = true ∧ p.bit (Reg.PWM_TBSTAT g.ix) 29 = false ∧
      p.bit (Reg.PWM_TBSTAT g.ix) 30 = s.part.bit (Reg.PWM_TBCFG g.ix) 31 ∧
      RegsBut s.part p [Reg.PWM_TBCTL g.ix, Reg.PWM_TBSTAT g.ix]) :=
  Does.of_run (exec_timebaseStart g t s) halive (Part.tbStart_of_stopped hidle)

theorem does_timebaseStart_running (hruns : s.part.tbRuns g = true) : Does (.timebaseStart g t) s (fun p =>
    p.tb g = { s.part.tb g with stopReq := false } ∧ p.tbRuns g = true ∧
      RegsBut s.part p [Reg.PWM_TBCTL g.ix, Reg.PWM_TBSTAT g.ix]) :=
  Does.of_run (exec_timebaseStart g t s) halive (Part.tbStart_of_running hruns)

theorem does_timebaseStop_running (hruns : s.part.tbRuns g = true) (hgroup : s.part.groupRuns g = false) :
    Does (.timebaseStop g t) s (fun p => p.tb g = { s.part.tb g with stopReq := true } ∧
      p.bit (Reg.PWM_TBCTL g.ix) 0 = false ∧ p.tbRuns g = true ∧ p.bit (Reg.PWM_TBSTAT g.ix) 29 = false ∧
      RegsBut s.part p [Reg.PWM_TBCTL g.ix, Reg.PWM_TBSTAT g.ix]) := by
  obtain ⟨htb, hctl, hrun, href, hregs⟩ := s.part.stopAsked_spec g t
  refine Does.of_run (exec_timebaseStop g t s) halive ?_
  rw [Part.tbStopReq_asked hruns hgroup]
  exact ⟨htb, hctl, hrun.trans hruns, href, hregs⟩

/-- The boundary at which a timebase stops. -/
theorem does_timebaseStopBoundary {u : Instant} (hstop : s.part.stopBoundary g t = (s.part.at u).tbStopped g u) :
    Does (.timebaseStopBoundary g t) s (fun p => p.tbRuns g = false ∧ p.tb g = {} ∧
      (∀ q < 24, s.part.pairGrp q = g → p.reg (Reg.PWM_CARRYA q) = 0 ∧ p.reg (Reg.PWM_CARRYB q) = 0) ∧
      p.reg Reg.GATE_LATCH = s.part.reg Reg.GATE_LATCH ∧ p.reg Reg.GATE_SOFTOUT = s.part.reg Reg.GATE_SOFTOUT) := by
  obtain ⟨hstill, htb⟩ := (s.part.at u).tbStopped_still g u
  have hgates := (s.part.at u).tbStopped_gates g u
  refine Does.of_run (exec_timebaseStopBoundary g t s) halive ?_
  rw [hstop]
  exact ⟨hstill, htb, fun q hq hg => Part.tbStopped_carries (p := s.part.at u) hq hg, hgates _ (by simp), hgates _ (by simp)⟩

theorem does_delayLineRefresh_inRange : Does (.delayLineRefresh true t) s (fun p => p.bit Reg.PWM_DLSTAT 31 = false ∧
    p.fld Reg.PWM_DLSTAT 0 16 = (s.part.fld Reg.PWM_DLSTAT 0 16 + 1) % 65536 ∧ RegsBut s.part p [Reg.PWM_DLSTAT]) := by
  obtain ⟨x, hx⟩ := Part.dlRefresh_inRange (p := s.part) (t := t)
  refine Does.of_run (exec_delayLineRefresh true t s) halive ?_
  rw [hx]
  exact (s.part.at t).dlApplied_spec x

end

/-- Settles O32, by what a stop keeps of the part whose timebase stands still and of its cleared pairs. -/
theorem timebases : Obligations.Timebases := by
  unfold Obligations.Timebases
  refine ⟨fun g t s halive => ?timebase, fun t s halive => ⟨?outOfRange, does_delayLineRefresh_inRange halive⟩⟩
  case outOfRange => exact Does.of_run (exec_delayLineRefresh false t s) halive Part.dlRefresh_outOfRange
  case timebase =>
    intro ctl st tb start anchored now
    refine ⟨fun hidle hfree => (does_timebaseStart_stopped halive hidle).imp ?free,
      fun hidle halign => (does_timebaseStart_stopped halive hidle).imp ?aligned, does_timebaseStart_running halive,
      fun hidle => Does.of_run (exec_timebaseStop g t s) halive (Part.tbStopReq_stopped hidle),
      fun hruns hgroup => Does.of_run (exec_timebaseStop g t s) halive (Part.tbStopReq_refused hruns hgroup),
      does_timebaseStop_running halive,
      fun hnot => Idles.of_run (exec_timebaseStopBoundary g t s) (Part.stopBoundary_idle hnot),
      fun u hruns hstop hapex hu hcommits hjoint =>
        does_timebaseStopBoundary halive (Part.stopBoundary_spec hruns hstop hapex hu hcommits hjoint)⟩
    case free =>
      rintro p ⟨htb, hruns, hctl, href, hshown, hregs⟩
      rw [hfree] at htb hshown
      exact ⟨htb, hruns, hctl, href, hshown, hregs⟩
    case aligned =>
      rintro p ⟨htb, hruns, hctl, -, hshown, hregs⟩
      rw [halign] at htb hshown
      exact ⟨htb, hruns, hctl, hshown, hregs⟩

end Sys2Proof.Machine
end

section
/-! PROOFS. Reserve gate channels (R221) and gate status buses (R222). -/

namespace Sys2Proof.Machine

theorem exec_gateReserveSelect (r : Fin 8) (t : Instant) (s : State) :
    exec (.gateReserveSelect r t) s = s.run (·.gateSelect r.val t) := by rfl

theorem exec_gateReserveTargetOff (r : Fin 8) (t : Instant) (s : State) :
    exec (.gateReserveTargetOff r t) s = s.run (·.gateTargetOff r.val t) := by rfl

theorem exec_gateSwapTimeout (r : Fin 8) (s : State) : exec (.gateSwapTimeout r) s = s.run (·.gateSwapTimeout r.val) := by rfl

theorem exec_gbusPoll (n : Fin 2) (s : State) : exec (.gbusPoll n) s = s.run (·.gbusPoll n.val) := by rfl

theorem exec_gbusResponse (n : Fin 2) (data : List Byte) (s : State) :
    exec (.gbusResponse n data) s = s.run (·.gbusResponse n.val data) := by rfl

/-- What the missing response of a bus makes of the part. -/
def Part.gbusMissed (p : Part) (n : Nat) : Part :=
  if (p.gbus n).req.isSome then (p.setGbus n { p.gbus n with req := none }).countSat (Reg.GATE_GBSTAT n) 0 16 else p

theorem exec_gbusTimeout (n : Fin 2) (s : State) : exec (.gbusTimeout n) s = s.run (·.gbusMissed n.val) := by rfl

/-! What the notes of the reserve manager leave of the gate drive. -/

section
variable (p : Part) {cls unit rsv cause : Nat}

theorem Part.pwm_setFld (off lo w n : Nat) : (p.setFld off lo w n).pwm = p.pwm := rfl

theorem Part.pwm_setBit (off i : Nat) (b : Bool) : (p.setBit off i b).pwm = p.pwm := rfl

theorem Part.pwm_produce (q : Nat) (e : List Byte) : (p.produce q e).pwm = p.pwm := by
  have hstore (a : Nat) (bs : List Byte) : (p.storeBytes a bs).pwm = p.pwm := by rw [p.storeBytes_frame]
  unfold Part.produce
  split
  · rfl
  split
  · exact p.pwm_setFld _ _ _ _
  · exact (Part.pwm_setFld _ _ _ _ _).trans (hstore _ _)

theorem Part.pwm_logEvent (code : LogCode) (args : List Nat) : (p.logEvent code args).pwm = p.pwm := Part.pwm_produce _ _ _

theorem Part.pwm_noteSwap : (p.noteSwap cls unit rsv cause).pwm = p.pwm := by
  have hlog (q : Part) (l : List RsvEntry) : ({ q with rsvLog := l } : Part).pwm = q.pwm := rfl
  rw [Part.noteSwap, Part.pwm_logEvent, Part.hostReserve, Part.pwm_setBit, Part.raise, Part.pwm_setBit, hlog, Part.setReg_pwm]

theorem Part.pwm_retireUnit : (p.retireUnit cls unit cause).pwm = p.pwm := by
  unfold Part.retireUnit
  split <;> rfl

theorem Part.pwm_opDone (k : Nat) : (p.opDone k).pwm = p.pwm := by
  rw [Part.opDone, Part.pwm_setFld, Part.setOpState, Part.pwm_setFld]

theorem Part.pwm_opFail (k gerr err : Nat) : (p.opFail k gerr err).pwm = p.pwm := by
  rw [Part.opFail, Part.pwm_setFld, Part.pwm_setFld, Part.setOpState, Part.pwm_setFld]

theorem Part.pwm_swapDone (o : Option Nat) : (p.swapDone cls unit o).pwm = p.pwm := by
  cases o with
  | none => rfl
  | some k =>
    rw [Part.swapDone, Part.pwm_opDone, Part.when]
    split
    · exact p.pwm_retireUnit
    · rfl

end

/-! States of the long-operation slots. -/

theorem op_offsets (k : Nat) : Reg.OP_STATUS_LO k ≠ Reg.OP_STATUS_HI k := by
  unfold Reg.OP_STATUS_LO Reg.OP_STATUS_HI
  omega

theorem Part.opState_setOpState (p : Part) (k n : Nat) : (p.setOpState k n).opState k = n % 16 :=
  Part.fld_setFld_same _ _ _ _ _ (by decide)

theorem Part.opState_setHi (p : Part) (k lo w n : Nat) : (p.setFld (Reg.OP_STATUS_HI k) lo w n).opState k = p.opState k := by
  rw [Part.opState, Part.fld, Part.reg_setFld, if_neg (op_offsets k), ← Part.fld, ← Part.opState]

theorem Part.opState_opDone (p : Part) (k : Nat) : (p.opDone k).opState k = 3 := by
  rw [Part.opDone, Part.opState_setHi, Part.opState_setOpState]

theorem Part.opState_opFail (p : Part) (k gerr err : Nat) : (p.opFail k gerr err).opState k = 4 := by
  rw [Part.opFail, Part.opState_setHi, Part.opState, Part.fld_setFld_apart _ _ _ _ _ _ _ (by decide) (by decide),
    ← Part.opState, Part.opState_setOpState]

theorem Part.opState_swapDone (p : Part) (cls unit k : Nat) : (p.swapDone cls unit (some k)).opState k = 3 :=
  Part.opState_opDone _ k

/-! Reserves. -/

theorem Part.gateSwap_setGateSwap (p : Part) {r : Nat} (hr : r < 8) (x : GateSwap) : (p.setGateSwap r x).gateSwap r = x := by
  rw [Part.gateSwap, Part.setGateSwap, vget_vset, if_pos ⟨rfl, hr⟩]

theorem Part.gateSwap_of_pwm {p q : Part} (h : p.pwm = q.pwm) (r : Nat) : p.gateSwap r = q.gateSwap r := by
  rw [Part.gateSwap, h, Part.gateSwap]

section
variable {p : Part} {r : Nat} {t : Instant}

theorem Part.gateSelect_due (hphase : (p.gateSwap r).phase = .compare) (hagree : 8 ≤ (p.gateSwap r).agree)
    (hquiet : (p.at t).edgeNear (p.fld (Reg.GATE_RSVMAP r) 0 6) (t - usec 2) (t + usec 2) = false) :
    p.gateSelect r t = (p.at t).setGateSwap r { p.gateSwap r with phase := .selected, selAt := t } := by
  refine if_pos ?_
  change (decide ((p.gateSwap r).phase = .compare) && decide (8 ≤ (p.gateSwap r).agree) &&
    !(p.at t).edgeNear (p.fld (Reg.GATE_RSVMAP r) 0 6) (t - usec 2) (t + usec 2)) = true
  simp [hphase, hagree, hquiet]

theorem Part.gateSelect_early (h : ¬ ((p.gateSwap r).phase = .compare ∧ 8 ≤ (p.gateSwap r).agree ∧
    (p.at t).edgeNear (p.fld (Reg.GATE_RSVMAP r) 0 6) (t - usec 2) (t + usec 2) = false)) : p.gateSelect r t = p.at t := by
  refine if_neg ?_
  change ¬ (decide ((p.gateSwap r).phase = .compare) && decide (8 ≤ (p.gateSwap r).agree) &&
    !(p.at t).edgeNear (p.fld (Reg.GATE_RSVMAP r) 0 6) (t - usec 2) (t + usec 2)) = true
  simpa [and_assoc] using h

/-- The part whose reserve `r` has taken the place of its target. -/
def Part.targetReplaced (p : Part) (r : Nat) : Part :=
  (p.setGateSwap r { p.gateSwap r with phase := .inService, slot := none }).setBit
    (Reg.GATE_CHSTAT (p.fld (Reg.GATE_RSVMAP r) 0 6)) 30 true

theorem Part.gateTargetOff_due (hphase : (p.gateSwap r).phase = .selected) (htime : (p.gateSwap r).selAt + usec 1 ≤ t) :
    p.gateTargetOff r t = (((p.at t).targetReplaced r).noteSwap 6 (p.fld (Reg.GATE_RSVMAP r) 0 6) (48 + r)
      (p.gateSwap r).cause).swapDone 6 (p.fld (Reg.GATE_RSVMAP r) 0 6) (p.gateSwap r).slot := by
  refine if_pos ?_
  change (decide ((p.gateSwap r).phase = .selected) && decide ((p.gateSwap r).selAt + usec 1 ≤ t)) = true
  simp [hphase, htime]

theorem Part.gateTargetOff_early (h : (p.gateSwap r).phase ≠ .selected ∨ t < (p.gateSwap r).selAt + usec 1) :
    p.gateTargetOff r t = p.at t := by
  refine if_neg ?_
  change ¬ (decide ((p.gateSwap r).phase = .selected) && decide ((p.gateSwap r).selAt + usec 1 ≤ t)) = true
  simpa [imp_iff_not_or] using h

/-- A swap of a reserve that is noted and reported to the slot that asked for it. -/
theorem Part.swapReported (q : Part) {c cause : Nat} (hr : r < 8) (hc : c < 64) (o : Option Nat)
    (ho : ∀ k, o = some k → k < 8) :
    ((q.noteSwap 6 c (48 + r) cause).swapDone 6 c o).pwm = q.pwm ∧
      ((q.noteSwap 6 c (48 + r) cause).swapDone 6 c o).reg (Reg.GATE_CHSTAT c) = q.reg (Reg.GATE_CHSTAT c) ∧
      ((q.noteSwap 6 c (48 + r) cause).swapDone 6 c o).reg Reg.SPARE_LAST =
        BitVec.ofNat 32 (6 * 2 ^ 24 + c * 65536 + (48 + r) * 256 + cause) ∧
      ∀ k, o = some k → ((q.noteSwap 6 c (48 + r) cause).swapDone 6 c o).opState k = 3 := by
  refine ⟨(Part.pwm_swapDone _ o).trans q.pwm_noteSwap, ?_, ?_, ?_⟩
  · have hoff : Reg.GATE_CHSTAT c ≠ Reg.SPARE_EVT ∧ 0x90000 ≤ Reg.GATE_CHSTAT c ∧ Reg.GATE_CHSTAT c ≠ Reg.HOST_STATUS_LO ∧
        Reg.GATE_CHSTAT c ≠ Reg.QUE_PIDX 30 ∧ Reg.GATE_CHSTAT c ≠ Reg.SPARE_LAST := by
      simp only [Reg.GATE_CHSTAT, Reg.SPARE_EVT, Reg.HOST_STATUS_LO, Reg.QUE_PIDX, Reg.SPARE_LAST]
      omega
    obtain ⟨hevt, hhi, hhost, hque, hlast⟩ := hoff
    rw [(Part.swapDone_frame _ o ho ⟨hevt, .inr hhi⟩).1, Part.reg_noteSwap _ ⟨hevt, hhost, hque⟩, if_neg hlast]
  · rw [(Part.swapDone_frame _ o ho (by decide)).1, Part.reg_noteSwap _ (by decide), if_pos rfl,
      Nat.mod_eq_of_lt (show c < 256 by omega), Nat.mod_eq_of_lt (show 48 + r < 256 by omega)]
  · rintro k rfl
    exact Part.opState_swapDone _ _ _ k

theorem Part.gateTargetOff_spec (hr : r < 8) (hphase : (p.gateSwap r).phase = .selected)
    (htime : (p.gateSwap r).selAt + usec 1 ≤ t) (hslot : ∀ k, (p.gateSwap r).slot = some k → k < 8) :
    ((p.gateTargetOff r t).gateSwap r).phase = .inService ∧
      (p.gateTargetOff r t).bit (Reg.GATE_CHSTAT (p.fld (Reg.GATE_RSVMAP r) 0 6)) 30 = true ∧
      (p.gateTargetOff r t).reg Reg.SPARE_LAST = BitVec.ofNat 32
        (6 * 2 ^ 24 + p.fld (Reg.GATE_RSVMAP r) 0 6 * 65536 + (48 + r) * 256 + (p.gateSwap r).cause) ∧
      ∀ k, (p.gateSwap r).slot = some k → (p.gateTargetOff r t).opState k = 3 := by
  rw [Part.gateTargetOff_due hphase htime]
  obtain ⟨hpwm, hchan, hlast, hdone⟩ := ((p.at t).targetReplaced r).swapReported (cause := (p.gateSwap r).cause) hr
    (show p.fld (Reg.GATE_RSVMAP r) 0 6 < 64 from bits_lt _ _ _) _ hslot
  refine ⟨?_, ?_, hlast, hdone⟩
  · rw [Part.gateSwap_of_pwm (hpwm.trans (Part.pwm_setBit _ _ _ _)), Part.gateSwap_setGateSwap _ hr]
  · rw [Part.bit, hchan, ← Part.bit]
    exact Part.bit_setBit_same _ _ _ _ (by decide)

theorem Part.gateSwapTimeout_due (hphase : (p.gateSwap r).phase = .compare) (hperiods : 64 ≤ (p.gateSwap r).periods) :
    p.gateSwapTimeout r = (p.gateRsvOff r).opErr? 4 (p.gateSwap r).slot := if_pos (by simp [hphase, hperiods])

theorem Part.gateSwapTimeout_early (h : (p.gateSwap r).phase ≠ .compare ∨ (p.gateSwap r).periods < 64) :
    p.gateSwapTimeout r = p := if_neg (by simpa [imp_iff_not_or] using h)

theorem Part.gateSwap_setGt (p : Part) (c : Nat) (lvl : Bool) (t : Instant) (k : Nat) :
    (p.setGt c lvl t).gateSwap k = p.gateSwap k := rfl

theorem Part.gt_setGateSwap (p : Part) (r : Nat) (x : GateSwap) (c : Nat) : (p.setGateSwap r x).gt c = p.gt c := rfl

/-- A reserve that no longer carries a command is unused and off. -/
theorem Part.gateRsvOff_spec (p : Part) (hr : r < 8) :
    (p.gateRsvOff r).gateSwap r = {} ∧ (p.gateRsvOff r).gt (48 + r) = false := by
  unfold Part.gateRsvOff Part.when
  split
  · rw [Part.gateSwap_setGt, Part.gateSwap_setGateSwap _ hr, Part.gt_setGt, if_pos rfl]
    exact ⟨rfl, rfl⟩
  · rw [Part.gateSwap_setGateSwap _ hr]
    next hoff => exact ⟨rfl, (p.gt_setGateSwap r {} (48 + r)).trans (by simpa using hoff)⟩

theorem Part.gateSwapTimeout_spec (hr : r < 8) (hphase : (p.gateSwap r).phase = .compare)
    (hperiods : 64 ≤ (p.gateSwap r).periods) (hslot : ∀ k, (p.gateSwap r).slot = some k → k < 8) :
    (p.gateSwapTimeout r).gateSwap r = {} ∧ (p.gateSwapTimeout r).gt (48 + r) = false ∧
      ∀ k, (p.gateSwap r).slot = some k → (p.gateSwapTimeout r).opState k = 4 := by
  rw [Part.gateSwapTimeout_due hphase hperiods]
  obtain ⟨hswap, hgt⟩ := p.gateRsvOff_spec hr
  generalize p.gateRsvOff r = q at *
  cases ho : (p.gateSwap r).slot with
  | none => exact ⟨hswap, hgt, nofun⟩
  | some k =>
    have hk := hslot k ho
    have hregs := q.opFail_regsOnly k 7 4
    have hoff : chanReg Reg.GATE_GT_LO (48 + r) ∉ [Reg.OP_STATUS_LO k, Reg.OP_STATUS_HI k] := by
      simp only [List.mem_cons, List.not_mem_nil, or_false, chanReg, Reg.GATE_GT_LO, Reg.OP_STATUS_LO, Reg.OP_STATUS_HI]
      omega
    refine ⟨?_, ?_, ?_⟩
    · rw [Part.opErr?, Part.gateSwap_of_pwm (q.pwm_opFail k 7 4), hswap]
    · rw [Part.opErr?, Part.gt, Part.bit, hregs.2 _ hoff, ← Part.bit, ← Part.gt, hgt]
    · rintro j ⟨⟩
      exact q.opState_opFail k 7 4

end

/-! Bytes of a gate status bus. -/

theorem crc8Byte_lt (c : Nat) (b : Byte) : crc8Byte c b < 256 := by
  have hstep (n : Nat) : (if 128 ≤ n then (2 * n) % 256 ^^^ 7 else 2 * n % 256) < 256 := by
    split
    · exact Nat.xor_lt_two_pow (n := 8) (Nat.mod_lt _ (by decide)) (by decide)
    · exact Nat.mod_lt _ (by decide)
  rw [crc8Byte, List.range_succ, List.foldl_concat]
  exact hstep _

theorem crc8_lt (bs : List Byte) : crc8 bs < 256 := by
  have hfrom (c : Nat) (hc : c < 256) : bs.foldl crc8Byte c < 256 := by
    induction bs generalizing c with
    | nil => exact hc
    | cons b bs ih => exact ih _ (crc8Byte_lt c b)
  exact hfrom 0 (by decide)

theorem toNat_crc8 (bs : List Byte) : (BitVec.ofNat 8 (crc8 bs)).toNat = crc8 bs := by
  rw [BitVec.toNat_ofNat, Nat.mod_eq_of_lt (crc8_lt bs)]

/-- Four data bytes, most significant first, as one word. -/
theorem numOf_word (d3 d2 d1 d0 : Byte) : BitVec.ofNat 32 (numOf [d0, d1, d2, d3]) = d3 ++ d2 ++ d1 ++ d0 := by
  have h0 := d0.isLt
  have h1 := d1.isLt
  have h2 := d2.isLt
  have h3 := d3.isLt
  refine BitVec.eq_of_toNat_eq ?_
  rw [BitVec.toNat_append, ← Nat.shiftLeft_add_eq_or_of_lt h0, BitVec.toNat_append, ← Nat.shiftLeft_add_eq_or_of_lt h1,
    BitVec.toNat_append, ← Nat.shiftLeft_add_eq_or_of_lt h2, BitVec.toNat_ofNat]
  simp only [numOf, Nat.shiftLeft_eq]
  omega

/-! Polls of a bus. -/

section
variable {p : Part} {n : Nat}

theorem Part.gbusPoll_idle (h : p.bit (Reg.GATE_GBCFG n) 31 = false ∨ (p.gbus n).req.isSome = true) : p.gbusPoll n = p := by
  refine if_pos ?_
  rcases h with h | h
  · rw [h]; rfl
  · rw [h, Bool.or_true]

theorem Part.gbusPoll_fault {c : Nat} {rest : List Nat} (hon : p.bit (Reg.GATE_GBCFG n) 31 = true)
    (hreq : (p.gbus n).req = none) (hf : (p.gbus n).faults = c :: rest) : p.gbusPoll n = p.gbusAsk n
      { p.gbus n with faults := rest } (.fault c) (p.fld (Reg.GATE_GADDR c) 0 5) (p.fld (Reg.GATE_GBCFG n) 16 8) := by
  unfold Part.gbusPoll
  dsimp only
  rw [hon, hreq, hf]
  rfl

/-- The first enabled entry in turn. -/
theorem Part.gbusTurn {i k : Nat} (hi : i < 32) (hk : k = ((p.gbus n).next + i) % 32)
    (hbit : p.bit (Reg.GATE_GBPOLL n k) 31 = true)
    (hskip : ∀ j < i, p.bit (Reg.GATE_GBPOLL n (((p.gbus n).next + j) % 32)) 31 = false) :
    ((List.range 32).map (fun i => ((p.gbus n).next + i) % 32)).find? (fun k => p.bit (Reg.GATE_GBPOLL n k) 31) = some k := by
  have hfirst : (List.range 32).find? ((fun k => p.bit (Reg.GATE_GBPOLL n k) 31) ∘ fun i => ((p.gbus n).next + i) % 32) =
      some i := by
    rw [List.find?_range_eq_some]
    exact ⟨by rwa [hk] at hbit, List.mem_range.2 hi, fun j hj => by simp [hskip j hj]⟩
  rw [List.find?_map, hfirst, hk]
  rfl

theorem Part.gbusPoll_turn {i k : Nat} (hon : p.bit (Reg.GATE_GBCFG n) 31 = true) (hreq : (p.gbus n).req = none)
    (hf : (p.gbus n).faults = []) (hi : i < 32) (hk : k = ((p.gbus n).next + i) % 32)
    (hbit : p.bit (Reg.GATE_GBPOLL n k) 31 = true)
    (hskip : ∀ j < i, p.bit (Reg.GATE_GBPOLL n (((p.gbus n).next + j) % 32)) 31 = false) :
    p.gbusPoll n = p.gbusAsk n { p.gbus n with next := (k + 1) % 32 } (.poll k) (p.fld (Reg.GATE_GBPOLL n k) 8 5)
      (p.fld (Reg.GATE_GBPOLL n k) 0 8) := by
  have hturn := Part.gbusTurn hi hk hbit hskip
  unfold Part.gbusPoll
  dsimp only
  rw [hon, hreq, hf]
  simp only [hturn]
  rfl

/-! Responses. -/

theorem Part.gbus_setGbus (p : Part) (hn : n < 2) (x : Gbus) : (p.setGbus n x).gbus n = x := by
  rw [Part.gbus, Part.setGbus, vget_vset, if_pos ⟨rfl, hn⟩]

theorem Part.gbusResponse_none (data : List Byte) (hreq : (p.gbus n).req = none) : p.gbusResponse n data = p := by
  unfold Part.gbusResponse
  dsimp only
  rw [hreq]

/-- The part whose request on a bus is over with one more error of the kind that `lo` counts. -/
def Part.gbusFailed (p : Part) (n lo : Nat) : Part :=
  (p.setGbus n { p.gbus n with req := none }).countSat (Reg.GATE_GBSTAT n) lo 16

theorem Part.gbusFailed_spec (p : Part) (hn : n < 2) {lo : Nat} (hlo : lo + 16 ≤ 32) :
    (p.gbusFailed n lo).gbus n = { p.gbus n with req := none } ∧
      (p.gbusFailed n lo).fld (Reg.GATE_GBSTAT n) lo 16 = min (p.fld (Reg.GATE_GBSTAT n) lo 16 + 1) 65535 ∧
      RegsBut p (p.gbusFailed n lo) [Reg.GATE_GBSTAT n] :=
  ⟨Part.gbus_setGbus p hn _, Part.fld_countSat (p.setGbus n _) _ hlo, .setFld (p := p.setGbus n _) (by simp)⟩

theorem Part.gbusMissed_none (hreq : (p.gbus n).req = none) : p.gbusMissed n = p := if_neg (by simp [hreq])

theorem Part.gbusResponse_bad {q : GbusReq × Nat × Nat} {data : List Byte} (hreq : (p.gbus n).req = some q)
    (hbad : data.length ≠ 7 ∨ crc8 (data.take 6) ≠ (data.getD 6 0).toNat) : p.gbusResponse n data = p.gbusFailed n 16 := by
  unfold Part.gbusResponse
  dsimp only
  rw [hreq]
  exact if_pos (by simpa using hbad)

theorem Part.gbusResponse_elsewhere {k : GbusReq} {addr reg : Nat} {body : List Byte}
    (hreq : (p.gbus n).req = some (k, addr, reg)) (hlen : body.length = 6)
    (hother : (body.getD 0 0).toNat ≠ addr + 0x80 ∨ (body.getD 1 0).toNat ≠ reg) :
    p.gbusResponse n (body ++ [BitVec.ofNat 8 (crc8 body)]) = p := by
  have htake : (body ++ [BitVec.ofNat 8 (crc8 body)]).take 6 = body := by rw [← hlen, List.take_left]
  have hget (i : Nat) (hi : i < 6) : (body ++ [BitVec.ofNat 8 (crc8 body)]).getD i 0 = body.getD i 0 :=
    List.getD_append _ _ _ _ (by omega)
  have hcrc : ((body ++ [BitVec.ofNat 8 (crc8 body)]).getD 6 0).toNat = crc8 body := by
    rw [List.getD_append_right _ _ _ _ (by omega), hlen]
    exact toNat_crc8 body
  unfold Part.gbusResponse
  dsimp only
  rw [hreq]
  simp only [htake, hcrc, hget 0 (by decide), hget 1 (by decide)]
  rw [if_neg (by simp [hlen]), if_pos (by simpa using hother)]

theorem Part.gbusResponse_good {k addr reg : Nat} (d3 d2 d1 d0 : Byte) (hreq : (p.gbus n).req = some (.poll k, addr, reg))
    (haddr : addr < 32) (hreg : reg < 256) :
    p.gbusResponse n ([BitVec.ofNat 8 (addr + 0x80), BitVec.ofNat 8 reg, d3, d2, d1, d0] ++
      [BitVec.ofNat 8 (crc8 [BitVec.ofNat 8 (addr + 0x80), BitVec.ofNat 8 reg, d3, d2, d1, d0])]) =
      (p.setGbus n { p.gbus n with req := none }).setReg (Reg.GATE_GBRES n k) (d3 ++ d2 ++ d1 ++ d0) := by
  have hcrc := toNat_crc8 [BitVec.ofNat 8 (addr + 0x80), BitVec.ofNat 8 reg, d3, d2, d1, d0]
  have ha : (BitVec.ofNat 8 (addr + 0x80)).toNat = addr + 0x80 := by rw [BitVec.toNat_ofNat]; omega
  have hr : (BitVec.ofNat 8 reg).toNat = reg := by rw [BitVec.toNat_ofNat]; omega
  have hword := numOf_word d3 d2 d1 d0
  unfold Part.gbusResponse
  dsimp only
  rw [hreq]
  simp [hcrc, ha, hr, hword]

end

/-- Settles O31, by the cases of each row. -/
theorem gateReservesAndBuses : Obligations.GateReservesAndBuses := by
  unfold Obligations.GateReservesAndBuses
  refine ⟨fun r t s halive => ?reserve, fun n s halive => ?bus⟩
  case reserve =>
    intro x c due slotOk
    exact ⟨fun ⟨hphase, hagree, hquiet⟩ => Does.of_run (exec_gateReserveSelect r t s) halive
        (Part.gateSelect_due hphase hagree hquiet),
      fun hnot => Does.of_run (exec_gateReserveSelect r t s) halive (Part.gateSelect_early hnot),
      fun hphase htime hslot => Does.of_run (exec_gateReserveTargetOff r t s) halive
        (Part.gateTargetOff_spec r.isLt hphase htime hslot),
      fun hnot => Does.of_run (exec_gateReserveTargetOff r t s) halive (Part.gateTargetOff_early hnot),
      fun hphase hperiods hslot => Does.of_run (exec_gateSwapTimeout r s) halive
        (Part.gateSwapTimeout_spec r.isLt hphase hperiods hslot),
      fun hnot => Idles.of_run (exec_gateSwapTimeout r s) (Part.gateSwapTimeout_early hnot)⟩
  case bus =>
    intro x cfg st
    refine ⟨fun hidle => Idles.of_run (exec_gbusPoll n s) (Part.gbusPoll_idle hidle),
      fun c rest hon hreq hf => Does.of_run (exec_gbusPoll n s) halive (Part.gbusPoll_fault hon hreq hf),
      fun k i hon hreq hf hi hk hbit hskip => Does.of_run (exec_gbusPoll n s) halive
        (Part.gbusPoll_turn hon hreq hf hi hk hbit hskip),
      fun a r => rfl, fun data hreq => Idles.of_run (exec_gbusResponse n data s) (Part.gbusResponse_none data hreq),
      fun k addr reg d3 d2 d1 d0 hreq haddr hreg => Does.of_run (exec_gbusResponse n _ s) halive
        (Part.gbusResponse_good d3 d2 d1 d0 hreq haddr hreg),
      fun k addr reg body hreq hlen hother => Idles.of_run (exec_gbusResponse n _ s)
        (Part.gbusResponse_elsewhere hreq hlen hother),
      fun q data hreq hbad => Does.of_run (exec_gbusResponse n data s) halive ?bad,
      fun hreq => Does.of_run (exec_gbusTimeout n s) halive ?missing,
      fun hreq => Idles.of_run (exec_gbusTimeout n s) (Part.gbusMissed_none hreq)⟩
    case bad =>
      rw [Part.gbusResponse_bad hreq hbad]
      exact s.part.gbusFailed_spec n.isLt (by decide)
    case missing =>
      rw [Part.gbusMissed, if_pos hreq]
      exact s.part.gbusFailed_spec n.isLt (by decide)

end Sys2Proof.Machine
end

section
/-! PROOFS. What a gate fault changes (R210, R215, R219): the words of its channel, the latch of its leg, and nothing of the returns,
of the reserves and of the pads. -/

namespace Sys2Proof.Machine

/-- Registers that the latch of a leg after a gate fault leaves as they are, among those of the gate block: the returns, the status
words of the channels and the maps of the reserves. -/
abbrev LatchFree (off : Nat) : Prop :=
  (0x160018 ≤ off ∧ off < 0x160020) ∨ (0x160100 ≤ off ∧ off < 0x160480 ∧ off % 0x10 = 0) ∨ (0x162200 ≤ off ∧ off < 0x162220)

/-- From `b` to `p` a leg may have latched: returns, words of channels, maps, swaps and pads stay, and so do latches that stood. -/
structure Part.Latching (p b : Part) : Prop where
  reg : ∀ off, LatchFree off → p.reg off = b.reg off
  stays : ∀ l, b.latched l = true → p.latched l = true
  swaps : p.pwm.swaps = b.pwm.swaps
  padBad : p.pwm.padBad = b.pwm.padBad

section
variable {p q b : Part}

theorem Part.Latching.refl (p : Part) : p.Latching p := ⟨fun _ _ => rfl, fun _ h => h, rfl, rfl⟩

theorem Part.Latching.trans (h1 : p.Latching q) (h2 : q.Latching b) : p.Latching b where
  reg off ho := (h1.reg off ho).trans (h2.reg off ho)
  stays l hl := h1.stays l (h2.stays l hl)
  swaps := h1.swaps.trans h2.swaps
  padBad := h1.padBad.trans h2.padBad

theorem Part.Latching.ite {c : Prop} [Decidable c] (hp : p.Latching b) (hq : q.Latching b) : (if c then p else q).Latching b := by
  split <;> assumption

theorem driveFree_of_latchFree {off : Nat} (h : LatchFree off) : DriveFree off := by
  simp only [LatchFree, DriveFree] at *
  omega

/-- An evaluation of a leg is one such change. -/
theorem Part.Driven.latching (h : p.Driven b) : p.Latching b where
  reg off ho := h.reg off (driveFree_of_latchFree ho)
  stays l hl := (h.latched l).trans hl
  swaps := h.swaps
  padBad := congrArg (fun q : Part => q.pwm.padBad) (a₁ := p.undriven) (a₂ := b.undriven) h.rest

theorem latchWrites_above {a b : Nat} (h : 0x170000 ≤ a) : ¬ LatchFree (a + b) ∧ a + b ≠ Reg.GATE_LATCH := by
  simp only [LatchFree, Reg.GATE_LATCH]
  omega

section
variable (h : p.Latching b)
include h

theorem Part.Latching.setReg {off : Nat} {v : Word} (ho : ¬ LatchFree off ∧ off ≠ Reg.GATE_LATCH) :
    (p.setReg off v).Latching b where
  reg o hf := by rw [Part.reg_setReg, if_neg (by rintro rfl; exact ho.1 hf), h.reg o hf]
  stays l hl := by rw [← h.stays l hl, Part.latched, Part.latched, Part.bit, Part.bit, Part.reg_setReg, if_neg ho.2.symm]
  swaps := h.swaps
  padBad := h.padBad

theorem Part.Latching.setFld {off lo w n : Nat} (ho : ¬ LatchFree off ∧ off ≠ Reg.GATE_LATCH) :
    (p.setFld off lo w n).Latching b := h.setReg ho

/-- Registers, swaps and pads stay as they are. -/
theorem Part.Latching.same (hr : q.regs = p.regs) (hs : q.pwm.swaps = p.pwm.swaps) (hb : q.pwm.padBad = p.pwm.padBad) :
    q.Latching b := by
  have hreg (off : Nat) : q.reg off = p.reg off := by rw [Part.reg, hr, Part.reg]
  refine ⟨fun off ho => (hreg off).trans (h.reg off ho), fun l hl => ?_, hs.trans h.swaps, hb.trans h.padBad⟩
  rw [← h.stays l hl, Part.latched, Part.bit, hreg, Part.latched, Part.bit]

theorem Part.Latching.riseLatch {l : Nat} (hl : l < 24) : (p.setBit Reg.GATE_LATCH l true).Latching b where
  reg o hf := by rw [Part.reg_setBit, if_neg (by rintro rfl; revert hf; decide), h.reg o hf]
  stays m hm := by
    rw [Part.latched, Part.bit_setBit _ _ (by omega)]
    split
    · rfl
    · exact h.stays m hm
  swaps := h.swaps
  padBad := h.padBad

theorem Part.Latching.each {α : Type} {f : Part → α → Part} {l : List α}
    (hf : ∀ q, ∀ a ∈ l, q.Latching b → (f q a).Latching b) : (p.each l f).Latching b := by
  induction l generalizing p with
  | nil => exact h
  | cons a l ih => exact ih (hf p a (by simp) h) (fun q x hx => hf q x (List.mem_cons_of_mem a hx))

theorem Part.Latching.when {c : Bool} {f : Part → Part} (hf : ∀ q, q.Latching b → (f q).Latching b) :
    (p.when c f).Latching b := .ite (hf _ h) h

/-! The operations. -/

theorem Part.Latching.setCapUnit {u : Nat} {x : CapUnit} : (p.setCapUnit u x).Latching b := h.same rfl rfl rfl

theorem Part.Latching.takeBuf {u : Nat} : (p.takeBuf u).Latching b := by
  dsimp only [Part.takeBuf]
  split <;> exact h.same rfl rfl rfl

theorem Part.Latching.capFire {tr : Nat} {t : Instant} {u : Nat} : (p.capFire tr t u).Latching b := by
  have hbuf : (p.when (p.capUnit u).buf.isNone (·.takeBuf u)).Latching b := h.when fun _ hq => hq.takeBuf
  refine .ite h ?_
  dsimp only
  split
  case h_1 => exact .ite hbuf.setCapUnit hbuf.setCapUnit
  case h_2 =>
    refine .ite (.setFld (hbuf.setReg ?_) ?_) (.ite hbuf hbuf.setCapUnit)
    all_goals exact latchWrites_above (by decide)

theorem Part.Latching.trigFire {tr : Nat} {t : Instant} : (p.trigFire tr t).Latching b := by
  have hshow {u : Nat} {q : Part} (hq : q.Latching b) : (q.capShow u).Latching b := hq.setReg (latchWrites_above (by decide))
  have hcount : (p.countWrap (Reg.CAP_TSTAT tr) 0 16).Latching b := h.setFld (latchWrites_above (by decide))
  have hoff (k : Nat) : ¬ LatchFree (Reg.CAP_TTIME_LO tr + k) ∧ Reg.CAP_TTIME_LO tr + k ≠ Reg.GATE_LATCH := by
    rw [Reg.CAP_TTIME_LO, Nat.add_assoc]
    exact latchWrites_above (by decide)
  exact hshow (hshow (.capFire (.capFire (((hcount.setReg (hoff 0)).setReg (hoff 4)).setReg (hoff 8)))))

theorem Part.Latching.capEvent {src : Nat} {t : Instant} : (p.capEvent src t).Latching b := h.each fun _ _ _ hq => hq.trigFire

theorem Part.Latching.askDrivers {l : Nat} : (p.askDrivers l).Latching b := h.each fun _ _ _ hq => hq.same rfl rfl rfl

theorem Part.Latching.report {cause : Nat} : (p.report cause).Latching b := h.same rfl rfl rfl

theorem Part.Latching.keepLatch {l : Nat} : (p.keepLatch l).Latching b := h.same rfl rfl rfl

theorem Part.Latching.gateFirst {c kind : Nat} {t : Instant} : (p.gateFirst c kind t).Latching b := by
  have hstamp : ({ p with pwm := { p.pwm with ffTime := t } } : Part).Latching b := h.same rfl rfl rfl
  exact .ite (hstamp.setReg (by decide)) h

theorem Part.Latching.hostFault : p.hostFault.Latching b := h.setFld (by decide)

theorem Part.Latching.evalLeg {l : Nat} {t : Instant} (hl : l < 24) : (p.evalLeg t l).Latching b :=
  ((Part.Driven.refl p).evalLeg hl).latching.trans h

theorem Part.Latching.latchLeg {l : Nat} {t : Instant} (hl : l < 24) : (p.latchLeg t l).Latching b :=
  (((h.riseLatch hl).setFld (by decide)).hostFault.keepLatch).evalLeg hl

end

end

/-! A gate fault. -/

/-- A fault of a channel is counted. -/
def Part.faultCounted (p : Part) (c : Nat) : Part := p.countSat (Reg.GATE_CHSTAT c) 0 16

/-- A fault of a channel is entered with its kind and its time. -/
def Part.faultEntered (p : Part) (c kind : Nat) (t : Instant) : Part :=
  (((p.faultCounted c).setBit (Reg.GATE_CHSTAT c) 31 true).setFld (Reg.GATE_CHSTAT c) 16 4 kind).setStamp (Reg.GATE_FTS_LO c)
    ((p.faultCounted c).ringOf t)

/-- The leg of a faulty channel latches, and the record names the channel. -/
def Part.faultLatched (p : Part) (c kind : Nat) (t : Instant) (l : Nat) : Part :=
  let opens := !p.bit Reg.GATE_FFIRST 31
  let p := p.gateFirst c kind t
  let new := !p.latched l
  let p := (p.keepLatch l).when new (fun p => (p.latchLeg t l).report 0x11)
  (p.askDrivers l).hostFault.when opens (·.capEvent 0x412 t)

theorem legOfPair_lt {p : Part} {q l : Nat} (h : p.legOfPair q = some l) : l < 24 := List.mem_range.1 (List.mem_of_find?_eq_some h)

theorem Part.faultLatched_latching (p : Part) (c kind : Nat) (t : Instant) {l : Nat} (hl : l < 24) :
    (p.faultLatched c kind t l).Latching p :=
  ((((Part.Latching.refl p).gateFirst.keepLatch.when fun _ hq => (hq.latchLeg hl).report).askDrivers).hostFault).when
    fun _ hq => hq.capEvent

theorem Part.latched_faultLatched (p : Part) (c kind : Nat) (t : Instant) {l : Nat} (hl : l < 24) :
    (p.faultLatched c kind t l).latched l = true := by
  have hrest (q : Part) (b : Bool) : ((q.askDrivers l).hostFault.when b (·.capEvent 0x412 t)).Latching q :=
    (Part.Latching.refl q).askDrivers.hostFault.when fun _ hq => hq.capEvent
  refine (hrest _ _).stays l ?_
  generalize p.gateFirst c kind t = q
  cases hq : q.latched l with
  | true => exact hq
  | false =>
    rw [Part.when_true (by simp)]
    exact (Part.Latching.refl _).report.stays l (Part.latched_latchLeg _ t hl)

theorem chstat_offsets {c d : Nat} : Reg.GATE_CHSTAT c ≠ Reg.GATE_FTS_LO d ∧ Reg.GATE_CHSTAT c ≠ Reg.GATE_FTS_LO d + 4 ∧
    Reg.GATE_CHSTAT c ≠ Reg.GATE_FTS_LO d + 8 := by
  unfold Reg.GATE_CHSTAT Reg.GATE_FTS_LO
  omega

theorem Part.reg_setStamp (p : Part) {lo off : Nat} (t : Instant) (h : off ≠ lo ∧ off ≠ lo + 4 ∧ off ≠ lo + 8) :
    (p.setStamp lo t).reg off = p.reg off := by
  obtain ⟨hlo, hhi, hfr⟩ := h
  rw [Part.setStamp, Part.reg_setReg, if_neg hfr, Part.setTime, Part.reg_setReg, if_neg hhi, Part.reg_setReg, if_neg hlo]

section
variable {p : Part} {c kind : Nat} {t : Instant}

/-- What the status word of a channel shows of a fault that is counted and one that is entered. -/
theorem Part.fld_faultCounted : (p.faultCounted c).fld (Reg.GATE_CHSTAT c) 0 16 =
    min (p.fld (Reg.GATE_CHSTAT c) 0 16 + 1) 65535 := Part.fld_countSat p _ (by decide)

theorem Part.faultEntered_status (hk : kind < 16) :
    (p.faultEntered c kind t).fld (Reg.GATE_CHSTAT c) 0 16 = min (p.fld (Reg.GATE_CHSTAT c) 0 16 + 1) 65535 ∧
      (p.faultEntered c kind t).bit (Reg.GATE_CHSTAT c) 31 = true ∧
      (p.faultEntered c kind t).fld (Reg.GATE_CHSTAT c) 16 4 = kind := by
  have hstamp : (p.faultEntered c kind t).reg (Reg.GATE_CHSTAT c) = (((p.faultCounted c).setBit (Reg.GATE_CHSTAT c) 31 true).setFld
      (Reg.GATE_CHSTAT c) 16 4 kind).reg (Reg.GATE_CHSTAT c) := Part.reg_setStamp _ _ chstat_offsets
  refine ⟨?_, ?_, ?_⟩
  · rw [Part.fld, hstamp, ← Part.fld, Part.fld_setFld_apart _ _ _ _ _ _ _ (by decide) (by decide), Part.setBit,
      Part.fld_setFld_apart _ _ _ _ _ _ _ (by decide) (by decide), Part.fld_faultCounted]
  · rw [Part.bit, hstamp, Part.reg_setFld, if_pos rfl, bitAt_setBits_ne _ _ _ _ _ (by decide) (by decide), ← Part.bit]
    exact Part.bit_setBit_same _ _ _ _ (by decide)
  · rw [Part.fld, hstamp, ← Part.fld, Part.fld_setFld_same _ _ _ _ _ (by decide)]
    exact Nat.mod_eq_of_lt hk

theorem Part.faultCounted_regs : RegsBut p (p.faultCounted c) [Reg.GATE_CHSTAT c] := .setFld (by simp)

theorem Part.faultEntered_regs : RegsBut p (p.faultEntered c kind t) [Reg.GATE_CHSTAT c, Reg.GATE_FTS_LO c, Reg.GATE_FTS_LO c + 4,
    Reg.GATE_FTS_LO c + 8] := by
  intro off hoff
  simp only [List.mem_cons, List.not_mem_nil, or_false, not_or] at hoff
  obtain ⟨hst, hlo, hhi, hfr⟩ := hoff
  rw [Part.faultEntered, Part.reg_setStamp _ _ ⟨hlo, hhi, hfr⟩, Part.reg_setFld, if_neg hst, Part.reg_setBit, if_neg hst,
    Part.faultCounted_regs off (by simpa using hst)]

theorem Part.setStamp_pwm (p : Part) (lo : Nat) (t : Instant) : (p.setStamp lo t).pwm = p.pwm := rfl

theorem Part.faultEntered_pwm : (p.faultEntered c kind t).pwm = p.pwm := by
  rw [Part.faultEntered, Part.setStamp_pwm, Part.pwm_setFld, Part.pwm_setBit, Part.faultCounted, Part.countSat, Part.pwm_setFld]

/-! The leg of a channel rests on the settings of pairs and legs and on the maps. -/

/-- Registers that name the leg of a channel. -/
abbrev NamesLeg (off : Nat) : Prop := (0x153400 ≤ off ∧ off < 0x153460) ∨ (0x162200 ≤ off ∧ off < 0x162220)

theorem Part.chanHome_of_regs {q : Part} (h : ∀ off, NamesLeg off → q.reg off = p.reg off) (hc : c < 56) :
    q.chanHome c = p.chanHome c := by
  unfold Part.chanHome
  split
  · rfl
  · rw [Part.fld, h _ (by simp only [NamesLeg, Reg.GATE_RSVMAP]; omega), Part.fld]

theorem Part.legOfPair_of_regs {q : Part} (h : ∀ off, NamesLeg off → q.reg off = p.reg off) (k : Nat) :
    q.legOfPair k = p.legOfPair k := by
  refine List.find?_congr fun l hl => ?_
  have hcfg : q.reg (Reg.PWM_LEGCFG l) = p.reg (Reg.PWM_LEGCFG l) := by
    refine h _ ?_
    have hlt := List.mem_range.1 hl
    simp only [NamesLeg, Reg.PWM_LEGCFG]
    omega
  unfold Part.legOn Part.legNpc Part.legP0 Part.legP1 Part.bit Part.fld
  rw [hcfg]

theorem Part.faultEntered_namesLeg (hc : c < 56) : ∀ off, NamesLeg off → (p.faultEntered c kind t).reg off = p.reg off := by
  intro off ho
  refine Part.faultEntered_regs off ?_
  simp only [List.mem_cons, List.not_mem_nil, or_false, NamesLeg, Reg.GATE_CHSTAT, Reg.GATE_FTS_LO] at *
  omega

/-! The three outcomes of a fault. -/

theorem Part.floor_faultCounted (hc : c < 56) : (p.faultCounted c).floor = p.floor := by
  have hoff : Reg.PAIR_STAT ∉ [Reg.GATE_CHSTAT c] := by
    simp only [List.mem_cons, List.not_mem_nil, or_false, Reg.PAIR_STAT, Reg.GATE_CHSTAT]
    omega
  rw [Part.floor, Part.bit, Part.faultCounted_regs _ hoff, ← Part.bit, ← Part.floor]

theorem Part.gateFault_noFloor (hc : c < 56) (hf : p.floor = false) : p.gateFault c kind t = p.faultCounted c := by
  have hstop : (!(p.faultCounted c).floor) = true := by rw [Part.floor_faultCounted hc, hf]; rfl
  exact if_pos hstop

theorem Part.gateFault_floor (hc : c < 56) (hf : p.floor = true) : p.gateFault c kind t =
    match p.legOfPair (p.chanHome c / 2) with
    | none => p.faultEntered c kind t
    | some l => (p.faultEntered c kind t).faultLatched c kind t l := by
  have hgo : ¬ (!(p.faultCounted c).floor) = true := by rw [Part.floor_faultCounted hc, hf]; decide
  have hnames := Part.faultEntered_namesLeg (p := p) (kind := kind) (t := t) hc
  rw [← Part.legOfPair_of_regs hnames, ← Part.chanHome_of_regs hnames hc]
  refine (if_neg hgo).trans ?_
  rfl

theorem Part.gateFault_noLeg (hc : c < 56) (hf : p.floor = true) (hleg : p.legOfPair (p.chanHome c / 2) = none) :
    p.gateFault c kind t = p.faultEntered c kind t := by
  rw [Part.gateFault_floor hc hf, hleg]

theorem Part.gateFault_leg (hc : c < 56) (hf : p.floor = true) {l : Nat} (hleg : p.legOfPair (p.chanHome c / 2) = some l) :
    p.gateFault c kind t = (p.faultEntered c kind t).faultLatched c kind t l := by
  rw [Part.gateFault_floor hc hf, hleg]

end

end Sys2Proof.Machine
end

section
/-! PROOFS. Returns, timeouts and pads (R210, R214, R219), and the clears of a leg's latch (R217). -/

namespace Sys2Proof.Machine

/-- From `b` to `p` a fault of `kind` was found on channel `c`: it is counted; with the floor it is entered and the leg that names the
channel is latched, without it no latch changes. -/
def Part.FaultOn (b p : Part) (c kind : Nat) : Prop :=
  p.fld (Reg.GATE_CHSTAT c) 0 16 = min (b.fld (Reg.GATE_CHSTAT c) 0 16 + 1) 65535 ∧
  (b.floor = true → p.bit (Reg.GATE_CHSTAT c) 31 = true ∧ p.fld (Reg.GATE_CHSTAT c) 16 4 = kind ∧
    ∀ l, b.legOfPair (b.chanHome c / 2) = some l → p.latched l = true) ∧
  (b.floor = false → p.reg Reg.GATE_LATCH = b.reg Reg.GATE_LATCH)

/-- What a fault and the evaluations after it leave of the returns. -/
structure Part.SameReturns (p b : Part) : Prop where
  gs : ∀ c < 56, p.gs c = b.gs c
  map : ∀ r < 8, p.fld (Reg.GATE_RSVMAP r) 0 6 = b.fld (Reg.GATE_RSVMAP r) 0 6
  swaps : ∀ r, (p.gateSwap r).phase = (b.gateSwap r).phase

theorem latchFree_chstat {c : Nat} (hc : c < 56) : LatchFree (Reg.GATE_CHSTAT c) := by
  simp only [LatchFree, Reg.GATE_CHSTAT]
  omega

theorem latchFree_returns {c : Nat} (hc : c < 56) :
    LatchFree (chanReg Reg.GATE_GS_LO c) ∧ chanReg Reg.GATE_GS_LO c < 0x160020 := by
  simp only [LatchFree, chanReg, Reg.GATE_GS_LO]
  omega

theorem latchFree_map {r : Nat} (hr : r < 8) : LatchFree (Reg.GATE_RSVMAP r) ∧ 0x162200 ≤ Reg.GATE_RSVMAP r := by
  simp only [LatchFree, Reg.GATE_RSVMAP]
  omega

section
variable {p q b : Part} {c kind : Nat} {t : Instant}

theorem Part.FaultOn.latching (h : b.FaultOn q c kind) (hc : c < 56) (hp : p.Latching q)
    (hlatch : b.floor = false → p.reg Reg.GATE_LATCH = q.reg Reg.GATE_LATCH) : b.FaultOn p c kind := by
  have hreg := hp.reg _ (latchFree_chstat hc)
  obtain ⟨hcount, hfloor, hno⟩ := h
  refine ⟨?_, fun hf => ?_, fun hf => (hlatch hf).trans (hno hf)⟩
  · rw [Part.fld, hreg, ← Part.fld, hcount]
  · obtain ⟨hbit, hkind, hl⟩ := hfloor hf
    exact ⟨by rw [Part.bit, hreg, ← Part.bit, hbit], by rw [Part.fld, hreg, ← Part.fld, hkind],
      fun l hleg => hp.stays l (hl l hleg)⟩

/-- An evaluation keeps what a fault has made of the part. -/
theorem Part.FaultOn.driven (h : b.FaultOn q c kind) (hc : c < 56) (hp : p.Driven q) : b.FaultOn p c kind :=
  h.latching hc hp.latching fun _ => hp.reg _ (by decide)

/-- A gate fault. -/
theorem Part.faultOn_gateFault (p : Part) (t : Instant) (hc : c < 56) (hk : kind < 16) : p.FaultOn (p.gateFault c kind t) c kind := by
  obtain ⟨hcount, hbit, hkind⟩ := Part.faultEntered_status (p := p) (c := c) (t := t) hk
  cases hf : p.floor with
  | false =>
    rw [Part.gateFault_noFloor hc hf]
    refine ⟨Part.fld_faultCounted, fun h => absurd (hf.symm.trans h) (by decide), fun _ => ?_⟩
    refine Part.faultCounted_regs _ ?_
    simp only [List.mem_cons, List.not_mem_nil, or_false, Reg.GATE_LATCH, Reg.GATE_CHSTAT]
    omega
  | true =>
    have hnot : ¬ p.floor = false := by rw [hf]; decide
    cases hleg : p.legOfPair (p.chanHome c / 2) with
    | none =>
      rw [Part.gateFault_noLeg hc hf hleg]
      refine ⟨hcount, fun _ => ⟨hbit, hkind, fun l hl => ?_⟩, fun h => absurd h hnot⟩
      rw [hleg] at hl
      exact absurd hl nofun
    | some l =>
      rw [Part.gateFault_leg hc hf hleg]
      have hl24 := legOfPair_lt hleg
      have hreg := ((p.faultEntered c kind t).faultLatched_latching c kind t hl24).reg _ (latchFree_chstat hc)
      refine ⟨by rw [Part.fld, hreg, ← Part.fld, hcount], fun _ => ⟨by rw [Part.bit, hreg, ← Part.bit, hbit],
        by rw [Part.fld, hreg, ← Part.fld, hkind], fun k hk => ?_⟩, fun h => absurd h hnot⟩
      rw [hleg] at hk
      obtain rfl := Option.some.inj hk
      exact Part.latched_faultLatched _ c kind t hl24

/-- A fault of a part whose channel stands as another's. -/
theorem Part.FaultOn.of_base (h : q.FaultOn p c kind) (hst : q.reg (Reg.GATE_CHSTAT c) = b.reg (Reg.GATE_CHSTAT c))
    (hlatch : q.reg Reg.GATE_LATCH = b.reg Reg.GATE_LATCH) (hfloor : q.floor = b.floor)
    (hleg : q.legOfPair (q.chanHome c / 2) = b.legOfPair (b.chanHome c / 2)) : b.FaultOn p c kind := by
  have hfld : q.fld (Reg.GATE_CHSTAT c) 0 16 = b.fld (Reg.GATE_CHSTAT c) 0 16 := by rw [Part.fld, hst, ← Part.fld]
  unfold Part.FaultOn at *
  rwa [hlatch, hfloor, hleg, hfld] at h

/-! What a fault leaves of the returns and pads. -/

theorem Part.Latching.sameReturns (h : p.Latching b) : p.SameReturns b where
  gs c hc := by rw [Part.gs, Part.bit, h.reg _ (latchFree_returns hc).1, ← Part.bit, ← Part.gs]
  map r hr := by rw [Part.fld, h.reg _ (latchFree_map hr).1, ← Part.fld]
  swaps r := by rw [Part.gateSwap, h.swaps, ← Part.gateSwap]

theorem Part.SameReturns.trans (h1 : p.SameReturns q) (h2 : q.SameReturns b) : p.SameReturns b where
  gs c hc := (h1.gs c hc).trans (h2.gs c hc)
  map r hr := (h1.map r hr).trans (h2.map r hr)
  swaps r := (h1.swaps r).trans (h2.swaps r)

theorem Part.SameReturns.of_regs (hregs : ∀ off, off < 0x160020 ∨ 0x162200 ≤ off ∧ off < 0x162220 → p.reg off = b.reg off)
    (hpwm : p.pwm = b.pwm) : p.SameReturns b where
  gs c hc := by rw [Part.gs, Part.bit, hregs _ (.inl (latchFree_returns hc).2), ← Part.bit, ← Part.gs]
  map r hr := by
    rw [Part.fld, hregs _ (.inr ?_), ← Part.fld]
    simp only [Reg.GATE_RSVMAP]
    omega
  swaps r := by rw [Part.gateSwap_of_pwm hpwm]

theorem Part.faultEntered_sameReturns (hc : c < 56) : (p.faultEntered c kind t).SameReturns p := by
  refine .of_regs (fun off ho => Part.faultEntered_regs off ?_) Part.faultEntered_pwm
  simp only [List.mem_cons, List.not_mem_nil, or_false, Reg.GATE_CHSTAT, Reg.GATE_FTS_LO]
  omega

theorem Part.faultCounted_pwm : (p.faultCounted c).pwm = p.pwm := by rw [Part.faultCounted, Part.countSat, Part.pwm_setFld]

theorem Part.faultCounted_sameReturns (hc : c < 56) : (p.faultCounted c).SameReturns p := by
  refine .of_regs (fun off ho => Part.faultCounted_regs off ?_) Part.faultCounted_pwm
  simp only [List.mem_cons, List.not_mem_nil, or_false, Reg.GATE_CHSTAT]
  omega

/-- A gate fault leaves the returns and the pads. -/
theorem Part.gateFault_keeps (hc : c < 56) :
    (p.gateFault c kind t).SameReturns p ∧ (p.gateFault c kind t).pwm.padBad = p.pwm.padBad := by
  have hpads := congrArg (·.padBad) (Part.faultEntered_pwm (p := p) (c := c) (kind := kind) (t := t))
  cases hf : p.floor with
  | false =>
    rw [Part.gateFault_noFloor hc hf, Part.faultCounted_pwm]
    exact ⟨Part.faultCounted_sameReturns hc, rfl⟩
  | true =>
    cases hleg : p.legOfPair (p.chanHome c / 2) with
    | none =>
      rw [Part.gateFault_noLeg hc hf hleg]
      exact ⟨Part.faultEntered_sameReturns hc, hpads⟩
    | some l =>
      rw [Part.gateFault_leg hc hf hleg]
      have h := (p.faultEntered c kind t).faultLatched_latching c kind t (legOfPair_lt hleg)
      exact ⟨h.sameReturns.trans (Part.faultEntered_sameReturns hc), h.padBad.trans hpads⟩

/-! The return that speaks for a partner. -/

theorem Part.chanHome_of_maps (h : ∀ r < 8, p.fld (Reg.GATE_RSVMAP r) 0 6 = b.fld (Reg.GATE_RSVMAP r) 0 6) (hc : c < 56) :
    p.chanHome c = b.chanHome c := by
  unfold Part.chanHome
  split
  · rfl
  · exact h _ (by omega)

theorem Part.gateCopies_of_maps (h : ∀ r < 8, p.fld (Reg.GATE_RSVMAP r) 0 6 = b.fld (Reg.GATE_RSVMAP r) 0 6)
    (hs : ∀ r, (p.gateSwap r).phase = (b.gateSwap r).phase) (d : Nat) : p.gateCopies d = b.gateCopies d := by
  refine List.filter_congr fun r hr => ?_
  have hphase := hs r
  unfold Part.gateSwap at hphase
  rw [hphase, h r (List.mem_range.1 hr)]

/-- Where the return of a channel that stands neither for `d` nor in its place changes, that of `d` does not. -/
theorem Part.ret_of_maps (h : ∀ r < 8, p.fld (Reg.GATE_RSVMAP r) 0 6 = b.fld (Reg.GATE_RSVMAP r) 0 6)
    (hs : ∀ r, (p.gateSwap r).phase = (b.gateSwap r).phase) {d : Nat}
    (hgs : p.gs d = b.gs d) (hrsv : ∀ r ∈ b.gateCopies d, p.gs (48 + r) = b.gs (48 + r)) : p.ret d = b.ret d := by
  have hfind : (fun r => decide ((vget {} p.pwm.swaps r).phase = .inService)) =
      fun r => decide ((vget {} b.pwm.swaps r).phase = .inService) := by
    funext r
    have hphase := hs r
    unfold Part.gateSwap at hphase
    rw [hphase]
  unfold Part.ret
  rw [Part.gateCopies_of_maps h hs, hfind]
  split
  next r hr => exact hrsv r (List.mem_of_find?_eq_some hr)
  · exact hgs

theorem Part.SameReturns.ret (h : p.SameReturns b) {d : Nat} (hd : d < 56) : p.ret d = b.ret d :=
  Part.ret_of_maps h.map h.swaps (h.gs d hd) fun r hr => h.gs _ (by have := Part.lt_of_mem_gateCopies hr; omega)

theorem Part.SameReturns.chanPartner (h : p.SameReturns b) (hc : c < 56) : p.chanPartner c = b.chanPartner c := by
  rw [Part.chanPartner, Part.chanHome_of_maps h.map hc, Part.chanPartner]

theorem Part.chanPartner_lt (hhome : p.chanHome c < 48) : p.chanPartner c < 48 := by
  unfold Part.chanPartner
  omega

end

end Sys2Proof.Machine
end

section
/-! PROOFS. The rows of the gate faults (R210, R214, R217, R219). -/

namespace Sys2Proof.Machine

theorem exec_gsReturn (c : Fin 56) (level : Bool) (t : Instant) (s : State) :
    exec (.gsReturn c level t) s = s.run (·.gsReturn c.val level t) := by rfl

theorem exec_gateTimeout (c : Fin 56) (t : Instant) (s : State) :
    exec (.gateTimeout c t) s = s.run (·.gateTimeout c.val t) := by rfl

theorem exec_padFault (c : Fin 56) (bad : Bool) (t : Instant) (s : State) :
    exec (.padFault c bad t) s = s.run (·.padFault c.val bad t) := by rfl

theorem exec_gateTripclr (v : Word) (t : Instant) (s : State) : exec (.gateTripclr v t) s = s.run (·.gateTripClr v t) := by rfl

theorem exec_tripLatchClear (l : Fin 24) (t : Instant) (s : State) :
    exec (.tripLatchClear l t) s = s.run (·.latchClear l.val t) := by rfl

theorem exec_gateFrearm (v : Word) (s : State) : exec (.gateFrearm v) s = s.run (·.gateRearm v) := by rfl

/-! A return that changes (R210, R221). -/

/-- From `b` to `p` the returns of a reserve and its target were compared: registers, phases and the last edges stay. -/
structure Part.Compared (p b : Part) : Prop where
  reg : ∀ off, p.reg off = b.reg off
  phase : ∀ r, (p.gateSwap r).phase = (b.gateSwap r).phase
  edge : ∀ c, p.edgeAt c = b.edgeAt c

section
variable {p q b : Part} {c : Nat} {on : Bool} {t : Instant}

theorem Part.Compared.setGateSwap (h : p.Compared b) {r : Nat} {x : GateSwap} (hx : x.phase = (p.gateSwap r).phase) :
    (p.setGateSwap r x).Compared b where
  reg := h.reg
  phase k := by
    rw [← h.phase k, Part.gateSwap, Part.setGateSwap, vget_vset]
    split
    next hk => rw [hx, hk.1]
    · rfl
  edge := h.edge

theorem Part.Compared.each (h : p.Compared b) {f : Part → Nat → Part} (hf : ∀ q r, q.Compared b → (f q r).Compared b)
    (l : List Nat) : (p.each l f).Compared b := by
  induction l generalizing p with
  | nil => exact h
  | cons r l ih => exact ih (hf p r h)

theorem Part.compareReturns_compared (p : Part) (c : Nat) (t : Instant) : (p.compareReturns c t).Compared p := by
  refine .each ⟨fun _ => rfl, fun _ => rfl, fun _ => rfl⟩ (fun q r hq => ?_) _
  dsimp only
  split
  · exact hq
  split
  · exact hq.setGateSwap rfl
  · exact hq.setGateSwap rfl

/-- The part whose return of channel `c` shows `on`, before any fault is judged. -/
def Part.returned (p : Part) (c : Nat) (on : Bool) (t : Instant) : Part :=
  ((p.setBit (chanReg Reg.GATE_GS_LO c) (c % 32) on).noteShown c false).compareReturns c t

theorem Part.returned_compared (p : Part) (c : Nat) (on : Bool) (t : Instant) :
    (p.returned c on t).Compared (p.setBit (chanReg Reg.GATE_GS_LO c) (c % 32) on) :=
  have h := Part.compareReturns_compared ((p.setBit (chanReg Reg.GATE_GS_LO c) (c % 32) on).noteShown c false) c t
  ⟨h.reg, h.phase, h.edge⟩

theorem Part.returned_regs : RegsBut p (p.returned c on t) [chanReg Reg.GATE_GS_LO c] := by
  intro off ho
  rw [(p.returned_compared c on t).reg, Part.reg_setBit, if_neg (by simpa using ho)]

theorem Part.gs_returned (k : Nat) : (p.returned c on t).gs k = if k = c then on else p.gs k := by
  have hreg := (p.returned_compared c on t).reg (chanReg Reg.GATE_GS_LO k)
  rw [Part.gs, Part.bit, hreg, ← Part.bit]
  by_cases hword : k / 32 = c / 32
  · rw [chanReg, chanReg, hword, Part.bit_setBit _ _ (Nat.mod_lt _ (by decide)), Part.gs, chanReg, hword]
    simp only [show k % 32 = c % 32 ↔ k = c by omega]
  · rw [Part.bit_setBit_ne _ _ (by unfold chanReg; omega), if_neg (by omega), Part.gs]

/-- A register of the gate block beside the returns stays where a return changes. -/
theorem Part.reg_returned {off : Nat} (hc : c < 56) (ho : off < 0x160018 ∨ 0x160020 ≤ off) :
    (p.returned c on t).reg off = p.reg off := by
  refine Part.returned_regs off ?_
  simp only [List.mem_cons, List.not_mem_nil, or_false, chanReg, Reg.GATE_GS_LO]
  omega

theorem Part.map_returned (hc : c < 56) (r : Nat) :
    (p.returned c on t).fld (Reg.GATE_RSVMAP r) 0 6 = p.fld (Reg.GATE_RSVMAP r) 0 6 := by
  rw [Part.fld, Part.reg_returned hc (.inr (by unfold Reg.GATE_RSVMAP; omega)), ← Part.fld]

theorem Part.phase_returned (r : Nat) : ((p.returned c on t).gateSwap r).phase = (p.gateSwap r).phase :=
  (p.returned_compared c on t).phase r

theorem Part.chanHome_returned (hc : c < 56) : (p.returned c on t).chanHome c = p.chanHome c :=
  Part.chanHome_of_maps (fun r _ => Part.map_returned hc r) hc

theorem Part.chanPartner_returned (hc : c < 56) : (p.returned c on t).chanPartner c = p.chanPartner c := by
  rw [Part.chanPartner, Part.chanHome_returned hc, Part.chanPartner]

/-- The return that speaks for the partner of a channel is not the channel's own. -/
theorem Part.ret_returned (hc : c < 56) (hhome : p.chanHome c < 48) :
    (p.returned c on t).ret (p.chanPartner c) = p.ret (p.chanPartner c) := by
  refine Part.ret_of_maps (fun r _ => Part.map_returned hc r) Part.phase_returned ?_ fun r hr => ?_
  · rw [Part.gs_returned, if_neg]
    intro he
    have hlt := Part.chanPartner_lt hhome
    have hself : p.chanHome c = c := if_pos (by omega)
    rw [Part.chanPartner, hself] at he
    omega
  · rw [Part.gs_returned, if_neg]
    rintro rfl
    -- a reserve that is `c` has the target of `c`, not its partner
    obtain ⟨-, hmap⟩ : (vget {} p.pwm.swaps r).phase ≠ .idle ∧ p.fld (Reg.GATE_RSVMAP r) 0 6 = p.chanPartner (48 + r) := by
      simpa using (List.mem_filter.1 hr).2
    have hself : p.chanHome (48 + r) = p.fld (Reg.GATE_RSVMAP r) 0 6 := by
      rw [Part.chanHome, if_neg (by omega), Nat.add_sub_cancel_left]
    rw [Part.chanPartner, hself] at hmap
    omega

/-- Whether a channel's handshake faults are evaluated: it is checked, and STO leaves the supply (R210, R214). -/
def Part.faultsJudged (p : Part) (c : Nat) : Bool := p.chanChecked c && !p.stoHold

theorem Part.faultsJudged_iff : p.faultsJudged c = true ↔ p.chanChecked c = true ∧ p.stoHold = false := by
  simp [Part.faultsJudged]

theorem Part.faultsJudged_returned (hc : c < 56) : (p.returned c on t).faultsJudged c = p.faultsJudged c := by
  have hpair : c < 48 → (p.returned c on t).pairOn (c / 2) = p.pairOn (c / 2) := fun h48 => by
    rw [Part.pairOn, Part.bit, Part.reg_returned hc (.inl (by unfold Reg.PWM_PCFG; omega)), ← Part.bit, ← Part.pairOn]
  have hsto : (p.returned c on t).stoHold = p.stoHold := by
    rw [Part.stoHold, Part.bit, Part.reg_returned hc (.inl (by decide)), ← Part.bit, ← Part.stoHold]
  unfold Part.faultsJudged Part.chanChecked
  rw [hsto, Part.phase_returned]
  split
  next h48 => rw [hpair h48]
  · rfl

/-- The instant from which a return that disagrees is late. -/
def Part.faultDue (p : Part) (c : Nat) : Instant := p.edgeAt c + p.tout c

theorem Part.faultDue_returned (hc : c < 56) : (p.returned c on t).faultDue c = p.faultDue c := by
  rw [Part.faultDue, Part.tout, Part.fld, Part.reg_returned hc (.inr (by unfold Reg.GATE_CCFG; omega)), ← Part.fld, ← Part.tout,
    (p.returned_compared c on t).edge]
  rfl

/-- The faults of a return that shows `on`, and the evaluation of its leg. -/
def Part.returnJudged (p : Part) (c : Nat) (on : Bool) (t : Instant) : Part :=
  let q := p.when (p.faultsJudged c && p.faultDue c < t) (·.gateFault c 3 t)
  (q.when (p.faultsJudged c && on && q.ret (q.chanPartner c)) (·.gateFault c 4 t)).evalChan c t

theorem Part.gsReturn_same {level : Bool} (h : p.gs c = xor level (p.bit (Reg.GATE_CCFG c) 30)) :
    p.gsReturn c level t = p.at t := if_pos h

theorem Part.gsReturn_changed {level : Bool} (h : p.gs c ≠ xor level (p.bit (Reg.GATE_CCFG c) 30)) :
    p.gsReturn c level t = ((p.at t).returned c (xor level (p.bit (Reg.GATE_CCFG c) 30)) t).returnJudged c
      (xor level (p.bit (Reg.GATE_CCFG c) 30)) t := if_neg h

theorem Part.evalChan_driven (p : Part) (c : Nat) (t : Instant) : (p.evalChan c t).Driven p := by
  unfold Part.evalChan
  split
  next l hl => exact (Part.Driven.refl p).evalLeg (legOfPair_lt hl)
  · exact .refl p

theorem Part.SameReturns.refl (p : Part) : p.SameReturns p := ⟨fun _ _ => rfl, fun _ _ => rfl, fun _ => rfl⟩

theorem Part.when_gateFault_returns (hc : c < 56) (b : Bool) (kind : Nat) :
    (p.when b (·.gateFault c kind t)).SameReturns p := by
  cases b
  · exact .refl p
  · exact (Part.gateFault_keeps hc).1

section
variable (hc : c < 56)
include hc

theorem Part.returnJudged_returns : (p.returnJudged c on t).SameReturns p :=
  ((Part.evalChan_driven _ c t).latching.sameReturns.trans (Part.when_gateFault_returns hc _ 4)).trans
    (Part.when_gateFault_returns hc _ 3)

/-- Under a command that has stood for TOUT a return that changes is kind 3. -/
theorem Part.returnJudged_spurious (hj : p.faultsJudged c = true) (hlate : p.faultDue c < t) (hhome : p.chanHome c < 48)
    (hboth : on = false ∨ p.ret (p.chanPartner c) = false) : p.FaultOn (p.returnJudged c on t) c 3 := by
  have hsame : (p.gateFault c 3 t).SameReturns p := (Part.gateFault_keeps hc).1
  have hret : (p.gateFault c 3 t).ret ((p.gateFault c 3 t).chanPartner c) = p.ret (p.chanPartner c) := by
    rw [hsame.chanPartner hc, hsame.ret (Nat.lt_trans (Part.chanPartner_lt hhome) (by decide))]
  unfold Part.returnJudged
  rw [hj, Part.when_true (by simpa using hlate)]
  dsimp only
  rw [hret, Part.when_false (by rcases hboth with h | h <;> simp [h])]
  exact (Part.faultOn_gateFault p t hc (by decide)).driven hc (Part.evalChan_driven _ c t)

/-- Under a young command a return that shows on beside that of the partner is kind 4. -/
theorem Part.returnJudged_bothOn (hj : p.faultsJudged c = true) (hyoung : t ≤ p.faultDue c)
    (hret : p.ret (p.chanPartner c) = true) : p.FaultOn (p.returnJudged c true t) c 4 := by
  unfold Part.returnJudged
  rw [hj, Part.when_false (by simpa using hyoung)]
  dsimp only
  rw [hret, Part.when_true (c := true && true && true) rfl]
  exact (Part.faultOn_gateFault p t hc (by decide)).driven hc (Part.evalChan_driven _ c t)

omit hc in
/-- Where nothing is judged a change evaluates the leg alone. -/
theorem Part.returnJudged_unjudged
    (h : p.faultsJudged c = false ∨ (t ≤ p.faultDue c ∧ (on = false ∨ p.ret (p.chanPartner c) = false))) :
    (p.returnJudged c on t).Driven p := by
  have hlate : (p.faultsJudged c && decide (p.faultDue c < t)) = false := by
    rcases h with h | ⟨h, -⟩
    · rw [h]; rfl
    · simp [h]
  have hboth : (p.faultsJudged c && on && p.ret (p.chanPartner c)) = false := by
    rcases h with h | ⟨-, h⟩
    · rw [h]; rfl
    · rcases h with h | h <;> simp [h]
  unfold Part.returnJudged
  rw [Part.when_false hlate]
  dsimp only
  rw [Part.when_false hboth]
  exact Part.evalChan_driven p c t

/-- A fault found where a return has changed is a fault of the part before. -/
theorem Part.FaultOn.of_returned {kind : Nat} (h : (p.returned c on t).FaultOn q c kind) : p.FaultOn q c kind := by
  have hnames : ∀ off, NamesLeg off → (p.returned c on t).reg off = p.reg off := fun off ho =>
    Part.reg_returned hc (by simp only [NamesLeg] at ho; omega)
  refine h.of_base (Part.reg_returned hc (.inr (by unfold Reg.GATE_CHSTAT; omega))) (Part.reg_returned hc (.inl (by decide))) ?_ ?_
  · rw [Part.floor, Part.bit, Part.reg_returned hc (.inr (by decide)), ← Part.bit, ← Part.floor]
  · rw [Part.legOfPair_of_regs hnames, Part.chanHome_of_regs hnames hc]

/-- A return that changes: what is shown, and the faults it may be. -/
theorem Part.returned_judged (hhome : p.chanHome c < 48) :
    ((p.returned c on t).returnJudged c on t).gs c = on ∧
    (∀ k < 56, k ≠ c → ((p.returned c on t).returnJudged c on t).gs k = p.gs k) ∧
    (p.faultsJudged c = true → p.faultDue c < t → (on = false ∨ p.ret (p.chanPartner c) = false) →
      p.FaultOn ((p.returned c on t).returnJudged c on t) c 3) ∧
    (p.faultsJudged c = true → t ≤ p.faultDue c → on = true → p.ret (p.chanPartner c) = true →
      p.FaultOn ((p.returned c on t).returnJudged c on t) c 4) ∧
    ((p.faultsJudged c = false ∨ (t ≤ p.faultDue c ∧ (on = false ∨ p.ret (p.chanPartner c) = false))) →
      ∀ off ∈ [Reg.GATE_CHSTAT c, Reg.GATE_LATCH], ((p.returned c on t).returnJudged c on t).reg off = p.reg off) := by
  have hsame : ((p.returned c on t).returnJudged c on t).SameReturns (p.returned c on t) := Part.returnJudged_returns hc
  have hret : (p.returned c on t).ret ((p.returned c on t).chanPartner c) = p.ret (p.chanPartner c) := by
    rw [Part.chanPartner_returned hc, Part.ret_returned hc hhome]
  have hself : (p.returned c on t).gs c = on := by rw [Part.gs_returned, if_pos rfl]
  have hother (k : Nat) (hne : k ≠ c) : (p.returned c on t).gs k = p.gs k := by rw [Part.gs_returned, if_neg hne]
  have hreg (off : Nat) (ho : off < 0x160018 ∨ 0x160020 ≤ off) : (p.returned c on t).reg off = p.reg off :=
    Part.reg_returned hc ho
  have hjudged := Part.faultsJudged_returned (p := p) (on := on) (t := t) hc
  have hdue := Part.faultDue_returned (p := p) (on := on) (t := t) hc
  have hhome' : (p.returned c on t).chanHome c < 48 := by rwa [Part.chanHome_returned hc]
  have hof (kind : Nat) (h : (p.returned c on t).FaultOn ((p.returned c on t).returnJudged c on t) c kind) :
      p.FaultOn ((p.returned c on t).returnJudged c on t) c kind := h.of_returned hc
  rw [← hjudged, ← hdue, ← hret]
  generalize p.returned c on t = q at *
  refine ⟨?_, fun k hk hne => ?_, fun hj hlate hboth => ?_, fun hj hyoung hon hboth => ?_, fun hnot off ho => ?_⟩
  · rw [hsame.gs c hc, hself]
  · rw [hsame.gs k hk, hother k hne]
  · exact hof 3 (Part.returnJudged_spurious hc hj hlate hhome' hboth)
  · subst hon
    exact hof 4 (Part.returnJudged_bothOn hc hj hyoung hboth)
  · have hfree : DriveFree off ∧ (off < 0x160018 ∨ 0x160020 ≤ off) := by
      simp only [List.mem_cons, List.not_mem_nil, or_false] at ho
      rcases ho with rfl | rfl
      · simp only [DriveFree, Reg.GATE_CHSTAT]
        omega
      · decide
    rw [(Part.returnJudged_unjudged hnot).reg off hfree.1, hreg off hfree.2]

end

/-! Timeouts and pads. -/

theorem Part.gateTimeout_due (hj : p.faultsJudged c = true) (hdue : p.faultDue c ≤ t) (hne : p.gs c ≠ p.gt c)
    (hshown : c ∉ p.pwm.shown) : p.gateTimeout c t = (p.at t).gateFault c (if p.gt c then 1 else 2) t := by
  obtain ⟨hcheck, hsto⟩ := Part.faultsJudged_iff.1 hj
  refine if_neg ?_
  change ¬ (!p.chanChecked c || p.stoHold || decide (t < p.faultDue c) || decide (p.gs c = p.gt c) ||
    p.pwm.shown.contains c) = true
  simp [hcheck, hsto, hdue, hne, hshown]

theorem Part.gateTimeout_idle (h : p.faultsJudged c = false ∨ t < p.faultDue c ∨ p.gs c = p.gt c ∨ c ∈ p.pwm.shown) :
    p.gateTimeout c t = p.at t := by
  refine if_pos ?_
  change (!p.chanChecked c || p.stoHold || decide (t < p.faultDue c) || decide (p.gs c = p.gt c) ||
    p.pwm.shown.contains c) = true
  rcases h with h | h | h | h
  · simp only [Part.faultsJudged, Bool.and_eq_false_iff, Bool.not_eq_false'] at h
    rcases h with h | h <;> simp [h]
  all_goals simp [h]

/-- The part once the readback of a pad is noted. -/
def Part.padNoted (p : Part) (c : Nat) (bad : Bool) (t : Instant) : Part :=
  let others := p.pwm.padBad.filter (fun x => x ≠ c)
  { p.at t with pwm := { p.pwm with padBad := if bad then c :: others else others } }

/-- The part whose pad fault is listed with its time. -/
def Part.padListed (p : Part) (c : Nat) (t : Instant) (x : HealthState) : Part :=
  { p with health := { x with padAt := (c, t) :: x.padAt } }

theorem Part.padFault_judged (hcheck : p.chanChecked c = true) (hr : p.replaced c = false) :
    p.padFault c true t = ((p.padNoted c true t).gateFault c 5 t).padListed c t (p.padNoted c true t).health := by
  refine if_pos ?_
  change (true && p.chanChecked c && !p.replaced c) = true
  rw [hcheck, hr]
  rfl

theorem Part.padFault_unjudged {bad : Bool} (h : bad = false ∨ p.chanChecked c = false ∨ p.replaced c = true) :
    p.padFault c bad t = p.padNoted c bad t := by
  refine if_neg ?_
  change ¬ (bad && p.chanChecked c && !p.replaced c) = true
  rcases h with h | h | h <;> simp [h]

theorem Part.mem_padNoted {bad : Bool} : c ∈ (p.padNoted c bad t).pwm.padBad ↔ bad = true := by
  cases bad <;> simp [Part.padNoted]

theorem Part.regs_padNoted {bad : Bool} : (p.padNoted c bad t).regs = p.regs := rfl

theorem Part.FaultOn.padListed {kind : Nat} {x : HealthState} (h : b.FaultOn q c kind) : b.FaultOn (q.padListed c t x) c kind := h

theorem Part.FaultOn.of_padNoted {bad : Bool} {kind : Nat} (h : (p.padNoted c bad t).FaultOn q c kind) : p.FaultOn q c kind := h

end

end Sys2Proof.Machine
end

section
/-! PROOFS. The clears of a leg's latch (R217), and the settlement of the gate faults. -/

namespace Sys2Proof.Machine

/-! Clears. -/

section
variable {p : Part} {l : Nat} {t : Instant}

theorem setPositions_single (l : Fin 24) : setPositions 24 (BitVec.ofNat 32 (2 ^ l.val)).toNat = [l.val] := by
  revert l
  decide

/-- A write of one bit of GATE_TRIPCLR. -/
theorem Part.gateTripClr_single (l : Fin 24) : p.gateTripClr (BitVec.ofNat 32 (2 ^ l.val)) t = (p.at t).tripClear t l := by
  rw [Part.gateTripClr, setPositions_single]
  rfl

theorem Part.tripClear_unlatched (h : p.latched l = false) : p.tripClear t l = p := if_pos (by rw [h]; rfl)

theorem Part.tripClear_refused (h : p.latched l = true) (hstands : p.tripStands l t = true) :
    p.tripClear t l = p.setFld Reg.GATE_CLRREF l 1 1 := (if_neg (by rw [h]; decide)).trans (if_pos hstands)

/-- The part whose clear of a leg was accepted. -/
def Part.clearTaken (p : Part) (l : Nat) : Part := p.setBit Reg.GATE_CLRREF l false

theorem Part.reg_clearTaken {off : Nat} (h : off ≠ Reg.GATE_CLRREF) : (p.clearTaken l).reg off = p.reg off := by
  rw [Part.clearTaken, Part.reg_setBit, if_neg h]

theorem Part.tb_clearTaken (g : Grp) : (p.clearTaken l).tb g = p.tb g := rfl

theorem Part.latched_clearTaken (k : Nat) : (p.clearTaken l).latched k = p.latched k := by
  rw [Part.latched, Part.bit, Part.reg_clearTaken (by decide), ← Part.bit, ← Part.latched]

theorem Part.tbRuns_clearTaken (g : Grp) : (p.clearTaken l).tbRuns g = p.tbRuns g := by
  rw [Part.tbRuns, Part.bit, Part.reg_clearTaken (by cases g <;> decide), ← Part.bit, ← Part.tbRuns]

theorem Part.legGrp_clearTaken (hl : l < 24) : (p.clearTaken l).legGrp l = p.legGrp l := by
  have hP0 : (p.clearTaken l).legP0 l = p.legP0 l := by
    rw [Part.legP0, Part.fld, Part.reg_clearTaken (by unfold Reg.PWM_LEGCFG Reg.GATE_CLRREF; omega), ← Part.fld, ← Part.legP0]
  have hlt := p.legP0_lt l
  unfold Part.legGrp Part.pairGrp Part.bit
  rw [hP0, Part.reg_clearTaken (by unfold Reg.PWM_PCFG Reg.GATE_CLRREF; omega)]

theorem Part.nextBoundary_clearTaken (g : Grp) : (p.clearTaken l).nextBoundary g = p.nextBoundary g := by
  have hper : (p.clearTaken l).period g = p.period g := by
    unfold Part.period
    rw [Part.reg_clearTaken (by cases g <;> decide), Part.reg_clearTaken (by cases g <;> decide)]
  unfold Part.nextBoundary Part.updateAt
  rw [hper, Part.tb_clearTaken]

theorem Part.tripClear_taken (hl : l < 24) (h : p.latched l = true) (hstands : p.tripStands l t = false) : p.tripClear t l =
    if p.tbRuns (p.legGrp l) then
      (p.clearTaken l).setLeg l { p.leg l with clearing := some (p.nextBoundary (p.legGrp l)) }
    else (p.clearTaken l).unlatchLeg t l := by
  rw [← Part.tbRuns_clearTaken (l := l), ← Part.nextBoundary_clearTaken (l := l), ← Part.legGrp_clearTaken hl]
  exact (if_neg (by rw [h]; decide)).trans (if_neg (by rw [hstands]; decide))

/-- A leg that is cleared is latched no more, and its GATE_SOFT falls; other latches stay. -/
theorem Part.unlatchLeg_spec (p : Part) (t : Instant) (hl : l < 24) : (p.unlatchLeg t l).latched l = false ∧
    (p.unlatchLeg t l).bit Reg.GATE_SOFTOUT l = false ∧ ((p.unlatchLeg t l).leg l).clearing = (p.leg l).clearing ∧
    ∀ k, k ≠ l → (p.unlatchLeg t l).latched k = p.latched k := by
  have h : (p.unlatchLeg t l).Driven ((p.setBit Reg.GATE_LATCH l false).setBit Reg.GATE_SOFTOUT l false) :=
    (Part.Driven.refl _).evalLeg hl
  have hlatch (k : Nat) : (p.unlatchLeg t l).latched k = if k = l then false else p.latched k := by
    rw [h.latched, Part.latched, Part.bit_setBit_ne _ _ (by decide), Part.bit_setBit _ _ (by omega), ← Part.latched]
  refine ⟨(hlatch l).trans (if_pos rfl), ?_, h.clearing l, fun k hk => (hlatch k).trans (if_neg hk)⟩
  rw [h.bit (by decide)]
  exact Part.bit_setBit_same _ _ _ _ (by omega)

/-- A clear of a leg whose timebase runs waits for the next boundary. -/
theorem Part.tripClear_waits (hl : l < 24) (h : p.latched l = true) (hstands : p.tripStands l t = false)
    (hruns : p.tbRuns (p.legGrp l) = true) :
    (p.tripClear t l).bit Reg.GATE_CLRREF l = false ∧ (p.tripClear t l).latched l = true ∧
      ((p.tripClear t l).leg l).clearing = some (p.nextBoundary (p.legGrp l)) ∧ RegsBut p (p.tripClear t l) [Reg.GATE_CLRREF] := by
  rw [Part.tripClear_taken hl h hstands, if_pos hruns, Part.leg_setLeg_same _ hl]
  refine ⟨Part.bit_setBit_same _ _ _ _ (by omega), ?_, rfl, fun off ho => Part.reg_clearTaken (by simpa using ho)⟩
  exact (Part.latched_clearTaken (p := p) l).trans h

/-- A clear of a leg whose timebase stands still takes effect at once. -/
theorem Part.tripClear_atOnce (hl : l < 24) (h : p.latched l = true) (hstands : p.tripStands l t = false)
    (hruns : p.tbRuns (p.legGrp l) = false) :
    (p.tripClear t l).latched l = false ∧ (p.tripClear t l).bit Reg.GATE_SOFTOUT l = false ∧
      ∀ k, k ≠ l → (p.tripClear t l).latched k = p.latched k := by
  obtain ⟨hlatch, hsoft, -, hothers⟩ := (p.clearTaken l).unlatchLeg_spec t hl
  rw [Part.tripClear_taken hl h hstands, if_neg (by rw [hruns]; decide)]
  exact ⟨hlatch, hsoft, fun k hk => (hothers k hk).trans (Part.latched_clearTaken k)⟩

/-- An accepted clear whose boundary has come. -/
theorem Part.latchClear_due {b : Instant} (hb : (p.leg l).clearing = some b) (hdue : b ≤ t) :
    p.latchClear l t = ((p.at t).setLeg l { p.leg l with clearing := none }).unlatchLeg t l := by
  unfold Part.latchClear
  dsimp only
  change (match (p.leg l).clearing with | some b => _ | none => _) = _
  rw [hb]
  exact if_pos hdue

theorem Part.latchClear_idle (h : ∀ b, (p.leg l).clearing = some b → t < b) : p.latchClear l t = p.at t := by
  unfold Part.latchClear
  dsimp only
  split
  next b hb => exact if_neg (Nat.not_le.2 (h b hb))
  · rfl

theorem Part.latchClear_spec (hl : l < 24) {b : Instant} (hb : (p.leg l).clearing = some b) (hdue : b ≤ t) :
    (p.latchClear l t).latched l = false ∧ (p.latchClear l t).bit Reg.GATE_SOFTOUT l = false ∧
      ((p.latchClear l t).leg l).clearing = none ∧ ∀ k, k ≠ l → (p.latchClear l t).latched k = p.latched k := by
  obtain ⟨hlatch, hsoft, hclear, hothers⟩ := ((p.at t).setLeg l { p.leg l with clearing := none }).unlatchLeg_spec t hl
  rw [Part.latchClear_due hb hdue]
  refine ⟨hlatch, hsoft, hclear.trans ?_, hothers⟩
  rw [Part.leg_setLeg_same _ hl]

end

/-! The rows. -/

section
variable {s : State} (halive : s.part.alive = true)
include halive

theorem does_gsReturn_changed {c : Fin 56} {level on : Bool} {t : Instant} (hon : on = xor level (s.part.bit (Reg.GATE_CCFG c) 30))
    (hne : s.part.gs c ≠ on) (hhome : s.part.chanHome c < 48) : Does (.gsReturn c level t) s (fun p =>
      p.gs c = on ∧ (∀ k < 56, k ≠ c.val → p.gs k = s.part.gs k) ∧
      (s.part.faultsJudged c = true → s.part.faultDue c < t → (on = false ∨ s.part.ret (s.part.chanPartner c) = false) →
        s.part.FaultOn p c 3) ∧
      (s.part.faultsJudged c = true → t ≤ s.part.faultDue c → on = true → s.part.ret (s.part.chanPartner c) = true →
        s.part.FaultOn p c 4) ∧
      ((s.part.faultsJudged c = false ∨ (t ≤ s.part.faultDue c ∧ (on = false ∨ s.part.ret (s.part.chanPartner c) = false))) →
        ∀ off ∈ [Reg.GATE_CHSTAT c, Reg.GATE_LATCH], p.reg off = s.part.reg off)) := by
  refine Does.of_run (exec_gsReturn c level t s) halive ?_
  rw [Part.gsReturn_changed (hon ▸ hne), ← hon]
  exact Part.returned_judged (p := s.part.at t) c.isLt hhome

theorem does_gateTimeout_due {c : Fin 56} {t : Instant} (hj : s.part.faultsJudged c = true) (hdue : s.part.faultDue c ≤ t)
    (hne : s.part.gs c ≠ s.part.gt c) (hshown : c.val ∉ s.part.pwm.shown) :
    Does (.gateTimeout c t) s (fun p => s.part.FaultOn p c (if s.part.gt c then 1 else 2)) := by
  refine Does.of_run (exec_gateTimeout c t s) halive ?_
  rw [Part.gateTimeout_due hj hdue hne hshown]
  exact (s.part.at t).faultOn_gateFault t c.isLt (by split <;> decide)

theorem does_padFault_judged {c : Fin 56} {t : Instant} (hcheck : s.part.chanChecked c = true) (hr : s.part.replaced c = false) :
    Does (.padFault c true t) s (fun p => s.part.FaultOn p c 5 ∧ c.val ∈ p.pwm.padBad) := by
  refine Does.of_run (exec_padFault c true t s) halive ?_
  rw [Part.padFault_judged hcheck hr]
  have hfault := (s.part.padNoted c true t).faultOn_gateFault t c.isLt (kind := 5) (by decide)
  have hpads : ((s.part.padNoted c true t).gateFault c 5 t).pwm.padBad = _ := (Part.gateFault_keeps c.isLt).2
  generalize (s.part.padNoted c true t).gateFault c 5 t = q at *
  exact ⟨hfault.of_padNoted.padListed, hpads ▸ Part.mem_padNoted.2 rfl⟩

theorem does_padFault_unjudged {c : Fin 56} {bad : Bool} {t : Instant}
    (h : bad = false ∨ s.part.chanChecked c = false ∨ s.part.replaced c = true) :
    Does (.padFault c bad t) s (fun p => (c.val ∈ p.pwm.padBad ↔ bad = true) ∧ p.regs = s.part.regs) := by
  refine Does.of_run (exec_padFault c bad t s) halive ?_
  rw [Part.padFault_unjudged h]
  exact ⟨Part.mem_padNoted, Part.regs_padNoted⟩

/-- One bit of a write of GATE_TRIPCLR. -/
theorem does_gateTripclr (l : Fin 24) (t : Instant) {P : Part → Prop} (hP : P ((s.part.at t).tripClear t l)) :
    Does (.gateTripclr (BitVec.ofNat 32 (2 ^ l.val)) t) s P := by
  refine Does.of_run (exec_gateTripclr _ t s) halive ?_
  rw [Part.gateTripClr_single]
  exact hP

end

theorem Part.faultsJudged_false_iff {p : Part} {c : Nat} :
    p.faultsJudged c = false ↔ ¬ (p.chanChecked c = true ∧ p.stoHold = false) := by
  rw [← Part.faultsJudged_iff, Bool.not_eq_true]

/-- Settles O30, by what a gate fault keeps and by the cases of each row. -/
theorem gateFaults : Obligations.GateFaults := by
  unfold Obligations.GateFaults
  refine ⟨fun c t s halive => ?faults, fun l t s halive => ?clears, fun v s halive => ?rearm⟩
  case faults =>
    intro st judged old partner both faulted
    refine ⟨fun level => ?returns,
      fun hj hdue hne hshown => does_gateTimeout_due halive (Part.faultsJudged_iff.2 hj) hdue hne hshown,
      fun hnot => Does.of_run (exec_gateTimeout c t s) halive (Part.gateTimeout_idle (hnot.imp_left Part.faultsJudged_false_iff.2)),
      fun hcheck hr => does_padFault_judged halive hcheck hr,
      fun hnot => (does_padFault_unjudged halive (.inr hnot)).imp fun p ⟨hpad, hregs⟩ => ⟨hpad.2 rfl, hregs⟩,
      (does_padFault_unjudged halive (.inl rfl)).imp fun p ⟨hpad, hregs⟩ => ⟨fun h => absurd (hpad.1 h) (by decide), hregs⟩⟩
    case returns =>
      intro on
      refine ⟨fun hsame => Does.of_run (exec_gsReturn c level t s) halive (Part.gsReturn_same hsame),
        fun hne hhome => (does_gsReturn_changed halive rfl hne hhome).imp ?_⟩
      rintro p ⟨hgs, hothers, hspurious, hbothOn, hnone⟩
      refine ⟨hgs, hothers, fun hj hlate hb => hspurious (Part.faultsJudged_iff.2 hj) hlate (hb.imp_right Bool.eq_false_iff.2),
        fun hj hyoung hon hb => hbothOn (Part.faultsJudged_iff.2 hj) hyoung hon hb, fun hnot => ?_⟩
      have hregs := hnone (hnot.imp Part.faultsJudged_false_iff.2 (fun ⟨hyoung, hb⟩ => ⟨hyoung, hb.imp_right Bool.eq_false_iff.2⟩))
      exact ⟨hregs (Reg.GATE_CHSTAT c) (by simp), hregs Reg.GATE_LATCH (by simp)⟩
  case clears =>
    intro v g
    refine ⟨fun h => does_gateTripclr halive l t (Part.tripClear_unlatched h),
      fun h hstands => does_gateTripclr halive l t (Part.tripClear_refused h hstands),
      fun h hstands hruns => does_gateTripclr halive l t (Part.tripClear_waits (p := s.part.at t) l.isLt h hstands hruns),
      fun h hstands hruns => does_gateTripclr halive l t ?atOnce,
      fun b hb hdue => Does.of_run (exec_tripLatchClear l t s) halive ?due,
      fun hnot => Does.of_run (exec_tripLatchClear l t s) halive (Part.latchClear_idle hnot)⟩
    case atOnce =>
      obtain ⟨hlatch, hsoft, hothers⟩ := Part.tripClear_atOnce (p := s.part.at t) l.isLt h hstands hruns
      exact ⟨hlatch, hsoft, fun k _ hk => hothers k hk⟩
    case due =>
      obtain ⟨hlatch, hsoft, hclear, hothers⟩ := Part.latchClear_spec l.isLt hb hdue
      exact ⟨hlatch, hsoft, hclear, fun k _ hk => hothers k hk⟩
  case rearm => exact Does.of_run (exec_gateFrearm v s) halive rfl

end Sys2Proof.Machine
end
